-- ==== Sys2Proof/Word.lean ====
section
/-! DEFINITION. The word types of the device (R5): bytes, 32-bit register words, 64-bit quantities. -/

namespace Sys2Proof

/-- One byte of memory. -/
abbrev Byte := BitVec 8
/-- One 32-bit register or data word. -/
abbrev Word := BitVec 32
/-- One 64-bit quantity: an x register, a timestamp, a command operand. -/
abbrev DWord := BitVec 64

end Sys2Proof
end

