-- ==== Sys2Proof/Syntax.lean ====
section
/-! DEFINITION. The commands of the block: one constructor per row of spec/opcode_table.json, in the table's order.
The table gives no operand fields; the operands here are the model's own choice (log 6). An index of a unit is a `Fin`,
so that no command can name a unit that does not exist. -/

namespace Sys2Proof

/-- Who makes a register or memory access (Table 1-3 gives each one's source number). -/
inductive Origin
  | host (port : Fin 2)     -- a host through a PCIe port
  | sideband                -- the sideband SPI port
  | mgmt                    -- the active management controller
  | core (c : Fin 1536)     -- a core's control processor, global core number
  | dma (e : Fin 96)        -- a DMA engine, ENG number
  deriving DecidableEq, Repr

/-- A command in a queue: its queue and the free-running count of its first slot (R231). -/
structure CmdRef where
  q : Fin 65536
  i : Word
  deriving DecidableEq, Repr

/-- A host access through a bulk path (R32, R33): its bytes are in memory order; `ep` is the EP bit of a write (R35). -/
inductive BulkOp
  | read (len : Nat)
  | write (bytes : List Byte) (ep : Bool)
  deriving DecidableEq, Repr

/-- A host access to BAR2: a read, or a write that may carry the EP bit (R31, R35). -/
inductive BarOp
  | read
  | write (ep : Bool)
  deriving DecidableEq, Repr

/-- Lanes of a PCIe link (Table 1-10). -/
inductive PciLanes
  | x4 | x8 | x16
  deriving DecidableEq, Repr

/-- Scalar access sizes (R89). -/
inductive MemSize
  | b1 | b2 | b4 | b8
  deriving DecidableEq, Repr

/-- What a write to register space carries: a value of 1, 2, 4 or 8 bytes, or the words of a PCIe request longer than 8 bytes,
none where the byte enables of a word are not all set (R372). -/
inductive RegWr
  | one (v : DWord)
  | burst (words : List (Option Word))
  deriving DecidableEq, Repr

/-- The length of a read of register space: 1, 2, 4 or 8 bytes, or the words of a longer PCIe request (R372). -/
inductive RegLen
  | one (size : MemSize)
  | burst (words : Nat)
  deriving DecidableEq, Repr

/-- The A extension's operations (R89). -/
inductive AmoOp
  | lr | sc | swap | add | xor | and | or | min | max | minu | maxu
  deriving DecidableEq, Repr

/-- The operand fields of a tensor instruction word (R95): descriptor-register numbers and funct7. -/
structure RType where
  rd : Fin 32
  rs1 : Fin 32
  rs2 : Fin 32
  f7 : BitVec 7
  deriving DecidableEq, Repr

/-- The three tensor pipes (R92). -/
inductive Pipe
  | ls | matrix | vector
  deriving DecidableEq, Repr

/-- A page of the GAL or HBM block (R177): a Gallery die or an HBM stack. -/
inductive EccPage
  | gal (n : Fin 8)
  | hbm (s : Fin 12)
  deriving DecidableEq, Repr

/-- A patrol scrubber (R172): one per Gallery die, one per HBM controller. -/
inductive Scrubber
  | gal (n : Fin 8)
  | hbm (ctrl : Fin 24)
  deriving DecidableEq, Repr

/-- A unit that acknowledges a MODE command (R245). -/
inductive ModeUnit
  | queueManager (hub : Fin 2)
  | trowel (e : Fin 10)
  | lantern (hub : Fin 2)
  | monitor (die : Fin 20)
  deriving DecidableEq, Repr

/-- A unit that Lantern wakes (R320). -/
inductive WakeUnit
  | core (c : Fin 1536)
  | bank (die : Fin 8) (col : Fin 192) (bank : Fin 8)
  | die (d : Fin 8)
  deriving DecidableEq, Repr

/-- One record of the group all-reduce of an EPOCH (R260), as another member sends it. -/
structure EpochRecord where
  rank : Nat            -- rank of the member in the group
  status : Word         -- its status word (Table 11-7)
  epoch : Word          -- its EPOCH value
  sl : Word             -- its SL, FP32
  sg : Word             -- its SG, FP32
  proposal : DWord      -- its D + COL_EP_LEAD
  deriving DecidableEq, Repr

/-- What the FEC makes of a flit's codeword (R289). -/
inductive Fec
  | good | corrected | bad
  deriving DecidableEq, Repr

/-- The header of a received flit (Table 12-5); of a message, that of its first flit. -/
structure FlitHdr where
  vc : Fin 8
  last : Bool
  seq : BitVec 12
  poison : Bool
  ack : BitVec 12
  cvc : Fin 8
  credits : BitVec 8
  dest : BitVec 16
  src : BitVec 16
  crcOk : Bool          -- the flit passed its CRC
  fec : Fec
  deriving DecidableEq, Repr

/-- What arrives on a port: a flit, or the message that it begins. -/
structure Rx where
  port : Fin 24
  hdr : FlitHdr
  deriving DecidableEq, Repr

/-- The bytes of a message, and what of them is poisoned beside the flit that the header is of: the numbers of later flits with
POISON, or for a PULL the 64-byte granules of the range that the peer marked. -/
structure Body where
  bytes : List Byte
  poisoned : List Nat
  deriving DecidableEq, Repr

/-- The message header that begins a DATA message (Table 12-6): the receiver's group and partition, stage, OP, half, number
and offset; with it the sender's rank in the group, and the FLAGS and n of its command, which R275 has members compare
(log 16). -/
structure MsgHdr where
  group : Fin 64
  part : Fin 8
  stage : BitVec 4
  op : BitVec 4
  half : Bool
  number : Word
  off : DWord
  rank : Nat
  flags : Word
  n : Nat
  deriving DecidableEq, Repr

/-- The payload of a HELLO flit (Table 12-8). -/
structure Hello where
  serial : DWord
  coord : BitVec 16
  port : BitVec 5
  switch : Bool
  version : Byte
  deriving DecidableEq, Repr

/-- What a PMBus poll finds on one rail (R328). -/
inductive RailState
  | ok (mv : BitVec 16) (cur : BitVec 16)
  | fault (mv : BitVec 16) (cur : BitVec 16)   -- over-current, over-voltage or under-voltage
  | noReply
  deriving DecidableEq, Repr

/-- What boot training finds (R337, R118, R228, R329). -/
structure TrainResult where
  hbmFailed : List (Fin 12)
  sumpFailed : List (Fin 16)
  noRepair : Bool              -- an HBM repair found no resource left (Table 13-6)
  coreFailed : List (Fin 1536) -- cores whose self-test failed
  spareFailed : List (Fin 8 × Fin 8) -- spares whose self-test failed: die and slot of its pool
  ages : List (Fin 96 × BitVec 16 × BitVec 8) -- per cluster: slowdown in 0.01 %, guard band in mV that the slack asks for
  deriving DecidableEq, Repr

/-- Why the management controller fences a compute die (Table 13-2). -/
inductive FenceCause
  | router      -- an uncorrectable error inside the mesh router
  | noSpare     -- a core hardware fault with no healthy spare left
  | galleryUe   -- uncorrectable errors at as many granules of its Gallery as the image allows
  | domain      -- a power or clock domain fault of the die
  deriving DecidableEq, Repr

/-- A fence of a compute die: which one, and why. -/
structure FenceReq where
  die : Fin 8
  why : FenceCause
  deriving DecidableEq, Repr

/-- A withdrawal: its cause, and the HBM controller that failed, if one did (R306). -/
structure Withdrawal where
  cause : Fin 9
  ctrl : Option (Fin 24)
  deriving DecidableEq, Repr

/-- A word that a host writes, and whether it comes with EP (R35). -/
structure EpWord where
  word : Word
  ep : Bool
  deriving DecidableEq, Repr

/-- How a reference clock's monitor window ended (R318). -/
structure ClkWindow where
  glitches : Nat        -- periods more than 1 % from nominal
  ppm : Int             -- mean rate offset from the rate measured at boot
  deriving DecidableEq, Repr

/-- The commands: one constructor per row of the table, in the table's order. -/
inductive Instr
  -- host interface (01)
  | doorbell (o : Origin) (q : Fin 65536) (tail : Word) (ep : Bool)
  | bar2OtherWrite (p : Fin 2) (off : BitVec 22) (width : BitVec 8) (a : BarOp)
  | bulkDataPortAccess (p : Fin 2) (a : BulkOp)
  | bulkApertureAccess (p : Fin 2) (off : BitVec 26) (a : BulkOp) -- any offset of BAR4 (Table 1-12)
  | pcieLinkDown (p : Fin 2)
  | pcieLinkUp (p : Fin 2) (gen : Fin 6) (lanes : PciLanes) (flit : Bool) -- gen 0 to 5 for 2.5 to 64 GT/s
  | pcieFunctionReset (p : Fin 2)
  | msixUnmask (p : Fin 2) (vec : Fin 2048) (addr : DWord) (data : EpWord) -- the entry as the host has written it
  | hostReadTimeout (p : Fin 2) (addr : BitVec 48)
  | unsupportedRequest (p : Fin 2) (addr : DWord)
  -- media (02)
  | init (c : CmdRef)
  | decode (c : CmdRef)
  | encode (c : CmdRef)
  | flush (c : CmdRef)
  | close (c : CmdRef)
  | entropyParseFrame (m : Fin 2) (engine : Fin 4) (ctx : Fin 1024)
  | pixelFrameEnd (m : Fin 2) (engine : Fin 4)
  | vcdKeyreq (o : Origin) (m : Fin 2) (v : Word)
  | warp (c : CmdRef)
  | scan (c : CmdRef)
  | cacheStore (c : CmdRef)
  | cacheLoad (c : CmdRef)
  | inpCacheEnable (o : Origin) (part : Fin 8) (v : Word)
  | inpCacheDisable (o : Origin) (part : Fin 8) (v : Word)
  | inpCacheInvalidate (part : Fin 8)
  -- cores (04)
  | coreLaunchStart (c : Fin 1536)
  | scalarLoad (c : Fin 1536) (rd : Fin 32) (addr : DWord) (size : MemSize) (signed : Bool)
  | scalarStore (c : Fin 1536) (addr : DWord) (size : MemSize) (v : DWord)
  | atomic (c : Fin 1536) (op : AmoOp) (rd : Fin 32) (addr : DWord) (double : Bool) (v : DWord)
  | ecall (c : Fin 1536)
  | ebreak (c : Fin 1536)
  | fenceI (c : Fin 1536)
  | csrWrite (c : Fin 1536) (csr : BitVec 12) (v : DWord)
  | tdld (c : Fin 1536) (td : Fin 32) (addr : DWord)
  | tdbase (c : Fin 1536) (td : Fin 32) (base : DWord)
  | tdsize (c : Fin 1536) (td : Fin 32) (k : Fin 8) (size : DWord)
  | tload (c : Fin 1536) (f : RType)
  | tstore (c : Fin 1536) (f : RType)
  | tmma (c : Fin 1536) (f : RType)
  | tconv (c : Fin 1536) (f : RType)
  | tvec (c : Fin 1536) (f : RType)
  | tred (c : Fin 1536) (f : RType)
  | tsoft (c : Fin 1536) (f : RType)
  | tseg (c : Fin 1536) (f : RType)
  | tsort (c : Fin 1536) (f : RType)
  | tgather (c : Fin 1536) (f : RType)
  | tscatter (c : Fin 1536) (f : RType)
  | tscatteradd (c : Fin 1536) (f : RType)
  | tensorInstructionStart (c : Fin 1536) (p : Pipe)
  | tensorInstructionComplete (c : Fin 1536) (p : Pipe)
  | coreExceptionEnd (c : Fin 1536)
  | tsyncPipe (c : Fin 1536) (mask : BitVec 3)
  | tsyncMem (c : Fin 1536)
  | tsyncTile (c : Fin 1536) (rd : Fin 32)
  | tsyncEnd (c : Fin 1536)
  -- tiles (05), core retirement (04) and fences (13)
  | tileRetire (c : Fin 1536)
  | multicastClose (hub : Fin 2) (slot : Fin 256) (group : Nat)
  | multicastComplete (hub : Fin 2) (slot : Fin 256) (group : Nat)
  | coreRetire (c : Fin 1536)
  | coreHwFault (c : Fin 1536)
  | dieFence (f : FenceReq)
  | routerDrainEnd (d : Fin 8)
  | coreRestart (hub : Fin 2) (slot : Fin 256)
  | stripeStageStart (hub : Fin 2) (slot : Fin 256)
  | stripeStageDone (hub : Fin 2) (slot : Fin 256)
  -- KV (06)
  | kvopen (c : CmdRef)
  | kvappend (c : CmdRef)
  | kvtrim (c : CmdRef)
  | kvclose (c : CmdRef)
  | kvFrameRelease (c : CmdRef)
  | kvFill (c : Fin 1536)
  | dmaKvEnable (o : Origin) (part : Fin 8) (v : Word)
  | dmaKvDisable (o : Origin) (part : Fin 8) (v : Word)
  | dmaKvDisableEnd (part : Fin 8)
  -- Gallery and HBM (07)
  | galleryBankRetain (d : Fin 8) (col : Fin 192) (bank : Fin 8)
  | scrubPatrolRead (u : Scrubber)
  | rangeGo (o : Origin) (pg : EccPage) (v : Word)
  | scrubRangeRead (pg : EccPage)
  | ceWindowExpire (pg : EccPage)
  | ceThreshWrite (o : Origin) (pg : EccPage) (v : Word)
  | injCtl (o : Origin) (pg : EccPage) (v : Word)
  -- Trowel (08)
  | sinit (c : CmdRef)
  | trowelOpen (c : CmdRef)
  | trowelLoad (c : CmdRef)
  | save (c : CmdRef)
  | trowelKey (c : CmdRef)
  | convert (c : CmdRef)
  | trowelFree (c : CmdRef)
  | trowelOpEffect (c : CmdRef)
  | blockEncode (e : Fin 10)
  | blockDecode (e : Fin 10)
  | tableBuildStart (e : Fin 10)
  | tableBuildTimeout (e : Fin 10)
  | tableBuildDone (e : Fin 10)
  | trwEnable (o : Origin) (part : Fin 8) (v : Word)
  | trwDisable (o : Origin) (part : Fin 8) (v : Word)
  | trwDisableEnd (part : Fin 8)
  -- tiers (09)
  | alloc (c : CmdRef)
  | tierFree (c : CmdRef)
  | pin (c : CmdRef)
  | unpin (c : CmdRef)
  | prefetch (c : CmdRef)
  | demote (c : CmdRef)
  | clean (c : CmdRef)
  | discard (c : CmdRef)
  | query (c : CmdRef)
  | promotion (pg : Fin 2097152)
  | writeBack (pg : Fin 2097152)
  | drop (pg : Fin 2097152)
  | compaction (pg : Fin 2097152)
  | tierStallTimeout (part : Fin 8) (src : BitVec 16) (addr : BitVec 48) (cmd : Option CmdRef)
  | smpQuotaWrite (o : Origin) (part : Fin 8) (tier : Fin 3) (v : Word)
  -- queues and DMA (10)
  | ringFetch (q : Fin 65536)
  | commandDispatch (q : Fin 65536)
  | kernelEarlyAccept (q : Fin 65536)
  | kernel (c : CmdRef)
  | copy (c : CmdRef)
  | fill (c : CmdRef)
  | pull (c : CmdRef) (rx : Rx) (b : Body) -- the reply
  | pullServe (rx : Rx) (part : Fin 8) (addr : BitVec 48) (len : Nat)
  | dmaEngineStart (e : Fin 96)
  | wait (c : CmdRef)
  | signal (c : CmdRef)
  | mark (c : CmdRef)
  | modeRound (c : CmdRef)
  | modeTblsrc (c : CmdRef)
  | modePower (c : CmdRef)
  | modeAck (u : ModeUnit)
  | modeSwitch
  | modeTimeout
  | commandComplete (c : CmdRef)
  | queueStop (o : Origin) (q : Fin 65536)
  | queueResume (o : Origin) (q : Fin 65536)
  | queueFlush (o : Origin) (q : Fin 65536) (stop : Bool)
  | queueEnable (o : Origin) (q : Fin 65536) (v : Word)
  | queueDisable (o : Origin) (q : Fin 65536) (v : Word)
  | queueCloseEnd (q : Fin 65536)
  | qmgCntVal (o : Origin) (c : Fin 262144) (v : Word)
  | qmgCntAdd (o : Origin) (c : Fin 262144) (v : Word)
  | topPStopall (o : Origin) (part : Fin 8) (v : Word)
  | topPResume (o : Origin) (part : Fin 8) (v : Word)
  -- the training step (11)
  | epoch (c : CmdRef)
  | epochRecordReceive (rx : Rx) (r : Fin 8 × EpochRecord) -- the partition, and the record
  | epochResult (part : Fin 8)
  | epochCommit (part : Fin 8)
  | epochComplete (part : Fin 8)
  | epochTimeout (part : Fin 8)
  | colEpochSet (o : Origin) (part : Fin 8) (v : Word)
  | colEpCtlVeto (o : Origin) (part : Fin 8) (v : Word)
  | colEpCtlClear (o : Origin) (part : Fin 8) (v : Word)
  | colNsReset (o : Origin) (part : Fin 8) (v : Word)
  -- collectives and links (12)
  | allreduce (c : CmdRef)
  | allgather (c : CmdRef)
  | reducescatter (c : CmdRef)
  | broadcast (c : CmdRef)
  | permute (c : CmdRef)
  | permuteBufferCopy (c : CmdRef)
  | groupEnable (o : Origin) (part : Fin 8) (g : Fin 64) (v : Word)
  | groupDisable (o : Origin) (part : Fin 8) (g : Fin 64) (v : Word)
  | groupMemberTimeout (part : Fin 8) (g : Fin 64)
  | portTrained (p : Fin 24)
  | helloRepeat (p : Fin 24)
  | hello (p : Fin 24) (f : FlitHdr) (h : Hello)
  | heartbeatSend
  | heartbeat (p : Fin 24) (f : FlitHdr) (serial : DWord) (sigs : List (Fin 8 × Fin 64 × Word))
  | partnerLoss (coord : BitVec 16)
  | data (p : Fin 24) (f : FlitHdr) (m : MsgHdr) (b : Body)
  | ctrl (p : Fin 24) (f : FlitHdr) (msg : Nat)
  | idle (p : Fin 24) (f : FlitHdr)
  | retry (p : Fin 24) (f : FlitHdr)    -- SEQ names the first flit to be sent again
  | retrainTimeout (p : Fin 24)
  | portDown (p : Fin 24)
  | resendTimeout (p : Fin 24) (msg : Nat)
  | timeSend
  | time (p : Fin 24) (f : FlitHdr) (offset : Int)
  | ptpMessage (p : Fin 24) (offset : Int)
  | timeLockLoss
  -- withdrawal and the window for PULLs (13)
  | deviceWithdraw (w : Withdrawal)
  | colExpEnable (o : Origin) (part : Fin 8) (v : Word)
  -- clocks, power, ageing, thermal, sequencing (14, 18)
  | clkMonitorWindow (n : Fin 6) (w : ClkWindow)
  | clkEdgeTimeout (n : Fin 6)
  | clkHoldoverEnd (n : Fin 6)
  | clockGate (c : Fin 1536)
  | powerGate (c : Fin 1536)
  | nap (d : Fin 8)
  | wakeCreditRefill (r : Fin 16)
  | wakeGrant (r : Fin 16)
  | wakeComplete (u : WakeUnit)
  | powerCapAdjust (mw : Word)
  | portWake (p : Fin 24)
  | pmbusPoll (rails : List (Fin 34 × RailState))
  | replan (o : Origin) (v : Word) (hours : Word) (ages : List (Fin 96 × BitVec 16 × BitVec 8))
  | ageReplanTimer (hours : Word) (ages : List (Fin 96 × BitVec 16 × BitVec 8))
  | thermalThrottle (die : Fin 20)
  | thermtrip (die : Fin 20)
  | resetNAssert
  | resetNRelease
  | vaonLow
  | railPowerGood
  | railTimeout (r : Fin 34)
  -- boot and management (15)
  | bootRomDone
  | bootReadDone
  | bootVerifyDone (flashAnswers : Bool)
  | bootConfigDone
  | bootTrainDone (t : TrainResult)
  | layout
  | fenceDie
  | recoord
  | powerState
  | imageWrite
  | secver
  | reglist
  | ledgerRead
  | logRead
  | status
  | twinTakeover
  | password (o : Origin) (v : Word)
  | owner (o : Origin) (v : Word)
  | vendor (o : Origin) (v : Word)
  | lockClose (o : Origin) (v : Word)
  | lockAttemptEnd
  -- mailboxes, recorder, sideband (16)
  | mbxQPush (o : Origin) (ch : Fin 64) (n : Fin 2) (v : Word) (ep : Bool)
  | mbxQPop (o : Origin) (ch : Fin 64) (n : Fin 2)
  | mbxDb (o : Origin) (ch : Fin 64) (v : Word)
  | mbxDbSet (o : Origin) (ch : Fin 64) (v : Word)
  | mbxDbMask (o : Origin) (ch : Fin 64) (n : Fin 2) (v : Word)
  | mbxNotify (o : Origin) (ch : Fin 64) (n : Fin 2) (v : Word)
  | mbxLockRead (o : Origin) (ch : Fin 64)
  | mbxLockWrite (o : Origin) (ch : Fin 64) (v : Word)
  | mbxLockForce (o : Origin) (ch : Fin 64) (v : Word)
  | snapshotArm (o : Origin) (v : Word)
  | snapshotTick
  | snapshotDone
  | flowstoneProgram
  | flowstoneErase
  | opsecSave
  | flwRdSeq (o : Origin) (v : Word)
  | flowstoneFetchDone
  | setaddr (words : List Word)
  | write (words : List Word)
  | read (n : Nat) (lateAt : Option Nat)   -- words taken by the host controller; the first word whose bytes came late
  | sidebandStatus (extra : Nat)           -- complete words clocked after the status word
  | badop
  | sbCsRelease (midWord : Bool)
  -- registers (17)
  | pairLoRead (o : Origin) (off : BitVec 32)
  | pairHiRead (o : Origin) (off : BitVec 32)
  | topSeedLoWrite (o : Origin) (part : Fin 8) (v : Word)
  | topSeedHiWrite (o : Origin) (part : Fin 8) (v : Word)
  | unalignedAccess (o : Origin) (off : BitVec 32) (width : BitVec 8) (isWrite : Bool)
  | registerWrite (o : Origin) (off : BitVec 32) (size : MemSize) (a : RegWr) (ep : Bool) -- the accesses of a burst are of words
  | rcRead (o : Origin) (off : BitVec 32) (n : RegLen)
  -- rows that stand at the table's end
  | instructionFetch (c : Fin 1536)
  | priorityFlowControl (p : Fin 24) (prios : BitVec 8) (pause : Bool)
  | configurationRequest (p : Fin 2) (reg : BitVec 12) (wdata : Option Word)
  | mediaDieFault (m : Fin 2)
  | throttleRelease (die : Fin 20)
  deriving DecidableEq, Repr

end Sys2Proof
end

