-- ==== Sys2Proof/Decode.lean ====
section
/-! DEFINITION. The commands that a word spells. spec/opcode_table.json gives no row any bits, so no word spells a command
and there is nothing to encode. -/

namespace Sys2Proof

/-- The command that a word of `nbits` bits spells by the table's bits: none, because no row has bits. -/
def decodeTableWord (_nbits _w : Nat) : Option Instr := none

end Sys2Proof
end

