-- ==== Sys2Proof/Config.lean ====
section
/-! DEFINITION. What the spec leaves open: free values and functions that no proof can see into. Each is named in a log
entry. A free value that is fresh each time is applied to State's counter `free` (log 3). -/

namespace Sys2Proof.Config

/-- The code lengths that the device assigns to a histogram of the 256 byte values (R200, R217: not specified; log 12). -/
opaque codeLengths : List Nat → List Nat

/-- Which of the results within the bound of R102 EXP, RCP, RSQRT and SIGMOID (TVEC codes 0x09, 0x0A, 0x0B, 0x0E) give an FP32
value at PREC, by its bits (R102 bounds their error and does not state their bits; log 8). -/
opaque transcend : Nat → Bool → Nat → Nat

/-- Does the larger (or smaller) of two zeros of opposite sign keep the minus sign? The spec does not say (log 8). -/
opaque zeroTie : Bool → Bool

/-- The place of addition `i` in the order of a TSCATTERADD with ORD = 0, by free index (R107: not defined; log 27). -/
opaque addOrder : Nat → Nat → Nat

/-- How many output rows a TSEG that finds an unsorted id had written, by free index (R113; log 27). -/
opaque segRows : Nat → Nat

/-- A byte of a spare core's Pocket when it enters service, by free index and offset (R118: undefined; log 27). -/
opaque spareByte : Nat → Nat → Byte

/-- Is a granule of a spare core's Pocket marked poisoned when it enters service, by free index and granule (R118; log 27)? -/
opaque spareMark : Nat → Nat → Bool

/-- Does a core's cache still hold a line that it has read, by free index (R89 gives sizes, no line and no replacement; log 13)? -/
opaque lineKept : Nat → Bool

/-- What a code finds in a granule with three or more damaged symbols, by free index: modulo 3, 0 nothing, 1 a correctable
error at the symbol that the quotient names, 2 an uncorrectable one (R168 gives no choice; log 50). -/
opaque wideRead : Nat → Nat

/-- A byte of the wrong data that such a granule may return, by free index and offset (R168; log 50). -/
opaque wideByte : Nat → Nat → Byte

/-- Which of a cluster's 16 cores is its slowest, by free index (R329; log 35). -/
opaque slowestCore : Nat → Nat

/-- The MAC address of the partner or next hop towards a coordinate (R290 takes it from the partner table, whose entry of Table 12-9
has no field for it; log 17). -/
opaque nextHopMac : Nat → Nat

/-- The coordinate of the rack's time master that a PORTS section names (R296, R335; log 17). -/
opaque timeMaster : List Byte → Nat

/-- A byte of the destination of a collective that ended ABORTED, and whether it is marked, by free index and offset (R281;
log 27). -/
opaque collByte : Nat → Nat → Byte
opaque collMark : Nat → Nat → Bool

/-- The signature over a group's registers (R277: the function is not given; log 16). -/
opaque groupSig : List Word → Word

/-- A field of a step record whose value the spec does not state, by free index (R263, R272; log 36). -/
opaque stepField : Nat → Word

/-- What the ENABLE section of an image sets that no register holds (R118, R304, R335; log 45): compute dies and cores left out of
service, the number of Gallery uncorrectable errors that fences a die, and for each die the physical slots of its local cores 0
to 191 and then of its spares. -/
structure EnableInfo where
  diesOff : List Nat
  coresOff : List Nat
  fenceUes : Nat
  slots : List (List Nat)
  deriving DecidableEq, Repr, Inhabited

/-- What the bytes of an ENABLE section say of it; the spec gives no encoding (log 45). -/
opaque enableInfo : List Byte → EnableInfo

/-- The Sump channel size code (Table 9-9) that a QUOTAS section sets, modulo 4 (R228, R335; log 45). -/
opaque sumpSize : List Byte → Nat

/-- A fault of a memory cell or channel (R165 to R167, R228, R307). -/
inductive Mishap
  | none
  | symbol (granule sym : Nat)             -- a symbol of a Gallery, Pocket or HBM granule is damaged
  | onDie (granule : Nat) (fatal : Bool)   -- the on-die ECC of HBM corrects a word, or reports one that it cannot
  | link (granule : Nat)                   -- the next read of this Sump granule is beyond link ECC
  | sumpChannel (c : Nat)                  -- an LPDDR5X channel fails
  deriving DecidableEq, Repr, Inhabited

/-- What happens to the memories while the block idles for 1 ns, by free index (log 67). -/
opaque mishap : Nat → Mishap

/-- SHA-384 of a byte string, 48 bytes (FIPS 180-4 gives it, the spec names it; log 10). -/
opaque sha384 : List Byte → List Byte

/-- Does an ECDSA P-384 signature (r then s) of a digest verify under a key (X then Y)? (FIPS 186-5; log 10.) -/
opaque ecdsaOk : List Byte → List Byte → List Byte → Bool

/-- What a configuration read of a port answers, by free index (R29 names the features, no register; log 49). -/
opaque configWord : Nat → Word

/-- Where the PCI Express and the MSI-X capability stand in a port's configuration space (log 49). -/
opaque expressCap : Nat
opaque msixCap : Nat

/-- Is a later word of a descriptor that has bit 0 set taken as the START of a new one, by the four words (R352; log 41)? -/
opaque restarts : List Word → Bool

/-- Is the request at the front of the management mailbox in progress when the twin takes over, by free index (R343; log 41)? -/
opaque requestTaken : Nat → Bool

/-- A word of a nonce drawn from the random source, by free index (R346; log 19). -/
opaque nonceWord : Nat → Word

/-- The profiles of Table 2-2. -/
inductive Profile
  | hevcMain | hevcMain10 | av1Main | avcHigh | other
  deriving DecidableEq, Repr, Inhabited

/-- An error that decoding meets (R53): its bit offset in the frame, the slice or tile that it is in and the place of its block
among that one's blocks, and its kind (0 SYNTAX, 1 MISSING_REF, 2 OVERRUN). -/
structure FrameErr where
  bit : Nat
  slice : Nat
  block : Nat
  kind : Fin 3
  deriving DecidableEq, Repr, Inhabited

/-- What a standard's decoding process finds in a frame (R38 to R54): the spec leaves it to the standards (log 9). `level` is in
tenths (62 is level 6.2); `chroma` 0 is monochrome and 1 is 4:2:0; `excluded`: field or interlaced coding, an HEVC range or
scalable extension, or AVC MBAFF. `marks` is the mark of each frame buffer after the frame (0 UNUSED, 1 SHORT, 2 LONG); `refs`
the decode numbers predicted from; `outs` the decode numbers that leave for output, in order; `slices` the blocks of each slice
or tile in coding order; `errors` the errors met; `places` for each byte the slice or tile and the block that it codes; `vecs`
for each block its coded vectors (x, y, signed output-order distance, positive to an earlier reference). -/
structure FrameInfo where
  profile : Profile
  level : Nat
  chroma : Nat
  bits : Nat
  excluded : Bool
  width : Nat
  height : Nat
  number : BitVec 32
  key : Bool
  grain : Bool
  refs : List Nat
  marks : List Nat
  outs : List Nat
  slices : List (List Nat)
  errors : List FrameErr
  places : List (Nat × Nat)
  vecs : List (List (Int × Int × Int))
  deriving DecidableEq, Repr, Inhabited

/-- The length of the first complete frame of a bitstream of a standard, none where no frame is complete (log 9). -/
opaque frameLen : Nat → List Byte → Option Nat

/-- The syntax buffer chunks that a parsed frame takes (R44 bounds them; log 9). -/
opaque frameChunks : Nat → List Byte → Nat

/-- What decoding finds in the last of the frames given, which are all since INIT, with the poison marks of their bytes. -/
opaque decodeInfo : Nat → List (List (Byte × Bool)) → FrameInfo

/-- Sample `i` of plane `p` of the last frame given (R39; log 9). -/
opaque decodeSample : Nat → List (List (Byte × Bool)) → Nat → Nat → Nat

/-- A sample of a concealed block that its vector takes from between the samples of the good reference, or from outside it: by
that reference's frames, plane, index, AX and AY (R53 gives no interpolation and no extension; log 9). -/
opaque concealSample : List (List (Byte × Bool)) → Nat → Nat → Int → Int → Nat

/-- The coded bytes of the last of the frames given (source bytes and whether it is a key picture), all since INIT (R48). -/
opaque encodeBits : Nat → List (List Byte × Bool) → List Byte

/-- Is block `n` of the last of the frames given coded intra, and which of the kept frames is its reference (R48 leaves both to
the encoder; log 9)? -/
opaque encodeIntra : List (List Byte × Bool) → Nat → Bool
opaque encodeRef : List (List Byte × Bool) → Nat → Nat

/-- A luma sample, at a position in quarter pels, of the reconstruction of an earlier frame of those given, by its number (the
reconstruction, its interpolation and its extension are the standard's; log 9). -/
opaque refSample : List (List Byte × Bool) → Nat → Int → Int → Nat

/-- SATD of a block of differences (R48 names it and no transform size; log 9). -/
opaque satd : List Int → Nat

/-- The choice among candidates of equal cost at a stage of the search of a block (not specified; log 9). -/
opaque searchTie : List (List Byte × Bool) → Nat → Nat → Nat

/-- Does a candidate's quarter-pel component that lies between two integers go to the upper one (R48; log 9)? -/
opaque intPelUp : Int → Bool

/-- The entropy engine that reads a DECODE's bitstream, and the warp engine of the die that runs a WARP, by free index (not
specified; log 9, 37). -/
opaque entropyEngine : Nat → Fin 4
opaque warpEngine : Nat → Fin 4

/-- A byte of a context's state area or of a pool buffer, by free index and offset (R40, R45, R46: no layout; log 9). -/
opaque mediaByte : Nat → Nat → Byte

/-- The media die that runs a WARP or SCAN, by free index (not specified; log 37). -/
opaque mediaDie : Nat → Bool

/-- Does a coordinate that lies between two positions of 1/64 pel go to the upper one? By its FP32 bits (R56; log 37). -/
opaque pelUp : Nat → Bool

/-- The luma of an RGB sample (R56 with CH = 1 and an RGB source: not specified; log 37). -/
opaque rgbLuma : Nat → Nat → Nat → Nat

/-- FP32 arctangent, cosine and sine by FP32 bits (R58, R61; log 37). -/
opaque atanBits : Nat → Nat
opaque cosBits : Nat → Nat
opaque sinBits : Nat → Nat

/-- The grid index of a NaN coordinate (R61: not specified; log 37). -/
opaque nanGrid : Nat → Int

/-- A byte of an empty voxel entry other than its key (R62), and of a cache index entry (R64): by free index and offset. -/
opaque mediaFill : Nat → Nat → Byte

end Sys2Proof.Config
end

