-- ==== Sys2Proof/Machine/Bits.lean ====
section
/-! DEFINITION. Bit fields, byte order (R5), CRC-32 and the sparse maps in one canonical form that memory, registers and
the per-unit tables are held in. -/

namespace Sys2Proof.Machine

/-! ### Bit fields -/

/-- Field [hi:lo] of a word, as a number. -/
def fld (hi lo : Nat) (w : Word) : Nat := w.toNat / 2 ^ lo % 2 ^ (hi + 1 - lo)

/-- Bit `n` of a word. -/
def bitOf (n : Nat) (w : Word) : Bool := w.getLsbD n

/-- The word with field [hi:lo] set to `v`. -/
def setFld (hi lo : Nat) (v : Nat) (w : Word) : Word :=
  let m := BitVec.ofNat 32 ((2 ^ (hi + 1 - lo) - 1) * 2 ^ lo)
  (w &&& ~~~m) ||| (BitVec.ofNat 32 (v * 2 ^ lo) &&& m)

/-- The word with bit `n` set to `b`. -/
def setBit (n : Nat) (b : Bool) (w : Word) : Word := setFld n n b.toNat w

/-- Field [hi:lo] of a number. -/
def nfld (hi lo : Nat) (v : Nat) : Nat := v / 2 ^ lo % 2 ^ (hi + 1 - lo)

/-- A number of `n` bits read as two's complement. -/
def signed (n : Nat) (v : Nat) : Int := if v % 2 ^ n < 2 ^ (n - 1) then (v % 2 ^ n : Nat) else (v % 2 ^ n : Nat) - (2 ^ n : Nat)

/-- (a − b) taken as a signed 32-bit number is zero or more (R231, R237). -/
def reached32 (a b : Word) : Bool := !(a - b).msb

/-! ### Byte order (R5) -/

/-- `n` bytes of a number, least significant first. -/
def leBytes : Nat → Nat → List Byte
  | 0, _ => []
  | n + 1, v => BitVec.ofNat 8 v :: leBytes n (v / 256)

/-- The number that bytes spell, least significant first. -/
def ofLe : List Byte → Nat
  | [] => 0
  | b :: t => b.toNat + 256 * ofLe t

/-- `n` bytes at offset `off` of a byte list, as a number; bytes past its end are 0. -/
def leAt (l : List Byte) (off n : Nat) : Nat := ofLe ((l.drop off).take n)

/-- Bytes as 32-bit words, little-endian. -/
def bytesToWords : Nat → List Byte → List Word
  | 0, _ => []
  | n + 1, l => BitVec.ofNat 32 (leAt l 0 4) :: bytesToWords n (l.drop 4)

/-- 32-bit words as bytes, little-endian. -/
def wordsToBytes (l : List Word) : List Byte := l.flatMap (fun w => leBytes 4 w.toNat)

/-! ### CRC-32, IEEE 802.3 polynomial (Tables 9-4, 13-5, 16-2) -/

/-- One bit of the reflected CRC register. -/
def crcBit (c : Word) : Word := if c.getLsbD 0 then (c >>> 1) ^^^ 0xEDB88320#32 else c >>> 1

/-- One byte. -/
def crcByte (c : Word) (b : Byte) : Word :=
  let c := c ^^^ (b.setWidth 32)
  crcBit (crcBit (crcBit (crcBit (crcBit (crcBit (crcBit (crcBit c)))))))

/-- CRC-32 of a byte string. -/
def crc32 (l : List Byte) : Word := ~~~(l.foldl crcByte 0xFFFFFFFF#32)

/-! ### Sparse maps: keys strictly rising, no entry equal to what an unlisted key reads as -/

/-- What a map holds at key `k`; `d` is what an unlisted key reads as. -/
def sget {β : Type} (d : Nat → β) : List (Nat × β) → Nat → β
  | [], k => d k
  | (j, v) :: t, k => if k = j then v else sget d t k

/-- Drop key `k`. -/
def sdel {β : Type} (k : Nat) (m : List (Nat × β)) : List (Nat × β) := m.filter (fun e => e.1 ≠ k)

/-- Put an entry before the first larger key. -/
def sins {β : Type} (k : Nat) (v : β) : List (Nat × β) → List (Nat × β)
  | [] => [(k, v)]
  | (j, w) :: t => if k < j then (k, v) :: (j, w) :: t else (j, w) :: sins k v t

/-- Set key `k` to an entry, or drop it when `v` is none. -/
def sput {β : Type} (k : Nat) (v : Option β) (m : List (Nat × β)) : List (Nat × β) :=
  match v with
  | some v => sins k v (sdel k m)
  | none => sdel k m

/-- Write a key: writing what an unlisted key reads as drops the entry. -/
def sset {β : Type} [DecidableEq β] (d : Nat → β) (m : List (Nat × β)) (k : Nat) (v : β) : List (Nat × β) :=
  sput k (if v = d k then none else some v) m

/-- Strictly rising keys. -/
def keysRise {β : Type} : List (Nat × β) → Bool
  | [] => true
  | [_] => true
  | a :: b :: t => a.1 < b.1 && keysRise (b :: t)

/-- The canonical form of a sparse map. -/
def smapWf {β : Type} [DecidableEq β] (d : Nat → β) (m : List (Nat × β)) : Bool :=
  keysRise m && m.all (fun e => e.2 ≠ d e.1)

/-- Add a number to a strictly rising list. -/
def insNat (k : Nat) : List Nat → List Nat
  | [] => [k]
  | j :: t => if k = j then j :: t else if k < j then k :: j :: t else j :: insNat k t

/-- Drop a number. -/
def delNat (k : Nat) (l : List Nat) : List Nat := l.filter (· ≠ k)

/-- Put a number in a strictly rising list, or take it out. -/
def putNat (k : Nat) (b : Bool) (l : List Nat) : List Nat := if b then insNat k l else delNat k l

/-! ### Lists -/

/-- `List.range` from `a`, `n` numbers. -/
def rangeFrom (a n : Nat) : List Nat := (List.range n).map (a + ·)

/-- Replace every entry that `p` picks by `f` of it. -/
def mapIf {α : Type} (p : α → Bool) (f : α → α) (l : List α) : List α := l.map (fun a => if p a then f a else a)

/-- The index of a largest entry by key, the first among equals. -/
def bestBy {α : Type} (key : α → Nat) : List α → Option α
  | [] => none
  | a :: t => match bestBy key t with
    | none => some a
    | some b => if key a ≥ key b then some a else some b

/-- ⌈a / b⌉. -/
def cdiv (a b : Nat) : Nat := (a + b - 1) / b

/-- Add 1 or more to a 32-bit count that saturates at 0xFFFF_FFFF (R374). -/
def satAdd32 (w : Word) (n : Nat) : Word := BitVec.ofNat 32 (min (w.toNat + n) 0xFFFFFFFF)

end Sys2Proof.Machine
end

