-- ==== Sys2Proof/Machine/Codes.lean ====
section
/-! DEFINITION. Canonical prefix codes, assigned and packed as in RFC 1951 (R189), used by Trowel's lossless path and by the
page streams of the Sump (R217). A code set is a list of 256 lengths, 0 to 15. -/

namespace Sys2Proof.Machine

/-- Symbols of length `l`. -/
def lenCount (lens : List Nat) (l : Nat) : Nat := (lens.filter (· = l)).length

/-- The first code of length `l` (RFC 1951 assigns codes of one length in symbol order, shorter codes first). -/
def firstCode (lens : List Nat) : Nat → Nat
  | 0 => 0
  | l + 1 => (firstCode lens l + if l = 0 then 0 else lenCount lens l) * 2

/-- The code of symbol `s`. -/
def codeOf (lens : List Nat) (s : Nat) : Nat :=
  let l := lens.getD s 0
  firstCode lens l + lenCount (lens.take s) l

/-- The bits of a number, most significant of `n` first. -/
def bitsMsb (n v : Nat) : List Bool := (List.range n).map (fun i => v.testBit (n - 1 - i))

/-- The code bits of one symbol, in the order in which they are packed. -/
def symBits (lens : List Nat) (s : Nat) : List Bool := bitsMsb (lens.getD s 0) (codeOf lens s)

/-- Pack bits into bytes, least significant bit first; the last byte is padded with zeros. -/
def packBits : Nat → List Bool → List Byte
  | 0, _ => []
  | fuel + 1, l =>
    if l.isEmpty then []
    else BitVec.ofNat 8 ((l.take 8).zipIdx.map (fun e => if e.1 then 2 ^ e.2 else 0)).sum :: packBits fuel (l.drop 8)

/-- The bits of bytes, least significant first. -/
def unpackBits (l : List Byte) : List Bool := l.flatMap (fun b => (List.range 8).map b.getLsbD)

/-- Read one symbol: `l` is the number of bits taken so far and `c` the code they spell. -/
def readSym (lens : List Nat) : Nat → Nat → Nat → List Bool → Option (Nat × List Bool)
  | 0, _, _, _ => none
  | _ + 1, _, _, [] => none
  | fuel + 1, l, c, b :: t =>
    let c := 2 * c + b.toNat
    let l := l + 1
    let k := c - firstCode lens l
    if firstCode lens l ≤ c && k < lenCount lens l then
      some ((((List.range 256).filter (fun s => lens.getD s 0 = l)).getD k 0), t)
    else readSym lens fuel l c t

/-- Read `n` symbols. -/
def readSyms (lens : List Nat) : Nat → List Bool → Option (List Nat × List Bool)
  | 0, b => some ([], b)
  | n + 1, b => match readSym lens 15 0 0 b with
    | none => none
    | some (s, t) => (readSyms lens n t).map (fun r => (s :: r.1, r.2))

/-- Σ 2^−len ≤ 1 over the symbols with a code (R202). -/
def kraftOk (lens : List Nat) : Bool := (lens.map (fun l => if l = 0 then 0 else 2 ^ (15 - l))).sum ≤ 2 ^ 15

/-- The histogram of a byte string. -/
def histogram (l : List Byte) : List Nat := (List.range 256).map (fun v => (l.filter (fun b => b.toNat = v)).length)

/-- Lengths that a builder may give a histogram: every symbol seen has a length of 1 to 15, and they form a code (R200). -/
def lengthsOk (h lens : List Nat) : Bool :=
  lens.length = 256 && lens.all (· ≤ 15) && kraftOk lens && (h.zip lens).all (fun e => e.1 = 0 || e.2 ≠ 0)

/-- The lengths built from a histogram: a free value within the bounds of R200; where the free value lies outside them,
eight bits for every symbol (log 12). -/
def buildLengths (h : List Nat) : List Nat :=
  let l := Config.codeLengths h
  if lengthsOk h l then l else List.replicate 256 8

/-- A table's 128 bytes: length of symbol s in a nibble of byte s / 2 (Table 8-4). -/
def lensToBytes (lens : List Nat) : List Byte :=
  (List.range 128).map (fun i => BitVec.ofNat 8 (lens.getD (2 * i) 0 % 16 + 16 * (lens.getD (2 * i + 1) 0 % 16)))

/-- The lengths of a table's 128 bytes. -/
def bytesToLens (l : List Byte) : List Nat :=
  (List.range 256).map (fun s => (l.getD (s / 2) 0).toNat / 16 ^ (s % 2) % 16)

end Sys2Proof.Machine
end

