-- ==== Sys2Proof/Machine/Num.lean ====
section
/-! DEFINITION. Number formats and rounding (03): exact dyadic values, the fourteen formats, widening (R70), narrowing
(R71 to R73), block scales (R72), stochastic rounding (R77, R78) and FP32 arithmetic. -/

namespace Sys2Proof.Machine

/-- A number as the units compute with it: NaN, an infinity, or the exact value (−1)^neg × m × 2^e (zero keeps its sign). -/
inductive Fp
  | nan
  | inf (neg : Bool)
  | fin (neg : Bool) (m : Nat) (e : Int)
  deriving DecidableEq, Repr

/-- Positive zero. -/
def Fp.zero : Fp := .fin false 0 0
/-- A natural number. -/
def Fp.ofNat (n : Nat) : Fp := .fin false n 0
/-- An integer. -/
def Fp.ofInt (n : Int) : Fp := .fin (n < 0) n.natAbs 0
/-- 2^e. -/
def Fp.pow2 (e : Int) : Fp := .fin false 1 e
/-- Is it a NaN? -/
def Fp.isNan : Fp → Bool
  | .nan => true
  | _ => false
/-- Is it finite? -/
def Fp.isFin : Fp → Bool
  | .fin _ _ _ => true
  | _ => false
/-- Sign bit. -/
def Fp.neg? : Fp → Bool
  | .nan => false
  | .inf s => s
  | .fin s _ _ => s
/-- Is it zero? -/
def Fp.isZero : Fp → Bool
  | .fin _ m _ => m == 0
  | _ => false
/-- Magnitude. -/
def Fp.abs : Fp → Fp
  | .nan => .nan
  | .inf _ => .inf false
  | .fin _ m e => .fin false m e
/-- Negation. -/
def Fp.negate : Fp → Fp
  | .nan => .nan
  | .inf s => .inf (!s)
  | .fin s m e => .fin (!s) m e

/-- m × 2^e as an integer at exponent `q` at or below `e`. -/
def scaleTo (neg : Bool) (m : Nat) (e q : Int) : Int :=
  let n : Int := m * 2 ^ (e - q).toNat
  if neg then -n else n

/-- Exact sum; a zero sum of unlike signs is +0 and of like signs keeps the sign. -/
def Fp.add : Fp → Fp → Fp
  | .nan, _ => .nan
  | _, .nan => .nan
  | .inf a, .inf b => if a = b then .inf a else .nan
  | .inf a, _ => .inf a
  | _, .inf b => .inf b
  | .fin s m e, .fin t n f =>
    if m = 0 && n = 0 then .fin (s && t) 0 0
    else
      let q := min e f
      let v := scaleTo s m e q + scaleTo t n f q
      .fin (v < 0) v.natAbs q

/-- Exact difference. -/
def Fp.sub (a b : Fp) : Fp := a.add b.negate

/-- Exact product. -/
def Fp.mul : Fp → Fp → Fp
  | .nan, _ => .nan
  | _, .nan => .nan
  | .inf a, .inf b => .inf (a != b)
  | .inf a, .fin t n _ => if n = 0 then .nan else .inf (a != t)
  | .fin s m _, .inf b => if m = 0 then .nan else .inf (s != b)
  | .fin s m e, .fin t n f => .fin (s != t) (m * n) (e + f)

/-- a < b; false for a NaN. -/
def Fp.lt : Fp → Fp → Bool
  | .nan, _ => false
  | _, .nan => false
  | .inf a, .inf b => a && !b
  | .inf a, _ => a
  | _, .inf b => !b
  | .fin s m e, .fin t n f =>
    let q := min e f
    scaleTo s m e q < scaleTo t n f q

/-- a = b as numbers; false for a NaN. -/
def Fp.eq : Fp → Fp → Bool
  | .nan, _ => false
  | _, .nan => false
  | .inf a, .inf b => a == b
  | .inf _, _ => false
  | _, .inf _ => false
  | .fin s m e, .fin t n f =>
    let q := min e f
    scaleTo s m e q == scaleTo t n f q

/-- a ≤ b. -/
def Fp.le (a b : Fp) : Bool := a.lt b || a.eq b

/-! ### Rounding (R71, R73, R77) -/

/-- A rounding in effect: nearest even, or stochastic with the element's generator output. -/
inductive Rounding
  | nearest
  | stochastic (r : Nat)
  deriving DecidableEq, Repr

/-- m × 2^e in units of 2^q, rounded to an integer. -/
def roundMag (rn : Rounding) (m : Nat) (e q : Int) : Nat :=
  if q ≤ e then m * 2 ^ (e - q).toNat
  else
    let s := (q - e).toNat
    let lo := m / 2 ^ s
    let rem := m % 2 ^ s
    match rn with
    | .nearest => if 2 * rem > 2 ^ s || (2 * rem = 2 ^ s && lo % 2 = 1) then lo + 1 else lo
    | .stochastic r => if r < rem * 2 ^ 32 / 2 ^ s then lo + 1 else lo

/-- ⌊log2⌋ of m × 2^e, m not 0. -/
def log2Of (m : Nat) (e : Int) : Int := (Nat.log2 m : Int) + e

/-- A floating layout: exponent and mantissa bits, bias, largest finite code without sign. -/
structure FloatFmt where
  eb : Nat
  mb : Nat
  bias : Int
  maxCode : Nat
  deriving DecidableEq, Repr

/-- The exponent of the unit of a layout's subnormals. -/
def FloatFmt.qmin (f : FloatFmt) : Int := 1 - f.bias - f.mb

/-- The code, without sign, of n × 2^q, which is exact in the layout but may exceed its range. -/
def FloatFmt.pack (f : FloatFmt) (n : Nat) (q : Int) : Nat :=
  -- with q above qmin n has mb + 1 bits; each step of q adds 2^mb to the code
  if n = 0 then 0 else (q - f.qmin).toNat * 2 ^ f.mb + n

/-- Round a finite magnitude to a layout: its code without sign, which exceeds maxCode on overflow. -/
def FloatFmt.round (f : FloatFmt) (rn : Rounding) (m : Nat) (e : Int) : Nat :=
  if m = 0 then 0
  else
    let q := max (log2Of m e - f.mb) f.qmin
    f.pack (roundMag rn m e q) q

/-- The value of a finite code without sign. -/
def FloatFmt.value (f : FloatFmt) (neg : Bool) (c : Nat) : Fp :=
  let x := c / 2 ^ f.mb
  let m := c % 2 ^ f.mb
  if x = 0 then .fin neg m f.qmin else .fin neg (m + 2 ^ f.mb) (f.qmin + x - 1)

def fp32 : FloatFmt := ⟨8, 23, 127, 0x7F7FFFFF⟩
def bf16 : FloatFmt := ⟨8, 7, 127, 0x7F7F⟩
def fp16 : FloatFmt := ⟨5, 10, 15, 0x7BFF⟩
def e4m3 : FloatFmt := ⟨4, 3, 7, 0x7E⟩
def e5m2 : FloatFmt := ⟨5, 2, 15, 0x7B⟩
def e3m2 : FloatFmt := ⟨3, 2, 3, 0x1F⟩
def e2m3 : FloatFmt := ⟨2, 3, 1, 0x1F⟩
def e2m1 : FloatFmt := ⟨2, 1, 1, 0x7⟩

/-! ### Formats (Table 3-1) -/

/-- The formats. -/
inductive Fmt
  | fp32 | bf16 | fp16 | e4m3 | e5m2 | mxE4m3 | mxE5m2 | mxE3m2 | mxE2m3 | mxE2m1 | mxInt8 | int8 | int32
  deriving DecidableEq, Repr

/-- The format of a code (R68). -/
def Fmt.ofCode : Nat → Option Fmt
  | 0x00 => some .fp32 | 0x01 => some .bf16 | 0x02 => some .fp16 | 0x03 => some .e4m3 | 0x04 => some .e5m2
  | 0x10 => some .mxE4m3 | 0x11 => some .mxE5m2 | 0x12 => some .mxE3m2 | 0x13 => some .mxE2m3 | 0x14 => some .mxE2m1
  | 0x15 => some .mxInt8 | 0x20 => some .int8 | 0x21 => some .int32
  | _ => none

/-- The code of a format. -/
def Fmt.code : Fmt → Nat
  | .fp32 => 0x00 | .bf16 => 0x01 | .fp16 => 0x02 | .e4m3 => 0x03 | .e5m2 => 0x04
  | .mxE4m3 => 0x10 | .mxE5m2 => 0x11 | .mxE3m2 => 0x12 | .mxE2m3 => 0x13 | .mxE2m1 => 0x14 | .mxInt8 => 0x15
  | .int8 => 0x20 | .int32 => 0x21

/-- Bits of an element. -/
def Fmt.bits : Fmt → Nat
  | .fp32 => 32 | .bf16 => 16 | .fp16 => 16 | .e4m3 => 8 | .e5m2 => 8 | .mxE4m3 => 8 | .mxE5m2 => 8 | .mxE3m2 => 6
  | .mxE2m3 => 6 | .mxE2m1 => 4 | .mxInt8 => 8 | .int8 => 8 | .int32 => 32

/-- Is it an MX block format? -/
def Fmt.isMx : Fmt → Bool
  | .mxE4m3 => true | .mxE5m2 => true | .mxE3m2 => true | .mxE2m3 => true | .mxE2m1 => true | .mxInt8 => true
  | _ => false

/-- Is it an integer format? -/
def Fmt.isInt : Fmt → Bool
  | .int8 => true | .int32 => true | _ => false

/-- The layout of a format's elements, for the floating ones. -/
def Fmt.layout : Fmt → Option FloatFmt
  | .fp32 => some Machine.fp32 | .bf16 => some Machine.bf16 | .fp16 => some Machine.fp16
  | .e4m3 => some Machine.e4m3 | .e5m2 => some Machine.e5m2 | .mxE4m3 => some Machine.e4m3 | .mxE5m2 => some Machine.e5m2
  | .mxE3m2 => some Machine.e3m2 | .mxE2m3 => some Machine.e2m3 | .mxE2m1 => some Machine.e2m1
  | _ => none

/-- emax of R72. -/
def Fmt.emax : Fmt → Int
  | .mxE4m3 => 8 | .mxE5m2 => 15 | .mxE3m2 => 4 | .mxE2m3 => 2 | .mxE2m1 => 2 | _ => 0

/-- The value of an element code, without its block scale. -/
def Fmt.elem (f : Fmt) (c : Nat) : Fp :=
  match f with
  | .int8 => Fp.ofInt (signed 8 c)
  | .int32 => Fp.ofInt (signed 32 c)
  | .mxInt8 => match Fp.ofInt (signed 8 c) with
    | .fin s m _ => .fin s m (-6)
    | x => x
  | _ => match f.layout with
    | none => .nan
    | some l =>
      let neg := c.testBit (f.bits - 1)
      let mag := c % 2 ^ (f.bits - 1)
      if mag ≤ l.maxCode then l.value neg mag
      else match f with
        | .fp32 => if mag = 0x7F800000 then .inf neg else .nan
        | .bf16 => if mag = 0x7F80 then .inf neg else .nan
        | .fp16 => if mag = 0x7C00 then .inf neg else .nan
        | .e5m2 => if mag = 0x7C then .inf neg else .nan
        | .mxE5m2 => if mag = 0x7C then .inf neg else .nan
        | _ => .nan

/-- A flag of Table 3-2. -/
inductive ArithFlag
  | none | invalid | overflow | saturate
  deriving DecidableEq, Repr

/-- The canonical NaN of a floating format. -/
def Fmt.nanCode : Fmt → Nat
  | .fp32 => 0x7FC00000 | .bf16 => 0x7FC0 | .fp16 => 0x7E00 | .e4m3 => 0x7F | .e5m2 => 0x7E | _ => 0

/-- The infinity of a format, without sign; 0 where it has none. -/
def Fmt.infCode : Fmt → Nat
  | .fp32 => 0x7F800000 | .bf16 => 0x7F80 | .fp16 => 0x7C00 | .e5m2 => 0x7C | _ => 0

/-- Round to an integer, nearest even or stochastic. -/
def roundInt (rn : Rounding) (neg : Bool) (m : Nat) (e : Int) : Int :=
  let n := roundMag rn m e 0
  if neg then -(n : Int) else n

/-- The code of an integer saturated to [lo, hi], and whether it saturated. -/
def satInt (bits : Nat) (lo hi v : Int) : Nat × ArithFlag :=
  let c (x : Int) : Nat := (x % 2 ^ bits).toNat
  if v < lo then (c lo, .saturate) else if hi < v then (c hi, .saturate) else (c v, .none)

/-- Narrow to a format that is not an MX block format (Table 3-2). -/
def Fmt.narrow (f : Fmt) (rn : Rounding) (sat : Bool) (x : Fp) : Nat × ArithFlag :=
  let sb (neg : Bool) (c : Nat) : Nat := if neg then c + 2 ^ (f.bits - 1) else c
  match f with
  | .int8 => match x with
    | .nan => (0, .invalid)
    | .inf s => satInt 8 (-128) 127 (if s then -1000 else 1000)
    | .fin s m e => satInt 8 (-128) 127 (roundInt rn s m e)
  | .int32 => match x with
    | .nan => (0, .invalid)
    | .inf s => satInt 32 (-2147483648) 2147483647 (if s then -2 ^ 40 else 2 ^ 40)
    | .fin s m e => satInt 32 (-2147483648) 2147483647 (roundInt rn s m e)
  | _ => match f.layout with
    | none => (0, .none)
    | some l => match x with
      | .nan => (f.nanCode, .none)
      | .inf s =>
        if f = .e4m3 then (if sat then (sb s l.maxCode, .saturate) else (f.nanCode, .overflow)) else (sb s f.infCode, .none)
      | .fin s m e =>
        let c := l.round rn m e
        if c ≤ l.maxCode then (sb s c, .none)
        else if sat then (sb s l.maxCode, .saturate)
        else if f = .e4m3 then (f.nanCode, .overflow)
        else (sb s f.infCode, .overflow)

/-- Narrow one element of an MX block whose scale code is `sc` (R72). -/
def Fmt.narrowMx (f : Fmt) (rn : Rounding) (sc : Nat) (x : Fp) : Nat × ArithFlag :=
  let sb (neg : Bool) (c : Nat) : Nat := if neg then c + 2 ^ (f.bits - 1) else c
  match x with
  | .nan => (0, .none)
  | .inf s => match f.layout with
    | none => satInt 8 (-127) 127 (if s then -1000 else 1000)
    | some l => (sb s l.maxCode, .saturate)
  | .fin s m e =>
    let e := e - ((sc : Int) - 127)
    match f.layout with
    | none => satInt 8 (-127) 127 (roundInt rn s m (e + 6))
    | some l =>
      let c := l.round rn m e
      if c ≤ l.maxCode then (sb s c, .none) else (sb s l.maxCode, .saturate)

/-- The largest of two magnitudes of finite values. -/
def maxMag (a : Fp) (x : Fp) : Fp := if x.isFin && a.lt x.abs then x.abs else a

/-- The scale code of a block (R72). -/
def Fmt.scaleCode (f : Fmt) (xs : List Fp) : Nat :=
  if xs.any Fp.isNan then 0xFF
  else match xs.foldl maxMag Fp.zero with
    | .fin _ m e => if m = 0 then 0 else
      (max (-127) (min 127 (log2Of m e - f.emax)) + 127).toNat
    | _ => 0

/-! ### FP32 arithmetic -/

/-- Round an exact value to FP32, nearest even, overflow to infinity. -/
def Fp.r32 (x : Fp) : Fp :=
  match x with
  | .fin s m e =>
    let c := Machine.fp32.round .nearest m e
    if c ≤ Machine.fp32.maxCode then Machine.fp32.value s c else .inf s
  | y => y

/-- FP32 sum. -/
def Fp.add32 (a b : Fp) : Fp := (a.add b).r32
/-- FP32 difference. -/
def Fp.sub32 (a b : Fp) : Fp := (a.sub b).r32
/-- FP32 product. -/
def Fp.mul32 (a b : Fp) : Fp := (a.mul b).r32

/-- Quotient with enough bits that one rounding to FP32 is exact (a sticky bit stands for the rest). -/
def Fp.div (a b : Fp) : Fp :=
  match a, b with
  | .nan, _ => .nan
  | _, .nan => .nan
  | .inf _, .inf _ => .nan
  | .inf s, .fin t _ _ => .inf (s != t)
  | .fin s _ _, .inf t => .fin (s != t) 0 0
  | .fin s m e, .fin t n f =>
    if n = 0 then (if m = 0 then .nan else .inf (s != t))
    else
      let k := 64 + Nat.log2 n
      let q := m * 2 ^ k / n
      .fin (s != t) (2 * q + if m * 2 ^ k % n = 0 then 0 else 1) (e - f - k - 1)

/-- FP32 quotient. -/
def Fp.div32 (a b : Fp) : Fp := (a.div b).r32

/-- The FP32 bits of a value that is an FP32 value; canonical NaN for a NaN. -/
def Fp.toBits (x : Fp) : Nat := (Fmt.fp32.narrow .nearest false x).1

/-- The value of FP32 bits. -/
def Fp.ofBits (c : Nat) : Fp := Fmt.fp32.elem (c % 2 ^ 32)

/-- ⌊x⌋ of a finite value; 0 otherwise. -/
def Fp.floor : Fp → Int
  | .fin s m e => let v := scaleTo s m e (min e 0); v / 2 ^ (0 - min e 0).toNat
  | _ => 0

/-- ⌈x⌉. -/
def Fp.ceil (x : Fp) : Int := -(x.negate.floor)

/-- Rounded to the nearest integer, halves away from zero. -/
def Fp.roundAway (x : Fp) : Int :=
  let n := (x.abs.add (.fin false 1 (-1))).floor
  if x.neg? then -n else n

/-- The greatest of two values under FP32 compare, NaN losing. -/
def Fp.max (a b : Fp) : Fp := if a.lt b then b else a
/-- The least of two values. -/
def Fp.min (a b : Fp) : Fp := if b.lt a then b else a

/-! ### The generator (R78) -/

/-- mix32. -/
def mix32 (x : Word) : Word :=
  let x := x ^^^ (x >>> 16)
  let x := x * 0x9A3C5E27#32
  let x := x ^^^ (x >>> 15)
  let x := x * 0xB62F0D93#32
  x ^^^ (x >>> 16)

/-- The tile key of a seed, a command number and a rounding tile. -/
def tileKey (seed : DWord) (cmd : Word) (tile : DWord) : Word :=
  let lo (x : DWord) : Word := x.setWidth 32
  let hi (x : DWord) : Word := (x >>> 32).setWidth 32
  mix32 (lo seed ^^^ mix32 (hi seed ^^^ mix32 (cmd ^^^ mix32 (lo tile ^^^ mix32 (hi tile)))))

/-- The generator output of logical element `e`. -/
def genOut (key : Word) (e : Nat) : Nat :=
  (mix32 (key ^^^ mix32 (BitVec.ofNat 32 e ^^^ mix32 (BitVec.ofNat 32 (e / 2 ^ 32))))).toNat

end Sys2Proof.Machine
end

