-- ==== Sys2Proof/Machine/RegMap.lean ====
section
/-! DEFINITION. The register map (Table 17-9 and the register tables of each chapter): where every register lies,
what code each of its fields has (Table 17-1) and what it holds after a power cycle (R370). Offsets are from
0x3F00_0000_0000 (R27). A field of the image holds 0 until CONFIG (R370); a field the spec gives no reset value holds
0 (DESIGN CHOICE, log 1). -/

namespace Sys2Proof.Machine

/-- A register pair's kind (R373): not a pair, or the low or high word of a counter pair or of a plain pair. -/
inductive PairKind
  | single | counterLo | counterHi | plainLo | plainHi
  deriving DecidableEq, Repr

/-- One register, or one array of equal registers: its base offset, its dimensions (stride, count), its reset value and the
masks of its fields by access code. `img` marks the fields that the image sets. -/
structure RegRow where
  base : Nat
  dims : List (Nat × Nat)
  rst : Nat
  ro : Nat
  rw : Nat
  w1c : Nat
  w1s : Nat
  rc : Nat
  wo : Nat
  img : Nat
  pair : PairKind
  deriving DecidableEq, Repr

/-- TOP_ID (R377). -/
def rTopId : Nat := 0x0
/-- TOP_STATUS (R378). -/
def rTopStatus : Nat := 0x4
/-- TOP_ACCESS_ERR (R380). -/
def rTopAccessErr : Nat := 0x10
/-- TOP_ACCESS_SRC (R380). -/
def rTopAccessSrc : Nat := 0x14
/-- TOP_ACCESS_ADDR_LO (R380). -/
def rTopAccessAddrLo : Nat := 0x18
/-- TOP_ACCESS_ADDR_HI (R380). -/
def rTopAccessAddrHi : Nat := 0x1c
/-- TOP_ACCESS_COUNT (R380). -/
def rTopAccessCount : Nat := 0x20
/-- TOP_P_CTL (R379). -/
def rTopPCtl (i : Nat) : Nat := 0x800000 + 0x1000 * i
/-- TOP_P_STATUS (R379). -/
def rTopPStatus (i : Nat) : Nat := 0x800004 + 0x1000 * i
/-- TOP_P_HBMWIN (R379). -/
def rTopPHbmwin (i : Nat) : Nat := 0x800010 + 0x1000 * i
/-- TOP_P_SUMPWIN (R379). -/
def rTopPSumpwin (i : Nat) : Nat := 0x800014 + 0x1000 * i
/-- TOP_P_MGDWIN (R379). -/
def rTopPMgdwin (i : Nat) : Nat := 0x800018 + 0x1000 * i
/-- TOP_SEED_LO (R379). -/
def rTopSeedLo (i : Nat) : Nat := 0x800020 + 0x1000 * i
/-- TOP_SEED_HI (R379). -/
def rTopSeedHi (i : Nat) : Nat := 0x800024 + 0x1000 * i

/-- QMG_STATUS (R252). -/
def rQmgStatus : Nat := 0x1000000
/-- QMG_ERR (R252). -/
def rQmgErr : Nat := 0x1000010
/-- QMG_ERR_Q (R252). -/
def rQmgErrQ : Nat := 0x1000014
/-- QMG_ERR_SEQ (R252). -/
def rQmgErrSeq : Nat := 0x1000018
/-- QMG_DISPATCH_LO (R252). -/
def rQmgDispatchLo : Nat := 0x1000020
/-- QMG_DISPATCH_HI (R252). -/
def rQmgDispatchHi : Nat := 0x1000024
/-- QMG_MODE_TA_LO (R252). -/
def rQmgModeTaLo : Nat := 0x1000028
/-- QMG_MODE_TA_HI (R252). -/
def rQmgModeTaHi : Nat := 0x100002c
/-- QMG_CBLK_OWN (R252). -/
def rQmgCblkOwn (i : Nat) : Nat := 0x1000100 + 0x4 * i
/-- QMG_Q_BASE_LO (R252). -/
def rQmgQBaseLo (i : Nat) : Nat := 0x1400000 + 0x40 * i
/-- QMG_Q_BASE_HI (R252). -/
def rQmgQBaseHi (i : Nat) : Nat := 0x1400004 + 0x40 * i
/-- QMG_Q_CFG (R252). -/
def rQmgQCfg (i : Nat) : Nat := 0x1400008 + 0x40 * i
/-- QMG_Q_STATUS (R252). -/
def rQmgQStatus (i : Nat) : Nat := 0x140000c + 0x40 * i
/-- QMG_Q_TAIL (R252). -/
def rQmgQTail (i : Nat) : Nat := 0x1400010 + 0x40 * i
/-- QMG_Q_HEAD (R252). -/
def rQmgQHead (i : Nat) : Nat := 0x1400014 + 0x40 * i
/-- QMG_Q_RETIRE (R252). -/
def rQmgQRetire (i : Nat) : Nat := 0x1400018 + 0x40 * i
/-- QMG_Q_DB (R252). -/
def rQmgQDb (i : Nat) : Nat := 0x140001c + 0x40 * i
/-- QMG_Q_CPL_LO (R252). -/
def rQmgQCplLo (i : Nat) : Nat := 0x1400020 + 0x40 * i
/-- QMG_Q_CPL_HI (R252). -/
def rQmgQCplHi (i : Nat) : Nat := 0x1400024 + 0x40 * i
/-- QMG_Q_CTL (R252). -/
def rQmgQCtl (i : Nat) : Nat := 0x1400028 + 0x40 * i
/-- QMG_Q_ERR (R252). -/
def rQmgQErr (i : Nat) : Nat := 0x140002c + 0x40 * i
/-- QMG_CNT_VAL (R252). -/
def rQmgCntVal (i : Nat) : Nat := 0x1800000 + 0x8 * i
/-- QMG_CNT_ADD (R252). -/
def rQmgCntAdd (i : Nat) : Nat := 0x1800004 + 0x8 * i

/-- DMA_STATUS (R253). -/
def rDmaStatus (i : Nat) : Nat := 0x2000000 + 0x1000 * i
/-- DMA_ERR (R253). -/
def rDmaErr (i : Nat) : Nat := 0x2000010 + 0x1000 * i
/-- DMA_ERR_ADDR_LO (R253). -/
def rDmaErrAddrLo (i : Nat) : Nat := 0x2000018 + 0x1000 * i
/-- DMA_ERR_ADDR_HI (R253). -/
def rDmaErrAddrHi (i : Nat) : Nat := 0x200001c + 0x1000 * i
/-- DMA_BYTES_LO (R253). -/
def rDmaBytesLo (i : Nat) : Nat := 0x2000020 + 0x1000 * i
/-- DMA_BYTES_HI (R253). -/
def rDmaBytesHi (i : Nat) : Nat := 0x2000024 + 0x1000 * i
/-- DMA_CMDS_LO (R253). -/
def rDmaCmdsLo (i : Nat) : Nat := 0x2000028 + 0x1000 * i
/-- DMA_CMDS_HI (R253). -/
def rDmaCmdsHi (i : Nat) : Nat := 0x200002c + 0x1000 * i
/-- DMA_KV_CTL (R158). -/
def rDmaKvCtl (i : Nat) : Nat := 0x2800000 + 0x1000 * i
/-- DMA_KV_GEOM (R158). -/
def rDmaKvGeom (i : Nat) : Nat := 0x2800004 + 0x1000 * i
/-- DMA_KV_SLOTS (R158). -/
def rDmaKvSlots (i : Nat) : Nat := 0x2800008 + 0x1000 * i
/-- DMA_KV_TBL_LO (R158). -/
def rDmaKvTblLo (i : Nat) : Nat := 0x2800010 + 0x1000 * i
/-- DMA_KV_TBL_HI (R158). -/
def rDmaKvTblHi (i : Nat) : Nat := 0x2800014 + 0x1000 * i
/-- DMA_KV_HOD_LO (R158). -/
def rDmaKvHodLo (i : Nat) : Nat := 0x2800018 + 0x1000 * i
/-- DMA_KV_HOD_HI (R158). -/
def rDmaKvHodHi (i : Nat) : Nat := 0x280001c + 0x1000 * i
/-- DMA_KV_ERR (R158). -/
def rDmaKvErr (i : Nat) : Nat := 0x2800020 + 0x1000 * i
/-- DMA_KV_ERR_SLOT (R158). -/
def rDmaKvErrSlot (i : Nat) : Nat := 0x2800024 + 0x1000 * i
/-- DMA_KV_OPEN (R158). -/
def rDmaKvOpen (i : Nat) : Nat := 0x2800028 + 0x1000 * i
/-- DMA_KV_FLUSH_LO (R158). -/
def rDmaKvFlushLo (i : Nat) : Nat := 0x2800030 + 0x1000 * i
/-- DMA_KV_FLUSH_HI (R158). -/
def rDmaKvFlushHi (i : Nat) : Nat := 0x2800034 + 0x1000 * i
/-- DMA_KV_WALK_LO (R158). -/
def rDmaKvWalkLo (i : Nat) : Nat := 0x2800038 + 0x1000 * i
/-- DMA_KV_WALK_HI (R158). -/
def rDmaKvWalkHi (i : Nat) : Nat := 0x280003c + 0x1000 * i

/-- TSQ_STATUS (R143). -/
def rTsqStatus (i : Nat) : Nat := 0x3000000 + 0x800000 * i
/-- TSQ_ERR (R143). -/
def rTsqErr (i : Nat) : Nat := 0x3000010 + 0x800000 * i
/-- TSQ_ERR_Q (R143). -/
def rTsqErrQ (i : Nat) : Nat := 0x3000014 + 0x800000 * i
/-- TSQ_ERR_SEQ (R143). -/
def rTsqErrSeq (i : Nat) : Nat := 0x3000018 + 0x800000 * i
/-- TSQ_TILES_LO (R143). -/
def rTsqTilesLo (i : Nat) : Nat := 0x3000020 + 0x800000 * i
/-- TSQ_TILES_HI (R143). -/
def rTsqTilesHi (i : Nat) : Nat := 0x3000024 + 0x800000 * i
/-- TSQ_MCAST_LO (R143). -/
def rTsqMcastLo (i : Nat) : Nat := 0x3000028 + 0x800000 * i
/-- TSQ_MCAST_HI (R143). -/
def rTsqMcastHi (i : Nat) : Nat := 0x300002c + 0x800000 * i
/-- TSQ_REISSUE (R143). -/
def rTsqReissue (i : Nat) : Nat := 0x3000030 + 0x800000 * i
/-- TSQ_RESTART (R143). -/
def rTsqRestart (i : Nat) : Nat := 0x3000034 + 0x800000 * i
/-- TSQ_STAGE_BYTES_LO (R143). -/
def rTsqStageBytesLo (i : Nat) : Nat := 0x3000038 + 0x800000 * i
/-- TSQ_STAGE_BYTES_HI (R143). -/
def rTsqStageBytesHi (i : Nat) : Nat := 0x300003c + 0x800000 * i
/-- TSQ_L_STATE (R143). -/
def rTsqLState (i j : Nat) : Nat := 0x3100000 + 0x800000 * i + 0x1000 * j
/-- TSQ_L_Q (R143). -/
def rTsqLQ (i j : Nat) : Nat := 0x3100004 + 0x800000 * i + 0x1000 * j
/-- TSQ_L_SEQ (R143). -/
def rTsqLSeq (i j : Nat) : Nat := 0x3100008 + 0x800000 * i + 0x1000 * j
/-- TSQ_L_NEXT_LO (R143). -/
def rTsqLNextLo (i j : Nat) : Nat := 0x3100010 + 0x800000 * i + 0x1000 * j
/-- TSQ_L_NEXT_HI (R143). -/
def rTsqLNextHi (i j : Nat) : Nat := 0x3100014 + 0x800000 * i + 0x1000 * j
/-- TSQ_L_RETIRED_LO (R143). -/
def rTsqLRetiredLo (i j : Nat) : Nat := 0x3100018 + 0x800000 * i + 0x1000 * j
/-- TSQ_L_RETIRED_HI (R143). -/
def rTsqLRetiredHi (i j : Nat) : Nat := 0x310001c + 0x800000 * i + 0x1000 * j
/-- TSQ_L_HELD (R143). -/
def rTsqLHeld (i j : Nat) : Nat := 0x3100020 + 0x800000 * i + 0x1000 * j
/-- TSQ_L_CORES (R143). -/
def rTsqLCores (i j : Nat) : Nat := 0x3100024 + 0x800000 * i + 0x1000 * j
/-- TSQ_L_STRIPE (R143). -/
def rTsqLStripe (i j : Nat) : Nat := 0x3100028 + 0x800000 * i + 0x1000 * j
/-- TSQ_L_LOST (R143). -/
def rTsqLLost (i j : Nat) : Nat := 0x310002c + 0x800000 * i + 0x1000 * j

/-- CORE_STATUS (R121). -/
def rCoreStatus (i : Nat) : Nat := 0x4000000 + 0x1000 * i
/-- CORE_PHYS (R121). -/
def rCorePhys (i : Nat) : Nat := 0x4000004 + 0x1000 * i
/-- CORE_EXC (R121). -/
def rCoreExc (i : Nat) : Nat := 0x4000010 + 0x1000 * i
/-- CORE_EXC_PC_LO (R121). -/
def rCoreExcPcLo (i : Nat) : Nat := 0x4000018 + 0x1000 * i
/-- CORE_EXC_PC_HI (R121). -/
def rCoreExcPcHi (i : Nat) : Nat := 0x400001c + 0x1000 * i
/-- CORE_FLAGS (R121). -/
def rCoreFlags (i : Nat) : Nat := 0x4000020 + 0x1000 * i
/-- CORE_POISON_COUNT (R121). -/
def rCorePoisonCount (i : Nat) : Nat := 0x4000030 + 0x1000 * i
/-- CORE_IDXRANGE_COUNT (R121). -/
def rCoreIdxrangeCount (i : Nat) : Nat := 0x4000034 + 0x1000 * i
/-- CORE_TINSTR_LO (R121). -/
def rCoreTinstrLo (i : Nat) : Nat := 0x4000040 + 0x1000 * i
/-- CORE_TINSTR_HI (R121). -/
def rCoreTinstrHi (i : Nat) : Nat := 0x4000044 + 0x1000 * i
/-- CORE_MAC_LO (R121). -/
def rCoreMacLo (i : Nat) : Nat := 0x4000048 + 0x1000 * i
/-- CORE_MAC_HI (R121). -/
def rCoreMacHi (i : Nat) : Nat := 0x400004c + 0x1000 * i
/-- CORE_BUSY_LO (R121). -/
def rCoreBusyLo (i : Nat) : Nat := 0x4000050 + 0x1000 * i
/-- CORE_BUSY_HI (R121). -/
def rCoreBusyHi (i : Nat) : Nat := 0x4000054 + 0x1000 * i
/-- CORE_SBSTALL_LO (R121). -/
def rCoreSbstallLo (i : Nat) : Nat := 0x4000058 + 0x1000 * i
/-- CORE_SBSTALL_HI (R121). -/
def rCoreSbstallHi (i : Nat) : Nat := 0x400005c + 0x1000 * i
/-- CORE_SPARE_SLOT (R121). -/
def rCoreSpareSlot (i j : Nat) : Nat := 0x4600000 + 0x1000 * i + 0x4 * j

/-- GAL_STATUS (R177). -/
def rGalStatus (i : Nat) : Nat := 0x5000000 + 0x100000 * i
/-- GAL_ERR (R177). -/
def rGalErr (i : Nat) : Nat := 0x5000010 + 0x100000 * i
/-- GAL_ERR_ADDR_LO (R177). -/
def rGalErrAddrLo (i : Nat) : Nat := 0x5000018 + 0x100000 * i
/-- GAL_ERR_ADDR_HI (R177). -/
def rGalErrAddrHi (i : Nat) : Nat := 0x500001c + 0x100000 * i
/-- GAL_ERR_INFO (R177). -/
def rGalErrInfo (i : Nat) : Nat := 0x5000020 + 0x100000 * i
/-- GAL_CE_COUNT (R177). -/
def rGalCeCount (i : Nat) : Nat := 0x5000030 + 0x100000 * i
/-- GAL_UE_COUNT (R177). -/
def rGalUeCount (i : Nat) : Nat := 0x5000034 + 0x100000 * i
/-- GAL_PWPOISON_COUNT (R177). -/
def rGalPwpoisonCount (i : Nat) : Nat := 0x5000038 + 0x100000 * i
/-- GAL_POISON_READ_COUNT (R177). -/
def rGalPoisonReadCount (i : Nat) : Nat := 0x500003c + 0x100000 * i
/-- GAL_CE_THRESH (R177). -/
def rGalCeThresh (i : Nat) : Nat := 0x5000044 + 0x100000 * i
/-- GAL_SCRUB_CTL (R177). -/
def rGalScrubCtl (i : Nat) : Nat := 0x5000050 + 0x100000 * i
/-- GAL_SCRUB_POS_LO (R177). -/
def rGalScrubPosLo (i : Nat) : Nat := 0x5000058 + 0x100000 * i
/-- GAL_SCRUB_POS_HI (R177). -/
def rGalScrubPosHi (i : Nat) : Nat := 0x500005c + 0x100000 * i
/-- GAL_RANGE_BASE_LO (R177). -/
def rGalRangeBaseLo (i : Nat) : Nat := 0x5000060 + 0x100000 * i
/-- GAL_RANGE_BASE_HI (R177). -/
def rGalRangeBaseHi (i : Nat) : Nat := 0x5000064 + 0x100000 * i
/-- GAL_RANGE_LIMIT_LO (R177). -/
def rGalRangeLimitLo (i : Nat) : Nat := 0x5000068 + 0x100000 * i
/-- GAL_RANGE_LIMIT_HI (R177). -/
def rGalRangeLimitHi (i : Nat) : Nat := 0x500006c + 0x100000 * i
/-- GAL_RANGE_FOUND (R177). -/
def rGalRangeFound (i : Nat) : Nat := 0x5000070 + 0x100000 * i
/-- GAL_RD_BYTES_LO (R177). -/
def rGalRdBytesLo (i : Nat) : Nat := 0x5000080 + 0x100000 * i
/-- GAL_RD_BYTES_HI (R177). -/
def rGalRdBytesHi (i : Nat) : Nat := 0x5000084 + 0x100000 * i
/-- GAL_WR_BYTES_LO (R177). -/
def rGalWrBytesLo (i : Nat) : Nat := 0x5000088 + 0x100000 * i
/-- GAL_WR_BYTES_HI (R177). -/
def rGalWrBytesHi (i : Nat) : Nat := 0x500008c + 0x100000 * i
/-- GAL_INJ_ADDR_LO (R177). -/
def rGalInjAddrLo (i : Nat) : Nat := 0x50000f0 + 0x100000 * i
/-- GAL_INJ_ADDR_HI (R177). -/
def rGalInjAddrHi (i : Nat) : Nat := 0x50000f4 + 0x100000 * i
/-- GAL_INJ_CTL (R177). -/
def rGalInjCtl (i : Nat) : Nat := 0x50000f8 + 0x100000 * i

/-- HBM_STATUS (R177). -/
def rHbmStatus (i : Nat) : Nat := 0x6000000 + 0x100000 * i
/-- HBM_ERR (R177). -/
def rHbmErr (i : Nat) : Nat := 0x6000010 + 0x100000 * i
/-- HBM_ERR_ADDR_LO (R177). -/
def rHbmErrAddrLo (i : Nat) : Nat := 0x6000018 + 0x100000 * i
/-- HBM_ERR_ADDR_HI (R177). -/
def rHbmErrAddrHi (i : Nat) : Nat := 0x600001c + 0x100000 * i
/-- HBM_ERR_INFO (R177). -/
def rHbmErrInfo (i : Nat) : Nat := 0x6000020 + 0x100000 * i
/-- HBM_ERR_PC (R177). -/
def rHbmErrPc (i : Nat) : Nat := 0x6000024 + 0x100000 * i
/-- HBM_ERR_OFF (R177). -/
def rHbmErrOff (i : Nat) : Nat := 0x6000028 + 0x100000 * i
/-- HBM_CE_COUNT (R177). -/
def rHbmCeCount (i : Nat) : Nat := 0x6000030 + 0x100000 * i
/-- HBM_UE_COUNT (R177). -/
def rHbmUeCount (i : Nat) : Nat := 0x6000034 + 0x100000 * i
/-- HBM_PWPOISON_COUNT (R177). -/
def rHbmPwpoisonCount (i : Nat) : Nat := 0x6000038 + 0x100000 * i
/-- HBM_POISON_READ_COUNT (R177). -/
def rHbmPoisonReadCount (i : Nat) : Nat := 0x600003c + 0x100000 * i
/-- HBM_ODECC_COUNT (R177). -/
def rHbmOdeccCount (i : Nat) : Nat := 0x6000040 + 0x100000 * i
/-- HBM_CE_THRESH (R177). -/
def rHbmCeThresh (i : Nat) : Nat := 0x6000044 + 0x100000 * i
/-- HBM_SCRUB_CTL (R177). -/
def rHbmScrubCtl (i : Nat) : Nat := 0x6000050 + 0x100000 * i
/-- HBM_SCRUB_POS_LO (R177). -/
def rHbmScrubPosLo (i : Nat) : Nat := 0x6000058 + 0x100000 * i
/-- HBM_SCRUB_POS_HI (R177). -/
def rHbmScrubPosHi (i : Nat) : Nat := 0x600005c + 0x100000 * i
/-- HBM_RANGE_BASE_LO (R177). -/
def rHbmRangeBaseLo (i : Nat) : Nat := 0x6000060 + 0x100000 * i
/-- HBM_RANGE_BASE_HI (R177). -/
def rHbmRangeBaseHi (i : Nat) : Nat := 0x6000064 + 0x100000 * i
/-- HBM_RANGE_LIMIT_LO (R177). -/
def rHbmRangeLimitLo (i : Nat) : Nat := 0x6000068 + 0x100000 * i
/-- HBM_RANGE_LIMIT_HI (R177). -/
def rHbmRangeLimitHi (i : Nat) : Nat := 0x600006c + 0x100000 * i
/-- HBM_RANGE_FOUND (R177). -/
def rHbmRangeFound (i : Nat) : Nat := 0x6000070 + 0x100000 * i
/-- HBM_RD_BYTES_LO (R177). -/
def rHbmRdBytesLo (i : Nat) : Nat := 0x6000080 + 0x100000 * i
/-- HBM_RD_BYTES_HI (R177). -/
def rHbmRdBytesHi (i : Nat) : Nat := 0x6000084 + 0x100000 * i
/-- HBM_WR_BYTES_LO (R177). -/
def rHbmWrBytesLo (i : Nat) : Nat := 0x6000088 + 0x100000 * i
/-- HBM_WR_BYTES_HI (R177). -/
def rHbmWrBytesHi (i : Nat) : Nat := 0x600008c + 0x100000 * i
/-- HBM_CHARGED_LO (R177). -/
def rHbmChargedLo (i : Nat) : Nat := 0x6000090 + 0x100000 * i
/-- HBM_CHARGED_HI (R177). -/
def rHbmChargedHi (i : Nat) : Nat := 0x6000094 + 0x100000 * i
/-- HBM_INJ_ADDR_LO (R177). -/
def rHbmInjAddrLo (i : Nat) : Nat := 0x60000f0 + 0x100000 * i
/-- HBM_INJ_ADDR_HI (R177). -/
def rHbmInjAddrHi (i : Nat) : Nat := 0x60000f4 + 0x100000 * i
/-- HBM_INJ_CTL (R177). -/
def rHbmInjCtl (i : Nat) : Nat := 0x60000f8 + 0x100000 * i

/-- SMP_STATUS (R229). -/
def rSmpStatus : Nat := 0x7000000
/-- SMP_ERR (R229). -/
def rSmpErr : Nat := 0x7000010
/-- SMP_ERR_ADDR_LO (R229). -/
def rSmpErrAddrLo : Nat := 0x7000018
/-- SMP_ERR_ADDR_HI (R229). -/
def rSmpErrAddrHi : Nat := 0x700001c
/-- SMP_ERR_INFO (R229). -/
def rSmpErrInfo : Nat := 0x7000020
/-- SMP_PROMOTE_LO (R229). -/
def rSmpPromoteLo : Nat := 0x7000030
/-- SMP_PROMOTE_HI (R229). -/
def rSmpPromoteHi : Nat := 0x7000034
/-- SMP_WRITEBACK_LO (R229). -/
def rSmpWritebackLo : Nat := 0x7000038
/-- SMP_WRITEBACK_HI (R229). -/
def rSmpWritebackHi : Nat := 0x700003c
/-- SMP_DAMAGE_COUNT (R229). -/
def rSmpDamageCount : Nat := 0x7000040
/-- SMP_TBL_BASE_LO (R229). -/
def rSmpTblBaseLo : Nat := 0x7000048
/-- SMP_TBL_BASE_HI (R229). -/
def rSmpTblBaseHi : Nat := 0x700004c
/-- SMP_STALL_LIMIT (R229). -/
def rSmpStallLimit : Nat := 0x7000050
/-- SMP_QT0 (R229). -/
def rSmpQt0 (i : Nat) : Nat := 0x7000100 + 0x40 * i
/-- SMP_QT1 (R229). -/
def rSmpQt1 (i : Nat) : Nat := 0x7000104 + 0x40 * i
/-- SMP_QT2 (R229). -/
def rSmpQt2 (i : Nat) : Nat := 0x7000108 + 0x40 * i
/-- SMP_T1POOL_LO (R210). -/
def rSmpT1poolLo (i : Nat) : Nat := 0x7000110 + 0x40 * i
/-- SMP_T1POOL_HI (R210). -/
def rSmpT1poolHi (i : Nat) : Nat := 0x7000114 + 0x40 * i
/-- SMP_T1POOL_SIZE (R210). -/
def rSmpT1poolSize (i : Nat) : Nat := 0x7000118 + 0x40 * i
/-- SMP_T2POOL_LO (R210). -/
def rSmpT2poolLo (i : Nat) : Nat := 0x7000120 + 0x40 * i
/-- SMP_T2POOL_HI (R210). -/
def rSmpT2poolHi (i : Nat) : Nat := 0x7000124 + 0x40 * i
/-- SMP_T2POOL_SIZE (R210). -/
def rSmpT2poolSize (i : Nat) : Nat := 0x7000128 + 0x40 * i
/-- SMP_P_STATUS (R229). -/
def rSmpPStatus (i : Nat) : Nat := 0x7800000 + 0x1000 * i
/-- SMP_P_USE0 (R229). -/
def rSmpPUse0 (i : Nat) : Nat := 0x7800004 + 0x1000 * i
/-- SMP_P_USE1 (R229). -/
def rSmpPUse1 (i : Nat) : Nat := 0x7800008 + 0x1000 * i
/-- SMP_P_USE2 (R229). -/
def rSmpPUse2 (i : Nat) : Nat := 0x780000c + 0x1000 * i
/-- SMP_P_ALLOC (R229). -/
def rSmpPAlloc (i : Nat) : Nat := 0x7800010 + 0x1000 * i
/-- SMP_P_PINNED (R229). -/
def rSmpPPinned (i : Nat) : Nat := 0x7800014 + 0x1000 * i
/-- SMP_P_FAULTS_LO (R229). -/
def rSmpPFaultsLo (i : Nat) : Nat := 0x7800020 + 0x1000 * i
/-- SMP_P_FAULTS_HI (R229). -/
def rSmpPFaultsHi (i : Nat) : Nat := 0x7800024 + 0x1000 * i

/-- TRW_STATUS (R209). -/
def rTrwStatus (i : Nat) : Nat := 0x8000000 + 0x100000 * i
/-- TRW_QUEUE_USE (R209). -/
def rTrwQueueUse (i : Nat) : Nat := 0x8000004 + 0x100000 * i
/-- TRW_ERR (R209). -/
def rTrwErr (i : Nat) : Nat := 0x8000010 + 0x100000 * i
/-- TRW_ERR_SLOT (R209). -/
def rTrwErrSlot (i : Nat) : Nat := 0x8000014 + 0x100000 * i
/-- TRW_ERR_BLOCK_LO (R209). -/
def rTrwErrBlockLo (i : Nat) : Nat := 0x8000018 + 0x100000 * i
/-- TRW_ERR_BLOCK_HI (R209). -/
def rTrwErrBlockHi (i : Nat) : Nat := 0x800001c + 0x100000 * i
/-- TRW_IN_BYTES_LO (R209). -/
def rTrwInBytesLo (i : Nat) : Nat := 0x8000030 + 0x100000 * i
/-- TRW_IN_BYTES_HI (R209). -/
def rTrwInBytesHi (i : Nat) : Nat := 0x8000034 + 0x100000 * i
/-- TRW_OUT_BYTES_LO (R209). -/
def rTrwOutBytesLo (i : Nat) : Nat := 0x8000038 + 0x100000 * i
/-- TRW_OUT_BYTES_HI (R209). -/
def rTrwOutBytesHi (i : Nat) : Nat := 0x800003c + 0x100000 * i
/-- TRW_STALL_LO (R209). -/
def rTrwStallLo (i : Nat) : Nat := 0x8000040 + 0x100000 * i
/-- TRW_STALL_HI (R209). -/
def rTrwStallHi (i : Nat) : Nat := 0x8000044 + 0x100000 * i
/-- TRW_RAW_COUNT (R209). -/
def rTrwRawCount (i : Nat) : Nat := 0x8000050 + 0x100000 * i
/-- TRW_DAMAGE_COUNT (R209). -/
def rTrwDamageCount (i : Nat) : Nat := 0x8000054 + 0x100000 * i
/-- TRW_INTRA_COUNT (R209). -/
def rTrwIntraCount (i : Nat) : Nat := 0x8000058 + 0x100000 * i
/-- TRW_CHAIN_FRAMES (R209). -/
def rTrwChainFrames (i : Nat) : Nat := 0x800005c + 0x100000 * i
/-- TRW_NONFINITE_COUNT (R209). -/
def rTrwNonfiniteCount (i : Nat) : Nat := 0x8000060 + 0x100000 * i
/-- TRW_PCTL (R209). -/
def rTrwPctl (i : Nat) : Nat := 0x8c00000 + 0x1000 * i
/-- TRW_SLOT_BASE_LO (R209). -/
def rTrwSlotBaseLo (i : Nat) : Nat := 0x8c00008 + 0x1000 * i
/-- TRW_SLOT_BASE_HI (R209). -/
def rTrwSlotBaseHi (i : Nat) : Nat := 0x8c0000c + 0x1000 * i
/-- TRW_SLOTS_OPEN (R209). -/
def rTrwSlotsOpen (i : Nat) : Nat := 0x8c00010 + 0x1000 * i
/-- TRW_PERR (R209). -/
def rTrwPerr (i : Nat) : Nat := 0x8c00014 + 0x1000 * i

/-- COL_STATUS (R298). -/
def rColStatus : Nat := 0x9000000
/-- COL_COORD (R298). -/
def rColCoord : Nat := 0x9000004
/-- COL_ERR (R298). -/
def rColErr : Nat := 0x9000010
/-- COL_ERR_INFO (R298). -/
def rColErrInfo : Nat := 0x9000014
/-- COL_HB_MISS (R298). -/
def rColHbMiss : Nat := 0x9000018
/-- COL_PT_BASE_LO (R298). -/
def rColPtBaseLo : Nat := 0x9000020
/-- COL_PT_BASE_HI (R298). -/
def rColPtBaseHi : Nat := 0x9000024
/-- COL_EVT_BASE_LO (R298). -/
def rColEvtBaseLo : Nat := 0x9000028
/-- COL_EVT_BASE_HI (R298). -/
def rColEvtBaseHi : Nat := 0x900002c
/-- COL_EVT_HEAD (R298). -/
def rColEvtHead : Nat := 0x9000030
/-- COL_EVT_TAIL (R298). -/
def rColEvtTail : Nat := 0x9000034
/-- COL_EVT_CFG (R298). -/
def rColEvtCfg : Nat := 0x9000038
/-- COL_TSYNC_CFG (R298). -/
def rColTsyncCfg : Nat := 0x9000040
/-- COL_TSYNC_OFS (R298). -/
def rColTsyncOfs : Nat := 0x9000044
/-- COL_WIRE_BYTES_LO (R298). -/
def rColWireBytesLo : Nat := 0x9000050
/-- COL_WIRE_BYTES_HI (R298). -/
def rColWireBytesHi : Nat := 0x9000054
/-- COL_LOSS_COUNT (R298). -/
def rColLossCount : Nat := 0x9000058
/-- COL_G_CTL (R298). -/
def rColGCtl (i j : Nat) : Nat := 0x9400000 + 0x10000 * i + 0x40 * j
/-- COL_G_AXSLOT (R298). -/
def rColGAxslot (i j : Nat) : Nat := 0x9400004 + 0x10000 * i + 0x40 * j
/-- COL_G_AXTRAY (R298). -/
def rColGAxtray (i j : Nat) : Nat := 0x9400008 + 0x10000 * i + 0x40 * j
/-- COL_G_AXRACK (R298). -/
def rColGAxrack (i j : Nat) : Nat := 0x940000c + 0x10000 * i + 0x40 * j
/-- COL_G_WEIGHT (R298). -/
def rColGWeight (i j : Nat) : Nat := 0x9400010 + 0x10000 * i + 0x40 * j
/-- COL_G_INFO (R298). -/
def rColGInfo (i j : Nat) : Nat := 0x9400014 + 0x10000 * i + 0x40 * j
/-- COL_G_STATE (R298). -/
def rColGState (i j : Nat) : Nat := 0x9400018 + 0x10000 * i + 0x40 * j
/-- COL_G_SIG (R298). -/
def rColGSig (i j : Nat) : Nat := 0x940001c + 0x10000 * i + 0x40 * j
/-- COL_G_COLLS (R298). -/
def rColGColls (i j : Nat) : Nat := 0x9400020 + 0x10000 * i + 0x40 * j
/-- COL_EPOCH (R271). -/
def rColEpoch (i : Nat) : Nat := 0x9800000 + 0x1000 * i
/-- COL_EPOCH_SET (R271). -/
def rColEpochSet (i : Nat) : Nat := 0x9800004 + 0x1000 * i
/-- COL_EP_CTL (R271). -/
def rColEpCtl (i : Nat) : Nat := 0x9800008 + 0x1000 * i
/-- COL_EP_FLAGS (R271). -/
def rColEpFlags (i : Nat) : Nat := 0x980000c + 0x1000 * i
/-- COL_EP_LEAD (R271). -/
def rColEpLead (i : Nat) : Nat := 0x9800010 + 0x1000 * i
/-- COL_EP_LAST (R271). -/
def rColEpLast (i : Nat) : Nat := 0x9800014 + 0x1000 * i
/-- COL_EP_TC_LO (R271). -/
def rColEpTcLo (i : Nat) : Nat := 0x9800018 + 0x1000 * i
/-- COL_EP_TC_HI (R271). -/
def rColEpTcHi (i : Nat) : Nat := 0x980001c + 0x1000 * i
/-- COL_EP_COMMITS (R271). -/
def rColEpCommits (i : Nat) : Nat := 0x9800020 + 0x1000 * i
/-- COL_EP_ABORTS (R271). -/
def rColEpAborts (i : Nat) : Nat := 0x9800024 + 0x1000 * i
/-- COL_NS_SL (R271). -/
def rColNsSl (i : Nat) : Nat := 0x9800030 + 0x1000 * i
/-- COL_NS_SG (R271). -/
def rColNsSg (i : Nat) : Nat := 0x9800034 + 0x1000 * i
/-- COL_NS_LAST (R271). -/
def rColNsLast (i : Nat) : Nat := 0x9800038 + 0x1000 * i
/-- COL_NS_EMA (R271). -/
def rColNsEma (i : Nat) : Nat := 0x980003c + 0x1000 * i
/-- COL_NS_SUGGEST (R271). -/
def rColNsSuggest (i : Nat) : Nat := 0x9800040 + 0x1000 * i
/-- COL_NS_CTL (R271). -/
def rColNsCtl (i : Nat) : Nat := 0x9800044 + 0x1000 * i
/-- COL_NS_SKIP (R271). -/
def rColNsSkip (i : Nat) : Nat := 0x9800048 + 0x1000 * i
/-- COL_EXP_BASE_LO (R315). -/
def rColExpBaseLo (i : Nat) : Nat := 0x9800080 + 0x1000 * i
/-- COL_EXP_BASE_HI (R315). -/
def rColExpBaseHi (i : Nat) : Nat := 0x9800084 + 0x1000 * i
/-- COL_EXP_SIZE_LO (R315). -/
def rColExpSizeLo (i : Nat) : Nat := 0x9800088 + 0x1000 * i
/-- COL_EXP_SIZE_HI (R315). -/
def rColExpSizeHi (i : Nat) : Nat := 0x980008c + 0x1000 * i
/-- COL_EXP_CTL (R315). -/
def rColExpCtl (i : Nat) : Nat := 0x9800090 + 0x1000 * i
/-- COL_EXP_REFUSED (R315). -/
def rColExpRefused (i : Nat) : Nat := 0x9800094 + 0x1000 * i
/-- COL_EXP_BYTES_LO (R315). -/
def rColExpBytesLo (i : Nat) : Nat := 0x9800098 + 0x1000 * i
/-- COL_EXP_BYTES_HI (R315). -/
def rColExpBytesHi (i : Nat) : Nat := 0x980009c + 0x1000 * i

/-- LNK_CFG (R299). -/
def rLnkCfg (i : Nat) : Nat := 0xa000000 + 0x10000 * i
/-- LNK_STATUS (R299). -/
def rLnkStatus (i : Nat) : Nat := 0xa000004 + 0x10000 * i
/-- LNK_PARTNER (R299). -/
def rLnkPartner (i : Nat) : Nat := 0xa000008 + 0x10000 * i
/-- LNK_EXPECT (R299). -/
def rLnkExpect (i : Nat) : Nat := 0xa00000c + 0x10000 * i
/-- LNK_PARTNER_SER_LO (R299). -/
def rLnkPartnerSerLo (i : Nat) : Nat := 0xa000010 + 0x10000 * i
/-- LNK_PARTNER_SER_HI (R299). -/
def rLnkPartnerSerHi (i : Nat) : Nat := 0xa000014 + 0x10000 * i
/-- LNK_ERR (R299). -/
def rLnkErr (i : Nat) : Nat := 0xa000020 + 0x10000 * i
/-- LNK_FEC_CORR_LO (R299). -/
def rLnkFecCorrLo (i : Nat) : Nat := 0xa000030 + 0x10000 * i
/-- LNK_FEC_CORR_HI (R299). -/
def rLnkFecCorrHi (i : Nat) : Nat := 0xa000034 + 0x10000 * i
/-- LNK_FEC_UNCORR (R299). -/
def rLnkFecUncorr (i : Nat) : Nat := 0xa000038 + 0x10000 * i
/-- LNK_RETRY (R299). -/
def rLnkRetry (i : Nat) : Nat := 0xa00003c + 0x10000 * i
/-- LNK_RETRAIN (R299). -/
def rLnkRetrain (i : Nat) : Nat := 0xa000040 + 0x10000 * i
/-- LNK_VC_WEIGHT0 (R299). -/
def rLnkVcWeight0 (i : Nat) : Nat := 0xa000050 + 0x10000 * i
/-- LNK_VC_WEIGHT1 (R299). -/
def rLnkVcWeight1 (i : Nat) : Nat := 0xa000054 + 0x10000 * i
/-- LNK_TX_BYTES_LO (R299). -/
def rLnkTxBytesLo (i : Nat) : Nat := 0xa000060 + 0x10000 * i
/-- LNK_TX_BYTES_HI (R299). -/
def rLnkTxBytesHi (i : Nat) : Nat := 0xa000064 + 0x10000 * i
/-- LNK_RX_BYTES_LO (R299). -/
def rLnkRxBytesLo (i : Nat) : Nat := 0xa000068 + 0x10000 * i
/-- LNK_RX_BYTES_HI (R299). -/
def rLnkRxBytesHi (i : Nat) : Nat := 0xa00006c + 0x10000 * i
/-- LNK_ETH_TYPE (R299). -/
def rLnkEthType (i : Nat) : Nat := 0xa000070 + 0x10000 * i
/-- LNK_ETH_PCP (R299). -/
def rLnkEthPcp (i : Nat) : Nat := 0xa000074 + 0x10000 * i
/-- LNK_ETH_MAC_LO (R299). -/
def rLnkEthMacLo (i : Nat) : Nat := 0xa000078 + 0x10000 * i
/-- LNK_ETH_MAC_HI (R299). -/
def rLnkEthMacHi (i : Nat) : Nat := 0xa00007c + 0x10000 * i
/-- LNK_ETH_RTO (R299). -/
def rLnkEthRto (i : Nat) : Nat := 0xa000080 + 0x10000 * i

/-- VCD_STATUS (R67). -/
def rVcdStatus (i : Nat) : Nat := 0xb000000 + 0x100000 * i
/-- VCD_SYNBUF_USE (R67). -/
def rVcdSynbufUse (i : Nat) : Nat := 0xb000010 + 0x100000 * i
/-- VCD_ERR (R67). -/
def rVcdErr (i : Nat) : Nat := 0xb000020 + 0x100000 * i
/-- VCD_ERR_CTX (R67). -/
def rVcdErrCtx (i : Nat) : Nat := 0xb000030 + 0x100000 * i
/-- VCD_KEYREQ (R67). -/
def rVcdKeyreq (i : Nat) : Nat := 0xb000040 + 0x100000 * i
/-- VCD_FRAMES_LO (R67). -/
def rVcdFramesLo (i : Nat) : Nat := 0xb000050 + 0x100000 * i
/-- VCD_FRAMES_HI (R67). -/
def rVcdFramesHi (i : Nat) : Nat := 0xb000054 + 0x100000 * i
/-- VCD_CONCEAL_COUNT (R67). -/
def rVcdConcealCount (i : Nat) : Nat := 0xb000060 + 0x100000 * i
/-- VCD_CTX_OWN (R67). -/
def rVcdCtxOwn (i j : Nat) : Nat := 0xb000100 + 0x100000 * i + 0x4 * j

/-- INP_STATUS (R67). -/
def rInpStatus (i : Nat) : Nat := 0xc000000 + 0x100000 * i
/-- INP_ERR (R67). -/
def rInpErr (i : Nat) : Nat := 0xc000010 + 0x100000 * i
/-- INP_ERR_ADDR_LO (R67). -/
def rInpErrAddrLo (i : Nat) : Nat := 0xc000020 + 0x100000 * i
/-- INP_ERR_ADDR_HI (R67). -/
def rInpErrAddrHi (i : Nat) : Nat := 0xc000024 + 0x100000 * i
/-- INP_WARP_PIXELS_LO (R67). -/
def rInpWarpPixelsLo (i : Nat) : Nat := 0xc000030 + 0x100000 * i
/-- INP_WARP_PIXELS_HI (R67). -/
def rInpWarpPixelsHi (i : Nat) : Nat := 0xc000034 + 0x100000 * i
/-- INP_SCAN_RETURNS_LO (R67). -/
def rInpScanReturnsLo (i : Nat) : Nat := 0xc000040 + 0x100000 * i
/-- INP_SCAN_RETURNS_HI (R67). -/
def rInpScanReturnsHi (i : Nat) : Nat := 0xc000044 + 0x100000 * i
/-- INP_CACHE_BASE_LO (R67). -/
def rInpCacheBaseLo (i : Nat) : Nat := 0xc800000 + 0x10000 * i
/-- INP_CACHE_BASE_HI (R67). -/
def rInpCacheBaseHi (i : Nat) : Nat := 0xc800004 + 0x10000 * i
/-- INP_CACHE_SIZE (R67). -/
def rInpCacheSize (i : Nat) : Nat := 0xc800008 + 0x10000 * i
/-- INP_CACHE_IDX_LO (R67). -/
def rInpCacheIdxLo (i : Nat) : Nat := 0xc800010 + 0x10000 * i
/-- INP_CACHE_IDX_HI (R67). -/
def rInpCacheIdxHi (i : Nat) : Nat := 0xc800014 + 0x10000 * i
/-- INP_CACHE_CTL (R67). -/
def rInpCacheCtl (i : Nat) : Nat := 0xc800018 + 0x10000 * i
/-- INP_CACHE_HITS (R67). -/
def rInpCacheHits (i : Nat) : Nat := 0xc800020 + 0x10000 * i
/-- INP_CACHE_MISSES (R67). -/
def rInpCacheMisses (i : Nat) : Nat := 0xc800024 + 0x10000 * i
/-- INP_CACHE_EVICT (R67). -/
def rInpCacheEvict (i : Nat) : Nat := 0xc800028 + 0x10000 * i

/-- PWR_STATUS (R330). -/
def rPwrStatus : Nat := 0xd000000
/-- PWR_GATE (R330). -/
def rPwrGate : Nat := 0xd000004
/-- PWR_ERR (R330). -/
def rPwrErr : Nat := 0xd000010
/-- PWR_PKG_MW (R330). -/
def rPwrPkgMw : Nat := 0xd000014
/-- PWR_WAKE_WAIT_LO (R330). -/
def rPwrWakeWaitLo : Nat := 0xd000020
/-- PWR_WAKE_WAIT_HI (R330). -/
def rPwrWakeWaitHi : Nat := 0xd000024
/-- PWR_SLEW (R330). -/
def rPwrSlew (i : Nat) : Nat := 0xd000100 + 0x4 * i
/-- PWR_RAIL (R330). -/
def rPwrRail (i : Nat) : Nat := 0xd000200 + 0x4 * i

/-- CLK_STATUS (R330). -/
def rClkStatus : Nat := 0xe000000
/-- CLK_ERR (R330). -/
def rClkErr : Nat := 0xe000010
/-- CLK_GLITCH (R330). -/
def rClkGlitch (i : Nat) : Nat := 0xe000020 + 0x4 * i
/-- CLK_PPM (R330). -/
def rClkPpm (i : Nat) : Nat := 0xe000040 + 0x4 * i

/-- AGE_CTL (R330). -/
def rAgeCtl : Nat := 0xf000000
/-- AGE_LAST (R330). -/
def rAgeLast : Nat := 0xf000004
/-- AGE_CLUSTER (R330). -/
def rAgeCluster (i : Nat) : Nat := 0xf000100 + 0x4 * i

/-- BOOT_STATE (R347). -/
def rBootState : Nat := 0x10000000
/-- BOOT_SECVER (R347). -/
def rBootSecver : Nat := 0x10000004
/-- BOOT_IMGLEN (R347). -/
def rBootImglen : Nat := 0x10000008
/-- BOOT_T_READY (R347). -/
def rBootTReady : Nat := 0x1000000c
/-- BOOT_RSEQ_LO (R347). -/
def rBootRseqLo : Nat := 0x10000010
/-- BOOT_RSEQ_HI (R347). -/
def rBootRseqHi : Nat := 0x10000014
/-- BOOT_REQ (R347). -/
def rBootReq : Nat := 0x10000018
/-- BOOT_CYCLES (R347). -/
def rBootCycles : Nat := 0x1000001c
/-- BOOT_OPSEC (R347). -/
def rBootOpsec : Nat := 0x10000020
/-- BOOT_LOG_COUNT (R347). -/
def rBootLogCount : Nat := 0x10000024
/-- BOOT_DIGEST (R347). -/
def rBootDigest (i : Nat) : Nat := 0x10000030 + 0x4 * i

/-- LOCK_STATUS (R347). -/
def rLockStatus : Nat := 0x11000000
/-- LOCK_CMD (R347). -/
def rLockCmd : Nat := 0x11000004
/-- LOCK_ERR (R347). -/
def rLockErr : Nat := 0x11000010
/-- LOCK_NONCE (R347). -/
def rLockNonce (i : Nat) : Nat := 0x11000020 + 0x4 * i
/-- LOCK_SERIAL_LO (R347). -/
def rLockSerialLo : Nat := 0x11000040
/-- LOCK_SERIAL_HI (R347). -/
def rLockSerialHi : Nat := 0x11000044
/-- LOCK_DATA (R347). -/
def rLockData (i : Nat) : Nat := 0x11000100 + 0x4 * i

/-- MBX_Q0_PUSH (R349). -/
def rMbxQ0Push (i : Nat) : Nat := 0x12000000 + 0x400 * i
/-- MBX_Q0_POP (R349). -/
def rMbxQ0Pop (i : Nat) : Nat := 0x12000004 + 0x400 * i
/-- MBX_Q0_STAT (R349). -/
def rMbxQ0Stat (i : Nat) : Nat := 0x12000008 + 0x400 * i
/-- MBX_Q1_PUSH (R349). -/
def rMbxQ1Push (i : Nat) : Nat := 0x12000010 + 0x400 * i
/-- MBX_Q1_POP (R349). -/
def rMbxQ1Pop (i : Nat) : Nat := 0x12000014 + 0x400 * i
/-- MBX_Q1_STAT (R349). -/
def rMbxQ1Stat (i : Nat) : Nat := 0x12000018 + 0x400 * i
/-- MBX_DB (R350). -/
def rMbxDb (i : Nat) : Nat := 0x12000020 + 0x400 * i
/-- MBX_DB_SET (R350). -/
def rMbxDbSet (i : Nat) : Nat := 0x12000024 + 0x400 * i
/-- MBX_DB_MASK0 (R350). -/
def rMbxDbMask0 (i : Nat) : Nat := 0x12000028 + 0x400 * i
/-- MBX_DB_MASK1 (R350). -/
def rMbxDbMask1 (i : Nat) : Nat := 0x1200002c + 0x400 * i
/-- MBX_NOTIFY0 (R350). -/
def rMbxNotify0 (i : Nat) : Nat := 0x12000030 + 0x400 * i
/-- MBX_NOTIFY1 (R350). -/
def rMbxNotify1 (i : Nat) : Nat := 0x12000034 + 0x400 * i
/-- MBX_LOCK (R351). -/
def rMbxLock (i : Nat) : Nat := 0x12000040 + 0x400 * i
/-- MBX_LOCK_FORCE (R351). -/
def rMbxLockForce (i : Nat) : Nat := 0x12000044 + 0x400 * i
/-- MBX_OWN (R348). -/
def rMbxOwn (i : Nat) : Nat := 0x12000048 + 0x400 * i
/-- MBX_ERR (R349). -/
def rMbxErr (i : Nat) : Nat := 0x12000050 + 0x400 * i
/-- MBX_ERR_SRC (R349). -/
def rMbxErrSrc (i : Nat) : Nat := 0x12000054 + 0x400 * i

/-- FLW_STATUS (R368). -/
def rFlwStatus : Nat := 0x13000000
/-- FLW_SEQ (R368). -/
def rFlwSeq : Nat := 0x13000004
/-- FLW_DROP (R368). -/
def rFlwDrop : Nat := 0x13000008
/-- FLW_TRIG_EN (R368). -/
def rFlwTrigEn : Nat := 0x13000010
/-- FLW_CLASS (R368). -/
def rFlwClass (i : Nat) : Nat := 0x13000040 + 0x4 * i
/-- FLW_RD_SEQ (R368). -/
def rFlwRdSeq : Nat := 0x13000080
/-- FLW_RD_STATUS (R368). -/
def rFlwRdStatus : Nat := 0x13000084
/-- FLW_RD_DATA (R368). -/
def rFlwRdData (i : Nat) : Nat := 0x13000100 + 0x4 * i
/-- FLW_LIST_LO (R368). -/
def rFlwListLo (i j : Nat) : Nat := 0x13001000 + 0x100 * i + 0x8 * j
/-- FLW_LIST_HI (R368). -/
def rFlwListHi (i j : Nat) : Nat := 0x13001004 + 0x100 * i + 0x8 * j

/-- SB_CFG (R368). -/
def rSbCfg : Nat := 0x14000000
/-- SB_ADDR_LO (R368). -/
def rSbAddrLo : Nat := 0x14000008
/-- SB_ADDR_HI (R368). -/
def rSbAddrHi : Nat := 0x1400000c
/-- SB_STATUS (R368). -/
def rSbStatus : Nat := 0x14000010
/-- SB_ERR (R368). -/
def rSbErr : Nat := 0x14000014
/-- SB_ERR_ADDR_LO (R368). -/
def rSbErrAddrLo : Nat := 0x14000018
/-- SB_ERR_ADDR_HI (R368). -/
def rSbErrAddrHi : Nat := 0x1400001c

/-- TS_NOW_LO (R368). -/
def rTsNowLo : Nat := 0x15000000
/-- TS_NOW_HI (R368). -/
def rTsNowHi : Nat := 0x15000004
/-- TS_SNAP_AT_LO (R368). -/
def rTsSnapAtLo : Nat := 0x15000010
/-- TS_SNAP_AT_HI (R368). -/
def rTsSnapAtHi : Nat := 0x15000014
/-- TS_SNAP_SEQ (R368). -/
def rTsSnapSeq : Nat := 0x15000018
/-- TS_STATUS (R368). -/
def rTsStatus : Nat := 0x1500001c
/-- TS_ERR (R368). -/
def rTsErr : Nat := 0x15000020
/-- TS_SNAP_MISS (R368). -/
def rTsSnapMiss : Nat := 0x15000024

/-- PCI_STATUS (R36). -/
def rPciStatus (i : Nat) : Nat := 0x16000000 + 0x10000 * i
/-- PCI_HOSTWIN (R34). -/
def rPciHostwin (i : Nat) : Nat := 0x16000010 + 0x10000 * i
/-- PCI_ERR (R36). -/
def rPciErr (i : Nat) : Nat := 0x16000020 + 0x10000 * i
/-- PCI_ERR_ADDR_LO (R36). -/
def rPciErrAddrLo (i : Nat) : Nat := 0x16000030 + 0x10000 * i
/-- PCI_ERR_ADDR_HI (R36). -/
def rPciErrAddrHi (i : Nat) : Nat := 0x16000034 + 0x10000 * i
/-- PCI_BULK_BASE_LO (R33). -/
def rPciBulkBaseLo (i : Nat) : Nat := 0x16000040 + 0x10000 * i
/-- PCI_BULK_BASE_HI (R33). -/
def rPciBulkBaseHi (i : Nat) : Nat := 0x16000044 + 0x10000 * i
/-- PCI_BULK_PTR_LO (R33). -/
def rPciBulkPtrLo (i : Nat) : Nat := 0x16000050 + 0x10000 * i
/-- PCI_BULK_PTR_HI (R33). -/
def rPciBulkPtrHi (i : Nat) : Nat := 0x16000054 + 0x10000 * i
/-- PCI_DROP_COUNT (R36). -/
def rPciDropCount (i : Nat) : Nat := 0x16000060 + 0x10000 * i

/-- Registers of the TOP block, part 0 (R376 to R380). TOP_ID's LID is a fuse (Table 17-4): its value after reset here is the
lid of State.reset, and a power cycle shows the one of `FuseSt` (log 1). -/
def rowsTop0 : List RegRow :=
    [ ⟨0x0, [], 0x812000b1, 0xffff03ff, 0x0, 0x0, 0x0, 0x0, 0x0, 0x0, .single⟩,  -- TOP_ID
      ⟨0x4, [], 0x0, 0xff1fff, 0x0, 0x0, 0x0, 0x0, 0x0, 0x0, .single⟩,  -- TOP_STATUS
      ⟨0x10, [], 0x0, 0x0, 0x0, 0xff, 0x0, 0x0, 0x0, 0x0, .single⟩,  -- TOP_ACCESS_ERR
      ⟨0x14, [], 0x0, 0xffffff, 0x0, 0x0, 0x0, 0x0, 0x0, 0x0, .single⟩,  -- TOP_ACCESS_SRC
      ⟨0x18, [], 0x0, 0xffffffff, 0x0, 0x0, 0x0, 0x0, 0x0, 0x0, .plainLo⟩,  -- TOP_ACCESS_ADDR_LO
      ⟨0x1c, [], 0x0, 0xffffffff, 0x0, 0x0, 0x0, 0x0, 0x0, 0x0, .plainHi⟩,  -- TOP_ACCESS_ADDR_HI
      ⟨0x20, [], 0x0, 0x0, 0x0, 0x0, 0x0, 0xffffffff, 0x0, 0x0, .single⟩,  -- TOP_ACCESS_COUNT
      ⟨0x800000, [(0x1000, 8)], 0x0, 0x0, 0x0, 0x0, 0x3, 0x0, 0x0, 0x0, .single⟩,  -- TOP_P_CTL
      ⟨0x800004, [(0x1000, 8)], 0x10000, 0x1ffff, 0x0, 0x0, 0x0, 0x0, 0x0, 0xff, .single⟩,  -- TOP_P_STATUS
      ⟨0x800010, [(0x1000, 8)], 0x0, 0xffffffff, 0x0, 0x0, 0x0, 0x0, 0x0, 0xffffffff, .single⟩ ]  -- TOP_P_HBMWIN

/-- Registers of the TOP block, part 1 (R376 to R380). -/
def rowsTop1 : List RegRow :=
    [ ⟨0x800014, [(0x1000, 8)], 0x0, 0xffffffff, 0x0, 0x0, 0x0, 0x0, 0x0, 0xffffffff, .single⟩,  -- TOP_P_SUMPWIN
      ⟨0x800018, [(0x1000, 8)], 0x0, 0xffffffff, 0x0, 0x0, 0x0, 0x0, 0x0, 0xffffffff, .single⟩,  -- TOP_P_MGDWIN
      ⟨0x800020, [(0x1000, 8)], 0x0, 0x0, 0xffffffff, 0x0, 0x0, 0x0, 0x0, 0x0, .plainLo⟩,  -- TOP_SEED_LO
      ⟨0x800024, [(0x1000, 8)], 0x0, 0x0, 0xffffffff, 0x0, 0x0, 0x0, 0x0, 0x0, .plainHi⟩ ]  -- TOP_SEED_HI

/-- Registers of the TOP block. -/
def rowsTop : List RegRow := rowsTop0 ++ rowsTop1

/-- Registers of the QMG block, part 0 (R252). -/
def rowsQmg0 : List RegRow :=
    [ ⟨0x1000000, [], 0x0, 0x3, 0x0, 0x0, 0x0, 0x0, 0x0, 0x0, .single⟩,  -- QMG_STATUS
      ⟨0x1000010, [], 0x0, 0x0, 0x0, 0x1f, 0x0, 0x0, 0x0, 0x0, .single⟩,  -- QMG_ERR
      ⟨0x1000014, [], 0x0, 0xffff, 0x0, 0x0, 0x0, 0x0, 0x0, 0x0, .single⟩,  -- QMG_ERR_Q
      ⟨0x1000018, [], 0x0, 0xffffffff, 0x0, 0x0, 0x0, 0x0, 0x0, 0x0, .single⟩,  -- QMG_ERR_SEQ
      ⟨0x1000020, [], 0x0, 0xffffffff, 0x0, 0x0, 0x0, 0x0, 0x0, 0x0, .counterLo⟩,  -- QMG_DISPATCH_LO
      ⟨0x1000024, [], 0x0, 0xffffffff, 0x0, 0x0, 0x0, 0x0, 0x0, 0x0, .counterHi⟩,  -- QMG_DISPATCH_HI
      ⟨0x1000028, [], 0x0, 0xffffffff, 0x0, 0x0, 0x0, 0x0, 0x0, 0x0, .plainLo⟩,  -- QMG_MODE_TA_LO
      ⟨0x100002c, [], 0x0, 0xffffffff, 0x0, 0x0, 0x0, 0x0, 0x0, 0x0, .plainHi⟩,  -- QMG_MODE_TA_HI
      ⟨0x1000100, [(0x4, 64)], 0x0, 0x1f, 0x0, 0x0, 0x0, 0x0, 0x0, 0x1f, .single⟩,  -- QMG_CBLK_OWN
      ⟨0x1400000, [(0x40, 65536)], 0x0, 0x0, 0xfffff000, 0x0, 0x0, 0x0, 0x0, 0x0, .plainLo⟩ ]  -- QMG_Q_BASE_LO

/-- Registers of the QMG block, part 1 (R252). -/
def rowsQmg1 : List RegRow :=
    [ ⟨0x1400004, [(0x40, 65536)], 0x0, 0x0, 0xffffffff, 0x0, 0x0, 0x0, 0x0, 0x0, .plainHi⟩,  -- QMG_Q_BASE_HI
      ⟨0x1400008, [(0x40, 65536)], 0xc, 0x7c00000, 0x3fffff, 0x0, 0x0, 0x0, 0x0, 0x7c00000, .single⟩,  -- QMG_Q_CFG
      ⟨0x140000c, [(0x40, 65536)], 0x0, 0x1f, 0x0, 0x0, 0x0, 0x0, 0x0, 0x0, .single⟩,  -- QMG_Q_STATUS
      ⟨0x1400010, [(0x40, 65536)], 0x0, 0xffffffff, 0x0, 0x0, 0x0, 0x0, 0x0, 0x0, .single⟩,  -- QMG_Q_TAIL
      ⟨0x1400014, [(0x40, 65536)], 0x0, 0xffffffff, 0x0, 0x0, 0x0, 0x0, 0x0, 0x0, .single⟩,  -- QMG_Q_HEAD
      ⟨0x1400018, [(0x40, 65536)], 0x0, 0xffffffff, 0x0, 0x0, 0x0, 0x0, 0x0, 0x0, .single⟩,  -- QMG_Q_RETIRE
      ⟨0x140001c, [(0x40, 65536)], 0x0, 0x0, 0x0, 0x0, 0x0, 0x0, 0xffffffff, 0x0, .single⟩,  -- QMG_Q_DB
      ⟨0x1400020, [(0x40, 65536)], 0x0, 0x0, 0xffffffc0, 0x0, 0x0, 0x0, 0x0, 0x0, .plainLo⟩,  -- QMG_Q_CPL_LO
      ⟨0x1400024, [(0x40, 65536)], 0x0, 0x0, 0xffffffff, 0x0, 0x0, 0x0, 0x0, 0x0, .plainHi⟩,  -- QMG_Q_CPL_HI
      ⟨0x1400028, [(0x40, 65536)], 0x0, 0x0, 0x1, 0x0, 0x2, 0x0, 0x0, 0x0, .single⟩ ]  -- QMG_Q_CTL

/-- Registers of the QMG block, part 2 (R252). -/
def rowsQmg2 : List RegRow :=
    [ ⟨0x140002c, [(0x40, 65536)], 0x0, 0x0, 0x0, 0x7, 0x0, 0x0, 0x0, 0x0, .single⟩,  -- QMG_Q_ERR
      ⟨0x1800000, [(0x8, 262144)], 0x0, 0x0, 0xffffffff, 0x0, 0x0, 0x0, 0x0, 0x0, .single⟩,  -- QMG_CNT_VAL
      ⟨0x1800004, [(0x8, 262144)], 0x0, 0x1, 0x0, 0x0, 0x0, 0x0, 0xfffffffe, 0x0, .single⟩ ]  -- QMG_CNT_ADD

/-- Registers of the QMG block. -/
def rowsQmg : List RegRow := rowsQmg0 ++ rowsQmg1 ++ rowsQmg2

/-- Registers of the DMA block, part 0 (R253 and R158). -/
def rowsDma0 : List RegRow :=
    [ ⟨0x2000000, [(0x1000, 96)], 0x0, 0xf, 0x0, 0x0, 0x0, 0x0, 0x0, 0x0, .single⟩,  -- DMA_STATUS
      ⟨0x2000010, [(0x1000, 96)], 0x0, 0x0, 0x0, 0x7, 0x0, 0x0, 0x0, 0x0, .single⟩,  -- DMA_ERR
      ⟨0x2000018, [(0x1000, 96)], 0x0, 0xffffffff, 0x0, 0x0, 0x0, 0x0, 0x0, 0x0, .plainLo⟩,  -- DMA_ERR_ADDR_LO
      ⟨0x200001c, [(0x1000, 96)], 0x0, 0xffffffff, 0x0, 0x0, 0x0, 0x0, 0x0, 0x0, .plainHi⟩,  -- DMA_ERR_ADDR_HI
      ⟨0x2000020, [(0x1000, 96)], 0x0, 0xffffffff, 0x0, 0x0, 0x0, 0x0, 0x0, 0x0, .counterLo⟩,  -- DMA_BYTES_LO
      ⟨0x2000024, [(0x1000, 96)], 0x0, 0xffffffff, 0x0, 0x0, 0x0, 0x0, 0x0, 0x0, .counterHi⟩,  -- DMA_BYTES_HI
      ⟨0x2000028, [(0x1000, 96)], 0x0, 0xffffffff, 0x0, 0x0, 0x0, 0x0, 0x0, 0x0, .counterLo⟩,  -- DMA_CMDS_LO
      ⟨0x200002c, [(0x1000, 96)], 0x0, 0xffffffff, 0x0, 0x0, 0x0, 0x0, 0x0, 0x0, .counterHi⟩,  -- DMA_CMDS_HI
      ⟨0x2800000, [(0x1000, 8)], 0x0, 0x0, 0x1, 0x0, 0x0, 0x0, 0x0, 0x0, .single⟩,  -- DMA_KV_CTL
      ⟨0x2800004, [(0x1000, 8)], 0x0, 0x0, 0x7ff07ff, 0x0, 0x0, 0x0, 0x0, 0x0, .single⟩ ]  -- DMA_KV_GEOM

/-- Registers of the DMA block, part 1 (R253 and R158). -/
def rowsDma1 : List RegRow :=
    [ ⟨0x2800008, [(0x1000, 8)], 0x0, 0x0, 0x1fff, 0x0, 0x0, 0x0, 0x0, 0x0, .single⟩,  -- DMA_KV_SLOTS
      ⟨0x2800010, [(0x1000, 8)], 0x0, 0x0, 0xffffffc0, 0x0, 0x0, 0x0, 0x0, 0x0, .plainLo⟩,  -- DMA_KV_TBL_LO
      ⟨0x2800014, [(0x1000, 8)], 0x0, 0x0, 0xffffffff, 0x0, 0x0, 0x0, 0x0, 0x0, .plainHi⟩,  -- DMA_KV_TBL_HI
      ⟨0x2800018, [(0x1000, 8)], 0x0, 0x0, 0xfffc0000, 0x0, 0x0, 0x0, 0x0, 0x0, .plainLo⟩,  -- DMA_KV_HOD_LO
      ⟨0x280001c, [(0x1000, 8)], 0x0, 0x0, 0xffffffff, 0x0, 0x0, 0x0, 0x0, 0x0, .plainHi⟩,  -- DMA_KV_HOD_HI
      ⟨0x2800020, [(0x1000, 8)], 0x0, 0x0, 0x0, 0x3f, 0x0, 0x0, 0x0, 0x0, .single⟩,  -- DMA_KV_ERR
      ⟨0x2800024, [(0x1000, 8)], 0x0, 0xfff, 0x0, 0x0, 0x0, 0x0, 0x0, 0x0, .single⟩,  -- DMA_KV_ERR_SLOT
      ⟨0x2800028, [(0x1000, 8)], 0x0, 0x1fff, 0x0, 0x0, 0x0, 0x0, 0x0, 0x0, .single⟩,  -- DMA_KV_OPEN
      ⟨0x2800030, [(0x1000, 8)], 0x0, 0xffffffff, 0x0, 0x0, 0x0, 0x0, 0x0, 0x0, .counterLo⟩,  -- DMA_KV_FLUSH_LO
      ⟨0x2800034, [(0x1000, 8)], 0x0, 0xffffffff, 0x0, 0x0, 0x0, 0x0, 0x0, 0x0, .counterHi⟩ ]  -- DMA_KV_FLUSH_HI

/-- Registers of the DMA block, part 2 (R253 and R158). -/
def rowsDma2 : List RegRow :=
    [ ⟨0x2800038, [(0x1000, 8)], 0x0, 0xffffffff, 0x0, 0x0, 0x0, 0x0, 0x0, 0x0, .counterLo⟩,  -- DMA_KV_WALK_LO
      ⟨0x280003c, [(0x1000, 8)], 0x0, 0xffffffff, 0x0, 0x0, 0x0, 0x0, 0x0, 0x0, .counterHi⟩ ]  -- DMA_KV_WALK_HI

/-- Registers of the DMA block. -/
def rowsDma : List RegRow := rowsDma0 ++ rowsDma1 ++ rowsDma2

/-- Registers of the TSQ block, part 0 (R143). -/
def rowsTsq0 : List RegRow :=
    [ ⟨0x3000000, [(0x800000, 2)], 0x0, 0x3ff, 0x0, 0x0, 0x0, 0x0, 0x0, 0x0, .single⟩,  -- TSQ_STATUS
      ⟨0x3000010, [(0x800000, 2)], 0x0, 0x0, 0x0, 0x3f, 0x0, 0x0, 0x0, 0x0, .single⟩,  -- TSQ_ERR
      ⟨0x3000014, [(0x800000, 2)], 0x0, 0xffff, 0x0, 0x0, 0x0, 0x0, 0x0, 0x0, .single⟩,  -- TSQ_ERR_Q
      ⟨0x3000018, [(0x800000, 2)], 0x0, 0xffffffff, 0x0, 0x0, 0x0, 0x0, 0x0, 0x0, .single⟩,  -- TSQ_ERR_SEQ
      ⟨0x3000020, [(0x800000, 2)], 0x0, 0xffffffff, 0x0, 0x0, 0x0, 0x0, 0x0, 0x0, .counterLo⟩,  -- TSQ_TILES_LO
      ⟨0x3000024, [(0x800000, 2)], 0x0, 0xffffffff, 0x0, 0x0, 0x0, 0x0, 0x0, 0x0, .counterHi⟩,  -- TSQ_TILES_HI
      ⟨0x3000028, [(0x800000, 2)], 0x0, 0xffffffff, 0x0, 0x0, 0x0, 0x0, 0x0, 0x0, .counterLo⟩,  -- TSQ_MCAST_LO
      ⟨0x300002c, [(0x800000, 2)], 0x0, 0xffffffff, 0x0, 0x0, 0x0, 0x0, 0x0, 0x0, .counterHi⟩,  -- TSQ_MCAST_HI
      ⟨0x3000030, [(0x800000, 2)], 0x0, 0x0, 0x0, 0x0, 0x0, 0xffffffff, 0x0, 0x0, .single⟩,  -- TSQ_REISSUE
      ⟨0x3000034, [(0x800000, 2)], 0x0, 0x0, 0x0, 0x0, 0x0, 0xffffffff, 0x0, 0x0, .single⟩ ]  -- TSQ_RESTART

/-- Registers of the TSQ block, part 1 (R143). -/
def rowsTsq1 : List RegRow :=
    [ ⟨0x3000038, [(0x800000, 2)], 0x0, 0xffffffff, 0x0, 0x0, 0x0, 0x0, 0x0, 0x0, .counterLo⟩,  -- TSQ_STAGE_BYTES_LO
      ⟨0x300003c, [(0x800000, 2)], 0x0, 0xffffffff, 0x0, 0x0, 0x0, 0x0, 0x0, 0x0, .counterHi⟩,  -- TSQ_STAGE_BYTES_HI
      ⟨0x3100000, [(0x800000, 2), (0x1000, 256)], 0x0, 0x1f, 0x0, 0x0, 0x0, 0x0, 0x0, 0x0, .single⟩,  -- TSQ_L_STATE
      ⟨0x3100004, [(0x800000, 2), (0x1000, 256)], 0x0, 0xfffff, 0x0, 0x0, 0x0, 0x0, 0x0, 0x0, .single⟩,  -- TSQ_L_Q
      ⟨0x3100008, [(0x800000, 2), (0x1000, 256)], 0x0, 0xffffffff, 0x0, 0x0, 0x0, 0x0, 0x0, 0x0, .single⟩,  -- TSQ_L_SEQ
      ⟨0x3100010, [(0x800000, 2), (0x1000, 256)], 0x0, 0xffffffff, 0x0, 0x0, 0x0, 0x0, 0x0, 0x0, .plainLo⟩,  -- TSQ_L_NEXT_LO
      ⟨0x3100014, [(0x800000, 2), (0x1000, 256)], 0x0, 0xffffffff, 0x0, 0x0, 0x0, 0x0, 0x0, 0x0, .plainHi⟩,  -- TSQ_L_NEXT_HI
      ⟨0x3100018, [(0x800000, 2), (0x1000, 256)], 0x0, 0xffffffff, 0x0, 0x0, 0x0, 0x0, 0x0, 0x0, .counterLo⟩,  -- TSQ_L_RETIRED_LO
      ⟨0x310001c, [(0x800000, 2), (0x1000, 256)], 0x0, 0xffffffff, 0x0, 0x0, 0x0, 0x0, 0x0, 0x0, .counterHi⟩,  -- TSQ_L_RETIRED_HI
      ⟨0x3100020, [(0x800000, 2), (0x1000, 256)], 0x0, 0xffffffff, 0x0, 0x0, 0x0, 0x0, 0x0, 0x0, .single⟩ ]  -- TSQ_L_HELD

/-- Registers of the TSQ block, part 2 (R143). -/
def rowsTsq2 : List RegRow :=
    [ ⟨0x3100024, [(0x800000, 2), (0x1000, 256)], 0x0, 0x7ff07ff, 0x0, 0x0, 0x0, 0x0, 0x0, 0x0, .single⟩,  -- TSQ_L_CORES
      ⟨0x3100028, [(0x800000, 2), (0x1000, 256)], 0x0, 0x1ffffff, 0x0, 0x0, 0x0, 0x0, 0x0, 0x0, .single⟩,  -- TSQ_L_STRIPE
      ⟨0x310002c, [(0x800000, 2), (0x1000, 256)], 0x0, 0xffffffff, 0x0, 0x0, 0x0, 0x0, 0x0, 0x0, .single⟩ ]  -- TSQ_L_LOST

/-- Registers of the TSQ block. -/
def rowsTsq : List RegRow := rowsTsq0 ++ rowsTsq1 ++ rowsTsq2

/-- Registers of the CORE block, part 0 (R121). -/
def rowsCore0 : List RegRow :=
    [ ⟨0x4000000, [(0x1000, 1536)], 0x0, 0xfff, 0x0, 0x0, 0x0, 0x0, 0x0, 0x0, .single⟩,  -- CORE_STATUS
      ⟨0x4000004, [(0x1000, 1536)], 0x0, 0x1ff, 0x0, 0x0, 0x0, 0x0, 0x0, 0x0, .single⟩,  -- CORE_PHYS
      ⟨0x4000010, [(0x1000, 1536)], 0x0, 0xffff, 0x0, 0x80000000, 0x0, 0x0, 0x0, 0x0, .single⟩,  -- CORE_EXC
      ⟨0x4000018, [(0x1000, 1536)], 0x0, 0xffffffff, 0x0, 0x0, 0x0, 0x0, 0x0, 0x0, .plainLo⟩,  -- CORE_EXC_PC_LO
      ⟨0x400001c, [(0x1000, 1536)], 0x0, 0xffffffff, 0x0, 0x0, 0x0, 0x0, 0x0, 0x0, .plainHi⟩,  -- CORE_EXC_PC_HI
      ⟨0x4000020, [(0x1000, 1536)], 0x0, 0x0, 0x0, 0x1f, 0x0, 0x0, 0x0, 0x0, .single⟩,  -- CORE_FLAGS
      ⟨0x4000030, [(0x1000, 1536)], 0x0, 0x0, 0x0, 0x0, 0x0, 0xffffffff, 0x0, 0x0, .single⟩,  -- CORE_POISON_COUNT
      ⟨0x4000034, [(0x1000, 1536)], 0x0, 0x0, 0x0, 0x0, 0x0, 0xffffffff, 0x0, 0x0, .single⟩,  -- CORE_IDXRANGE_COUNT
      ⟨0x4000040, [(0x1000, 1536)], 0x0, 0xffffffff, 0x0, 0x0, 0x0, 0x0, 0x0, 0x0, .counterLo⟩,  -- CORE_TINSTR_LO
      ⟨0x4000044, [(0x1000, 1536)], 0x0, 0xffffffff, 0x0, 0x0, 0x0, 0x0, 0x0, 0x0, .counterHi⟩ ]  -- CORE_TINSTR_HI

/-- Registers of the CORE block, part 1 (R121). -/
def rowsCore1 : List RegRow :=
    [ ⟨0x4000048, [(0x1000, 1536)], 0x0, 0xffffffff, 0x0, 0x0, 0x0, 0x0, 0x0, 0x0, .counterLo⟩,  -- CORE_MAC_LO
      ⟨0x400004c, [(0x1000, 1536)], 0x0, 0xffffffff, 0x0, 0x0, 0x0, 0x0, 0x0, 0x0, .counterHi⟩,  -- CORE_MAC_HI
      ⟨0x4000050, [(0x1000, 1536)], 0x0, 0xffffffff, 0x0, 0x0, 0x0, 0x0, 0x0, 0x0, .counterLo⟩,  -- CORE_BUSY_LO
      ⟨0x4000054, [(0x1000, 1536)], 0x0, 0xffffffff, 0x0, 0x0, 0x0, 0x0, 0x0, 0x0, .counterHi⟩,  -- CORE_BUSY_HI
      ⟨0x4000058, [(0x1000, 1536)], 0x0, 0xffffffff, 0x0, 0x0, 0x0, 0x0, 0x0, 0x0, .counterLo⟩,  -- CORE_SBSTALL_LO
      ⟨0x400005c, [(0x1000, 1536)], 0x0, 0xffffffff, 0x0, 0x0, 0x0, 0x0, 0x0, 0x0, .counterHi⟩,  -- CORE_SBSTALL_HI
      ⟨0x4600000, [(0x1000, 8), (0x4, 8)], 0x0, 0xff03ff, 0x0, 0x0, 0x0, 0x0, 0x0, 0x0, .single⟩ ]  -- CORE_SPARE_SLOT

/-- Registers of the CORE block. -/
def rowsCore : List RegRow := rowsCore0 ++ rowsCore1

/-- Registers of the GAL block, part 0 (R177). -/
def rowsGal0 : List RegRow :=
    [ ⟨0x5000000, [(0x100000, 8)], 0x8, 0xf, 0x0, 0x0, 0x0, 0x0, 0x0, 0x0, .single⟩,  -- GAL_STATUS
      ⟨0x5000010, [(0x100000, 8)], 0x0, 0x0, 0x0, 0x3f, 0x0, 0x0, 0x0, 0x0, .single⟩,  -- GAL_ERR
      ⟨0x5000018, [(0x100000, 8)], 0x0, 0xffffffff, 0x0, 0x0, 0x0, 0x0, 0x0, 0x0, .plainLo⟩,  -- GAL_ERR_ADDR_LO
      ⟨0x500001c, [(0x100000, 8)], 0x0, 0xffffffff, 0x0, 0x0, 0x0, 0x0, 0x0, 0x0, .plainHi⟩,  -- GAL_ERR_ADDR_HI
      ⟨0x5000020, [(0x100000, 8)], 0x0, 0x3ffffff, 0x0, 0x0, 0x0, 0x0, 0x0, 0x0, .single⟩,  -- GAL_ERR_INFO
      ⟨0x5000030, [(0x100000, 8)], 0x0, 0x0, 0x0, 0x0, 0x0, 0xffffffff, 0x0, 0x0, .single⟩,  -- GAL_CE_COUNT
      ⟨0x5000034, [(0x100000, 8)], 0x0, 0x0, 0x0, 0x0, 0x0, 0xffffffff, 0x0, 0x0, .single⟩,  -- GAL_UE_COUNT
      ⟨0x5000038, [(0x100000, 8)], 0x0, 0x0, 0x0, 0x0, 0x0, 0xffffffff, 0x0, 0x0, .single⟩,  -- GAL_PWPOISON_COUNT
      ⟨0x500003c, [(0x100000, 8)], 0x0, 0x0, 0x0, 0x0, 0x0, 0xffffffff, 0x0, 0x0, .single⟩,  -- GAL_POISON_READ_COUNT
      ⟨0x5000044, [(0x100000, 8)], 0xe100100, 0x0, 0xffffffff, 0x0, 0x0, 0x0, 0x0, 0x0, .single⟩ ]  -- GAL_CE_THRESH

/-- Registers of the GAL block, part 1 (R177). -/
def rowsGal1 : List RegRow :=
    [ ⟨0x5000050, [(0x100000, 8)], 0x1801, 0x0, 0xff01, 0x0, 0x10000, 0x0, 0x0, 0x0, .single⟩,  -- GAL_SCRUB_CTL
      ⟨0x5000058, [(0x100000, 8)], 0x0, 0xffffffff, 0x0, 0x0, 0x0, 0x0, 0x0, 0x0, .plainLo⟩,  -- GAL_SCRUB_POS_LO
      ⟨0x500005c, [(0x100000, 8)], 0x0, 0xffffffff, 0x0, 0x0, 0x0, 0x0, 0x0, 0x0, .plainHi⟩,  -- GAL_SCRUB_POS_HI
      ⟨0x5000060, [(0x100000, 8)], 0x0, 0x0, 0xffffffc0, 0x0, 0x0, 0x0, 0x0, 0x0, .plainLo⟩,  -- GAL_RANGE_BASE_LO
      ⟨0x5000064, [(0x100000, 8)], 0x0, 0x0, 0xffffffff, 0x0, 0x0, 0x0, 0x0, 0x0, .plainHi⟩,  -- GAL_RANGE_BASE_HI
      ⟨0x5000068, [(0x100000, 8)], 0x0, 0x0, 0xffffffc0, 0x0, 0x0, 0x0, 0x0, 0x0, .plainLo⟩,  -- GAL_RANGE_LIMIT_LO
      ⟨0x500006c, [(0x100000, 8)], 0x0, 0x0, 0xffffffff, 0x0, 0x0, 0x0, 0x0, 0x0, .plainHi⟩,  -- GAL_RANGE_LIMIT_HI
      ⟨0x5000070, [(0x100000, 8)], 0x0, 0xffffff, 0x0, 0x0, 0x0, 0x0, 0x0, 0x0, .single⟩,  -- GAL_RANGE_FOUND
      ⟨0x5000080, [(0x100000, 8)], 0x0, 0xffffffff, 0x0, 0x0, 0x0, 0x0, 0x0, 0x0, .counterLo⟩,  -- GAL_RD_BYTES_LO
      ⟨0x5000084, [(0x100000, 8)], 0x0, 0xffffffff, 0x0, 0x0, 0x0, 0x0, 0x0, 0x0, .counterHi⟩ ]  -- GAL_RD_BYTES_HI

/-- Registers of the GAL block, part 2 (R177). -/
def rowsGal2 : List RegRow :=
    [ ⟨0x5000088, [(0x100000, 8)], 0x0, 0xffffffff, 0x0, 0x0, 0x0, 0x0, 0x0, 0x0, .counterLo⟩,  -- GAL_WR_BYTES_LO
      ⟨0x500008c, [(0x100000, 8)], 0x0, 0xffffffff, 0x0, 0x0, 0x0, 0x0, 0x0, 0x0, .counterHi⟩,  -- GAL_WR_BYTES_HI
      ⟨0x50000f0, [(0x100000, 8)], 0x0, 0x0, 0xffffffc0, 0x0, 0x0, 0x0, 0x0, 0x0, .plainLo⟩,  -- GAL_INJ_ADDR_LO
      ⟨0x50000f4, [(0x100000, 8)], 0x0, 0x0, 0xffffffff, 0x0, 0x0, 0x0, 0x0, 0x0, .plainHi⟩,  -- GAL_INJ_ADDR_HI
      ⟨0x50000f8, [(0x100000, 8)], 0x0, 0x0, 0x0, 0x0, 0x0, 0x0, 0x1ff, 0x0, .single⟩ ]  -- GAL_INJ_CTL

/-- Registers of the GAL block. -/
def rowsGal : List RegRow := rowsGal0 ++ rowsGal1 ++ rowsGal2

/-- Registers of the HBM block, part 0 (R177). -/
def rowsHbm0 : List RegRow :=
    [ ⟨0x6000000, [(0x100000, 12)], 0x0, 0xf, 0x0, 0x0, 0x0, 0x0, 0x0, 0x0, .single⟩,  -- HBM_STATUS
      ⟨0x6000010, [(0x100000, 12)], 0x0, 0x0, 0x0, 0x3f, 0x0, 0x0, 0x0, 0x0, .single⟩,  -- HBM_ERR
      ⟨0x6000018, [(0x100000, 12)], 0x0, 0xffffffff, 0x0, 0x0, 0x0, 0x0, 0x0, 0x0, .plainLo⟩,  -- HBM_ERR_ADDR_LO
      ⟨0x600001c, [(0x100000, 12)], 0x0, 0xffffffff, 0x0, 0x0, 0x0, 0x0, 0x0, 0x0, .plainHi⟩,  -- HBM_ERR_ADDR_HI
      ⟨0x6000020, [(0x100000, 12)], 0x0, 0x3ffffff, 0x0, 0x0, 0x0, 0x0, 0x0, 0x0, .single⟩,  -- HBM_ERR_INFO
      ⟨0x6000024, [(0x100000, 12)], 0x0, 0x3ff, 0x0, 0x0, 0x0, 0x0, 0x0, 0x0, .single⟩,  -- HBM_ERR_PC
      ⟨0x6000028, [(0x100000, 12)], 0x0, 0x3fffffff, 0x0, 0x0, 0x0, 0x0, 0x0, 0x0, .single⟩,  -- HBM_ERR_OFF
      ⟨0x6000030, [(0x100000, 12)], 0x0, 0x0, 0x0, 0x0, 0x0, 0xffffffff, 0x0, 0x0, .single⟩,  -- HBM_CE_COUNT
      ⟨0x6000034, [(0x100000, 12)], 0x0, 0x0, 0x0, 0x0, 0x0, 0xffffffff, 0x0, 0x0, .single⟩,  -- HBM_UE_COUNT
      ⟨0x6000038, [(0x100000, 12)], 0x0, 0x0, 0x0, 0x0, 0x0, 0xffffffff, 0x0, 0x0, .single⟩ ]  -- HBM_PWPOISON_COUNT

/-- Registers of the HBM block, part 1 (R177). -/
def rowsHbm1 : List RegRow :=
    [ ⟨0x600003c, [(0x100000, 12)], 0x0, 0x0, 0x0, 0x0, 0x0, 0xffffffff, 0x0, 0x0, .single⟩,  -- HBM_POISON_READ_COUNT
      ⟨0x6000040, [(0x100000, 12)], 0x0, 0x0, 0x0, 0x0, 0x0, 0xffffffff, 0x0, 0x0, .single⟩,  -- HBM_ODECC_COUNT
      ⟨0x6000044, [(0x100000, 12)], 0xe100100, 0x0, 0xffffffff, 0x0, 0x0, 0x0, 0x0, 0x0, .single⟩,  -- HBM_CE_THRESH
      ⟨0x6000050, [(0x100000, 12)], 0x1801, 0x0, 0xff01, 0x0, 0x10000, 0x0, 0x0, 0x0, .single⟩,  -- HBM_SCRUB_CTL
      ⟨0x6000058, [(0x100000, 12)], 0x0, 0xffffffff, 0x0, 0x0, 0x0, 0x0, 0x0, 0x0, .plainLo⟩,  -- HBM_SCRUB_POS_LO
      ⟨0x600005c, [(0x100000, 12)], 0x0, 0xffffffff, 0x0, 0x0, 0x0, 0x0, 0x0, 0x0, .plainHi⟩,  -- HBM_SCRUB_POS_HI
      ⟨0x6000060, [(0x100000, 12)], 0x0, 0x0, 0xffffffc0, 0x0, 0x0, 0x0, 0x0, 0x0, .plainLo⟩,  -- HBM_RANGE_BASE_LO
      ⟨0x6000064, [(0x100000, 12)], 0x0, 0x0, 0xffffffff, 0x0, 0x0, 0x0, 0x0, 0x0, .plainHi⟩,  -- HBM_RANGE_BASE_HI
      ⟨0x6000068, [(0x100000, 12)], 0x0, 0x0, 0xffffffc0, 0x0, 0x0, 0x0, 0x0, 0x0, .plainLo⟩,  -- HBM_RANGE_LIMIT_LO
      ⟨0x600006c, [(0x100000, 12)], 0x0, 0x0, 0xffffffff, 0x0, 0x0, 0x0, 0x0, 0x0, .plainHi⟩ ]  -- HBM_RANGE_LIMIT_HI

/-- Registers of the HBM block, part 2 (R177). -/
def rowsHbm2 : List RegRow :=
    [ ⟨0x6000070, [(0x100000, 12)], 0x0, 0xffffff, 0x0, 0x0, 0x0, 0x0, 0x0, 0x0, .single⟩,  -- HBM_RANGE_FOUND
      ⟨0x6000080, [(0x100000, 12)], 0x0, 0xffffffff, 0x0, 0x0, 0x0, 0x0, 0x0, 0x0, .counterLo⟩,  -- HBM_RD_BYTES_LO
      ⟨0x6000084, [(0x100000, 12)], 0x0, 0xffffffff, 0x0, 0x0, 0x0, 0x0, 0x0, 0x0, .counterHi⟩,  -- HBM_RD_BYTES_HI
      ⟨0x6000088, [(0x100000, 12)], 0x0, 0xffffffff, 0x0, 0x0, 0x0, 0x0, 0x0, 0x0, .counterLo⟩,  -- HBM_WR_BYTES_LO
      ⟨0x600008c, [(0x100000, 12)], 0x0, 0xffffffff, 0x0, 0x0, 0x0, 0x0, 0x0, 0x0, .counterHi⟩,  -- HBM_WR_BYTES_HI
      ⟨0x6000090, [(0x100000, 12)], 0x0, 0xffffffff, 0x0, 0x0, 0x0, 0x0, 0x0, 0x0, .counterLo⟩,  -- HBM_CHARGED_LO
      ⟨0x6000094, [(0x100000, 12)], 0x0, 0xffffffff, 0x0, 0x0, 0x0, 0x0, 0x0, 0x0, .counterHi⟩,  -- HBM_CHARGED_HI
      ⟨0x60000f0, [(0x100000, 12)], 0x0, 0x0, 0xffffffc0, 0x0, 0x0, 0x0, 0x0, 0x0, .plainLo⟩,  -- HBM_INJ_ADDR_LO
      ⟨0x60000f4, [(0x100000, 12)], 0x0, 0x0, 0xffffffff, 0x0, 0x0, 0x0, 0x0, 0x0, .plainHi⟩,  -- HBM_INJ_ADDR_HI
      ⟨0x60000f8, [(0x100000, 12)], 0x0, 0x0, 0x0, 0x0, 0x0, 0x0, 0x1ff, 0x0, .single⟩ ]  -- HBM_INJ_CTL

/-- Registers of the HBM block. -/
def rowsHbm : List RegRow := rowsHbm0 ++ rowsHbm1 ++ rowsHbm2

/-- Registers of the SMP block, part 0 (R229 and R210). -/
def rowsSmp0 : List RegRow :=
    [ ⟨0x7000000, [], 0x0, 0x7ffff, 0x0, 0x0, 0x0, 0x0, 0x0, 0x0, .single⟩,  -- SMP_STATUS
      ⟨0x7000010, [], 0x0, 0x0, 0x0, 0x3f, 0x0, 0x0, 0x0, 0x0, .single⟩,  -- SMP_ERR
      ⟨0x7000018, [], 0x0, 0xffffffff, 0x0, 0x0, 0x0, 0x0, 0x0, 0x0, .plainLo⟩,  -- SMP_ERR_ADDR_LO
      ⟨0x700001c, [], 0x0, 0xffffffff, 0x0, 0x0, 0x0, 0x0, 0x0, 0x0, .plainHi⟩,  -- SMP_ERR_ADDR_HI
      ⟨0x7000020, [], 0x0, 0xffffff, 0x0, 0x0, 0x0, 0x0, 0x0, 0x0, .single⟩,  -- SMP_ERR_INFO
      ⟨0x7000030, [], 0x0, 0xffffffff, 0x0, 0x0, 0x0, 0x0, 0x0, 0x0, .counterLo⟩,  -- SMP_PROMOTE_LO
      ⟨0x7000034, [], 0x0, 0xffffffff, 0x0, 0x0, 0x0, 0x0, 0x0, 0x0, .counterHi⟩,  -- SMP_PROMOTE_HI
      ⟨0x7000038, [], 0x0, 0xffffffff, 0x0, 0x0, 0x0, 0x0, 0x0, 0x0, .counterLo⟩,  -- SMP_WRITEBACK_LO
      ⟨0x700003c, [], 0x0, 0xffffffff, 0x0, 0x0, 0x0, 0x0, 0x0, 0x0, .counterHi⟩,  -- SMP_WRITEBACK_HI
      ⟨0x7000040, [], 0x0, 0x0, 0x0, 0x0, 0x0, 0xffffffff, 0x0, 0x0, .single⟩ ]  -- SMP_DAMAGE_COUNT

/-- Registers of the SMP block, part 1 (R229 and R210). -/
def rowsSmp1 : List RegRow :=
    [ ⟨0x7000048, [], 0x0, 0xffffffff, 0x0, 0x0, 0x0, 0x0, 0x0, 0xffffffff, .plainLo⟩,  -- SMP_TBL_BASE_LO
      ⟨0x700004c, [], 0x0, 0xffffffff, 0x0, 0x0, 0x0, 0x0, 0x0, 0xffffffff, .plainHi⟩,  -- SMP_TBL_BASE_HI
      ⟨0x7000050, [], 0x3e8, 0x0, 0xffff, 0x0, 0x0, 0x0, 0x0, 0x0, .single⟩,  -- SMP_STALL_LIMIT
      ⟨0x7000100, [(0x40, 8)], 0x0, 0x0, 0xffffffff, 0x0, 0x0, 0x0, 0x0, 0xffffffff, .single⟩,  -- SMP_QT0
      ⟨0x7000104, [(0x40, 8)], 0x0, 0x0, 0xffffffff, 0x0, 0x0, 0x0, 0x0, 0xffffffff, .single⟩,  -- SMP_QT1
      ⟨0x7000108, [(0x40, 8)], 0x0, 0x0, 0xffffffff, 0x0, 0x0, 0x0, 0x0, 0xffffffff, .single⟩,  -- SMP_QT2
      ⟨0x7000110, [(0x40, 8)], 0x0, 0xffffffff, 0x0, 0x0, 0x0, 0x0, 0x0, 0xffffffff, .plainLo⟩,  -- SMP_T1POOL_LO
      ⟨0x7000114, [(0x40, 8)], 0x0, 0xffffffff, 0x0, 0x0, 0x0, 0x0, 0x0, 0xffffffff, .plainHi⟩,  -- SMP_T1POOL_HI
      ⟨0x7000118, [(0x40, 8)], 0x0, 0xffffffff, 0x0, 0x0, 0x0, 0x0, 0x0, 0xffffffff, .single⟩,  -- SMP_T1POOL_SIZE
      ⟨0x7000120, [(0x40, 8)], 0x0, 0xffffffff, 0x0, 0x0, 0x0, 0x0, 0x0, 0xffffffff, .plainLo⟩ ]  -- SMP_T2POOL_LO

/-- Registers of the SMP block, part 2 (R229 and R210). -/
def rowsSmp2 : List RegRow :=
    [ ⟨0x7000124, [(0x40, 8)], 0x0, 0xffffffff, 0x0, 0x0, 0x0, 0x0, 0x0, 0xffffffff, .plainHi⟩,  -- SMP_T2POOL_HI
      ⟨0x7000128, [(0x40, 8)], 0x0, 0xffffffff, 0x0, 0x0, 0x0, 0x0, 0x0, 0xffffffff, .single⟩,  -- SMP_T2POOL_SIZE
      ⟨0x7800000, [(0x1000, 8)], 0x0, 0xf, 0x0, 0x0, 0x0, 0x0, 0x0, 0x0, .single⟩,  -- SMP_P_STATUS
      ⟨0x7800004, [(0x1000, 8)], 0x0, 0xffffffff, 0x0, 0x0, 0x0, 0x0, 0x0, 0x0, .single⟩,  -- SMP_P_USE0
      ⟨0x7800008, [(0x1000, 8)], 0x0, 0xffffffff, 0x0, 0x0, 0x0, 0x0, 0x0, 0x0, .single⟩,  -- SMP_P_USE1
      ⟨0x780000c, [(0x1000, 8)], 0x0, 0xffffffff, 0x0, 0x0, 0x0, 0x0, 0x0, 0x0, .single⟩,  -- SMP_P_USE2
      ⟨0x7800010, [(0x1000, 8)], 0x0, 0xffffffff, 0x0, 0x0, 0x0, 0x0, 0x0, 0x0, .single⟩,  -- SMP_P_ALLOC
      ⟨0x7800014, [(0x1000, 8)], 0x0, 0xffffffff, 0x0, 0x0, 0x0, 0x0, 0x0, 0x0, .single⟩,  -- SMP_P_PINNED
      ⟨0x7800020, [(0x1000, 8)], 0x0, 0xffffffff, 0x0, 0x0, 0x0, 0x0, 0x0, 0x0, .counterLo⟩,  -- SMP_P_FAULTS_LO
      ⟨0x7800024, [(0x1000, 8)], 0x0, 0xffffffff, 0x0, 0x0, 0x0, 0x0, 0x0, 0x0, .counterHi⟩ ]  -- SMP_P_FAULTS_HI

/-- Registers of the SMP block. -/
def rowsSmp : List RegRow := rowsSmp0 ++ rowsSmp1 ++ rowsSmp2

/-- Registers of the TRW block, part 0 (R209). -/
def rowsTrw0 : List RegRow :=
    [ ⟨0x8000000, [(0x100000, 10)], 0x0, 0x7, 0x0, 0x0, 0x0, 0x0, 0x0, 0x0, .single⟩,  -- TRW_STATUS
      ⟨0x8000004, [(0x100000, 10)], 0x0, 0x1fffff, 0x0, 0x0, 0x0, 0x0, 0x0, 0x0, .single⟩,  -- TRW_QUEUE_USE
      ⟨0x8000010, [(0x100000, 10)], 0x0, 0x0, 0x0, 0x1ff, 0x0, 0x0, 0x0, 0x0, .single⟩,  -- TRW_ERR
      ⟨0x8000014, [(0x100000, 10)], 0x0, 0xffffffff, 0x0, 0x0, 0x0, 0x0, 0x0, 0x0, .single⟩,  -- TRW_ERR_SLOT
      ⟨0x8000018, [(0x100000, 10)], 0x0, 0xffffffff, 0x0, 0x0, 0x0, 0x0, 0x0, 0x0, .plainLo⟩,  -- TRW_ERR_BLOCK_LO
      ⟨0x800001c, [(0x100000, 10)], 0x0, 0xffffffff, 0x0, 0x0, 0x0, 0x0, 0x0, 0x0, .plainHi⟩,  -- TRW_ERR_BLOCK_HI
      ⟨0x8000030, [(0x100000, 10)], 0x0, 0xffffffff, 0x0, 0x0, 0x0, 0x0, 0x0, 0x0, .counterLo⟩,  -- TRW_IN_BYTES_LO
      ⟨0x8000034, [(0x100000, 10)], 0x0, 0xffffffff, 0x0, 0x0, 0x0, 0x0, 0x0, 0x0, .counterHi⟩,  -- TRW_IN_BYTES_HI
      ⟨0x8000038, [(0x100000, 10)], 0x0, 0xffffffff, 0x0, 0x0, 0x0, 0x0, 0x0, 0x0, .counterLo⟩,  -- TRW_OUT_BYTES_LO
      ⟨0x800003c, [(0x100000, 10)], 0x0, 0xffffffff, 0x0, 0x0, 0x0, 0x0, 0x0, 0x0, .counterHi⟩ ]  -- TRW_OUT_BYTES_HI

/-- Registers of the TRW block, part 1 (R209). -/
def rowsTrw1 : List RegRow :=
    [ ⟨0x8000040, [(0x100000, 10)], 0x0, 0xffffffff, 0x0, 0x0, 0x0, 0x0, 0x0, 0x0, .counterLo⟩,  -- TRW_STALL_LO
      ⟨0x8000044, [(0x100000, 10)], 0x0, 0xffffffff, 0x0, 0x0, 0x0, 0x0, 0x0, 0x0, .counterHi⟩,  -- TRW_STALL_HI
      ⟨0x8000050, [(0x100000, 10)], 0x0, 0x0, 0x0, 0x0, 0x0, 0xffffffff, 0x0, 0x0, .single⟩,  -- TRW_RAW_COUNT
      ⟨0x8000054, [(0x100000, 10)], 0x0, 0x0, 0x0, 0x0, 0x0, 0xffffffff, 0x0, 0x0, .single⟩,  -- TRW_DAMAGE_COUNT
      ⟨0x8000058, [(0x100000, 10)], 0x0, 0x0, 0x0, 0x0, 0x0, 0xffffffff, 0x0, 0x0, .single⟩,  -- TRW_INTRA_COUNT
      ⟨0x800005c, [(0x100000, 10)], 0x0, 0x0, 0x0, 0x0, 0x0, 0xffffffff, 0x0, 0x0, .single⟩,  -- TRW_CHAIN_FRAMES
      ⟨0x8000060, [(0x100000, 10)], 0x0, 0x0, 0x0, 0x0, 0x0, 0xffffffff, 0x0, 0x0, .single⟩,  -- TRW_NONFINITE_COUNT
      ⟨0x8c00000, [(0x1000, 8)], 0x62, 0x2, 0xf1, 0x0, 0x0, 0x0, 0x0, 0x0, .single⟩,  -- TRW_PCTL
      ⟨0x8c00008, [(0x1000, 8)], 0x0, 0x0, 0xffe00000, 0x0, 0x0, 0x0, 0x0, 0x0, .plainLo⟩,  -- TRW_SLOT_BASE_LO
      ⟨0x8c0000c, [(0x1000, 8)], 0x0, 0x0, 0xffffffff, 0x0, 0x0, 0x0, 0x0, 0x0, .plainHi⟩ ]  -- TRW_SLOT_BASE_HI

/-- Registers of the TRW block, part 2 (R209). -/
def rowsTrw2 : List RegRow :=
    [ ⟨0x8c00010, [(0x1000, 8)], 0x0, 0x1fff, 0x0, 0x0, 0x0, 0x0, 0x0, 0x0, .single⟩,  -- TRW_SLOTS_OPEN
      ⟨0x8c00014, [(0x1000, 8)], 0x0, 0x0, 0x0, 0x1, 0x0, 0x0, 0x0, 0x0, .single⟩ ]  -- TRW_PERR

/-- Registers of the TRW block. -/
def rowsTrw : List RegRow := rowsTrw0 ++ rowsTrw1 ++ rowsTrw2

/-- Registers of the COL block, part 0 (R298, R271 and R315). -/
def rowsCol0 : List RegRow :=
    [ ⟨0x9000000, [], 0x0, 0xfff, 0x0, 0x0, 0x0, 0x0, 0x0, 0x0, .single⟩,  -- COL_STATUS
      ⟨0x9000004, [], 0x0, 0xfff7, 0x0, 0x0, 0x0, 0x0, 0x0, 0xfff7, .single⟩,  -- COL_COORD
      ⟨0x9000010, [], 0x0, 0x0, 0x0, 0x7f, 0x0, 0x0, 0x0, 0x0, .single⟩,  -- COL_ERR
      ⟨0x9000014, [], 0x0, 0xffff03ff, 0x0, 0x0, 0x0, 0x0, 0x0, 0x0, .single⟩,  -- COL_ERR_INFO
      ⟨0x9000018, [], 0x63, 0x0, 0xff, 0x0, 0x0, 0x0, 0x0, 0x0, .single⟩,  -- COL_HB_MISS
      ⟨0x9000020, [], 0x0, 0xffffffff, 0x0, 0x0, 0x0, 0x0, 0x0, 0xffffffff, .plainLo⟩,  -- COL_PT_BASE_LO
      ⟨0x9000024, [], 0x0, 0xffffffff, 0x0, 0x0, 0x0, 0x0, 0x0, 0xffffffff, .plainHi⟩,  -- COL_PT_BASE_HI
      ⟨0x9000028, [], 0x0, 0x0, 0xfffff000, 0x0, 0x0, 0x0, 0x0, 0x0, .plainLo⟩,  -- COL_EVT_BASE_LO
      ⟨0x900002c, [], 0x0, 0x0, 0xffffffff, 0x0, 0x0, 0x0, 0x0, 0x0, .plainHi⟩,  -- COL_EVT_BASE_HI
      ⟨0x9000030, [], 0x0, 0xff, 0x0, 0x0, 0x0, 0x0, 0x0, 0x0, .single⟩ ]  -- COL_EVT_HEAD

/-- Registers of the COL block, part 1 (R298, R271 and R315). -/
def rowsCol1 : List RegRow :=
    [ ⟨0x9000034, [], 0x0, 0x0, 0xff, 0x0, 0x0, 0x0, 0x0, 0x0, .single⟩,  -- COL_EVT_TAIL
      ⟨0x9000038, [], 0x0, 0x0, 0x1fff, 0x0, 0x0, 0x0, 0x0, 0x0, .single⟩,  -- COL_EVT_CFG
      ⟨0x9000040, [], 0x0, 0x0, 0x3, 0x0, 0x0, 0x0, 0x0, 0x3, .single⟩,  -- COL_TSYNC_CFG
      ⟨0x9000044, [], 0x0, 0xffffffff, 0x0, 0x0, 0x0, 0x0, 0x0, 0x0, .single⟩,  -- COL_TSYNC_OFS
      ⟨0x9000050, [], 0x0, 0xffffffff, 0x0, 0x0, 0x0, 0x0, 0x0, 0x0, .counterLo⟩,  -- COL_WIRE_BYTES_LO
      ⟨0x9000054, [], 0x0, 0xffffffff, 0x0, 0x0, 0x0, 0x0, 0x0, 0x0, .counterHi⟩,  -- COL_WIRE_BYTES_HI
      ⟨0x9000058, [], 0x0, 0x0, 0x0, 0x0, 0x0, 0xffffffff, 0x0, 0x0, .single⟩,  -- COL_LOSS_COUNT
      ⟨0x9400000, [(0x10000, 8), (0x40, 64)], 0x0, 0x0, 0x7ff01, 0x0, 0x0, 0x0, 0x0, 0x0, .single⟩,  -- COL_G_CTL
      ⟨0x9400004, [(0x10000, 8), (0x40, 64)], 0x0, 0x0, 0xffffff, 0x0, 0x0, 0x0, 0x0, 0x0, .single⟩,  -- COL_G_AXSLOT
      ⟨0x9400008, [(0x10000, 8), (0x40, 64)], 0x0, 0x0, 0xffffff, 0x0, 0x0, 0x0, 0x0, 0x0, .single⟩ ]  -- COL_G_AXTRAY

/-- Registers of the COL block, part 2 (R298, R271 and R315). -/
def rowsCol2 : List RegRow :=
    [ ⟨0x940000c, [(0x10000, 8), (0x40, 64)], 0x0, 0x0, 0xffffff, 0x0, 0x0, 0x0, 0x0, 0x0, .single⟩,  -- COL_G_AXRACK
      ⟨0x9400010, [(0x10000, 8), (0x40, 64)], 0x1, 0x0, 0xff, 0x0, 0x0, 0x0, 0x0, 0x0, .single⟩,  -- COL_G_WEIGHT
      ⟨0x9400014, [(0x10000, 8), (0x40, 64)], 0x0, 0xffffffff, 0x0, 0x0, 0x0, 0x0, 0x0, 0x0, .single⟩,  -- COL_G_INFO
      ⟨0x9400018, [(0x10000, 8), (0x40, 64)], 0x0, 0xffff0003, 0x0, 0x0, 0x0, 0x0, 0x0, 0x0, .single⟩,  -- COL_G_STATE
      ⟨0x940001c, [(0x10000, 8), (0x40, 64)], 0x0, 0xffffffff, 0x0, 0x0, 0x0, 0x0, 0x0, 0x0, .single⟩,  -- COL_G_SIG
      ⟨0x9400020, [(0x10000, 8), (0x40, 64)], 0x0, 0xffffffff, 0x0, 0x0, 0x0, 0x0, 0x0, 0x0, .single⟩,  -- COL_G_COLLS
      ⟨0x9800000, [(0x1000, 8)], 0x0, 0xffffffff, 0x0, 0x0, 0x0, 0x0, 0x0, 0x0, .single⟩,  -- COL_EPOCH
      ⟨0x9800004, [(0x1000, 8)], 0x0, 0x0, 0x0, 0x0, 0x0, 0x0, 0xffffffff, 0x0, .single⟩,  -- COL_EPOCH_SET
      ⟨0x9800008, [(0x1000, 8)], 0xc787, 0x0, 0xffff, 0x0, 0x30000, 0x0, 0x0, 0x0, .single⟩,  -- COL_EP_CTL
      ⟨0x980000c, [(0x1000, 8)], 0x0, 0xbf, 0x0, 0x0, 0x0, 0x0, 0x0, 0x0, .single⟩ ]  -- COL_EP_FLAGS

/-- Registers of the COL block, part 3 (R298, R271 and R315). -/
def rowsCol3 : List RegRow :=
    [ ⟨0x9800010, [(0x1000, 8)], 0x32, 0x0, 0xfffff, 0x0, 0x0, 0x0, 0x0, 0x0, .single⟩,  -- COL_EP_LEAD
      ⟨0x9800014, [(0x1000, 8)], 0x0, 0xbf, 0x0, 0x0, 0x0, 0x0, 0x0, 0x0, .single⟩,  -- COL_EP_LAST
      ⟨0x9800018, [(0x1000, 8)], 0x0, 0xffffffff, 0x0, 0x0, 0x0, 0x0, 0x0, 0x0, .plainLo⟩,  -- COL_EP_TC_LO
      ⟨0x980001c, [(0x1000, 8)], 0x0, 0xffffffff, 0x0, 0x0, 0x0, 0x0, 0x0, 0x0, .plainHi⟩,  -- COL_EP_TC_HI
      ⟨0x9800020, [(0x1000, 8)], 0x0, 0x0, 0x0, 0x0, 0x0, 0xffffffff, 0x0, 0x0, .single⟩,  -- COL_EP_COMMITS
      ⟨0x9800024, [(0x1000, 8)], 0x0, 0x0, 0x0, 0x0, 0x0, 0xffffffff, 0x0, 0x0, .single⟩,  -- COL_EP_ABORTS
      ⟨0x9800030, [(0x1000, 8)], 0x0, 0xffffffff, 0x0, 0x0, 0x0, 0x0, 0x0, 0x0, .single⟩,  -- COL_NS_SL
      ⟨0x9800034, [(0x1000, 8)], 0x0, 0xffffffff, 0x0, 0x0, 0x0, 0x0, 0x0, 0x0, .single⟩,  -- COL_NS_SG
      ⟨0x9800038, [(0x1000, 8)], 0x7fc00000, 0xffffffff, 0x0, 0x0, 0x0, 0x0, 0x0, 0x0, .single⟩,  -- COL_NS_LAST
      ⟨0x980003c, [(0x1000, 8)], 0x7fc00000, 0xffffffff, 0x0, 0x0, 0x0, 0x0, 0x0, 0x0, .single⟩ ]  -- COL_NS_EMA

/-- Registers of the COL block, part 4 (R298, R271 and R315). -/
def rowsCol4 : List RegRow :=
    [ ⟨0x9800040, [(0x1000, 8)], 0x0, 0xff, 0x0, 0x0, 0x0, 0x0, 0x0, 0x0, .single⟩,  -- COL_NS_SUGGEST
      ⟨0x9800044, [(0x1000, 8)], 0x0, 0x0, 0x0, 0x0, 0x1, 0x0, 0x0, 0x0, .single⟩,  -- COL_NS_CTL
      ⟨0x9800048, [(0x1000, 8)], 0x0, 0x0, 0x0, 0x0, 0x0, 0xffffffff, 0x0, 0x0, .single⟩,  -- COL_NS_SKIP
      ⟨0x9800080, [(0x1000, 8)], 0x0, 0x0, 0xffffffc0, 0x0, 0x0, 0x0, 0x0, 0x0, .plainLo⟩,  -- COL_EXP_BASE_LO
      ⟨0x9800084, [(0x1000, 8)], 0x0, 0x0, 0xffffffff, 0x0, 0x0, 0x0, 0x0, 0x0, .plainHi⟩,  -- COL_EXP_BASE_HI
      ⟨0x9800088, [(0x1000, 8)], 0x0, 0x0, 0xffffffc0, 0x0, 0x0, 0x0, 0x0, 0x0, .plainLo⟩,  -- COL_EXP_SIZE_LO
      ⟨0x980008c, [(0x1000, 8)], 0x0, 0x0, 0xffffffff, 0x0, 0x0, 0x0, 0x0, 0x0, .plainHi⟩,  -- COL_EXP_SIZE_HI
      ⟨0x9800090, [(0x1000, 8)], 0x0, 0x0, 0x1, 0x0, 0x0, 0x0, 0x0, 0x0, .single⟩,  -- COL_EXP_CTL
      ⟨0x9800094, [(0x1000, 8)], 0x0, 0x0, 0x0, 0x0, 0x0, 0xffffffff, 0x0, 0x0, .single⟩,  -- COL_EXP_REFUSED
      ⟨0x9800098, [(0x1000, 8)], 0x0, 0xffffffff, 0x0, 0x0, 0x0, 0x0, 0x0, 0x0, .counterLo⟩ ]  -- COL_EXP_BYTES_LO

/-- Registers of the COL block, part 5 (R298, R271 and R315). -/
def rowsCol5 : List RegRow :=
    [ ⟨0x980009c, [(0x1000, 8)], 0x0, 0xffffffff, 0x0, 0x0, 0x0, 0x0, 0x0, 0x0, .counterHi⟩ ]  -- COL_EXP_BYTES_HI

/-- Registers of the COL block. -/
def rowsCol : List RegRow := rowsCol0 ++ rowsCol1 ++ rowsCol2 ++ rowsCol3 ++ rowsCol4 ++ rowsCol5

/-- Registers of the LNK block, part 0 (R299). -/
def rowsLnk0 : List RegRow :=
    [ ⟨0xa000000, [(0x10000, 24)], 0x0, 0xc, 0x3, 0x0, 0x0, 0x0, 0x0, 0xf, .single⟩,  -- LNK_CFG
      ⟨0xa000004, [(0x10000, 24)], 0x0, 0x1f, 0x0, 0x0, 0x0, 0x0, 0x0, 0x0, .single⟩,  -- LNK_STATUS
      ⟨0xa000008, [(0x10000, 24)], 0x0, 0x1fffff, 0x0, 0x0, 0x0, 0x0, 0x0, 0x0, .single⟩,  -- LNK_PARTNER
      ⟨0xa00000c, [(0x10000, 24)], 0x0, 0x1fffff, 0x0, 0x0, 0x0, 0x0, 0x0, 0x1fffff, .single⟩,  -- LNK_EXPECT
      ⟨0xa000010, [(0x10000, 24)], 0x0, 0xffffffff, 0x0, 0x0, 0x0, 0x0, 0x0, 0x0, .plainLo⟩,  -- LNK_PARTNER_SER_LO
      ⟨0xa000014, [(0x10000, 24)], 0x0, 0xffffffff, 0x0, 0x0, 0x0, 0x0, 0x0, 0x0, .plainHi⟩,  -- LNK_PARTNER_SER_HI
      ⟨0xa000020, [(0x10000, 24)], 0x0, 0x0, 0x0, 0x7f, 0x0, 0x0, 0x0, 0x0, .single⟩,  -- LNK_ERR
      ⟨0xa000030, [(0x10000, 24)], 0x0, 0xffffffff, 0x0, 0x0, 0x0, 0x0, 0x0, 0x0, .counterLo⟩,  -- LNK_FEC_CORR_LO
      ⟨0xa000034, [(0x10000, 24)], 0x0, 0xffffffff, 0x0, 0x0, 0x0, 0x0, 0x0, 0x0, .counterHi⟩,  -- LNK_FEC_CORR_HI
      ⟨0xa000038, [(0x10000, 24)], 0x0, 0x0, 0x0, 0x0, 0x0, 0xffffffff, 0x0, 0x0, .single⟩ ]  -- LNK_FEC_UNCORR

/-- Registers of the LNK block, part 1 (R299). -/
def rowsLnk1 : List RegRow :=
    [ ⟨0xa00003c, [(0x10000, 24)], 0x0, 0x0, 0x0, 0x0, 0x0, 0xffffffff, 0x0, 0x0, .single⟩,  -- LNK_RETRY
      ⟨0xa000040, [(0x10000, 24)], 0x0, 0x0, 0x0, 0x0, 0x0, 0xffffffff, 0x0, 0x0, .single⟩,  -- LNK_RETRAIN
      ⟨0xa000050, [(0x10000, 24)], 0x3030404, 0x0, 0xffffffff, 0x0, 0x0, 0x0, 0x0, 0x0, .single⟩,  -- LNK_VC_WEIGHT0
      ⟨0xa000054, [(0x10000, 24)], 0x1010002, 0x0, 0xffffffff, 0x0, 0x0, 0x0, 0x0, 0x0, .single⟩,  -- LNK_VC_WEIGHT1
      ⟨0xa000060, [(0x10000, 24)], 0x0, 0xffffffff, 0x0, 0x0, 0x0, 0x0, 0x0, 0x0, .counterLo⟩,  -- LNK_TX_BYTES_LO
      ⟨0xa000064, [(0x10000, 24)], 0x0, 0xffffffff, 0x0, 0x0, 0x0, 0x0, 0x0, 0x0, .counterHi⟩,  -- LNK_TX_BYTES_HI
      ⟨0xa000068, [(0x10000, 24)], 0x0, 0xffffffff, 0x0, 0x0, 0x0, 0x0, 0x0, 0x0, .counterLo⟩,  -- LNK_RX_BYTES_LO
      ⟨0xa00006c, [(0x10000, 24)], 0x0, 0xffffffff, 0x0, 0x0, 0x0, 0x0, 0x0, 0x0, .counterHi⟩,  -- LNK_RX_BYTES_HI
      ⟨0xa000070, [(0x10000, 24)], 0x88b5, 0x0, 0xffff, 0x0, 0x0, 0x0, 0x0, 0x0, .single⟩,  -- LNK_ETH_TYPE
      ⟨0xa000074, [(0x10000, 24)], 0xfac688, 0x0, 0xffffff, 0x0, 0x0, 0x0, 0x0, 0x0, .single⟩ ]  -- LNK_ETH_PCP

/-- Registers of the LNK block, part 2 (R299). -/
def rowsLnk2 : List RegRow :=
    [ ⟨0xa000078, [(0x10000, 24)], 0x0, 0xffffffff, 0x0, 0x0, 0x0, 0x0, 0x0, 0xffffffff, .plainLo⟩,  -- LNK_ETH_MAC_LO
      ⟨0xa00007c, [(0x10000, 24)], 0x0, 0xffff, 0x0, 0x0, 0x0, 0x0, 0x0, 0xffff, .plainHi⟩,  -- LNK_ETH_MAC_HI
      ⟨0xa000080, [(0x10000, 24)], 0x64, 0x0, 0xffff, 0x0, 0x0, 0x0, 0x0, 0x0, .single⟩ ]  -- LNK_ETH_RTO

/-- Registers of the LNK block. -/
def rowsLnk : List RegRow := rowsLnk0 ++ rowsLnk1 ++ rowsLnk2

/-- Registers of the VCD block, part 0 (R67). -/
def rowsVcd0 : List RegRow :=
    [ ⟨0xb000000, [(0x100000, 2)], 0x0, 0xffff0f0f, 0x0, 0x0, 0x0, 0x0, 0x0, 0x0, .single⟩,  -- VCD_STATUS
      ⟨0xb000010, [(0x100000, 2)], 0x0, 0x3ff, 0x0, 0x0, 0x0, 0x0, 0x0, 0x0, .single⟩,  -- VCD_SYNBUF_USE
      ⟨0xb000020, [(0x100000, 2)], 0x0, 0x0, 0x0, 0x1f, 0x0, 0x0, 0x0, 0x0, .single⟩,  -- VCD_ERR
      ⟨0xb000030, [(0x100000, 2)], 0x0, 0x7ff, 0x0, 0x0, 0x0, 0x0, 0x0, 0x0, .single⟩,  -- VCD_ERR_CTX
      ⟨0xb000040, [(0x100000, 2)], 0x0, 0x0, 0x0, 0x0, 0x0, 0x0, 0x7ff, 0x0, .single⟩,  -- VCD_KEYREQ
      ⟨0xb000050, [(0x100000, 2)], 0x0, 0xffffffff, 0x0, 0x0, 0x0, 0x0, 0x0, 0x0, .counterLo⟩,  -- VCD_FRAMES_LO
      ⟨0xb000054, [(0x100000, 2)], 0x0, 0xffffffff, 0x0, 0x0, 0x0, 0x0, 0x0, 0x0, .counterHi⟩,  -- VCD_FRAMES_HI
      ⟨0xb000060, [(0x100000, 2)], 0x0, 0x0, 0x0, 0x0, 0x0, 0xffffffff, 0x0, 0x0, .single⟩,  -- VCD_CONCEAL_COUNT
      ⟨0xb000100, [(0x100000, 2), (0x4, 1024)], 0x0, 0xff, 0x0, 0x0, 0x0, 0x0, 0x0, 0x1f, .single⟩ ]  -- VCD_CTX_OWN

/-- Registers of the VCD block. -/
def rowsVcd : List RegRow := rowsVcd0

/-- Registers of the INP block, part 0 (R67). -/
def rowsInp0 : List RegRow :=
    [ ⟨0xc000000, [(0x100000, 2)], 0x0, 0x1f, 0x0, 0x0, 0x0, 0x0, 0x0, 0x0, .single⟩,  -- INP_STATUS
      ⟨0xc000010, [(0x100000, 2)], 0x0, 0x0, 0x0, 0x7, 0x0, 0x0, 0x0, 0x0, .single⟩,  -- INP_ERR
      ⟨0xc000020, [(0x100000, 2)], 0x0, 0xffffffff, 0x0, 0x0, 0x0, 0x0, 0x0, 0x0, .plainLo⟩,  -- INP_ERR_ADDR_LO
      ⟨0xc000024, [(0x100000, 2)], 0x0, 0xffffffff, 0x0, 0x0, 0x0, 0x0, 0x0, 0x0, .plainHi⟩,  -- INP_ERR_ADDR_HI
      ⟨0xc000030, [(0x100000, 2)], 0x0, 0xffffffff, 0x0, 0x0, 0x0, 0x0, 0x0, 0x0, .counterLo⟩,  -- INP_WARP_PIXELS_LO
      ⟨0xc000034, [(0x100000, 2)], 0x0, 0xffffffff, 0x0, 0x0, 0x0, 0x0, 0x0, 0x0, .counterHi⟩,  -- INP_WARP_PIXELS_HI
      ⟨0xc000040, [(0x100000, 2)], 0x0, 0xffffffff, 0x0, 0x0, 0x0, 0x0, 0x0, 0x0, .counterLo⟩,  -- INP_SCAN_RETURNS_LO
      ⟨0xc000044, [(0x100000, 2)], 0x0, 0xffffffff, 0x0, 0x0, 0x0, 0x0, 0x0, 0x0, .counterHi⟩,  -- INP_SCAN_RETURNS_HI
      ⟨0xc800000, [(0x10000, 8)], 0x0, 0x0, 0xffe00000, 0x0, 0x0, 0x0, 0x0, 0x0, .plainLo⟩,  -- INP_CACHE_BASE_LO
      ⟨0xc800004, [(0x10000, 8)], 0x0, 0x0, 0xffffffff, 0x0, 0x0, 0x0, 0x0, 0x0, .plainHi⟩ ]  -- INP_CACHE_BASE_HI

/-- Registers of the INP block, part 1 (R67). -/
def rowsInp1 : List RegRow :=
    [ ⟨0xc800008, [(0x10000, 8)], 0x0, 0x0, 0xffffffff, 0x0, 0x0, 0x0, 0x0, 0x0, .single⟩,  -- INP_CACHE_SIZE
      ⟨0xc800010, [(0x10000, 8)], 0x0, 0x0, 0xfffff000, 0x0, 0x0, 0x0, 0x0, 0x0, .plainLo⟩,  -- INP_CACHE_IDX_LO
      ⟨0xc800014, [(0x10000, 8)], 0x0, 0x0, 0xffffffff, 0x0, 0x0, 0x0, 0x0, 0x0, .plainHi⟩,  -- INP_CACHE_IDX_HI
      ⟨0xc800018, [(0x10000, 8)], 0x100, 0x0, 0x1ff, 0x0, 0x0, 0x0, 0x0, 0x0, .single⟩,  -- INP_CACHE_CTL
      ⟨0xc800020, [(0x10000, 8)], 0x0, 0x0, 0x0, 0x0, 0x0, 0xffffffff, 0x0, 0x0, .single⟩,  -- INP_CACHE_HITS
      ⟨0xc800024, [(0x10000, 8)], 0x0, 0x0, 0x0, 0x0, 0x0, 0xffffffff, 0x0, 0x0, .single⟩,  -- INP_CACHE_MISSES
      ⟨0xc800028, [(0x10000, 8)], 0x0, 0x0, 0x0, 0x0, 0x0, 0xffffffff, 0x0, 0x0, .single⟩ ]  -- INP_CACHE_EVICT

/-- Registers of the INP block. -/
def rowsInp : List RegRow := rowsInp0 ++ rowsInp1

/-- Registers of the PWR block, part 0 (R330). -/
def rowsPwr0 : List RegRow :=
    [ ⟨0xd000000, [], 0x0, 0xff1f, 0x0, 0x0, 0x0, 0x0, 0x0, 0x0, .single⟩,  -- PWR_STATUS
      ⟨0xd000004, [], 0x3201, 0x0, 0xffff, 0x0, 0x0, 0x0, 0x0, 0x0, .single⟩,  -- PWR_GATE
      ⟨0xd000010, [], 0x0, 0x0, 0x0, 0x7, 0x0, 0x0, 0x0, 0x0, .single⟩,  -- PWR_ERR
      ⟨0xd000014, [], 0x0, 0xffffffff, 0x0, 0x0, 0x0, 0x0, 0x0, 0x0, .single⟩,  -- PWR_PKG_MW
      ⟨0xd000020, [], 0x0, 0xffffffff, 0x0, 0x0, 0x0, 0x0, 0x0, 0x0, .counterLo⟩,  -- PWR_WAKE_WAIT_LO
      ⟨0xd000024, [], 0x0, 0xffffffff, 0x0, 0x0, 0x0, 0x0, 0x0, 0x0, .counterHi⟩,  -- PWR_WAKE_WAIT_HI
      ⟨0xd000100, [(0x4, 16)], 0x100, 0x0, 0xfff, 0x0, 0x0, 0x0, 0x0, 0x0, .single⟩,  -- PWR_SLEW
      ⟨0xd000200, [(0x4, 34)], 0x0, 0xffffffff, 0x0, 0x0, 0x0, 0x0, 0x0, 0x0, .single⟩ ]  -- PWR_RAIL

/-- Registers of the PWR block. -/
def rowsPwr : List RegRow := rowsPwr0

/-- Registers of the CLK block, part 0 (R330). -/
def rowsClk0 : List RegRow :=
    [ ⟨0xe000000, [], 0x0, 0x3fff, 0x0, 0x0, 0x0, 0x0, 0x0, 0x0, .single⟩,  -- CLK_STATUS
      ⟨0xe000010, [], 0x0, 0x0, 0x0, 0xf, 0x0, 0x0, 0x0, 0x0, .single⟩,  -- CLK_ERR
      ⟨0xe000020, [(0x4, 6)], 0x0, 0x0, 0x0, 0x0, 0x0, 0xffffffff, 0x0, 0x0, .single⟩,  -- CLK_GLITCH
      ⟨0xe000040, [(0x4, 6)], 0x0, 0xffffffff, 0x0, 0x0, 0x0, 0x0, 0x0, 0x0, .single⟩ ]  -- CLK_PPM

/-- Registers of the CLK block. -/
def rowsClk : List RegRow := rowsClk0

/-- Registers of the AGE block, part 0 (R330). -/
def rowsAge0 : List RegRow :=
    [ ⟨0xf000000, [], 0x2800, 0x0, 0xff00, 0x0, 0x1, 0x0, 0x0, 0x0, .single⟩,  -- AGE_CTL
      ⟨0xf000004, [], 0x0, 0xffffffff, 0x0, 0x0, 0x0, 0x0, 0x0, 0x0, .single⟩,  -- AGE_LAST
      ⟨0xf000100, [(0x4, 96)], 0x0, 0xffffff, 0x0, 0x0, 0x0, 0x0, 0x0, 0x0, .single⟩ ]  -- AGE_CLUSTER

/-- Registers of the AGE block. -/
def rowsAge : List RegRow := rowsAge0

/-- Registers of the BOOT block, part 0 (R347). -/
def rowsBoot0 : List RegRow :=
    [ ⟨0x10000000, [], 0x0, 0xffff7f, 0x0, 0x0, 0x0, 0x0, 0x0, 0x0, .single⟩,  -- BOOT_STATE
      ⟨0x10000004, [], 0x0, 0xffffffff, 0x0, 0x0, 0x0, 0x0, 0x0, 0x0, .single⟩,  -- BOOT_SECVER
      ⟨0x10000008, [], 0x0, 0xffffffff, 0x0, 0x0, 0x0, 0x0, 0x0, 0x0, .single⟩,  -- BOOT_IMGLEN
      ⟨0x1000000c, [], 0x0, 0xffffffff, 0x0, 0x0, 0x0, 0x0, 0x0, 0x0, .single⟩,  -- BOOT_T_READY
      ⟨0x10000010, [], 0x0, 0xffffffff, 0x0, 0x0, 0x0, 0x0, 0x0, 0x0, .plainLo⟩,  -- BOOT_RSEQ_LO
      ⟨0x10000014, [], 0x0, 0xffffffff, 0x0, 0x0, 0x0, 0x0, 0x0, 0x0, .plainHi⟩,  -- BOOT_RSEQ_HI
      ⟨0x10000018, [], 0x0, 0x1ffff, 0x0, 0x0, 0x0, 0x0, 0x0, 0x0, .single⟩,  -- BOOT_REQ
      ⟨0x1000001c, [], 0x0, 0xffffffff, 0x0, 0x0, 0x0, 0x0, 0x0, 0x0, .single⟩,  -- BOOT_CYCLES
      ⟨0x10000020, [], 0x0, 0xffffffff, 0x0, 0x0, 0x0, 0x0, 0x0, 0x0, .single⟩,  -- BOOT_OPSEC
      ⟨0x10000024, [], 0x0, 0xffffffff, 0x0, 0x0, 0x0, 0x0, 0x0, 0x0, .single⟩ ]  -- BOOT_LOG_COUNT

/-- Registers of the BOOT block, part 1 (R347). -/
def rowsBoot1 : List RegRow :=
    [ ⟨0x10000030, [(0x4, 12)], 0x0, 0xffffffff, 0x0, 0x0, 0x0, 0x0, 0x0, 0x0, .single⟩ ]  -- BOOT_DIGEST

/-- Registers of the BOOT block. -/
def rowsBoot : List RegRow := rowsBoot0 ++ rowsBoot1

/-- Registers of the LOCK block, part 0 (R347). -/
def rowsLock0 : List RegRow :=
    [ ⟨0x11000000, [], 0x0, 0x3ff, 0x0, 0x0, 0x0, 0x0, 0x0, 0x0, .single⟩,  -- LOCK_STATUS
      ⟨0x11000004, [], 0x0, 0x0, 0x0, 0x0, 0x0, 0x0, 0x7ff, 0x0, .single⟩,  -- LOCK_CMD
      ⟨0x11000010, [], 0x0, 0x0, 0x0, 0x1f, 0x0, 0x0, 0x0, 0x0, .single⟩,  -- LOCK_ERR
      ⟨0x11000020, [(0x4, 8)], 0x0, 0xffffffff, 0x0, 0x0, 0x0, 0x0, 0x0, 0x0, .single⟩,  -- LOCK_NONCE
      ⟨0x11000040, [], 0x0, 0xffffffff, 0x0, 0x0, 0x0, 0x0, 0x0, 0x0, .plainLo⟩,  -- LOCK_SERIAL_LO
      ⟨0x11000044, [], 0x0, 0xffffffff, 0x0, 0x0, 0x0, 0x0, 0x0, 0x0, .plainHi⟩,  -- LOCK_SERIAL_HI
      ⟨0x11000100, [(0x4, 48)], 0x0, 0x0, 0x0, 0x0, 0x0, 0x0, 0xffffffff, 0x0, .single⟩ ]  -- LOCK_DATA

/-- Registers of the LOCK block. -/
def rowsLock : List RegRow := rowsLock0

/-- Registers of the MBX block, part 0 (R348 to R351). -/
def rowsMbx0 : List RegRow :=
    [ ⟨0x12000000, [(0x400, 64)], 0x0, 0x0, 0x0, 0x0, 0x0, 0x0, 0xffffffff, 0x0, .single⟩,  -- MBX_Q0_PUSH
      ⟨0x12000004, [(0x400, 64)], 0x0, 0xffffffff, 0x0, 0x0, 0x0, 0x0, 0x0, 0x0, .single⟩,  -- MBX_Q0_POP
      ⟨0x12000008, [(0x400, 64)], 0x0, 0x1f, 0x0, 0x0, 0x0, 0x0, 0x0, 0x0, .single⟩,  -- MBX_Q0_STAT
      ⟨0x12000010, [(0x400, 64)], 0x0, 0x0, 0x0, 0x0, 0x0, 0x0, 0xffffffff, 0x0, .single⟩,  -- MBX_Q1_PUSH
      ⟨0x12000014, [(0x400, 64)], 0x0, 0xffffffff, 0x0, 0x0, 0x0, 0x0, 0x0, 0x0, .single⟩,  -- MBX_Q1_POP
      ⟨0x12000018, [(0x400, 64)], 0x0, 0x1f, 0x0, 0x0, 0x0, 0x0, 0x0, 0x0, .single⟩,  -- MBX_Q1_STAT
      ⟨0x12000020, [(0x400, 64)], 0x0, 0x0, 0x0, 0xffffffff, 0x0, 0x0, 0x0, 0x0, .single⟩,  -- MBX_DB
      ⟨0x12000024, [(0x400, 64)], 0x0, 0x0, 0x0, 0x0, 0xffffffff, 0x0, 0x0, 0x0, .single⟩,  -- MBX_DB_SET
      ⟨0x12000028, [(0x400, 64)], 0x0, 0x0, 0xffffffff, 0x0, 0x0, 0x0, 0x0, 0x0, .single⟩,  -- MBX_DB_MASK0
      ⟨0x1200002c, [(0x400, 64)], 0x0, 0x0, 0xffffffff, 0x0, 0x0, 0x0, 0x0, 0x0, .single⟩ ]  -- MBX_DB_MASK1

/-- Registers of the MBX block, part 1 (R348 to R351). -/
def rowsMbx1 : List RegRow :=
    [ ⟨0x12000030, [(0x400, 64)], 0x0, 0x0, 0x1fffff, 0x0, 0x0, 0x0, 0x0, 0x0, .single⟩,  -- MBX_NOTIFY0
      ⟨0x12000034, [(0x400, 64)], 0x0, 0x0, 0x1fffff, 0x0, 0x0, 0x0, 0x0, 0x0, .single⟩,  -- MBX_NOTIFY1
      ⟨0x12000040, [(0x400, 64)], 0x0, 0x1ffff, 0x0, 0x0, 0x0, 0x0, 0x0, 0x0, .single⟩,  -- MBX_LOCK
      ⟨0x12000044, [(0x400, 64)], 0x0, 0x0, 0x0, 0x0, 0x1, 0x0, 0x0, 0x0, .single⟩,  -- MBX_LOCK_FORCE
      ⟨0x12000048, [(0x400, 64)], 0x0, 0x1f, 0x0, 0x0, 0x0, 0x0, 0x0, 0x1f, .single⟩,  -- MBX_OWN
      ⟨0x12000050, [(0x400, 64)], 0x0, 0x0, 0x0, 0xf, 0x0, 0x0, 0x0, 0x0, .single⟩,  -- MBX_ERR
      ⟨0x12000054, [(0x400, 64)], 0x0, 0xffff, 0x0, 0x0, 0x0, 0x0, 0x0, 0x0, .single⟩ ]  -- MBX_ERR_SRC

/-- Registers of the MBX block. -/
def rowsMbx : List RegRow := rowsMbx0 ++ rowsMbx1

/-- Registers of the FLW block, part 0 (R368). -/
def rowsFlw0 : List RegRow :=
    [ ⟨0x13000000, [], 0x0, 0x1fff, 0x0, 0x0, 0x0, 0x0, 0x0, 0x0, .single⟩,  -- FLW_STATUS
      ⟨0x13000004, [], 0x0, 0xffffffff, 0x0, 0x0, 0x0, 0x0, 0x0, 0x0, .single⟩,  -- FLW_SEQ
      ⟨0x13000008, [], 0x0, 0x0, 0x0, 0x0, 0x0, 0xffffffff, 0x0, 0x0, .single⟩,  -- FLW_DROP
      ⟨0x13000010, [], 0x0, 0x0, 0x1ff, 0x0, 0x0, 0x0, 0x0, 0x1ff, .single⟩,  -- FLW_TRIG_EN
      ⟨0x13000040, [(0x4, 9)], 0x0, 0x0, 0x1f, 0x0, 0x0, 0x0, 0x0, 0x1f, .single⟩,  -- FLW_CLASS
      ⟨0x13000080, [], 0x0, 0x0, 0xffffffff, 0x0, 0x0, 0x0, 0x0, 0x0, .single⟩,  -- FLW_RD_SEQ
      ⟨0x13000084, [], 0x0, 0x3, 0x0, 0x0, 0x0, 0x0, 0x0, 0x0, .single⟩,  -- FLW_RD_STATUS
      ⟨0x13000100, [(0x4, 32)], 0x0, 0xffffffff, 0x0, 0x0, 0x0, 0x0, 0x0, 0x0, .single⟩,  -- FLW_RD_DATA
      ⟨0x13001000, [(0x100, 9), (0x8, 20)], 0x0, 0x0, 0xfffffffc, 0x0, 0x0, 0x0, 0x0, 0xfffffffc, .plainLo⟩,  -- FLW_LIST_LO
      ⟨0x13001004, [(0x100, 9), (0x8, 20)], 0x0, 0x0, 0xffffffff, 0x0, 0x0, 0x0, 0x0, 0xffffffff, .plainHi⟩ ]  -- FLW_LIST_HI

/-- Registers of the FLW block. -/
def rowsFlw : List RegRow := rowsFlw0

/-- Registers of the SB block, part 0 (R368). -/
def rowsSb0 : List RegRow :=
    [ ⟨0x14000000, [], 0x1, 0x0, 0x1, 0x0, 0x0, 0x0, 0x0, 0x0, .single⟩,  -- SB_CFG
      ⟨0x14000008, [], 0x0, 0xfffffffc, 0x0, 0x0, 0x0, 0x0, 0x0, 0x0, .plainLo⟩,  -- SB_ADDR_LO
      ⟨0x1400000c, [], 0x0, 0xffffffff, 0x0, 0x0, 0x0, 0x0, 0x0, 0x0, .plainHi⟩,  -- SB_ADDR_HI
      ⟨0x14000010, [], 0x0, 0x10000000, 0x0, 0x0, 0x0, 0xfffffff, 0x0, 0x0, .single⟩,  -- SB_STATUS
      ⟨0x14000014, [], 0x0, 0x0, 0x0, 0x1, 0x0, 0x0, 0x0, 0x0, .single⟩,  -- SB_ERR
      ⟨0x14000018, [], 0x0, 0xffffffff, 0x0, 0x0, 0x0, 0x0, 0x0, 0x0, .plainLo⟩,  -- SB_ERR_ADDR_LO
      ⟨0x1400001c, [], 0x0, 0xffffffff, 0x0, 0x0, 0x0, 0x0, 0x0, 0x0, .plainHi⟩ ]  -- SB_ERR_ADDR_HI

/-- Registers of the SB block. -/
def rowsSb : List RegRow := rowsSb0

/-- Registers of the TS block, part 0 (R368). -/
def rowsTs0 : List RegRow :=
    [ ⟨0x15000000, [], 0x0, 0xffffffff, 0x0, 0x0, 0x0, 0x0, 0x0, 0x0, .counterLo⟩,  -- TS_NOW_LO
      ⟨0x15000004, [], 0x0, 0xffffffff, 0x0, 0x0, 0x0, 0x0, 0x0, 0x0, .counterHi⟩,  -- TS_NOW_HI
      ⟨0x15000010, [], 0x0, 0x0, 0xffffffff, 0x0, 0x0, 0x0, 0x0, 0x0, .plainLo⟩,  -- TS_SNAP_AT_LO
      ⟨0x15000014, [], 0x0, 0x0, 0xffffffff, 0x0, 0x0, 0x0, 0x0, 0x0, .plainHi⟩,  -- TS_SNAP_AT_HI
      ⟨0x15000018, [], 0x0, 0xffffffff, 0x0, 0x0, 0x0, 0x0, 0x0, 0x0, .single⟩,  -- TS_SNAP_SEQ
      ⟨0x1500001c, [], 0x0, 0x3, 0x0, 0x0, 0x0, 0x0, 0x0, 0x0, .single⟩,  -- TS_STATUS
      ⟨0x15000020, [], 0x0, 0x0, 0x0, 0x3, 0x0, 0x0, 0x0, 0x0, .single⟩,  -- TS_ERR
      ⟨0x15000024, [], 0x0, 0xfffff, 0x0, 0x0, 0x0, 0x0, 0x0, 0x0, .single⟩ ]  -- TS_SNAP_MISS

/-- Registers of the TS block. -/
def rowsTs : List RegRow := rowsTs0

/-- Registers of the PCI block, part 0 (R36). -/
def rowsPci0 : List RegRow :=
    [ ⟨0x16000000, [(0x10000, 2)], 0x0, 0x7ff, 0x0, 0x0, 0x0, 0x0, 0x0, 0x0, .single⟩,  -- PCI_STATUS
      ⟨0x16000010, [(0x10000, 2)], 0x0, 0x0, 0x3ffff, 0x0, 0x0, 0x0, 0x0, 0x0, .single⟩,  -- PCI_HOSTWIN
      ⟨0x16000020, [(0x10000, 2)], 0x0, 0x0, 0x0, 0x3f, 0x0, 0x0, 0x0, 0x0, .single⟩,  -- PCI_ERR
      ⟨0x16000030, [(0x10000, 2)], 0x0, 0xffffffff, 0x0, 0x0, 0x0, 0x0, 0x0, 0x0, .plainLo⟩,  -- PCI_ERR_ADDR_LO
      ⟨0x16000034, [(0x10000, 2)], 0x0, 0xffffffff, 0x0, 0x0, 0x0, 0x0, 0x0, 0x0, .plainHi⟩,  -- PCI_ERR_ADDR_HI
      ⟨0x16000040, [(0x10000, 2)], 0x0, 0x0, 0xfe000000, 0x0, 0x0, 0x0, 0x0, 0x0, .plainLo⟩,  -- PCI_BULK_BASE_LO
      ⟨0x16000044, [(0x10000, 2)], 0x0, 0x0, 0xffffffff, 0x0, 0x0, 0x0, 0x0, 0x0, .plainHi⟩,  -- PCI_BULK_BASE_HI
      ⟨0x16000050, [(0x10000, 2)], 0x0, 0x0, 0xfffffffc, 0x0, 0x0, 0x0, 0x0, 0x0, .plainLo⟩,  -- PCI_BULK_PTR_LO
      ⟨0x16000054, [(0x10000, 2)], 0x0, 0x0, 0xffffffff, 0x0, 0x0, 0x0, 0x0, 0x0, .plainHi⟩,  -- PCI_BULK_PTR_HI
      ⟨0x16000060, [(0x10000, 2)], 0x0, 0x0, 0x0, 0x0, 0x0, 0xffffffff, 0x0, 0x0, .single⟩ ]  -- PCI_DROP_COUNT

/-- Registers of the PCI block. -/
def rowsPci : List RegRow := rowsPci0

/-- The registers of block number `b`, bits [31:24] of the offset (Table 1-9). -/
def blockRows (b : Nat) : List RegRow :=
  match b with
  | 0 => rowsTop
  | 1 => rowsQmg
  | 2 => rowsDma
  | 3 => rowsTsq
  | 4 => rowsCore
  | 5 => rowsGal
  | 6 => rowsHbm
  | 7 => rowsSmp
  | 8 => rowsTrw
  | 9 => rowsCol
  | 10 => rowsLnk
  | 11 => rowsVcd
  | 12 => rowsInp
  | 13 => rowsPwr
  | 14 => rowsClk
  | 15 => rowsAge
  | 16 => rowsBoot
  | 17 => rowsLock
  | 18 => rowsMbx
  | 19 => rowsFlw
  | 20 => rowsSb
  | 21 => rowsTs
  | 22 => rowsPci
  | _ => []

/-- Does the remainder `o` of an offset name an element of an array of these dimensions? -/
def dimsHit : List (Nat × Nat) → Nat → Bool
  | [], o => o == 0
  | (st, n) :: t, o => o / st < n && dimsHit t (o % st)

/-- Does offset `off` name a register of row `r`? -/
def RegRow.hit (r : RegRow) (off : Nat) : Bool := r.base ≤ off && dimsHit r.dims (off - r.base)

/-- The row of the register at offset `off`, or none where no register lies (R27). -/
def findRow (off : Nat) : Option RegRow := (blockRows (off / 0x1000000)).find? (fun r => r.hit off)

/-- What the register at `off` holds after a power cycle (R370). -/
def resetOf (off : Nat) : Word :=
  match findRow off with
  | some r => BitVec.ofNat 32 r.rst
  | none => 0

end Sys2Proof.Machine
end

