-- ==== Sys2Proof/Machine/State.lean ====
section
/-! DEFINITION. The state of the device as plain data, the reasons a step can stop, and the state after reset.

`Dev` holds everything but the queue of waiting commands; `State` puts the queue beside it. Indices in the tables below
are plain numbers (core, queue, page, port); a table is a sparse map with keys strictly rising (Bits.lean). -/

namespace Sys2Proof.Machine

/-! ### Reasons to stop -/

/-- Why a step stops. -/
inductive Fault where
  /-- Raised by a meaning whose command is not well formed (WellFormed.lean): no sender can form such a command, so it never
  reaches the device. Safe: the model stops where the hardware has no behaviour. -/
  | illFormed
  deriving DecidableEq, Repr

/-- Why a step has no meaning. -/
inductive Refusal where
  /-- Raised by the arm of a command whose meaning is not written yet. Safe: nothing can be proved of such a command. -/
  | notModelled (mnemonic : String)
  deriving DecidableEq, Repr

/-! ### Memory (01, 07) -/

/-- Damage of a stored granule (R165 to R168, R176, R228). -/
inductive Damage
  | one (sym : Nat)      -- one damaged symbol at this position
  | two (a b : Nat)      -- two damaged symbols: uncorrectable
  | more                 -- three or more: outside the codes' guarantee (R168)
  | onDie                -- HBM: the on-die ECC corrects it and reports the correction (R166)
  | dead                 -- HBM: the on-die ECC reports it uncorrectable (R166); Sump: link ECC cannot correct the next read (R228)
  deriving DecidableEq, Repr

/-- A running range scrub (R173): the index of the next granule and the uncorrectable granules found. -/
structure RangeScrub where
  next : Nat
  stop : Nat
  found : Nat
  deriving DecidableEq, Repr

/-- Memory of the device: bytes by physical address, marks by granule number (address / 64). Error pages are numbered 0 to 7
for the Gallery dies and 8 to 19 for the HBM stacks; scrubbers 0 to 7 for Gallery and 8 + c for HBM controller c. `ueAt` holds
the Gallery granules with an uncorrectable error and the operating seconds of the last one (Table 13-2), `ctrlFenced` the fenced
HBM controllers (R174), `sumpBad` the LPDDR5X channels that have failed since training, and `sumpSeen` those of them that a read
has detected (Table 13-3). -/
structure MemSt where
  cells : List Host.Cell
  poison : List Nat
  damage : List (Nat × Damage)
  retained : List Nat
  scrubPos : List (Nat × Nat)
  ceCount : List (Nat × Nat)
  range : List (Nat × Option RangeScrub)
  ueAt : List (Nat × Nat)
  ctrlFenced : List Nat
  sumpBad : List Nat
  sumpSeen : List Nat
  deriving DecidableEq, Repr

/-! ### Host interface (01) -/

/-- What the last access of a sender was answered with. -/
inductive Resp
  | none
  | data (bytes : List Byte) (ep : Bool)   -- data returned, and its poison mark
  | retryStatus                            -- Configuration Request Retry Status (R338)
  | config (w : Word)                      -- answer of a configuration request
  deriving DecidableEq, Repr

/-- What a message on a link carries. -/
inductive OutKind
  | data (m : MsgHdr) (bytes : List Byte)
  | epoch (part : Nat) (r : EpochRecord)
  | hello (h : Hello)
  | heartbeat (serial : Nat) (sigs : List (Nat × Nat × Word))
  | time
  | ctrl (msg : Nat)                              -- acknowledges message `msg` of an Ethernet port
  | pullRequest (part addr len : Nat)
  | pullReply (bytes : List Byte) (poison : List Nat)
  deriving DecidableEq, Repr

/-- A message for a link: its virtual channel, the destination coordinate, the hub whose ports carry it, and its poison
mark. -/
structure OutMsg where
  vc : Nat
  dest : Nat
  hub : Nat
  poison : Bool
  kind : OutKind
  deriving DecidableEq, Repr

/-- The header of a flit that the device sends (Table 12-5); its CRC is the right one. -/
structure FlitOut where
  type : Nat
  vc : Nat
  last : Bool
  len : Nat
  seq : Nat
  poison : Bool
  ack : Nat
  cvc : Nat
  credits : Nat
  dest : Nat
  src : Nat
  deriving DecidableEq, Repr

/-- The header of an Ethernet frame (R290). -/
structure EthOut where
  dst : Nat
  src : Nat
  pcp : Nat
  type : Nat
  deriving DecidableEq, Repr

/-- A message the device drives out. -/
inductive Sent
  | msix (port : Nat) (vec : Nat) (addr : Nat) (data : Word)
  | mgmtIrq (ch : Nat)
  | flit (port : Nat) (h : FlitOut) (o : Option OutMsg) (k : Nat)  -- a Dreuri flit: flit k of a message, or IDLE or RETRY
  | frame (port : Nat) (e : EthOut) (hs : List FlitOut) (o : OutMsg) -- an Ethernet frame: 1 to 16 flits of a message
  deriving DecidableEq, Repr

/-- Host memory and the MSI-X structures of both ports. Keys: host memory byte port × 2^64 + host address, its poison marks
that / 64, and the same for granules whose next read by the device times out; MSI-X table word
(port × 2048 + vector) × 4 + word; pending bit port × 2048 + vector. -/
structure HostSt where
  cells : List Host.Cell
  poison : List Nat
  timeouts : List Nat
  msix : List (Nat × Word)
  pba : List Nat
  bars : List (Nat × Word)           -- base words of the BARs: port × 6 + word (R30)
  deriving DecidableEq, Repr

/-! ### Descriptors (03) -/

/-- A checked tensor descriptor (Tables 3-4, 3-5). `size` and `stride` have six entries, the stride of dimension 0 being 1;
`mask` lists the privileged channels of PMASK. -/
structure Desc where
  fmt : Fmt
  rank : Nat
  region : Nat
  cls : Nat
  delta : Bool
  eb : Nat
  rnd : Nat
  chdim : Nat
  sat : Bool
  pad : Word
  base : Nat
  tslot : Nat
  pmask : Nat
  size : List Nat
  stride : List Nat
  mask : List Nat
  deriving DecidableEq, Repr

/-! ### Queues and commands (10) -/

/-- A fetched copy of one ring slot (R232). -/
structure Fetched where
  q : Nat
  cnt : Word
  bytes : List Byte
  deriving DecidableEq, Repr

/-- Statuses of Table 10-5. -/
inductive Status
  | done | notStarted | partial_ | poisoned | aborted
  deriving DecidableEq, Repr

/-- Where a command in flight stands. -/
inductive Phase
  | early         -- accepted early, not dispatched (R251)
  | dispatched    -- dispatched, its unit has not begun
  | working       -- its unit works on it
  | ended         -- its work has ended; COMMAND_COMPLETE follows
  deriving DecidableEq, Repr

/-- What a command has come to (Table 10-5). -/
structure Result where
  status : Status
  cause : Nat
  progress : Nat
  src : Nat
  result : Nat
  addr : Nat
  xa : Nat
  xb : Nat
  deriving DecidableEq, Repr

/-- A launch tile descriptor (Table 5-1). -/
structure LaunchDesc where
  ngroup : Nat
  nout : Nat
  nstripe : Nat
  flags : Nat
  wbase : Nat
  wstride : Nat
  wbytes : Nat
  wbuf0 : Nat
  wbuf1 : Nat
  trec : Nat
  tw : Nat
  th : Nat
  tt : Nat
  srows : Nat
  sbytes : Nat
  win : Nat
  tfirst : Nat
  tend : Nat
  sdesc : Nat
  sbuf0 : Nat
  sbuf1 : Nat
  lost : Nat
  lostmax : Nat
  deriving DecidableEq, Repr

/-- A window table entry (Table 5-5); each list has the x, y and t values. -/
structure WinE where
  k : List Nat
  s : List Nat
  d : List Nat
  p : List Nat
  i : List Nat
  o : List Nat
  cin : Nat
  cout : Nat
  deriving DecidableEq, Repr

/-- A batch slot of a KV launch: its number, its LEN read at dispatch, its page list and its MAXLEN. -/
structure KvSeq where
  slot : Nat
  len : Nat
  plist : Nat
  maxlen : Nat
  deriving DecidableEq, Repr

/-- A KV launch (Table 6-3): the batch slots as they were at dispatch. -/
structure KvWalk where
  batch : List KvSeq
  nblk : Nat
  layer : Nat
  kb : Nat
  adv : Nat
  flags : Nat
  kbuf : Nat
  deriving DecidableEq, Repr

/-- A launch's structures, copied when its KERNEL was dispatched (R123), that pass their checks. -/
structure LaunchIn where
  tile : Option LaunchDesc
  win : List WinE
  sdesc : Option Desc
  kv : Option KvWalk
  deriving DecidableEq, Repr

/-- A command in flight: dispatched or accepted early, and not yet completed. -/
structure Inflight where
  q : Nat
  i : Word
  slot : List Byte      -- its 64-byte slot
  ext : List Byte       -- its extension slot, empty without SX
  part : Nat
  seed : DWord          -- TOP_SEED sampled at dispatch (R79)
  rnd : Nat             -- the partition's default rounding sampled at dispatch (R76)
  epoch : Word          -- COL_EPOCH sampled at dispatch
  tblsrc : Bool         -- TRW_PCTL.TBLSRC sampled at dispatch
  ts : Nat              -- global timestamp at dispatch
  eng : Nat             -- DMA engine, 127 for none
  heldAt : Nat          -- not 0 once its engine holds it (R247): the engine's order
  phase : Phase
  res : Result
  lastout : Bool        -- KERNEL: LASTOUT is set (R129)
  copied : Option ((Nat × Option Nat) ⊕ LaunchIn) -- KERNEL: its structures as copied (R123), or the cause and TSQ_ERR bit they failed with
  descs : List Desc     -- descriptors copied by a COPY or CONVERT that its engine holds
  ord : Nat             -- order of dispatch
  deriving DecidableEq, Repr

/-- A MODE in progress (R246). -/
structure ModeSt where
  cmd : CmdRef
  op : Nat
  value : Nat
  part : Nat
  h : Nat                     -- point H
  acked : List ModeUnit
  ta : Option Nat             -- TA, once the last acknowledgement has arrived
  deriving DecidableEq, Repr

/-- An EPOCH descriptor as its command read it (Table 11-2). -/
structure EpochDesc where
  group : Nat
  stats : Bool
  timeout : Nat        -- microseconds
  blocal : Word
  micro : Word
  gscale : Word
  alpha : Nat
  accmax : Nat
  out : Nat
  deriving DecidableEq, Repr

/-- The reduced result of an EPOCH (R260). -/
structure EpochRes where
  status : Word
  tc : Nat
  sl : Word
  sg : Word
  members : Nat
  deriving DecidableEq, Repr

/-- The statistics that a commit has computed (R265): g2, trs and the B_noise sample, NaN where it was skipped. -/
structure EpochStat where
  g2 : Word
  trs : Word
  b : Word
  deriving DecidableEq, Repr

/-- Where an EPOCH stands: dispatched, its records gathering, its result given up (R263), the result in, the switch made. -/
inductive EpochPhase
  | held | gathering | lost | result (r : EpochRes) | switched (r : EpochRes) (committed : Bool) (stat : Option EpochStat)
  deriving DecidableEq, Repr

/-- An EPOCH in progress of one partition (R259, R260). -/
structure EpochSt where
  cmd : CmdRef
  d : Nat                      -- point D
  desc : EpochDesc
  local_ : EpochRecord         -- the partition's own record
  phase : EpochPhase
  deriving DecidableEq, Repr

/-- Queue managers and DMA engines. -/
structure QueueSt where
  fetched : List Fetched
  infl : List Inflight
  doneSlots : List (Nat × Word × Nat)     -- completed, not yet retired: queue, first slot, slots
  mode : Option ModeSt
  rnd : List (Nat × Nat)                  -- default rounding by partition (R76), reset 1: nearest even
  epochs : List (Nat × Option EpochSt)    -- by partition
  nextOrd : Nat
  rrLast : List (Nat × Nat)               -- per hub: the queue dispatched last, for round robin (R234)
  stuck : List Nat                        -- queues with a fetch that was refused or read poison: only a FLUSH takes its slots (R232)
  deriving DecidableEq, Repr

/-! ### Tiers (09) -/

/-- Table 9-2. -/
inductive PageState
  | free | zero | t1 | t2 | both
  deriving DecidableEq, Repr

/-- A live managed allocation, kept at its first page (R223, R224). -/
structure Alloc where
  count : Nat
  queue : Nat
  part : Nat
  deriving DecidableEq, Repr

/-- A managed page (R211 to R220). -/
structure PageRec where
  state : PageState
  pin : Bool
  gen : Word
  dirty : Word
  part : Nat             -- the partition it is allocated to
  frame : Nat            -- device address of its frame, in T1 or BOTH
  ext : Nat              -- device address of its extent, in T2 or BOTH
  sectors : Nat          -- sectors of the extent
  pcode : Bool
  lastUse : Nat
  head : Option Alloc
  deriving DecidableEq, Repr

/-- A T0 allocation (R222, R223): 64 KiB units of Gallery from 0x2000_0000_0000. -/
structure T0Alloc where
  first : Nat
  count : Nat
  queue : Nat
  part : Nat
  gen : Word
  deriving DecidableEq, Repr

/-- An access, by source number and page, that has waited for a frame since a time (R221); `refused` once its stall limit has
passed, so that its next attempt is refused. -/
structure Stall where
  src : Nat
  page : Nat
  since : Nat
  refused : Bool
  deriving DecidableEq, Repr

/-- The Tier managers. `stall` is set only while a command runs: the access, by source number and page, that found no frame
in it. -/
structure TierSt where
  pages : List (Nat × PageRec)
  t0 : List T0Alloc
  t0gen : List (Nat × Word)      -- generation by unit
  clock : Nat                    -- order of use, for least recently used
  waits : List Stall
  stall : Option (Nat × Nat)
  deriving DecidableEq, Repr

/-! ### Recorder, mailboxes, sideband, snapshot (16) -/

/-- A Flowstone record waiting in the queue (Table 16-2); FLAGS.LOST and the CRC come when it is programmed. -/
structure FlwRec where
  type : Nat
  src : Nat
  ts : Nat
  opsec : Word
  cycles : Word
  seq : Word
  snap : List Word
  tlock : Bool
  arg : Nat
  deriving DecidableEq, Repr

/-- A fault ledger record (Table 13-5). -/
structure LedgerRec where
  kind : Nat
  src : Nat
  count : Word
  loc : Nat
  first : Nat
  last : Nat
  opsec : Word
  cycles : Word
  action : Nat
  done : Bool
  errInfo : Word
  deriving DecidableEq, Repr

/-- Flowstone, fault ledger, mailboxes, sideband port and snapshot. -/
structure RecSt where
  queue : List FlwRec
  lost : Bool
  erased : Option Nat                -- the sector erased for the next writes (R359)
  fetch : Option Word                -- SEQNO being fetched (R363)
  ledger : List LedgerRec
  mbxQ : List (Nat × List Word)      -- words held: key channel × 2 + queue (R349)
  mbxLock : List (Nat × Option Nat)  -- owner's source number by channel (R351)
  sbBad : Bool                       -- the sideband frame in progress carries no known opcode (R365)
  snapArmed : Option Nat             -- armed snapshot tick (R355)
  snapCopied : Bool                  -- every unit has copied, TS_SNAP_SEQ has still to increment
  deriving DecidableEq, Repr

/-! ### Cores (03, 04) -/

/-- What an issued instruction of a pipe does; a KV fill names its tile and the number of KV tiles the core has received. -/
inductive TOp
  | load | store | mma | conv | vec | red | soft | seg | sort | gather | scatter | scatterAdd
  | kvFill (t k : Nat)
  deriving DecidableEq, Repr

/-- A scoreboard entry (R92, R93): an instruction that has issued and not completed, with its copies (R91) of descriptors
and TARGs, the TRTILE it sampled (R111) and the Pocket intervals it reads and writes. -/
structure TEntry where
  id : Nat
  op : TOp
  f : RType
  ops : List Desc
  targ : List DWord
  tile : DWord
  pc : Nat
  reads : List (Nat × Nat)
  writes : List (Nat × Nat)
  started : Bool
  deriving DecidableEq, Repr

/-- A tile held and not retired (R128); `upTo` is set when it is marked for retirement: it waits for instructions with a
smaller id. -/
structure HeldTile where
  idx : Nat
  upTo : Option Nat
  reissued : Bool
  deriving DecidableEq, Repr

/-- A TSYNC.TILE that has taken an index and not completed (R131, R142). -/
structure TileWait where
  rd : Nat
  t : Nat
  k : Nat              -- the tiles that the core received before it
  load : Nat           -- 0 no group to load, 1 to join a multicast, 2 joined, 3 loaded
  newGrp : Bool
  reissued : Bool
  len : Nat            -- bytes of the instruction
  deriving DecidableEq, Repr

/-- An exception that a core has raised (R113). -/
structure Exc where
  cause : Nat
  pipe : Nat
  dreg : Nat
  precise : Bool
  pc : Nat
  ts : Nat
  deriving DecidableEq, Repr

/-- What issue waits for (R110, R114). -/
inductive CoreWait
  | run
  | pipes (mask upTo : Nat)
  | mem (upTo : Nat)
  | tile (w : TileWait)
  | ending (upTo : Nat)
  | stopped (e : Exc)
  | debug
  deriving DecidableEq, Repr

/-- A core. -/
structure CoreSt where
  x : List (Nat × DWord)
  pc : Nat
  launch : Option Nat                -- hub × 256 + slot
  targ : List (Nat × DWord)
  tflags : Word
  trtile : DWord
  ttile : DWord
  tseq : Word
  tepoch : Word
  td : List (Nat × Desc)
  ents : List TEntry
  nextId : Nat
  held : List HeldTile
  count : Nat                        -- tiles received in the launch
  group : Option Nat                 -- group of the tile received last
  gcount : Nat                       -- group count (R130)
  wait : CoreWait
  resv : Option Nat                  -- load-reserve reservation
  icache : List (Nat × List Byte)    -- lines held, by address (R89)
  dcache : List (Nat × List Byte)
  deriving DecidableEq, Repr

/-! ### Tile sequencers (05) -/

/-- A multicast of a weight group (R131). -/
structure Mcast where
  group : Nat
  joined : List Nat
  closed : Bool
  deriving DecidableEq, Repr

/-- A launch that holds a launch slot; its indices handed, retired, held and lost are counted in the slot's registers. -/
structure LaunchSt where
  q : Nat
  i : Word
  part : Nat
  entry : Nat
  arg : Nat
  tile : Option LaunchDesc
  win : List WinE
  sdesc : Option Desc
  kv : Option KvWalk
  early : Bool
  cores : List Nat
  started : List Nat
  ended : List Nat
  reissue : List Nat
  lost : List Nat
  reissued : List Nat          -- indices that have been on the reissue list
  staged : List Nat
  staging : Option Nat
  mcasts : List Mcast
  exc : Option (Exc × Nat)     -- the earliest exception and its source number
  poison : Option Nat          -- poison was read or written; the first such address, 0 where none is known
  stop : Bool                  -- an exception ends the handing of tiles
  deriving DecidableEq, Repr

/-! ### Trowel (08) -/

/-- Who a Trowel engine works for. -/
inductive TrwReq
  | core (c id : Nat)
  | cmd (q : Nat) (i : Word)
  | stage (k : Nat)
  deriving DecidableEq, Repr

/-- A block in an engine's input queue: to be coded with its 256 element codes and poison marks, or to be decoded. -/
structure TrwJob where
  req : TrwReq
  src : Nat
  part : Nat
  slot : Nat
  desc : Desc                  -- with BASE at the bank in use
  blk : Nat
  enc : Bool
  vals : List (Nat × Bool)
  build : Bool                 -- TBLSRC is BUILD for its command
  deriving DecidableEq, Repr

/-- A table build (R200): the sample gathered so far. -/
structure TrwBuild where
  part : Nat
  slot : Nat
  sample : List TrwJob
  started : Bool
  deriving DecidableEq, Repr

/-- A decoded block on its way to its requester. -/
structure TrwOut where
  req : TrwReq
  part : Nat
  slot : Nat
  blk : Nat
  vals : List (Nat × Bool)
  deriving DecidableEq, Repr

/-- The Trowel engines. -/
structure TrwSt where
  queues : List (Nat × List TrwJob)
  builds : List (Nat × Option TrwBuild)
  out : List TrwOut
  closing : List (Nat × Nat)   -- partitions whose clear of TRW_PCTL.EN is pending, with the dispatch order then (R209)
  bad : List (TrwReq × Nat)    -- requesters of which a coded block's write was refused, with the first such address (R250)
  descs : List (Nat × Option Desc) -- the descriptor of a slot's SINIT: key partition × 4096 + slot (log 30)
  deriving DecidableEq, Repr

/-! ### Media (02) -/

/-- A stream context descriptor as INIT copied it (Table 2-3). -/
structure StreamDesc where
  std : Nat
  enc : Bool
  depth : Nat
  pool : Nat
  width : Nat
  height : Nat
  save : Nat
  poolAddr : Nat
  poolStride : Nat
  outStride : Nat
  outAddr : Nat
  field : Nat
  recAddr : Nat
  keyInt : Nat
  ltr : Nat
  deriving DecidableEq, Repr

/-- A decoded frame: what its record says of it, what its samples are taken from and, once reconstructed, its pool buffer.
`upTo` frames of the context's history give its samples; a damaged block is concealed from `good` by the field `prev`. -/
structure MediaFrame where
  no : Nat
  number : Word
  key : Bool
  concealed : Bool
  poisoned : Bool
  grain : Bool
  damaged : List Nat
  bitOff : Nat
  error : Nat
  start : Nat
  w : Nat
  h : Nat
  good : Option Nat
  prev : List Nat
  field : List Nat
  buf : Nat
  deriving DecidableEq, Repr

/-- A frame for a pixel engine: parsed and waiting, or being reconstructed. An encoder's frame carries its source bytes. -/
structure MediaJob where
  ctx : Nat
  bytes : List (Byte × Bool)
  start : Nat
  chunks : Nat
  key : Bool
  deriving DecidableEq, Repr

/-- A stream context that is not CLOSED (R40 to R55): the part of the bitstream that it has not parsed, how far the bitstream
has been taken, its history since INIT, the marks of its buffers, the frames held for reordering, and what it needs of earlier
frames. For the command in flight: bytes taken of its buffer, frames taken, output or encoded, and poison met. -/
structure CtxSt where
  desc : StreamDesc
  input : List (Byte × Bool)
  offset : Nat
  hist : List (List (Byte × Bool))
  src : List (List Byte × Bool)
  pool : List (Nat × Nat)           -- mark, decode number
  held : List MediaFrame
  lastGood : Option Nat
  lastField : List Nat
  concealed : List Nat              -- decode numbers since the last key picture
  poisoned : List Nat
  sinceKey : Nat
  consumed : Nat
  taken : Nat
  done : Nat
  written : Nat
  bad : Option Nat
  deriving DecidableEq, Repr

/-- An entry of a partition's sample cache (R64, R65): its key, its place in the index and in the ring, the bytes of the lossless
area that it takes, its age, and what it holds: BF16 elements or bytes. -/
structure CacheEntry where
  part : Nat
  key : Nat
  set : Nat
  way : Nat
  addr : Nat
  size : Nat
  alloc : Nat
  age : Nat
  bf16 : Bool
  cls : Nat
  count : Nat
  deriving DecidableEq, Repr

/-- The media dies. Keys: contexts by number; entropy engines by die × 4 + engine, pixel engines 8 above. -/
structure MediaSt where
  ctxs : List (Nat × Option CtxSt)
  wait : List MediaJob                       -- parsed frames that wait, the longest first
  pix : List (Nat × Option MediaJob)
  resident : List (Nat × Option Nat)
  keyReq : List Nat                          -- contexts with a key picture requested
  cache : List CacheEntry
  ringPos : List (Nat × Nat)                 -- by partition: where the next entry goes, from the ring's base
  cacheClosing : List Nat                    -- partitions whose clear of INP_CACHE_CTL.EN is pending
  stores : List (Nat × Word × Bool × List Byte) -- output to be stored: queue and slot of its command, is it BF16, bytes
  deriving DecidableEq, Repr

/-! ### Power (14) -/

/-- A wake that waits for its grant, or that has it and is not complete (R323). -/
structure WakeReq where
  unit : WakeUnit
  prio : Nat
  since : Nat
  granted : Bool
  deriving DecidableEq, Repr

/-- Lantern and the power monitors: credits by rail (0 to 7 VCORE, 8 to 15 VGAL; an unlisted rail holds its cap at reset,
256 units), wakes in order of age, and for each die index the clock in MHz that the power cap and that the temperature allow
(2,000 where unlisted). `falls` holds for each rail the microsecond of the last gating step and the units that went to sleep in
it (R324). -/
structure PwrSt where
  credits : List (Nat × Nat)
  falls : List (Nat × (Nat × Nat))
  wakes : List WakeReq
  capClk : List (Nat × Nat)
  thrClk : List (Nat × Nat)
  deriving DecidableEq, Repr

/-- The control pins and the sequencing of the rails (R384, R385): inputs and outputs by their level, the highest step of
Table 18-3 whose rails are on and good, and whether a boot rail failed. -/
structure PinSt where
  resetN : Bool
  railsEn : Bool
  thermtripN : Bool
  step : Nat
  bootStop : Bool
  deriving DecidableEq, Repr

/-! ### Collectives and links (11, 12) -/

/-- Bytes that have arrived for a stage of a collective, held apart for each contributor (R280). -/
structure Arrival where
  part : Nat
  group : Nat
  number : Word
  op : Nat
  flags : Word
  n : Nat
  stage : Nat
  half : Nat
  rank : Nat
  off : Nat
  bytes : List (Byte × Bool)
  deriving DecidableEq, Repr

/-- A piece of a collective's data in wire form: 32 elements of a reduction, or an element or an MX block of a gather; bit k
of `bad` marks element k poisoned. -/
structure Cell where
  idx : Nat
  bytes : List Byte
  bad : Nat
  deriving DecidableEq, Repr

/-- A move entry (Table 12-3). -/
structure MoveE where
  off : Nat
  poff : Nat
  len : Nat
  peer : Nat
  deriving DecidableEq, Repr

/-- A PERMUTE (R283): its lists, whether every member's check has passed, the bytes placed in staging so far, the ranges
received, and what the buffers hold (position in staging, offset in the tensor, bytes). -/
structure PermSt where
  outs : List MoveE
  ins : List MoveE
  stage : Nat
  size : Nat
  moving : Bool
  fill : Nat
  got : List (Nat × Nat)
  bufs : List (Nat × Nat × Nat)
  deriving DecidableEq, Repr

/-- A COLL in flight that has passed its checks (R273 to R283). `half0`, `half1` count the stages that each half has completed. -/
structure CollSt where
  q : Nat
  i : Word
  part : Nat
  group : Nat
  number : Word
  op : Nat
  flags : Word
  n : Nat
  begun : Bool                 -- the group was READY and the contribution has been read
  src : Option Desc
  dst : Option Desc
  base : Option Desc
  half0 : Nat
  half1 : Nat
  cells0 : List Cell
  cells1 : List Cell
  lsum : Fp                    -- L of R265
  bad : Option Nat             -- the first poisoned or refused address
  perm : Option PermSt
  deriving DecidableEq, Repr

/-- An enabled group (R277): the remote devices heard with an equal signature, and when EN was set. -/
structure GroupSt where
  heard : List Nat
  enAt : Nat
  deriving DecidableEq, Repr

/-- An entry of the partner table (Table 12-9), and when a valid flit last arrived from the device. -/
structure PartnerSt where
  state : Nat
  ports : Nat
  serial : Nat
  heardAt : Nat
  deriving DecidableEq, Repr

/-- A port (R287 to R292). Credits are counted in flits, by virtual channel: those the device holds, and those of its own
buffer that the partner has used and that have not gone back. A message waits with the number of its next flit. -/
structure PortSt where
  txSeq : Nat
  rxSeq : Nat
  credits : List Nat
  used : List Nat
  wait : List (OutMsg × Nat)             -- wait for credits, for the replay buffer or for a pause to end
  unacked : List (Nat × Nat × OutMsg)    -- Dreuri: SEQ, number of the flit, its message; Ethernet: message number, resends, message
  ackSent : Nat                          -- the expected SEQ when the device last sent an ACK
  helloSent : Bool                       -- a HELLO has been sent, and the partner's has been received, since training (R292)
  helloGot : Bool
  silent : List Nat                      -- coordinates treated as silent on this port (R290)
  discarding : Bool
  retrySeq : Nat                         -- SEQ of the last RETRY received, and how often in a row
  retryNo : Nat
  paused : Nat                           -- priorities paused (IEEE 802.1Qbb), one bit each
  deriving DecidableEq, Repr

/-- Time synchronisation (R296): whether the timestamp has ever locked, the offset that is still to be slewed away, and the
ticks since the last slew of 1 ns. -/
structure TimeSt where
  locked : Bool
  slew : Int
  ticks : Nat
  deriving DecidableEq, Repr

/-- Collective engines, groups, links, time. Keys: ports by device port, partners by coordinate, groups by partition × 64 +
group; the rest by partition. -/
structure ColSt where
  ports : List (Nat × PortSt)
  partners : List (Nat × PartnerSt)
  groups : List (Nat × Option GroupSt)
  arrivals : List Arrival
  colls : List CollSt
  unsent : List OutMsg                   -- messages with no port that reaches their destination
  epochRecs : List (Nat × EpochRecord)
  norms : List (Nat × (Fp × Fp))         -- the exact accumulators SL and SG (R265)
  gates : List (Nat × Option Nat)        -- GATEP and GATEF written while an EPOCH is in flight (Table 11-6)
  gaveUp : List (Nat × Nat)              -- by partition: when its last EPOCH that ended LOST was given up (R263)
  time : TimeSt
  deriving DecidableEq, Repr

/-! ### Boot and management (15) -/

/-- What is set in fuses (R334, Table 17-4): the image key hash, the SECVER floor, the serial number, the lid. -/
structure FuseSt where
  keyHash : List Byte
  floor : Nat
  serial : Nat
  lid : Nat
  deriving DecidableEq, Repr

/-- The configuration flash (Table 15-1), kept by its contents: both image copies, the Flowstone ring by slot, the change log
(newest last), and the persistent counters. The fault ledger is `RecSt.ledger`. A byte that nothing has programmed reads 0xFF
(log 22). -/
structure FlashSt where
  copy0 : List Byte
  copy1 : List Byte
  ring : List (Nat × List Byte)
  log : List (List Byte)
  opsec : Word
  cycles : Word
  rseq : Nat
  deriving DecidableEq, Repr

/-- An access-lock attempt that runs (R346): the source number of its command, the command, the length of a password, LOCK_DATA
and LOCK_NONCE as copied. -/
structure Attempt where
  src : Nat
  cmd : Nat
  len : Nat
  data : List Word
  nonce : List Word
  abandoned : Bool
  deriving DecidableEq, Repr

/-- A wake from STANDBY that runs (R327): the ports that asked for it, and the device state it leads to. -/
structure WakeTo where
  ports : List Nat
  state : Nat
  deriving DecidableEq, Repr

/-- The management controller: fuses, flash, the ENABLE, PORTS and LOCK sections of the booted image, a lock attempt, a wake from
STANDBY, the source number that last pushed a word into channel 0's queue 0 (R352), and for a device that has withdrawn the
ENABLE section then in force and the cause, kept over power cycles (R314; log 44). -/
structure MgmtSt where
  fuse : FuseSt
  flash : FlashSt
  enable : List Byte
  ports : List Byte
  lock : List Byte
  attempt : Option Attempt
  wake : Option WakeTo
  wd : Option (List Byte × Nat)
  pusher : Nat
  deriving DecidableEq, Repr

/-! ### The device -/

/-- Everything the spec gives the device. -/
structure Dev where
  regs : List (Nat × Word)           -- registers by offset (RegMap.lean)
  shadow : List (Nat × Word)         -- counter shadows by the counter's offset (R355)
  latch : List (Nat × Option Word)   -- pair latches: key block × 4 + origin (R373)
  seedHeld : List (Nat × Word)       -- TOP_SEED_LO words held, by partition (R379)
  mem : MemSt
  host : HostSt
  queue : QueueSt
  tier : TierSt
  rcd : RecSt
  cores : List (Nat × CoreSt)
  launches : List (Nat × LaunchSt)   -- by hub × 256 + slot
  kvClosing : List (Nat × Nat)   -- partitions whose clear of DMA_KV_CTL.EN is pending, with the dispatch order then (R158)
  trw : TrwSt
  pwr : PwrSt
  pins : PinSt
  col : ColSt
  mgmt : MgmtSt
  media : MediaSt
  now : Nat                          -- the global timestamp, 64 bits (R353)
  resp : Resp
  sent : List Sent
  free : Nat                         -- the model's own counter for free values (log 3)
  deriving DecidableEq, Repr

/-- The machine: the device, and the commands that wait, first in first out. -/
structure State where
  dev : Dev
  pending : List Instr
  deriving DecidableEq, Repr

/-! ### Reset -/

def MemSt.reset : MemSt := ⟨[], [], [], [], [], [], [], [], [], [], []⟩
def HostSt.reset : HostSt := ⟨[], [], [], [], [], []⟩
def QueueSt.reset : QueueSt := ⟨[], [], [], none, [], [], 0, [], []⟩
def TierSt.reset : TierSt := ⟨[], [], [], 0, [], none⟩
def PwrSt.reset : PwrSt := ⟨[], [], [], [], []⟩
def PortSt.reset : PortSt :=
  { txSeq := 0, rxSeq := 0, credits := List.replicate 8 64, used := List.replicate 8 0, wait := [], unacked := [],
    ackSent := 0, helloSent := false, helloGot := false, silent := [], discarding := false, retrySeq := 0, retryNo := 0, paused := 0 }
def ColSt.reset : ColSt := ⟨[], [], [], [], [], [], [], [], [], [], ⟨false, 0, 0⟩⟩
def PinSt.reset : PinSt := ⟨true, true, true, 0, false⟩
def TrwSt.reset : TrwSt := ⟨[], [], [], [], [], []⟩
def CoreSt.reset : CoreSt :=
  { x := [], pc := 0, launch := none, targ := [], tflags := 0, trtile := 0xFFFFFFFFFFFFFFFF, ttile := 0xFFFFFFFFFFFFFFFF,
    tseq := 0, tepoch := 0, td := [], ents := [], nextId := 0, held := [], count := 0, group := none, gcount := 0,
    wait := .run, resv := none, icache := [], dcache := [] }
def MediaSt.reset : MediaSt := ⟨[], [], [], [], [], [], [], [], []⟩
def RecSt.reset : RecSt := ⟨[], false, none, none, [], [], [], false, none, false⟩
def FlashSt.reset : FlashSt := ⟨[], [], [], [], 0, 0, 0⟩
def MgmtSt.reset : MgmtSt := ⟨⟨List.replicate 48 0, 0, 0, 0⟩, FlashSt.reset, [], [], [], none, none, none, 0⟩

/-- Registers that do not hold 0 or their table's reset: channel 0 of the mailboxes belongs to no partition and serves the
management controller, whose interrupt is target 0 with bit 30 unmasked (R348, R352; log 40). -/
def regsReset : List (Nat × Word) := [(0x12000028, 0x40000000), (0x12000030, 2), (0x12000048, 0x1F)]

/-- The device after a power cycle (R332, R370). -/
def Dev.reset : Dev :=
  { regs := regsReset, shadow := [], latch := [], seedHeld := [], mem := .reset, host := .reset, queue := .reset,
    tier := .reset, rcd := .reset, cores := [], launches := [], kvClosing := [], trw := .reset, pwr := .reset, pins := .reset,
    col := .reset, mgmt := .reset, media := .reset, now := 0, resp := .none, sent := [], free := 0 }

/-- The machine right after reset: no command waits. -/
def State.reset : State := ⟨Dev.reset, []⟩

end Sys2Proof.Machine
end

