-- ==== Sys2Proof/Machine/Ops.lean ====
section
/-! DEFINITION. Operations that every family shares: registers, numbering and partitions (01), first-error captures (R374),
Flowstone events (R357 to R362), the fault ledger (R313), the EPOCH flags (R258), and running a command. -/

namespace Sys2Proof.Machine

/-! ### Registers -/

/-- The word that the register at `off` holds. -/
def Dev.rd (d : Dev) (off : Nat) : Word := sget resetOf d.regs off

/-- Set the word of the register at `off`. -/
def Dev.wr (d : Dev) (off : Nat) (v : Word) : Dev := { d with regs := sset resetOf d.regs off v }

/-- Set field [hi:lo] of a register. -/
def Dev.wrFld (d : Dev) (off hi lo v : Nat) : Dev := d.wr off (setFld hi lo v (d.rd off))

/-- Field [hi:lo] of a register. -/
def Dev.rdFld (d : Dev) (off hi lo : Nat) : Nat := fld hi lo (d.rd off)

/-- The pair whose _LO word is at `off` (R373). -/
def Dev.rd64 (d : Dev) (off : Nat) : Nat := (d.rd off).toNat + 2 ^ 32 * (d.rd (off + 4)).toNat

/-- Set a pair. -/
def Dev.wr64 (d : Dev) (off v : Nat) : Dev :=
  (d.wr off (BitVec.ofNat 32 v)).wr (off + 4) (BitVec.ofNat 32 (v / 2 ^ 32))

/-- Add to a 64-bit counter pair. -/
def Dev.add64 (d : Dev) (off n : Nat) : Dev := if n = 0 then d else d.wr64 off (d.rd64 off + n)

/-- Add to a counter word that saturates. -/
def Dev.addSat (d : Dev) (off n : Nat) : Dev := if n = 0 then d else d.wr off (satAdd32 (d.rd off) n)

/-- Set bits of an ERR register; `cap` takes the first-error capture when the register was all clear (R374). -/
def Dev.raise (d : Dev) (off : Nat) (bit : Nat) (cap : Dev → Dev) : Dev :=
  let w := d.rd off
  let d := d.wr off (setBit bit true w)
  if w = 0 then cap d else d

/-- A fresh index for a free value (log 3). -/
def Dev.fresh (d : Dev) : Nat × Dev := (d.free, { d with free := d.free + 1 })

/-- Drive a message out. -/
def Dev.send (d : Dev) (m : Sent) : Dev := { d with sent := d.sent ++ [m] }

/-- Fold a device operation over a list. -/
def Dev.each {α : Type} (d : Dev) (l : List α) (f : Dev → α → Dev) : Dev := l.foldl f d

/-- Request the wake of a unit once. -/
def Dev.requestWake (d : Dev) (u : WakeUnit) (prio : Nat) : Dev :=
  if d.pwr.wakes.any (·.unit = u) then d
  else { d with pwr := { d.pwr with wakes := d.pwr.wakes ++ [⟨u, prio, d.now, false⟩] } }

/-! ### Numbering (R9, R10, Table 1-3) -/

/-- Source number of unit `u` of die index `die`. -/
def srcNo (die u : Nat) : Nat := die * 2048 + u

/-- Source number of an access's origin. -/
def srcOf : Origin → Nat
  | .host p => srcNo (16 + p.val) 0x060
  | .sideband => srcNo 16 0x073
  | .mgmt => srcNo 16 0x070
  | .core c => srcNo (c.val / 192) (c.val % 192)
  | .dma e =>
    if e.val < 64 then srcNo (16 + e.val / 32) (0x020 + e.val % 32)
    else srcNo ((e.val - 64) / 4) (0x210 + (e.val - 64) % 4)

/-- Which latch of a block an origin has (R373); cores and DMA engines have none. -/
def latchOf : Origin → Option Nat
  | .host p => some p.val
  | .sideband => some 2
  | .mgmt => some 3
  | .core _ => none
  | .dma _ => none

/-! ### Partitions (R18 to R20) -/

/-- Number of partitions of the layout in force (Table 1-6). -/
def Dev.parts (d : Dev) : Nat := 2 ^ d.rdFld rTopStatus 5 4

/-- The partition that holds compute die `die`. -/
def Dev.partOfDie (d : Dev) (die : Nat) : Nat := die / (8 / d.parts)

/-- The compute dies of partition `p`. -/
def Dev.diesOf (d : Dev) (p : Nat) : List Nat := (List.range 8).filter (fun n => d.partOfDie n = p && p < d.parts)

/-- Is compute die `die` fenced (R24)? -/
def Dev.fenced (d : Dev) (die : Nat) : Bool := bitOf (16 + die) (d.rd rTopStatus)

/-- CORE_STATUS.STATE (Table 4-11): 0 ABSENT, 1 IDLE, 2 RUNNING, 3 CLOCK_GATED, 4 POWER_GATED, 5 FENCED. -/
def Dev.coreState (d : Dev) (c : Nat) : Nat := d.rdFld (rCoreStatus c) 2 0

/-- The partition that an origin acts for; hosts, the sideband port and the management controller act for none. -/
def Dev.partOf (d : Dev) : Origin → Option Nat
  | .core c => some (d.partOfDie (c.val / 192))
  | .dma e => if e.val < 64 then none else some (d.partOfDie ((e.val - 64) / 4))
  | _ => none

/-- The owning partition of a queue (R230). -/
def Dev.qPart (d : Dev) (q : Nat) : Nat := d.rdFld (rQmgQCfg q) 26 23

/-- The owning partition of a sync counter, when its block is enabled (R237). -/
def Dev.cntPart (d : Dev) (c : Nat) : Option Nat :=
  let w := d.rd (rQmgCblkOwn (c / 4096))
  if bitOf 4 w then some (fld 3 0 w) else none

/-- BOOT_STATE.STATE (Table 15-5). -/
def Dev.bootState (d : Dev) : Nat := d.rdFld rBootState 3 0

/-- Is the access lock open for DEBUG (R345)? -/
def Dev.debugOpen (d : Dev) : Bool := bitOf 0 (d.rd rLockStatus)

/-! ### The fields of a command in flight (Tables 10-1, 10-2) -/

/-- CLASS and OP of a command (Table 10-2). -/
def Inflight.cls (x : Inflight) : Nat := leAt x.slot 0 1 % 16
/-- OP of a command. -/
def Inflight.op (x : Inflight) : Nat := leAt x.slot 0 1 / 16
/-- CTRL of a command. -/
def Inflight.ctrl (x : Inflight) : Nat := leAt x.slot 0 4
/-- SEQ of a command. -/
def Inflight.seq (x : Inflight) : Nat := leAt x.slot 4 4
/-- Operand number `k` of a command: the eight bytes at 0x18 + 8 k. -/
def Inflight.opd (x : Inflight) (k : Nat) : Nat := leAt x.slot (0x18 + 8 * k) 8
/-- Does its DMA engine hold the command (R247)? -/
def Inflight.held (x : Inflight) : Bool := x.heldAt ≠ 0
/-- Slots of a command: two with SX (R235). -/
def Inflight.slots (x : Inflight) : Nat := if x.ctrl.testBit 8 then 2 else 1

/-! ### Ring slots, waits and holds (R233, R235 to R237, R245, R259) -/

/-- A wait entry (Table 10-3). -/
structure WaitE where
  cnt : Nat
  v : Bool
  kind : Bool
  ignf : Bool
  value : Word
  deriving DecidableEq, Repr

/-- A signal entry (Table 10-3). -/
structure SigE where
  cnt : Nat
  v : Bool
  set : Bool
  value : Word
  deriving DecidableEq, Repr

/-- Read a wait entry at byte `o`. -/
def waitAt (l : List Byte) (o : Nat) : WaitE :=
  let w := leAt l o 8
  ⟨nfld 17 0 w, w.testBit 18, w.testBit 19, w.testBit 20, BitVec.ofNat 32 (w / 2 ^ 32)⟩

/-- Read a signal entry at byte `o`. -/
def sigAt (l : List Byte) (o : Nat) : SigE :=
  let w := leAt l o 8
  ⟨nfld 17 0 w, w.testBit 18, w.testBit 19, BitVec.ofNat 32 (w / 2 ^ 32)⟩

/-- The valid wait entries of a command: WAIT0 of its slot and WAIT1 to WAIT3 of its extension. -/
def waitsOf (slot ext : List Byte) : List WaitE :=
  (waitAt slot 8 :: if ext.isEmpty then [] else [waitAt ext 0, waitAt ext 8, waitAt ext 16]).filter (·.v)

/-- The valid signal entries: SIG0 of its slot and SIG1 of its extension. -/
def sigsOf (slot ext : List Byte) : List SigE :=
  (sigAt slot 0x10 :: if ext.isEmpty then [] else [sigAt ext 0x18]).filter (·.v)

/-- Is a wait of queue `q` met (Table 10-3)? -/
def Dev.waitMet (d : Dev) (q : Nat) (w : WaitE) : Bool :=
  if w.kind then
    d.queue.infl.all (fun x => !(x.q = q && x.cls = 0 && BitVec.ofNat 32 x.seq = w.value && x.phase ≠ .early)
      || x.lastout)
  else reached32 (d.rd (rQmgCntVal w.cnt)) w.value

/-- Does queue `q`'s head command stand fetched: its slot, its extension (none without SX), and TAIL covers them? -/
def Dev.head? (d : Dev) (q : Nat) : Option (List Byte × List Byte) :=
  let h := d.rd (rQmgQHead q)
  let at? (c : Word) : Option (List Byte) := (d.queue.fetched.find? (fun f => f.q = q && f.cnt = c)).map (·.bytes)
  match at? h with
  | none => none
  | some s => if (leAt s 0 4).testBit 8 then (at? (h + 1)).map (fun e => (s, e)) else some (s, [])

/-- Is the queue RUNNING? -/
def Dev.running (d : Dev) (q : Nat) : Bool := d.rdFld (rQmgQStatus q) 1 0 = 1

/-- Does a MODE hold cover partition `p` (R246)? -/
def Dev.modeHold (d : Dev) (p : Nat) : Bool :=
  match d.queue.mode with
  | some m => m.op = 2 || m.part = p
  | none => false

/-- Does an EPOCH hold cover partition `p` (R260)? -/
def Dev.epochHold (d : Dev) (p : Nat) : Bool := (sget (fun _ => none) d.queue.epochs p).isSome

/-- Is a MODE in flight anywhere? -/
def Dev.modeBusy (d : Dev) : Bool := d.queue.infl.any (fun x => x.cls = 10)
/-- Is an EPOCH in flight anywhere? -/
def Dev.epochBusy (d : Dev) : Bool := d.queue.infl.any (fun x => x.cls = 11)
/-- Is an EPOCH of partition `p` in flight? -/
def Dev.epochBusyOf (d : Dev) (p : Nat) : Bool := d.queue.infl.any (fun x => x.cls = 11 && x.part = p)

/-- Does a command name a counter of another partition (R19)? -/
def Dev.foreign (d : Dev) (p : Nat) (slot ext : List Byte) : Bool :=
  (waitsOf slot ext).any (fun w => !w.kind && d.cntPart w.cnt ≠ some p)
    || (sigsOf slot ext).any (fun s => d.cntPart s.cnt ≠ some p)

/-- Does a COLL whose descriptor lies at `a` wait at dispatch: its group is enabled, not READY and not LOST (R277)? One whose
descriptor lies in the managed aperture waits when it begins instead (log 16). -/
def Dev.collWaits (d : Dev) (p a : Nat) : Bool :=
  let g := (List.range 4).foldl (fun n k => n + 256 ^ k * (sget (fun _ => (0 : Byte)) d.mem.cells (a + k)).toNat) 0
  !(0x80000000000 ≤ a && a < 0xC0000000000) && a % 64 = 0 && g < 64 && bitOf 0 (d.rd (rColGCtl p g))
    && d.rdFld (rColGState p g) 1 0 = 0

/-- Does the command at HEAD of queue `q` wait: for its wait entries, for its FENCE, for an earlier MODE or EPOCH, for an EPOCH's
hold, or for its group to become READY (R233, R245, R259, R277)? A FOREIGN one waits for nothing but a hold. -/
def Dev.headWaits (d : Dev) (q : Nat) (s e : List Byte) : Bool :=
  let p := d.qPart q
  let ctrl := leAt s 0 4
  d.epochHold p || (!d.foreign p s e
    && (!(waitsOf s e).all (d.waitMet q)
      || (ctrl.testBit 9 && d.queue.infl.any (fun x => x.q = q && x.phase ≠ .early))
      || (ctrl % 16 = 2 && d.collWaits p (leAt s 0x18 8))
      || (ctrl % 16 = 10 && (d.modeBusy || d.epochBusy))
      || (ctrl % 16 = 11 && (d.modeBusy || d.epochBusyOf p))))

/-! ### What a register reads as, without side effects -/

/-- Is the page that `off` lies in hidden: an ABSENT core's (R375), a partition's that the layout does not hold (R376), a
mailbox channel's with EN = 0 (Table 16-1)? Such a page reads 0 and discards writes. Before READY the core states are
not yet set and their pages read as they stand. -/
def Dev.pageHidden (d : Dev) (off : Nat) : Bool :=
  if 0x4000000 ≤ off && off < 0x4600000 then d.bootState = 5 && d.coreState ((off - 0x4000000) / 0x1000) = 0
  else if 0x800000 ≤ off && off < 0x808000 then decide (d.parts ≤ (off - 0x800000) / 0x1000)
  else if 0x12000000 ≤ off && off < 0x12010000 then decide (0x12000400 ≤ off) && !bitOf 4 (d.rd (rMbxOwn ((off - 0x12000000) / 0x400)))
  else false

/-- What a 32-bit read of the register at `off` would return, with no side effect (R362): WO and W1S fields read 0, the
exceptions being those that their tables state. -/
def Dev.peek (d : Dev) (off : Nat) : Word :=
  match findRow off with
  | none => 0
  | some r =>
    if d.pageHidden off then 0
    else if off = rTsNowLo then BitVec.ofNat 32 d.now
    else if off = rTsNowHi then BitVec.ofNat 32 (d.now / 2 ^ 32)
    else if off / 0x1000000 = 0x12 && (off % 0x400 = 0x4 || off % 0x400 = 0x14) then
      match sget (fun _ => []) d.rcd.mbxQ (2 * ((off - 0x12000000) / 0x400) + off % 0x400 / 0x10) with
      | w :: _ => w
      | [] => 0
    else if off / 0x1000000 = 0x12 && off % 0x400 = 0x40 then
      match sget (fun _ => none) d.rcd.mbxLock ((off - 0x12000000) / 0x400) with
      | some o => BitVec.ofNat 32 (0x10000 + o)
      | none => 0
    else if 0x1400000 ≤ off && off < 0x1800000 && off % 0x40 = 0xC then
      -- QMG_Q_STATUS: WAIT while the head command waits, HOLD while a MODE hold covers the queue (Table 10-10)
      let q := (off - 0x1400000) / 0x40
      let wait := match d.head? q with
        | some (s, e) => d.running q && d.headWaits q s e
        | none => false
      setBit 2 wait (setBit 3 (d.rdFld off 1 0 ≠ 0 && d.modeHold (d.qPart q)) (d.rd off))
    else
      let v := d.rd off &&& ~~~(BitVec.ofNat 32 (r.wo ||| r.w1s))
      -- GAL_SCRUB_POS is the next patrol address, which begins at the die's first granule (Table 7-5)
      if off / 0x1000000 = 5 && (off % 0x100000 = 0x58 || off % 0x100000 = 0x5C) then
        let n := (off - 0x5000000) / 0x100000
        let a := 0x200000000000 + n * 0x48000000 + sget (fun _ => 0) d.mem.scrubPos n * 64
        BitVec.ofNat 32 (if off % 8 = 0 then a else a / 2 ^ 32)
      else
      -- RANGE_GO reads 1 while RANGE_BUSY (Table 7-8)
      if (off / 0x1000000 = 5 || off / 0x1000000 = 6) && off % 0x100000 = 0x50 then
        setBit 16 (bitOf 1 (d.rd (off - 0x50))) v
      else v

/-! ### Flowstone (R357 to R362) -/

/-- The register offset that a device address of register space names. -/
def regOff (a : Nat) : Option Nat := if 0x3F0000000000 ≤ a && a < 0x3F0017000000 then some (a - 0x3F0000000000) else none

/-- The snapshot of class `c` (R362): the registers of its list, in order; an entry that names no register reads 0. -/
def Dev.snapshot (d : Dev) (c : Nat) : List Word :=
  (List.range (min (d.rdFld (rFlwClass c) 4 0) 20)).map (fun k =>
    match regOff (d.rd64 (rFlwListLo c k)) with
    | some off => d.peek off
    | none => 0)

/-- The source number of a report: after a takeover the management controller is that of HB1 (R343). -/
def Dev.srcNow (d : Dev) (src : Nat) : Nat :=
  if src = srcOf .mgmt && bitOf 6 (d.rd rBootState) then srcNo 17 0x070 else src

/-- Write a Flowstone record: the event takes a SEQNO and enters the queue, or is dropped when the queue is full (R360);
a class whose trigger is 0 writes none (R362). The snapshot begins with `pre`, where a rule names what it holds, and goes on
with the class's list (log 69). -/
def Dev.flwWith (d : Dev) (pre : List Word) (cls code src arg : Nat) : Dev :=
  if !bitOf cls (d.rd rFlwTrigEn) then d
  else if d.rcd.queue.length ≥ 1024 then
    { (d.addSat rFlwDrop 1) with rcd := { d.rcd with lost := true } }
  else
    let r : FlwRec := {
      type := cls * 4096 + code, src := d.srcNow src, ts := d.now, opsec := d.rd rBootOpsec, cycles := d.rd rBootCycles,
      seq := d.rd rFlwSeq, snap := (pre ++ d.snapshot cls).take 20, tlock := bitOf 1 (d.rd rTsStatus), arg := arg }
    let d := { d with rcd := { d.rcd with queue := d.rcd.queue ++ [r] } }
    let d := d.wr rFlwSeq (d.rd rFlwSeq + 1)
    d.wrFld rFlwStatus 12 2 d.rcd.queue.length

/-- Write a Flowstone record with the snapshot of its class. -/
def Dev.flw (d : Dev) (cls code src arg : Nat) : Dev := d.flwWith [] cls code src arg

/-! ### Fault ledger (R313) -/

/-- The location of a record: a new event of the same KIND at the same location counts on it. -/
def LedgerRec.same (r : LedgerRec) (kind src loc : Nat) : Bool := r.kind = kind && r.src = src && r.loc = loc

/-- Does a fence of compute die `n` do the action of a record (Table 13-6)? -/
def LedgerRec.fences (r : LedgerRec) (n : Nat) : Bool :=
  r.action = 3 && (if r.kind = 9 then r.src = srcNo n 0x230
    else decide (0x200000000000 + 0x48000000 * n ≤ r.loc) && decide (r.loc < 0x200000000000 + 0x48000000 * (n + 1)))

/-- Replace the first record with STATE = 1. -/
def replaceDone (n : LedgerRec) : List LedgerRec → Option (List LedgerRec)
  | [] => none
  | r :: t => if r.done then some (t ++ [n]) else (replaceDone n t).map (r :: ·)

/-- Open or update a ledger record; a full ledger overwrites the oldest record with STATE = 1, and without one the event
reaches Flowstone only. -/
def Dev.ledger (d : Dev) (kind src loc action : Nat) (errInfo : Word) : Dev :=
  let src := d.srcNow src
  if d.rcd.ledger.any (·.same kind src loc) then
    let l := mapIf (·.same kind src loc) (fun r => { r with count := r.count + 1, last := d.now }) d.rcd.ledger
    { d with rcd := { d.rcd with ledger := l } }
  else
    let n : LedgerRec := {
      kind := kind, src := src, count := 1, loc := loc, first := d.now, last := d.now, opsec := d.rd rBootOpsec,
      cycles := d.rd rBootCycles, action := action, done := action = 0, errInfo := errInfo }
    if d.rcd.ledger.length < 65536 then { d with rcd := { d.rcd with ledger := d.rcd.ledger ++ [n] } }
    else match replaceDone n d.rcd.ledger with
      | some l => { d with rcd := { d.rcd with ledger := l } }
      | none => d

/-! ### Access errors (R380) -/

/-- Log a refused register-level access: bit of TOP_ACCESS_ERR, its capture, its count and its Flowstone record. -/
def Dev.accessErr (d : Dev) (bit src width addr : Nat) : Dev :=
  let d := d.raise rTopAccessErr bit (fun d =>
    (d.wr rTopAccessSrc (BitVec.ofNat 32 (src % 65536 + 65536 * (width % 256)))).wr64 rTopAccessAddrLo addr)
  (d.addSat rTopAccessCount 1).flw 7 bit src addr

/-! ### The EPOCH flags (R258, Table 11-7) -/

/-- Set a bit of COL_EP_FLAGS of partition `p`. -/
def Dev.epFlag (d : Dev) (p bit : Nat) : Dev := d.wr (rColEpFlags p) (setBit bit true (d.rd (rColEpFlags p)))

/-- A refused access (R21): logged in Flowstone with address and source number, and POISON of the partition is set. The
class of such a record is ACCESS and its code 7 (log 23). -/
def Dev.refuse (d : Dev) (p src addr : Nat) : Dev := (d.epFlag p 0).flw 7 7 src addr

/-! ### In-flight commands -/

/-- No result yet. -/
def Result.fresh : Result :=
  { status := .done, cause := 0, progress := 0, src := 0xFFFF, result := 0, addr := 0, xa := 0, xb := 0 }

/-- The in-flight command a reference names. -/
def Dev.cmd? (d : Dev) (c : CmdRef) : Option Inflight := d.queue.infl.find? (fun f => f.q = c.q.val && f.i = c.i)

/-- Change the in-flight command of queue `q` at slot `i`. -/
def Dev.setCmd (d : Dev) (q : Nat) (i : Word) (f : Inflight → Inflight) : Dev :=
  { d with queue := { d.queue with infl := mapIf (fun x => x.q = q && x.i = i) f d.queue.infl } }

/-- End an in-flight command's work with a result. -/
def Dev.finish (d : Dev) (x : Inflight) (r : Result) : Dev := d.setCmd x.q x.i (fun y => { y with phase := .ended, res := r })

/-- Run a work step on an in-flight command of a class and operation that has been dispatched and has not ended; any other
reference changes nothing (log 4). -/
def Dev.work (d : Dev) (c : CmdRef) (p : Inflight → Bool) (f : Inflight → Dev → Dev) : Dev :=
  match d.cmd? c with
  | some x => if p x && (x.phase = .dispatched || x.phase = .working) then f x d else d
  | none => d

/-! ### Running a command -/

/-- The status words that are copies of other state, set again after every command: TOP_STATUS.STATE and TWIN from
BOOT_STATE, LOCKOPEN from LOCK_STATUS (R378), QUIET from the commands in flight and FENCED from TOP_STATUS (R379). -/
def Dev.refresh (d : Dev) : Dev :=
  let b := d.rd rBootState
  let l := d.rd rLockStatus
  let w := setFld 3 0 (fld 3 0 b) (setBit 12 (bitOf 6 b) (setBit 11 (bitOf 0 l || bitOf 1 l) (d.rd rTopStatus)))
  let d := d.wr rTopStatus w
  d.each (List.range 8) (fun d p =>
    let s := d.rd (rTopPStatus p)
    let quiet := d.queue.infl.all (fun x => x.part ≠ p || x.phase = .early)
    d.wr (rTopPStatus p) (setBit 16 quiet (setFld 15 8 (fld 23 16 w &&& fld 7 0 s) s)))

/-- The step that a slew adds to one tick: 1 ns in 10,000 at most, which is 100 ppm (R296, log 17). -/
def TimeSt.step (t : TimeSt) : Int := if t.ticks < 9999 || t.slew = 0 then 0 else if 0 < t.slew then 1 else -1

/-- One nanosecond passes (R353): the timestamp counts, with its slew, and each second is an operating second. -/
def Dev.tick (d : Dev) : Dev :=
  let t := d.col.time
  let s := t.step
  let now := ((d.now : Int) + 1 + s).toNat % 2 ^ 64
  let d := if now / 10 ^ 9 = d.now / 10 ^ 9 then d else d.wr rBootOpsec (d.rd rBootOpsec + 1)
  { d with
    now := now
    col := { d.col with
      time := { t with slew := t.slew - s, ticks := if s = 0 then min (t.ticks + 1) 9999 else 0 } } }

/-- Units per microsecond of rail `r`: the cap of its credits and the most that may go to sleep in a microsecond (R323, R324). -/
def Dev.slew (d : Dev) (r : Nat) : Nat := d.rdFld (rPwrSlew r) 11 0

/-- A gating step of `cost` units on rail `r` (R324): none where it would put more than PWR_SLEW to sleep in one microsecond, so
that it is deferred. -/
def Dev.gateStep (d : Dev) (r cost : Nat) : Option Dev :=
  let t := d.now / 1000
  let last := sget (fun _ => (0, 0)) d.pwr.falls r
  let used := if last.1 = t then last.2 else 0
  if used + cost ≤ d.slew r then
    some { d with pwr := { d.pwr with falls := sset (fun _ => (0, 0)) d.pwr.falls r (t, used + cost) } }
  else none

/-- Was the command dispatched before the clear of an enable bit that is pending for its partition? `l` lists pending clears:
a partition, and the order of dispatch when it was cleared. -/
def Inflight.before (x : Inflight) (l : List (Nat × Nat)) : Bool := l.any (fun e => e.1 = x.part && decide (x.ord < e.2))

/-- The access of source `src` to managed page `n` begins to wait for a frame, unless it waits already (R221). -/
def Dev.waitFrame (d : Dev) (src n : Nat) : Dev :=
  if d.tier.waits.any (fun w => w.src = src && w.page = n) then d
  else { d with tier := { d.tier with waits := d.tier.waits ++ [⟨src, n, d.now, false⟩] } }

/-- What a command leaves: everything but the queue of waiting commands may change. A command with an access that waits for a
frame of a managed page is put off whole, and only the wait stands (R221; log 24). -/
def State.settle (s : State) (d : Dev) : State :=
  match d.tier.stall with
  | none => { s with dev := d.refresh }
  | some (src, n) => { s with dev := (s.dev.waitFrame src n).refresh }

/-- Run a device operation as a command. -/
def State.run (f : Dev → Dev) (s : State) : Host.Outcome State Fault Refusal := .next (s.settle (f s.dev))

end Sys2Proof.Machine
end

