-- ==== Sys2Proof/Machine/Mem.lean ====
section
/-! DEFINITION. Memory by physical address (R25, R26): the HBM hash (R162, R163), the charge (R164), reads and writes of a
granule with their error outcomes (R165 to R171), and error injection (R176). Unwritten memory reads 0, clean (log 2). -/

namespace Sys2Proof.Machine

/-! ### Bytes and marks -/

/-- What an unlisted byte reads as (log 2). -/
def memDefault (_ : Nat) : Byte := 0

/-- The canonical form of memory: addresses strictly rising, no entry equal to what an unlisted address reads as, and mark
lists strictly rising. -/
def MemSt.wf (m : MemSt) : Bool :=
  smapWf memDefault m.cells && m.poison.Pairwise (· < ·) && keysRise m.damage && m.retained.Pairwise (· < ·)

/-- One byte. -/
def MemSt.byte (m : MemSt) (a : Nat) : Byte := sget memDefault m.cells a

/-- Store one byte. -/
def MemSt.setByte (m : MemSt) (a : Nat) (v : Byte) : MemSt := { m with cells := sset memDefault m.cells a v }

/-- Store bytes from `a` on. -/
def MemSt.setBytes (m : MemSt) (a : Nat) : List Byte → MemSt
  | [] => m
  | v :: t => (m.setByte a v).setBytes (a + 1) t

/-- `n` bytes from `a` on. -/
def MemSt.bytes (m : MemSt) (a n : Nat) : List Byte := (rangeFrom a n).map m.byte

/-- Is granule `g` marked poisoned? -/
def MemSt.isPoison (m : MemSt) (g : Nat) : Bool := m.poison.contains g

/-- Mark granule `g`, or clear its mark. -/
def MemSt.setPoison (m : MemSt) (g : Nat) (b : Bool) : MemSt := { m with poison := putNat g b m.poison }

/-- The damage of granule `g`. -/
def MemSt.dmg (m : MemSt) (g : Nat) : Option Damage := sget (fun _ => none) (m.damage.map (fun e => (e.1, some e.2))) g

/-- Set or clear the damage of granule `g`. -/
def MemSt.setDmg (m : MemSt) (g : Nat) (x : Option Damage) : MemSt := { m with damage := sput g x m.damage }

/-! ### The HBM hash (R162, R163) -/

/-- h of row q. -/
def hbmH (q : Nat) : Nat := q ^^^ (q / 2 ^ 7) ^^^ (q / 2 ^ 14) ^^^ (q / 2 ^ 21)

/-- Pseudo-channel of an HBM address. -/
def hbmPc (a : Nat) : Nat := (a / 512 % 768 + 37 * hbmH (a / 512 / 768)) % 768

/-- Offset within the pseudo-channel. -/
def hbmOff (a : Nat) : Nat := a / 512 / 768 * 512 + a % 512

/-- The inverse map: the device address of an offset of a pseudo-channel. -/
def hbmAddr (pc off : Nat) : Nat :=
  let q := off / 512
  let r := (pc + 768 - 37 * (hbmH q % 768) % 768) % 768
  (q * 768 + r) * 512 + off % 512

/-- Controllers of a stack, first and second (Table 1-2), as die × 3 + HC. -/
def stackCtrls (s : Nat) : Nat × Nat :=
  match s with
  | 0 => (0, 1) | 1 => (3, 6) | 2 => (7, 9) | 3 => (2, 4) | 4 => (5, 8) | 5 => (10, 11)
  | 6 => (12, 13) | 7 => (15, 18) | 8 => (19, 21) | 9 => (14, 16) | 10 => (17, 20) | _ => (22, 23)

/-- The controller that serves a pseudo-channel (R8). -/
def ctrlOf (pc : Nat) : Nat := if pc % 64 < 32 then (stackCtrls (pc / 64)).1 else (stackCtrls (pc / 64)).2

/-- The stack that a controller serves, and whether it is the second listed. -/
def ctrlStack (c : Nat) : Nat × Bool :=
  match (List.range 12).find? (fun s => (stackCtrls s).1 = c || (stackCtrls s).2 = c) with
  | some s => (s, (stackCtrls s).2 = c)
  | none => (0, false)

/-! ### Regions (Table 1-8) -/

/-- Gallery die of a Gallery address. -/
def galDie (a : Nat) : Nat := (a - 0x200000000000) / 0x48000000

/-- R26. -/
def galleryAddr (die col off : Nat) : Nat := 0x200000000000 + die * 0x48000000 + col * 0x600000 + off
/-- R26. -/
def pocketAddr (core off : Nat) : Nat := 0x210000000000 + core * 0x200000 + off

/-- Is `a` an HBM address? -/
def isHbm (a : Nat) : Bool := a < 0xC000000000
/-- Is `a` in the managed aperture? -/
def isManaged (a : Nat) : Bool := 0x80000000000 ≤ a && a < 0xC0000000000
/-- Is `a` in the raw Sump's range? -/
def isSump (a : Nat) : Bool := 0x100000000000 ≤ a && a < 0x120000000000
/-- Is `a` a Gallery address? -/
def isGallery (a : Nat) : Bool := 0x200000000000 ≤ a && a < 0x200240000000
/-- Is `a` a Pocket address? -/
def isPocket (a : Nat) : Bool :=
  0x210000000000 ≤ a && a < 0x2100C0000000 && (a - 0x210000000000) % 0x200000 < 0x180000
/-- Is `a` host memory, and behind which port? -/
def hostPort (a : Nat) : Option Nat :=
  if 0x400000000000 ≤ a && a < 0x800000000000 then some 0
  else if 0x800000000000 ≤ a && a < 0xC00000000000 then some 1 else none

/-- Error page of a physical address: a Gallery die, or 8 + an HBM stack. -/
def errPage (a : Nat) : Option Nat :=
  if isHbm a then some (8 + hbmPc a / 64) else if isGallery a then some (galDie a) else none

/-- Register offset of a GAL or HBM page. -/
def pgReg (pg off : Nat) : Nat := if pg < 8 then 0x5000000 + 0x100000 * pg + off else 0x6000000 + 0x100000 * (pg - 8) + off

/-! ### Error reports (R175) -/

/-- Raise a bit of GAL_ERR or HBM_ERR with the first-error capture. -/
def Dev.memErr (d : Dev) (pg bit src sym kind a : Nat) : Dev :=
  d.raise (pgReg pg 0x10) bit (fun d =>
    let d := (d.wr64 (pgReg pg 0x18) a).wr (pgReg pg 0x20) (BitVec.ofNat 32 (src % 65536 + 65536 * sym + 2 ^ 23 * kind))
    if pg < 8 then d
    else (d.wr (pgReg pg 0x24) (BitVec.ofNat 32 (hbmPc a))).wr (pgReg pg 0x28) (BitVec.ofNat 32 (hbmOff a)))

/-- The Flowstone record of an event of an error page: its snapshot holds ERR_ADDR and ERR_INFO (R175; log 69). -/
def Dev.memFlw (d : Dev) (pg code src : Nat) : Dev :=
  d.flwWith [d.rd (pgReg pg 0x18), d.rd (pgReg pg 0x1C), d.rd (pgReg pg 0x20)] 2 code src (d.rd64 (pgReg pg 0x18))

/-- A correction: CE count, the window's count and, when it reaches CE_THRESH.COUNT, THRESH and one record (R175). -/
def Dev.memCe (d : Dev) (pg src sym a : Nat) : Dev :=
  let d := (d.memErr pg 0 src sym 0 a).addSat (pgReg pg 0x30) 1
  let w := d.rd (pgReg pg 0x44)
  if d.bootState ≠ 5 then d
  else
    let n := sget (fun _ => 0) d.mem.ceCount pg + 1
    let d := { d with mem := { d.mem with ceCount := sset (fun _ => 0) d.mem.ceCount pg n } }
    if n = fld 15 0 w && fld 31 16 w ≠ 0 then
      ((d.memErr pg 4 src sym 0 a).memFlw pg 4 src).ledger (if pg < 8 then 4 else 5) src
        (if pg < 8 then a else hbmPc a + 1024 * hbmOff a) (if pg < 8 then 3 else 1) (d.rd (pgReg pg 0x20))
    else d

/-- An uncorrectable error of a Gallery granule, kept for the fence threshold of Table 13-2. -/
def Dev.ueSeen (d : Dev) (pg a : Nat) : Dev :=
  if pg < 8 then { d with mem := { d.mem with ueAt := sput (a / 64) (some (d.rd rBootOpsec).toNat) d.mem.ueAt } } else d

/-- The ledger record of an uncorrectable error (Tables 13-5 and 13-6). -/
def Dev.ueLedger (d : Dev) (pg src a : Nat) : Dev :=
  (d.ueSeen pg a).ledger (if pg < 8 then 2 else 3) src (if pg < 8 then a else hbmPc a + 1024 * hbmOff a)
    (if pg < 8 then 3 else 1) (d.rd (pgReg pg 0x20))

/-! ### What a granule is found to hold (R165 to R168, R228) -/

/-- The LPDDR5X channel of a raw Sump address (R228). -/
def sumpChan (a : Nat) : Nat := (a - 0x100000000000) / 4096 % 16

/-- A channel that failed since training is detected by the first read of it (Table 13-3). -/
def Dev.sumpDetect (d : Dev) (a : Nat) : Dev := { d with mem := { d.mem with sumpSeen := insNat (sumpChan a) d.mem.sumpSeen } }

/-- What the code of the memory that holds `a` finds in its granule: the data and the damage that counts. Gallery and Pocket have 67
symbols, HBM 35 (R165, R166). Three or more damaged symbols may be detected, taken for one with wrong data, or go undetected
(R168). An on-die correction of HBM is counted and invisible. A Sump granule is lost where its channel has failed, or where
link ECC cannot correct this read (R228). -/
def Dev.found (d : Dev) (a : Nat) : (List Byte × Option Damage) × Dev :=
  let bs := d.mem.bytes a 64
  if isSump a then
    if d.mem.sumpBad.contains (sumpChan a) then ((bs, some .dead), d.sumpDetect a)
    else ((bs, (d.mem.dmg (a / 64)).map (fun _ => Damage.dead)), { d with mem := d.mem.setDmg (a / 64) none })
  else match d.mem.dmg (a / 64) with
    | some .more =>
      let f := d.fresh
      let k := Config.wideRead f.1
      let wrong := (List.range 64).map (Config.wideByte f.1)
      if k % 3 = 0 then ((wrong, none), f.2)
      else if k % 3 = 1 then ((wrong, some (.one (k / 3 % (if isHbm a then 35 else 67)))), f.2)
      else ((bs, some .more), f.2)
    | some .onDie => ((bs, none), match errPage a with
      | some pg => d.addSat (pgReg pg 0x40) 1
      | none => d)
    | x => ((bs, x), d)

/-! ### Granules (R167 to R171) -/

/-- Report a corrected symbol; Pocket and Sump keep no counts (log 69). -/
def Dev.corrected (d : Dev) (src sym a : Nat) : Dev :=
  match errPage a with
  | some pg => d.memCe pg src sym a
  | none => d

/-- Report an uncorrectable read: UE and, for a scrubber, SCRUB_UE with kind 3; the record and the ledger (R167, R172). A Pocket's
read writes the record alone, and one of the Sump none (log 69). -/
def Dev.uncorrectable (d : Dev) (src : Nat) (scrub : Bool) (a : Nat) : Dev :=
  match errPage a with
  | some pg =>
    let kind := if scrub then 3 else 1
    let d := (d.memErr pg 1 src 0x7F kind a).addSat (pgReg pg 0x34) 1
    let d := if scrub then d.memErr pg 3 src 0x7F kind a else d
    (d.memFlw pg kind src).ueLedger pg src a
  | none => if isPocket a then d.flw 2 1 src a else d

/-- Report a read of a granule with poison 1, which a scrubber's read does not count (R167, R172). -/
def Dev.poisonRead (d : Dev) (src : Nat) (scrub : Bool) (a : Nat) : Dev :=
  match errPage a with
  | some pg => if scrub then d else (d.memErr pg 5 src 0x7F 4 a).addSat (pgReg pg 0x3C) 1
  | none => d

/-- Read the granule at physical address `a` (64-byte aligned) under Table 7-3; `scrub` is a scrubber's read (R172). An
uncorrectable read marks the stored granule, but one of the Sump only the data that it returns (R228). -/
def Dev.readGran (d : Dev) (src : Nat) (scrub : Bool) (a : Nat) : (List Byte × Bool) × Dev :=
  let g := a / 64
  if d.mem.isPoison g then ((d.mem.bytes a 64, true), d.poisonRead src scrub a)
  else
    let f := d.found a
    let bs := f.1.1
    let d := f.2
    match f.1.2 with
    | none => ((bs, false), d)
    | some (.one sym) =>
      ((bs, false), ({ d with mem := (d.mem.setBytes a bs).setDmg g none } : Dev).corrected src sym a)
    | some _ =>
      let d := if isSump a then d else { d with mem := (d.mem.setDmg g none).setPoison g true }
      ((bs, true), d.uncorrectable src scrub a)

/-- A partial write found its granule uncorrectable (Table 7-4); Pocket and Sump keep no counts (log 69). -/
def Dev.partPoisoned (d : Dev) (src a : Nat) : Dev :=
  match errPage a with
  | some pg =>
    let d := (d.memErr pg 2 src 0x7F 2 a).addSat (pgReg pg 0x38) 1
    (d.memFlw pg 2 src).ueLedger pg src a
  | none => if isPocket a then d.flw 2 2 src a else d

/-- Perform a read-modify-write of the granule at `a`: `f` merges or adds, `mark` is the poison mark of the incoming data
(Table 7-4). -/
def Dev.rmwGran (d : Dev) (src a : Nat) (f : List Byte → List Byte) (mark : Bool) : Dev :=
  let g := a / 64
  let put (d : Dev) (bs : List Byte) (p : Bool) : Dev :=
    { d with mem := ((d.mem.setBytes a (f bs)).setPoison g p).setDmg g none }
  if d.mem.isPoison g then put d (d.mem.bytes a 64) true
  else
    let x := d.found a
    match x.1.2 with
    | none => put x.2 x.1.1 mark
    | some (.one sym) => (put x.2 x.1.1 mark).corrected src sym a
    | some _ => (put x.2 x.1.1 true).partPoisoned src a

/-- Write `bs`, which lie within one granule from `a` on: a whole granule stores new data and mark (R169), a part of one
is a read-modify-write (R170). -/
def Dev.writeGran (d : Dev) (src a : Nat) (bs : List Byte) (mark : Bool) : Dev :=
  if a % 64 = 0 && bs.length = 64 then
    { d with mem := ((d.mem.setBytes a bs).setPoison (a / 64) mark).setDmg (a / 64) none }
  else d.rmwGran src (a / 64 * 64) (fun old => old.take (a % 64) ++ bs ++ old.drop (a % 64 + bs.length)) mark

/-! ### Ranges -/

/-- The pieces of [a, a + n) cut at multiples of `b`: start and length; `fuel` bounds their number. -/
def cutAt (b : Nat) : Nat → Nat → Nat → List (Nat × Nat)
  | 0, _, _ => []
  | fuel + 1, a, n =>
    if n = 0 then [] else
      let k := min n (b - a % b)
      (a, k) :: cutAt b fuel (a + k) (n - k)

/-- The granule pieces of a range. -/
def granules (a n : Nat) : List (Nat × Nat) := cutAt 64 (n / 64 + 2) a n

/-- The charged size of a request of `b` bytes (Table 7-2, R164). -/
def charged (b : Nat) : Nat :=
  let b := cdiv b 64 * 64
  if b = 0 then 0
  else if b ≤ 192 then 768
  else if b ≤ 256 then 768 + cdiv ((b - 192) * 32) 64
  else if b ≤ 512 then 800 + cdiv ((b - 256) * 53) 256
  else if b ≤ 1024 then 853 + cdiv ((b - 512) * 427) 512
  else if b ≤ 2048 then 1280 + cdiv ((b - 1024) * 768) 1024
  else b

/-- Charge one HBM request of `n` bytes at `a` to the stacks that serve it; a partly written granule adds 768 bytes to its
stack's charge (R164). -/
def Dev.charge (d : Dev) (a n : Nat) (wr : Bool) : Dev :=
  if !isHbm a || n = 0 then d else
    let b := cdiv n 64 * 64
    let c := charged n
    let st (x : Nat) : Nat := hbmPc x / 64
    let share (s : Nat) : Nat :=
      c * (((cutAt 512 (b / 512 + 2) a b).filter (fun e => st e.1 = s)).map (·.2)).sum / b
    let total := ((List.range 12).map share).sum
    let d := d.each (List.range 12) (fun d s => d.add64 (rHbmChargedLo s) (share s))
    let d := d.add64 (rHbmChargedLo (st a)) (c - total)
    if wr then d.each ((granules a n).filter (fun e => e.2 < 64)) (fun d e => d.add64 (rHbmChargedLo (st e.1)) 768) else d

/-- The charge of a 64-byte add request: C(64) and the read-modify-write (R164). -/
def Dev.chargeAdd (d : Dev) (a : Nat) : Dev := if isHbm a then d.add64 (rHbmChargedLo (hbmPc a / 64)) 1536 else d

/-- Count bytes read or written by a requester in the page that holds them (Table 7-5). -/
def Dev.countBytes (d : Dev) (reg a n : Nat) : Dev :=
  match errPage a with
  | some pg => d.add64 (pgReg pg reg) n
  | none => d

/-- Bytes with their poison marks. -/
abbrev Marked := List (Byte × Bool)

/-- An access to a retained bank requests the bank's wake, at priority 7 (R161, R321, R323). -/
def Dev.wakeBank (d : Dev) (a : Nat) : Dev :=
  if isGallery a then
    let o := a - 0x200000000000
    let col := o % 0x48000000 / 0x600000
    let bank := o % 0x48000000 % 0x600000 / 0xC0000
    if d.mem.retained.contains ((galDie a * 192 + col) * 8 + bank) then
      d.requestWake (.bank (Fin.ofNat 8 (galDie a)) (Fin.ofNat 192 col) (Fin.ofNat 8 bank)) 7
    else d
  else d

/-- Read physical bytes [a, a + n) granule by granule. -/
def Dev.readPhys (d : Dev) (src a n : Nat) : Marked × Dev :=
  (granules a n).foldl (fun (acc : Marked × Dev) e =>
    let d := (acc.2.wakeBank e.1).countBytes 0x80 e.1 e.2
    let r := d.readGran src false (e.1 / 64 * 64)
    (acc.1 ++ ((r.1.1.drop (e.1 % 64)).take e.2).map (·, r.1.2), r.2)) ([], d.charge a n false)

/-- A write to a granule that a core has reserved ends the reservation (R89; log 14). -/
def Dev.breakResv (d : Dev) (a n : Nat) : Dev :=
  let hit (s : CoreSt) : Bool := s.resv.any (fun r => r / 64 * 64 < a + n && a < r / 64 * 64 + 64)
  if d.cores.any (fun e => hit e.2) then
    { d with cores := (d.cores.map (fun e => if hit e.2 then (e.1, { e.2 with resv := none }) else e)).filter (·.2 ≠ CoreSt.reset) }
  else d

/-- Write marked bytes from physical address `a` on: each granule's mark is set when any byte written into it is marked. -/
def Dev.writePhys (d : Dev) (src a : Nat) (bs : Marked) : Dev :=
  (granules a bs.length).foldl (fun (d : Dev) e =>
    let part := (bs.drop (e.1 - a)).take e.2
    ((d.wakeBank e.1).countBytes 0x88 e.1 e.2).writeGran src e.1 (part.map (·.1)) (part.any (·.2))) ((d.charge a bs.length true).breakResv a bs.length)

end Sys2Proof.Machine
end

