-- ==== Sys2Proof/Machine/TierOps.lean ====
section
/-! DEFINITION. The Tier managers' moves of managed pages (R211 to R221): frames, page streams, promotion, write-back,
drop, compaction and eviction. -/

namespace Sys2Proof.Machine

/-- A FREE page, generation 0. -/
def PageRec.blank : PageRec :=
  { state := .free, pin := false, gen := 0, dirty := 0, part := 0, frame := 0, ext := 0, sectors := 0, pcode := false,
    lastUse := 0, head := none }

/-- Page `n` of the managed aperture. -/
def Dev.page (d : Dev) (n : Nat) : PageRec := sget (fun _ => PageRec.blank) d.tier.pages n

/-- Set page `n`. -/
def Dev.setPage (d : Dev) (n : Nat) (r : PageRec) : Dev :=
  { d with tier := { d.tier with pages := sset (fun _ => PageRec.blank) d.tier.pages n r } }

/-- Does a page hold a frame? -/
def PageRec.hasFrame (r : PageRec) : Bool := r.state = .t1 || r.state = .both
/-- Does a page hold an extent? -/
def PageRec.hasExt (r : PageRec) : Bool := r.state = .t2 || r.state = .both

/-- The Tier manager's source number for page `n` (R211). -/
def tierSrc (n : Nat) : Nat := srcNo (16 + n % 2) 0x010

/-- The pages allocated to partition `p`. -/
def Dev.pagesOf (d : Dev) (p : Nat) : List (Nat × PageRec) := d.tier.pages.filter (fun e => e.2.state ≠ .free && e.2.part = p)

/-- T1 use of a partition, in frames. -/
def Dev.use1 (d : Dev) (p : Nat) : Nat := ((d.pagesOf p).filter (·.2.hasFrame)).length
/-- T2 use of a partition, in sectors. -/
def Dev.use2 (d : Dev) (p : Nat) : Nat := ((d.pagesOf p).map (fun e => if e.2.hasExt then e.2.sectors else 0)).sum
/-- T0 use of a partition, in 64 KiB units. -/
def Dev.use0 (d : Dev) (p : Nat) : Nat := ((d.tier.t0.filter (·.part = p)).map (·.count)).sum
/-- Pages pinned by a partition. -/
def Dev.pinned (d : Dev) (p : Nat) : Nat := ((d.pagesOf p).filter (·.2.pin)).length

/-- The use page of partition `p` follows the accounts (Table 9-9), and an OVERQ bit clears when use falls back to the quota
(R227). A partition number has three bits. -/
def Dev.tierCount (d : Dev) (p : Nat) : Dev :=
  let w (n : Nat) : Word := BitVec.ofNat 32 n
  let k := p % 8
  let d := d.wr (rSmpPUse0 k) (w (d.use0 p))
  let d := d.wr (rSmpPUse1 k) (w (d.use1 p))
  let d := d.wr (rSmpPUse2 k) (w (d.use2 p))
  let d := d.wr (rSmpPAlloc k) (w (d.pagesOf p).length)
  let d := d.wr (rSmpPPinned k) (w (d.pinned p))
  let s := d.rd (rSmpPStatus k)
  let over0 := bitOf 0 s && decide ((d.rd (rSmpQt0 k)).toNat < d.use0 p)
  let over1 := bitOf 1 s && decide ((d.rd (rSmpQt1 k)).toNat < d.use1 p)
  let over2 := bitOf 2 s && decide ((d.rd (rSmpQt2 k)).toNat * 513 < d.use2 p)
  d.wr (rSmpPStatus k) (setBit 0 over0 (setBit 1 over1 (setBit 2 over2 s)))

/-! ### Extents (R220) -/

/-- Is the raw Sump mapped (R228)? -/
def Dev.sumpMapped (d : Dev) : Bool := bitOf 16 (d.rd rSmpStatus)

/-- The extents of partition `p`: page, address, sectors. -/
def Dev.extents (d : Dev) (p : Nat) : List (Nat × Nat × Nat) :=
  ((d.pagesOf p).filter (·.2.hasExt)).map (fun e => (e.1, e.2.ext, e.2.sectors))

/-- Does [a, a + n sectors) meet an extent of the partition? -/
def Dev.extMeets (d : Dev) (p a n : Nat) : Bool :=
  (d.extents p).any (fun e => a < e.2.1 + e.2.2 * 4096 && e.2.1 < a + n * 4096)

/-- The lowest free run of `n` sectors of the T2 pool. -/
def Dev.findRun (d : Dev) (p n : Nat) : Option Nat :=
  let base := d.rd64 (rSmpT2poolLo p)
  let size := (d.rd (rSmpT2poolSize p)).toNat
  let starts := base :: (d.extents p).map (fun e => e.2.1 + e.2.2 * 4096)
  (starts.filter (fun a => base ≤ a && a + n * 4096 ≤ base + size * 4096 && !d.extMeets p a n)).min?

/-- Compaction of one page (Table 9-3): its extent is copied to `a` and the page points at the copy. -/
def Dev.moveExtent (d : Dev) (n a : Nat) : Dev :=
  let r := d.page n
  if r.hasExt then
    let x := d.readPhys (tierSrc n) r.ext (r.sectors * 4096)
    (x.2.writePhys (tierSrc n) a x.1).setPage n { r with ext := a }
  else d

/-- Insert an extent in order of address. -/
def insExt (e : Nat × Nat × Nat) : List (Nat × Nat × Nat) → List (Nat × Nat × Nat)
  | [] => [e]
  | f :: t => if e.2.1 ≤ f.2.1 then e :: f :: t else f :: insExt e t

/-- Compact the pool of partition `p`: its extents are moved down, in order of address, until no gap is left. -/
def Dev.compactPool (d : Dev) (p : Nat) : Dev :=
  (((d.extents p).foldr insExt []).foldl (fun (acc : Dev × Nat) e =>
    (if e.2.1 = acc.2 then acc.1 else acc.1.moveExtent e.1 acc.2, acc.2 + e.2.2 * 4096)) (d, d.rd64 (rSmpT2poolLo p))).1

/-- Take an extent of `n` sectors: granted only while T2 use plus the new extent stays within min(QT2 × 513, T2 pool); the
pool is compacted when free sectors suffice but are scattered. A channel fault that a read has detected ends new extents
(Table 13-3). -/
def Dev.takeExtent (d : Dev) (p n : Nat) : Option Nat × Dev :=
  let lim := min ((d.rd (rSmpQt2 p)).toNat * 513) (d.rd (rSmpT2poolSize p)).toNat
  if !d.sumpMapped || !d.mem.sumpSeen.isEmpty || d.use2 p + n > lim then (none, d)
  else match d.findRun p n with
    | some a => (some a, d)
    | none => let d := d.compactPool p; (d.findRun p n, d)

/-! ### Page streams (R216, R217) -/

/-- The bytes and marks of chunk `c` of a frame. -/
def Dev.frameChunk (d : Dev) (n c : Nat) : Marked × Dev := d.readPhys (tierSrc n) ((d.page n).frame + c * 65536) 65536

/-- PMASK of a chunk: a bit for each 4 KiB sub-chunk that holds a poisoned granule (R219). -/
def pmask (bs : Marked) : Nat :=
  ((List.range 16).map (fun j => if ((bs.drop (j * 4096)).take 4096).any (·.2) then 2 ^ j else 0)).sum

/-- A chunk's KIND and body (R217). -/
def codeChunk (pcode : Bool) (l : List Byte) : Nat × List Byte :=
  if l.all (· = 0) then (0, [])
  else if pcode then
    let lens := buildLengths (histogram l)
    let body := lensToBytes lens ++ packBits (16 * l.length) (l.flatMap (fun b => symBits lens b.toNat))
    if body.length ≥ 65536 then (1, l) else (2, body)
  else (1, l)

/-- A CODED body's 65,536 bytes, none where it does not yield exactly those. -/
def decodeChunk (body : List Byte) : Option (List Byte) :=
  let lens := bytesToLens (body.take 128)
  match readSyms lens 65536 (unpackBits (body.drop 128)) with
  | some (l, rest) => if rest.length < 8 && rest.all (· = false) then some (l.map (BitVec.ofNat 8)) else none
  | none => none

/-- A chunk entry (Table 9-4). -/
def chunkEntry (kind pm len off : Nat) (crc : Word) : List Byte :=
  leBytes 4 (kind + 65536 * pm) ++ leBytes 4 len ++ leBytes 4 off ++ leBytes 4 crc.toNat

/-- A chunk as it goes into a stream: KIND, PMASK, CRC and body. -/
structure Chunk where
  kind : Nat
  pm : Nat
  crc : Word
  body : List Byte
  deriving DecidableEq, Repr

/-- A stream: the header of 32 entries, then the bodies, padded with zeros to whole sectors. -/
def streamOf (cs : List Chunk) : List Byte :=
  let es := (cs.foldl (fun (acc : List Byte × Nat) c =>
    (acc.1 ++ chunkEntry c.kind c.pm c.body.length acc.2 c.crc, acc.2 + c.body.length))
    ([], 512)).1
  let l := es ++ cs.flatMap (·.body)
  l ++ List.replicate ((4096 - l.length % 4096) % 4096) 0

/-- Does LEN suit KIND (Table 9-4)? -/
def lenSuits (kind len : Nat) : Bool := (kind = 0 && len = 0) || (kind = 1 && len = 65536) || (kind = 2 && len ≤ 65535)

/-- A chunk that fails R218 whenever it is promoted: KIND 3. -/
def Chunk.broken : Chunk := { kind := 3, pm := 0xFFFF, crc := 0, body := [] }

/-- Chunk `c` of an extent as it stands there, its CRC with it (for clean chunks, R215): one that fails R218 fails again
after the copy, and what reads poisoned is marked in its PMASK, since poison never disappears (R219). -/
def Dev.extChunk (d : Dev) (n c : Nat) : Chunk × Dev :=
  let r := d.page n
  let e := d.readPhys (tierSrc n) (r.ext + 16 * c) 16
  let l := e.1.map (·.1)
  let k := leAt l 0 4
  let len := leAt l 4 4
  let off := leAt l 8 4
  if e.1.any (·.2) || !lenSuits (k % 4) len || r.sectors * 4096 < off + len then (Chunk.broken, e.2)
  else
    let b := e.2.readPhys (tierSrc n) (r.ext + off) len
    let bad := if k % 4 = 2 && b.1.any (·.2) then 0xFFFF else pmask b.1
    ({ kind := k % 4, pm := k / 65536 ||| bad, crc := BitVec.ofNat 32 (leAt l 12 4), body := b.1.map (·.1) }, b.2)

/-- Engine 8 + (n mod 2) codes or decodes a chunk of page `n` (R211): its counts (R209). -/
def Dev.chunkCount (d : Dev) (n len : Nat) : Dev :=
  (d.add64 (rTrwInBytesLo (8 + n % 2)) 65536).add64 (rTrwOutBytesLo (8 + n % 2)) len

/-- The chunks of page `n` as its write-back stores them: dirty ones are coded again, clean ones copied. -/
def Dev.pageChunks (d : Dev) (n : Nat) : List Chunk × Dev :=
  let r := d.page n
  (List.range 32).foldl (fun (acc : List Chunk × Dev) c =>
    if r.state = .both && !bitOf c r.dirty then
      let x := acc.2.extChunk n c
      (acc.1 ++ [x.1], x.2)
    else
      let x := acc.2.frameChunk n c
      let k := codeChunk r.pcode (x.1.map (·.1))
      (acc.1 ++ [{ kind := k.1, pm := pmask x.1, crc := if k.1 = 0 then 0 else crc32 k.2, body := k.2 }],
        if k.1 = 2 then x.2.chunkCount n k.2.length else x.2)) ([], d)

/-- Write-back of page `n` (Table 9-3); none when no extent is to be had. -/
def Dev.writeBackPage (d : Dev) (n : Nat) : Option Dev :=
  if !(d.page n).hasFrame then none else
    let cs := d.pageChunks n
    let s := streamOf cs.1
    match cs.2.takeExtent (d.page n).part (s.length / 4096) with
    | (none, _) => none
    | (some a, d) =>
      let d := d.writePhys (tierSrc n) a (s.map (·, false))
      let r := d.page n
      some ((d.setPage n { r with state := .both, dirty := 0, ext := a, sectors := s.length / 4096 }).add64 rSmpWritebackLo 1)

/-- Drop of an unpinned BOTH page with a clear dirty mask: its frame is released. -/
def Dev.dropPage (d : Dev) (n : Nat) : Dev :=
  let r := d.page n
  if !r.pin && r.state = .both && r.dirty = 0 then d.setPage n { r with state := .t2, frame := 0 } else d

/-- Demotion: a write-back if the dirty mask is not clear, then a drop; none when no extent is to be had. -/
def Dev.demotePage (d : Dev) (n : Nat) : Option Dev :=
  let r := d.page n
  if r.pin || !r.hasFrame then none
  else if r.state = .both && r.dirty = 0 then some (d.dropPage n)
  else (d.writeBackPage n).map (·.dropPage n)

/-! ### Frames and eviction (R220) -/

/-- The lowest free frame of the T1 pool. -/
def Dev.freeFrame (d : Dev) (p : Nat) : Option Nat :=
  let base := d.rd64 (rSmpT1poolLo p)
  let used := ((d.pagesOf p).filter (·.2.hasFrame)).map (·.2.frame)
  let starts := base :: used.map (· + 0x200000)
  (starts.filter (fun a => base ≤ a && a < base + (d.rd (rSmpT1poolSize p)).toNat * 0x200000 && !used.contains a)).min?

/-- Insert a page in order of use, the least recently used first. -/
def insUse (e : Nat × PageRec) : List (Nat × PageRec) → List (Nat × PageRec)
  | [] => [e]
  | f :: t => if e.2.lastUse ≤ f.2.lastUse then e :: f :: t else f :: insUse e t

/-- The unpinned pages with a frame among those that `q` picks, the least recently used first. -/
def Dev.lruPages (d : Dev) (p : Nat) (q : PageRec → Bool) : List Nat :=
  (((d.pagesOf p).filter (fun e => !e.2.pin && e.2.hasFrame && q e.2)).foldr insUse []).map (·.1)

/-- A page is clean in BOTH. -/
def PageRec.clean (r : PageRec) : Bool := r.state = .both && r.dirty = 0

/-- Evict the least recently used page of the partition: clean BOTH pages first, and only if there are none a dirty page, the
least recently used of those that an extent can be had for (R220, R221). -/
def Dev.evict (d : Dev) (p : Nat) : Option Dev :=
  (d.lruPages p PageRec.clean ++ d.lruPages p (fun r => !r.clean)).findSome? d.demotePage

/-- Evict pages until the partition's T1 use is below `lim` or no page can be evicted; `fuel` bounds the evictions. -/
def Dev.evictBelow (d : Dev) (p lim : Nat) : Nat → Dev
  | 0 => d
  | fuel + 1 =>
    if d.use1 p < lim then d
    else match d.evict p with
      | some d => d.evictBelow p lim fuel
      | none => d

/-- Take a frame for the partition, evicting when its T1 use is at min(QT1, T1 pool); none when no frame is to be had. -/
def Dev.takeFrame (d : Dev) (p : Nat) : Option Nat × Dev :=
  let lim := min (d.rd (rSmpQt1 p)).toNat (d.rd (rSmpT1poolSize p)).toNat
  let d := if lim = 0 then d else d.evictBelow p lim (d.use1 p + 1)
  if d.use1 p < lim then (d.freeFrame p, d) else (none, d)

/-! ### Promotion (R214, R218, R219) -/

/-- First-error capture of SMP_ERR (R218, R221, R224). -/
def Dev.smpRaise (d : Dev) (bit src chunk code a : Nat) : Dev :=
  d.raise rSmpErr bit (fun d =>
    (d.wr64 rSmpErrAddrLo a).wr rSmpErrInfo (BitVec.ofNat 32 (src % 65536 + 65536 * chunk + 2 ^ 21 * code)))

/-- An error of the Tier manager with its record (R218, R221). -/
def Dev.smpErr (d : Dev) (bit src chunk code a arg : Nat) : Dev := (d.smpRaise bit src chunk code a).flw 2 bit src arg

/-- Decode chunk `c` of page `n`'s stream into the frame at `f`: on a failed check every granule is written poisoned, and
a sub-chunk that PMASK marks, and what comes from body bytes that read poisoned, is written poisoned. -/
def Dev.promoteChunk (d : Dev) (n f c : Nat) : Dev :=
  let r := d.page n
  let e := d.readPhys (tierSrc n) (r.ext + 16 * c) 16
  let l := e.1.map (·.1)
  let kind := leAt l 0 4 % 4
  let pm := leAt l 0 4 / 65536
  let len := leAt l 4 4
  let off := leAt l 8 4
  let fits := off + len ≤ r.sectors * 4096
  let b := if fits then e.2.readPhys (tierSrc n) (r.ext + off) len else ([], e.2)
  let body := b.1.map (·.1)
  let crcOk := BitVec.ofNat 32 (leAt l 12 4) = if kind = 0 then 0 else crc32 body
  let out : Option Marked :=
    if kind = 0 then some (List.replicate 65536 (0, false)) else if kind = 1 then some b.1
    else (decodeChunk body).map (fun l => l.map (·, b.1.any (·.2)))
  let d := b.2
  let a := f + c * 65536
  match out, lenSuits kind len && fits && crcOk && !e.1.any (·.2) with
  | some bs, true =>
    let d := if kind = 2 then d.chunkCount n len else d
    d.writePhys (tierSrc n) a (bs.zipIdx.map (fun x => (x.1.1, x.1.2 || pm.testBit (x.2 / 4096))))
  | _, _ =>
    let va := 0x80000000000 + n * 0x200000 + c * 65536
    let d := d.writePhys (tierSrc n) a ((d.mem.bytes a 65536).map (·, true))
    ((d.smpErr 3 (tierSrc n) c 0 va va).addSat rSmpDamageCount 1).ledger 6 (tierSrc n) va 0 0

/-- Mark page `n` as used last. -/
def Dev.touchPage (d : Dev) (n : Nat) : Dev :=
  let d := d.setPage n { d.page n with lastUse := d.tier.clock + 1 }
  { d with tier := { d.tier with clock := d.tier.clock + 1 } }

/-- Promotion of page `n`: T2 → BOTH with the dirty mask clear, as the page used last; false when no frame is to be had. -/
def Dev.promotePage (d : Dev) (n : Nat) : Bool × Dev :=
  let r := d.page n
  if r.state ≠ .t2 then (r.hasFrame, d)
  else match d.takeFrame r.part with
    | (none, d) => (false, d.tierCount r.part)
    | (some f, d) =>
      let d := d.each (List.range 32) (fun d c => d.promoteChunk n f c)
      let r := d.page n
      (true, (((d.setPage n { r with state := .both, dirty := 0, frame := f }).touchPage n).add64 rSmpPromoteLo 1).tierCount r.part)

/-! ### Accesses (R214) -/

/-- Where an access to managed address `a` lands: some 0 stands for a ZERO page's read; none when the page is FREE or no
frame is to be had (`starved`). A write sets the dirty bit of the chunk it touches. -/
def Dev.managedTarget (d : Dev) (a : Nat) (wr : Bool) : (Option (Option Nat) × Bool) × Dev :=
  let n := (a - 0x80000000000) / 0x200000
  let o := a % 0x200000
  let r := d.page n
  let land (d : Dev) : (Option (Option Nat) × Bool) × Dev :=
    let d := d.touchPage n
    let r := d.page n
    let d := if wr then d.setPage n { r with dirty := setBit (o / 65536) true r.dirty } else d
    ((some (some (r.frame + o)), false), d)
  match r.state with
  | .free => ((none, false), d)
  | .t1 => land d
  | .both => land d
  | .zero =>
    if !wr then ((some none, false), d)
    else match d.takeFrame r.part with
      | (none, d) => ((none, true), d.tierCount r.part)
      | (some f, d) =>
        let d := d.writePhys (tierSrc n) f (List.replicate 0x200000 (0, false))
        let d := d.setPage n { d.page n with state := .t1, frame := f, dirty := 0 }
        land (d.tierCount r.part)
  | .t2 =>
    match d.promotePage n with
    | (false, d) => ((none, true), d)
    | (true, d) => land (d.add64 (rSmpPFaultsLo (r.part % 8)) 1)

end Sys2Proof.Machine
end

