-- ==== Sys2Proof/Machine/Access.lean ====
section
/-! DEFINITION. Accesses by device address (R20, R21, R25, R28, R33 to R36): windows, where an access lands, host memory
behind a port, and reads of structures that must be whole and clean (R395). -/

namespace Sys2Proof.Machine

/-- Who makes an access: the partition whose windows bound it (none: no windows, R22, R367) and the source number. -/
structure Acc where
  part : Option Nat
  src : Nat
  deriving DecidableEq, Repr

/-- The access of a command in flight, by a unit with source number `src`. -/
def Inflight.acc (x : Inflight) (src : Nat) : Acc := ⟨some x.part, src⟩

/-- The access that an origin makes by itself. -/
def Dev.accOf (d : Dev) (o : Origin) : Acc := ⟨d.partOf o, srcOf o⟩

/-! ### Host memory (R34 to R36) -/

/-- The host address behind a port (R34), as a key of the host tables. -/
def Dev.hostKey (d : Dev) (p a : Nat) : Nat := p * 2 ^ 64 + d.rdFld (rPciHostwin p) 17 0 * 2 ^ 46 + a % 2 ^ 46

/-- Is a port's link up (Table 1-14)? -/
def Dev.linkUp (d : Dev) (p : Nat) : Bool := bitOf 9 (d.rd (rPciStatus p))

/-- Raise a bit of PCI_ERR with its capture. -/
def Dev.pciErr (d : Dev) (p bit a : Nat) : Dev := d.raise (rPciErr p) bit (fun d => d.wr64 (rPciErrAddrLo p) a)

/-- Read `n` bytes of host memory through port `p`: poisoned while the link is down, and where the read times out. -/
def Dev.readHost (d : Dev) (p a n : Nat) : Marked × Dev :=
  if !d.linkUp p then (List.replicate n (0, true), d)
  else
    let k := d.hostKey p a
    let ep := (rangeFrom k n).any (fun j => d.host.poison.contains (j / 64))
    let bs := (rangeFrom k n).map (fun j =>
      (sget memDefault d.host.cells j, d.host.poison.contains (j / 64) || d.host.timeouts.contains (j / 64)))
    let d := { d with host := { d.host with
      timeouts := d.host.timeouts.filter (fun g => !(k < g * 64 + 64 && g * 64 < k + n)) } }
    (bs, if ep then d.pciErr p 0 a else d)

/-- Write host memory through port `p`: discarded and counted while the link is down; poisoned data is sent with EP. -/
def Dev.writeHost (d : Dev) (p a : Nat) (bs : Marked) : Dev :=
  if !d.linkUp p then (d.addSat (rPciDropCount p) 1).pciErr p 2 a
  else
    let k := d.hostKey p a
    let cells := (bs.zipIdx).foldl (fun c e => sset memDefault c (k + e.2) e.1.1) d.host.cells
    let poison := (granules k bs.length).foldl (fun l e =>
      let part := (bs.drop (e.1 - k)).take e.2
      if part.any (·.2) then insNat (e.1 / 64) l else if e.2 = 64 then delNat (e.1 / 64) l else l) d.host.poison
    let d := { d with host := { d.host with cells := cells, poison := poison } }
    if bs.any (·.2) then d.pciErr p 0 a else d

/-! ### Windows (R20, R21, R24) -/

/-- Is `a` within a window register's [BASE, BASE + SIZE) GiB from `org`? -/
def inGib (w : Word) (org a : Nat) : Bool :=
  org + fld 15 0 w * 2 ^ 30 ≤ a && a < org + (fld 15 0 w + fld 31 16 w) * 2 ^ 30

/-- The fitted size of the raw Sump in bytes (R228, Table 9-9). -/
def Dev.sumpSize (d : Dev) : Nat :=
  match d.rdFld rSmpStatus 18 17 with
  | 1 => 16 * 32 * 2 ^ 30 | 2 => 16 * 64 * 2 ^ 30 | 3 => 16 * 128 * 2 ^ 30 | _ => 0

/-- Does Table 1-8 map `a`? The raw Sump is unmapped beyond the fitted size, and whole where a channel failed. -/
def Dev.mapped (d : Dev) (a : Nat) : Bool :=
  isHbm a || isManaged a || isGallery a || isPocket a || (hostPort a).isSome
    || (isSump a && d.sumpMapped && a - 0x100000000000 < d.sumpSize)
    || (0x3F0000000000 ≤ a && (a - 0x3F0000000000 < 0x17000000 ||
        (0x80000000 ≤ a - 0x3F0000000000 && a - 0x3F0000000000 < 0x97000000)))

/-- Does memory address `a` lie within the windows of partition `p` (R20)? -/
def Dev.inWindow (d : Dev) (p a : Nat) : Bool :=
  if isHbm a then inGib (d.rd (rTopPHbmwin p)) 0 a
  else if isManaged a then inGib (d.rd (rTopPMgdwin p)) 0x80000000000 a
  else if isSump a then inGib (d.rd (rTopPSumpwin p)) 0x100000000000 a
  else if isGallery a then d.partOfDie (galDie a) = p
  else if isPocket a then d.partOfDie ((a - 0x210000000000) / 0x200000 / 192) = p
  else (hostPort a).isSome

/-- The partition whose page register offset `off` lies in (R28), none for pages of no partition; a shadow lies with its
counter (R355). -/
def Dev.regPart (d : Dev) (off : Nat) : Option Nat :=
  let o := off % 0x80000000
  let die (n : Nat) : Option Nat := some (d.partOfDie n)
  if 0x800000 ≤ o && o < 0x808000 then some ((o - 0x800000) / 0x1000)
  else if 0x1400000 ≤ o && o < 0x1800000 then some (d.qPart ((o - 0x1400000) / 0x40))
  else if 0x1800000 ≤ o && o < 0x1A00000 then d.cntPart ((o - 0x1800000) / 8)
  else if 0x2040000 ≤ o && o < 0x2060000 then die (((o - 0x2000000) / 0x1000 - 64) / 4)
  else if 0x2800000 ≤ o && o < 0x2808000 then some ((o - 0x2800000) / 0x1000)
  else if 0x3000000 ≤ o && o < 0x4000000 then
    let s := (o - 0x3000000) % 0x800000
    if 0x100000 ≤ s && s < 0x200000 then
      let b := rTsqLState ((o - 0x3000000) / 0x800000) ((s - 0x100000) / 0x1000)
      if d.rdFld b 1 0 = 0 then none else some (d.rdFld (b + 4) 19 16)
    else none
  else if 0x4000000 ≤ o && o < 0x4600000 then die ((o - 0x4000000) / 0x1000 / 192)
  else if 0x4600000 ≤ o && o < 0x4608000 then die ((o - 0x4600000) / 0x1000)
  else if 0x5000000 ≤ o && o < 0x5800000 then die ((o - 0x5000000) / 0x100000)
  else if 0x7800000 ≤ o && o < 0x7808000 then some ((o - 0x7800000) / 0x1000)
  else if 0x8000000 ≤ o && o < 0x8800000 then die ((o - 0x8000000) / 0x100000)
  else if 0x8C00000 ≤ o && o < 0x8C08000 then some ((o - 0x8C00000) / 0x1000)
  else if 0x9400000 ≤ o && o < 0x9480000 then some ((o - 0x9400000) / 0x10000)
  else if 0x9800000 ≤ o && o < 0x9808000 then some ((o - 0x9800000) / 0x1000)
  else if 0xC800000 ≤ o && o < 0xC880000 then some ((o - 0xC800000) / 0x10000)
  else if 0x12000000 ≤ o && o < 0x12010000 then some (d.rdFld (rMbxOwn ((o - 0x12000000) / 0x400)) 3 0)
  else none

/-! ### Where a request lands -/

/-- What a request meets. -/
inductive Target
  | mem (a : Nat)               -- physical memory
  | zeros                       -- a read of a ZERO page
  | host (port : Nat)
  | refused
  deriving DecidableEq, Repr

/-- Is an access by `acc` within what it may reach: windows for memory, R28 for register pages? A fenced die's Gallery and
cores, and an ABSENT core's Pocket, are reached by nobody (R24, R120). -/
def Dev.reaches (d : Dev) (acc : Acc) (wr : Bool) (a : Nat) : Bool :=
  d.mapped a
    && (if isGallery a then !d.fenced (galDie a)
        else if isPocket a then
          let c := (a - 0x210000000000) / 0x200000
          !d.fenced (c / 192) && !(d.bootState = 5 && d.coreState c = 0)
        else true)
    && (match acc.part with
        | none => true
        | some p =>
          if 0x3F0000000000 ≤ a && a < 0x400000000000 then
            d.regPart (a - 0x3F0000000000) = some p || (wr && d.debugOpen)
          else d.inWindow p a)

/-- The access of `src` to managed page `n` found no frame: it waits, and the command that makes it is put off (R221). -/
def Dev.stallAt (d : Dev) (src n : Nat) : Dev :=
  if d.tier.stall.isSome then d else { d with tier := { d.tier with stall := some (src, n) } }

/-- Has the stall limit of that access passed, so that it is refused (R221)? -/
def Dev.stalledOut (d : Dev) (src n : Nat) : Bool := d.tier.waits.any (fun w => w.src = src && w.page = n && w.refused)

/-- The access of `src` to page `n` waits no longer. -/
def Dev.endWait (d : Dev) (src n : Nat) : Dev :=
  if d.tier.waits.any (fun w => w.src = src && w.page = n) then
    { d with tier := { d.tier with waits := d.tier.waits.filter (fun w => !(w.src = src && w.page = n)) } }
  else d

/-- Resolve one memory request from `a` on, within a 4 KiB block. Memory requests reach no register: a register is accessed by
the widths of Table 17-2 (log 70). -/
def Dev.resolve (d : Dev) (acc : Acc) (wr : Bool) (a : Nat) : Target × Dev :=
  let no (d : Dev) : Target × Dev :=
    match acc.part with
    | some p => (.refused, d.refuse p acc.src a)
    | none => (.refused, d)
  if (regOff a).isSome || !d.reaches acc wr a then
    match acc.part, regOff a with
    | some p, some _ => (.refused, (d.epFlag p 0).accessErr 7 acc.src 0 a)
    | _, _ => no d
  else if isManaged a then
    let n := (a - 0x80000000000) / 0x200000
    if d.stalledOut acc.src n then (.refused, d.endWait acc.src n)
    else match d.managedTarget a wr with
      | ((some (some m), _), d) => (.mem m, d.endWait acc.src n)
      | ((some none, _), d) => (.zeros, d.endWait acc.src n)
      | ((none, false), d) => no (d.endWait acc.src n)
      | ((none, true), d) => (.refused, d.stallAt acc.src n)
  else match hostPort a with
    | some p => (.host p, d)
    | none => (.mem a, d)

/-- The data of a read, the first poisoned or refused address, whether any part was refused, and whether any read as poison
where it stands. -/
structure Rd where
  data : Marked
  bad : Option Nat
  refused : Bool
  poison : Bool
  deriving DecidableEq, Repr

/-- The bytes alone. -/
def Rd.bytes (r : Rd) : List Byte := r.data.map (·.1)

/-- Keep the first of two addresses. -/
def first (a b : Option Nat) : Option Nat := match a with
  | some x => some x
  | none => b

/-- Read `n` bytes at device address `a` in requests cut at multiples of `req`. -/
def Dev.readReq (d : Dev) (acc : Acc) (req a n : Nat) : Rd × Dev :=
  (cutAt req (n / req + 2) a n).foldl (fun (r : Rd × Dev) e =>
    let bad (d : Dev) : Rd × Dev :=
      (⟨r.1.data ++ List.replicate e.2 (0, true), first r.1.bad (some e.1), true, r.1.poison⟩, d)
    match r.2.resolve acc false e.1 with
    | (.refused, d) => bad d
    | (.zeros, d) => (⟨r.1.data ++ List.replicate e.2 (0, false), r.1.bad, r.1.refused, r.1.poison⟩, d)
    | (.mem m, d) =>
      let x := d.readPhys acc.src m e.2
      (⟨r.1.data ++ x.1, first r.1.bad ((x.1.findIdx? (·.2)).map (e.1 + ·)), r.1.refused,
        r.1.poison || x.1.any (·.2)⟩, x.2)
    | (.host p, d) =>
      let x := d.readHost p e.1 e.2
      (⟨r.1.data ++ x.1, first r.1.bad ((x.1.findIdx? (·.2)).map (e.1 + ·)), r.1.refused,
        r.1.poison || x.1.any (·.2)⟩, x.2)) (⟨[], none, false, false⟩, d)

/-- Write marked bytes at device address `a`; answers the first refused address. -/
def Dev.writeReq (d : Dev) (acc : Acc) (req a : Nat) (bs : Marked) : Option Nat × Dev :=
  (cutAt req (bs.length / req + 2) a bs.length).foldl (fun (r : Option Nat × Dev) e =>
    let part := (bs.drop (e.1 - a)).take e.2
    match r.2.resolve acc true e.1 with
    | (.refused, d) => (first r.1 (some e.1), d)
    | (.zeros, d) => (r.1, d)
    | (.mem m, d) => (r.1, d.writePhys acc.src m part)
    | (.host p, d) => (if d.linkUp p then r.1 else first r.1 (some e.1), d.writeHost p e.1 part)) (none, d)

/-- Memory read: requests of up to 4,096 bytes (R164). -/
def Dev.readMem (d : Dev) (acc : Acc) (a n : Nat) : Rd × Dev := d.readReq acc 4096 a n

/-- Memory write. -/
def Dev.writeMem (d : Dev) (acc : Acc) (a : Nat) (bs : Marked) : Option Nat × Dev := d.writeReq acc 4096 a bs

/-- One read after another. -/
def Rd.join (r x : Rd) : Rd := ⟨r.data ++ x.data, first r.bad x.bad, r.refused || x.refused, r.poison || x.poison⟩

/-- An access to a region where its rule does not have the data follows R21 too. -/
def Dev.refuseAt (d : Dev) (acc : Acc) (a : Nat) : Dev :=
  match acc.part with
  | some p => d.refuse p acc.src a
  | none => d

/-- Read, in requests of at most `req` bytes, data that its rule has in the regions that `ok` picks; a region ends at a
multiple of 4 KiB. -/
def Dev.readReqIn (d : Dev) (ok : Nat → Bool) (acc : Acc) (req a n : Nat) : Rd × Dev :=
  (cutAt req (n / req + 2) a n).foldl (fun (r : Rd × Dev) e =>
    let x := if ok e.1 then r.2.readReq acc req e.1 e.2
      else (⟨List.replicate e.2 (0, true), some e.1, true, false⟩, r.2.refuseAt acc e.1)
    (r.1.join x.1, x.2)) (⟨[], none, false, false⟩, d)

/-- Memory read of data that its rule has in the regions that `ok` picks. -/
def Dev.readMemIn (d : Dev) (ok : Nat → Bool) (acc : Acc) (a n : Nat) : Rd × Dev := d.readReqIn ok acc 4096 a n

/-- Memory write of data that its rule has in the regions that `ok` picks. -/
def Dev.writeMemIn (d : Dev) (ok : Nat → Bool) (acc : Acc) (a : Nat) (bs : Marked) : Option Nat × Dev :=
  (cutAt 4096 (bs.length / 4096 + 2) a bs.length).foldl (fun (r : Option Nat × Dev) e =>
    let x := if ok e.1 then r.2.writeMem acc e.1 ((bs.drop (e.1 - a)).take e.2) else (some e.1, r.2.refuseAt acc e.1)
    (first r.1 x.1, x.2)) (none, d)

/-- HBM or the managed aperture. -/
def inHbmManaged (a : Nat) : Bool := isHbm a || isManaged a
/-- HBM or Gallery. -/
def inHbmGal (a : Nat) : Bool := isHbm a || isGallery a

/-- Clean bytes. -/
def clean (l : List Byte) : Marked := l.map (·, false)

/-- Read a structure of `n` bytes aligned to `al` that must be readable whole and clean (R395). -/
def Dev.readStruct (d : Dev) (acc : Acc) (al a n : Nat) : Option (List Byte) × Dev :=
  if a % al ≠ 0 then (none, d)
  else
    let r := d.readMem acc a n
    (if r.1.bad.isSome then none else some r.1.bytes, r.2)

end Sys2Proof.Machine
end

