-- ==== Sys2Proof/Machine/QueueOps.lean ====
section
/-! DEFINITION. What the queue managers do (10): doorbells, ring fetches, dispatch with its checks, sync counters, completion
records, MSI-X messages, and the control of a queue. -/

namespace Sys2Proof.Machine

/-- The queue manager's source number for queue `q` (R230). -/
def qmSrc (q : Nat) : Nat := srcNo (16 + q % 2) 0x000

/-- Slots of the ring of queue `q`. -/
def Dev.ringSize (d : Dev) (q : Nat) : Nat := 2 ^ d.rdFld (rQmgQCfg q) 5 1

/-- Flag an error of QMG_ERR with its capture. -/
def Dev.qmErr (d : Dev) (bit q seq : Nat) : Dev :=
  d.raise rQmgErr bit (fun d => (d.wr rQmgErrQ (BitVec.ofNat 32 q)).wr rQmgErrSeq (BitVec.ofNat 32 seq))

/-- Flag an error of QMG_Q_ERR. -/
def Dev.qErr (d : Dev) (q bit : Nat) : Dev := d.wr (rQmgQErr q) (setBit bit true (d.rd (rQmgQErr q)))

/-- Set QMG_Q_STATUS.STATE: 0 DISABLED, 1 RUNNING, 2 STOPPED, 3 HALTED. -/
def Dev.qState (d : Dev) (q v : Nat) : Dev := d.wrFld (rQmgQStatus q) 1 0 v

/-- Is a clear of EN pending (R244)? -/
def Dev.closing (d : Dev) (q : Nat) : Bool := bitOf 4 (d.rd (rQmgQStatus q))

/-! ### Doorbells and fetches (R231, R232) -/

/-- A doorbell of value `v` on queue `q`. -/
def Dev.doorbell (d : Dev) (q : Nat) (v : Word) : Dev :=
  let tail := d.rd (rQmgQTail q)
  if !bitOf 0 (d.rd (rQmgQCfg q)) || d.closing q || !reached32 v tail
      || decide (d.ringSize q < (v - d.rd (rQmgQRetire q)).toNat) then
    -- discarded (R231); an error that names no command leaves QMG_ERR_SEQ 0 (log 25)
    ((d.qErr q 0).qmErr 0 q 0).flw 3 0 (qmSrc q) 0
  else d.wr (rQmgQTail q) v

/-- The queue becomes HALTED because its fetch was refused or read poison (R232); FAIL is set (R258). Nothing from those slots is
dispatched, and they are not fetched again, until a FLUSH completes them. -/
def Dev.haltFetch (d : Dev) (q a : Nat) : Dev :=
  let d := (((d.qErr q 1).qmErr 1 q 0).qState q 3).flw 3 1 (qmSrc q) a |>.epFlag (d.qPart q) 1
  { d with queue := { d.queue with stuck := insNat q d.queue.stuck } }

/-- Fetch the slots that TAIL covers and that are not yet fetched; on a refused or poisoned fetch nothing from those slots
is dispatched. -/
def Dev.ringFetch (d : Dev) (q : Nat) : Dev :=
  if !d.running q || d.queue.stuck.contains q then d
  else
    let h := d.rd (rQmgQHead q)
    let n := (d.rd (rQmgQTail q) - h).toNat
    let have_ := (d.queue.fetched.filter (·.q = q)).length
    let cnts := (rangeFrom have_ (n - have_)).map (fun k => h + BitVec.ofNat 32 k)
    let acc : Acc := ⟨some (d.qPart q), qmSrc q⟩
    let r := cnts.foldl (fun (r : List Fetched × Option Nat × Dev) c =>
      let x := r.2.2.readMem acc (d.rd64 (rQmgQBaseLo q) + c.toNat % d.ringSize q * 64) 64
      (r.1 ++ [⟨q, c, x.1.bytes⟩], first r.2.1 x.1.bad, x.2)) ([], none, d)
    match r.2.1 with
    | some a => r.2.2.haltFetch q a
    | none => { r.2.2 with queue := { r.2.2.queue with fetched := r.2.2.queue.fetched ++ r.1 } }

/-! ### Checks of a command (R239, R240, R245) -/

/-- The operand bytes that Table 10-4 uses for a class and operation, one mask of bytes for each operand; none for an
invalid class or operation. -/
def usedBytes (cls op : Nat) : Option (List Nat) :=
  match cls with
  | 0 => if op = 0 then some [0xFF, 0xFF, 0xFF, 0xFF, 0x01] else none
  | 1 => match op with
    | 0 => some [0xFF, 0xFF, 0x07, 0xFF, 0xFF]
    | 1 => some [0x00, 0xFF, 0x0F, 0x00, 0xFF]
    | 2 => some [0x07, 0xFF, 0xFF, 0x0F, 0xFF]
    | 8 => some [0x03, 0x0F, 0xFF, 0x00, 0x00]
    | 9 => some [0xFF, 0x0F, 0x01, 0x00, 0x00]
    | 10 => some [0x03, 0x0F, 0x00, 0x00, 0x00]
    | 11 => some [0x03, 0x00, 0x00, 0x00, 0x00]
    | _ => none
  | 2 => if op ≤ 4 then some [0xFF, 0x00, 0x00, 0x00, 0x00] else none
  | 3 => if op ≤ 4 then some [0xF3, 0xFF, 0xFF, 0xFF, 0x1F] else none
  | 4 => if op = 0 then some [0xFF, 0x01, 0xFF, 0x00, 0x00] else none
  | 5 => if op = 0 then some [0xFF, 0x01, 0xFF, 0x00, 0x00] else none
  | 6 => if op = 0 then some [0xF1, 0xFF, 0xFF, 0x00, 0x00]
    else if op ≤ 7 then some [0xFF, 0xFF, 0xFF, 0x00, 0x00]
    else if op = 8 then some [0x00, 0x00, 0xFF, 0xFF, 0x00] else none
  | 7 => if op ≤ 6 then some [0x03, 0xFF, 0xFF, 0x00, 0x00] else none
  | 8 => if op = 0 then some [0, 0, 0, 0, 0] else none
  | 9 => if op = 0 then some [0, 0, 0, 0, 0] else none
  | 10 => if op ≤ 2 then some [0x0F, 0xFF, 0x00, 0x00, 0x00] else none
  | 11 => if op = 0 then some [0xFF, 0, 0, 0, 0] else none
  | 12 => if op = 0 then some [0xFF, 0xFF, 0x01, 0x00, 0x00] else none
  | _ => none

/-- Do PERM fields form a permutation of 0 to 5 (R98)? -/
def permOk (xf : Nat) : Bool :=
  (List.range 6).all (fun v => (List.range 6).any (fun k => nfld (3 * k + 2) (3 * k) xf = v))

/-- Does R239 or R240 refuse the command with BAD_CMD? A FILL's pattern is judged when its destination is read. -/
def Dev.badCmd (d : Dev) (p : Nat) (slot ext : List Byte) : Bool :=
  let ctrl := leAt slot 0 4
  let cls := ctrl % 16
  let op := ctrl / 16 % 16
  let opd (k : Nat) := leAt slot (0x18 + 8 * k) 8
  match usedBytes cls op with
  | none => true
  | some ms =>
    decide (4096 ≤ ctrl)
      || (ms.zipIdx).any (fun m => (List.range 8).any (fun b => !m.1.testBit b && (slot.getD (0x18 + 8 * m.2 + b) 0) ≠ 0))
      || (ext.drop 0x20).any (· ≠ 0)
      || (cls = 1 && op ≤ 2 && ((96 ≤ opd 4 && opd 4 ≤ 126) || decide (127 < opd 4)))
      || (cls = 12 && opd 0 % 64 ≠ 0)
      || (cls = 1 && op = 0 && (opd 2).testBit 18 && !permOk (opd 2))
      || (cls = 0 && (List.range 8).any (fun n => (opd 4).testBit n && !(d.diesOf p).contains n))
      || (cls = 10 && (match op with
        | 0 => !(opd 0 % 2 ^ 32 = 1 || opd 0 % 2 ^ 32 = 2)
        | 1 => decide (1 < opd 0 % 2 ^ 32)
        | _ => decide (7 < opd 0 % 2 ^ 32)))

/-- Is any wait met on a faulted counter that the command does not ignore (R238)? -/
def Dev.depFault (d : Dev) (slot ext : List Byte) : Bool :=
  (waitsOf slot ext).any (fun w => !w.kind && !w.ignf && bitOf 0 (d.rd (rQmgCntAdd w.cnt)))

/-! ### Dispatch (R233, R234) -/

/-- Can the head command of queue `q` be dispatched? -/
def Dev.ready (d : Dev) (q : Nat) : Bool :=
  match d.head? q with
  | none => false
  | some (s, e) =>
    d.running q && !d.closing q && !d.modeHold (d.qPart q) && !d.headWaits q s e

/-- Is queue `q` the one its queue manager takes: the highest priority, and round robin among equals (R234)? -/
def Dev.turn (d : Dev) (q : Nat) : Bool :=
  let last := sget (fun _ => 65535) d.queue.rrLast (q % 2)
  let dist (x : Nat) : Nat := (x + 65536 - last - 1) % 65536
  let prio (x : Nat) : Nat := d.rdFld (rQmgQCfg x) 8 6
  ((d.queue.fetched.map (·.q)).filter (fun x => x % 2 = q % 2 && d.ready x)).all (fun x =>
    prio x < prio q || (prio x = prio q && dist q ≤ dist x))

/-- COL_EP_LEAD of partition `p` in nanoseconds (Table 11-5). -/
def Dev.epochLead (d : Dev) (p : Nat) : Nat := max 2 (d.rdFld (rColEpLead p) 19 0) * 1000

/-- Engine of a DMA transfer: ENG, or with 127 the engine of the queue's hub that holds the fewest commands (R247). -/
def Dev.pickEngine (d : Dev) (q eng : Nat) : Nat :=
  if eng ≠ 127 then eng
  else
    let held (e : Nat) : Nat := (d.queue.infl.filter (fun x => x.eng = e && x.held && x.phase ≠ .ended)).length
    (bestBy (fun e => 5 - held e) (rangeFrom (q % 2 * 32) 32)).getD (q % 2 * 32)

/-- Does ENG name an engine that the partition may not use: another partition's die, or a fenced die (Table 10-6)? -/
def Dev.badEngine (d : Dev) (p eng : Nat) : Bool :=
  64 ≤ eng && eng < 96 && (d.partOfDie ((eng - 64) / 4) ≠ p || d.fenced ((eng - 64) / 4))

/-- The command at HEAD as it is dispatched, with its modes sampled (R79, R245). -/
def Dev.sample (d : Dev) (q : Nat) (s e : List Byte) : Inflight :=
  let p := d.qPart q
  let eng := if leAt s 0 1 % 16 = 1 && leAt s 0 1 / 16 ≤ 2 then d.pickEngine q (leAt s 0x38 8) else 127
  { q := q, i := d.rd (rQmgQHead q), slot := s, ext := e, part := p,
    seed := BitVec.ofNat 64 (d.rd64 (rTopSeedLo p)), rnd := sget (fun _ => 1) d.queue.rnd p,
    epoch := d.rd (rColEpoch p), tblsrc := bitOf 1 (d.rd (rTrwPctl p)), ts := d.now, eng := eng, heldAt := 0,
    phase := .dispatched, res := Result.fresh, lastout := false, copied := none, descs := [], ord := d.queue.nextOrd }

/-- A result that ends a command ABORTED. -/
def aborted (cause src : Nat) : Result := { Result.fresh with status := .aborted, cause := cause, src := src }

/-- Dispatch the command at HEAD of queue `q`. FOREIGN comes first (R233), then a faulted wait (R238), then the checks of
R239, R240 and R245, then the engine (log 26). -/
def Dev.dispatch (d : Dev) (q : Nat) : Dev :=
  match d.head? q with
  | none => d
  | some (s, e) =>
    if !(d.ready q && d.turn q) then d
    else
      let x := d.sample q s e
      let p := x.part
      let h := d.rd (rQmgQHead q)
      let n := BitVec.ofNat 32 x.slots
      let foreign := d.foreign p s e
      let dep := d.depFault s e
      let bad := d.badCmd p s e
      let denied := x.cls = 10 && x.op = 2 && !bitOf 22 (d.rd (rQmgQCfg q))
      let eng := x.cls = 1 && x.op ≤ 2 && (d.badEngine p x.eng || (x.op = 2 && 64 ≤ x.eng && x.eng < 96))
      let old := d.queue.infl.filter (fun (y : Inflight) => y.q = q && y.i = h)
      let d := { d with queue := { d.queue with
        infl := d.queue.infl.filter (fun (y : Inflight) => !(y.q = q && y.i = h)) ++ [x], nextOrd := d.queue.nextOrd + 1,
        fetched := d.queue.fetched.filter (fun f => !(f.q = q && (f.cnt = h || (x.slots = 2 && f.cnt = h + 1)))),
        rrLast := sset (fun _ => 65535) d.queue.rrLast (q % 2) q } }
      let d := (d.wr (rQmgQHead q) (h + n)).add64 rQmgDispatchLo 1
      if foreign then ((d.finish x (aborted 0x21 (qmSrc q))).qmErr 3 q x.seq).flw 3 3 (qmSrc q) 0
      else if dep then d.finish x (aborted 0x22 (qmSrc q))
      else if bad then ((d.finish x (aborted 0x20 (qmSrc q))).qmErr 2 q x.seq).flw 3 2 (qmSrc q) 0
      else if denied then d.finish x (aborted 0x25 (qmSrc q))
      else if eng then d.finish x (aborted 0x26 (qmSrc q))
      else if x.cls = 10 then
        let m : ModeSt := {
          cmd := ⟨Fin.ofNat 65536 q, h⟩, op := x.op, value := x.opd 0 % 2 ^ 32, part := p, h := d.now, acked := [],
          ta := none }
        ({ d with queue := { d.queue with mode := some m } }).wr rQmgStatus 1
      else if x.cls = 11 then
        -- point D (Table 11-3): the local record is formed
        let gates := d.rdFld (rColEpCtl p) 7 0 ||| d.rdFld (rColEpCtl p) 15 8
        let busy := d.queue.infl.any (fun (y : Inflight) =>
          y.part = p && y.phase ≠ .early && y.ord ≠ x.ord && y.cls < 8 && gates.testBit y.cls)
        let r : EpochRecord := {
          rank := 0, status := setBit 3 busy (d.rd (rColEpFlags p)), epoch := x.epoch, sl := d.rd (rColNsSl p),
          sg := d.rd (rColNsSg p), proposal := BitVec.ofNat 64 (d.now + d.epochLead p) }
        let st : EpochSt := {
          cmd := ⟨Fin.ofNat 65536 q, h⟩, d := d.now, desc := ⟨0, false, 0, 0, 0, 0, 0, 0, 0⟩, local_ := r, phase := .held }
        { d with queue := { d.queue with epochs := sset (fun _ => none) d.queue.epochs p (some st) } }
      else if old.any (·.phase = .early) then d.setCmd q h (fun y => { y with lastout := old.any (·.lastout), copied := old.findSome? (·.copied) })
      else d

/-! ### Sync counters (R237, R238) -/

/-- Add to a counter. -/
def Dev.cntAdd (d : Dev) (c : Nat) (v : Word) : Dev := d.wr (rQmgCntVal c) (d.rd (rQmgCntVal c) + v)

/-- Set a counter's FAULT bit. -/
def Dev.cntFault (d : Dev) (c : Nat) (b : Bool) : Dev := d.wr (rQmgCntAdd c) (setBit 0 b (d.rd (rQmgCntAdd c)))

/-- Perform a signal of a command that completes with `st`: a failing status sets FAULT, a SET signal of a command that
completes DONE or POISONED clears it. -/
def Dev.signal (d : Dev) (st : Status) (s : SigE) : Dev :=
  let fails := st = .notStarted || st = .partial_ || st = .aborted
  let d := if s.set then d.wr (rQmgCntVal s.cnt) s.value else d.cntAdd s.cnt s.value
  if fails then d.cntFault s.cnt true else if s.set then d.cntFault s.cnt false else d

/-! ### MSI-X (R29, R32, R36) -/

/-- What an unlisted MSI-X table word holds: vectors come out of reset masked (log 20). -/
def msixDefault (k : Nat) : Word := if k % 4 = 3 then 1 else 0

/-- A word of the MSI-X table. -/
def Dev.msixWord (d : Dev) (port vec w : Nat) : Word := sget msixDefault d.host.msix ((port * 2048 + vec) * 4 + w)

/-- Send the message of vector `vec`, or set its pending bit while the link is down or the vector is masked. -/
def Dev.msixSend (d : Dev) (port vec : Nat) : Dev :=
  let k := port * 2048 + vec
  if d.linkUp port && !bitOf 0 (d.msixWord port vec 3) then
    { d with
      sent := d.sent ++ [.msix port vec ((d.msixWord port vec 0).toNat + 2 ^ 32 * (d.msixWord port vec 1).toNat)
        (d.msixWord port vec 2)]
      host := { d.host with pba := delNat k d.host.pba } }
  else { d with host := { d.host with pba := insNat k d.host.pba } }

/-! ### The units of a MODE (R245, R246, R305) -/

/-- The units that a MODE affects: a fenced die's units leave the set (R305). -/
def Dev.modeUnits (d : Dev) (op : Nat) : List ModeUnit :=
  match op with
  | 0 => [.queueManager 0, .queueManager 1]
  | 1 => ((List.range 10).filter (fun e => 8 ≤ e || !d.fenced e)).map (fun e => .trowel (Fin.ofNat 10 e))
  | _ => [.lantern 0, .lantern 1]
      ++ ((List.range 20).filter (fun n => 8 ≤ n || !d.fenced n)).map (fun n => .monitor (Fin.ofNat 20 n))

/-- Has the MODE's command begun its work? -/
def Dev.modeAsked (d : Dev) (m : ModeSt) : Bool :=
  d.queue.infl.any (fun x => x.q = m.cmd.q.val && x.i = m.cmd.i && x.phase = .working)

/-- With the last acknowledgement, or with a fence that takes the last unit without one away, TA is set 2 µs ahead (Table 10-7, R305). -/
def Dev.modeSettle (d : Dev) : Dev :=
  match d.queue.mode with
  | none => d
  | some m =>
    if m.ta.isNone && d.modeAsked m && (d.modeUnits m.op).all m.acked.contains then
      ({ d with queue := { d.queue with mode := some { m with ta := some (d.now + 2000) } } }).wr rQmgStatus 2
    else d

/-! ### The end of an EPOCH command (R258, R264, R265) -/

/-- Set the norm accumulators of partition `p` and the registers that show them, rounded (R265). -/
def Dev.setNorms (d : Dev) (p : Nat) (x : Fp × Fp) : Dev :=
  let d := { d with col := { d.col with norms := sset (fun _ => (Fp.zero, Fp.zero)) d.col.norms p x } }
  (d.wr (rColNsSl p) (BitVec.ofNat 32 x.1.toBits)).wr (rColNsSg p) (BitVec.ofNat 32 x.2.toBits)

/-- Clear the EPOCH flags and the norm accumulators of partition `p` (R258, R265). -/
def Dev.epochClear (d : Dev) (p : Nat) : Dev := (d.wr (rColEpFlags p) 0).setNorms p (Fp.zero, Fp.zero)

/-- An EPOCH of partition `p` has completed, dispatched or flushed: gates written while one was in flight take effect (Table
11-6), and one that does not commit is counted and clears the flags (R258, R271). -/
def Dev.epochDone (d : Dev) (p : Nat) (st : Status) : Dev :=
  let d := match sget (fun _ => none) d.col.gates p with
    | some w => if d.epochBusyOf p then d
      else { d.wrFld (rColEpCtl p) 15 0 w with col := { d.col with gates := sset (fun _ => none) d.col.gates p none } }
    | none => d
  if st = .done then d else (d.addSat (rColEpAborts p) 1).epochClear p

/-! ### Completion (R238, R241, R242, R258) -/

/-- Codes of Table 10-5. -/
def Status.code : Status → Nat
  | .done => 0 | .notStarted => 1 | .partial_ => 2 | .poisoned => 3 | .aborted => 4

/-- Does a status fault the command's counters (R238)? -/
def Status.fails : Status → Bool
  | .notStarted => true | .partial_ => true | .aborted => true | _ => false

/-- The 64-byte completion record (Table 10-5). -/
def cplRecord (x : Inflight) (ts0 ts1 : Nat) : List Byte :=
  leBytes 4 x.seq ++ leBytes 1 x.res.status.code ++ leBytes 1 x.res.cause ++ leBytes 2 (x.cls + 16 * x.op)
    ++ leBytes 8 x.res.progress ++ leBytes 8 ts0 ++ leBytes 8 ts1 ++ leBytes 2 x.res.src ++ leBytes 2 x.res.result
    ++ leBytes 4 x.epoch.toNat ++ leBytes 8 x.res.addr ++ leBytes 8 x.res.xa ++ leBytes 8 x.res.xb

/-- RETIRE advances over every completed slot that directly follows it; `fuel` bounds the advances. -/
def Dev.retire (d : Dev) (q : Nat) : Nat → Dev
  | 0 => d
  | fuel + 1 =>
    let r := d.rd (rQmgQRetire q)
    match d.queue.doneSlots.find? (fun e => e.1 = q && e.2.1 = r) with
    | none => d
    | some e =>
      let d := { d with queue := { d.queue with doneSlots := d.queue.doneSlots.filter (fun f => !(f.1 = q && f.2.1 = r)) } }
      (d.wr (rQmgQRetire q) (r + BitVec.ofNat 32 e.2.2)).retire q fuel

/-- The gates of R258 on a completion of class `cls`. -/
def Dev.gate (d : Dev) (p cls : Nat) (st : Status) : Dev :=
  let w := d.rd (rColEpCtl p)
  let d := if st = .poisoned && bitOf cls w && cls < 8 then d.epFlag p 0 else d
  if st.fails && bitOf (8 + cls) w && cls < 8 then d.epFlag p 1 else d

/-- A halt of a queue by a failing completion with HALTERR = 1 (R244). -/
def Dev.haltErr (d : Dev) (q : Nat) (r : Result) : Dev :=
  if r.status.fails && r.cause ≠ 0x23 && bitOf 9 (d.rd (rQmgQCfg q)) && d.rdFld (rQmgQStatus q) 1 0 ≠ 0 then d.qState q 3 else d

/-- Complete a command: its record, then its signals, then its MSI-X message, then RETIRE (R241). -/
def Dev.complete (d : Dev) (x : Inflight) (ts0 : Nat) : Dev :=
  let d := (d.writeMem ⟨some x.part, qmSrc x.q⟩ (d.rd64 (rQmgQCplLo x.q) + x.i.toNat % d.ringSize x.q * 64)
    (clean (cplRecord x ts0 d.now))).2
  let sigs := (sigsOf x.slot x.ext).filter (fun s => x.res.cause ≠ 0x21 && d.cntPart s.cnt = some x.part)
  let d := d.each sigs (fun d s => d.signal x.res.status s)
  let w := d.rd (rQmgQCfg x.q)
  let d := if x.ctrl.testBit 10 then d.msixSend (fld 21 21 w) (fld 20 10 w) else d
  let d := (d.gate x.part x.cls x.res.status).haltErr x.q x.res
  let d := { d with queue := { d.queue with
    infl := d.queue.infl.filter (fun (y : Inflight) => !(y.q = x.q && y.i = x.i)),
    doneSlots := d.queue.doneSlots ++ [(x.q, x.i, x.slots)] } }
  let d := d.retire x.q (d.queue.doneSlots.length + 1)
  if x.cls = 11 then d.epochDone x.part x.res.status else d

/-! ### Control of a queue (R230, R244) -/

/-- Does [a, a + n) lie in the partition's HBM window or in its Gallery (R230)? -/
def Dev.inHbmOrGallery (d : Dev) (p a n : Nat) : Bool :=
  n ≠ 0 && ((isHbm a && isHbm (a + n - 1) && d.inWindow p a && d.inWindow p (a + n - 1))
    || (isGallery a && isGallery (a + n - 1) && d.inWindow p a && d.inWindow p (a + n - 1)
        && !(List.range 8).any (fun k => d.fenced k && galDie a ≤ k && k ≤ galDie (a + n - 1))))

/-- A write of EN = 1 (R230, R244): refused while CLOSING, with a LOG2SIZE outside 6 to 16, or with a ring or a completion
area outside the partition's HBM window and Gallery. -/
def Dev.queueEnable (d : Dev) (q : Nat) : Dev :=
  let l := d.rdFld (rQmgQCfg q) 5 1
  let p := d.qPart q
  let ok := !d.closing q && 6 ≤ l && l ≤ 16 && d.inHbmOrGallery p (d.rd64 (rQmgQBaseLo q)) (64 * 2 ^ l)
    && d.inHbmOrGallery p (d.rd64 (rQmgQCplLo q)) (64 * 2 ^ l)
  if !ok then (d.qErr q 2).flw 3 2 (qmSrc q) 0
  else
    let d := ((d.wr (rQmgQTail q) 0).wr (rQmgQHead q) 0).wr (rQmgQRetire q) 0
    let d := { d with queue := { d.queue with fetched := d.queue.fetched.filter (·.q ≠ q), stuck := delNat q d.queue.stuck,
                                              doneSlots := d.queue.doneSlots.filter (·.1 ≠ q) } }
    (d.wr (rQmgQCfg q) (setBit 0 true (d.rd (rQmgQCfg q)))).qState q (if bitOf 0 (d.rd (rQmgQCtl q)) then 2 else 1)

/-- The queue's clear of EN ends: CLOSING clears and STATE becomes DISABLED. -/
def Dev.closeEnd (d : Dev) (q : Nat) : Dev :=
  if d.closing q && d.queue.infl.all (fun x => x.q ≠ q || x.phase = .early) then
    let d := d.wr (rQmgQStatus q) 0
    { d with queue := { d.queue with fetched := d.queue.fetched.filter (·.q ≠ q) } }
  else d

/-- A write of EN = 0: EN reads 0, CLOSING is 1 and nothing more is dispatched (R244). -/
def Dev.queueDisable (d : Dev) (q : Nat) : Dev :=
  if !bitOf 0 (d.rd (rQmgQCfg q)) then d
  else
    let d := d.wr (rQmgQCfg q) (setBit 0 false (d.rd (rQmgQCfg q)))
    d.wr (rQmgQStatus q) (setBit 4 true (d.rd (rQmgQStatus q)))

/-- A write to QMG_Q_CFG: EN acts under R230 and R244, LOG2SIZE only while EN and CLOSING are 0, the other RW fields at
once. -/
def Dev.queueCfg (d : Dev) (q : Nat) (v : Word) : Dev :=
  let old := d.rd (rQmgQCfg q)
  let lock := bitOf 0 old || d.closing q
  let w := setFld 21 6 (fld 21 6 v) old
  let w := if lock then w else setFld 5 1 (fld 5 1 v) w
  let d := d.wr (rQmgQCfg q) w
  if bitOf 0 v then (if bitOf 0 old then d else d.queueEnable q) else d.queueDisable q

/-- Writing STOP (R244). -/
def Dev.queueStopWrite (d : Dev) (q : Nat) (stop : Bool) : Dev :=
  let d := d.wr (rQmgQCtl q) (setBit 0 stop (d.rd (rQmgQCtl q)))
  let st := d.rdFld (rQmgQStatus q) 1 0
  if st = 0 then d
  else if stop then d.qState q 2
  else d.qState q 1

end Sys2Proof.Machine
end

