-- ==== Sys2Proof/Machine/Approx.lean ====
section
/-! DEFINITION. EXP, RCP, RSQRT and SIGMOID within the bounds of R102: the exact result to more than 100 bits, and a result that
is free within the bound (log 8). -/

namespace Sys2Proof.Machine

/-- ⌊ln 2 × 2^192⌋. -/
def ln2Fix : Nat := 0xb17217f7d1cf79abc9e3b39803f2f6af40f343267298b62d

/-- exp of a finite value to about 180 bits; beyond ±200 a value that is as far outside the range of FP32. -/
def expNear (x : Fp) : Fp :=
  match x with
  | .fin s m e =>
    if (Fp.ofNat 200).lt x then .fin false 1 400
    else if x.lt (Fp.ofInt (-200)) then .fin false 1 (-400)
    else
      let v := scaleTo s m e (-192)
      let k := v / (ln2Fix : Int)
      let r := (v - k * ln2Fix).toNat
      let t := (List.range 48).foldl (fun (a : Nat × Nat) n => (a.1 + a.2, a.2 * r / 2 ^ 192 / (n + 1))) (0, 2 ^ 192)
      .fin false t.1 (k - 192)
  | _ => x

/-- The integer part of a square root of a number below 4^bits. -/
def isqrt (bits n : Nat) : Nat :=
  (List.range bits).foldr (fun b r => if (r + 2 ^ b) * (r + 2 ^ b) ≤ n then r + 2 ^ b else r) 0

/-- 1 / sqrt of a positive finite FP32 value to more than 140 bits. -/
def rsqrtNear (m : Nat) (e : Int) : Fp :=
  let m := if e % 2 = 0 then m else 2 * m
  let e := if e % 2 = 0 then e else e - 1
  .fin false (isqrt 162 (2 ^ 320 / m)) (-(e / 2) - 160)

/-- The largest FP32 code, without sign, at or below a positive value. -/
def floorCode (m : Nat) (e : Int) : Nat := fp32.round (.stochastic (2 ^ 32)) m e

/-- The smallest at or above it. -/
def ceilCode (m : Nat) (e : Int) : Nat :=
  let c := floorCode m e
  if (fp32.value false c).eq (.fin false m e) then c else c + 1

/-- An FP32 value that `free` picks among those within `n` units in the last place of `y`, in a layout with `mb` mantissa bits and
the unit 2^qmin at its bottom; it keeps the sign of `y`. -/
def nearOf (mb : Nat) (qmin : Int) (n free : Nat) (y : Fp) : Fp :=
  match y with
  | .fin s m e =>
    if m = 0 then y
    else
      let u : Fp := .fin false n (max (log2Of m e - mb) qmin)
      let lo := match (Fp.fin false m e).sub u with
        | .fin false l f => ceilCode l f
        | _ => 0
      let hi := match (Fp.fin false m e).add u with
        | .fin _ h f => min (floorCode h f) fp32.maxCode
        | _ => 0
      if fp32.maxCode < lo then .inf s else fp32.value s (lo + free % (hi + 1 - lo))
  | _ => y

/-- Within 1 BF16 unit in the last place with PREC = 0, within 2 FP32 units with PREC = 1 (R102). -/
def withinUlp (prec : Bool) (free : Nat) (y : Fp) : Fp :=
  if prec then nearOf 23 (-149) 2 free y else nearOf 7 (-133) 1 free y

/-- The exact result, to the precision above, of an operation on a value that R102 names no special value for. -/
def exactNear (op : Nat) (a : Fp) : Fp :=
  match op with
  | 0x09 => expNear a
  | 0x0A => (Fp.ofNat 1).div a
  | 0x0B => match a with
    | .fin _ m e => rsqrtNear m e
    | _ => .fin false 0 0
  | _ => match a with
    | .inf s => if s then Fp.zero else Fp.ofNat 1
    | _ => if a.lt (Fp.ofInt (-200)) then .fin false 1 (-400) else (Fp.ofNat 1).div ((Fp.ofNat 1).add (expNear a.negate))

/-- A transcendental of Table 4-4: the special values of R102, otherwise free within its bound; a NaN operand gives NaN, and
RSQRT of −0 is named nowhere (log 8). -/
def transcendental (op : Nat) (prec : Bool) (a : Fp) : Fp :=
  let free := Config.transcend op prec a.toBits
  if a.isNan then .nan
  else if op = 0x09 && a = .inf true then Fp.zero
  else if op = 0x0A && a.isZero then .inf a.neg?
  else if op = 0x0B && a.isZero then (if a.neg? then Fp.ofBits free else .inf false)
  else if op = 0x0B && a.neg? then .nan
  else withinUlp prec free (exactNear op a)

end Sys2Proof.Machine
end

