-- ==== Sys2Proof/Machine/Desc.lean ====
section
/-! DEFINITION. Tensor descriptors (R80 to R85), their elements in memory (R69, R70) and the writing of elements with the
conversions of R71, R72 and R98. -/

namespace Sys2Proof.Machine

/-- ⌈a / b⌉ × b. -/
def alignUp (b a : Nat) : Nat := cdiv a b * b

/-- Distinct numbers of a list, strictly rising. -/
def sortNat (l : List Nat) : List Nat := l.foldl (fun acc k => insNat k acc) []

/-! ### Index space and layout (R69, R82) -/

/-- Number of elements. -/
def Desc.count (t : Desc) : Nat := t.size.prod

/-- The indices of logical element `e` (R78). -/
def Desc.idxOf (t : Desc) (e : Nat) : List Nat :=
  (t.size.foldl (fun (acc : List Nat × Nat) n => (acc.1 ++ [acc.2 % n], acc.2 / n)) ([], e)).1

/-- The logical index of indices. -/
def Desc.eOf (t : Desc) (idx : List Nat) : Nat := (t.size.zip idx).foldr (fun p acc => p.2 + p.1 * acc) 0

/-- The storage index of indices. -/
def Desc.siOf (t : Desc) (idx : List Nat) : Nat := ((t.stride.zip idx).map (fun p => p.1 * p.2)).sum

/-- The span, in elements. -/
def Desc.span (t : Desc) : Nat := 1 + ((t.stride.zip t.size).map (fun p => p.1 * (p.2 - 1))).sum

/-- The span of an MX tensor is rounded up to whole blocks. -/
def Desc.span32 (t : Desc) : Nat := alignUp 32 t.span

/-- Bytes of the element region of an MX tensor, up to the scale region. -/
def Desc.scaleOff (t : Desc) : Nat := alignUp 64 (t.span32 * t.fmt.bits / 8)

/-- Bytes per element of a format that is not an MX format. -/
def Desc.esize (t : Desc) : Nat := t.fmt.bits / 8

/-- Bytes of a lossy block (Table 8-2). -/
def lossyBytes : Nat → Nat
  | 1 => 256 | 2 => 160 | 3 => 128 | _ => 0

/-- Blocks of a compressed tensor (R182). -/
def Desc.nblocks (t : Desc) : Nat := cdiv t.count 256
/-- H of R183. -/
def Desc.hdrBytes (t : Desc) : Nat := alignUp 64 (t.nblocks * 8)
/-- D of R183. -/
def Desc.lossyArea (t : Desc) : Nat := alignUp 64 (t.nblocks * lossyBytes t.cls)
/-- CAP of R183. -/
def Desc.capBytes (t : Desc) : Nat :=
  alignUp 64 ((if t.cls = 4 then t.count else t.count / t.size.getD t.chdim 1 * t.mask.length) * t.esize)

/-- The footprint in bytes (R82, R183). -/
def Desc.footprint (t : Desc) : Nat :=
  if t.cls ≠ 0 then t.hdrBytes + t.lossyArea + t.capBytes
  else if t.fmt.isMx then t.scaleOff + t.span32 / 32
  else t.span * t.esize

/-- The base of the bank that a command accesses (R84). -/
def Desc.org (t : Desc) (epoch : Word) : Nat :=
  if t.eb ≠ 0 && (epoch.toNat + (if t.eb = 2 then 1 else 0)) % 2 = 1 then t.base + alignUp 0x200000 t.footprint else t.base

/-! ### The check (R85) -/

/-- A field of a descriptor's bytes. -/
def dfld (l : List Byte) (off n hi lo : Nat) : Nat := nfld hi lo (leAt l off n)

/-- The descriptor that 64 bytes spell, without its mask. -/
def Desc.ofBytes (l : List Byte) : Option Desc :=
  match Fmt.ofCode (dfld l 0 4 7 0) with
  | none => none
  | some f => some {
      fmt := f, rank := dfld l 0 4 10 8, region := dfld l 0 4 12 11, cls := dfld l 0 4 15 13,
      delta := (leAt l 0 4).testBit 16, eb := dfld l 0 4 18 17, rnd := dfld l 0 4 20 19, chdim := dfld l 0 4 23 21,
      sat := (leAt l 0 4).testBit 24, pad := BitVec.ofNat 32 (leAt l 4 4), base := dfld l 8 8 47 0,
      tslot := dfld l 8 8 59 48, pmask := dfld l 16 8 47 0,
      size := (List.range 6).map (fun k => leAt l (0x18 + 3 * k) 3),
      stride := 1 :: (List.range 5).map (fun k => leAt l (0x2C + 4 * k) 4), mask := [] }

/-- Fields that must be 0. -/
def descZeros (l : List Byte) : Bool :=
  dfld l 0 4 31 25 = 0 && dfld l 8 8 63 60 = 0 && dfld l 16 8 63 48 = 0 && leAt l 0x2A 2 = 0

/-- Bits of PAD that the format does not use are 0 (R83). -/
def Desc.padOk (t : Desc) : Bool :=
  if t.fmt.isMx then t.pad.toNat < 2 ^ 16 && t.pad.toNat % 256 < 2 ^ t.fmt.bits else t.pad.toNat < 2 ^ t.fmt.bits

/-- The address range of a REGION (R25). -/
def regionRange : Nat → Nat × Nat
  | 0 => (0x210000000000, 0x2100C0000000)
  | 1 => (0x200000000000, 0x200240000000)
  | 2 => (0, 0xC000000000)
  | _ => (0x80000000000, 0xC0000000000)

/-- Formats that a class accepts (Table 8-2). -/
def clsAccepts (cls : Nat) (f : Fmt) : Bool :=
  match cls with
  | 0 => true
  | 1 => f = .fp32 || f = .bf16 || f = .fp16
  | 2 => f = .fp32 || f = .bf16 || f = .fp16
  | 3 => f = .fp32 || f = .bf16 || f = .fp16
  | 4 => !f.isMx
  | _ => false

/-- The check of R85 on a descriptor's fields. -/
def Desc.check (t : Desc) : Bool :=
  let r := regionRange t.region
  1 ≤ t.rank && t.rank ≤ 6 && t.cls ≤ 4 && t.eb ≤ 2 && t.rnd ≤ 2 && t.padOk
    && t.size.all (fun n => 1 ≤ n && n < 2 ^ 24)
    && (List.range 6).all (fun k => k < t.rank || (t.size.getD k 0 = 1 && (k = 0 || t.stride.getD k 1 = 0)))
    && (!t.fmt.isMx || (t.stride.drop 1).all (· % 32 = 0))
    && (!t.fmt.isMx || t.rank < 2 || alignUp 32 (t.size.getD 0 0) ≤ t.stride.getD 1 0)
    && (t.eb = 0 || 2 ≤ t.region)
    && r.1 ≤ t.base && t.base < r.2
    && (if t.fmt.isMx then t.base % 64 = 0 else t.base % t.esize = 0)
    && (t.cls = 0 || (t.base % 4096 = 0 && t.region ≠ 0 && clsAccepts t.cls t.fmt))
    && (t.cls = 0 || t.pmask = 0 || t.chdim < t.rank)
    && (t.eb = 0 || t.base + alignUp 0x200000 t.footprint + t.footprint ≤ r.2)

/-- The privileged channels of a mask's bytes (R188). -/
def maskChannels (l : List Byte) : List Nat :=
  (List.range (8 * l.length)).filter (fun c => (l.getD (c / 8) 0).getLsbD (c % 8))

/-- Read the privileged-channel mask of a compressed descriptor that names one. -/
def Dev.withMask (d : Dev) (acc : Acc) (t : Desc) : Desc × Dev :=
  if t.cls = 0 || t.cls = 4 || t.pmask = 0 || t.rank ≤ t.chdim then (t, d)
  else
    let n := t.size.getD t.chdim 0
    let r := d.readMem acc t.pmask (cdiv (min n 4096) 8)
    ({ t with mask := (maskChannels r.1.bytes).filter (· < n) }, r.2)

/-- Check the descriptor that 64 bytes spell; none when it fails. -/
def Dev.checkDesc (d : Dev) (acc : Acc) (l : List Byte) : Option Desc × Dev :=
  match Desc.ofBytes l with
  | none => (none, d)
  | some t =>
    if !descZeros l then (none, d)
    else
      let x := d.withMask acc t
      (if x.1.check then some x.1 else none, x.2)

/-- Load the descriptor at `a` for use (R85, R395). -/
def Dev.loadDesc (d : Dev) (acc : Acc) (a : Nat) : Option Desc × Dev :=
  match d.readStruct acc 64 a 64 with
  | (none, d) => (none, d)
  | (some l, d) => d.checkDesc acc l

/-! ### Elements -/

/-- An element: its code, its block's scale code (127 outside MX formats) and its poison mark. -/
structure Elem where
  code : Nat
  sc : Nat
  bad : Bool
  deriving DecidableEq, Repr

/-- The PAD element (R83); it is never poisoned (R117). -/
def Desc.padElem (t : Desc) : Elem :=
  if t.fmt.isMx then ⟨t.pad.toNat % 2 ^ t.fmt.bits, t.pad.toNat / 256 % 256, false⟩ else ⟨t.pad.toNat % 2 ^ t.fmt.bits, 127, false⟩

/-- The exact value of an element, with no limit on its range (as the matrix unit takes it, R75). -/
def Elem.exact (f : Fmt) (e : Elem) : Fp :=
  if f.isMx then (if e.sc = 0xFF then .nan else (f.elem e.code).mul (Fp.pow2 ((e.sc : Int) - 127))) else f.elem e.code

/-- Widen an element to FP32 (R70): a product beyond the range becomes infinite and sets OVERFLOW; INT32 is rounded. -/
def Elem.widen (f : Fmt) (rn : Rounding) (e : Elem) : Fp × ArithFlag :=
  let x := e.exact f
  if f.isMx then
    let y := x.r32
    (y, if x.isFin && !y.isFin then .overflow else .none)
  else if f = .int32 then (Fp.ofBits (Fmt.fp32.narrow rn false x).1, .none)
  else (x, .none)

/-- The bits of TFLAGS that flags set: INVALID, OVERFLOW, SATURATE (Table 4-8). -/
def flagBits (l : List ArithFlag) : Word :=
  BitVec.ofNat 32 ((if l.contains .invalid then 1 else 0) + (if l.contains .overflow then 2 else 0)
    + (if l.contains .saturate then 4 else 0))

/-- What decides stochastic rounding and the default rounding (R76 to R79, R111). -/
structure RndCtx where
  seed : DWord
  seq : Word
  tile : DWord
  dflt : Nat
  deriving DecidableEq, Repr

/-- The rounding of logical element `e` with storage index `si` of an operand: RND 0 is the partition's default, and a
command without tiles takes the output byte offset div 65536 for its tile. -/
def RndCtx.mode (c : RndCtx) (t : Desc) (e si : Nat) : Rounding :=
  if (if t.rnd = 0 then c.dflt else t.rnd) = 2 then
    let tile : DWord := if c.tile = 0xFFFFFFFFFFFFFFFF then BitVec.ofNat 64 (si * t.fmt.bits / 8 / 65536) else c.tile
    .stochastic (genOut (tileKey c.seed c.seq tile) e)
  else .nearest

/-! ### Bytes of elements -/

/-- The bytes that the element with storage index `si` occupies, from the tensor's base. -/
def Desc.elemBytes (t : Desc) (si : Nat) : List Nat :=
  let w := t.fmt.bits
  rangeFrom (w * si / 8) (cdiv (w * si % 8 + w) 8)

/-- The scale byte of the element, for MX formats. -/
def Desc.scaleByte (t : Desc) (si : Nat) : Nat := t.scaleOff + si / 32

/-- Contiguous runs of a strictly rising list: first address and length. -/
def runsOf (l : List Nat) : List (Nat × Nat) :=
  l.foldr (fun a acc => match acc with
    | (b, n) :: t => if a + 1 = b then (a, n + 1) :: t else (a, 1) :: (b, n) :: t
    | [] => [(a, 1)]) []

/-- Bytes read, with marks, by address. -/
abbrev ByteMap := List (Nat × (Byte × Bool))

/-- Read a set of bytes in contiguous runs, in requests of at most `req` bytes; also whether a read was refused, and whether
one read poison. -/
def Dev.readBytes (d : Dev) (acc : Acc) (req : Nat) (as : List Nat) : (ByteMap × Bool × Bool) × Dev :=
  (runsOf (sortNat as)).foldl (fun (r : (ByteMap × Bool × Bool) × Dev) e =>
    let x := r.2.readReq acc req e.1 e.2
    ((r.1.1 ++ (rangeFrom e.1 e.2).zip x.1.data, r.1.2.1 || x.1.refused, r.1.2.2 || x.1.poison), x.2)) (([], false, false), d)

/-- A byte of a map; a byte not read is 0 and clean. -/
def ByteMap.at (m : ByteMap) (a : Nat) : Byte × Bool := sget (fun _ => (0, false)) m a

/-- The element at storage index `si` out of bytes read from `org` on. -/
def Desc.pick (t : Desc) (org : Nat) (m : ByteMap) (si : Nat) : Elem :=
  let bs := (t.elemBytes si).map (fun o => m.at (org + o))
  let w := t.fmt.bits
  let code := ofLe (bs.map (·.1)) / 2 ^ (w * si % 8) % 2 ^ w
  if t.fmt.isMx then
    let s := m.at (org + t.scaleByte si)
    ⟨code, s.1.toNat, bs.any (·.2) || s.2⟩
  else ⟨code, 127, bs.any (·.2)⟩

/-- The byte addresses of an element, its scale included. -/
def Desc.touch (t : Desc) (org si : Nat) : List Nat :=
  let l := (t.elemBytes si).map (org + ·)
  if t.fmt.isMx then l ++ [org + t.scaleByte si] else l

/-- Elements read, the first poisoned or refused address in their order, and whether any read was refused or read poison. -/
structure ElemRd where
  els : List Elem
  bad : Option Nat
  refused : Bool
  poison : Bool
  deriving DecidableEq, Repr

/-- Read elements of a tensor of class NONE by storage index. -/
def Dev.readElems (d : Dev) (acc : Acc) (req : Nat) (t : Desc) (org : Nat) (sis : List Nat) : ElemRd × Dev :=
  let as := sis.flatMap (t.touch org)
  let r := d.readBytes acc req as
  (⟨sis.map (t.pick org r.1.1), as.find? (fun a => (r.1.1.at a).2), r.1.2.1, r.1.2.2⟩, r.2)

/-! ### Writing elements -/

/-- A value to be written: the element's code as it stands, or a value to be narrowed. -/
inductive OutVal
  | raw (code : Nat)
  | num (x : Fp)
  deriving DecidableEq, Repr

/-- An element to be written at indices of the destination. -/
structure OutEl where
  idx : List Nat
  v : OutVal
  bad : Bool
  deriving DecidableEq, Repr

/-- Bytes to be written, with marks, by address; a later byte at one address replaces an earlier one. -/
def ByteMap.put (m : ByteMap) (l : List (Nat × (Byte × Bool))) : ByteMap := l.foldl (fun m e => sput e.1 (some e.2) m) m

/-- Write a byte map in contiguous runs, request by request; answers the first refused address, and how many bytes were
written. -/
def Dev.writeBytes (d : Dev) (acc : Acc) (req : Nat) (m : ByteMap) : (Option Nat × Nat) × Dev :=
  ((runsOf (m.map (·.1))).flatMap (fun e => cutAt req (e.2 / req + 2) e.1 e.2)).foldl
    (fun (r : (Option Nat × Nat) × Dev) e =>
      let x := r.2.writeReq acc req e.1 ((rangeFrom e.1 e.2).map m.at)
      ((first r.1.1 x.1, r.1.2 + if x.1.isSome then 0 else e.2), x.2)) ((none, 0), d)

/-- The code of a value narrowed into element `e` of a format that is not an MX format. -/
def OutVal.code (v : OutVal) (t : Desc) (rn : Rounding) : Nat × ArithFlag :=
  match v with
  | .raw c => (c, .none)
  | .num x => t.fmt.narrow rn t.sat x

/-- What a write of elements answers: flags set, the first refused address and the bytes written; and for the read of blocks
written in part the first poisoned or refused address, whether it was refused, and whether it read poison. -/
structure ElemWr where
  flags : List ArithFlag
  bad : Option Nat
  done : Nat
  oldBad : Option Nat
  oldRefused : Bool
  oldPoison : Bool
  deriving DecidableEq, Repr

/-- The value of a position of an MX block that a write leaves alone. -/
structure BlkPos where
  idx : List Nat
  si : Nat
  val : Fp
  flag : ArithFlag
  bad : Bool
  deriving DecidableEq, Repr

/-- The valid positions of the block that holds indices `idx`: those of its row within SIZE0. -/
def Desc.blockIdx (t : Desc) (idx : List Nat) : List (List Nat) :=
  let i0 := idx.headD 0 / 32 * 32
  ((rangeFrom i0 32).filter (· < t.size.headD 1)).map (fun i => i :: idx.drop 1)

/-- Bits of 32 elements of `w` bits, as 4 × w bytes. -/
def packElems (w : Nat) (cs : List Nat) : List Byte := leBytes (4 * w) (cs.foldr (fun c acc => c + 2 ^ w * acc) 0)

/-- One MX block, as it is written whole (R72, R98): an element's poison marks its bytes, and a block of which every element is
poisoned is poisoned whole, its unused positions included (R117). -/
def mxBlock (t : Desc) (c : RndCtx) (org : Nat) (ps : List BlkPos) : ByteMap × List ArithFlag :=
  let w := t.fmt.bits
  let b := (ps.head?.map (fun p => p.si / 32)).getD 0
  let sc := t.fmt.scaleCode (ps.map (·.val))
  let code (p : BlkPos) : Nat × ArithFlag :=
    if sc = 0xFF then (0, .none) else t.fmt.narrowMx (c.mode t (t.eOf p.idx) p.si) sc p.val
  let at? (j : Nat) : Option BlkPos := ps.find? (fun p => p.si % 32 = j)
  let cs := (List.range 32).map (fun j => match at? j with
    | some p => (code p).1
    | none => 0)
  let bits (j : Nat) : Bool := ps.all (·.bad) || (at? j).any (·.bad)
  let bytes := ((packElems w cs).zipIdx).map (fun e =>
    (org + b * 4 * w + e.2, (e.1, (List.range 32).any (fun j => j * w < 8 * e.2 + 8 && 8 * e.2 < (j + 1) * w && bits j))))
  (bytes ++ [(org + t.scaleOff + b, (BitVec.ofNat 8 sc, ps.any (·.bad)))], ps.map (fun p => (code p).2) ++ ps.map (·.flag))

/-- The value that an element to be written has, for an MX destination. -/
def OutEl.val (o : OutEl) (f : Fmt) : Fp := match o.v with
  | .num x => x
  | .raw c => f.elem c

/-- Write elements of a tensor of class NONE. An MX block that is written in part is read, merged and written whole. -/
def Dev.writeElems (d : Dev) (acc : Acc) (req : Nat) (t : Desc) (org : Nat) (c : RndCtx) (os : List OutEl) : ElemWr × Dev :=
  if !t.fmt.isMx then
    let n := t.esize
    let r := os.foldl (fun (r : ByteMap × List ArithFlag) o =>
      let si := t.siOf o.idx
      let k := o.v.code t (c.mode t (t.eOf o.idx) si)
      (r.1.put ((rangeFrom (org + n * si) n).zip ((leBytes n k.1).map (·, o.bad))), r.2 ++ [k.2])) ([], [])
    let x := d.writeBytes acc req r.1
    (⟨r.2, x.1.1, x.1.2, none, false, false⟩, x.2)
  else
    let blocks := sortNat (os.map (fun o => t.siOf o.idx / 32))
    let r := blocks.foldl (fun (r : (ByteMap × ElemWr) × Dev) b =>
      let mine := os.filter (fun o => t.siOf o.idx / 32 = b)
      let all := t.blockIdx ((mine.head?.map (·.idx)).getD [])
      let old := all.filter (fun i => !mine.any (fun o => o.idx = i))
      let x := r.2.readElems acc req t org (old.map t.siOf)
      let ps := all.map (fun i => match mine.reverse.find? (fun o => o.idx = i) with
        | some o => ({ idx := i, si := t.siOf i, val := o.val t.fmt, flag := .none, bad := o.bad } : BlkPos)
        | none =>
          let e := (((old.zip x.1.els).find? (fun p => p.1 = i)).map (·.2)).getD ⟨0, 0, false⟩
          let v := e.widen t.fmt .nearest
          { idx := i, si := t.siOf i, val := v.1, flag := v.2, bad := e.bad })
      let k := mxBlock t c org ps
      let w := r.1.2
      ((r.1.1.put k.1, ⟨w.flags ++ k.2, none, 0, first w.oldBad x.1.bad, w.oldRefused || x.1.refused, w.oldPoison || x.1.poison⟩),
        x.2)) (([], ⟨[], none, 0, none, false, false⟩), d)
    let x := r.2.writeBytes acc req r.1.1
    ({ r.1.2 with bad := x.1.1, done := x.1.2 }, x.2)

end Sys2Proof.Machine
end

