-- ==== Sys2Proof/Machine/Trowel.lean ====
section
/-! DEFINITION. Trowel's coding of one block (R182 to R204): slot records, predictions, the fixed-rate code, the lossless
path, delta frames, damage and poison. -/

namespace Sys2Proof.Machine

/-! ### Engines and slots (Tables 8-1, 8-5) -/

/-- Source number of engine `e`. -/
def trwSrc (e : Nat) : Nat := if e < 8 then srcNo e 0x220 else srcNo (e + 8) 0x018

/-- The engine of TROWEL commands and sample-cache operations of partition `p` (R178). -/
def Dev.trwHubEngine (d : Dev) (p : Nat) : Nat := if (d.diesOf p).all (4 ≤ ·) then 9 else 8

/-- Address of a slot record. -/
def Dev.slotAddr (d : Dev) (p slot : Nat) : Nat := d.rd64 (rTrwSlotBaseLo p) + slot * 2048

/-- A slot record as it was read: its address and its first 1,024 bytes. -/
structure SlotRec where
  addr : Nat
  raw : List Byte
  deriving DecidableEq, Repr

/-- A field of a slot record. -/
def SlotRec.fld (s : SlotRec) (off n : Nat) : Nat := leAt s.raw off n
/-- Is the slot OPEN? -/
def SlotRec.isOpen (s : SlotRec) : Bool := s.fld 0 4 % 4 = 1
/-- TBL: tables are present. -/
def SlotRec.tbl (s : SlotRec) : Bool := (s.fld 0 4).testBit 2
/-- GEN. -/
def SlotRec.gen (s : SlotRec) : Nat := nfld 11 8 (s.fld 0 4)
/-- K, where 0 means 8. -/
def SlotRec.k (s : SlotRec) : Nat := if s.fld 7 1 = 0 then 8 else s.fld 7 1
/-- FDIM. -/
def SlotRec.fdim (s : SlotRec) : Nat := s.fld 8 1
/-- Blocks per frame. -/
def SlotRec.bpf (s : SlotRec) : Nat := s.fld 0x0C 4
/-- TAG0 or TAG1. -/
def SlotRec.tag (s : SlotRec) (n : Nat) : Nat := s.fld (0x50 + 4 * n) 4
/-- CNT0 or CNT1. -/
def SlotRec.cnt (s : SlotRec) (n : Nat) : Nat := s.fld (0x58 + 4 * n) 4
/-- RB0 or RB1. -/
def SlotRec.rb (s : SlotRec) (n : Nat) : Nat := s.fld (0x40 + 8 * n) 8
/-- The key list. -/
def SlotRec.keys (s : SlotRec) : List Nat := (List.range (min 16 (s.fld 0x64 4))).map (fun i => s.fld (0x80 + 4 * i) 4)
/-- The table set: image bytes 0x040 to 0x17F. -/
def SlotRec.tables (s : SlotRec) : List Byte := (s.raw.drop 0xC0).take 320

/-- Read a slot record for partition `p`. -/
def Dev.readSlot (d : Dev) (src p slot : Nat) : SlotRec × Dev :=
  let a := d.slotAddr p slot
  let r := d.readMem ⟨some p, src⟩ a 1024
  (⟨a, r.1.bytes⟩, r.2)

/-- Write `n` bytes of a field of a slot record. -/
def Dev.pokeSlot (d : Dev) (src p slot off n v : Nat) : Dev :=
  (d.writeMem ⟨some p, src⟩ (d.slotAddr p slot + off) (clean (leBytes n v))).2

/-- Flag an error of TRW_ERR with its capture. -/
def Dev.trwErr (d : Dev) (e bit p slot src blk : Nat) : Dev :=
  d.raise (rTrwErr e) bit (fun d =>
    (d.wr (rTrwErrSlot e) (BitVec.ofNat 32 (slot % 4096 + 4096 * (p % 16) + 65536 * src))).wr64 (rTrwErrBlockLo e) blk)

/-- Is frame `t` a base coat (R191)? -/
def SlotRec.baseCoat (s : SlotRec) (t : Nat) : Bool := t % s.k = 0 || s.keys.contains t

/-- The nearest base coat at or before frame `t`. -/
def SlotRec.baseOf (s : SlotRec) (t : Nat) : Nat :=
  ((List.range (t + 1)).reverse.find? s.baseCoat).getD 0

/-! ### Positions of a block (R182, R188) -/

/-- Is the element with logical index `e` on the lossless path? -/
def Desc.lossless (t : Desc) (e : Nat) : Bool := t.cls = 4 || t.mask.contains ((t.idxOf e).getD t.chdim 0)

/-- Positions of block `i` that hold elements on the lossless path. -/
def Desc.llPos (t : Desc) (i : Nat) : List Nat :=
  (List.range 256).filter (fun j => 256 * i + j < t.count && t.lossless (256 * i + j))

/-- Positions of block `i` on the lossy path: all that are not on the lossless path. -/
def Desc.lossyPos (t : Desc) (i : Nat) : List Nat :=
  if t.cls = 4 then [] else (List.range 256).filter (fun j => !(256 * i + j < t.count && t.lossless (256 * i + j)))

/-- The frame of block `i`: the index of its first element along FDIM (R191). A block holds elements of one frame where the
dimensions below FDIM hold a multiple of 256 elements; elsewhere the first element decides (log 72). -/
def frameOf (t : Desc) (s : SlotRec) (i : Nat) : Nat := (t.idxOf (256 * i)).getD s.fdim 0

/-- The blocks of frame `f`. -/
def frameBlocks (t : Desc) (s : SlotRec) (f : Nat) : List Nat := (List.range t.nblocks).filter (fun i => frameOf t s i = f)

/-! ### Fixed-rate code (R186, Table 8-2) -/

/-- L and F of a class. -/
def clsLF : Nat → Nat × Nat
  | 1 => (16, 3) | 2 => (8, 1) | _ => (4, 1)

/-- Code width b of a class. -/
def clsBits : Nat → Nat
  | 1 => 8 | 2 => 5 | _ => 4

/-- B[0] to B[L] of a table set. -/
def codebook (cls : Nat) (tbl : List Byte) : List Fp :=
  Fp.zero :: (List.range ((clsLF cls).1 - 1)).map (fun i => Fmt.fp16.elem (leAt tbl (2 * i) 2)) ++ [Fp.ofNat 1]

/-- ⌈log2⌉ of a finite value that is not 0. -/
def ceilLog2 : Fp → Int
  | .fin _ m e => if m = 2 ^ Nat.log2 m then log2Of m e else log2Of m e + 1
  | _ => 0

/-- SCALE of the lossy values of a block, R187's 0xFF included. -/
def lossyScale (ds : List Fp) : Nat :=
  if ds.any (fun x => !x.isFin) then 0xFF
  else
    let a := ds.foldl maxMag Fp.zero
    if a.isZero then 0 else (max (-127) (min 127 (ceilLog2 a)) + 127).toNat

/-- u of R186. -/
def lossyU (sc : Nat) (x : Fp) : Fp := Fp.min ((x.abs.mul (Fp.pow2 (127 - (sc : Int)))).r32) (Fp.ofNat 1)

/-- Code one position under SCALE `sc`. -/
def lossyEncode (cls : Nat) (b : List Fp) (sc : Nat) (x : Fp) : Nat :=
  let L := (clsLF cls).1
  let F := (clsLF cls).2
  let u := lossyU sc x
  let i := (((List.range L).reverse).find? (fun i => (b.getD i .nan).le u)).getD 0
  let q := ((u.sub32 (b.getD i .nan)).div32 ((b.getD (i + 1) .nan).sub32 (b.getD i .nan))).mul32 (Fp.ofNat (2 ^ F))
  let f := min q.floor.toNat (2 ^ F - 1)
  (if x.neg? then 2 ^ F * L else 0) + i * 2 ^ F + f

/-- The value of a code. -/
def lossyDecode (cls : Nat) (b : List Fp) (sc code : Nat) : Fp :=
  let L := (clsLF cls).1
  let F := (clsLF cls).2
  let i := code / 2 ^ F % L
  let f := code % 2 ^ F
  if i = 0 && f = 0 then Fp.zero
  else
    let s := ((Fp.ofNat f).add32 (.fin false 1 (-1))).div32 (Fp.ofNat (2 ^ F))
    let v := ((b.getD i .nan).add32 (s.mul32 ((b.getD (i + 1) .nan).sub32 (b.getD i .nan)))).mul32 (Fp.pow2 ((sc : Int) - 127))
    if code / 2 ^ F / L = 1 then v.negate else v

/-- `out` of R186: prediction plus value, narrowed to FMT with RND 1 and SAT 1. -/
def reconstruct (f : Fmt) (pred v : Fp) : Nat := (f.narrow .nearest true (pred.add32 v)).1

/-! ### Lossless path (R189) -/

/-- Residual bytes in byte planes, most significant first. -/
def planes (n : Nat) (rs : List Nat) : List (List Nat) := (List.range n).map (fun p => rs.map (fun r => r / 256 ^ (n - 1 - p) % 256))

/-- The coded part, or none where a symbol has no code. -/
def codePart (n : Nat) (rs : List Nat) (tbl : List Byte) : Option (List Byte) :=
  let h := bytesToLens ((tbl.drop 0x40).take 128)
  let l := bytesToLens ((tbl.drop 0xC0).take 128)
  let ps := planes n rs
  let coded (lens : List Nat) (syms : List Nat) : Option (List Bool) :=
    if syms.any (fun s => lens.getD s 0 = 0) then none else some (syms.flatMap (symBits lens))
  match coded h (ps.headD []), coded l (ps.drop 1).flatten with
  | some a, some b => some (packBits ((a ++ b).length) (a ++ b))
  | _, _ => none

/-- The residuals of a raw part. -/
def rawResiduals (n k : Nat) (l : List Byte) : List Nat := (List.range k).map (fun i => leAt l (n * i) n)

/-- What the decoding of a coded part finds: the residuals, or which check of R203 fails: 4 (LEN) or 5 (COUNT). -/
def decodePart (n k : Nat) (l tbl : List Byte) : List Nat ⊕ Nat :=
  let h := bytesToLens ((tbl.drop 0x40).take 128)
  let lo := bytesToLens ((tbl.drop 0xC0).take 128)
  match readSyms h k (unpackBits l) with
  | none => .inr 5
  | some (a, r) => match readSyms lo ((n - 1) * k) r with
    | none => .inr 5
    | some (b, r) =>
      if r.length ≥ 8 || r.any (· = true) then .inr 4
      else .inl ((List.range k).map (fun i =>
        (List.range n).foldl (fun acc p => 256 * acc + (if p = 0 then a.getD i 0 else b.getD ((p - 1) * k + i) 0)) 0))

/-! ### Predictions (R192 to R195) -/

/-- The address of an element's place in a reconstruction buffer, which holds one frame densely. -/
def rbAddr (t : Desc) (s : SlotRec) (n : Nat) (idx : List Nat) : Nat :=
  let f : Desc := { t with size := t.size.set s.fdim 1 }
  s.rb n + f.eOf (idx.set s.fdim 0) * t.esize

/-- Read one element of a reconstruction buffer: its code and its mark. -/
def Dev.readRb (d : Dev) (src : Nat) (t : Desc) (s : SlotRec) (p n : Nat) (idx : List Nat) : (Nat × Bool) × Dev :=
  let r := d.readMem ⟨some p, src⟩ (rbAddr t s n idx) t.esize
  ((ofLe r.1.bytes, r.1.data.any (·.2)), r.2)

/-- The element that motion displaces indices `idx` of frame `f` to (R193). -/
def Dev.displaced (d : Dev) (src : Nat) (t : Desc) (s : SlotRec) (p f : Nat) (idx : List Nat) : List Nat × Dev :=
  let xd := s.fld 9 1
  let yd := s.fld 10 1
  let x := idx.getD xd 0
  let y := idx.getD yd 0
  let msx := Fp.ofBits (s.fld 0x38 4)
  let msy := Fp.ofBits (s.fld 0x3C 4)
  let blk (v : Nat) (ms : Fp) (lim : Nat) : Nat :=
    (min (((((Fp.ofNat v).add32 (.fin false 1 (-1))).div32 ms).floor) / 16) ((lim : Int) - 1)).toNat
  let bx := blk x msx (s.fld 0x34 2)
  let by_ := blk y msy (s.fld 0x36 2)
  let r := d.readMem ⟨some p, src⟩ (s.fld 0x28 8 + f * s.fld 0x30 4 + (by_ * s.fld 0x34 2 + bx) * 8) 8
  let ax := leAt r.1.bytes 0 2
  let ay := leAt r.1.bytes 2 2
  let mv (a : Nat) (ms : Fp) : Int := (((Fp.ofInt (signed 16 a)).mul32 ms).div32 (Fp.ofNat 4)).roundAway
  let dx := if ax = 0x8000 then 0 else mv ax msx
  let dy := if ax = 0x8000 then 0 else mv ay msy
  let cl (v : Int) (n : Nat) : Nat := (max 0 (min v ((n : Int) - 1))).toNat
  ((idx.set xd (cl (x + dx) (t.size.getD xd 1))).set yd (cl (y + dy) (t.size.getD yd 1)), r.2)

/-- The predictions of the 256 positions of block `i` under MODE 0 INTRA, 1 COLOC, 2 MOTION; positions beyond N predict 0. -/
def Dev.predict (d : Dev) (src : Nat) (t : Desc) (s : SlotRec) (p i mode : Nat) : List (Nat × Bool) × Dev :=
  let f := frameOf t s i
  if mode = 0 || f = 0 then (List.replicate 256 (0, false), d)
  else (List.range 256).foldl (fun (r : List (Nat × Bool) × Dev) j =>
    let e := 256 * i + j
    if t.count ≤ e then (r.1 ++ [(0, false)], r.2)
    else
      let idx := t.idxOf e
      let m := if mode = 2 then r.2.displaced src t s p f idx else (idx, r.2)
      let x := m.2.readRb src t s p ((f + 1) % 2) m.1
      (r.1 ++ [x.1], x.2)) ([], d)

/-- The cost of predictions (R192): Σ |x − p| in FP32 in increasing position; a term that is not finite makes it +Inf. -/
def predCost (f : Fmt) (xs ps : List Nat) : Fp :=
  let ts := (xs.zip ps).map (fun e => ((f.elem e.1).sub32 (f.elem e.2)).abs)
  if ts.any (fun x => !x.isFin) then .inf false else ts.foldl Fp.add32 Fp.zero

/-! ### Coding a block (R185, R190) -/

/-- The parts of a block's stored form. -/
def Desc.hdrAddr (t : Desc) (i : Nat) : Nat := t.base + 8 * i
/-- lossy(i). -/
def Desc.lossyAddr (t : Desc) (i : Nat) : Nat := t.base + t.hdrBytes + i * lossyBytes t.cls
/-- part(i) at LOFF. -/
def Desc.partAddr (t : Desc) (loff : Nat) : Nat := t.base + t.hdrBytes + t.lossyArea + loff

/-- A block header (Table 8-3). -/
def blockHeader (scale code mode : Nat) (poison raw : Bool) (llen loff : Nat) : Nat :=
  scale + 2 ^ 8 * code + 2 ^ 12 * mode + (if poison then 2 ^ 14 else 0) + 2 ^ 15 + (if raw then 2 ^ 16 else 0)
    + 2 ^ 18 * (llen % 2048) + 2 ^ 32 * (loff % 2 ^ 32)

/-- The lossy codes of a block as bytes: element j at bits [b·j + b − 1 : b·j]. -/
def lossyPack (cls : Nat) (cs : List Nat) : List Byte :=
  leBytes (lossyBytes cls) (cs.foldr (fun c acc => c + 2 ^ clsBits cls * acc) 0)

/-- Write a frame's element into its reconstruction buffer. -/
def Dev.writeRb (d : Dev) (src : Nat) (t : Desc) (s : SlotRec) (p n e code : Nat) (bad : Bool) : Dev :=
  (d.writeMem ⟨some p, src⟩ (rbAddr t s n (t.idxOf e)) ((leBytes t.esize code).map (·, bad))).2

/-- Begin block of frame `f` in RB(f mod 2) and count it (R194). -/
def Dev.countRb (d : Dev) (src p slot f : Nat) : Dev :=
  let s := d.readSlot src p slot
  let n := f % 2
  if s.1.tag n ≠ f then (s.2.pokeSlot src p slot (0x50 + 4 * n) 4 f).pokeSlot src p slot (0x58 + 4 * n) 4 1
  else s.2.pokeSlot src p slot (0x58 + 4 * n) 4 (s.1.cnt n + 1)

/-- Engine `e` codes block `j.blk` (R185): its lossless part, its lossy block, then its header. Answers the first address of
the block at which a write was refused (R250). -/
def Dev.encodeBlock (d : Dev) (e : Nat) (j : TrwJob) : Option Nat × Dev :=
  let src := trwSrc e
  let t := j.desc
  let p := j.part
  let i := j.blk
  let acc : Acc := ⟨some p, src⟩
  let sl := d.readSlot src p j.slot
  let s := sl.1
  let d := sl.2
  let xs := j.vals.map (·.1)
  let f := frameOf t s i
  let base := s.baseCoat f
  let whole := s.tag ((f + 1) % 2) = f - 1 && s.bpf ≤ s.cnt ((f + 1) % 2)
  let intraOnly := !t.delta || base || !whole
  -- the predictor of least cost, ties to COLOC, then MOTION, then INTRA
  let col := if intraOnly then (List.replicate 256 (0, false), d) else d.predict src t s p i 1
  let mot := if intraOnly || s.fld 0x28 8 = 0 then (col.1, col.2) else col.2.predict src t s p i 2
  let cost (l : List (Nat × Bool)) : Fp := predCost t.fmt xs (l.map (·.1))
  let zero : List (Nat × Bool) := List.replicate 256 (0, false)
  let mode : Nat :=
    if intraOnly then 0
    else
      let c1 := cost col.1
      let c0 := cost zero
      if s.fld 0x28 8 = 0 then (if c1.le c0 then 1 else 0)
      else
        let c2 := cost mot.1
        if c1.le c2 && c1.le c0 then 1 else if c2.le c0 then 2 else 0
  let pred := if mode = 1 then col.1 else if mode = 2 then mot.1 else zero
  let d := mot.2
  let d := if t.delta && !base && !whole then
      (d.addSat (rTrwIntraCount e) 1).trwErr e 6 p j.slot j.src i else d
  let poison := j.vals.any (·.2) || pred.any (·.2)
  let d := if poison then d.trwErr e 7 p j.slot j.src i else d
  -- lossy path
  let tables := s.tables
  let noTable := t.cls ≠ 4 && !s.tbl
  let ds := (List.range 256).map (fun k =>
    (t.fmt.elem (xs.getD k 0)).sub32 (t.fmt.elem ((pred.getD k (0, false)).1)))
  let lp := t.lossyPos i
  let sc := if t.cls = 4 then 0 else
    if lp.any (fun k => !(t.fmt.elem (xs.getD k 0)).isFin) then 0xFF else lossyScale (lp.map (fun k => ds.getD k .nan))
  let b := codebook t.cls tables
  let code (k : Nat) : Nat := if lp.contains k && sc ≠ 0xFF && sc ≠ 0 then lossyEncode t.cls b sc (ds.getD k .nan) else 0
  -- a block whose amax is 0 has SCALE 0 and codes 0; SCALE 0 with other values codes them
  let amax0 := (lp.map (fun k => ds.getD k .nan)).all Fp.isZero
  let code (k : Nat) : Nat := if sc = 0 && !amax0 && lp.contains k then lossyEncode t.cls b 0 (ds.getD k .nan) else code k
  let d := if sc = 0xFF && t.cls ≠ 4 then d.addSat (rTrwNonfiniteCount e) 1 else d
  -- lossless path
  let ll := t.llPos i
  let rs := ll.map (fun k => xs.getD k 0 ^^^ (pred.getD k (0, false)).1)
  let rawBytes := rs.flatMap (leBytes t.esize)
  let coded := if s.tbl then codePart t.esize rs tables else none
  let part : List Byte × Bool := match coded with
    | some c => if c.length < rawBytes.length then (c, false) else (rawBytes, true)
    | none => (rawBytes, true)
  let part : List Byte × Bool := if ll.isEmpty || noTable then ([], false) else part
  let d := if part.2 then d.addSat (rTrwRawCount e) 1 else d
  let alloc := s.fld 0x20 8
  let fits := alloc + part.1.length ≤ s.fld 0x18 8
  let d := if part.1.isEmpty then d else d.pokeSlot src p j.slot 0x20 8 (alloc + part.1.length)
  let d := if fits then d else d.trwErr e 5 p j.slot j.src i
  let d := if noTable then d.trwErr e 4 p j.slot j.src i else d
  let keep := fits && !part.1.isEmpty
  let w1 := if keep then d.writeMem acc (t.partAddr alloc) (clean part.1) else (none, d)
  let lossy := lossyPack t.cls ((List.range 256).map code)
  let w2 := if t.cls = 4 || noTable then (none, w1.2) else w1.2.writeMem acc (t.lossyAddr i) (clean lossy)
  let hdr := blockHeader sc (if s.tbl then s.gen else 0) mode (poison || noTable || !fits) (part.2 && keep)
    (if keep then part.1.length else 0) (if keep then alloc else 0)
  let w3 := w2.2.writeMem acc (t.hdrAddr i) (clean (leBytes 8 hdr))
  let d := w3.2
  -- reconstruction (R194), and HF
  let d := if !t.delta then d
    else
      let n := f % 2
      let d := d.each ((List.range 256).filter (fun k => 256 * i + k < t.count)) (fun d k =>
        let pv := (pred.getD k (0, false)).1
        let out := if ll.contains k then xs.getD k 0
          else if sc = 0xFF then t.fmt.nanCode
          else reconstruct t.fmt (t.fmt.elem pv) (lossyDecode t.cls b sc (code k))
        d.writeRb src t s p n (256 * i + k) out (poison || noTable || !fits))
      let d := d.countRb src p j.slot f
      if s.fld 0x60 4 < f then d.pokeSlot src p j.slot 0x60 4 f else d
  (first w1.1 (first w2.1 w3.1),
    (d.add64 (rTrwInBytesLo e) ((min 256 (t.count - 256 * i)) * t.esize)).add64 (rTrwOutBytesLo e)
      ((if keep then part.1.length else 0) + (if noTable then 0 else lossyBytes t.cls) + 8))

/-! ### Decoding a block (R203, R204) -/

/-- A damaged block: its error bit, its capture, its count and its records. -/
def Dev.trwDamage (d : Dev) (e bit p slot src blk a : Nat) : Dev :=
  (((d.trwErr e bit p slot src blk).addSat (rTrwDamageCount e) 1).flw 2 bit (trwSrc e) blk).ledger 7 (trwSrc e) a 0 0

/-- Check and decode one stored block of a slot, with its predictions taken from the reconstruction buffers. -/
def Dev.decodeStored (d : Dev) (e p slot src : Nat) (t : Desc) (i : Nat) : List (Nat × Bool) × Dev :=
  let esrc := trwSrc e
  let acc : Acc := ⟨some p, esrc⟩
  let sl := d.readSlot esrc p slot
  let s := sl.1
  let h := sl.2.readMem acc (t.hdrAddr i) 8
  let w := ofLe h.1.bytes
  let scale := w % 256
  let code := nfld 11 8 w
  let mode := nfld 13 12 w
  let raw := w.testBit 16
  let llen := nfld 28 18 w
  let loff := w / 2 ^ 32
  let ll := t.llPos i
  let k := ll.length
  let dead (d : Dev) : List (Nat × Bool) × Dev := (List.replicate 256 (0, true), d)
  let damage (d : Dev) (bit : Nat) : List (Nat × Bool) × Dev := dead (d.trwDamage e bit p slot src i (t.hdrAddr i))
  if h.1.bad.isSome then dead h.2
  else if !w.testBit 15 then damage h.2 3
  else if mode = 3 then damage h.2 2
  else if !(code = s.gen || (code = 0 && t.cls = 4 && raw)) then damage h.2 2
  else if w.testBit 14 then dead h.2
  else if s.fld 0x20 8 < loff + llen then damage h.2 0
  else
    let part := h.2.readMem acc (t.partAddr loff) llen
    let lossy := part.2.readMem acc (t.lossyAddr i) (lossyBytes t.cls)
    let res : List Nat ⊕ Nat :=
      if raw then (if llen = k * t.esize then .inl (rawResiduals t.esize k part.1.bytes) else .inr 5)
      else if k = 0 then (if llen = 0 then .inl [] else .inr 4)
      else decodePart t.esize k part.1.bytes s.tables
    match res with
    | .inr c => damage lossy.2 (if c = 5 then 1 else 0)
    | .inl rs =>
      let pr := lossy.2.predict esrc t s p i mode
      let b := codebook t.cls s.tables
      let bits := ofLe lossy.1.bytes
      let bad := part.1.bad.isSome || lossy.1.bad.isSome || pr.1.any (·.2)
      let vals := (List.range 256).map (fun j =>
        let pv := (pr.1.getD j (0, false)).1
        match ll.findIdx? (· = j) with
        | some n => (rs.getD n 0 ^^^ pv, bad)
        | none =>
          let c := bits / 2 ^ (clsBits t.cls * j) % 2 ^ clsBits t.cls
          (if scale = 0xFF then t.fmt.nanCode
            else reconstruct t.fmt (t.fmt.elem pv) (lossyDecode t.cls b scale c), bad))
      (vals, (pr.2.add64 (rTrwInBytesLo e) ((min 256 (t.count - 256 * i)) * t.esize)).add64 (rTrwOutBytesLo e)
        (llen + lossyBytes t.cls + 8))

/-- Decode frame `f` whole into its reconstruction buffer (R196). -/
def Dev.chainFrame (d : Dev) (e p slot src : Nat) (t : Desc) (f : Nat) : Dev :=
  let sl := d.readSlot (trwSrc e) p slot
  let s := sl.1
  let n := f % 2
  let d := (frameBlocks t s f).foldl (fun (d : Dev) i =>
    let x := d.decodeStored e p slot src t i
    x.2.each x.1.zipIdx (fun d v => d.writeRb (trwSrc e) t s p n (256 * i + v.2) v.1.1 v.1.2)) sl.2
  ((d.pokeSlot (trwSrc e) p slot (0x50 + 4 * n) 4 f).pokeSlot (trwSrc e) p slot (0x58 + 4 * n) 4 s.bpf).addSat
    (rTrwChainFrames e) 1

/-- Decode block `i` for a requester: a delta tensor's block is served from its frame's reconstruction buffer, which is
filled from the nearest complete frame or base coat where it does not hold the frame (R196). -/
def Dev.decodeBlock (d : Dev) (e p slot src : Nat) (t : Desc) (i : Nat) : List (Nat × Bool) × Dev :=
  if !t.delta then d.decodeStored e p slot src t i
  else
    let sl := d.readSlot (trwSrc e) p slot
    let s := sl.1
    let f := frameOf t s i
    let complete (g : Nat) : Bool := s.tag (g % 2) = g && s.bpf ≤ s.cnt (g % 2)
    let d :=
      if complete f then sl.2
      else
        let base := s.baseOf f
        let from_ := ((rangeFrom base (f - base)).reverse.find? complete).map (· + 1)
        let start := from_.getD base
        sl.2.each (rangeFrom start (f + 1 - start)) (fun d g => d.chainFrame e p slot src t g)
    (List.range 256).foldl (fun (r : List (Nat × Bool) × Dev) j =>
      if t.count ≤ 256 * i + j then (r.1 ++ [(0, false)], r.2)
      else
        let x := r.2.readRb (trwSrc e) t s p (f % 2) (t.idxOf (256 * i + j))
        (r.1 ++ [x.1], x.2)) ([], d)

/-! ### Tables (R199, R200, R202) -/

/-- The codebook built from a sample's lossy values of u, as B[1] to B[L − 1] in units of 1/256. -/
def buildBook (L : Nat) (us : List Nat) : List Nat :=
  let total := us.length
  (rangeFrom 1 (L - 1)).foldl (fun acc i =>
    let raw := if total = 0 then i * 256 / L
      else ((List.range 257).find? (fun m => i * total ≤ L * (us.filter (· < m)).length)).getD 256
    acc ++ [min (max raw ((acc.getLast?.getD 0) + 1)) (256 - L + i)]) []

/-- m / 256 as an FP16 code. -/
def bookCode (m : Nat) : Nat := (Fmt.fp16.narrow .nearest true (.fin false m (-8))).1

/-- The table set that a sample builds: the codebook, then tables H and L. -/
def buildTables (t : Desc) (sample : List TrwJob) : List Byte :=
  let L := (clsLF t.cls).1
  let us := sample.flatMap (fun j =>
    let xs := (t.lossyPos j.blk).map (fun k => t.fmt.elem ((j.vals.getD k (0, false)).1))
    let sc := lossyScale xs
    if sc = 0xFF then [] else (xs.filter (fun x => !x.isZero)).map (fun x =>
      min 255 ((lossyU sc x).mul (Fp.ofNat 256)).floor.toNat))
  let rs := sample.flatMap (fun j => (t.llPos j.blk).map (fun k => (j.vals.getD k (0, false)).1))
  let ps := planes t.esize rs
  let hist (l : List Nat) : List Nat := histogram (l.map (BitVec.ofNat 8))
  let book := if t.cls = 4 then [] else (buildBook L us).flatMap (fun m => leBytes 2 (bookCode m))
  let pad := book ++ List.replicate (64 - book.length) 0
  pad ++ lensToBytes (buildLengths (hist (ps.headD []))) ++ lensToBytes (buildLengths (hist (ps.drop 1).flatten))

/-- Install a table set with generation `gen`; `loaded` sets LOADED. -/
def Dev.setTables (d : Dev) (src p slot gen : Nat) (loaded : Bool) (tbl : List Byte) : Dev :=
  let s := d.readSlot src p slot
  let st := s.1.fld 0 4 % 4 + 4 + (if loaded then 8 else 0) + 256 * gen
  (s.2.writeMem ⟨some p, src⟩ (d.slotAddr p slot + 0xC0) (clean (tbl.take 320))).2.pokeSlot src p slot 0 4 st

/-! ### Operands of a transfer (R181) -/

/-- Is Trowel enabled for partition `p`? -/
def Dev.trwOn (d : Dev) (p : Nat) : Bool := bitOf 0 (d.rd (rTrwPctl p))

/-- Is Trowel on for a TROWEL command: EN is 1, or the command was dispatched before the clear of EN that waits for it
(R209)? -/
def Dev.trwOnFor (d : Dev) (x : Inflight) : Bool :=
  d.trwOn x.part || x.before d.trw.closing

/-- Does a compressed operand meet R181: Trowel enabled (`on`), its slot OPEN, and its fields those recorded at SINIT? -/
def Dev.clsOk (d : Dev) (on : Bool) (p : Nat) (t : Desc) : Bool × Dev :=
  if t.cls = 0 then (true, d)
  else if !on then (false, d)
  else
    let sl := d.readSlot (trwSrc (d.trwHubEngine p)) p t.tslot
    let s := sl.1
    let maskBytes := (s.fld 6 1).testBit 1
    let n := t.size.getD t.chdim 0
    let same := s.fld 4 1 = t.fmt.code && s.fld 5 1 = t.cls && (s.fld 6 1).testBit 0 = t.delta
      && s.fld 11 1 = t.chdim && s.fld 0x10 8 = t.base
      && maskBytes = (t.pmask ≠ 0)
    let m := sl.2.readMem ⟨some p, trwSrc (d.trwHubEngine p)⟩ (s.addr + 0x200) 512
    let sameMask := t.cls = 4 || !maskBytes || ((maskChannels m.1.bytes).filter (· < n)) = t.mask
    (s.isOpen && same && sameMask, m.2)

end Sys2Proof.Machine
end

