-- ==== Sys2Proof/Machine/Transfer.lean ====
section
/-! DEFINITION. Moving a tensor (R98, R248): the index map, compressed operands through a Trowel engine, conversion, and what
the move reports. -/

namespace Sys2Proof.Machine

/-! ### Engine queues (R179) -/

/-- The input queue of engine `e`. -/
def Dev.trwQueue (d : Dev) (e : Nat) : List TrwJob := sget (fun _ => []) d.trw.queues e

/-- The running or gathering build of engine `e`. -/
def Dev.trwBuild (d : Dev) (e : Nat) : Option TrwBuild := sget (fun _ => none) d.trw.builds e

/-- Bytes of a block in an input queue: of a block to be coded its 256 elements; of one to be decoded its header, its lossy
block and its lossless part at the length it has raw (log 72). -/
def TrwJob.bytes (j : TrwJob) : Nat :=
  if j.enc then 256 * j.desc.esize
  else 8 + lossyBytes j.desc.cls + (j.desc.llPos j.blk).length * j.desc.esize

/-- The blocks that fit an input queue of 1 MiB, and those that its producers hold back (R179). -/
def trwFit : Nat → List TrwJob → List TrwJob × List TrwJob
  | _, [] => ([], [])
  | room, j :: q =>
    if j.bytes ≤ room then
      let r := trwFit (room - j.bytes) q
      (j :: r.1, r.2)
    else ([], j :: q)

/-- The blocks in the input queue proper. -/
def trwInput (q : List TrwJob) : List TrwJob := (trwFit 1048576 q).1

/-- Is a producer held back by a full queue? -/
def trwFull (q : List TrwJob) : Bool := !(trwFit 1048576 q).2.isEmpty

/-- `n` cycles of an engine's clock pass, each of which counts in TRW_STALL while a producer of engine `e` is held back. -/
def Dev.trwStall (d : Dev) (n e : Nat) : Dev :=
  if trwFull (sget (fun _ => []) d.trw.queues e) then d.add64 (rTrwStallLo e) n else d

/-- TRW_STATUS and TRW_QUEUE_USE of engine `e` follow its queue and its build. CHAIN reads 0: a chain decode lies within one
BLOCK_DECODE. -/
def Dev.trwStat (d : Dev) (e : Nat) : Dev :=
  let q := d.trwQueue e
  let b := d.trwBuild e
  let d := d.wr (rTrwStatus e) (setBit 0 (!q.isEmpty || b.isSome) (setBit 1 (b.any (·.started)) (d.rd (rTrwStatus e))))
  d.wr (rTrwQueueUse e) (BitVec.ofNat 32 ((trwInput q).map TrwJob.bytes).sum)

/-- Set the input queue of engine `e`. -/
def Dev.setTrwQueue (d : Dev) (e : Nat) (q : List TrwJob) : Dev :=
  ({ d with trw := { d.trw with queues := sset (fun _ => []) d.trw.queues e q } }).trwStat e

/-- Set the build of engine `e`. -/
def Dev.setTrwBuild (d : Dev) (e : Nat) (b : Option TrwBuild) : Dev :=
  ({ d with trw := { d.trw with builds := sset (fun _ => none) d.trw.builds e b } }).trwStat e

/-- Append blocks to the input queue of engine `e`. -/
def Dev.trwPush (d : Dev) (e : Nat) (js : List TrwJob) : Dev := if js.isEmpty then d else d.setTrwQueue e (d.trwQueue e ++ js)

/-- Blocks of a requester that an engine still holds, in a queue or in a sample. -/
def Dev.trwHolds (d : Dev) (r : TrwReq) : Bool :=
  d.trw.queues.any (fun e => e.2.any (·.req = r))
    || d.trw.builds.any (fun e => match e.2 with
      | some b => b.sample.any (·.req = r)
      | none => false)

/-- Blocks of a slot that an engine still holds (R207). -/
def Dev.trwHoldsSlot (d : Dev) (p slot : Nat) : Bool :=
  d.trw.queues.any (fun e => e.2.any (fun j => j.part = p && j.slot = slot))
    || d.trw.builds.any (fun e => match e.2 with
      | some b => b.part = p && b.slot = slot
      | none => false)

/-- Blocks of a requester that wait to be decoded. -/
def Dev.trwDecoding (d : Dev) (r : TrwReq) : Bool := d.trw.queues.any (fun e => e.2.any (fun j => j.req = r && !j.enc))

/-- Forget the decoded blocks of a requester. -/
def Dev.trwDrop (d : Dev) (r : TrwReq) : Dev := { d with trw := { d.trw with out := d.trw.out.filter (·.req ≠ r) } }

/-- Take the refused write that an engine has noted for a requester (R250). -/
def Dev.trwTakeBad (d : Dev) (r : TrwReq) : Option Nat × Dev :=
  match (d.trw.bad.find? (·.1 = r)).map (·.2) with
  | none => (none, d)
  | some a => (some a, { d with trw := { d.trw with bad := d.trw.bad.filter (·.1 ≠ r) } })

/-! ### A transfer -/

/-- A transfer between two tensors (R98). -/
structure Xfer where
  dst : Desc
  src : Desc
  perm : List Nat
  offs : List Int
  store : Bool            -- the index space is the source's (TSTORE)
  req : TrwReq
  acc : Acc
  chunk : Nat             -- bytes of a request at most
  rnd : RndCtx
  epoch : Word
  engine : Nat
  build : Bool
  deriving DecidableEq, Repr

/-- No permutation. -/
def permId : List Nat := [0, 1, 2, 3, 4, 5]

/-- The six PERM fields. -/
def permOf (w : Nat) : List Nat := (List.range 6).map (fun k => nfld (3 * k + 2) (3 * k) w)

/-- Indices that a permutation and offsets give to `idx`: index k, with its offset, goes to dimension perm k. -/
def mapIdx (perm : List Nat) (offs : List Int) (idx : List Nat) : List Int :=
  (List.range 6).map (fun m =>
    match perm.findIdx? (· = m) with
    | some k => (idx.getD k 0 : Int) + offs.getD k 0
    | none => 0)

/-- Do indices lie within sizes? -/
def inSizes (size : List Nat) (idx : List Int) : Bool := (size.zip idx).all (fun p => 0 ≤ p.2 && p.2 < p.1)

/-- Pairs of destination indices and source indices; no source indices where PAD is supplied. -/
def Xfer.pairs (x : Xfer) : List (List Nat × Option (List Nat)) :=
  let nat (l : List Int) : List Nat := l.map Int.toNat
  if x.store then
    (List.range x.src.count).filterMap (fun e =>
      let i := x.src.idxOf e
      let m := mapIdx x.perm x.offs i
      if inSizes x.dst.size m then some (nat m, some i) else none)
  else
    (List.range x.dst.count).map (fun e =>
      let i := x.dst.idxOf e
      let m := mapIdx x.perm x.offs i
      (i, if inSizes x.src.size m then some (nat m) else none))

/-- The tensor with BASE at the bank in use. -/
def Desc.banked (t : Desc) (epoch : Word) : Desc := { t with base := t.org epoch, eb := 0 }

/-- Source blocks that a compressed source needs. -/
def Xfer.srcBlocks (x : Xfer) : List Nat :=
  if x.src.cls = 0 then [] else sortNat (x.pairs.filterMap (fun p => p.2.map (fun i => x.src.eOf i / 256)))

/-- Does the transfer write only whole blocks of a compressed destination (R181)? -/
def Xfer.wholeBlocks (x : Xfer) : Bool :=
  x.dst.cls = 0 ||
    let es := sortNat (x.pairs.map (fun p => x.dst.eOf p.1))
    (sortNat (es.map (· / 256))).all (fun b => ((rangeFrom (256 * b) 256).filter (· < x.dst.count)).all es.contains)

/-- Hand the source's blocks to the engine. -/
def Dev.xferBegin (d : Dev) (x : Xfer) : Dev :=
  d.trwPush x.engine (x.srcBlocks.map (fun b => {
    req := x.req, src := x.acc.src, part := x.acc.part.getD 0, slot := x.src.tslot, desc := x.src.banked x.epoch, blk := b,
    enc := false, vals := [], build := x.build }))

/-- What a transfer reports: flags, where it first read poison or was refused a read, where it was first refused a write, the
bytes it wrote itself, and whether any read was refused or read poison. -/
structure XferRes where
  flags : List ArithFlag
  readBad : Option Nat
  writeBad : Option Nat
  done : Nat
  refused : Bool
  poison : Bool
  deriving DecidableEq, Repr

/-- The elements of the source, for class NONE from memory and otherwise from the blocks the engine has delivered. -/
def Dev.xferRead (d : Dev) (x : Xfer) (idxs : List (List Nat)) : ElemRd × Dev :=
  if x.src.cls = 0 then d.readElems x.acc x.chunk x.src (x.src.org x.epoch) (idxs.map x.src.siOf)
  else
    let mine := d.trw.out.filter (·.req = x.req)
    let blk (b : Nat) : List (Nat × Bool) := ((mine.find? (·.blk = b)).map (·.vals)).getD []
    let els := idxs.map (fun i =>
      let e := x.src.eOf i
      let v := (blk (e / 256)).getD (e % 256) (0, true)
      (⟨v.1, 127, v.2⟩ : Elem))
    let bad := ((idxs.zip els).find? (fun p => p.2.bad)).map (fun p => (x.src.banked x.epoch).hdrAddr (x.src.eOf p.1 / 256))
    (⟨els, bad, false, bad.isSome⟩, d)

/-- Write a compressed destination: each block's 256 positions go to the engine, those beyond N as 0. -/
def Dev.xferEncode (d : Dev) (x : Xfer) (os : List OutEl) : ElemWr × Dev :=
  let t := x.dst
  let cs := os.map (fun o =>
    let e := t.eOf o.idx
    let k := o.v.code t (x.rnd.mode t e e)
    (e, k, o.bad))
  let blocks := sortNat (cs.map (fun c => c.1 / 256))
  let js := blocks.map (fun b => ({
    req := x.req, src := x.acc.src, part := x.acc.part.getD 0, slot := t.tslot, desc := t.banked x.epoch, blk := b, enc := true,
    vals := (rangeFrom (256 * b) 256).map (fun e => match cs.reverse.find? (fun c => c.1 = e) with
      | some c => (c.2.1.1, c.2.2)
      | none => (0, false)),
    build := x.build } : TrwJob))
  (⟨cs.map (fun c => c.2.1.2), none, 0, none, false, false⟩, d.trwPush x.engine js)

/-- Move the elements: the source's blocks, if it has any, have been delivered. -/
def Dev.xferRun (d : Dev) (x : Xfer) : XferRes × Dev :=
  let ps := x.pairs
  let rd := d.xferRead x (ps.filterMap (·.2))
  let same := x.src.fmt = x.dst.fmt && !x.dst.fmt.isMx
  -- put the source elements back in line with the pairs
  let lined := (ps.foldl (fun (acc : List (List Nat × Elem) × List Elem) p => match p.2 with
    | some _ => (acc.1 ++ [(p.1, acc.2.headD ⟨0, 127, false⟩)], acc.2.drop 1)
    | none => (acc.1 ++ [(p.1, x.src.padElem)], acc.2)) ([], rd.1.els)).1
  let out (p : List Nat × Elem) : OutEl × ArithFlag :=
    if same then (⟨p.1, .raw p.2.code, p.2.bad⟩, .none)
    else
      let v := p.2.widen x.src.fmt (x.rnd.mode x.dst (x.dst.eOf p.1) (x.dst.siOf p.1))
      (⟨p.1, .num v.1, p.2.bad⟩, v.2)
  let os := lined.map out
  let w := if x.dst.cls = 0 then
      rd.2.writeElems x.acc x.chunk x.dst (x.dst.org x.epoch) x.rnd (os.map (·.1))
    else rd.2.xferEncode x (os.map (·.1))
  (⟨os.map (·.2) ++ w.1.flags, first rd.1.bad w.1.oldBad, w.1.bad, w.1.done, rd.1.refused || w.1.oldRefused || w.1.bad.isSome,
    rd.1.poison || w.1.oldPoison⟩, w.2.trwDrop x.req)

end Sys2Proof.Machine
end

