-- ==== Sys2Proof/Machine/Tensor.lean ====
section
/-! DEFINITION. What each tensor instruction computes (R97 to R109) on operands read from memory. -/

namespace Sys2Proof.Machine

/-- What an instruction reports when it has run: flags, poison read, a refused write, out-of-range indices, MACs, and
whether TSEG found its ids unsorted. -/
structure TRes where
  flags : List ArithFlag
  readBad : Option Nat
  writeBad : Option Nat
  idx : Nat
  macs : Nat
  unsorted : Bool
  deriving DecidableEq, Repr

/-- Nothing to report. -/
def TRes.none : TRes := ⟨[], .none, .none, 0, 0, false⟩

/-- What an instruction runs with: its access, EPOCH and rounding. -/
structure TCtx where
  acc : Acc
  epoch : Word
  rnd : RndCtx
  deriving DecidableEq, Repr

/-- An operand that has been read whole. -/
structure Opn where
  t : Desc
  els : List Elem
  deriving DecidableEq, Repr

/-- Read an operand whole; the second answer is the first poisoned or refused address. -/
def Dev.getOpn (d : Dev) (x : TCtx) (t : Desc) : (Opn × Option Nat) × Dev :=
  let r := d.readElems x.acc 2048 t (t.org x.epoch) ((List.range t.count).map (fun e => t.siOf (t.idxOf e)))
  ((⟨t, r.1.els⟩, r.1.bad), r.2)

/-- The element at indices. -/
def Opn.at (o : Opn) (idx : List Nat) : Elem := o.els.getD (o.t.eOf idx) ⟨0, 127, false⟩

/-- The exact value at indices. -/
def Opn.exact (o : Opn) (idx : List Nat) : Fp := (o.at idx).exact o.t.fmt

/-- The rounding in effect for element `i` of a destination (R76). -/
def TCtx.mode (x : TCtx) (td : Desc) (i : List Nat) : Rounding := x.rnd.mode td (td.eOf i) (td.siOf i)

/-- The widened value at indices; an INT32 rounds under the rounding in effect for the result that it goes into (R70; log 71). -/
def Opn.val (o : Opn) (rn : Rounding) (idx : List Nat) : Fp := ((o.at idx).widen o.t.fmt rn).1

/-- The flags of widening an operand whole; rounding an INT32 sets none. -/
def Opn.flags (o : Opn) : List ArithFlag := o.els.map (fun e => (e.widen o.t.fmt .nearest).2)

/-- The code at indices as a signed 32-bit integer. -/
def Opn.int (o : Opn) (idx : List Nat) : Int := signed 32 (o.at idx).code

/-- Does any granule read carry poison, or was a read refused? -/
def firstOf (l : List (Option Nat)) : Option Nat := l.foldl first none

/-- Write results into a destination; `bad` poisons every granule written. -/
def Dev.putOpn (d : Dev) (x : TCtx) (t : Desc) (bad : Bool) (os : List (List Nat × OutVal)) : ElemWr × Dev :=
  d.writeElems x.acc 2048 t (t.org x.epoch) x.rnd (os.map (fun o => ⟨o.1, o.2, bad⟩))

/-- Every index list of a tensor, in logical order. -/
def Desc.all (t : Desc) : List (List Nat) := (List.range t.count).map t.idxOf

/-- A NaN that no NaN operand explains is an invalid operation (R74, Table 4-8). -/
def invalidOf (ins : List Fp) (r : Fp) : ArithFlag := if r.isNan && !ins.any Fp.isNan then .invalid else .none

/-! ### TMMA and TCONV (R75, R99, R100) -/

/-- The exact sum of products of one group of 32; beyond the FP32 range it is infinite. -/
def groupSum (ps : List (Fp × Fp)) : Fp :=
  let s := ps.foldl (fun acc p => acc.add (p.1.mul p.2)) Fp.zero
  if s.isFin && !s.r32.isFin then .inf s.neg? else s

/-- Split a list in groups of `n`; `fuel` bounds their number. -/
def chunksOf {α : Type} (n : Nat) : Nat → List α → List (List α)
  | 0, _ => []
  | fuel + 1, l => if l.isEmpty then [] else l.take n :: chunksOf n fuel (l.drop n)

/-- Accumulate products in groups of 32, each added with one rounding (R75), and the flags. -/
def accumulate (init : Fp) (ps : List (Fp × Fp)) : Fp × List ArithFlag :=
  (chunksOf 32 (ps.length + 1) ps).foldl (fun (a : Fp × List ArithFlag) g =>
    let s := groupSum g
    let r := a.1.add32 s
    (r, a.2 ++ [invalidOf (g.flatMap (fun p => [p.1, p.2])) s, invalidOf [a.1, s] r])) (init, [])

/-- TMMA: D = A × Bᵀ + (ACC ? D : 0). -/
def Dev.runMma (d : Dev) (x : TCtx) (acc : Bool) (td ta tb : Desc) : TRes × Dev :=
  let a := d.getOpn x ta
  let b := a.2.getOpn x tb
  let o := if acc then b.2.getOpn x td else ((⟨td, []⟩, none), b.2)
  let k := ta.size.getD 0 0
  let outs := td.all.map (fun i =>
    let n := i.getD 0 0
    let m := i.getD 1 0
    let r := accumulate (if acc then o.1.1.val (x.mode td i) i else Fp.zero)
      ((List.range k).map (fun j => (a.1.1.exact [j, m, 0, 0, 0, 0], b.1.1.exact [j, n, 0, 0, 0, 0])))
    (i, r))
  let bad := firstOf [a.1.2, b.1.2, o.1.2]
  let w := o.2.putOpn x td bad.isSome (outs.map (fun e => (e.1, .num e.2.1)))
  (⟨(if acc then o.1.1.flags else []) ++ outs.flatMap (fun e => e.2.2) ++ w.1.flags, bad, w.1.bad, 0, td.count * k, false⟩, w.2)

/-- The parameters of TCONV in TARG0 and TARG1 (R100): stride, dilation and start offset by axis. -/
structure ConvPar where
  s : List Nat
  dl : List Nat
  p : List Int
  deriving DecidableEq, Repr

/-- Read TARG0 and TARG1. -/
def convPar (t0 t1 : Nat) : ConvPar :=
  ⟨[nfld 2 0 t0 + 1, nfld 5 3 t0 + 1, nfld 8 6 t0 + 1], [nfld 11 9 t0 + 1, nfld 14 12 t0 + 1, nfld 17 15 t0 + 1],
    [signed 8 (nfld 7 0 t1), signed 8 (nfld 15 8 t1), signed 8 (nfld 23 16 t1)]⟩

/-- The reduction of one output position of TCONV: taps with t outermost and x innermost, channels padded with zeros to a
multiple of 64. -/
def convTerms (ti tw : Desc) (inp wts : Opn) (c : ConvPar) (co : Nat) (o : List Nat) : List (Fp × Fp) :=
  let cin := ti.size.getD 0 0
  (List.range (tw.size.getD 3 1)).flatMap (fun jt => (List.range (tw.size.getD 2 1)).flatMap (fun jy =>
    (List.range (tw.size.getD 1 1)).flatMap (fun jx =>
      let pos (k j : Nat) : Int := (o.getD k 0 : Int) * c.s.getD k 1 - c.p.getD k 0 + (j : Int) * c.dl.getD k 1
      let px := pos 0 jx
      let py := pos 1 jy
      let pt := pos 2 jt
      let inside := inSizes ((ti.size.drop 1).take 3) [px, py, pt]
      (List.range (alignUp 64 cin)).map (fun ch =>
        if cin ≤ ch then (Fp.zero, Fp.zero)
        else (if inside then inp.exact [ch, px.toNat, py.toNat, pt.toNat, 0, 0] else ti.padElem.exact ti.fmt,
          wts.exact [ch, jx, jy, jt, co, 0])))))

/-- TCONV. -/
def Dev.runConv (d : Dev) (x : TCtx) (acc : Bool) (c : ConvPar) (td ti tw : Desc) : TRes × Dev :=
  let a := d.getOpn x ti
  let b := a.2.getOpn x tw
  let o := if acc then b.2.getOpn x td else ((⟨td, []⟩, none), b.2)
  let outs := td.all.map (fun i =>
    (i, accumulate (if acc then o.1.1.val (x.mode td i) i else Fp.zero)
      (convTerms ti tw a.1.1 b.1.1 c (i.getD 0 0) ((i.drop 1).take 3))))
  let bad := firstOf [a.1.2, b.1.2, o.1.2]
  let w := o.2.putOpn x td bad.isSome (outs.map (fun e => (e.1, .num e.2.1)))
  (⟨(if acc then o.1.1.flags else []) ++ outs.flatMap (fun e => e.2.2) ++ w.1.flags, bad, w.1.bad, 0,
    td.count * ((tw.size.take 4).prod), false⟩, w.2)

/-! ### TVEC (R101, R102) -/

/-- The larger of two values: a NaN operand gives NaN; of two zeros of opposite sign the spec names none (log 8). -/
def vecMax (a b : Fp) : Fp :=
  if a.isNan || b.isNan then .nan
  else if a.isZero && b.isZero && a.neg? ≠ b.neg? then .fin (Config.zeroTie true) 0 0
  else if a.lt b then b else a

/-- The smaller of two values. -/
def vecMin (a b : Fp) : Fp :=
  if a.isNan || b.isNan then .nan
  else if a.isZero && b.isZero && a.neg? ≠ b.neg? then .fin (Config.zeroTie false) 0 0
  else if b.lt a then b else a

/-- The result of an FP32 lane: rounded once to FP32; one that overflows there stays the finite value that it is, and Table 3-2
gives it its result and flag when it is written (R71, R101). -/
def Fp.lane (x : Fp) : Fp := if x.isFin && !x.r32.isFin then x else x.r32

/-- One element of a floating TVEC operation (Table 4-4); AXPB rounds once, like FMA (log 8). -/
def vecFloat (op : Nat) (prec : Bool) (t0 t1 : Fp) (a b o : Fp) : Fp :=
  match op with
  | 0x00 => a
  | 0x01 => (a.add b).lane
  | 0x02 => (a.sub b).lane
  | 0x03 => (a.mul b).lane
  | 0x04 => ((a.mul b).add o).lane
  | 0x05 => vecMax a b
  | 0x06 => vecMin a b
  | 0x07 => a.abs
  | 0x08 => a.negate
  | 0x0C => if a.isNan then .nan else vecMax a Fp.zero
  | 0x0D => ((a.mul t0).add t1).lane
  | 0x0F => if b.lt a then Fp.ofNat 1 else Fp.zero
  | _ => transcendental op prec a

/-- One element of an integer TVEC operation. -/
def vecInt (op : Nat) (sh : Nat) (a b : Word) : Word :=
  match op with
  | 0x10 => a + b
  | 0x11 => a - b
  | 0x12 => a * b
  | _ => a.sshiftRight sh

/-- Is the operation binary? -/
def vecBinary (op : Nat) : Bool := (1 ≤ op && op ≤ 6) || op = 0x0F || (0x10 ≤ op && op ≤ 0x12)

/-- Indices of a source that broadcasts its dimensions of size 1. -/
def bcast (t : Desc) (idx : List Nat) : List Nat := (idx.zip t.size).map (fun p => if p.2 = 1 then 0 else p.1)

/-- TVEC. -/
def Dev.runVec (d : Dev) (x : TCtx) (op : Nat) (prec : Bool) (t0 t1 : Nat) (td ta : Desc) (tb : Option Desc) : TRes × Dev :=
  let a := d.getOpn x ta
  let b := match tb with
    | some t => a.2.getOpn x t
    | none => ((⟨ta, []⟩, none), a.2)
  let o := if op = 4 then b.2.getOpn x td else ((⟨td, []⟩, none), b.2)
  let bad := firstOf [a.1.2, b.1.2, o.1.2]
  let tbd := tb.getD ta
  let outs := td.all.map (fun i =>
    let ia := bcast ta i
    let ib := bcast tbd i
    if 0x10 ≤ op then
      (i, OutVal.raw (vecInt op (t0 % 32) (BitVec.ofNat 32 (a.1.1.at ia).code) (BitVec.ofNat 32 (b.1.1.at ib).code)).toNat,
        ArithFlag.none)
    else
      let va := a.1.1.val (x.mode td i) ia
      let vb := if tb.isSome then b.1.1.val (x.mode td i) ib else Fp.zero
      let vo := if op = 4 then o.1.1.val (x.mode td i) i else Fp.zero
      let r := vecFloat op prec (Fp.ofBits t0) (Fp.ofBits t1) va vb vo
      let r := if td.fmt.isMx then r.r32 else r
      (i, OutVal.num r, invalidOf [va, vb, vo, if op = 0x0D then Fp.ofBits t0 else Fp.zero, if op = 0x0D then Fp.ofBits t1
        else Fp.zero] r))
  let wide := if 0x10 ≤ op then [] else a.1.1.flags ++ (if tb.isSome then b.1.1.flags else []) ++
    (if op = 4 then o.1.1.flags else [])
  let w := o.2.putOpn x td bad.isSome (outs.map (fun e => (e.1, e.2.1)))
  (⟨wide ++ outs.map (fun e => e.2.2) ++ w.1.flags, bad, w.1.bad, 0, 0, false⟩, w.2)

/-! ### TRED (R103) -/

/-- A value, and whether an invalid operation took part in it. -/
abbrev Chk := Fp × Bool

/-- A sum that marks an invalid operation: a NaN that neither operand explains (R74). -/
def Chk.add (a b : Chk) : Chk :=
  let r := a.1.add32 b.1
  (r, a.2 || b.2 || invalidOf [a.1, b.1] r = .invalid)

/-- One level of the pairwise tree: adjacent pairs, a last value alone passes up. -/
def pairUp (f : Chk → Chk → Chk) : List Chk → List Chk
  | a :: b :: t => f a b :: pairUp f t
  | l => l

/-- The fixed pairwise tree of a chunk of at most 64 values. -/
def treeOf (f : Chk → Chk → Chk) (l : List Chk) : Chk :=
  ((List.range 6).foldl (fun l _ => pairUp f l) l).headD (Fp.zero, false)

/-- The reduction of one row: chunks of 64 by the tree, then in increasing order. Sums start from an accumulator of 0. -/
def reduceChk (k : Nat) (l : List Fp) : Chk :=
  let f : Chk → Chk → Chk := if k = 1 then fun a b => (vecMax a.1 b.1, false) else if k = 2 then fun a b => (vecMin a.1 b.1, false)
    else Chk.add
  let l := (if k = 3 then l.map (fun a => a.mul32 a) else l).map (·, false)
  let cs := (chunksOf 64 (l.length + 1) l).map (treeOf f)
  if k = 1 || k = 2 then (cs.drop 1).foldl f (cs.headD (Fp.zero, false)) else cs.foldl f (Fp.zero, false)

/-- Its value. -/
def reduceRow (k : Nat) (l : List Fp) : Fp := (reduceChk k l).1

/-- INVALID where an invalid operation took part. -/
def Chk.flag (a : Chk) : ArithFlag := if a.2 then .invalid else .none

/-- TRED. -/
def Dev.runRed (d : Dev) (x : TCtx) (dim k : Nat) (td ts : Desc) : TRes × Dev :=
  let a := d.getOpn x ts
  let outs := td.all.map (fun i =>
    (i, reduceChk k ((List.range (ts.size.getD dim 1)).map (fun j => a.1.1.val (x.mode td i) (i.set dim j)))))
  let w := a.2.putOpn x td a.1.2.isSome (outs.map (fun e => (e.1, .num e.2.1)))
  (⟨a.1.1.flags ++ outs.map (fun e => e.2.flag) ++ w.1.flags, a.1.2, w.1.bad, 0, 0, false⟩, w.2)

/-! ### TSOFT (R104) -/

/-- The results of one row of TSOFT: the narrowed P values, alpha, l and m, and INVALID for each invalid operation of the row. -/
structure SoftRow where
  p : List Fp
  alpha : Fp
  l : Fp
  m : Fp
  zeroP : Bool
  inv : List ArithFlag
  deriving DecidableEq, Repr

/-- One row: `roundP` narrows a probability into P's format, by column. -/
def softRow (first_ : Bool) (s : List Fp) (mOld lOld : Fp) (roundP : Nat → Fp → Fp) : SoftRow :=
  let ninf : Fp := .inf true
  let mOld := if first_ then ninf else mOld
  let lOld := if first_ then Fp.zero else lOld
  let mNew := vecMax mOld ((s.drop 1).foldl vecMax (s.headD ninf))
  let zp := mNew = ninf
  let p := if zp then s.map (fun _ => Fp.zero)
    else s.zipIdx.map (fun e => roundP e.2 (transcendental 0x09 false (e.1.sub32 mNew)))
  let alpha := if zp then Fp.ofNat 1 else if mOld = ninf then Fp.zero else transcendental 0x09 false (mOld.sub32 mNew)
  let sum := reduceChk 0 p
  let l := ((lOld.mul alpha).add sum.1).r32
  let subs := if zp then [] else s.map (fun e => invalidOf [e, mNew] (e.sub32 mNew))
  let ofM := if zp || mOld = ninf then ArithFlag.none else invalidOf [mOld, mNew] (mOld.sub32 mNew)
  ⟨p, alpha, l, mNew, zp, subs ++ [ofM, sum.flag, invalidOf [lOld, alpha, sum.1] l]⟩

/-- TSOFT. -/
def Dev.runSoft (d : Dev) (x : TCtx) (mask first_ : Bool) (t0 t1 t2 : Nat) (tp ts tm tl tout : Desc) : TRes × Dev :=
  let s := d.getOpn x ts
  let m := if first_ then ((⟨tm, []⟩, none), s.2) else s.2.getOpn x tm
  let l := if first_ then ((⟨tl, []⟩, none), m.2) else m.2.getOpn x tl
  let o := if first_ then ((⟨tout, []⟩, none), l.2) else l.2.getOpn x tout
  let bad := firstOf [s.1.2, m.1.2, l.1.2, o.1.2]
  let cols := ts.size.getD 0 1
  let rows := ts.size.getD 1 1
  let outP (c r : Nat) (v : Fp) : Nat × ArithFlag :=
    let i := [c, r, 0, 0, 0, 0]
    if tp.fmt.isMx then (0, .none) else tp.fmt.narrow (x.rnd.mode tp (tp.eOf i) (tp.siOf i)) tp.sat v
  -- the value of P that the sum takes: as it is stored, block scales included
  let blockVal (r : Nat) (vs : List Fp) (c : Nat) : Fp :=
    let blk := (vs.drop (c / 32 * 32)).take 32
    let sc := tp.fmt.scaleCode blk
    let i := [c, r, 0, 0, 0, 0]
    (⟨(tp.fmt.narrowMx (x.rnd.mode tp (tp.eOf i) (tp.siOf i)) sc (vs.getD c .nan)).1, sc, false⟩ : Elem).exact tp.fmt
  let sv (c r : Nat) : Fp := s.1.1.val (x.mode tp [c, r, 0, 0, 0, 0]) [c, r, 0, 0, 0, 0]
  let masked (c r : Nat) : Bool := mask && decide (signed 32 t2 + (r : Int) < signed 32 t1 + (c : Int))
  let row (r : Nat) : SoftRow × List Fp :=
    let sc := (List.range cols).map (fun (c : Nat) =>
      if masked c r then Fp.inf true
      else (sv c r).mul32 (Fp.ofBits t0))
    let mo := m.1.1.val .nearest [r, 0, 0, 0, 0, 0]
    let lo := l.1.1.val .nearest [r, 0, 0, 0, 0, 0]
    let raw := softRow first_ sc mo lo (fun _ v => v)
    if raw.zeroP then (raw, raw.p)
    else if tp.fmt.isMx then
      let ps := (List.range cols).map (blockVal r raw.p)
      (softRow first_ sc mo lo (fun c _ => ps.getD c .nan), raw.p)
    else (softRow first_ sc mo lo (fun c v => tp.fmt.elem (outP c r v).1), raw.p)
  let rs := (List.range rows).map row
  let at_ (r : Nat) : SoftRow × List Fp := rs.getD r (⟨[], .nan, .nan, .nan, false, []⟩, [])
  let ov (i : List Nat) : Fp := o.1.1.val .nearest i
  let wp := o.2.putOpn x tp bad.isSome (tp.all.map (fun i => (i, .num ((at_ (i.getD 1 0)).2.getD (i.getD 0 0) .nan))))
  let wo := wp.2.putOpn x tout bad.isSome (tout.all.map (fun i =>
    (i, .num (if first_ then Fp.zero else (ov i).mul32 (at_ (i.getD 1 0)).1.alpha))))
  let wl := wo.2.putOpn x tl bad.isSome (tl.all.map (fun i => (i, .num (at_ (i.getD 0 0)).1.l)))
  let wm := wl.2.putOpn x tm bad.isSome (tm.all.map (fun i => (i, .num (at_ (i.getD 0 0)).1.m)))
  -- INVALID comes from each operation by itself (R74, R116): the scaling of S, the row's own, the scaling of O
  let scale := ts.all.map (fun i => invalidOf [sv (i.getD 0 0) (i.getD 1 0), Fp.ofBits t0]
    ((sv (i.getD 0 0) (i.getD 1 0)).mul32 (Fp.ofBits t0)))
  let ofO := if first_ then [] else tout.all.map (fun i =>
    invalidOf [ov i, (at_ (i.getD 1 0)).1.alpha] ((ov i).mul32 (at_ (i.getD 1 0)).1.alpha))
  let inv := scale ++ rs.flatMap (fun r => r.1.inv) ++ ofO
  (⟨s.1.1.flags ++ inv ++ wp.1.flags ++ wo.1.flags ++ wl.1.flags ++ wm.1.flags, bad,
    firstOf [wp.1.bad, wo.1.bad, wl.1.bad, wm.1.bad], 0, 0, false⟩, wm.2)

/-! ### Rows and indices (R105 to R108) -/

/-- Rows of a table: its indices along dimensions 1 up. -/
def Desc.rowCount (t : Desc) : Nat := (t.size.drop 1).prod

/-- The indices of element `i0` of row `q`. -/
def Desc.rowIdx (t : Desc) (q i0 : Nat) : List Nat :=
  i0 :: ((t.size.drop 1).foldl (fun (acc : List Nat × Nat) n => (acc.1 ++ [acc.2 % n], acc.2 / n)) ([], q)).1

/-- The row that an index names, none when it is out of range. -/
def rowOf (t : Desc) (v : Int) : Option Nat := if 0 ≤ v && v < t.rowCount then some v.toNat else none

/-- Convert an element for a destination: bit for bit between like formats that are not MX, else through FP32 (R98). -/
def convElem (x : TCtx) (td : Desc) (di : List Nat) (fs : Fmt) (e : Elem) : OutVal × ArithFlag :=
  if fs = td.fmt && !td.fmt.isMx then (.raw e.code, .none)
  else
    let v := e.widen fs (x.mode td di)
    (.num v.1, v.2)

/-- TGATHER: row i of the output is table row idx[i], or PAD for an index out of range. Poison comes from the table's elements
alone (R117). -/
def Dev.runGather (d : Dev) (x : TCtx) (td tt ti : Desc) : TRes × Dev :=
  let ix := d.getOpn x ti
  let n := ti.size.getD 0 1
  let w0 := td.size.getD 0 1
  let rows := (List.range n).map (fun i => (i, rowOf tt (ix.1.1.int [i, 0, 0, 0, 0, 0])))
  let want := rows.filterMap (fun r => r.2.map (fun q => (r.1, q)))
  let cells := want.flatMap (fun r => (List.range w0).map (fun c => (r.1, c, tt.rowIdx r.2 c)))
  let rd := ix.2.readElems x.acc 2048 tt (tt.org x.epoch) (cells.map (fun c => tt.siOf c.2.2))
  let good := (cells.zip rd.1.els).map (fun e =>
    let di := [e.1.2.1, e.1.1, 0, 0, 0, 0]
    (di, convElem x td di tt.fmt e.2, e.2.bad))
  let pads := (rows.filter (·.2.isNone)).flatMap (fun r => (List.range w0).map (fun c =>
    let di := [c, r.1, 0, 0, 0, 0]
    (di, convElem x td di tt.fmt tt.padElem, false)))
  let os := good ++ pads
  let w := rd.2.writeElems x.acc 2048 td (td.org x.epoch) x.rnd (os.map (fun o => ⟨o.1, o.2.1.1, o.2.2⟩))
  (⟨os.map (fun o => o.2.1.2) ++ w.1.flags, firstOf [ix.1.2, rd.1.bad], w.1.bad,
    (rows.filter (·.2.isNone)).length, 0, false⟩, w.2)

/-- TSCATTER: source row i goes to table row idx[i], in increasing i. -/
def Dev.runScatter (d : Dev) (x : TCtx) (tt ts ti : Desc) : TRes × Dev :=
  let ix := d.getOpn x ti
  let s := ix.2.getOpn x ts
  let n := ti.size.getD 0 1
  let rows := (List.range n).map (fun i => (i, rowOf tt (ix.1.1.int [i, 0, 0, 0, 0, 0])))
  let os := rows.flatMap (fun r => match r.2 with
    | none => []
    | some q => (List.range (ts.size.getD 0 1)).map (fun c =>
      let e := s.1.1.at [c, r.1, 0, 0, 0, 0]
      let di := tt.rowIdx q c
      (di, convElem x tt di ts.fmt e, e.bad)))
  let w := s.2.writeElems x.acc 2048 tt (tt.org x.epoch) x.rnd (os.map (fun o => ⟨o.1, o.2.1.1, o.2.2⟩))
  (⟨os.map (fun o => o.2.1.2) ++ w.1.flags, firstOf [ix.1.2, s.1.2], w.1.bad,
    (rows.filter (·.2.isNone)).length, 0, false⟩, w.2)

/-- Insert a pair in order of its key, after equal keys. -/
def insKey {α : Type} (k : Nat) (a : α) : List (Nat × α) → List (Nat × α)
  | [] => [(k, a)]
  | (j, b) :: t => if k < j then (k, a) :: (j, b) :: t else (j, b) :: insKey k a t

/-- A list in the order of a key, equal keys in their order. -/
def sortKey {α : Type} (key : α → Nat) (l : List α) : List α := (l.foldl (fun acc a => insKey (key a) a acc) []).map (·.2)

/-- A sum that TSCATTERADD forms: of two INT32 codes, or of two FP32 values, rounded once. -/
def addCodes (int : Bool) (a : Nat) (e : Nat) (v : Fp) : Nat × ArithFlag :=
  if int then ((a + e) % 2 ^ 32, .none)
  else
    let o := Fp.ofBits a
    let r := o.add32 v
    (r.toBits, invalidOf [o, v] r)

/-- A 64-byte add request to the granule at device address `g`, which the target's memory controller performs whole (R107,
R170): what is added at each byte offset, and the poison mark of the incoming data. Answers the address if it is refused. -/
def Dev.addReq (d : Dev) (acc : Acc) (int : Bool) (g : Nat) (ps : List (Nat × Nat × Fp)) (mark : Bool) :
    (Option Nat × List ArithFlag) × Dev :=
  let f (old : List Byte) : List Byte × List ArithFlag :=
    ps.foldl (fun (r : List Byte × List ArithFlag) p =>
      let x := addCodes int (leAt r.1 p.1 4) p.2.1 p.2.2
      (r.1.take p.1 ++ leBytes 4 x.1 ++ r.1.drop (p.1 + 4), r.2 ++ [x.2])) (old, [])
  match d.resolve acc true g with
  | (.mem m, d) =>
    let d := (((d.chargeAdd m).wakeBank m).countBytes 0x88 m 64).breakResv m 64
    ((none, (f (d.mem.bytes m 64)).2), d.rmwGran acc.src m (fun o => (f o).1) mark)
  | (.host p, d) =>
    let x := d.readHost p g 64
    let r := f (x.1.map (·.1))
    let bad := mark || x.1.any (·.2)
    ((if d.linkUp p then none else some g, r.2), x.2.writeHost p g (r.1.map (·, bad)))
  | (.zeros, d) => ((none, []), d)
  | (_, d) => ((some g, []), d)

/-- The additions of TSCATTERADD outside Pocket with ORD = 0, row by row in a free order. -/
def Dev.scatterRemote (d : Dev) (x : TCtx) (tt ts : Desc) (s : Opn) (rows : List (Nat × Option Nat)) :
    (List ArithFlag × Option Nat) × Dev :=
  let fr := d.fresh
  let rs := sortKey (fun r => Config.addOrder fr.1 r.1) (rows.filterMap (fun r => r.2.map (fun q => (r.1, q))))
  rs.foldl (fun (acc : (List ArithFlag × Option Nat) × Dev) r =>
    let els := (List.range (ts.size.getD 0 1)).map (fun c =>
      (tt.org x.epoch + 4 * tt.siOf (tt.rowIdx r.2 c), s.at [c, r.1, 0, 0, 0, 0], x.mode tt (tt.rowIdx r.2 c)))
    (sortNat (els.map (fun e => e.1 / 64))).foldl (fun (acc : (List ArithFlag × Option Nat) × Dev) g =>
      let mine := els.filter (fun e => e.1 / 64 = g)
      let y := acc.2.addReq x.acc (tt.fmt = .int32) (g * 64)
        (mine.map (fun e => (e.1 % 64, e.2.1.code, (e.2.1.widen ts.fmt e.2.2).1))) (mine.any (·.2.1.bad))
      ((acc.1.1 ++ y.1.2, first acc.1.2 y.1.1), y.2)) acc) (([], none), fr.2)

/-- TSCATTERADD: source rows are added into table rows, in increasing i with ORD = 1 and in a free order otherwise. -/
def Dev.runScatterAdd (d : Dev) (x : TCtx) (ord : Bool) (tt ts ti : Desc) : TRes × Dev :=
  let ix := d.getOpn x ti
  let s := ix.2.getOpn x ts
  let n := ti.size.getD 0 1
  let rows := (List.range n).map (fun i => (i, rowOf tt (ix.1.1.int [i, 0, 0, 0, 0, 0])))
  if !ord && !isPocket (tt.org x.epoch) then
    let y := s.2.scatterRemote x tt ts s.1.1 rows
    (⟨s.1.1.flags ++ y.1.1, firstOf [ix.1.2, s.1.2], y.1.2, (rows.filter (·.2.isNone)).length, 0, false⟩, y.2)
  else
  let adds := rows.flatMap (fun r => match r.2 with
    | none => []
    | some q => (List.range (ts.size.getD 0 1)).map (fun c => (tt.rowIdx q c, [c, r.1, 0, 0, 0, 0], r.1)))
  let fr := if ord then (0, s.2) else s.2.fresh
  let adds := if ord then adds else sortKey (fun a => Config.addOrder fr.1 a.2.2) adds
  let old := fr.2.readElems x.acc 2048 tt (tt.org x.epoch) (adds.map (fun a => tt.siOf a.1))
  let olds := adds.zip old.1.els
  -- the running value of each table element, by its storage index
  let step (m : List (Nat × Elem) × List ArithFlag) (a : List Nat × List Nat × Nat) : List (Nat × Elem) × List ArithFlag :=
    let si := tt.siOf a.1
    let cur := (m.1.find? (·.1 = si)).map (·.2) |>.getD
      (((olds.find? (fun e => tt.siOf e.1.1 = si)).map (·.2)).getD ⟨0, 127, false⟩)
    let e := s.1.1.at a.2.1
    let bad := cur.bad || e.bad
    let r : Nat × ArithFlag :=
      if tt.fmt = .int32 then ((cur.code + e.code) % 2 ^ 32, .none)
      else
        let v := (e.widen ts.fmt (x.mode tt a.1)).1
        let r := (cur.exact tt.fmt).add32 v
        (r.toBits, invalidOf [cur.exact tt.fmt, v] r)
    (sput si (some ⟨r.1, 127, bad⟩) m.1, m.2 ++ [r.2])
  let m := adds.foldl step ([], [])
  let os : List OutEl := (m.1.map (fun e =>
    match adds.find? (fun a => tt.siOf a.1 = e.1) with
    | some a => ⟨a.1, .raw e.2.code, e.2.bad⟩
    | none => ⟨[], .raw 0, false⟩))
  let w := old.2.writeElems x.acc 2048 tt (tt.org x.epoch) x.rnd os
  (⟨s.1.1.flags ++ m.2 ++ w.1.flags, firstOf [ix.1.2, s.1.2, old.1.bad], w.1.bad,
    (rows.filter (·.2.isNone)).length, 0, false⟩, w.2)

/-- How many ids stand before the first that is lower than the one before it. -/
def sortedTo : List Int → Nat
  | a :: b :: t => if b < a then 1 else sortedTo (b :: t) + 1
  | l => l.length

/-- TSEG: output row s takes the rows whose id is TARG0 + s. The unit ends at an id lower than the one before it, with some of the
rows written that the ids before it give (R108, R113). -/
def Dev.runSeg (d : Dev) (x : TCtx) (op t0 : Nat) (td tv ti : Desc) : TRes × Dev :=
  let v := d.getOpn x tv
  let ix := v.2.getOpn x ti
  let n := ti.size.getD 0 1
  let ids := (List.range n).map (fun i => ix.1.1.int [i, 0, 0, 0, 0, 0])
  let bad := firstOf [v.1.2, ix.1.2]
  let seen := sortedTo ids
  let uns := seen < n
  let fr := if uns then ix.2.fresh else (0, ix.2)
  let rowsOut := if uns then Config.segRows fr.1 else td.size.getD 1 1
  let out (i : List Nat) : OutVal × ArithFlag :=
    let s := i.getD 1 0
    let rows := (List.range seen).filter (fun r => ids.getD r 0 = signed 32 t0 + (s : Int))
    let vals := rows.map (fun r => v.1.1.val (x.mode td i) [i.getD 0 0, r, 0, 0, 0, 0])
    if rows.isEmpty then
      let p := td.padElem
      if td.fmt.isMx then (.num (p.exact td.fmt), .none) else (.raw p.code, .none)
    else
      let sum := (vals.map (·, false)).foldl Chk.add (Fp.zero, false)
      match op with
      | 0 => (.num sum.1, sum.flag)
      | 1 => (.num ((vals.drop 1).foldl vecMax (vals.headD .nan)), .none)
      | 2 => (.num ((vals.drop 1).foldl vecMin (vals.headD .nan)), .none)
      | _ => (.num (sum.1.div32 (Fp.ofNat rows.length)), sum.flag)
  let os := (td.all.filter (fun i => i.getD 1 0 < rowsOut)).map (fun i => (i, out i))
  let w := fr.2.putOpn x td bad.isSome (os.map (fun o => (o.1, o.2.1)))
  (⟨v.1.1.flags ++ os.map (fun o => o.2.2) ++ w.1.flags, bad, w.1.bad, 0, 0, uns⟩, w.2)

/-! ### TSORT (R109) -/

/-- A key as a number whose order is the sort order. -/
def sortRank (f : Fmt) (uns : Bool) (c : Nat) : Nat :=
  if f = .fp32 then (if c.testBit 31 then 2 ^ 32 - 1 - c else c + 2 ^ 31)
  else if uns then c else (c + 2 ^ 31) % 2 ^ 32

/-- TSORT: keys in place, stable in both directions, an INT32 payload moving with them. -/
def Dev.runSort (d : Dev) (x : TCtx) (desc uns : Bool) (tk : Desc) (tp : Option Desc) : TRes × Dev :=
  let k := d.getOpn x tk
  let p := match tp with
    | some t => k.2.getOpn x t
    | none => ((⟨tk, []⟩, none), k.2)
  let n := tk.size.getD 0 1
  let rank (i : Nat) : Nat :=
    let r := sortRank tk.fmt uns (k.1.1.at [i, 0, 0, 0, 0, 0]).code
    if desc then 2 ^ 32 - 1 - r else r
  let order := sortKey rank (List.range n)
  let bad := firstOf [k.1.2, p.1.2]
  let put (o : Opn) : List (List Nat × OutVal) :=
    order.zipIdx.map (fun e => ([e.2, 0, 0, 0, 0, 0], OutVal.raw (o.at [e.1, 0, 0, 0, 0, 0]).code))
  let w := p.2.putOpn x tk bad.isSome (put k.1.1)
  match tp with
  | some t =>
    let w2 := w.2.putOpn x t bad.isSome (put p.1.1)
    (⟨[], bad, firstOf [w.1.bad, w2.1.bad], 0, 0, false⟩, w2.2)
  | none => (⟨[], bad, w.1.bad, 0, 0, false⟩, w.2)

end Sys2Proof.Machine
end

