-- ==== Sys2Proof/Machine/TileOps.lean ====
section
/-! DEFINITION. Tile sequencers (R122 to R143): launch tile descriptors and their check, windows, tile records, the handing,
holding and retiring of indices, and the end of a launch. -/

namespace Sys2Proof.Machine

/-! ### Cores and launches -/

/-- Core `c`. -/
def Dev.core (d : Dev) (c : Nat) : CoreSt := sget (fun _ => CoreSt.reset) d.cores c

/-- Busy pipes of a core: load/store, matrix, vector. -/
def TOp.pipe : TOp → Nat
  | .load => 0 | .store => 0 | .gather => 0 | .scatter => 0 | .scatterAdd => 0 | .kvFill _ _ => 0
  | .mma => 1 | .conv => 1
  | .vec => 2 | .red => 2 | .soft => 2 | .seg => 2 | .sort => 2

/-- CORE_STATUS.PIPES and SBUSE follow the scoreboard (Table 4-11). -/
def Dev.coreStat (d : Dev) (c : Nat) : Dev :=
  let k := d.core c
  let busy (p : Nat) : Nat := if k.ents.any (fun e => e.started && e.op.pipe = p) then 2 ^ p else 0
  d.wr (rCoreStatus c) (setFld 11 6 k.ents.length (setFld 5 3 (busy 0 + busy 1 + busy 2) (d.rd (rCoreStatus c))))

/-- Set core `c`. -/
def Dev.setCore (d : Dev) (c : Nat) (k : CoreSt) : Dev :=
  ({ d with cores := sset (fun _ => CoreSt.reset) d.cores c k }).coreStat c

/-- Change core `c`. -/
def Dev.updCore (d : Dev) (c : Nat) (f : CoreSt → CoreSt) : Dev := d.setCore c (f (d.core c))

/-- Set CORE_STATUS.STATE. -/
def Dev.setCoreState (d : Dev) (c v : Nat) : Dev := d.wrFld (rCoreStatus c) 2 0 v

/-- An x register; x0 is 0. -/
def CoreSt.rx (k : CoreSt) (r : Nat) : DWord := if r = 0 then 0 else sget (fun _ => 0) k.x r

/-- Set an x register. -/
def CoreSt.wx (k : CoreSt) (r : Nat) (v : DWord) : CoreSt := if r = 0 then k else { k with x := sset (fun _ => 0) k.x r v }

/-- The launch in slot `k` = hub × 256 + slot. -/
def Dev.launch? (d : Dev) (k : Nat) : Option LaunchSt := (d.launches.find? (·.1 = k)).map (·.2)

/-- The hub of launch slot `k`. -/
def hubOf (k : Nat) : Nat := k / 256 % 2

/-- Register page of launch slot `k`, from the offsets of slot 0 of hub 0. -/
def slotReg (k off : Nat) : Nat := rTsqLState (hubOf k) (k % 256) + off

/-- The tile sequencer's source number (R122). -/
def tsqSrc (k : Nat) : Nat := srcNo (16 + hubOf k) 0x008

/-- Cores that the launch counts on: those it named, less those fenced since. -/
def LaunchSt.live (l : LaunchSt) (d : Dev) : List Nat := l.cores.filter (fun c => d.coreState c ≠ 5 && d.coreState c ≠ 0)

/-- Tiles held and not retired by the cores of launch `k`. -/
def Dev.heldOf (d : Dev) (k : Nat) : List Nat :=
  (d.cores.filter (fun e => e.2.launch = some k)).flatMap (fun e => e.2.held.map (·.idx))

/-! ### Index space (R126, R138, R155) -/

/-- FLAGS fields (Table 5-2). -/
def LaunchDesc.flag (t : LaunchDesc) (n : Nat) : Bool := t.flags.testBit n
/-- FUSE. -/
def LaunchDesc.fuse (t : LaunchDesc) : Nat := nfld 5 3 t.flags
/-- REISSUE. -/
def LaunchDesc.reissue (t : LaunchDesc) : Bool := t.flag 0
/-- WREP. -/
def LaunchDesc.wrep (t : LaunchDesc) : Bool := t.flag 1
/-- WINDOW. -/
def LaunchDesc.window (t : LaunchDesc) : Bool := t.flag 2
/-- STAGE. -/
def LaunchDesc.stage (t : LaunchDesc) : Bool := t.flag 6
/-- MCAST_WIN. -/
def LaunchDesc.mcastWin (t : LaunchDesc) : Nat := nfld 15 8 t.flags

/-- Stripe, group and output tile of an index. -/
def LaunchDesc.sgo (t : LaunchDesc) (i : Nat) : Nat × Nat × Nat :=
  (i / (t.ngroup * t.nout), i / t.nout % t.ngroup, i % t.nout)

/-- Indices of the space. -/
def LaunchDesc.total (t : LaunchDesc) : Nat := t.nstripe * t.ngroup * t.nout

/-- Index after the last handed. -/
def LaunchDesc.stop (t : LaunchDesc) : Nat := if t.tend = 0 then t.total else min t.tend t.total

/-- Axis `k` of a list of three. -/
def ax (l : List Nat) (k : Nat) : Nat := l.getD k 0

/-- Origin of the output tile of an index in the last layer's output map (R138). -/
def tileOrigin (t : LaunchDesc) (w : WinE) (i : Nat) : Nat × Nat × Nat :=
  let s := (t.sgo i).1
  let o := (t.sgo i).2.2
  let nx := cdiv (ax w.o 0) t.tw
  let ny := if t.nstripe = 1 then cdiv (ax w.o 1) t.th else t.srows / t.th
  (o % nx * t.tw, s * t.srows + o / nx % ny * t.th, o / (nx * ny) * t.tt)

/-- WLEN of batch entry `b`. -/
def KvWalk.wlen (v : KvWalk) (b : Nat) : Nat := (v.batch.getD b ⟨0, 0, 0, 0⟩).len + v.adv

/-- Is an index skipped: its output tile lies wholly outside the map (R126), or its block lies beyond WLEN (R155)? -/
def LaunchSt.skips (l : LaunchSt) (t : LaunchDesc) (i : Nat) : Bool :=
  (match l.win.getLast? with
    | some w => t.window && decide (ax w.o 1 ≤ (tileOrigin t w i).2.1)
    | none => false)
  || (match l.kv with
    | some v => decide (v.wlen ((t.sgo i).2.2 / v.nblk) ≤ (t.sgo i).2.2 % v.nblk * v.kb)
    | none => false)

/-- The first index from `i` on that is handed. -/
def LaunchSt.nextFrom (l : LaunchSt) (t : LaunchDesc) (i : Nat) : Option Nat :=
  (rangeFrom i (t.stop - i)).find? (fun j => !l.skips t j)

/-! ### Registers of a slot (Tables 5-8, 5-10) -/

/-- The next new index, from the slot's NEXT register. -/
def Dev.nextIdx (d : Dev) (k : Nat) : Nat := d.rd64 (slotReg k 0x10)

/-- Is no new index left? -/
def Dev.exhausted (d : Dev) (k : Nat) (l : LaunchSt) : Bool :=
  match l.tile with
  | none => true
  | some t => (l.nextFrom t (d.nextIdx k)).isNone

/-- The registers of slot `k` follow its launch; LASTOUT, once set, stays (R129). -/
def Dev.slotStat (d : Dev) (k : Nat) : Dev :=
  match d.launch? k with
  | none => d
  | some l =>
    let held := (d.heldOf k).length
    let out := d.exhausted k l
    let s := d.rd (slotReg k 0)
    let s := setFld 1 0 (if out && held ≠ 0 then 2 else 1) s
    let last := bitOf 2 s || (out && l.reissue.isEmpty)
    let d := d.wr (slotReg k 0) (setBit 2 last s)
    let d := d.wr (slotReg k 0x20) (BitVec.ofNat 32 (held % 65536 + 65536 * l.reissue.length))
    let d := d.wr (slotReg k 0x24) (BitVec.ofNat 32 (l.cores.length + 65536 * l.ended.length))
    let d := d.wrFld (slotReg k 0x28) 24 24 (if l.staging.isSome then 1 else 0)
    let listed := match l.tile with
      | some t => if t.lost = 0 then 0 else min t.lostmax l.lost.length
      | none => 0
    let d := d.wr (slotReg k 0x2C) (BitVec.ofNat 32 listed)
    if last then d.setCmd l.q l.i (fun x => { x with lastout := true }) else d

/-- Set the launch of slot `k`. -/
def Dev.setLaunch (d : Dev) (k : Nat) (l : LaunchSt) : Dev := ({ d with launches := sput k (some l) d.launches }).slotStat k

/-- Change the launch of slot `k`. -/
def Dev.updLaunch (d : Dev) (k : Nat) (f : LaunchSt → LaunchSt) : Dev :=
  match d.launch? k with
  | some l => d.setLaunch k (f l)
  | none => d

/-- TSQ_STATUS counts the active slots. -/
def Dev.tsqCount (d : Dev) (hub : Nat) : Dev :=
  d.wrFld (rTsqStatus hub) 8 0 ((d.launches.filter (fun e => hubOf e.1 = hub)).length)

/-- Free slot `k`. -/
def Dev.freeSlot (d : Dev) (k : Nat) : Dev :=
  let cores := mapIf (fun e => e.2.launch = some k) (fun e => (e.1, { e.2 with launch := none, held := [] })) d.cores
  (({ d with launches := sput k none d.launches, cores := cores }).wr (slotReg k 0) 0).tsqCount (hubOf k)

/-- Note that a launch read or wrote poison at `a` (R129). -/
def Dev.notePoison (d : Dev) (k : Nat) (a : Nat) : Dev :=
  d.updLaunch k (fun l => { l with poison := first l.poison (some a) })

/-- Does a completion end the launch, and how (R114, R129, R134, R136)? -/
def Dev.launchDone (d : Dev) (k : Nat) : Dev :=
  match d.launch? k with
  | none => d
  | some l =>
    let live := l.live d
    let prog := d.rd64 (slotReg k 0x18)
    let fin (r : Result) : Dev :=
      match d.queue.infl.find? (fun x => x.q = l.q && x.i = l.i) with
      | some x => (d.finish x { r with progress := prog }).freeSlot k
      | none => d.freeSlot k
    if l.early || live.any (fun c => !l.ended.contains c) then d
    else match l.exc with
      | some (e, src) => fin { aborted e.cause src with addr := e.pc }
      | none =>
        if live.isEmpty && (!l.reissue.isEmpty || l.lost.isEmpty) then fin (aborted 0x27 0xFFFF)
        else if !l.reissue.isEmpty || !(d.heldOf k).isEmpty then d
        else if !l.lost.isEmpty then fin { Result.fresh with status := .partial_ }
        else match l.poison with
          | some a => fin { Result.fresh with status := .poisoned, addr := a }
          | none => fin Result.fresh

/-! ### The launch tile descriptor (R123 to R125, R137) -/

/-- The descriptor that 128 bytes spell (Table 5-1). -/
def LaunchDesc.ofBytes (l : List Byte) : LaunchDesc :=
  let f (o n : Nat) : Nat := leAt l o n
  { ngroup := f 0 4, nout := f 4 4, nstripe := f 8 4, flags := f 0xC 4, wbase := f 0x10 8, wstride := f 0x18 4,
    wbytes := f 0x1C 4, wbuf0 := f 0x20 4, wbuf1 := f 0x24 4, trec := f 0x28 4, tw := f 0x2C 2, th := f 0x2E 2,
    tt := f 0x30 2, srows := f 0x32 2, sbytes := f 0x34 4, win := f 0x38 8, tfirst := f 0x40 8, tend := f 0x48 8,
    sdesc := f 0x50 8, sbuf0 := f 0x58 8, sbuf1 := f 0x60 8, lost := f 0x68 8, lostmax := f 0x70 4 }

/-- A window table entry of 32 bytes (Table 5-5). -/
def WinE.ofBytes (l : List Byte) : WinE :=
  let b3 (o : Nat) : List Nat := [leAt l o 1, leAt l (o + 1) 1, leAt l (o + 2) 1]
  let h3 (o : Nat) : List Nat := [leAt l o 2, leAt l (o + 2) 2, leAt l (o + 4) 2]
  ⟨b3 0, b3 4, b3 8, b3 12, h3 0x10, h3 0x18, leAt l 0x16 2, leAt l 0x1E 2⟩

/-- A kernel size above its limit (R137). -/
def WinE.tooLarge (w : WinE) : Bool := 15 < ax w.k 0 || 15 < ax w.k 1 || 7 < ax w.k 2

/-- The other limits of Table 5-5. -/
def WinE.ok (l : List Byte) (w : WinE) : Bool :=
  leAt l 3 1 = 0 && leAt l 7 1 = 0 && leAt l 0xB 1 = 0 && leAt l 0xF 1 = 0
    && (List.range 3).all (fun k =>
      1 ≤ ax w.k k && 1 ≤ ax w.s k && ax w.s k ≤ 8 && 1 ≤ ax w.d k && ax w.d k ≤ 8
        && ax w.p k ≤ ax w.d k * (ax w.k k - 1) && 1 ≤ ax w.i k && 1 ≤ ax w.o k
        && decide (((ax w.o k : Int) - 1) * ax w.s k - ax w.p k ≤ (ax w.i k : Int) - 1))

/-- Each layer's input is the layer before's output (R137). -/
def winChain : List WinE → Bool
  | a :: b :: t => a.o = b.i && a.cout = b.cin && winChain (b :: t)
  | _ => true

/-- Output range [a, a + n) of a layer to its input region along one axis: start, extent, positions cut off low (R139). -/
def regionOf (w : WinE) (k a n : Nat) : Nat × Nat × Nat :=
  let s0 : Int := (a : Int) * ax w.s k - ax w.p k
  let e : Int := ((n : Int) - 1) * ax w.s k + ax w.d k * ((ax w.k k : Int) - 1) + 1
  let x0 := max s0 0
  (x0.toNat, (min (s0 + e) (ax w.i k) - x0).toNat, (x0 - s0).toNat)

/-- The regions of every layer along one axis, from the last layer's output range, layer 0 first. -/
def regionsOf (ws : List WinE) (k a n : Nat) : List (Nat × Nat × Nat) :=
  ws.foldr (fun w acc =>
    let r := match acc with
      | (x, m, _) :: _ => regionOf w k x m
      | [] => regionOf w k a n
    r :: acc) []

/-- First layer-0 input row of stripe `s`, and their number (R141). -/
def stripeRows (t : LaunchDesc) (ws : List WinE) (s : Nat) : Nat × Nat :=
  let oh := (ws.getLast?.map (fun w => ax w.o 1)).getD 0
  let a := s * t.srows
  let r := (regionsOf ws 1 a (min (a + t.srows) oh - a)).headD (0, 0, 0)
  (r.1, r.2.1)

/-- The packed copy of a stripe of SDESC in its buffer (R141). -/
def stripeDesc (t : LaunchDesc) (ws : List WinE) (sd : Desc) (s : Nat) : Desc :=
  let rows := (stripeRows t ws s).2
  let c := sd.size.getD 0 1
  let cs := if sd.fmt.isMx then alignUp 32 c else c
  let w := sd.size.getD 1 1
  let tl := sd.size.getD 3 1
  { sd with rank := 4, region := 1, cls := 0, delta := false, eb := 0, rnd := 1,
            base := if s % 2 = 0 then t.sbuf0 else t.sbuf1,
            size := [c, w, rows, tl, 1, 1], stride := [1, cs, cs * w, cs * w * rows, 0, 0], mask := [] }

/-- Do two intervals, neither empty, meet? -/
def meets (a n b m : Nat) : Bool := n ≠ 0 && m ≠ 0 && a < b + m && b < a + n

/-- No two of a list of intervals meet. -/
def disjoint : List (Nat × Nat) → Bool
  | [] => true
  | e :: t => t.all (fun f => !meets e.1 e.2 f.1 f.2) && disjoint t

/-- Items 1 to 4 and 8 of R125. Without group loads (WBASE 0) the group size may be 0 (log 57). -/
def LaunchDesc.ok (t : LaunchDesc) (l : List Byte) : Bool :=
  let areas := (t.wbuf0, t.wbytes) :: ((if 1 < t.ngroup then [(t.wbuf1, t.wbytes)] else [])
    ++ (if t.trec = 0xFFFFFFFF then [] else [(t.trec, 256), (t.trec + 256, 256)]))
  let last := t.wbase + (t.ngroup - 1) * t.wstride + t.wbytes
  1 ≤ t.ngroup && 1 ≤ t.nout && 1 ≤ t.nstripe && !t.flag 7 && t.flags < 65536 && (l.drop 0x74).all (· = 0)
    && t.wstride % 64 = 0 && t.wbytes % 64 = 0 && t.wbytes ≤ 0x100000 && (t.wbase = 0 || 64 ≤ t.wbytes)
    && t.win % 32 = 0 && t.srows % t.th = 0
    && areas.all (fun a => a.1 % 64 = 0 && a.1 + a.2 ≤ 0x180000) && disjoint areas
    && (t.wbase = 0 || (isGallery t.wbase && isGallery last && (!t.wrep || (galDie t.wbase = 0 && galDie last = 0))))
    && (t.window || (t.fuse = 0 && !t.stage && t.nstripe = 1))
    && (t.reissue || t.lost = 0 || t.lostmax ≠ 0)

/-- The tiling matches NOUT and NSTRIPE (R138). -/
def tilingOk (t : LaunchDesc) (w : WinE) : Bool :=
  1 ≤ t.tw && 1 ≤ t.th && 1 ≤ t.tt
    && (let nx := cdiv (ax w.o 0) t.tw
        let ny := if t.nstripe = 1 then cdiv (ax w.o 1) t.th else t.srows / t.th
        t.nout = nx * ny * cdiv (ax w.o 2) t.tt
          && (t.nstripe = 1 || (t.srows % t.th = 0 && 1 ≤ t.srows && t.nstripe = cdiv (ax w.o 1) t.srows)))

/-- Item 7 of R125. -/
def stageOk (t : LaunchDesc) (ws : List WinE) (sd : Desc) : Bool :=
  isGallery t.sbuf0 && isGallery (t.sbuf0 + t.sbytes - 1) && isGallery t.sbuf1 && isGallery (t.sbuf1 + t.sbytes - 1)
    && !meets t.sbuf0 t.sbytes t.sbuf1 t.sbytes
    && (List.range t.nstripe).all (fun s => (stripeDesc t ws sd s).footprint ≤ t.sbytes)

/-- A failed check: the cause and the TSQ_ERR bit. -/
abbrev LaunchErr := Nat × Option Nat

/-- Read and check the launch tile descriptor at `a` and what it names (R123, R125, R137). -/
def Dev.readLaunch (d : Dev) (k p a : Nat) : (LaunchErr ⊕ LaunchIn) × Dev :=
  let acc : Acc := ⟨some p, tsqSrc k⟩
  if a = 0 then (.inr ⟨none, [], none, none⟩, d)
  else match d.readStruct acc 64 a 128 with
    | (none, d) => (.inl (3, some 0), d)
    | (some l, d) =>
      let t := LaunchDesc.ofBytes l
      if !t.ok l then (.inl (3, some 0), d)
      else if t.fuse ≠ 0 && d.parts ≠ 1 then (.inl (3, some 3), d)
      else if !t.window then (.inr ⟨some t, [], none, none⟩, d)
      else
        match d.readStruct acc 32 t.win (32 * (t.fuse + 1)) with
        | (none, d) => (.inl (3, some 1), d)
        | (some wl, d) =>
          let raws := (List.range (t.fuse + 1)).map (fun k => (wl.drop (32 * k)).take 32)
          let ws := raws.map WinE.ofBytes
          if ws.any WinE.tooLarge then (.inl (9, some 2), d)
          else if !((raws.zip ws).all (fun e => WinE.ok e.1 e.2) && winChain ws
              && (match ws.getLast? with
                | some w => tilingOk t w
                | none => false)) then (.inl (3, some 1), d)
          else if !t.stage then (.inr ⟨some t, ws, none, none⟩, d)
          else match d.loadDesc acc t.sdesc with
            | (none, d) => (.inl (3, some 4), d)
            | (some sd, d) =>
              if !stageOk t ws sd then (.inl (3, some 4), d)
              else
                -- a compressed input map meets R181
                let c := d.clsOk (d.trwOn p) p sd
                if c.1 then (.inr ⟨some t, ws, some sd, none⟩, c.2) else (.inl (0xB, some 4), c.2)

/-! ### Tile records (Tables 5-3, 6-4) -/

/-- The KV fields of a record. -/
def kvFields (v : KvWalk) (o p : Nat) : List Byte :=
  let e := v.batch.getD (o / v.nblk) ⟨0, 0, 0, 0⟩
  let j := o % v.nblk
  let t0 := j * v.kb
  let ntok := min v.kb (v.wlen (o / v.nblk) - t0)
  leBytes 4 e.slot ++ leBytes 4 j ++ leBytes 4 t0 ++ leBytes 4 ntok ++ leBytes 4 (v.wlen (o / v.nblk))
    ++ leBytes 4 (if e.len / p < (t0 + ntok - 1) / p + 1 then 1 else 0)

/-- The record of index `i`; `buf` is the weight buffer of its group and `p` the tokens per page of a KV launch. -/
def recordOf (l : LaunchSt) (t : LaunchDesc) (i : Nat) (newGrp : Bool) (buf : Nat) (re : Bool) (p : Nat) : List Byte :=
  let s := (t.sgo i).1
  let g := (t.sgo i).2.1
  let o := (t.sgo i).2.2
  let w := l.win.getLast?
  let org := match w with
    | some w => tileOrigin t w i
    | none => (0, 0, 0)
  let ext (k a n : Nat) : Nat := match w with
    | some w => min n (ax w.o k - a)
    | none => 0
  let e := (ext 0 org.1 t.tw, ext 1 org.2.1 t.th, ext 2 org.2.2 t.tt)
  let rx := if t.window then regionsOf l.win 0 org.1 e.1 else []
  let ry := if t.window then regionsOf l.win 1 org.2.1 e.2.1 else []
  let rt := if t.window then regionsOf l.win 2 org.2.2 e.2.2 else []
  -- EDGE: a pad count or an output clip is not 0
  let edge := t.window && ((rx ++ ry ++ rt).any (fun r => r.2.2 ≠ 0) || e.1 ≠ t.tw || e.2.1 ≠ t.th || e.2.2 ≠ t.tt)
  let fl := newGrp.toNat + 2 * buf + 4 * re.toNat + 8 * edge.toNat + 16 * (if t.stage then s % 2 else 0)
  let head := leBytes 8 i ++ leBytes 4 g ++ leBytes 4 o ++ leBytes 4 s ++ leBytes 4 fl ++ leBytes 2 org.1
    ++ leBytes 2 org.2.1 ++ leBytes 2 org.2.2 ++ leBytes 2 0
    ++ leBytes 4 (if t.stage then (stripeRows t l.win s).1 else 0) ++ leBytes 2 e.1 ++ leBytes 2 e.2.1 ++ leBytes 2 e.2.2
    ++ leBytes 6 0
  let regs := (List.range rx.length).flatMap (fun k =>
    let x := rx.getD k (0, 0, 0)
    let y := ry.getD k (0, 0, 0)
    let z := rt.getD k (0, 0, 0)
    leBytes 2 x.1 ++ leBytes 2 y.1 ++ leBytes 2 z.1 ++ leBytes 2 x.2.1 ++ leBytes 2 y.2.1 ++ leBytes 2 z.2.1
      ++ leBytes 1 x.2.2 ++ leBytes 1 y.2.2 ++ leBytes 1 z.2.2 ++ leBytes 1 0)
  let body := head ++ regs ++ (match l.kv with
    | some v => kvFields v o p
    | none => [])
  body ++ List.replicate (256 - body.length) 0

/-! ### Handing an index (R126, R128, R130, R133) -/

/-- Take an index for a core, reissued ones first (R134); none when none remains or an exception ended the handing. -/
def Dev.takeIdx (d : Dev) (k : Nat) (l : LaunchSt) : Option (Nat × Bool × Dev) :=
  match l.tile with
  | none => none
  | some t =>
    if l.stop then none
    else match l.reissue with
      | i :: rest => some (i, true, d.setLaunch k { l with reissue := rest })
      | [] => match l.nextFrom t (d.nextIdx k) with
        | none => none
        | some i =>
          let d := (d.wr64 (slotReg k 0x10) ((l.nextFrom t (i + 1)).getD t.stop)).slotStat k
          let s := (t.sgo i).1
          some (i, false, if d.rdFld (slotReg k 0x28) 23 0 < s then d.wrFld (slotReg k 0x28) 23 0 s else d)

/-- Retire tile `i` of core `c` (R128). -/
def Dev.retireTile (d : Dev) (c i : Nat) : Dev :=
  let s := d.core c
  match s.launch with
  | none => d
  | some k =>
    let d := d.setCore c { s with held := s.held.filter (·.idx ≠ i) }
    ((d.add64 (slotReg k 0x18) 1).slotStat k).launchDone k

/-- Pocket address of an offset of core `c`. -/
def Dev.pocket (_ : Dev) (c off : Nat) : Nat := pocketAddr c off

/-- Do all earlier instructions of a core that touch [a, a + n) have completed (R131)? -/
def CoreSt.clearOf (s : CoreSt) (a n : Nat) : Bool :=
  s.ents.all (fun e => !(e.reads ++ e.writes).any (fun r => meets a n r.1 (r.2 - r.1)))

/-- Restart a launch's idle core, or start it, in the state of R87; `x` is its command. -/
def Dev.startCore (d : Dev) (k c : Nat) (l : LaunchSt) (x : Inflight) : Dev :=
  let s : CoreSt := { CoreSt.reset with
    x := [(10, BitVec.ofNat 64 l.arg), (11, BitVec.ofNat 64 c), (12, BitVec.ofNat 64 l.cores.length)].filter (fun e => e.2 ≠ 0),
    pc := l.entry, launch := some k, tseq := BitVec.ofNat 32 x.seq, tepoch := x.epoch }
  ((d.setCore c s).setCoreState c 2).updLaunch k (fun l => { l with started := insNat c l.started })

/-- Core `c` ends its part of its launch (R110, R114, R116). -/
def Dev.endPart (d : Dev) (c : Nat) : Dev :=
  let s := d.core c
  match s.launch with
  | none => d
  | some k =>
    let d := d.wr (rCoreFlags c) (d.rd (rCoreFlags c) ||| s.tflags)
    let d := d.setCore c { s with launch := none, held := [], wait := .run }
    let d := if d.coreState c = 2 then d.setCoreState c 1 else d
    (d.updLaunch k (fun l => { l with ended := insNat c l.ended })).launchDone k

/-! ### Wakes (R321, R323) -/

/-- Is compute die `n` in NAP? -/
def Dev.inNap (d : Dev) (n : Nat) : Bool := bitOf (8 + n) (d.rd rPwrStatus)

/-- A KERNEL requests a wake for every gated core of its dies, waking the die from NAP first. -/
def Dev.wakeCores (d : Dev) (cs : List Nat) (prio : Nat) : Dev :=
  d.each cs (fun d c =>
    let d := if d.inNap (c / 192) then d.requestWake (.die (Fin.ofNat 8 (c / 192))) prio else d
    if d.coreState c = 3 || d.coreState c = 4 then d.requestWake (.core (Fin.ofNat 1536 c)) prio else d)

end Sys2Proof.Machine
end

