-- ==== Sys2Proof/Machine/KvOps.lean ====
section
/-! DEFINITION. The paged KV store (R145 to R156): geometry, page lists, the Hod, and the work of its commands and fills. -/

namespace Sys2Proof.Machine

/-- DMA_KV_GEOM (Table 6-6): layers, streams, tokens per page, bytes per token. -/
structure KvGeom where
  layers : Nat
  nstr : Nat
  p : Nat
  tokb : Nat
  deriving DecidableEq, Repr

/-- The geometry of partition `p`. -/
def Dev.kvGeom (d : Dev) (p : Nat) : KvGeom :=
  let w := d.rd (rDmaKvGeom p)
  ⟨fld 6 0 w + 1, if bitOf 7 w then 2 else 1, 2 ^ fld 10 8 w, 64 * fld 26 16 w⟩

/-- LS. -/
def KvGeom.ls (g : KvGeom) : Nat := g.layers / g.nstr
/-- F. -/
def KvGeom.frames (g : KvGeom) : Nat := 4 / g.nstr

/-- The conditions of R145. -/
def KvGeom.ok (g : KvGeom) : Bool :=
  g.layers ≤ 128 && g.layers % g.nstr = 0 && g.p ≤ 64 && 64 ≤ g.tokb && g.tokb ≤ 65536 && 2 * g.ls * g.p * g.tokb ≤ 65536

/-- A KV table entry (Table 6-1). -/
structure KvEntry where
  len : Nat
  maxlen : Nat
  plist : Nat
  state : Nat
  deriving DecidableEq, Repr

/-- The address of slot `b`'s entry. -/
def Dev.kvAddr (d : Dev) (p b : Nat) : Nat := d.rd64 (rDmaKvTblLo p) + 32 * b

/-- Read slot `b`'s entry. -/
def Dev.kvEntry (d : Dev) (acc : Acc) (p b : Nat) : KvEntry × Dev :=
  let r := d.readMem acc (d.kvAddr p b) 32
  let l := r.1.bytes
  (⟨leAt l 0 4, leAt l 4 4, nfld 47 0 (leAt l 8 8), leAt l 16 4⟩, r.2)

/-- Write slot `b`'s entry. -/
def Dev.setKvEntry (d : Dev) (acc : Acc) (p b : Nat) (e : KvEntry) : Dev :=
  (d.writeMem acc (d.kvAddr p b)
    (clean (leBytes 4 e.len ++ leBytes 4 e.maxlen ++ leBytes 8 e.plist ++ leBytes 4 e.state ++ leBytes 12 0))).2

/-- Flag an error of DMA_KV_ERR with its slot. -/
def Dev.kvErr (d : Dev) (p bit b : Nat) : Dev :=
  d.raise (rDmaKvErr p) bit (fun d => d.wr (rDmaKvErrSlot p) (BitVec.ofNat 32 (b % 4096)))

/-- Is the KV store of partition `p` in service? -/
def Dev.kvOn (d : Dev) (p : Nat) : Bool := bitOf 0 (d.rd (rDmaKvCtl p))

/-- Is it in service for a command: EN is 1, or the command was dispatched before the clear of EN that waits for it (R158)? -/
def Dev.kvOnFor (d : Dev) (x : Inflight) : Bool := d.kvOn x.part || x.before d.kvClosing

/-- PMAX. -/
def KvEntry.pmax (e : KvEntry) (g : KvGeom) : Nat := cdiv e.maxlen g.p

/-- The backing page of page (s, p) of a slot; none when V = 0 or the entry is poisoned. -/
def Dev.kvPage (d : Dev) (acc : Acc) (g : KvGeom) (e : KvEntry) (s p : Nat) : Option Nat × Dev :=
  let r := d.readMem acc (e.plist + (s * e.pmax g + p) * 8) 8
  let w := ofLe r.1.bytes
  (if r.1.bad.isSome || !w.testBit 0 then none else some (nfld 47 16 w * 65536), r.2)

/-- The frame of page (s, p) of slot `b` (R149). -/
def Dev.hodFrame (d : Dev) (part b : Nat) (g : KvGeom) (s p : Nat) : Nat :=
  d.rd64 (rDmaKvHodLo part) + b * 0x40000 + (s * g.frames + p % g.frames) * 0x10000

/-! ### Order against launches (R152) -/

/-- Does a KV launch read a frame of slot `b` that holds page number `n` modulo F? -/
def KvWalk.reads (v : KvWalk) (g : KvGeom) (b n : Nat) : Bool :=
  v.batch.any (fun e => e.slot = b &&
    (rangeFrom (e.len / g.p) ((e.len + v.adv + g.p - 1) / g.p - e.len / g.p)).any (fun q => q % g.frames = n % g.frames))

/-- The KV walk of a KERNEL that has been dispatched. -/
def Inflight.walk (x : Inflight) : Option KvWalk := match x.copied with
  | some (.inr i) => i.kv
  | _ => none

/-- Does a KV launch that was dispatched before order `ord`, and has not completed, read one of these pages' frames? -/
def Dev.kvHeld (d : Dev) (part ord b : Nat) (g : KvGeom) (pages : List Nat) : Bool :=
  d.queue.infl.any (fun x =>
    x.part = part && x.cls = 0 && x.phase ≠ .ended && x.phase ≠ .early && decide (x.ord < ord)
      && x.walk.any (fun v => pages.any (v.reads g b)))

/-! ### Entries of the commands (R151) -/

/-- What the work on one entry comes to: done, refused with an error bit, refused with none (R21), or to be tried again. -/
inductive KvOut
  | ok (poison : Option Nat)
  | fail (bit : Nat)
  | lost
  | wait
  | beyond
  deriving DecidableEq, Repr

/-- Flush page `n` of stream `s`: one 65,536-byte burst from its frame to its backing page. -/
def Dev.kvFlush (d : Dev) (acc : Acc) (part b : Nat) (g : KvGeom) (s n page : Nat) : (Option Nat × Bool) × Dev :=
  let r := d.readMem acc (d.hodFrame part b g s n) 65536
  let w := r.2.writeMemIn inHbmManaged acc page r.1.data
  let lost := w.1.isSome || r.1.refused
  ((r.1.bad, lost), if lost then w.2 else w.2.add64 (rDmaKvFlushLo part) 1)

/-- KVOPEN of one slot. -/
def Dev.kvOpen (d : Dev) (acc : Acc) (part b maxlen plist : Nat) : KvOut × Dev :=
  let e := d.kvEntry acc part b
  if e.1.state % 2 = 1 || maxlen < 1 || 2 ^ 20 < maxlen then (.fail 1, e.2)
  else
    let d := e.2.setKvEntry acc part b ⟨0, maxlen, nfld 47 0 plist, 1⟩
    (.ok none, d.wr (rDmaKvOpen part) (d.rd (rDmaKvOpen part) + 1))

/-- KVCLOSE of one slot; it releases the slot's frames. -/
def Dev.kvClose (d : Dev) (acc : Acc) (part ord b : Nat) : KvOut × Dev :=
  let g := d.kvGeom part
  let e := d.kvEntry acc part b
  if e.1.state % 2 = 0 then (.fail 1, e.2)
  else if d.kvHeld part ord b g (List.range g.frames) then (.wait, d)
  else
    let d := e.2.setKvEntry acc part b { e.1 with state := 0 }
    (.ok none, d.wr (rDmaKvOpen part) (d.rd (rDmaKvOpen part) - 1))

/-- KVAPPEND of one slot: every page that fills is flushed in each stream, then LEN grows. -/
def Dev.kvAppend (d : Dev) (acc : Acc) (part ord b adv : Nat) : KvOut × Dev :=
  let g := d.kvGeom part
  let e := d.kvEntry acc part b
  let len := e.1.len
  if e.1.state % 2 = 0 then (.fail 1, e.2)
  else if e.1.maxlen < len + adv then (.fail 2, e.2)
  else if g.frames ≤ (len + adv - 1) / g.p - len / g.p then (.fail 3, e.2)
  else
    let pages := (rangeFrom (len / g.p) (adv / g.p + 2)).filter (fun n => len < (n + 1) * g.p && (n + 1) * g.p ≤ len + adv)
    if d.kvHeld part ord b g pages then (.wait, d)
    else
      let want := (List.range g.nstr).flatMap (fun s => pages.map (fun n => (s, n)))
      let ps := want.foldl (fun (r : List (Option Nat) × Dev) w =>
        let x := r.2.kvPage acc g e.1 w.1 w.2
        (r.1 ++ [x.1], x.2)) ([], e.2)
      if ps.1.any (·.isNone) then (.fail 4, ps.2)
      else
        let fl := (want.zip ps.1).foldl (fun (r : (Option Nat × Bool) × Dev) w =>
          let x := r.2.kvFlush acc part b g w.1.1 w.1.2 (w.2.getD 0)
          ((first r.1.1 x.1.1, r.1.2 || x.1.2), x.2)) ((none, false), ps.2)
        if fl.1.2 then (.lost, fl.2)
        else
          let st := if fl.1.1.isSome then 3 else e.1.state
          let d := fl.2.setKvEntry acc part b { e.1 with len := len + adv, state := st }
          (.ok fl.1.1, if fl.1.1.isSome then d.kvErr part 5 b else d)

/-- KVTRIM of one slot: the page that the new length cuts is reloaded into its frame, and the frames of the pages above it are
released. A reload that is refused a read leaves poison in the frame (R21). -/
def Dev.kvTrim (d : Dev) (acc : Acc) (part ord b t : Nat) : KvOut × Dev :=
  let g := d.kvGeom part
  let e := d.kvEntry acc part b
  if e.1.state % 2 = 0 || e.1.len < t then (.fail 1, e.2)
  else if t = e.1.len then (.ok none, e.2)
  else
    let n := t / g.p
    let reload := t % g.p ≠ 0 && n < e.1.len / g.p
    let touched := (if reload then [n] else []) ++ if n < e.1.len / g.p then rangeFrom (e.1.len / g.p) g.frames else []
    if d.kvHeld part ord b g touched then (.wait, d)
    else
      let ss := if reload then List.range g.nstr else []
      let ps := ss.foldl (fun (r : List (Option Nat) × Dev) s =>
        let x := r.2.kvPage acc g e.1 s n
        (r.1 ++ [x.1], x.2)) ([], e.2)
      if ps.1.any (·.isNone) then (.fail 4, ps.2)
      else
        let m := (ss.zip ps.1).foldl (fun (r : Option Nat × Dev) w =>
          let x := r.2.readMemIn inHbmManaged acc (w.2.getD 0) 65536
          let y := x.2.writeMem acc (d.hodFrame part b g w.1 n) x.1.data
          (first r.1 (first x.1.bad y.1), y.2)) (none, ps.2)
        (.ok m.1, m.2.setKvEntry acc part b { e.1 with len := t })

/-! ### The page walk (R153 to R156) -/

/-- Read and check a KV walk descriptor against the launch (R154). -/
def Dev.readWalk (d : Dev) (k p a : Nat) (t : Option LaunchDesc) : Option KvWalk × Dev :=
  let acc : Acc := ⟨some p, tsqSrc k⟩
  let g := d.kvGeom p
  match d.readStruct acc 1 a 64 with
  | (none, d) => (none, d)
  | (some l, d) =>
    let nseq := leAt l 8 4
    let nblk := leAt l 0xC 4
    let layer := leAt l 0x10 2
    let kb := leAt l 0x12 2
    let adv := leAt l 0x14 1
    let flags := leAt l 0x15 1
    let kbuf := leAt l 0x18 4
    let fb := (flags % 2 + flags / 2 % 2) * kb * g.tokb
    let tileOk : Bool := match t with
      | none => false
      | some t => t.ngroup = 1 && t.nstripe = 1 && t.wbase = 0 && !t.window && t.trec ≠ 0xFFFFFFFF && t.nout = nseq * nblk
          && disjoint [(kbuf, fb), (kbuf + fb, fb), (t.trec, 256), (t.trec + 256, 256)]
    if !(1 ≤ nseq && nseq ≤ 4096 && 1 ≤ nblk && layer < g.layers && kb % g.p = 0 && 16 ≤ kb && kb ≤ 4096 && adv ≤ 64
        && flags < 16 && leAt l 0x16 2 = 0 && (l.drop 0x1C).all (· = 0) && kbuf % 64 = 0 && kbuf + 2 * fb ≤ 0x180000
        && tileOk) then (none, d)
    else match d.readStruct acc 1 (leAt l 0 8) (4 * nseq) with
      | (none, d) => (none, d)
      | (some bl, d) =>
        let slots := (List.range nseq).map (fun i => leAt bl (4 * i) 4)
        let r := slots.foldl (fun (r : (List KvSeq × Bool) × Dev) b =>
          if !r.1.2 then r
          else if (d.rd (rDmaKvSlots p)).toNat ≤ b then ((r.1.1, false), r.2.kvErr p 1 b)
          else
            let e := r.2.kvEntry acc p b
            let w := e.1.len + adv
            if e.1.state % 2 = 0 then ((r.1.1, false), e.2.kvErr p 1 b)
            else if e.1.maxlen < w then ((r.1.1, false), e.2.kvErr p 2 b)
            else if 1 ≤ w && g.frames ≤ (w - 1) / g.p - e.1.len / g.p then ((r.1.1, false), e.2.kvErr p 3 b)
            else if nblk * kb < w then ((r.1.1, false), e.2.kvErr p 1 b)
            else ((r.1.1 ++ [⟨b, e.1.len, e.1.plist, e.1.maxlen⟩], true), e.2)) (([], true), d)
        (if r.1.2 then some ⟨r.1.1, nblk, layer, kb, adv, flags, kbuf⟩ else none, r.2)

/-- FB of R156. -/
def KvWalk.fb (v : KvWalk) (g : KvGeom) : Nat := (v.flags % 2 + v.flags / 2 % 2) * v.kb * g.tokb

/-- A page's run of a fill (R156): the bytes of the parts read (0 keys, 1 values), `c` tokens of each, out of page `n` of the
layer's stream, whose page list entry read as `ent`. -/
def Dev.kvRun (d : Dev) (acc : Acc) (part : Nat) (g : KvGeom) (v : KvWalk) (e : KvSeq) (ent : Marked) (ps : List Nat) (n c : Nat) :
    (List Marked × Option Nat) × Dev :=
  let s := v.layer / g.ls
  let lam := v.layer - s * g.ls
  let run := g.p * g.tokb
  let need := c * g.tokb
  let off (k : Nat) : Nat := (lam * 2 + k) * run
  let dead : List Marked := ps.map (fun _ => List.replicate need (0, true))
  if e.len / g.p ≤ n then
    -- tokens held in the Hod
    ps.foldl (fun (r : (List Marked × Option Nat) × Dev) k =>
      let x := r.2.readReq acc 2048 (d.hodFrame part e.slot g s n + off k) need
      ((r.1.1 ++ [x.1.data], first r.1.2 x.1.bad), x.2)) (([], none), d)
  else
    let w := ofLe (ent.map (·.1))
    let a := e.plist + (s * cdiv e.maxlen g.p + n) * 8
    if ent.any (·.2) then ((dead, some a), d)
    else if !w.testBit 0 then ((dead, some a), d.kvErr part 4 e.slot)
    else
      let r := d.readReqIn inHbmManaged acc 2048 (nfld 47 16 w * 65536 + off (ps.headD 0)) (ps.length * run)
      ((ps.zipIdx.map (fun k => ((r.1.data.drop (k.2 * run)).take need)), r.1.bad), r.2)

/-- A KV fill (R156): a DMA engine of the core's die reads the block's page list entries, the pipe requests each page's run,
and the buffer is written; answers the first poisoned address. The die's first engine reads the list (log 73). -/
def Dev.kvFillRun (d : Dev) (acc : Acc) (part die : Nat) (v : KvWalk) (o buf : Nat) : Option Nat × Dev :=
  let g := d.kvGeom part
  let e := v.batch.getD (o / v.nblk) ⟨0, 0, 0, 0⟩
  let t0 := o % v.nblk * v.kb
  let ntok := min v.kb (v.wlen (o / v.nblk) - t0)
  let ps := (if v.flags.testBit 0 then [0] else []) ++ (if v.flags.testBit 1 then [1] else [])
  let list := d.readMem ⟨some part, srcOf (.dma (Fin.ofNat 96 (64 + 4 * die)))⟩
    (e.plist + (v.layer / g.ls * cdiv e.maxlen g.p + t0 / g.p) * 8) (v.kb / g.p * 8)
  -- the pages of the block: bytes of each part, token-major
  let r := (List.range (v.kb / g.p)).foldl (fun (r : (List Marked × Option Nat) × Dev) k =>
    let c := min g.p (ntok - k * g.p)
    let x := if c = 0 then ((ps.map (fun _ => []), none), r.2)
      else r.2.kvRun acc part g v e ((list.1.data.drop (8 * k)).take 8) ps (t0 / g.p + k) c
    ((r.1.1.zip x.1.1).map (fun p => p.1 ++ p.2), first r.1.2 x.1.2) |> fun y => (y, x.2)) ((ps.map (fun _ => []), none), list.2)
  -- positions from NTOK on are zeros
  let full (m : Marked) : Marked := m ++ List.replicate (v.kb * g.tokb - m.length) (0, false)
  let esz := if v.flags.testBit 3 then 2 else 1
  let across (m : Marked) : Marked :=
    let rows := (List.range v.kb).map (fun i => (m.drop (i * g.tokb)).take g.tokb)
    (List.range (g.tokb / esz)).flatMap (fun c => rows.flatMap (fun row => (row.drop (c * esz)).take esz))
  let out := ((ps.zip r.1.1).flatMap (fun p => if p.1 = 1 && v.flags.testBit 2 then across (full p.2) else full p.2))
  let w := r.2.writeMem acc buf out
  (first r.1.2 w.1, w.2.add64 (rDmaKvWalkLo part) out.length)

end Sys2Proof.Machine
end

