-- ==== Sys2Proof/Machine/CoreOps.lean ====
section
/-! DEFINITION. Cores (R87 to R117): exceptions, the issue checks of tensor instructions, the scoreboard, what an instruction
does when it starts and completes, and the TSYNC operations. -/

namespace Sys2Proof.Machine

/-! ### Exceptions (R113 to R115) -/

/-- Is (ts, src) earlier than the exception a launch holds? -/
def earlierExc (ts src : Nat) : Option (Exc × Nat) → Bool
  | none => true
  | some (e, s) => ts < e.ts || (ts = e.ts && src < s)

/-- Core `c` raises an exception: it stops issuing, and its launch hands no more tiles. -/
def Dev.raiseExc (d : Dev) (c cause pipe dreg : Nat) (precise : Bool) (pc : Nat) : Dev :=
  let s := d.core c
  let src := srcOf (.core (Fin.ofNat 1536 c))
  let e : Exc := ⟨cause, pipe, dreg, precise, pc, d.now⟩
  match s.wait with
  | .stopped _ => d.flw 1 cause src pc
  | _ =>
    let d := d.setCore c { s with wait := .stopped e }
    match s.launch with
    | none => d
    | some k => d.updLaunch k (fun l =>
        { l with stop := true, exc := if earlierExc d.now src l.exc then some (e, src) else l.exc })

/-- The exception that stopped core `c` ends: it is recorded and the core ends its part (R114). -/
def Dev.excEnd (d : Dev) (c : Nat) : Dev :=
  let s := d.core c
  match s.wait with
  | .stopped e =>
    if !s.ents.isEmpty then d
    else
      let w := d.rd (rCoreExc c)
      let d := if bitOf 31 w then d
        else (d.wr (rCoreExc c) (BitVec.ofNat 32 (e.cause + 2 ^ 8 * e.pipe + 2 ^ 10 * e.dreg
          + (if e.precise then 2 ^ 15 else 0) + 2 ^ 31))).wr64 (rCoreExcPcLo c) e.pc
      (d.flw 1 e.cause (srcOf (.core (Fin.ofNat 1536 c))) e.pc).endPart c
  | _ => d

/-! ### The launch of a core -/

/-- The command in flight of a core's launch. -/
def Dev.cmdOf (d : Dev) (c : Nat) : Option Inflight :=
  match (d.core c).launch with
  | none => none
  | some k => match d.launch? k with
    | none => none
    | some l => d.queue.infl.find? (fun x => x.q = l.q && x.i = l.i)

/-- What a core's instructions run with: its access, the EPOCH, seed, rounding and SEQ sampled at dispatch, its tile. -/
def Dev.ctxOf (d : Dev) (c : Nat) (tile : DWord) : TCtx :=
  let p := d.partOfDie (c / 192)
  let acc : Acc := ⟨some p, srcOf (.core (Fin.ofNat 1536 c))⟩
  match d.cmdOf c with
  | some x => ⟨acc, x.epoch, ⟨x.seed, BitVec.ofNat 32 x.seq, tile, x.rnd⟩⟩
  | none => ⟨acc, 0, ⟨0, 0, tile, 1⟩⟩

/-- Note poison or a refusal at `a` for the launch of core `c`. -/
def Dev.corePoison (d : Dev) (c : Nat) (a : Nat) : Dev :=
  match (d.core c).launch with
  | none => d
  | some k => d.notePoison k a

/-! ### Operands and checks at issue (R95 to R109, R113) -/

/-- Descriptor registers that an operation names. -/
def opRegs (op : TOp) (f : RType) : List Nat :=
  let rd := f.rd.val
  let r1 := f.rs1.val
  let r2 := f.rs2.val
  match op with
  | .load => [rd, r1] | .store => [rd, r1] | .red => [rd, r1]
  | .vec => if vecBinary (f.f7.toNat % 64) then [rd, r1, r2] else [rd, r1]
  | .soft => [rd, r1, r2, r2 + 1, r2 + 2]
  | .sort => if f.f7.getLsbD 2 then [rd, r2] else [rd]
  | .kvFill _ _ => []
  | _ => [rd, r1, r2]

/-- Does the encoding or a TARG field lie outside R95 and R96? -/
def opIllegal (op : TOp) (f : RType) (t0 t1 : Nat) : Bool :=
  let v := f.f7.toNat
  let r2 := f.rs2.val
  match op with
  | .load => r2 ≠ 0 || 4 ≤ v || (v.testBit 0 && !permOk t0)
  | .store => r2 ≠ 0 || 4 ≤ v || (v.testBit 0 && !permOk t0)
  | .mma => 2 ≤ v
  | .conv => 2 ≤ v || nfld 31 18 t0 ≠ 0 || nfld 31 24 t1 ≠ 0
  | .vec => 0x13 < v % 64 || (!vecBinary (v % 64) && r2 ≠ 0)
  | .red => r2 ≠ 0 || 5 < v % 8 || 32 ≤ v
  | .soft => 4 ≤ v || 29 < r2
  | .seg => 4 ≤ v
  | .sort => f.rs1.val ≠ 0 || 8 ≤ v || (!v.testBit 2 && r2 ≠ 0)
  | .gather => v ≠ 0
  | .scatter => v ≠ 0
  | .scatterAdd => 2 ≤ v
  | .kvFill _ _ => false

/-- Does an operand lie wholly in the first 1.5 MiB of core `c`'s own Pocket slot (R97)? -/
def ownPocket (c : Nat) (t : Desc) : Bool :=
  t.region = 0 && pocketAddr c 0 ≤ t.base && t.base + t.footprint ≤ pocketAddr c 0x180000

/-- The interval of an operand in core `c`'s Pocket, rounded outward to granules (R93); none outside it. -/
def pocketIv (c : Nat) (epoch : Word) (t : Desc) : Option (Nat × Nat) :=
  let a := t.org epoch
  let b := a + t.footprint
  if t.region = 0 && a < pocketAddr c 0x180000 && pocketAddr c 0 < b then some (a / 64 * 64, alignUp 64 b) else none

/-- Do two operands' intervals meet? -/
def descMeets (epoch : Word) (a b : Desc) : Bool := meets (a.org epoch) a.footprint (b.org epoch) b.footprint

/-- Operands that the instruction writes, and that it reads, as places in `opRegs`. -/
def opDests : TOp → List Nat
  | .soft => [0, 2, 3, 4]
  | .sort => [0, 1]
  | _ => [0]

/-- Operands read. -/
def opSrcs (op : TOp) (f : RType) : List Nat :=
  match op with
  | .load => [1] | .store => [1] | .red => [1]
  | .mma => if f.f7.getLsbD 0 then [0, 1, 2] else [1, 2]
  | .conv => if f.f7.getLsbD 0 then [0, 1, 2] else [1, 2]
  | .vec => if f.f7.toNat % 64 = 4 then [0, 1, 2] else [1, 2]
  | .soft => [1, 2, 3, 4]
  | .sort => [0, 1]
  | .scatterAdd => [0, 1, 2]
  | _ => [1, 2]

/-- Places whose operand must lie in the core's own Pocket with CLASS NONE. -/
def opPocket : TOp → List Nat
  | .load => [0] | .store => [1] | .gather => [0, 2] | .scatter => [1, 2] | .scatterAdd => [1, 2]
  | _ => [0, 1, 2, 3, 4]

/-- A cause with its descriptor register, when it applies. -/
def when_ (b : Bool) (cause dreg : Nat) : List (Nat × Nat) := if b then [(cause, dreg)] else []

/-- The inputs that TMMA accepts (R99). -/
def mmaFmt (a b : Fmt) : Bool :=
  let ok (f : Fmt) : Bool := !(f = .fp32 || f = .int32)
  ok a && ok b && ((a = .int8) == (b = .int8))

/-- FORMAT, SHAPE, LIMIT and filter causes of an operation on its operands. -/
def opCauses (op : TOp) (f : RType) (r : List Nat) (ds : List Desc) : List (Nat × Nat) :=
  let g (n : Nat) : Desc := ds.getD n ⟨.fp32, 1, 0, 0, false, 0, 1, 0, false, 0, 0, 0, 0, [], [], []⟩
  let z (n k : Nat) : Nat := (g n).size.getD k 1
  let reg (n : Nat) : Nat := r.getD n 0
  let isInt (n : Nat) : Bool := (g n).fmt = .int32
  match op with
  | .mma =>
    when_ (!mmaFmt (g 1).fmt (g 2).fmt) 4 (reg 1)
      ++ when_ (!((g 0).rank = 2 && (g 1).rank = 2 && (g 2).rank = 2 && z 1 0 = z 2 0 && z 0 0 = z 2 1 && z 0 1 = z 1 1)) 5 (reg 0)
      ++ when_ (1024 < z 1 1 || 65536 < z 1 0) 8 (reg 1)
  | .conv =>
    when_ (!mmaFmt (g 1).fmt (g 2).fmt) 4 (reg 1)
      ++ when_ (!(z 1 0 = z 2 0 && z 0 0 = z 2 4 && z 1 4 = 1 && z 1 5 = 1 && z 2 5 = 1 && z 0 4 = 1 && z 0 5 = 1)
          || (((g 1).fmt.isMx || (g 2).fmt.isMx) && z 1 0 % 32 ≠ 0)) 5 (reg 0)
      ++ when_ (1024 < z 0 1 * z 0 2 * z 0 3) 8 (reg 1)
      ++ when_ (15 < z 2 1 || 15 < z 2 2 || 7 < z 2 3) 9 (reg 2)
  | .vec =>
    let bin := vecBinary (f.f7.toNat % 64)
    let srcs := if f.f7.toNat % 64 = 4 then [0, 1, 2] else if bin then [1, 2] else [1]
    when_ (0x10 ≤ f.f7.toNat % 64 && !(isInt 0 && srcs.all isInt)) 4 (reg 0)
      ++ when_ ((List.range 6).any (fun k =>
          z 0 k ≠ ((if bin then [1, 2] else [1]).map (fun n => z n k)).foldl max 1
            || (if bin then [1, 2] else [1]).any (fun n => z n k ≠ z 0 k && z n k ≠ 1))) 5 (reg 0)
  | .red =>
    let dim := f.f7.toNat % 8
    when_ ((List.range 6).any (fun k => z 0 k ≠ if k = dim then 1 else z 1 k)) 5 (reg 0)
  | .soft =>
    when_ (!((g 2).fmt = .fp32 && (g 3).fmt = .fp32 && (g 4).fmt = .fp32)) 4 (reg 2)
      ++ when_ (!((g 0).size = (g 1).size && ((g 1).size.drop 2).all (· = 1) && z 2 0 = z 1 1 && z 3 0 = z 1 1
          && z 4 1 = z 1 1 && ((g 2).size.drop 1).all (· = 1) && ((g 3).size.drop 1).all (· = 1)
          && ((g 4).size.drop 2).all (· = 1))) 5 (reg 0)
  | .seg =>
    when_ (!isInt 2) 4 (reg 2)
      ++ when_ (!(z 1 1 = z 2 0 && z 0 0 = z 1 0 && ((g 1).size.drop 2).all (· = 1) && ((g 2).size.drop 1).all (· = 1)
          && ((g 0).size.drop 2).all (· = 1))) 5 (reg 0)
  | .sort =>
    let pay := f.f7.getLsbD 2
    when_ (!(isInt 0 || (g 0).fmt = .fp32) || (pay && !isInt 1)) 4 (reg 0)
      ++ when_ ((g 0).rank ≠ 1 || (pay && !(z 1 0 = z 0 0 && ((g 1).size.drop 1).all (· = 1)))) 5 (reg 0)
      ++ when_ (65536 < z 0 0) 0xA (reg 0)
  | .gather =>
    when_ (!isInt 2) 4 (reg 2)
      ++ when_ (!(z 0 1 = z 2 0 && z 0 0 = z 1 0 && ((g 0).size.drop 2).all (· = 1) && ((g 2).size.drop 1).all (· = 1))) 5 (reg 0)
      ++ when_ ((g 1).cls ≠ 0) 0xB (reg 1)
  | .scatter =>
    when_ (!isInt 2) 4 (reg 2)
      ++ when_ (!(z 1 1 = z 2 0 && z 1 0 = z 0 0 && ((g 1).size.drop 2).all (· = 1) && ((g 2).size.drop 1).all (· = 1))) 5 (reg 1)
      ++ when_ ((g 0).cls ≠ 0) 0xB (reg 0)
  | .scatterAdd =>
    when_ (!isInt 2) 4 (reg 2)
      ++ when_ (!((g 0).fmt = .fp32 || (isInt 0 && isInt 1))) 4 (reg 0)
      ++ when_ (!(z 1 1 = z 2 0 && z 1 0 = z 0 0 && ((g 1).size.drop 2).all (· = 1) && ((g 2).size.drop 1).all (· = 1))) 5 (reg 1)
      ++ when_ (f.f7.getLsbD 0 && 2 ≤ (g 0).region) 6 (reg 0)
      ++ when_ ((g 0).cls ≠ 0) 0xB (reg 0)
  | _ => []

/-- REGION or CLASS causes of R97. -/
def regionCauses (op : TOp) (c : Nat) (r : List Nat) (ds : List Desc) : List (Nat × Nat) :=
  (ds.zip r).zipIdx.flatMap (fun e =>
    if (opPocket op).contains e.2 then
      (if !ownPocket c e.1.1 then [(6, e.1.2)] else when_ (e.1.1.cls ≠ 0) 0xB e.1.2)
    else [])

/-- OVERLAP (R97, R98, R104): a destination that meets a source other than itself; TVEC accepts a destination identical to
a source. -/
def overlapCauses (op : TOp) (f : RType) (epoch : Word) (r : List Nat) (ds : List Desc) : List (Nat × Nat) :=
  let same (a b : Desc) : Bool := a.base = b.base && a.fmt = b.fmt && a.size = b.size && a.stride = b.stride
  (opDests op).flatMap (fun i => (opSrcs op f).flatMap (fun j =>
    match ds[i]?, ds[j]? with
    | some a, some b =>
      when_ (i ≠ j && descMeets epoch a b && !(op = .vec && same a b)) 7 (r.getD i 0)
    | _, _ => []))

/-- The lowest cause of a list. -/
def lowestCause (l : List (Nat × Nat)) : Option (Nat × Nat) := bestBy (fun e => 255 - e.1) l

/-- The transfer that a TLOAD or TSTORE entry performs. -/
def Dev.entXfer (d : Dev) (c : Nat) (e : TEntry) : Xfer :=
  let x := d.ctxOf c e.tile
  let g (n : Nat) : Desc := e.ops.getD n ⟨.fp32, 1, 0, 0, false, 0, 1, 0, false, 0, 0, 0, 0, [], [], []⟩
  let t (n : Nat) : Nat := (e.targ.getD n 0).toNat
  let off (n lo : Nat) : Int := signed 16 (nfld (lo + 15) lo (t n))
  { dst := g 0, src := g 1, perm := if e.f.f7.getLsbD 0 then permOf (t 0) else permId,
    offs := if e.f.f7.getLsbD 1 then [off 1 0, off 1 16, off 2 0, off 2 16] else [],
    store := e.op = .store, req := .core c e.id, acc := x.acc, chunk := 2048, rnd := x.rnd, epoch := x.epoch,
    engine := c / 192, build := (d.cmdOf c).any (fun x => !x.tblsrc) }

/-- CLASS causes of a compressed operand of TLOAD or TSTORE (R98, R181). -/
def Dev.classCauses (d : Dev) (c : Nat) (e : TEntry) (r : List Nat) : List (Nat × Nat) × Dev :=
  let p := d.partOfDie (c / 192)
  let on := d.trwOn p
  match e.op with
  | .load => let x := d.clsOk on p (e.ops.getD 1 (d.entXfer c e).src)
             (when_ (!x.1) 0xB (r.getD 1 0), x.2)
  | .store => let x := d.clsOk on p (e.ops.getD 0 (d.entXfer c e).dst)
              (when_ (!x.1 || !(d.entXfer c e).wholeBlocks) 0xB (r.getD 0 0), x.2)
  | _ => ([], d)

/-! ### Issue (R91, R92) -/

/-- May core `c` issue: it runs a launch, waits for nothing and is in service? -/
def Dev.issuing (d : Dev) (c : Nat) : Bool :=
  let s := d.core c
  s.launch.isSome && s.wait = .run && d.coreState c = 2

/-- Advance the pc. -/
def Dev.advance (d : Dev) (c n : Nat) : Dev := d.updCore c (fun s => { s with pc := (s.pc + n) % 2 ^ 64 })

/-- Is there room for an instruction of pipe `p` in its queue and on the scoreboard? -/
def CoreSt.room (s : CoreSt) (p : Nat) : Bool :=
  s.ents.length < 32 && (s.ents.filter (fun e => e.op.pipe = p && !e.started)).length < 8

/-- Issue a tensor instruction: a precise exception before any effect, a stall while its queue or the scoreboard is full
(the core's state is unchanged), or an entry with copies of its descriptors and TARGs. -/
def Dev.issue (d : Dev) (c : Nat) (op : TOp) (f : RType) : Dev :=
  if !d.issuing c then d
  else
    let s := d.core c
    let t (n : Nat) : Nat := (sget (fun _ => 0) s.targ n).toNat
    if opIllegal op f (t 0) (t 1) then d.raiseExc c 1 (op.pipe + 1) 0 true s.pc
    else
      let r := opRegs op f
      let os := r.map (fun n => (s.td.find? (·.1 = n)).map (·.2))
      match (r.zip os).find? (fun e => e.2.isNone) with
      | some e => d.raiseExc c 2 (op.pipe + 1) e.1 true s.pc
      | none =>
        let ds := os.filterMap id
        let ep := s.tepoch
        let iv (l : List Nat) : List (Nat × Nat) := l.filterMap (fun n => (ds[n]?).bind (pocketIv c ep))
        let e : TEntry := {
          id := s.nextId, op := op, f := f, ops := ds, targ := (List.range 4).map (fun n => sget (fun _ => 0) s.targ n),
          tile := s.trtile, pc := s.pc, reads := iv (opSrcs op f), writes := iv (opDests op), started := false }
        let cs := opCauses op f r ds ++ regionCauses op c r ds ++ overlapCauses op f ep r ds
        let k := if cs.isEmpty then d.classCauses c e r else ([], d)
        match lowestCause (cs ++ k.1) with
        | some x => k.2.raiseExc c x.1 (op.pipe + 1) x.2 true s.pc
        | none =>
          if !s.room op.pipe then d
          else (k.2.updCore c (fun s => { s with ents := s.ents ++ [e], nextId := s.nextId + 1 })).advance c 4

/-! ### Descriptor instructions (R91) -/

/-- Set a descriptor register to a descriptor that passes the check, or raise DESC_INVALID. -/
def Dev.setTd (d : Dev) (c n : Nat) (t : Option Desc) : Dev :=
  match t with
  | none => d.raiseExc c 3 0 n true (d.core c).pc
  | some t => (d.updCore c (fun s => { s with td := sput n (some t) s.td })).advance c 4

/-- A scalar operand of the core's own Pocket, checked against the scoreboard (R89, R93): its granule at `a`. -/
def Dev.scalarStalls (d : Dev) (c a : Nat) (wr : Bool) : Bool :=
  let g := a / 64 * 64
  pocketAddr c 0 ≤ a && a < pocketAddr c 0x180000
    && (d.core c).ents.any (fun e => (e.writes ++ if wr then e.reads else []).any (fun i => i.1 < g + 64 && g < i.2))

/-- The core read poisoned data (R117): the POISON flag of TFLAGS, and one count. -/
def Dev.readPoison (d : Dev) (c : Nat) : Dev :=
  (d.updCore c (fun s => { s with tflags := s.tflags ||| 16 })).addSat (rCorePoisonCount c) 1

/-- TDLD: the descriptor must be aligned, outside register space, and readable whole and clean (R395). -/
def Dev.doTdld (d : Dev) (c n a : Nat) : Dev :=
  if !d.issuing c then d
  else if d.scalarStalls c a false then d
  else if a % 64 ≠ 0 || (regOff a).isSome then d.setTd c n none
  else
    let acc := (d.ctxOf c 0).acc
    let r := d.readMem acc a 64
    if r.1.bad.isSome then (r.2.readPoison c).setTd c n none
    else
      let x := r.2.checkDesc acc r.1.bytes
      x.2.setTd c n x.1

/-- A descriptor register changed by `f` and checked again; an empty register raises DESC_EMPTY. -/
def Dev.retd (d : Dev) (c n : Nat) (f : Desc → Desc) : Dev :=
  if !d.issuing c then d
  else match ((d.core c).td.find? (·.1 = n)).map (·.2) with
    | none => d.raiseExc c 2 0 n true (d.core c).pc
    | some t =>
      let x := d.withMask (d.ctxOf c 0).acc (f t)
      x.2.setTd c n (if x.1.check then some x.1 else none)

/-- TDBASE. -/
def Dev.doTdbase (d : Dev) (c n v : Nat) : Dev := d.retd c n (fun t => { t with base := v % 2 ^ 48 })

/-- TDSIZE: dimension 6 or 7 raises ILLEGAL. -/
def Dev.doTdsize (d : Dev) (c n k v : Nat) : Dev :=
  if !d.issuing c then d
  else if 6 ≤ k then d.raiseExc c 1 0 n true (d.core c).pc
  else d.retd c n (fun t => { t with size := t.size.set k v })

/-! ### Start (R93) -/

/-- Does entry `x` have to wait for an earlier entry `y`? -/
def conflicts (y x : TEntry) : Bool :=
  let meet (l m : List (Nat × Nat)) : Bool := l.any (fun a => m.any (fun b => a.1 < b.2 && b.1 < a.2))
  meet y.writes x.reads || meet y.writes x.writes || meet y.reads x.writes

/-- The instruction that pipe `p` starts next: the first that has not started, once nothing earlier conflicts. -/
def CoreSt.startable (s : CoreSt) (p : Nat) : Option TEntry :=
  match s.ents.find? (fun e => e.op.pipe = p && !e.started) with
  | none => none
  | some e => if (s.ents.filter (fun y => y.id < e.id)).any (fun y => conflicts y e) then none else some e

/-- Apply what an instruction reports to its core and launch (R105, R116, R117). -/
def Dev.report (d : Dev) (c : Nat) (e : TEntry) (r : TRes) : Dev :=
  let fl := flagBits r.flags ||| (if r.readBad.isSome then 16 else 0) ||| (if r.idx ≠ 0 then 8 else 0)
  let d := d.updCore c (fun s => { s with tflags := s.tflags ||| fl })
  let d := match r.readBad with
    | some a => (d.addSat (rCorePoisonCount c) 1).corePoison c a
    | none => d
  let d := match r.writeBad with
    | some a => d.corePoison c a
    | none => d
  let d := (d.addSat (rCoreIdxrangeCount c) r.idx).add64 (rCoreMacLo c) r.macs
  if r.unsorted then d.raiseExc c 0xC 3 (e.f.rs2.val) false e.pc else d

/-- Run the transfer of a TLOAD or TSTORE whose source is at hand. -/
def Dev.runXfer (d : Dev) (c : Nat) (e : TEntry) : Dev :=
  let x := d.xferRun (d.entXfer c e)
  x.2.report c e ⟨x.1.flags, x.1.readBad, x.1.writeBad, 0, 0, false⟩

/-- What an entry does when it starts; a compressed source first goes through the Trowel engine. -/
def Dev.runEntry (d : Dev) (c : Nat) (e : TEntry) : Dev :=
  let x := d.ctxOf c e.tile
  let g (n : Nat) : Desc := e.ops.getD n ⟨.fp32, 1, 0, 0, false, 0, 1, 0, false, 0, 0, 0, 0, [], [], []⟩
  let t (n : Nat) : Nat := (e.targ.getD n 0).toNat
  let b (n : Nat) : Bool := e.f.f7.getLsbD n
  let v := e.f.f7.toNat
  let rep (r : TRes × Dev) : Dev := r.2.report c e r.1
  match e.op with
  | .load => let y := d.entXfer c e
             if y.srcBlocks.isEmpty then d.runXfer c e else d.xferBegin y
  | .store => d.runXfer c e
  | .mma => rep (d.runMma x (b 0) (g 0) (g 1) (g 2))
  | .conv => rep (d.runConv x (b 0) (convPar (t 0) (t 1)) (g 0) (g 1) (g 2))
  | .vec => rep (d.runVec x (v % 64) (b 6) (t 0 % 2 ^ 32) (t 1 % 2 ^ 32) (g 0) (g 1)
      (if vecBinary (v % 64) then some (g 2) else none))
  | .red => rep (d.runRed x (v % 8) (v / 8 % 4) (g 0) (g 1))
  | .soft => rep (d.runSoft x (b 0) (b 1) (t 0 % 2 ^ 32) (t 1) (t 2) (g 0) (g 1) (g 2) (g 3) (g 4))
  | .seg => rep (d.runSeg x (v % 4) (t 0) (g 0) (g 1) (g 2))
  | .sort => rep (d.runSort x (b 0) (b 1) (g 0) (if b 2 then some (g 1) else none))
  | .gather => rep (d.runGather x (g 0) (g 1) (g 2))
  | .scatter => rep (d.runScatter x (g 0) (g 1) (g 2))
  | .scatterAdd => rep (d.runScatterAdd x (b 0) (g 0) (g 1) (g 2))
  | .kvFill i k =>
    match (d.core c).launch.bind d.launch? with
    | some l => match l.kv, l.tile with
      | some w, some td =>
        let r := d.kvFillRun x.acc l.part (c / 192) w (td.sgo i).2.2 (pocketAddr c (w.kbuf + k % 2 * w.fb (d.kvGeom l.part)))
        r.2.report c e { TRes.none with readBad := r.1 }
      | _, _ => d
    | none => d

/-- Start the next instruction of pipe `p` of core `c`. -/
def Dev.startPipe (d : Dev) (c p : Nat) : Dev :=
  if d.coreState c ≠ 2 then d
  else match (d.core c).startable p with
    | none => d
    | some e =>
      (d.updCore c (fun s => { s with ents := mapIf (fun y => y.id = e.id) (fun y => { y with started := true }) s.ents })).runEntry c e

/-! ### TSYNC.TILE (R128 to R133, R142, R156) -/

/-- The weight buffer of a group count (R130). -/
def LaunchDesc.wbuf (t : LaunchDesc) (gcount : Nat) : Nat := if gcount % 2 = 1 then t.wbuf0 else t.wbuf1

/-- Join the open multicast of a group, or open one (R131). -/
def joinMcast (c g : Nat) (win : Nat) (live : List Nat) (ms : List Mcast) : List Mcast :=
  if ms.any (fun m => m.group = g && !m.closed) then
    mapIf (fun m => m.group = g && !m.closed) (fun m =>
      let j := insNat c m.joined
      { m with joined := j, closed := live.all j.contains }) ms
  else ms ++ [⟨g, [c], win = 0 || live.all (fun n => n = c)⟩]

/-- Go on with the TSYNC.TILE that core `c` waits in, as far as it can. -/
def Dev.tileProceed (d : Dev) (c : Nat) : Dev :=
  let s := d.core c
  match s.wait, s.launch with
  | .tile w, some k =>
    match d.launch? k with
    | none => d
    | some l => match l.tile with
      | none => d
      | some t =>
        let stripe := (t.sgo w.t).1
        let buf := pocketAddr c (t.wbuf s.gcount)
        let slot := pocketAddr c (t.trec + w.k % 2 * 256)
        let recOk := t.trec = 0xFFFFFFFF || s.clearOf slot 256
        if t.stage && !l.staged.contains stripe then d
        else if w.load = 1 then
          if !(recOk && s.clearOf buf t.wbytes) then d
          else
            (d.setCore c { s with wait := .tile { w with load := 2 } }).updLaunch k (fun l =>
              { l with mcasts := joinMcast c (t.sgo w.t).2.1 t.mcastWin (l.live d) l.mcasts })
        else if w.load = 2 || !recOk || (l.kv.isSome && !s.room 0) then d
        else
          let g := d.kvGeom l.part
          let d := if t.trec = 0xFFFFFFFF then d
            else (d.writeMem ⟨some l.part, tsqSrc k⟩ slot (clean
              (recordOf l t w.t w.newGrp (if t.wbase = 0 then 0 else (s.gcount + 1) % 2) w.reissued g.p))).2
          let ents := match l.kv with
            | none => s.ents
            | some v =>
              let a := pocketAddr c (v.kbuf + w.k % 2 * v.fb g)
              s.ents ++ [{ id := s.nextId, op := .kvFill w.t w.k, f := ⟨0, 0, 0, 0⟩, ops := [], targ := [], tile := s.trtile,
                           pc := s.pc, reads := [], writes := [(a, a + alignUp 64 (v.fb g))], started := false }]
          let n : DWord := BitVec.ofNat 64 w.t
          d.setCore c { (s.wx w.rd n) with
            ttile := n, trtile := n, wait := .run, pc := (s.pc + w.len) % 2 ^ 64, ents := ents, nextId := s.nextId + 1 }
  | _, _ => d

/-- TSYNC.TILE: take an index, or −1 when none remains. -/
def Dev.tsyncTile (d : Dev) (c rd : Nat) : Dev :=
  if !d.issuing c then d
  else
    let s := d.core c
    match s.launch with
    | none => d
    | some k => match d.launch? k with
      | none => d
      | some l => match l.tile, d.takeIdx k l with
        | some t, some (i, re, d) =>
          let g := (t.sgo i).2.1
          let newGrp := s.group ≠ some g
          let load := if newGrp && t.wbase ≠ 0 then 1 else 0
          -- the tile received two before this one is marked for retirement (R128)
          let free := (s.held.filter (·.upTo.isNone)).length
          let mark := if 2 ≤ free then (s.held.find? (·.upTo.isNone)).map (·.idx) else none
          let held := mapIf (fun h => some h.idx = mark) (fun h => { h with upTo := some s.nextId }) s.held
          let d := d.setCore c { s with
            held := held ++ [⟨i, none, re⟩], count := s.count + 1, group := some g,
            gcount := if newGrp then s.gcount + 1 else s.gcount,
            wait := .tile ⟨rd, i, s.count, load, newGrp, re, 4⟩ }
          ((d.add64 (rTsqTilesLo (hubOf k)) 1).slotStat k).tileProceed c
        | _, _ =>
          (d.setCore c { (s.wx rd 0xFFFFFFFFFFFFFFFF) with
            ttile := 0xFFFFFFFFFFFFFFFF, pc := (s.pc + 4) % 2 ^ 64 }).slotStat k

/-! ### Waiting and completing (R110, R128) -/

/-- Retire every tile that core `c` holds, then end its part (TSYNC.END). -/
def Dev.endAll (d : Dev) (c : Nat) : Dev :=
  let s := d.core c
  match s.launch with
  | none => d
  | some k =>
    let n := s.held.length
    let d := d.setCore c { s with held := [], dcache := [] }
    ((d.add64 (slotReg k 0x18) n).slotStat k).endPart c

/-- Let core `c` go on when what its issue waits for has come about. -/
def Dev.coreWake (d : Dev) (c : Nat) : Dev :=
  let s := d.core c
  let before (n : Nat) : Bool := s.ents.all (fun e => n ≤ e.id)
  match s.wait with
  | .pipes m n =>
    if s.ents.all (fun e => n ≤ e.id || !m.testBit e.op.pipe) then d.setCore c { s with wait := .run, pc := (s.pc + 4) % 2 ^ 64 } else d
  | .mem n => if before n then d.setCore c { s with wait := .run, dcache := [], pc := (s.pc + 4) % 2 ^ 64 } else d
  | .ending n => if before n then d.endAll c else d
  | .tile _ => d.tileProceed c
  | _ => d

/-- TSYNC.PIPE, MEM and END: issue waits from here on. -/
def Dev.tsync (d : Dev) (c : Nat) (w : Nat → CoreWait) : Dev :=
  if !d.issuing c then d else (d.updCore c (fun s => { s with wait := w s.nextId })).coreWake c

/-- Has the work of a started entry been performed: does no Trowel engine hold a block of it? -/
def Dev.performed (d : Dev) (c : Nat) (e : TEntry) : Bool := !d.trwHolds (.core c e.id)

/-- Complete the first started instruction of pipe `p`. -/
def Dev.completePipe (d : Dev) (c p : Nat) : Dev :=
  match (d.core c).ents.find? (fun e => e.op.pipe = p && e.started) with
  | none => d
  | some e =>
    if !d.performed c e then d
    else
      let d := d.updCore c (fun s => { s with ents := s.ents.filter (fun y => y.id ≠ e.id) })
      let d := match e.op with
        | .kvFill _ _ => d
        | _ => d.add64 (rCoreTinstrLo c) 1
      -- a compressed TSTORE reports a write that was refused its engine
      let b := d.trwTakeBad (.core c e.id)
      let d := if b.1.isSome then b.2.report c e { TRes.none with writeBad := b.1 } else b.2
      d.coreWake c

/-- Retire the first tile of core `c` that is marked and whose earlier instructions have completed. -/
def Dev.tileRetire (d : Dev) (c : Nat) : Dev :=
  let s := d.core c
  match s.held.find? (fun h => match h.upTo with
    | some n => s.ents.all (fun e => n ≤ e.id)
    | none => false) with
  | some h => if d.coreState c = 2 then d.retireTile c h.idx else d
  | none => d

/-! ### Multicasts (R131, R132) -/

/-- Close the open multicast of a group. -/
def Dev.mcastClose (d : Dev) (k g : Nat) : Dev :=
  d.updLaunch k (fun l => { l with mcasts := mapIf (fun m => m.group = g && !m.closed) (fun m => { m with closed := true }) l.mcasts })

/-- A closed multicast is performed: the group is read once from each source copy and written into every joined buffer. -/
def Dev.mcastDone (d : Dev) (k g : Nat) : Dev :=
  match d.launch? k with
  | none => d
  | some l => match l.tile, l.mcasts.find? (fun m => m.group = g && m.closed) with
    | some t, some m =>
      let joined := m.joined.filter (fun c => d.coreState c ≠ 5)
      let acc : Acc := ⟨some l.part, tsqSrc k⟩
      let org (c : Nat) : Nat := t.wbase + g * t.wstride + (if t.wrep then c / 192 * 0x48000000 else 0)
      let r := (sortNat (joined.map org)).foldl (fun (r : (List (Nat × Marked) × Option Nat) × Dev) a =>
        let x := r.2.readMem acc a t.wbytes
        ((r.1.1 ++ [(a, x.1.data)], first r.1.2 x.1.bad), x.2)) (([], none), d)
      let d := r.2.each joined (fun d c =>
        let data := ((r.1.1.find? (·.1 = org c)).map (·.2)).getD []
        let d := (d.writeMem acc (pocketAddr c (t.wbuf (d.core c).gcount)) data).2
        d.updCore c (fun s => match s.wait with
          | .tile w => { s with wait := .tile { w with load := 3 } }
          | _ => s))
      let d := (d.add64 (rTsqMcastLo (hubOf k)) 1).updLaunch k (fun l => { l with mcasts := l.mcasts.erase m })
      let d := match r.1.2 with
        | some a => d.notePoison k a
        | none => d
      d.each joined Dev.tileProceed
    | _, _ => d

/-! ### Stripes (R141, R142) -/

/-- The stripe that may be staged next, none when its conditions do not hold. -/
def Dev.nextStripe (d : Dev) (k : Nat) (l : LaunchSt) (t : LaunchDesc) : Option Nat :=
  let s := l.staged.length
  if !t.stage || l.staging.isSome || t.nstripe ≤ s then none
  else if s = 0 then some 0
  else
    let per := t.ngroup * t.nout
    let handed := decide ((s - 1) * per < d.nextIdx k) && decide (t.tfirst < d.nextIdx k)
    let clear := s < 2 || ((d.heldOf k ++ l.reissue).all (fun i => i / per ≠ s - 2) && decide ((s - 1) * per ≤ d.nextIdx k))
    if handed && clear then some s else none

/-- The copy of a stripe, as a transfer of the hub's DMA engines. -/
def Dev.stageXfer (d : Dev) (k : Nat) (l : LaunchSt) (t : LaunchDesc) (sd : Desc) (s : Nat) : Xfer :=
  let x := d.queue.infl.find? (fun x => x.q = l.q && x.i = l.i && x.phase ≠ .early)
  { dst := stripeDesc t l.win sd s, src := sd, perm := permId, offs := [0, 0, (stripeRows t l.win s).1, 0], store := false,
    req := .stage k, acc := ⟨some l.part, tsqSrc k⟩, chunk := 4096,
    rnd := ⟨0, 0, 0xFFFFFFFFFFFFFFFF, 1⟩, epoch := (x.map (·.epoch)).getD (d.rd (rColEpoch l.part)), engine := 8 + hubOf k,
    build := !bitOf 1 (d.rd (rTrwPctl l.part)) }

/-- Start staging. -/
def Dev.stageStart (d : Dev) (k : Nat) : Dev :=
  match d.launch? k with
  | none => d
  | some l => match l.tile, l.sdesc with
    | some t, some sd => match d.nextStripe k l t with
      | none => d
      | some s => (d.setLaunch k { l with staging := some s }).xferBegin (d.stageXfer k l t sd s)
    | _, _ => d

/-- Staging is performed: the rows are in the buffer, and TSYNC.TILEs that wait on the stripe go on. -/
def Dev.stageDone (d : Dev) (k : Nat) : Dev :=
  match d.launch? k with
  | none => d
  | some l => match l.tile, l.sdesc, l.staging with
    | some t, some sd, some s =>
      if d.trwDecoding (.stage k) then d
      else
        let x := d.stageXfer k l t sd s
        let r := d.xferRun x
        let d := if r.1.refused then r.2.notePoison k ((first r.1.readBad r.1.writeBad).getD 0) else r.2
        let l := (d.launch? k).getD l
        let d := (d.setLaunch k { l with staging := none, staged := l.staged ++ [s] }).add64 (rTsqStageBytesLo (hubOf k))
          x.dst.footprint
        d.each l.cores Dev.tileProceed
    | _, _, _ => d

end Sys2Proof.Machine
end

