-- ==== Sys2Proof/Machine/Control.lean ====
section
/-! DEFINITION. Operations over whole queues, launches, dies and the device: FLUSH (R244), the opening of a launch (R123, R240,
R251), fences (R24, R134 to R136, R303 to R305) and withdrawal (R306). -/

namespace Sys2Proof.Machine

/-! ### FLUSH (R244) -/

/-- The bytes of slot count `c` of queue `q`, fetched or read from the ring now. -/
def Dev.slotBytes (d : Dev) (q : Nat) (c : Word) : List Byte × Dev :=
  match d.queue.fetched.find? (fun f => f.q = q && f.cnt = c) with
  | some f => (f.bytes, d)
  | none =>
    let r := d.readMem ⟨some (d.qPart q), qmSrc q⟩ (d.rd64 (rQmgQBaseLo q) + c.toNat % d.ringSize q * 64) 64
    (r.1.bytes, r.2)

/-- Drop the launch slot of a KERNEL that was accepted early and is not dispatched. -/
def Dev.dropEarly (d : Dev) (q : Nat) (i : Word) : Dev :=
  let mine := d.launches.filter (fun e => e.2.early && e.2.q = q && e.2.i = i)
  let d := d.each mine (fun d e => (d.trwDrop (.stage e.1)).freeSlot e.1)
  { d with queue := { d.queue with infl := d.queue.infl.filter (fun x => !(x.q = q && x.i = i && x.phase = .early)) } }

/-- Complete the command at HEAD as NOT_STARTED with a cause, undispatched. -/
def Dev.flushOne (d : Dev) (q cause : Nat) : Dev :=
  let h := d.rd (rQmgQHead q)
  let s := d.slotBytes q h
  let two := (leAt s.1 0 4).testBit 8 && decide (2 ≤ (d.rd (rQmgQTail q) - h).toNat)
  let e := if two then s.2.slotBytes q (h + 1) else ([], s.2)
  let d := e.2.dropEarly q h
  let slot := if two then s.1 else leBytes 4 (leAt s.1 0 4 % 2 ^ 8 + leAt s.1 0 4 / 2 ^ 9 * 2 ^ 9) ++ s.1.drop 4
  let x : Inflight := {
    q := q, i := h, slot := slot, ext := e.1, part := d.qPart q, seed := 0, rnd := 1, epoch := 0, tblsrc := false, ts := 0,
    eng := 127, heldAt := 0, phase := .ended,
    res := { Result.fresh with status := .notStarted, cause := cause }, lastout := false, copied := none, descs := [],
    ord := d.queue.nextOrd }
  (d.wr (rQmgQHead q) (h + BitVec.ofNat 32 x.slots)).complete x 0

/-- Complete every command from HEAD to TAIL; `fuel` bounds their number. -/
def Dev.flushAll (d : Dev) (q cause : Nat) : Nat → Dev
  | 0 => d
  | fuel + 1 => if d.rd (rQmgQHead q) = d.rd (rQmgQTail q) then d else (d.flushOne q cause).flushAll q cause fuel

/-- FLUSH of queue `q`, while it is STOPPED or HALTED. -/
def Dev.flush (d : Dev) (q cause : Nat) : Dev :=
  let n := (d.rd (rQmgQTail q) - d.rd (rQmgQHead q)).toNat
  let d := d.flushAll q cause n
  { d with queue := { d.queue with fetched := d.queue.fetched.filter (·.q ≠ q), stuck := delNat q d.queue.stuck } }

/-- The queues whose EN is 1. -/
def Dev.enabledQueues (d : Dev) : List Nat :=
  d.regs.filterMap (fun e =>
    if 0x1400000 ≤ e.1 && e.1 < 0x1800000 && e.1 % 0x40 = 8 && bitOf 0 e.2 then some ((e.1 - 0x1400000) / 0x40) else none)

/-! ### Withdrawal (R306, R378) -/

/-- The device withdraws: TOP_STATUS says so, queued commands complete NOT_STARTED, and records are written. -/
def Dev.withdraw (d : Dev) (cause : Nat) : Dev :=
  let w := d.rd rTopStatus
  if bitOf 6 w then d
  else
    let d := d.wr rTopStatus (setFld 10 7 cause (setBit 6 true w))
    let d := { d with mgmt := { d.mgmt with wd := some (d.mgmt.enable, cause) } }
    let d := d.each d.enabledQueues (fun d q => d.flush q 0)
    (d.flw 5 0x31 (srcOf .mgmt) cause).ledger 10 (srcOf .mgmt) 0 4 0

/-! ### Launches (R122, R123, R240, R251) -/

/-- The hub whose sequencer runs launches of partition `p`. -/
def Dev.launchHub (d : Dev) (p : Nat) : Nat := if (d.diesOf p).all (4 ≤ ·) then 1 else 0

/-- The cores that a KERNEL names and that are neither FENCED nor ABSENT. -/
def Dev.kernelCores (d : Dev) (p dies : Nat) : List Nat :=
  let ds := if dies % 256 = 0 then d.diesOf p else (d.diesOf p).filter (fun n => dies.testBit n)
  ds.flatMap (fun n => (rangeFrom (192 * n) 192).filter (fun c => d.coreState c ≠ 0 && d.coreState c ≠ 5))

/-- The lowest free launch slot of a hub. -/
def Dev.freeLaunchSlot (d : Dev) (hub : Nat) : Option Nat :=
  (rangeFrom (hub * 256) 256).find? (fun k => (d.launch? k).isNone)

/-- Flag an error of TSQ_ERR with its capture (R125). -/
def Dev.tsqErr (d : Dev) (hub bit q seq : Nat) : Dev :=
  d.raise (rTsqErr hub) bit (fun d =>
    (d.wr (rTsqErrQ hub) (BitVec.ofNat 32 q)).wr (rTsqErrSeq hub) (BitVec.ofNat 32 seq))

/-- Open a launch slot for command `x` with structures that have passed their checks. -/
def Dev.openLaunch (d : Dev) (k : Nat) (x : Inflight) (i : LaunchIn) (early : Bool) (cores : List Nat) : Dev :=
  let l : LaunchSt := {
    q := x.q, i := x.i, part := x.part, entry := x.opd 0, arg := x.opd 1, tile := i.tile, win := i.win, sdesc := i.sdesc,
    kv := i.kv, early := early, cores := cores, started := [], ended := [], reissue := [], lost := [], reissued := [],
    staged := [], staging := none, mcasts := [], exc := none, poison := none, stop := false }
  let d := d.wr (slotReg k 0) 1
  let d := d.wr (slotReg k 4) (BitVec.ofNat 32 (x.q + 65536 * x.part))
  let d := d.wr (slotReg k 8) (BitVec.ofNat 32 x.seq)
  let first_ : Nat := match i.tile with
    | some t => (l.nextFrom t t.tfirst).getD t.stop
    | none => 0
  let d := ((d.wr64 (slotReg k 0x10) first_).wr64 (slotReg k 0x18) 0).wr (slotReg k 0x28) 0
  (d.setLaunch k l).tsqCount (hubOf k)

/-- The structures of a KERNEL are copied and checked as it is dispatched (R123, R125): its launch tile descriptor and window
table, unless they were copied when it was accepted early (R251), and its KV walk with every batch slot's LEN (R153). -/
def Dev.kernelCopy (d : Dev) (x : Inflight) : Dev :=
  let p := x.part
  let k := d.launchHub p * 256
  let put (d : Dev) (c : LaunchErr ⊕ LaunchIn) : Dev := d.setCmd x.q x.i (fun y => { y with copied := some c })
  let base : (LaunchErr ⊕ LaunchIn) × Dev := match x.copied with
    | some c => (c, d)
    | none => d.readLaunch k p (x.opd 2)
  match base with
  | (.inl e, d) => put d (.inl e)
  | (.inr i, d) =>
    if x.opd 3 = 0 then put d (.inr i)
    else if !d.kvOn p then put d (.inl (3, none))
    else match d.readWalk k p (x.opd 3) i.tile with
      | (some w, d) => put d (.inr { i with kv := some w })
      | (none, d) => put d (.inl (3, none))

/-- The sequencer takes a dispatched KERNEL: a launch slot opens with the structures copied at its dispatch; a launch accepted
early only gets its cores and its KV walk. -/
def Dev.kernelStart (d : Dev) (x : Inflight) : Dev :=
  let p := x.part
  let prio := d.rdFld (rQmgQCfg x.q) 8 6
  let cores := d.kernelCores p (x.opd 4)
  let hub := d.launchHub p
  if (d.diesOf p).all d.fenced then (d.dropEarly x.q x.i).finish x (aborted 0x27 0xFFFF)
  else match x.copied with
    | none => d
    | some (.inl e) =>
      let src := tsqSrc (hub * 256)
      let d := (d.dropEarly x.q x.i).finish x (aborted e.1 src)
      (match e.2 with
      | some b => (d.tsqErr hub b x.q x.seq).flw 3 b src 0
      | none => d)
    | some (.inr i) =>
      let opened := match d.launches.find? (fun e => e.2.early && e.2.q = x.q && e.2.i = x.i) with
        | some (k, l) => some (k, d.setLaunch k { l with early := false, cores := cores, kv := i.kv })
        | none => (d.freeLaunchSlot hub).map (fun k => (k, d.openLaunch k x i false cores))
      match opened with
      | none => d
      | some (k, d) => ((d.setCmd x.q x.i (fun y => { y with phase := .working })).wakeCores cores prio).launchDone k

/-- Accept the KERNEL at HEAD of queue `q` early (R251): it passes the checks of R239 and R240 and names no other partition's
counter (R19). What its structures fail of R125 ends it when it is dispatched. -/
def Dev.earlyAccept (d : Dev) (q : Nat) : Dev :=
  match d.head? q with
  | none => d
  | some (s, e) =>
    let p := d.qPart q
    let h := d.rd (rQmgQHead q)
    let ok := d.running q && !d.closing q && leAt s 0 1 = 0 && (leAt s 0 4).testBit 11
      && !d.queue.infl.any (fun x => x.q = q && x.i = h)
      && ((waitsOf s e).filter (·.kind)).all (d.waitMet q) && !d.badCmd p s e && !d.foreign p s e
    if !ok then d
    else match d.freeLaunchSlot (d.launchHub p) with
      | none => d
      | some k =>
        let r := d.readLaunch k p (d.sample q s e |>.opd 2)
        let x := { r.2.sample q s e with phase := .early, copied := some r.1 }
        let d := { r.2 with queue := { r.2.queue with infl := r.2.queue.infl ++ [x] } }
        match r.1 with
        | .inl _ => d
        | .inr i => (d.openLaunch k x i true []).wakeCores (d.kernelCores p (x.opd 4)) (d.rdFld (rQmgQCfg q) 8 6)

/-- Has a KERNEL that core `c` will join been dispatched before order `ord` and not been taken by its sequencer yet? -/
def Dev.joinsFirst (d : Dev) (c ord : Nat) : Bool :=
  d.queue.infl.any (fun y => y.cls = 0 && y.phase = .dispatched && decide (y.ord < ord) && (d.kernelCores y.part (y.opd 4)).contains c)

/-- Core `c` starts the earliest launch that names it and that it has not started (R87, R240). -/
def Dev.launchStart (d : Dev) (c : Nat) : Dev :=
  if (d.core c).launch.isSome || d.coreState c ≠ 1 then d
  else
    let mine := d.launches.filterMap (fun e =>
      if !e.2.early && e.2.cores.contains c && !e.2.started.contains c then
        (d.queue.infl.find? (fun x => x.q = e.2.q && x.i = e.2.i)).map (fun x => (x.ord, e, x))
      else none)
    match bestBy (fun m => d.queue.nextOrd - m.1) mine with
    | some (_, e, x) => if d.joinsFirst c x.ord then d else d.startCore e.1 c e.2 x
    | none => d

/-- The sequencer restarts ended cores of a launch to run reissued tiles (R134 step 5); those that are clock-gated or
power-gated are woken for it, and start when they wake. -/
def Dev.restart (d : Dev) (k : Nat) : Dev :=
  match d.launch? k with
  | none => d
  | some l =>
    let live := l.live d
    if l.early || l.stop || l.reissue.isEmpty || live.isEmpty || live.any (fun c => !l.ended.contains c) then d
    else
      let d := d.setLaunch k { l with started := [], ended := [] }
      let d := (d.wr (slotReg k 0) (setBit 4 true (d.rd (slotReg k 0)))).addSat (rTsqRestart (hubOf k)) live.length
      (d.wakeCores live (d.rdFld (rQmgQCfg l.q) 8 6)).each live Dev.launchStart

/-! ### Fences (R134 to R136, R303, R304) -/

/-- Put tiles held by fenced cores of launch `k` on the reissue list, or on the lost list (R134, R136). -/
def Dev.dropTiles (d : Dev) (k : Nat) (cs : List Nat) : Dev :=
  match d.launch? k with
  | none => d
  | some l =>
    let held := sortNat (cs.flatMap (fun c => if (d.core c).launch = some k then (d.core c).held.map (·.idx) else []))
    let d := d.each cs (fun d c => if (d.core c).launch = some k then
      d.setCore c { d.core c with launch := none, held := [], ents := [], wait := .run } else d)
    match l.tile with
    | none => d.slotStat k
    | some t =>
      if t.reissue then
        let d := d.setLaunch k { l with reissue := sortNat (l.reissue ++ held), reissued := l.reissued ++ held }
        (d.addSat (rTsqReissue (hubOf k)) held.length)
      else
        let n := l.lost.length
        let d := d.setLaunch k { l with lost := l.lost ++ held }
        if t.lost = 0 then d
        else
          let fit := held.take (t.lostmax - n)
          let d := d.each fit.zipIdx (fun d e =>
            (d.writeMem ⟨some l.part, tsqSrc k⟩ (t.lost + 8 * (n + e.2)) (clean (leBytes 8 e.1))).2)
          if fit.length < held.length then (d.tsqErr (hubOf k) 5 l.q (d.rd (slotReg k 8)).toNat).flw 3 5 (tsqSrc k) 0 else d

/-- A core becomes FENCED: it stops and takes no tiles. -/
def Dev.fenceCore (d : Dev) (c : Nat) : Dev := (d.updCore c (fun s => { s with ents := [] })).setCoreState c 5

/-- End a range scrub of a page: RANGE_BUSY clears and RANGE_FOUND holds what was found (R174). -/
def Dev.rangeEnd (d : Dev) (pg : Nat) : Dev :=
  match sget (fun _ => none) d.mem.range pg with
  | none => d
  | some r =>
    let d := { d with mem := { d.mem with range := sset (fun _ => none) d.mem.range pg none } }
    (d.wr (pgReg pg 0x70) (BitVec.ofNat 32 r.found)).wrFld (pgReg pg 0) 1 1 0

/-- PROGRESS of a command that ended but of which its die's Trowel engine still holds blocks: the bytes before the first of
them in the destination's index order (R242); none when no block is held. -/
def Dev.heldProgress (d : Dev) (x : Inflight) : Option Nat :=
  let mine := d.trw.queues.flatMap (fun e => e.2.filter (fun j => j.enc && j.req = .cmd x.q x.i))
    ++ d.trw.builds.flatMap (fun e => match e.2 with
      | some b => b.sample.filter (fun j => j.req = .cmd x.q x.i)
      | none => [])
  match bestBy (fun (j : TrwJob) => j.desc.nblocks - j.blk) mine with
  | some j => some (256 * j.blk * j.desc.esize)
  | none => none

/-- Forget the blocks of a command that engines hold. -/
def Dev.trwForget (d : Dev) (r : TrwReq) : Dev :=
  let d := d.each (d.trw.queues.map (·.1)) (fun d e => d.setTrwQueue e ((d.trwQueue e).filter (·.req ≠ r)))
  d.each (d.trw.builds.map (·.1)) (fun d e => match d.trwBuild e with
    | some b =>
      let l := b.sample.filter (·.req ≠ r)
      d.setTrwBuild e (if l.isEmpty then none else some { b with sample := l })
    | none => d)

/-- Engines of compute die `n` stop (R250): the command in progress ends PARTIAL, one whose blocks a Trowel engine still holds
included, and those behind it ABORTED with ENGINE. A move is one step, so one that has not moved has PROGRESS 0. -/
def Dev.stopEngines (d : Dev) (n : Nat) : Dev :=
  d.each (rangeFrom (64 + 4 * n) 4) (fun d e =>
    let coding := d.queue.infl.filterMap (fun x =>
      if x.eng = e && x.phase = .ended then (d.heldProgress x).map (fun n => (x, n)) else none)
    let d := d.each coding (fun d c =>
      (d.trwForget (.cmd c.1.q c.1.i)).finish c.1 { Result.fresh with status := .partial_, progress := c.2 })
    let mine := d.queue.infl.filter (fun x => x.eng = e && x.phase ≠ .ended && x.phase ≠ .early)
    let first_ := bestBy (fun (x : Inflight) => d.queue.nextOrd + 1 - x.heldAt) (mine.filter (·.held))
    let d := d.each mine (fun d x =>
      if first_.any (fun y => y.q = x.q && y.i = x.i) then
        (d.trwForget (.cmd x.q x.i)).finish x { Result.fresh with status := .partial_ }
      else d.finish x (aborted 0x26 0xFFFF))
    let d := if first_.isSome || !coding.isEmpty then d.raise (rDmaErr e) 2 (fun d => d.wr64 (rDmaErrAddrLo e) 0) else d
    d.wr (rDmaStatus e) 0)

/-- Fence compute die `n` (R24, R134, R304): its cores take no tiles, its Gallery leaves the windows, its scrubbers and its
engines stop, and the fence is recorded. -/
def Dev.fenceDie (d : Dev) (n : Nat) : Dev :=
  if d.fenced n then d
  else
    let d := d.wr rTopStatus (setBit (16 + n) true (d.rd rTopStatus))
    let d := d.wr (rGalStatus n) (setBit 2 true (setBit 0 false (d.rd (rGalStatus n))))
    let d := d.rangeEnd n
    let d := d.each ((rangeFrom (192 * n) 192).filter (fun c => d.coreState c ≠ 0)) Dev.fenceCore
    let d := d.stopEngines n
    -- mailbox locks that its units hold are freed (R351)
    let d := { d with rcd := { d.rcd with mbxLock := d.rcd.mbxLock.filter (fun e => e.2.map (· / 2048) ≠ some n) } }
    let hit := d.launches.filter (fun e => e.2.cores.any (fun c => c / 192 = n))
    let d := d.each hit (fun d e => (d.wr (slotReg e.1 0) (setBit 3 true (d.rd (slotReg e.1 0)))).slotStat e.1)
    let d := d.each (sortNat (hit.map (fun e => hubOf e.1))) (fun d h => d.wrFld (rTsqStatus h) 9 9 1)
    let d := (d.flw 5 0x30 (srcOf .mgmt) n).ledger 9 (srcNo n 0x230) 0 3 0
    let d := { d with rcd := { d.rcd with ledger := mapIf (·.fences n) (fun r => { r with done := true }) d.rcd.ledger } }
    let d := if d.parts = 1 && 2 ≤ ((List.range 8).filter d.fenced).length then d.withdraw 3 else d
    d.modeSettle

/-- The router of fenced die `n` is drained: tiles that its cores held are reissued or lost (R134). -/
def Dev.drainEnd (d : Dev) (n : Nat) : Dev :=
  if !d.fenced n then d
  else
    let cs := rangeFrom (192 * n) 192
    let hit := d.launches.filter (fun e => e.2.cores.any (fun c => c / 192 = n))
    let d := d.each hit (fun d e => (d.dropTiles e.1 cs).launchDone e.1)
    let d := d.each cs (fun d c => if (d.core c).launch.isSome then
      d.setCore c { d.core c with launch := none, held := [], ents := [], wait := .run } else d)
    -- FENCE stays while a launch of the sequencer waits for another fenced die's router
    let waits (h : Nat) : Bool := d.cores.any (fun e => d.fenced (e.1 / 192) && e.2.launch.any (fun k => hubOf k = h))
    d.each [0, 1] (fun d h => if waits h then d else d.wrFld (rTsqStatus h) 9 9 0)

/-- A core hardware fault (R303). -/
def Dev.coreFault (d : Dev) (c : Nat) : Dev :=
  if d.coreState c = 0 || d.coreState c = 5 then d
  else
    let src := srcOf (.core (Fin.ofNat 1536 c))
    let k := (d.core c).launch
    let d := ((d.fenceCore c).flw 1 0x20 src (d.core c).pc).ledger 1 src 0 2 0
    match k with
    | some k => (d.dropTiles k [c]).launchDone k
    | none => d.each (d.launches.filter (fun e => e.2.cores.contains c)) (fun d e => (d.slotStat e.1).launchDone e.1)

/-- The spare slot of a die that enters service next: none before training has mapped them (log 45). -/
def Dev.freeSpare (d : Dev) (n : Nat) : Option Nat :=
  if (List.range 8).all (fun s => d.rdFld (rCoreSpareSlot n s) 23 16 = 0) then none
  else (List.range 8).find? (fun s =>
    let w := d.rd (rCoreSpareSlot n s)
    !bitOf 8 w && !bitOf 9 w && fld 7 0 w = 0xFF)

/-- Does trigger `why` of Table 13-2 hold for compute die `n`? Uncorrectable errors count for 24 operating hours; a core hardware
fault counts while its ledger record is open. -/
def Dev.fenceDue (d : Dev) (n : Nat) : FenceCause → Bool
  | .router | .domain => true
  | .noSpare => (d.freeSpare n).isNone && (rangeFrom (192 * n) 192).any (fun c => d.coreState c = 5
      && d.rcd.ledger.any (fun r => r.kind = 1 && r.src = srcOf (.core (Fin.ofNat 1536 c)) && !r.done))
  | .galleryUe =>
    let org := (0x200000000000 + n * 0x48000000) / 64
    let limit := if d.mgmt.enable.isEmpty then 16 else (Config.enableInfo d.mgmt.enable).fenceUes
    decide (limit ≤ (d.mem.ueAt.filter (fun e => org ≤ e.1 && e.1 < org + 0x48000000 / 64
      && (d.rd rBootOpsec).toNat - e.2 < 86400)).length)

/-- The management controller finds a trigger of Table 13-2: it fences the die (R304). -/
def Dev.fenceFor (d : Dev) (n : Nat) (why : FenceCause) : Dev := if d.fenceDue n why then d.fenceDie n else d

/-- An HBM controller fails (R174, R306): its scrubber stops and its stack's range scrub ends. -/
def Dev.fenceCtrl (d : Dev) (c : Nat) : Dev :=
  let pg := 8 + (ctrlStack c).1
  let d := { d with mem := { d.mem with ctrlFenced := insNat c d.mem.ctrlFenced } }
  (d.wrFld (pgReg pg 0) 2 2 1).rangeEnd pg

/-- Retire a fenced core (R118, R120): a healthy spare takes its local number with its own Pocket, whose contents start
undefined, or the core becomes ABSENT. -/
def Dev.retireCore (d : Dev) (c : Nat) : Dev :=
  let n := c / 192
  let busy := d.queue.infl.any (fun x => x.cls = 0 && x.part = d.partOfDie n)
  if d.coreState c ≠ 5 || d.fenced n || busy then d
  else
    let src := srcOf (.core (Fin.ofNat 1536 c))
    -- a spare that served this core has failed
    let d := d.each (List.range 8) (fun d s =>
      let w := d.rd (rCoreSpareSlot n s)
      if bitOf 8 w && fld 7 0 w = c % 192 then d.wr (rCoreSpareSlot n s) (setFld 7 0 0xFF (setBit 8 false (setBit 9 true w))) else d)
    let d := d.flw 1 0x21 src 0
    let d := { d with rcd := { d.rcd with ledger := mapIf (fun r => r.kind = 1 && r.src = src) (fun r => { r with done := true }) d.rcd.ledger } }
    match d.freeSpare n with
    | none => d.setCoreState c 0
    | some s =>
      let w := d.rd (rCoreSpareSlot n s)
      let d := d.wr (rCoreSpareSlot n s) (setFld 7 0 (c % 192) (setBit 8 true w))
      let d := d.wr (rCorePhys c) (BitVec.ofNat 32 (fld 23 16 w + 256))
      let f := d.fresh
      -- the spare's own Pocket: its contents and its marks are undefined
      let g := pocketAddr c 0 / 64
      let m := f.2.mem.setBytes (pocketAddr c 0) ((List.range 0x180000).map (Config.spareByte f.1))
      let m := (List.range 0x6000).foldl (fun (m : MemSt) i => m.setPoison (g + i) (Config.spareMark f.1 i)) m
      let d := { f.2 with mem := { m with damage := m.damage.filter (fun e => !(g ≤ e.1 && e.1 < g + 0x6000)) } }
      (d.setCore c CoreSt.reset).setCoreState c 1

end Sys2Proof.Machine
end

