-- ==== Sys2Proof/Machine/Kv.lean ====
section
/-! DEFINITION. The KV commands (R151, R152) and the enabling of the KV store (R158). -/

namespace Sys2Proof.Machine

/-- Is a command a KV operation? -/
def Inflight.isKv (x : Inflight) : Bool := x.cls = 1 && 8 ≤ x.op

/-- The slots that a KV command names; a KVAPPEND names those of its list. -/
def Dev.kvSlotsOf (d : Dev) (x : Inflight) : List Nat :=
  if x.op = 9 then
    let n := x.opd 1 % 2 ^ 32
    let r := d.readMem (x.acc (qmSrc x.q)) (x.opd 0) (4 * n)
    (List.range n).map (fun i => leAt r.1.bytes (4 * i) 4)
  else [x.opd 0 % 4096]

/-- Is it the turn of KV command `x`: has every KV command dispatched before it that names one of its slots ended (R152)? -/
def Dev.kvTurn (d : Dev) (x : Inflight) : Bool :=
  d.queue.infl.all (fun y =>
    !(y.isKv && y.part = x.part && y.ord < x.ord && y.phase ≠ .ended && y.phase ≠ .early)
      || (d.kvSlotsOf y).all (fun b => !(d.kvSlotsOf x).contains b))

/-- One entry of KV command `x` on slot `b`. -/
def Dev.kvEntryWork (d : Dev) (x : Inflight) (b : Nat) : KvOut × Dev :=
  let acc := x.acc (qmSrc x.q)
  if (d.rd (rDmaKvSlots x.part)).toNat ≤ b then (.beyond, d)
  else match x.op with
    | 8 => d.kvOpen acc x.part b (x.opd 1 % 2 ^ 32) (x.opd 2)
    | 9 => d.kvAppend acc x.part x.ord b (x.opd 2 % 256)
    | 10 => d.kvTrim acc x.part x.ord b (x.opd 1 % 2 ^ 32)
    | _ => d.kvClose acc x.part x.ord b

/-- The entries of a KV command from number `k` on; an entry that has to wait leaves the command working with its progress. -/
def Dev.kvWork (d : Dev) (x : Inflight) : List Nat → Nat → Option Nat → Dev
  | [], k, bad =>
    d.finish x { Result.fresh with
      status := if bad.isSome then .poisoned else .done, progress := k, addr := bad.getD 0 }
  | b :: t, k, bad =>
    let r := d.kvEntryWork x b
    match r.1 with
    | .ok p => r.2.kvWork x t (k + 1) (first bad p)
    | .fail e => (r.2.kvErr x.part e b).finish x { Result.fresh with status := .partial_, progress := k, addr := bad.getD 0 }
    | .lost => r.2.finish x { Result.fresh with status := .partial_, progress := k, addr := bad.getD 0 }
    | .beyond => r.2.finish x { aborted 0x27 (qmSrc x.q) with progress := k }
    | .wait => d.setCmd x.q x.i (fun y => { y with
        phase := .working, res := { y.res with progress := k, addr := bad.getD 0, result := if bad.isSome then 1 else 0 } })

/-- Begin a KV command: it is refused while the store is not enabled, with an ADV outside 1 to 64, or when its slot list
does not read whole and clean (log 29). -/
def Dev.kvBegin (d : Dev) (x : Inflight) : Dev :=
  if !d.kvTurn x then d
  else if !d.kvOnFor x || (x.op = 9 && (x.opd 2 % 256 = 0 || decide (64 < x.opd 2 % 256))) then
    d.finish x (aborted 0x27 (qmSrc x.q))
  else if x.op = 9 then
    let r := d.readMem (x.acc (qmSrc x.q)) (x.opd 0) (4 * (x.opd 1 % 2 ^ 32))
    if r.1.bad.isSome then r.2.finish x (aborted 0x27 (qmSrc x.q))
    else r.2.kvWork x ((List.range (x.opd 1 % 2 ^ 32)).map (fun i => leAt r.1.bytes (4 * i) 4)) 0 none
  else d.kvWork x [x.opd 0 % 4096] 0 none

/-- Go on with a KV command that waited for launches to complete (R152). -/
def Dev.kvResume (d : Dev) (x : Inflight) : Dev :=
  d.kvWork x ((d.kvSlotsOf x).drop x.res.progress) x.res.progress (if x.res.result = 1 then some x.res.addr else none)

/-- A KV command of operation `op` that has been dispatched and has not begun. -/
def Dev.kvCmd (d : Dev) (c : CmdRef) (op : Nat) : Dev :=
  d.work c (fun x => x.cls = 1 && x.op = op && x.phase = .dispatched) (fun x d => d.kvBegin x)

/-- KVOPEN (R151). -/
def execKvopen (c : CmdRef) (s : State) := State.run (fun d => d.kvCmd c 8) s
/-- KVAPPEND (R151). -/
def execKvappend (c : CmdRef) (s : State) := State.run (fun d => d.kvCmd c 9) s
/-- KVTRIM (R151). -/
def execKvtrim (c : CmdRef) (s : State) := State.run (fun d => d.kvCmd c 10) s
/-- KVCLOSE (R151). -/
def execKvclose (c : CmdRef) (s : State) := State.run (fun d => d.kvCmd c 11) s

/-- KV_FRAME_RELEASE (R152). -/
def execKvFrameRelease (c : CmdRef) (s : State) :=
  State.run (fun d => d.work c (fun x => x.isKv && x.phase = .working) (fun x d => d.kvResume x)) s

/-! ### DMA_KV_CTL (R158) -/

/-- Does [a, a + n) lie in the HBM window of partition `p`? -/
def Dev.inHbmWin (d : Dev) (p a n : Nat) : Bool :=
  n ≠ 0 && isHbm a && isHbm (a + n - 1) && d.inWindow p a && d.inWindow p (a + n - 1)

/-- Does [a, a + n) lie in the Gallery of partition `p`, none of it on a fenced die (R24)? -/
def Dev.inGallery (d : Dev) (p a n : Nat) : Bool :=
  n ≠ 0 && isGallery a && isGallery (a + n - 1)
    && (rangeFrom (galDie a) (galDie (a + n - 1) + 1 - galDie a)).all (fun k => d.partOfDie k = p && !d.fenced k)

/-- A write to DMA_KV_CTL. A clear takes effect on new commands at once and ends when the work in flight has ended; a set
while a clear is pending is refused (log 29). -/
def Dev.kvCtl (d : Dev) (p : Nat) (v : Word) : Dev :=
  let en := bitOf 0 (d.rd (rDmaKvCtl p))
  if bitOf 0 v then
    if en then d
    else
      let g := d.kvGeom p
      let n := (d.rd (rDmaKvSlots p)).toNat
      let ok := g.ok && n ≠ 0 && n ≤ 4096 && !d.kvClosing.any (·.1 = p) && d.inHbmWin p (d.rd64 (rDmaKvTblLo p)) (32 * n)
        && d.inGallery p (d.rd64 (rDmaKvHodLo p)) (0x40000 * n)
      if ok then d.wr (rDmaKvCtl p) 1 else d.kvErr p 0 0
  else if en then { (d.wr (rDmaKvCtl p) 0) with kvClosing := d.kvClosing ++ [(p, d.queue.nextOrd)] }
  else d

/-- A clear of DMA_KV_CTL.EN ends: every slot's STATE becomes 0. -/
def Dev.kvDisableEnd (d : Dev) (p : Nat) : Dev :=
  let busy := d.queue.infl.any (fun x =>
    x.part = p && x.phase ≠ .ended && (x.isKv || (x.phase ≠ .early && x.walk.isSome)))
  if !d.kvClosing.any (·.1 = p) || busy then d
  else
    let acc : Acc := ⟨some p, qmSrc 0⟩
    let d := d.each (List.range (d.rd (rDmaKvSlots p)).toNat) (fun d b => (d.writeMem acc (d.kvAddr p b + 16) (clean (leBytes 4 0))).2)
    { (d.wr (rDmaKvOpen p) 0) with kvClosing := d.kvClosing.filter (·.1 ≠ p) }

/-- DMA_KV_DISABLE_END (R158). -/
def execDmaKvDisableEnd (p : Fin 8) (s : State) := State.run (fun d => d.kvDisableEnd p.val) s

end Sys2Proof.Machine
end

