-- ==== Sys2Proof/Machine/Codec.lean ====
section
/-! DEFINITION. The codec (R37 to R55): stream contexts, the syntax buffer, pixel engines, motion fields, frame records,
concealment. What a bitstream means is left to its standard: free values of Config (log 9). -/

namespace Sys2Proof.Machine

/-! ### Contexts and registers (R40, R67) -/

/-- Source number of the stream context manager of media die `m`. -/
def ctxSrc (m : Nat) : Nat := srcNo (18 + m) 0x020

/-- Source number of pixel engine `k` (die × 4 + engine). -/
def pixSrc (k : Nat) : Nat := srcNo (18 + k / 4) (0x008 + k % 4)

/-- Context `c`, none where it is CLOSED. -/
def Dev.ctx (d : Dev) (c : Nat) : Option CtxSt := sget (fun _ => none) d.media.ctxs c

/-- Set context `c`. -/
def Dev.setCtx (d : Dev) (c : Nat) (x : Option CtxSt) : Dev :=
  { d with media := { d.media with ctxs := sset (fun _ => none) d.media.ctxs c x } }

/-- VCD_CTX_OWN of context `c`. -/
def ctxOwn (c : Nat) : Nat := rVcdCtxOwn (c / 1024) (c % 1024)

/-- VCD_CTX_OWN.STATE: 0 CLOSED, 1 IDLE, 2 ACTIVE, 3 HALTED. -/
def Dev.ctxState (d : Dev) (c : Nat) : Nat := d.rdFld (ctxOwn c) 7 5

/-- Set a context's state; VCD_STATUS counts the contexts of the die that are not CLOSED. -/
def Dev.setCtxState (d : Dev) (c v : Nat) : Dev :=
  let was := d.ctxState c
  let r := rVcdStatus (c / 1024)
  let n := d.rdFld r 31 16
  let n := if was = 0 && v ≠ 0 then n + 1 else if was ≠ 0 && v = 0 then n - 1 else n
  (d.wrFld (ctxOwn c) 7 5 v).wrFld r 31 16 n

/-- Flag an error of VCD_ERR with its capture and its Flowstone record. -/
def Dev.vcdErr (d : Dev) (c bit : Nat) : Dev :=
  (d.raise (rVcdErr (c / 1024)) bit (fun d => d.wr (rVcdErrCtx (c / 1024)) (BitVec.ofNat 32 c))).flw 6 bit (ctxSrc (c / 1024)) 0

/-! ### Engines and the syntax buffer (R44, R45) -/

/-- The frame that pixel engine `k` reconstructs. -/
def Dev.pixJob (d : Dev) (k : Nat) : Option MediaJob := sget (fun _ => none) d.media.pix k

/-- Chunks in use on media die `m`. -/
def Dev.chunksUsed (d : Dev) (m : Nat) : Nat :=
  (((d.media.wait ++ (rangeFrom (4 * m) 4).filterMap d.pixJob).filter (fun j => j.ctx / 1024 = m)).map (·.chunks)).sum

/-- VCD_SYNBUF_USE and the busy bits of die `m` follow the engines. -/
def Dev.vcdStat (d : Dev) (m : Nat) : Dev :=
  let busy := ((List.range 4).map (fun e => if (d.pixJob (4 * m + e)).isSome then 2 ^ e else 0)).sum
  (d.wr (rVcdSynbufUse m) (BitVec.ofNat 32 (d.chunksUsed m))).wrFld (rVcdStatus m) 11 8 busy

/-- Frames of a context that are parsed and not yet reconstructed. -/
def Dev.parsedOf (d : Dev) (c : Nat) : Nat :=
  ((d.media.wait ++ (List.range 8).filterMap d.pixJob).filter (·.ctx = c)).length

/-- Drop the frames of a context from the engines and the syntax buffer. -/
def Dev.dropJobs (d : Dev) (c : Nat) : Dev :=
  let d := { d with media := { d.media with
    wait := d.media.wait.filter (·.ctx ≠ c),
    pix := d.media.pix.filter (fun e => match e.2 with
      | some j => j.ctx ≠ c
      | none => true) } }
  d.vcdStat (c / 1024)

/-- Bytes that the spec gives no value: a context's state area or a pool buffer, in HBM (R40); answers the first refused
address. -/
def Dev.freeBytes (d : Dev) (src p a n : Nat) (bad : Bool) : Option Nat × Dev :=
  let f := d.fresh
  f.2.writeMemIn isHbm ⟨some p, src⟩ a ((List.range n).map (fun o => (Config.mediaByte f.1 o, bad)))

/-- An engine takes a context: where another was resident, that one's state is saved (R45). -/
def Dev.takeCtx (d : Dev) (key c : Nat) : Dev :=
  let d := match sget (fun _ => none) d.media.resident key with
    | none => d
    | some o => if o = c then d else match d.ctx o with
      | some x => (d.freeBytes (ctxSrc (o / 1024)) (d.rdFld (ctxOwn o) 3 0) x.desc.save 0x40000 false).2
      | none => d
  { d with media := { d.media with resident := sset (fun _ => none) d.media.resident key (some c) } }

/-- The CODEC command of a context that works. -/
def Dev.ctxCmd (d : Dev) (c : Nat) : Option Inflight :=
  d.queue.infl.find? (fun x => x.cls = 3 && x.opd 0 % 2048 = c && x.phase = .working)

/-- Priority of a context's issuing queue. -/
def Dev.ctxPrio (d : Dev) (c : Nat) : Nat :=
  match d.ctxCmd c with
  | some x => d.rdFld (rQmgQCfg x.q) 8 6
  | none => 0

/-- Is the request for a key picture due: by VCD_KEYREQ or the key flag, by KEY_INTERVAL, its period in frames (log 74), or at
the context's first frame (R49)? -/
def CtxSt.keyDue (x : CtxSt) (asked : Bool) : Bool :=
  asked || x.src.isEmpty || (x.desc.keyInt ≠ 0 && x.desc.keyInt ≤ x.sinceKey)

/-- Pixel engine `k`, when it is free, takes the next frame: of the contexts of its die with no frame on another engine, the
one of highest queue priority, among equals the frame that has waited longest (R45). -/
def Dev.pixTake (d : Dev) (k : Nat) : Dev :=
  if (d.pixJob k).isSome then d
  else
    let onEng (c : Nat) : Bool := (List.range 8).any (fun e => (d.pixJob e).any (·.ctx = c))
    let cand := d.media.wait.filter (fun j => j.ctx / 1024 = k / 4 && !onEng j.ctx)
    match bestBy (fun j => d.ctxPrio j.ctx) cand with
    | none => d
    | some j =>
      let c := j.ctx
      -- the frame boundary at which a key picture request takes effect
      let key := (d.ctx c).any (fun x => x.desc.enc && x.keyDue (j.key || d.media.keyReq.contains c))
      let j1 := { j with key := key }
      let d := d.takeCtx (8 + k) c
      let i := (d.media.wait.findIdx? (·.ctx = c)).getD 0
      let d := { d with media := { d.media with
        wait := d.media.wait.eraseIdx i, pix := sset (fun _ => none) d.media.pix k (some j1),
        keyReq := delNat c d.media.keyReq } }
      d.vcdStat (k / 4)

/-- Free pixel engines of die `m` take waiting frames. -/
def Dev.pixTakeAll (d : Dev) (m : Nat) : Dev := d.each (rangeFrom (4 * m) 4) (fun d k => d.pixTake k)

/-! ### Motion fields (R50, R51) -/

/-- Blocks of 16 × 16 across a dimension. -/
def blocks16 (n : Nat) : Nat := cdiv n 16

/-- FS of R50. -/
def fieldSize (w h : Nat) : Nat := cdiv (blocks16 w * blocks16 h * 8) 64 * 64

/-- round_q of v / d: ties away from zero, saturated. -/
def roundQ (v d : Int) : Int :=
  let a := (2 * v.natAbs + d.natAbs) / (2 * d.natAbs)
  let s : Int := if (v < 0) = (d < 0) then a else -(a : Int)
  max (-32767) (min 32767 s)

/-- A 16-bit two's complement component. -/
def mvCode (v : Int) : Nat := (v % 65536).toNat

/-- An entry that names no vector. -/
def noVec : Nat := 0x8000800080008000

/-- The entry of AX, AY, BX, BY. -/
def mvEntry (ax ay bx by_ : Int) : Nat := mvCode ax + 2 ^ 16 * mvCode ay + 2 ^ 32 * mvCode bx + 2 ^ 48 * mvCode by_

/-- Vectors A and B of a block from its coded vectors (x, y, distance; positive to an earlier reference) (R51). -/
def mvOf (l : List (Int × Int × Int)) : Nat :=
  -- the nearest reference in each direction; the first of equals
  let near (p : Int × Int × Int → Bool) : Option (Int × Int × Int) :=
    (l.filter p).foldl (fun acc e => match acc with
      | none => some e
      | some a => if e.2.2.natAbs < a.2.2.natAbs then some e else some a) none
  let q (e : Int × Int × Int) : Int × Int := (roundQ e.1 e.2.2.natAbs, roundQ e.2.1 e.2.2.natAbs)
  match near (fun e => 0 < e.2.2), near (fun e => e.2.2 < 0) with
  | some a, some b => mvEntry (q a).1 (q a).2 (q b).1 (q b).2
  | some a, none => mvEntry (q a).1 (q a).2 (-(q a).1) (-(q a).2)
  | none, some b => mvEntry (-(q b).1) (-(q b).2) (q b).1 (q b).2
  | none, none => noVec

/-! ### Frames (R46, R52 to R55) -/

/-- Bytes of a sample. -/
def sampleBytes (depth : Nat) : Nat := if depth = 8 then 1 else 2

/-- A 16-bit two's complement component's value. -/
def mvInt (v : Nat) : Int := if v % 65536 < 32768 then (v % 65536 : Nat) else ((v % 65536 : Nat) : Int) - 65536

/-- Vector A of a field's entry, none where it names none. -/
def mvA (e : Nat) : Option (Int × Int) := if e = noVec then none else some (mvInt e, mvInt (e / 65536))

/-- The concealed value of sample `i` of plane `p`: copied from good reference `g` by vector A of the co-located block of the
previous field, or the zero vector (R53). The vector is in quarter luma samples. -/
def MediaFrame.concealAt (f : MediaFrame) (x : CtxSt) (g p i b : Nat) : Nat :=
  let h := x.hist.take (g + 1)
  let v := (mvA (f.prev.getD b noVec)).getD (0, 0)
  let q : Int := if p = 0 then 4 else 8
  let w := if p = 0 then f.w else f.w / 2
  let info := Config.decodeInfo x.desc.std h
  let gw : Nat := if p = 0 then info.width else info.width / 2
  let gh : Nat := if p = 0 then info.height else info.height / 2
  let px : Int := (i % w : Nat) + v.1 / q
  let py : Int := (i / w : Nat) + v.2 / q
  if v.1 % q = 0 && v.2 % q = 0 && 0 ≤ px && px < gw && 0 ≤ py && py < gh then
    Config.decodeSample x.desc.std h p (py.toNat * gw + px.toNat)
  else Config.concealSample h p i v.1 v.2

/-- Sample `i` of plane `p` (0 luma, 1 and 2 chroma) of a frame, concealed where its block is damaged (R53). -/
def MediaFrame.sample (f : MediaFrame) (x : CtxSt) (p i : Nat) : Nat :=
  let w := if p = 0 then f.w else f.w / 2
  let s := if p = 0 then 16 else 8
  let b := i / w / s * blocks16 f.w + i % w / s
  let lim (v : Nat) : Nat := v % 2 ^ x.desc.depth
  if f.damaged.contains b then
    match f.good with
    | none => 2 ^ (x.desc.depth - 1)
    | some g => lim (f.concealAt x g p i b)
  else lim (Config.decodeSample x.desc.std (x.hist.take (f.no + 1)) p i)

/-- The bytes of an output frame slot: NV12, or P010 with each sample in the upper bits of 16 (R40). -/
def MediaFrame.bytes (f : MediaFrame) (x : CtxSt) : List Byte :=
  let put (p i : Nat) : List Byte :=
    let v := f.sample x p i
    if x.desc.depth = 8 then leBytes 1 v else leBytes 2 (v * 64)
  (List.range (f.w * f.h)).flatMap (put 0) ++ (List.range (f.w * f.h / 4)).flatMap (fun i => put 1 i ++ put 2 i)

/-- The record of a frame (Table 2-6). -/
def MediaFrame.record (f : MediaFrame) (c k now : Nat) : List Byte :=
  let flags := f.key.toNat + 2 * f.concealed.toNat + 4 * f.poisoned.toNat + 8 * f.grain.toNat
  leBytes 4 k ++ leBytes 4 f.no ++ leBytes 4 f.number.toNat ++ leBytes 4 flags ++ leBytes 4 f.damaged.length
    ++ leBytes 4 (f.damaged.head?.getD 0xFFFFFFFF) ++ leBytes 4 f.bitOff ++ leBytes 2 f.error ++ leBytes 2 c
    ++ leBytes 8 now ++ leBytes 8 f.start ++ leBytes 2 f.w ++ leBytes 2 f.h ++ List.replicate 12 0

/-- Output a frame of context `c` in slot `k`: its samples, its field, then its record (R52). -/
def Dev.outFrame (d : Dev) (src c k : Nat) (x : CtxSt) (f : MediaFrame) : Option Nat × Dev :=
  let acc : Acc := ⟨some (d.rdFld (ctxOwn c) 3 0), src⟩
  let m (l : List Byte) : Marked := l.map (·, f.poisoned)
  let a := d.writeMemIn inHbmGal acc (x.desc.outAddr + k * x.desc.outStride) (m (f.bytes x))
  let b : Option Nat × Dev := if x.desc.field = 0 then (none, a.2)
    else a.2.writeMemIn inHbmGal acc (x.desc.field + k * fieldSize f.w f.h) (m (f.field.flatMap (leBytes 8)))
  let r := b.2.writeMemIn inHbmGal acc (x.desc.recAddr + k * 64) (clean (f.record c k b.2.now))
  (first a.1 (first b.1 r.1), (r.2.add64 (rVcdFramesLo (c / 1024)) 1).addSat (rVcdConcealCount (c / 1024)) f.concealed.toNat)

/-- Output frames of context `c` from slot `slot` on, in the order given; they leave the frames held. -/
def Dev.outFrames (d : Dev) (src c slot : Nat) (x : CtxSt) (nos : List Nat) : CtxSt × Dev :=
  nos.foldl (fun (r : CtxSt × Dev) n =>
    match r.1.held.find? (·.no = n) with
    | none => r
    | some f =>
      let o := r.2.outFrame src c (slot + r.1.done) r.1 f
      ({ r.1 with held := r.1.held.filter (·.no ≠ n), done := r.1.done + 1,
                  bad := first r.1.bad (first o.1 (if f.poisoned then some 0 else none)) }, o.2)) (x, d)

/-! ### The end of a CODEC command -/

/-- The codec refuses a command: ABORTED. -/
def Dev.codecAbort (d : Dev) (x : Inflight) (cause : Nat) : Dev :=
  d.finish x (aborted cause (ctxSrc (x.opd 0 % 2048 / 1024)))

/-- A context halts (R39, R46, R307): its frames leave the engines and its command ends ABORTED (R43). -/
def Dev.haltCtx (d : Dev) (c : Nat) : Dev :=
  let d := match d.ctxCmd c with
    | some x => d.codecAbort x 0x27
    | none => d
  (d.dropJobs c).setCtxState c 3

/-- A CODEC command ends: the context goes back to IDLE. Frames or bytes are its progress; poison or a refused access makes
it POISONED where all its work was done (R242). -/
def Dev.codecEnd (d : Dev) (c : Nat) (x : Inflight) (s : CtxSt) (partial_ : Bool) (progress : Nat) : Dev :=
  let st : Status := if partial_ then .partial_ else if s.bad.isSome then .poisoned else .done
  ((d.setCtx c (some s)).finish x { Result.fresh with status := st, progress := progress, addr := s.bad.getD 0 }).setCtxState c 1

/-- Does the command of a context have no more frames to take or to reconstruct? A DECODE ends when no complete frame is left
or its limit has been reached; the bytes past the last complete frame stay held (R41). -/
def Dev.codecNext (d : Dev) (c : Nat) : Dev :=
  match d.ctxCmd c, d.ctx c with
  | some x, some s =>
    if d.parsedOf c ≠ 0 then d
    else if x.op = 1 then
      let limit := x.opd 4 % 2 ^ 32
      let more := match Config.frameLen s.desc.std (s.input.map (·.1)) with
        | some n => 0 < n && n ≤ s.input.length
        | none => false
      if more && limit ≠ 0 && limit ≤ s.taken then d.codecEnd c x { s with input := [] } true s.consumed
      else if more then d
      else d.codecEnd c x s false s.done
    else if x.op = 2 then d.codecEnd c x s false s.written
    else d
  | _, _ => d

/-! ### Commands (R41 to R43) -/

/-- The checks of Table 2-3 (R38, R40). -/
def streamOk (l : List Byte) : Bool :=
  let b (o n : Nat) : Nat := leAt l o n
  let dimOk (v lim : Nat) : Bool := 64 ≤ v && v ≤ lim && v % 2 = 0
  b 0 1 ≤ 2 && b 1 1 ≤ 1 && (b 2 1 = 8 || b 2 1 = 10) && 2 ≤ b 3 1 && b 3 1 ≤ 17
    && !(b 0 1 = 2 && (b 1 1 = 1 || b 2 1 = 10))
    && (b 1 1 = 0 || (dimOk (b 4 2) 8192 && dimOk (b 6 2) 4352))
    && b 8 8 % 4096 = 0 && b 0x18 4 % 4096 = 0 && b 0x28 8 % 64 = 0 && b 0x3A 1 ≤ 4 && (l.drop 0x3B).all (· = 0)

/-- The descriptor that 64 bytes spell. -/
def StreamDesc.ofBytes (l : List Byte) : StreamDesc :=
  let b (o n : Nat) : Nat := leAt l o n
  { std := b 0 1, enc := b 1 1 = 1, depth := b 2 1, pool := b 3 1, width := b 4 2, height := b 6 2, save := b 8 8,
    poolAddr := b 0x10 8, poolStride := b 0x18 4, outStride := b 0x1C 4, outAddr := b 0x20 8, field := b 0x28 8,
    recAddr := b 0x30 8, keyInt := b 0x38 2, ltr := b 0x3A 1 }

/-- A context as INIT leaves it: an empty pool. -/
def CtxSt.init (t : StreamDesc) : CtxSt :=
  { desc := t, input := [], offset := 0, hist := [], src := [], pool := List.replicate t.pool (0, 0), held := [],
    lastGood := none, lastField := [], concealed := [], poisoned := [], sinceKey := 0, consumed := 0, taken := 0, done := 0,
    written := 0, bad := none }

/-- Is another queue's command for the context in flight, dispatched earlier (R42)? -/
def Dev.ctxForeign (d : Dev) (x : Inflight) : Bool :=
  d.queue.infl.any (fun y => y.cls = 3 && y.opd 0 % 2048 = x.opd 0 % 2048 && y.q ≠ x.q && y.ord < x.ord)

/-- Is it the command's turn: no earlier command for the context is unfinished (R42)? -/
def Dev.ctxTurn (d : Dev) (x : Inflight) : Bool :=
  d.queue.infl.all (fun y => !(y.cls = 3 && y.opd 0 % 2048 = x.opd 0 % 2048 && y.ord < x.ord && y.phase ≠ .ended))

/-- The checks of a CODEC command: XQUEUE (R42), a disabled or foreign context (Table 2-15), a HALTED context (R43), an
operation on a CLOSED context (R41); then `f`. -/
def Dev.codecCmd (d : Dev) (r : CmdRef) (op : Nat) (f : Nat → Inflight → Dev → Dev) : Dev :=
  d.work r (fun x => x.cls = 3 && x.op = op && x.phase = .dispatched) (fun x d =>
    let c := x.opd 0 % 2048
    let own := d.rd (ctxOwn c)
    if d.ctxForeign x then (d.codecAbort x 0x27).vcdErr c 4
    else if !d.ctxTurn x then d
    else if !bitOf 4 own || fld 3 0 own ≠ x.part then d.codecAbort x 0x27
    else if d.ctxState c = 3 && op ≠ 0 && op ≠ 4 then d.codecAbort x 0x27
    else if d.ctxState c = 0 && op ≠ 0 then (d.codecAbort x 0x27).vcdErr c 0
    else f c x d)

/-- The context begins a command: its counts are clear. -/
def Dev.codecBegin (d : Dev) (c : Nat) (x : Inflight) (s : CtxSt) : Dev :=
  ((d.setCmd x.q x.i (fun y => { y with phase := .working })).setCtx c
    (some { s with consumed := 0, taken := 0, done := 0, written := 0, bad := none })).setCtxState c 2

/-- INIT. -/
def Dev.codecInit (d : Dev) (c : Nat) (x : Inflight) : Dev :=
  let r := d.readStruct (x.acc (ctxSrc (c / 1024))) 1 (x.opd 1) 64
  match r.1 with
  | some l =>
    if streamOk l then
      (((r.2.dropJobs c).setCtx c (some (CtxSt.init (StreamDesc.ofBytes l)))).setCtxState c 1).finish x Result.fresh
    else (r.2.codecAbort x 3).vcdErr c 0
  | none => (r.2.codecAbort x 3).vcdErr c 0

/-- DECODE begins: its bitstream is read behind what the context holds of a cut-off frame. On an encode context it ends ABORTED
(log 74). -/
def Dev.codecDecode (d : Dev) (c : Nat) (x : Inflight) : Dev :=
  match d.ctx c with
  | none => d
  | some s =>
    if s.desc.enc then (d.codecAbort x 0x27).vcdErr c 0
    else
      let e := d.fresh
      let r := e.2.readMem (x.acc (srcNo (18 + c / 1024) (Config.entropyEngine e.1).val)) (x.opd 1) (x.opd 2)
      let d := r.2.codecBegin c x s
      let d := if r.1.bad.isSome then d.vcdErr c 3 else d
      let d := match d.ctx c with
        | some s => d.setCtx c (some { s with
            input := s.input ++ r.1.data, bad := if r.1.refused then r.1.bad else none })
        | none => d
      d.codecNext c

/-- The source bytes of an encoder's input frame: dense NV12 or P010 (log 9). -/
def StreamDesc.frameBytes (t : StreamDesc) : Nat := t.width * t.height * 3 / 2 * sampleBytes t.depth

/-- ENCODE begins: its source frames wait for a pixel engine. On a decode context it ends ABORTED (log 74). -/
def Dev.codecEncode (d : Dev) (c : Nat) (x : Inflight) : Dev :=
  match d.ctx c with
  | none => d
  | some s =>
    if !s.desc.enc then (d.codecAbort x 0x27).vcdErr c 0
    else
      let n := x.opd 0 / 2 ^ 32
      let size := s.desc.frameBytes
      let d := d.codecBegin c x s
      let r := (List.range n).foldl (fun (r : List MediaJob × Option Nat × Dev) k =>
        let m := r.2.2.readMem (x.acc (ctxSrc (c / 1024))) (x.opd 1 + k * size) size
        let j : MediaJob := {
          ctx := c, bytes := m.1.data, start := 0, chunks := 0, key := k = 0 && (x.opd 4).testBit 32 }
        (r.1 ++ [j], first r.2.1 m.1.bad, m.2)) (([], none, d) : List MediaJob × Option Nat × Dev)
      let d := { r.2.2 with media := { r.2.2.media with wait := r.2.2.media.wait ++ r.1 } }
      let d := match d.ctx c with
        | some s => d.setCtx c (some { s with bad := r.2.1 })
        | none => d
      (d.pixTakeAll (c / 1024)).codecNext c

/-- FLUSH: every frame held for reordering, in order of presentation, its number compared unsigned (log 74). -/
def Dev.codecFlush (d : Dev) (c : Nat) (x : Inflight) : Dev :=
  match d.ctx c with
  | none => d
  | some s =>
    let nos := (s.held.mergeSort (fun a b => a.number.toNat ≤ b.number.toNat)).map (·.no)
    let r := d.outFrames (ctxSrc (c / 1024)) c (x.opd 0 / 2 ^ 32) { s with done := 0, bad := none } nos
    (r.2.setCtx c (some r.1)).finish x { Result.fresh with
      status := if r.1.bad.isSome then .poisoned else .done, addr := r.1.bad.getD 0 }

/-- CLOSE: the context's buffers are released. -/
def Dev.codecClose (d : Dev) (c : Nat) (x : Inflight) : Dev :=
  (((d.dropJobs c).setCtx c none).setCtxState c 0).finish x Result.fresh

/-! ### Parsing and reconstruction (R44 to R54) -/

/-- An entropy engine parses the context's next complete frame: at least 6 MiB of the syntax buffer is free, and the context
holds fewer than four parsed frames. -/
def Dev.entropyParse (d : Dev) (m e l : Nat) : Dev :=
  let c := 1024 * m + l
  match d.ctxCmd c, d.ctx c with
  | some x, some s =>
    let limit := x.opd 4 % 2 ^ 32
    if x.op ≠ 1 || 512 < d.chunksUsed m + 96 || 4 ≤ d.parsedOf c || (limit ≠ 0 && limit ≤ s.taken) then d
    else match Config.frameLen s.desc.std (s.input.map (·.1)) with
      | none => d
      | some n =>
        if n = 0 || s.input.length < n then d
        else
          let bs := s.input.take n
          let j : MediaJob := {
            ctx := c, bytes := bs, start := s.offset, chunks := Config.frameChunks s.desc.std (bs.map (·.1)) % 96 + 1,
            key := false }
          -- bytes of this command's buffer: those held over from an earlier one do not count
          let old := s.input.length + s.consumed - x.opd 2
          let d := (d.takeCtx (4 * m + e) c).setCtx c (some { s with
            input := s.input.drop n, offset := s.offset + n, taken := s.taken + 1,
            consumed := s.consumed + (n - (if s.consumed = 0 then old else 0)) })
          let d := { d with media := { d.media with wait := d.media.wait ++ [j] } }
          (d.vcdStat m).pixTakeAll m
  | _, _ => d

/-- The buffer that a frame takes: UNUSED, with no frame held for output (R46). -/
def CtxSt.freeBuf (x : CtxSt) : Option Nat :=
  (List.range x.pool.length).find? (fun b => (x.pool.getD b (0, 0)).1 = 0 && x.held.all (·.buf ≠ b))

/-- Marks of the buffers after a frame took `b` as decode number `no`. -/
def CtxSt.setMarks (x : CtxSt) (b no : Nat) (marks : List Nat) : List (Nat × Nat) :=
  (List.range x.pool.length).map (fun k =>
    (marks.getD k 0 % 3, if k = b then no else (x.pool.getD k (0, 0)).2))

/-- A context halts on a frame that is not output: the record of the slot that it would have had next names the error
(Table 2-6), and VCD_ERR sets `bit`. -/
def Dev.haltFrame (d : Dev) (src slot : Nat) (s : CtxSt) (f : MediaFrame) (c bit : Nat) : Dev :=
  let k := slot + s.done
  let r := d.writeMemIn inHbmGal ⟨some (d.rdFld (ctxOwn c) 3 0), src⟩ (s.desc.recAddr + k * 64) (clean (f.record c k d.now))
  (r.2.haltCtx c).vcdErr c bit

/-- The slices or tiles of a frame of `nb` blocks that hold blocks; one of the whole frame where there is none. -/
def sliceBlocks (nb : Nat) (l : List (List Nat)) : List (List Nat) :=
  let l := (l.map (·.filter (· < nb))).filter (!·.isEmpty)
  if l.isEmpty then [List.range nb] else l

/-- The damage of a frame (R53, R55): bit offset and damaged blocks, from the error to the end of its slice or tile, for each
error and for each poisoned byte. -/
def frameDamage (i : Config.FrameInfo) (bs : Marked) (nb : Nat) : List (Nat × Nat × List Nat) :=
  let ss := sliceBlocks nb i.slices
  let from_ (slice block : Nat) : List Nat :=
    let l := ss.getD (slice % ss.length) []
    l.drop (block % l.length)
  i.errors.map (fun e => (e.bit, e.kind.val + 1, from_ e.slice e.block))
    ++ (bs.zipIdx.filter (·.1.2)).map (fun b => let p := i.places.getD b.2 (0, 0); (8 * b.2, 4, from_ p.1 p.2))

/-- The decoded frame that a frame's parsed bytes give. One that predicts from a poisoned frame is poisoned too, with its own
ERROR (log 74). -/
def CtxSt.frame (s : CtxSt) (j : MediaJob) (i : Config.FrameInfo) : MediaFrame :=
  let no := s.hist.length
  let nb := blocks16 i.width * blocks16 i.height
  let poisonIn := j.bytes.any (·.2)
  let hits := frameDamage i j.bytes nb
  let first_ := hits.foldl (fun (acc : Option (Nat × Nat × List Nat)) h => match acc with
    | some a => if h.1 < a.1 then some h else some a
    | none => some h) none
  -- the block of the first damage leads the list of the damaged blocks
  let dmg := match first_ with
    | none => []
    | some a =>
      let b := a.2.2.headD 0
      b :: (List.range nb).filter (fun n => n ≠ b && hits.any (·.2.2.contains n))
  let hurt := !dmg.isEmpty
  { no := no, number := i.number, key := i.key,
    concealed := hurt || (!i.key && i.refs.any s.concealed.contains),
    poisoned := poisonIn || i.refs.any s.poisoned.contains, grain := s.desc.std = 1 && i.grain, damaged := dmg,
    bitOff := (first_.map (·.1)).getD 0, error := if poisonIn then 4 else (first_.map (·.2.1)).getD 0,
    start := j.start, w := i.width, h := i.height, good := s.lastGood, prev := s.lastField,
    field := (List.range nb).map (fun n => if i.key || no = 0 then noVec else mvOf (i.vecs.getD n [])),
    buf := (s.freeBuf).getD 0 }

/-- Is a bitstream of a standard in Table 2-2? -/
def bitstreamOk (std : Nat) (i : Config.FrameInfo) : Bool :=
  let deep : Bool := i.bits = 8 || i.bits = 10
  match std, i.profile with
  | 0, .hevcMain => i.level ≤ 62 && i.bits = 8 && i.chroma = 1
  | 0, .hevcMain10 => i.level ≤ 62 && deep && i.chroma = 1
  | 1, .av1Main => i.level ≤ 63 && deep && i.chroma ≤ 1
  | 2, .avcHigh => i.level ≤ 52 && i.bits = 8 && i.chroma = 1
  | _, _ => false

/-- Is a frame outside Table 2-2, R38's sizes, R39 or its context's DEPTH (log 74)? -/
def frameUnsupported (t : StreamDesc) (i : Config.FrameInfo) : Bool :=
  let okDim (v lim : Nat) : Bool := 64 ≤ v && v ≤ lim && v % 2 = 0
  !bitstreamOk t.std i || i.bits ≠ t.depth || i.excluded || !okDim i.width 8192 || !okDim i.height 4352

/-- Reconstruction of a decoder's frame ends. A frame outside R38 and R39 halts the context, and so does a bitstream that
needs more buffers than POOL; the frame's buffer is chosen before its own reference marks apply, and the last good reference is
the last frame in decode order that is not CONCEALED (log 74). -/
def Dev.decodeEnd (d : Dev) (k : Nat) (x : Inflight) (s : CtxSt) (j : MediaJob) : Dev :=
  let c := j.ctx
  let slot := x.opd 0 / 2 ^ 32
  let hist := s.hist ++ [j.bytes]
  let i := Config.decodeInfo s.desc.std hist
  let f := s.frame j i
  if frameUnsupported s.desc i then d.haltFrame (pixSrc k) slot s { f with error := 5 } c 1
  else if s.freeBuf.isNone then d.haltFrame (pixSrc k) slot s { f with error := 6 } c 2
  else
    let old := if i.key then [] else s.concealed
    let s := { s with
      hist := hist, pool := s.setMarks f.buf f.no i.marks, held := s.held ++ [f],
      lastGood := if f.concealed then s.lastGood else some f.no, lastField := f.field,
      concealed := if f.concealed then insNat f.no old else old,
      poisoned := if f.poisoned then insNat f.no s.poisoned else s.poisoned,
      bad := first s.bad (if f.poisoned then some 0 else none) }
    let b := d.freeBytes (pixSrc k) x.part (s.desc.poolAddr + f.buf * s.desc.poolStride)
      (i.width * i.height * 3 / 2 * sampleBytes s.desc.depth) f.poisoned
    let o := b.2.outFrames (pixSrc k) c slot { s with bad := first s.bad b.1 } i.outs
    (o.2.setCtx c (some o.1)).codecNext c

/-- Marks of an encoder's buffers (R47): the last four coded frames SHORT and the last LTR key pictures LONG; a key picture
sets every other buffer UNUSED. -/
def CtxSt.encMarks (x : CtxSt) (no b : Nat) (key : Bool) (keys : List Nat) : List (Nat × Nat) :=
  let keep := (keys.reverse.take x.desc.ltr)
  (x.pool.zipIdx).map (fun e =>
    if e.2 = b then (if key && keep.contains no then (2, no) else (1, no))
    else if e.1.1 = 0 then e.1
    else if keep.contains e.1.2 && keys.contains e.1.2 then (2, e.1.2)
    else if key || e.1.2 + 4 ≤ no then (0, e.1.2) else e.1)

/-! ### The encoder's search (R48) -/

/-- Luma sample (x, y) of a source frame: NV12, or P010 with the sample in the upper bits. -/
def StreamDesc.luma (t : StreamDesc) (bs : List Byte) (x y : Nat) : Nat :=
  let i := y * t.width + x
  if t.depth = 8 then leAt bs i 1 else leAt bs (2 * i) 2 / 64

/-- Differences of block (bx, y) of the last of the source frames from its reference, displaced by a quarter-pel vector. -/
def StreamDesc.blockDiff (t : StreamDesc) (src : List (List Byte × Bool)) (ref bx by_ : Nat) (v : Int × Int) : List Int :=
  let cur := (src.getLastD ([], false)).1
  (rangeFrom (16 * by_) (min 16 (t.height - 16 * by_))).flatMap (fun y =>
    (rangeFrom (16 * bx) (min 16 (t.width - 16 * bx))).map (fun x =>
      (t.luma cur x y : Int) - ((Config.refSample src ref (4 * x + v.1) (4 * y + v.2) % 2 ^ t.depth : Nat) : Int)))

/-- The vector of least cost; `tie` picks among equals. -/
def leastBy (tie : Nat) (cost : Int × Int → Nat) (l : List (Int × Int)) : Int × Int :=
  let best := l.filter (fun v => l.all (fun u => cost v ≤ cost u))
  best.getD (tie % best.length) (0, 0)

/-- The vectors within `r` steps of `step` quarter pels of one. -/
def around (step : Int) (r : Nat) (v : Int × Int) : List (Int × Int) :=
  let l : List Int := (List.range (2 * r + 1)).map (fun (i : Nat) => (i : Int) - r)
  l.flatMap (fun dy => l.map (fun dx => (v.1 + step * dx, v.2 + step * dy)))

/-- A quarter-pel vector at integer precision. -/
def intPel (v : Int × Int) : Int × Int :=
  let q (a : Int) : Int := if a % 4 = 0 then a else 4 * (a / 4 + (if Config.intPelUp a then 1 else 0))
  (q v.1, q v.2)

/-- The candidate set of block `n`: the vectors of the left, above, above-right and above-left neighbours, the co-located vector
and its four neighbours in the previous frame's field, the zero vector. `coded` holds the vectors of the blocks before. -/
def searchSet (w h n : Nat) (coded : List (Option (Int × Int))) (prev : List Nat) : List (Int × Int) :=
  let at_ (o : Int × Int) : Option Nat :=
    let x : Int := (n % w : Nat) + o.1
    let y : Int := (n / w : Nat) + o.2
    if 0 ≤ x && x < w && 0 ≤ y && y < h then some (y.toNat * w + x.toNat) else none
  [(-1, 0), (0, -1), (1, -1), (-1, -1)].filterMap (fun o => (at_ o).bind (fun k => coded.getD k none))
    ++ [(0, 0), (-1, 0), (1, 0), (0, -1), (0, 1)].filterMap (fun o => (at_ o).bind (fun k => mvA (prev.getD k noVec)))
    ++ [(0, 0)]

/-- The vector of block `n`: the candidate of least SAD at integer precision, the least SAD within ±8 integer samples of it,
then the least SATD at half pel and at quarter pel. -/
def StreamDesc.searchBlock (t : StreamDesc) (src : List (List Byte × Bool)) (ref n : Nat) (coded : List (Option (Int × Int)))
    (prev : List Nat) : Int × Int :=
  let w := blocks16 t.width
  let diff := t.blockDiff src ref (n % w) (n / w)
  let sad (v : Int × Int) : Nat := ((diff v).map Int.natAbs).sum
  let satd (v : Int × Int) : Nat := Config.satd (diff v)
  let tie := Config.searchTie src n
  let c := leastBy (tie 0) sad ((searchSet w (blocks16 t.height) n coded prev).map intPel)
  let i := leastBy (tie 1) sad (around 4 8 c)
  leastBy (tie 3) satd (around 1 1 (leastBy (tie 2) satd (around 2 1 i)))

/-- The field of the search for the last of the source frames, number `no`: an intra block names no vector (R50, R51). -/
def CtxSt.searchField (s : CtxSt) (src : List (List Byte × Bool)) (no : Nat) (key : Bool) : List Nat :=
  let kept := (s.pool.filter (·.1 ≠ 0)).map (·.2)
  let nb := blocks16 s.desc.width * blocks16 s.desc.height
  let r := (List.range nb).foldl (fun (r : List (Option (Int × Int)) × List Nat) n =>
    if key || Config.encodeIntra src n then (r.1 ++ [none], r.2 ++ [noVec])
    else
      let ref := kept.getD (Config.encodeRef src n % kept.length) 0
      let v := s.desc.searchBlock src ref n r.1 s.lastField
      (r.1 ++ [some v], r.2 ++ [mvOf [(v.1, v.2, (no : Int) - ref)]])) (([], []) : List (Option (Int × Int)) × List Nat)
  r.2

/-- Coding of an encoder's frame ends. Its bytes follow those of the frames before; where they do not fit the capacity the
command ends PARTIAL with the frames coded so far, and a key picture that the frame was to be stays requested. The field's index
counts from 0 in each command, and no frame record is written (log 74). -/
def Dev.encodeEnd (d : Dev) (k : Nat) (x : Inflight) (s : CtxSt) (j : MediaJob) : Dev :=
  let c := j.ctx
  let src := s.src ++ [(j.bytes.map (·.1), j.key)]
  let bits := Config.encodeBits s.desc.std src
  let bad := j.bytes.any (·.2)
  if x.opd 2 < s.written + bits.length then
    let d := if j.key then { d with media := { d.media with keyReq := insNat c d.media.keyReq } } else d
    (d.dropJobs c).codecEnd c x s true s.done
  else
    let no := s.src.length
    let acc := x.acc (pixSrc k)
    let w := d.writeMem acc (x.opd 3 + s.written) (bits.map (·, bad))
    let field := s.searchField src no j.key
    let m : Option Nat × Dev := if s.desc.field = 0 then (none, w.2)
      else w.2.writeMemIn inHbmGal acc (s.desc.field + s.done * fieldSize s.desc.width s.desc.height)
        ((field.flatMap (leBytes 8)).map (·, bad))
    let keys := (src.zipIdx.filter (·.1.2)).map (·.2)
    -- the buffer: UNUSED, or the one of the oldest frame that is not kept LONG
    let b := match (List.range s.pool.length).find? (fun b => (s.pool.getD b (0, 0)).1 = 0) with
      | some b => b
      | none => (bestBy (fun b => no - (s.pool.getD b (0, 0)).2)
          ((List.range s.pool.length).filter (fun b => (s.pool.getD b (0, 0)).1 ≠ 2))).getD 0
    let p := m.2.freeBytes (pixSrc k) x.part (s.desc.poolAddr + b * s.desc.poolStride) s.desc.frameBytes bad
    let s := { s with
      src := src, written := s.written + bits.length, done := s.done + 1, sinceKey := if j.key then 1 else s.sinceKey + 1,
      lastField := field, pool := s.encMarks no b j.key keys, bad := first s.bad (first w.1 (first m.1 p.1)) }
    (p.2.setCtx c (some s)).codecNext c

/-- A pixel engine ends its frame, frees its chunks and takes the next; an engine with no frame takes one that waits. -/
def Dev.pixelEnd (d : Dev) (m e : Nat) : Dev :=
  let k := 4 * m + e
  match d.pixJob k with
  | none => d.pixTake k
  | some j =>
    let d := { d with media := { d.media with pix := sset (fun _ => none) d.media.pix k none } }
    let d := match d.ctxCmd j.ctx, d.ctx j.ctx with
      | some x, some s => if s.desc.enc then d.encodeEnd k x s j else d.decodeEnd k x s j
      | _, _ => d
    (d.vcdStat m).pixTakeAll m

/-- A write to VCD_KEYREQ of die `m`: a key picture is requested for a context of that die that is not CLOSED (R49; a number of
another context is ignored, log 74). -/
def Dev.keyRequest (d : Dev) (m : Nat) (v : Word) : Dev :=
  let c := fld 10 0 v
  if c / 1024 = m && (d.ctx c).isSome then { d with media := { d.media with keyReq := insNat c d.media.keyReq } } else d

/-- A media die fails (R307): its contexts are HALTED. -/
def Dev.mediaFault (d : Dev) (m : Nat) : Dev := d.each (rangeFrom (1024 * m) 1024) (fun d c => d.haltCtx c)

end Sys2Proof.Machine
end

