-- ==== Sys2Proof/Machine/Warp.lean ====
section
/-! DEFINITION. Warp engines (R56 to R59). FP32 formulas are taken as written, left to right, each operation rounded (log 15);
what the spec leaves open of sampling is in log 37. -/

namespace Sys2Proof.Machine

/-- A warp descriptor (Table 2-7). -/
structure WarpDesc where
  src : Nat
  srcC : Nat
  sw : Nat
  sh : Nat
  spitch : Nat
  sfmt : Nat
  matrix : Nat
  full : Bool
  lens : Nat
  geom : Nat
  prescale : Nat
  ofmt : Fmt
  hwc : Bool
  ch : Nat
  dst : Nat
  dw : Nat
  dh : Nat
  dpitch : Nat
  param : Nat
  mesh : Nat
  deriving DecidableEq, Repr

/-- The output formats of OFMT. -/
def warpFmt (c : Nat) : Option Fmt :=
  match Fmt.ofCode c with
  | some .fp32 => some .fp32 | some .bf16 => some .bf16 | some .fp16 => some .fp16 | some .e4m3 => some .e4m3
  | some .int8 => some .int8 | _ => none

/-- The descriptor that 64 bytes spell, none where it breaks Table 2-7. -/
def WarpDesc.ofBytes (l : List Byte) : Option WarpDesc :=
  let b (o n : Nat) : Nat := leAt l o n
  match warpFmt (b 0x1D 1) with
  | none => none
  | some f =>
    if 4 < b 0x18 1 || 7 < b 0x19 1 || 2 < b 0x1A 1 || 2 < b 0x1B 1 || 2 < b 0x1C 1 || 1 < b 0x1E 1
        || !(b 0x1F 1 = 1 || b 0x1F 1 = 3) || 8192 < b 0x28 2 || 4352 < b 0x2A 2 then none
    else some {
      src := b 0 8, srcC := b 8 8, sw := b 0x10 2, sh := b 0x12 2, spitch := b 0x14 4, sfmt := b 0x18 1,
      matrix := b 0x19 1 % 4, full := 4 ≤ b 0x19 1, lens := b 0x1A 1, geom := b 0x1B 1, prescale := b 0x1C 1, ofmt := f,
      hwc := b 0x1E 1 = 1, ch := b 0x1F 1, dst := b 0x20 8, dw := b 0x28 2, dh := b 0x2A 2, dpitch := b 0x2C 4,
      param := b 0x30 8, mesh := b 0x38 8 }

/-- FP32 number `k` at byte `o` of a parameter block. -/
def parF (l : List Byte) (o k : Nat) : Fp := Fp.ofBits (leAt l (o + 4 * k) 4)

/-- Does a parameter block keep Table 2-8? -/
def paramOk (geom : Nat) (l : List Byte) : Bool :=
  let mx := leAt l 0x54 2
  let my := leAt l 0x56 2
  let one := Fp.ofNat 1
  let unit (k : Nat) : Bool := let v := parF l 0x78 k; v.isFin && Fp.zero.le v && v.le one
  leAt l 0x58 8 = 0 && (l.drop 0x84).all (· = 0) && unit 0 && unit 1 && unit 2
    && (geom ≠ 2 || (2 ≤ mx && mx ≤ 129 && 2 ≤ my && my ≤ 129))

/-! ### Geometry and lens (R56 to R58) -/

/-- One half. -/
def fpHalf : Fp := .fin false 1 (-1)

/-- FP32 square root, rounded once (a sticky bit stands for the rest). -/
def Fp.sqrt32 : Fp → Fp
  | .nan => .nan
  | .inf s => if s then .nan else .inf false
  | .fin s m e =>
    if m = 0 then .fin s 0 0
    else if s then .nan
    else
      -- m × 2^e with an even exponent and at least 64 bits
      let k := 64 + (e % 2).toNat
      let v := m * 2 ^ k
      let q := (e - k) / 2
      let v := if (e - k) % 2 = 0 then v else v * 2
      let r := v.sqrt
      (Fp.fin false (2 * r + if r * r = v then 0 else 1) (q - 1)).r32

/-- Σ c_k × v^k for the coefficients c_1, c_2, … from a start value. -/
def polyFrom (init v : Fp) (cs : List Fp) : Fp :=
  (cs.foldl (fun (acc : Fp × Fp) c => (acc.1.add32 (c.mul32 acc.2), acc.2.mul32 v)) (init, v)).1

/-- The lens model (R58): ideal coordinates to source pixel coordinates. -/
def lensMap (lens : Nat) (p : List Byte) (xi yi : Fp) : Fp × Fp :=
  let k (n : Nat) : Fp := parF p 0x10 n
  let p1 := k 6
  let p2 := k 7
  let two := Fp.ofNat 2
  let d : Fp × Fp := match lens with
    | 1 =>
      let r2 := (xi.mul32 xi).add32 (yi.mul32 yi)
      let kk := polyFrom (Fp.ofNat 1) r2 [k 0, k 1, k 2, k 3, k 4, k 5]
      let xd := ((xi.mul32 kk).add32 (((two.mul32 p1).mul32 xi).mul32 yi)).add32
        (p2.mul32 (r2.add32 ((two.mul32 xi).mul32 xi)))
      let yd := ((yi.mul32 kk).add32 (p1.mul32 (r2.add32 ((two.mul32 yi).mul32 yi)))).add32
        (((two.mul32 p2).mul32 xi).mul32 yi)
      (xd, yd)
    | 2 =>
      let r := ((xi.mul32 xi).add32 (yi.mul32 yi)).sqrt32
      let t := Fp.ofBits (Config.atanBits r.toBits)
      let td := t.mul32 (polyFrom (Fp.ofNat 1) (t.mul32 t) [k 0, k 1, k 2, k 3])
      let s := if r.isZero then Fp.ofNat 1 else td.div32 r
      (s.mul32 xi, s.mul32 yi)
    | _ => (xi, yi)
  (((parF p 0 0).mul32 d.1).add32 (parF p 0 2), ((parF p 0 1).mul32 d.2).add32 (parF p 0 3))

/-- a + t × (b − a). -/
def lerp (t a b : Fp) : Fp := a.add32 (t.mul32 (b.sub32 a))

/-- The Scrim at an output position (R57): the ideal coordinates, and whether a control point is poisoned. -/
def scrimAt (mx my w h : Nat) (pts : Marked) (x y : Fp) : (Fp × Fp) × Bool :=
  let cell (v : Fp) (n lim : Nat) : Nat × Fp :=
    let s := (v.mul32 (Fp.ofNat (n - 1))).div32 (Fp.ofNat lim)
    let i := (max 0 (min s.floor ((n : Int) - 2))).toNat
    (i, s.sub32 (Fp.ofNat i))
  let cx := cell x mx w
  let cy := cell y my h
  let at_ (i j k : Nat) : Fp × Bool :=
    let bs := (pts.drop (8 * (j * mx + i) + 4 * k)).take 4
    (Fp.ofBits (ofLe (bs.map (·.1))), bs.any (·.2))
  let val (k : Nat) : Fp :=
    lerp cy.2 (lerp cx.2 (at_ cx.1 cy.1 k).1 (at_ (cx.1 + 1) cy.1 k).1)
      (lerp cx.2 (at_ cx.1 (cy.1 + 1) k).1 (at_ (cx.1 + 1) (cy.1 + 1) k).1)
  ((val 0, val 1), [0, 1].any (fun k => [0, 1].any (fun a => [0, 1].any (fun b => (at_ (cx.1 + a) (cy.1 + b) k).2))))

/-- The source pixel coordinates of output pixel (u, v), and whether a poisoned control point gave them. -/
def warpCoord (t : WarpDesc) (p : List Byte) (mesh : Marked) (u v : Nat) : (Fp × Fp) × Bool :=
  let x := (Fp.ofNat u).add32 fpHalf
  let y := (Fp.ofNat v).add32 fpHalf
  match t.geom with
  | 0 => ((x, y), false)
  | 1 =>
    let h (n : Nat) : Fp := parF p 0x30 n
    let row (n : Nat) : Fp := (((h (3 * n)).mul32 x).add32 ((h (3 * n + 1)).mul32 y)).add32 (h (3 * n + 2))
    (lensMap t.lens p ((row 0).div32 (row 2)) ((row 1).div32 (row 2)), false)
  | _ =>
    let s := scrimAt (leAt p 0x54 2) (leAt p 0x56 2) t.dw t.dh mesh x y
    (lensMap t.lens p s.1.1 s.1.2, s.2)

/-! ### Sampling (R56, log 37) -/

/-- Planes of the source: Y, Cb, Cr or R, G, B. -/
def WarpDesc.planes (t : WarpDesc) : Nat := if t.sfmt = 4 || (t.ch = 1 && t.sfmt ≠ 3) then 1 else 3

/-- Is plane `p` a 4:2:0 chroma plane? -/
def WarpDesc.sub (t : WarpDesc) (p : Nat) : Bool := p ≠ 0 && t.sfmt ≤ 2

/-- Width and height of plane `p`. -/
def WarpDesc.planeDim (t : WarpDesc) (p : Nat) : Nat × Nat := if t.sub p then (cdiv t.sw 2, cdiv t.sh 2) else (t.sw, t.sh)

/-- Bits of a source sample. -/
def WarpDesc.depth (t : WarpDesc) : Nat := if t.sfmt = 1 then 10 else 8

/-- Bytes of the source sample at (x, y) of plane `p`. -/
def WarpDesc.texel (t : WarpDesc) (p x y : Nat) : List Nat :=
  match t.sfmt with
  | 0 => if p = 0 then [t.src + y * t.spitch + x] else [t.srcC + y * t.spitch + 2 * x + (p - 1)]
  | 1 => if p = 0 then rangeFrom (t.src + y * t.spitch + 2 * x) 2 else rangeFrom (t.srcC + y * t.spitch + 4 * x + 2 * (p - 1)) 2
  | 2 =>
    if p = 0 then [t.src + y * t.spitch + x]
    else [t.srcC + (p - 1) * (t.spitch / 2 * cdiv t.sh 2) + y * (t.spitch / 2) + x]
  | 3 => [t.src + y * t.spitch + 3 * x + p]
  | _ => [t.src + y * t.spitch + x]

/-- A coordinate in units of 1/64 pel; one that lies between two goes to either (log 37). -/
def pelOf (x : Fp) : Int :=
  let y := x.mul (Fp.ofNat 64)
  if y.floor = y.ceil then y.floor else y.floor + (if Config.pelUp x.toBits then 1 else 0)

/-- The taps of a plane at source coordinates: places with their weights out of 4,096; none for a coordinate that is not
finite, which lies outside the source. A place outside the prescaled plane is none. -/
def WarpDesc.taps (t : WarpDesc) (p : Nat) (px py : Fp) : List (Option (Nat × Nat) × Nat) :=
  if !px.isFin || !py.isFin then [(none, 4096)]
  else
    let f : Fp := Fp.pow2 (-(t.prescale : Int))
    let x := px.mul32 f
    let y := py.mul32 f
    -- texel centres lie at half pels; 4:2:0 chroma is co-sited with the left luma of a pair and between two rows
    let cx := if t.sub p then (x.sub32 fpHalf).mul32 fpHalf else x.sub32 fpHalf
    let cy := if t.sub p then (y.mul32 fpHalf).sub32 fpHalf else y.sub32 fpHalf
    let qx := pelOf cx
    let qy := pelOf cy
    let w := ((t.planeDim p).1 / 2 ^ t.prescale : Nat)
    let h := ((t.planeDim p).2 / 2 ^ t.prescale : Nat)
    let place (i j : Int) : Option (Nat × Nat) :=
      if 0 ≤ i && i < w && 0 ≤ j && j < h then some (i.toNat, j.toNat) else none
    let fx := (qx % 64).toNat
    let fy := (qy % 64).toNat
    [(place (qx / 64) (qy / 64), (64 - fx) * (64 - fy)), (place (qx / 64 + 1) (qy / 64), fx * (64 - fy)),
     (place (qx / 64) (qy / 64 + 1), (64 - fx) * fy), (place (qx / 64 + 1) (qy / 64 + 1), fx * fy)].filter (·.2 ≠ 0)

/-- The source samples of one box of the prescaled plane. -/
def WarpDesc.box (t : WarpDesc) (x y : Nat) : List (Nat × Nat) :=
  let f := 2 ^ t.prescale
  (List.range f).flatMap (fun j => (List.range f).map (fun i => (x * f + i, y * f + j)))

/-- Bytes that the taps of an output pixel read. -/
def WarpDesc.tapBytes (t : WarpDesc) (px py : Fp) : List Nat :=
  (List.range t.planes).flatMap (fun p => (t.taps p px py).flatMap (fun e => match e.1 with
    | some (x, y) => (t.box x y).flatMap (fun s => t.texel p s.1 s.2)
    | none => []))

/-- The value of plane `p` in sample codes, and whether a poisoned sample is in it: the bilinear sum over the taps in FP32, in
their order. The padding value enters here, as a fraction of the full code (log 37). A box's average is exact in FP32. -/
def WarpDesc.planeAt (t : WarpDesc) (par : List Byte) (m : ByteMap) (p : Nat) (px py : Fp) : Fp × Bool :=
  let maxCode := Fp.ofNat (2 ^ t.depth - 1)
  let one (e : Option (Nat × Nat)) : Fp × Bool := match e with
    | none => ((parF par 0x78 p).mul32 maxCode, false)
    | some (x, y) =>
      let ss := (t.box x y).map (fun s => (t.texel p s.1 s.2).map m.at)
      let code (bs : List (Byte × Bool)) : Nat := let v := ofLe (bs.map (·.1)); if t.depth = 10 then v / 64 else v
      (Fp.fin false (ss.map code).sum (-(2 * t.prescale : Int)), ss.any (·.any (·.2)))
  let l := (t.taps p px py).map (fun e => ((one e.1).1.mul32 (Fp.fin false e.2 (-12)), (one e.1).2))
  (l.foldl (fun (acc : Fp) e => acc.add32 e.1) Fp.zero, l.any (·.2))

/-! ### Colour and normalisation (R56) -/

/-- Kr and Kb of a matrix, in 1/10,000. -/
def colourK : Nat → Nat × Nat
  | 0 => (2990, 1140) | 1 => (2126, 722) | _ => (2627, 593)

/-- A quotient of numbers in FP32. -/
def ratio32 (a b : Nat) : Fp := (Fp.ofNat a).div32 (Fp.ofNat b)

/-- The channel values in [0, 1] of plane values in sample codes. -/
def WarpDesc.colour (t : WarpDesc) (vs : List Fp) : List Fp :=
  let s := 2 ^ (t.depth - 8)
  let maxCode := Fp.ofNat (2 ^ t.depth - 1)
  let v (k : Nat) : Fp := vs.getD k (Fp.ofNat (128 * s))
  if t.sfmt = 3 then
    let c := [(v 0).div32 maxCode, (v 1).div32 maxCode, (v 2).div32 maxCode]
    if t.ch = 1 then [Fp.ofBits (Config.rgbLuma (c.getD 0 .nan).toBits (c.getD 1 .nan).toBits (c.getD 2 .nan).toBits)] else c
  else if t.matrix = 3 then (List.range t.ch).map (fun k => (v k).div32 maxCode)
  else
    let y := if t.full then (v 0).div32 maxCode else ((v 0).sub32 (Fp.ofNat (16 * s))).div32 (Fp.ofNat (219 * s))
    let c (k : Nat) : Fp :=
      ((v k).sub32 (Fp.ofNat (128 * s))).div32 (if t.full then maxCode else Fp.ofNat (224 * s))
    if t.ch = 1 then [y]
    else
      let kr := (colourK t.matrix).1
      let kb := (colourK t.matrix).2
      let kg := 10000 - kr - kb
      let r := y.add32 ((ratio32 (2 * (10000 - kr)) 10000).mul32 (c 2))
      let g := (y.sub32 ((ratio32 (2 * kb * (10000 - kb)) (10000 * kg)).mul32 (c 1))).sub32
        ((ratio32 (2 * kr * (10000 - kr)) (10000 * kg)).mul32 (c 2))
      let b := y.add32 ((ratio32 (2 * (10000 - kb)) 10000).mul32 (c 1))
      [r, g, b]

/-- The element codes of an output pixel and its mark. -/
def WarpDesc.pixel (t : WarpDesc) (par : List Byte) (m : ByteMap) (c : (Fp × Fp) × Bool) : List Nat × Bool :=
  let ps := (List.range t.planes).map (fun p => t.planeAt par m p c.1.1 c.1.2)
  let vs := t.colour (ps.map (·.1))
  (vs.zipIdx.map (fun e =>
    (t.ofmt.narrow .nearest true ((e.1.sub32 (parF par 0x60 e.2)).mul32 (parF par 0x6C e.2))).1), c.2 || ps.any (·.2))

/-! ### The output (R56) -/

/-- The contiguous parts of the output tensor: address and bytes of each row. -/
def WarpDesc.rows (t : WarpDesc) : List (Nat × Nat) :=
  let n := t.ofmt.bits / 8
  if t.hwc then (List.range t.dh).map (fun v => (t.dst + v * t.dpitch, t.dw * t.ch * n))
  else (List.range t.ch).flatMap (fun c => (List.range t.dh).map (fun v => (t.dst + (c * t.dh + v) * t.dpitch, t.dw * n)))

/-- The bytes of the output in the order of its rows. -/
def WarpDesc.outBytes (t : WarpDesc) (par : List Byte) (mesh : Marked) (m : ByteMap) : Marked :=
  let n := t.ofmt.bits / 8
  let px (u v : Nat) : List Nat × Bool := t.pixel par m (warpCoord t par mesh u v)
  let el (p : List Nat × Bool) (c : Nat) : Marked := (leBytes n (p.1.getD c 0)).map (·, p.2)
  if t.hwc then
    (List.range t.dh).flatMap (fun v => (List.range t.dw).flatMap (fun u => (List.range t.ch).flatMap (el (px u v))))
  else
    (List.range t.ch).flatMap (fun c => (List.range t.dh).flatMap (fun v => (List.range t.dw).flatMap (fun u => el (px u v) c)))

/-- Write bytes into the parts of a destination, in order; answers the first refused address. -/
def Dev.writeParts (d : Dev) (acc : Acc) (parts : List (Nat × Nat)) (bs : Marked) : Option Nat × Dev :=
  let r := parts.foldl (fun (r : Marked × Option Nat × Dev) e =>
    let w := r.2.2.writeMem acc e.1 (r.1.take e.2)
    (r.1.drop e.2, first r.2.1 w.1, w.2)) ((bs, none, d) : Marked × Option Nat × Dev)
  (r.2.1, r.2.2)

/-- The source number of warp engine `e` of media die `m` (Table 1-3). -/
def warpSrc (m e : Nat) : Nat := srcNo (18 + m) (0x010 + e)
/-- Source number of the range-scan unit. -/
def scanSrc (m : Nat) : Nat := srcNo (18 + m) 0x018

/-- Flag an error of INP_ERR with its capture. -/
def Dev.inpErr (d : Dev) (m bit src a : Nat) : Dev :=
  let d := d.raise (rInpErr m) bit (fun d => d.wr64 (rInpErrAddrLo m) a)
  d.flw 6 bit src (d.rd64 (rInpErrAddrLo m))

/-- Read and check a WARP's descriptor and parameter block (R59, R395). -/
def Dev.warpDesc (d : Dev) (acc : Acc) (a : Nat) : Option (WarpDesc × List Byte) × Dev :=
  match d.readStruct acc 1 a 64 with
  | (none, d) => (none, d)
  | (some l, d) => match WarpDesc.ofBytes l with
    | none => (none, d)
    | some t => match d.readStruct acc 1 t.param 256 with
      | (none, d) => (none, d)
      | (some p, d) => (if paramOk t.geom p then some (t, p) else none, d)

/-- Warp a frame: the output's bytes, written; the first poisoned or refused address. -/
def Dev.warpRun (d : Dev) (m : Nat) (acc : Acc) (t : WarpDesc) (p : List Byte) : (Marked × Option Nat × Bool) × Dev :=
  let mesh := if t.geom = 2 then d.readMem acc t.mesh (leAt p 0x54 2 * leAt p 0x56 2 * 8) else (⟨[], none, false, false⟩, d)
  let coords := (List.range t.dh).flatMap (fun v => (List.range t.dw).map (fun u => (warpCoord t p mesh.1.data u v).1))
  let as := coords.flatMap (fun c => t.tapBytes c.1 c.2)
  let r := mesh.2.readBytes acc 4096 as
  let src := as.find? (fun a => (r.1.1.at a).2)
  let out := t.outBytes p mesh.1.data r.1.1
  let w := r.2.writeParts acc t.rows out
  ((out, first mesh.1.bad (first src w.1), out.any (·.2)), w.2.add64 (rInpWarpPixelsLo m) (t.dw * t.dh))

end Sys2Proof.Machine
end

