-- ==== Sys2Proof/Machine/Scan.lean ====
section
/-! DEFINITION. The range-scan unit (R60 to R63): voxelisation of packed returns, in FP32 and in packed order. -/

namespace Sys2Proof.Machine

/-- A scan's descriptor, parameter block and frame header, as read whole and clean. -/
structure ScanPar where
  frame : Nat
  table : Nat
  list : Nat
  points : Nat
  record : Nat
  param : List Byte
  head : List Byte
  deriving DecidableEq, Repr

/-- S of R62. -/
def ScanPar.size (p : ScanPar) : Nat := 2 ^ leAt p.param 0x60 1
/-- VLIMIT. -/
def ScanPar.vlimit (p : ScanPar) : Nat := leAt p.param 0x64 4
/-- Beams, azimuth steps and returns per beam. -/
def ScanPar.beams (p : ScanPar) : Nat := leAt p.head 4 2
/-- Azimuth steps. -/
def ScanPar.steps (p : ScanPar) : Nat := leAt p.head 6 2
/-- Returns per beam. -/
def ScanPar.rets (p : ScanPar) : Nat := leAt p.head 0x14 1
/-- Return words. -/
def ScanPar.count (p : ScanPar) : Nat := p.beams * p.steps * p.rets

/-- The checks of R63 on a descriptor, a parameter block and a header. -/
def scanOk (l par head : List Byte) : Bool :=
  let f (k : Nat) : Fp := parF par 0 k
  let s (k : Nat) : Fp := parF par 0x4C k
  let rmin := parF par 0x58 0
  let rmax := parF par 0x58 1
  let lg := leAt par 0x60 1
  leAt head 0 2 = 0x5C4E && leAt head 2 2 = 1 && 1 ≤ leAt head 4 2 && leAt head 4 2 ≤ 256
    && 1 ≤ leAt head 6 2 && leAt head 6 2 ≤ 4096 && (leAt head 0x14 1 = 1 || leAt head 0x14 1 = 2)
    && leAt head 0x24 4 % 4 = 0 && leAt head 0x15 3 = 0 && (head.drop 0x28).all (· = 0)
    && (l.drop 0x30).all (· = 0) && leAt par 0x61 3 = 0 && (par.drop 0x68).all (· = 0)
    && 10 ≤ lg && lg ≤ 22 && 1 ≤ leAt par 0x64 4 && leAt par 0x64 4 ≤ min (2 ^ 21) (2 ^ lg / 2)
    && (f 12).eq Fp.zero && (f 13).eq Fp.zero && (f 14).eq Fp.zero && (f 15).eq (Fp.ofNat 1)
    && rmin.isFin && rmax.isFin && !rmin.lt Fp.zero && rmin.le rmax
    && [s 0, s 1, s 2].all (fun x => x.isFin && Fp.zero.lt x)

/-- Read and check a SCAN's structures (R63, R395). -/
def Dev.scanDesc (d : Dev) (acc : Acc) (a : Nat) : Option ScanPar × Dev :=
  match d.readStruct acc 1 a 64 with
  | (none, d) => (none, d)
  | (some l, d) => match d.readStruct acc 1 (leAt l 8 8) 128 with
    | (none, d) => (none, d)
    | (some par, d) => match d.readStruct acc 1 (leAt l 0 8) 64 with
      | (none, d) => (none, d)
      | (some head, d) =>
        (if scanOk l par head then
          some ⟨leAt l 0 8, leAt l 0x10 8, leAt l 0x18 8, leAt l 0x20 8, leAt l 0x28 8, par, head⟩ else none, d)

/-- A voxel (Table 2-11). -/
structure Voxel where
  key : Nat
  count : Nat
  inten : Nat
  sx : Fp
  sy : Fp
  sz : Fp
  index : Nat
  deriving DecidableEq, Repr

/-- What a scan has come to: voxels by slot, the occupancy list, the kept points' bytes and the counts. -/
structure ScanSt where
  vox : List (Nat × Option Voxel)
  occ : List Nat
  pts : List Byte
  kept : Nat
  dropR : Nat
  dropG : Nat
  dropO : Nat
  deriving DecidableEq, Repr

/-- The slot that holds `key`, or the first empty one, from slot `h` on by linear probe. -/
def probe (vox : List (Nat × Option Voxel)) (size key : Nat) : Nat → Nat → Nat
  | 0, h => h
  | fuel + 1, h =>
    match sget (fun _ => none) vox h with
    | none => h
    | some v => if v.key = key then h else probe vox size key fuel ((h + 1) % size)

/-- The grid index of an axis (R61), none where it lies outside. -/
def gridIdx (w o s : Fp) : Option Int :=
  let q := (w.sub32 o).div32 s
  let i := if q.isNan then Config.nanGrid w.toBits else q.floor
  if !q.isNan && !q.isFin then none else if i < -(2 ^ 20) || 2 ^ 20 - 1 < i then none else some i

/-- A point of world coordinates `w`, return `n` in packed order, joins a voxel (R62). -/
def ScanSt.point (s : ScanSt) (p : ScanPar) (n b word : Nat) (x y z : Fp) : ScanSt :=
  let o (k : Nat) : Fp := parF p.param 0x40 k
  let sz (k : Nat) : Fp := parF p.param 0x4C k
  match gridIdx x (o 0) (sz 0), gridIdx y (o 1) (sz 1), gridIdx z (o 2) (sz 2) with
  | some i, some j, some k =>
    let m (v : Int) : Nat := (v % 2 ^ 21).toNat
    let key := m i * 2 ^ 42 + m j * 2 ^ 21 + m k
    let h := (m i * 0x9E3779B1 ^^^ m j * 0xC2B2AE3D ^^^ m k * 0x85EBCA77) % 2 ^ 32
    let slot := probe s.vox p.size key p.size (h % p.size)
    let it := nfld 27 20 word
    let put (v : Voxel) (s : ScanSt) : ScanSt :=
      { s with vox := sset (fun _ => none) s.vox slot (some v), kept := s.kept + 1,
               pts := s.pts ++ leBytes 4 x.toBits ++ leBytes 4 y.toBits ++ leBytes 4 z.toBits
                 ++ leBytes 4 (it + 2 ^ 8 * b + 2 ^ 16 * nfld 28 28 word + 2 ^ 17 * nfld 29 29 word) }
    match sget (fun _ => none) s.vox slot with
    | some v => put { v with count := v.count + 1, inten := v.inten + it, sx := v.sx.add32 x, sy := v.sy.add32 y, sz := v.sz.add32 z } s
    | none =>
      if p.vlimit ≤ s.occ.length then { s with dropO := s.dropO + 1 }
      else put ⟨key, 1, it, x, y, z, n⟩ { s with occ := s.occ ++ [slot] }
  | _, _, _ => { s with dropG := s.dropG + 1 }

/-- A return word (R61). -/
def ScanSt.ret (s : ScanSt) (p : ScanPar) (beamTbl : List Byte) (n word : Nat) : ScanSt :=
  let b := n / p.rets % p.beams
  let a := n / p.rets / p.beams
  let r := (Fp.ofNat (word % 2 ^ 20)).mul32 (parF p.head 0x10 0)
  if word % 2 ^ 20 = 0 || r.lt (parF p.param 0x58 0) || (parF p.param 0x58 1).lt r then { s with dropR := s.dropR + 1 }
  else
    let el := parF beamTbl (8 * b) 0
    let az := ((parF p.head 8 0).add32 ((Fp.ofNat a).mul32 (parF p.head 8 1))).add32 (parF beamTbl (8 * b) 1)
    let cs (x : Fp) : Fp := Fp.ofBits (Config.cosBits x.toBits)
    let sn (x : Fp) : Fp := Fp.ofBits (Config.sinBits x.toBits)
    let px := (r.mul32 (cs el)).mul32 (cs az)
    let py := (r.mul32 (cs el)).mul32 (sn az)
    let pz := r.mul32 (sn el)
    let row (k : Nat) : Fp :=
      ((((parF p.param 0 (4 * k)).mul32 px).add32 ((parF p.param 0 (4 * k + 1)).mul32 py)).add32
        ((parF p.param 0 (4 * k + 2)).mul32 pz)).add32 (parF p.param 0 (4 * k + 3))
    s.point p n b word (row 0) (row 1) (row 2)

/-- A table entry's bytes; the bytes of an empty one past its key are free (log 37). -/
def voxelBytes (free slot : Nat) : Option Voxel → List Byte
  | some v => leBytes 8 v.key ++ leBytes 4 v.count ++ leBytes 4 v.inten ++ leBytes 4 v.sx.toBits ++ leBytes 4 v.sy.toBits
      ++ leBytes 4 v.sz.toBits ++ leBytes 4 v.index
  | none => leBytes 8 0xFFFFFFFFFFFFFFFF ++ (List.range 24).map (fun o => Config.mediaFill free (slot * 32 + o))

/-- Voxelise a scan: the bytes of table and list, written with the point output and the record. Poisoned words mark all of
it (R63). -/
def Dev.scanRun (d : Dev) (m : Nat) (acc : Acc) (p : ScanPar) : (Marked × Option Nat × Bool) × Dev :=
  let tb := d.readMem acc (p.frame + leAt p.head 0x20 4) (8 * p.beams)
  let ws := tb.2.readMem acc (p.frame + leAt p.head 0x24 4) (4 * p.count)
  let words := bytesToWords p.count ws.1.bytes
  let s := words.zipIdx.foldl (fun (s : ScanSt) e => s.ret p tb.1.bytes e.2 e.1.toNat) ⟨[], [], [], 0, 0, 0, 0⟩
  let bad := tb.1.bad.isSome || ws.1.bad.isSome
  let f := ws.2.fresh
  let mk (l : List Byte) : Marked := l.map (·, bad)
  let table := mk ((List.range p.size).flatMap (fun k => voxelBytes f.1 k (sget (fun _ => none) s.vox k)))
  let list := mk (s.occ.flatMap (leBytes 4))
  let a := f.2.writeMem acc p.table table
  let b := a.2.writeMem acc p.list list
  let c : Option Nat × Dev := if p.points = 0 then (none, b.2) else b.2.writeMem acc p.points (mk s.pts)
  let r := c.2.writeMem acc p.record (mk (leBytes 4 p.count ++ leBytes 4 s.kept ++ leBytes 4 s.dropR ++ leBytes 4 s.dropG
    ++ leBytes 4 s.dropO ++ leBytes 4 s.occ.length ++ List.replicate 40 0))
  ((table ++ list, first tb.1.bad (first ws.1.bad (first a.1 (first b.1 (first c.1 r.1)))), bad),
    r.2.add64 (rInpScanReturnsLo m) p.count)

/-- The parts of memory that a cached scan output fills: the table and, behind it, the occupancy list. -/
def ScanPar.parts (p : ScanPar) (total : Nat) : List (Nat × Nat) :=
  [(p.table, p.size * 32), (p.list, total - p.size * 32)]

end Sys2Proof.Machine
end

