-- ==== Sys2Proof/Machine/Moves.lean ====
section
/-! DEFINITION. The moves of DMA commands and TROWEL CONVERT (R206, R247 to R250): engines, COPY, FILL. -/

namespace Sys2Proof.Machine

/-! ### Engines (R247) -/

/-- Source number of engine ENG `e`. -/
def dmaSrc (e : Nat) : Nat := srcOf (.dma (Fin.ofNat 96 e))

/-- The Trowel engine that serves DMA engine `e` (R248). -/
def dmaTrowel (e : Nat) : Nat := if e < 64 then 8 + e / 32 else (e - 64) / 4

/-- Commands that engine `e` holds. -/
def Dev.dmaHeld (d : Dev) (e : Nat) : List Inflight := d.queue.infl.filter (fun x => x.eng = e && x.held && x.phase ≠ .ended)

/-- DMA_STATUS of engine `e` follows the commands it holds. -/
def Dev.dmaStat (d : Dev) (e : Nat) : Dev :=
  if 96 ≤ e then d else
    let n := (d.dmaHeld e).length
    d.wr (rDmaStatus e) (BitVec.ofNat 32 ((if n = 0 then 0 else 1) + 2 * n))

/-- Flag an error of DMA_ERR with its capture and its record. -/
def Dev.dmaErr (d : Dev) (e bit a : Nat) : Dev :=
  (d.raise (rDmaErr e) bit (fun d => d.wr64 (rDmaErrAddrLo e) a)).flw 3 bit (dmaSrc e) a

/-- Is `x` the command that its engine performs next? -/
def Dev.dmaTurn (d : Dev) (x : Inflight) : Bool := x.held && (d.dmaHeld x.eng).all (fun y => x.heldAt ≤ y.heldAt)

/-! ### A move between two descriptors (R98, R206, R248) -/

/-- What a move is set up with: engine, source number, permutation, offsets, and whether the sizes must agree. -/
structure MoveCfg where
  src : Nat
  engine : Nat
  chunk : Nat
  perm : List Nat
  offs : List Int
  equal : Bool
  dma : Bool
  deriving DecidableEq, Repr

/-- The configuration of a COPY or a CONVERT. -/
def Dev.moveCfg (d : Dev) (x : Inflight) : MoveCfg :=
  if x.cls = 1 then
    let xf := x.opd 2
    let off (k : Nat) : Int := signed 16 (nfld (16 * k + 15) (16 * k) (x.opd 3))
    { src := dmaSrc x.eng, engine := dmaTrowel x.eng, chunk := 4096, perm := if xf.testBit 18 then permOf xf else permId,
      offs := if xf.testBit 19 then [off 0, off 1, off 2, off 3] else [], equal := false, dma := true }
  else
    let e := d.trwHubEngine x.part
    { src := trwSrc e, engine := e, chunk := 4096, perm := permId, offs := [], equal := true, dma := false }

/-- The transfer of a move. -/
def MoveCfg.xfer (m : MoveCfg) (x : Inflight) (src dst : Desc) : Xfer :=
  { dst := dst, src := src, perm := m.perm, offs := m.offs, store := false, req := .cmd x.q x.i, acc := x.acc m.src,
    chunk := m.chunk, rnd := ⟨x.seed, BitVec.ofNat 32 x.seq, 0xFFFFFFFFFFFFFFFF, x.rnd⟩, epoch := x.epoch,
    engine := m.engine, build := !x.tblsrc }

/-- Bytes that PROGRESS counts for a whole destination (R242). -/
def Desc.progress (t : Desc) : Nat := t.count * t.fmt.bits / 8

/-- Move the elements of a command whose descriptors have been copied, and end its work (R242, R250). -/
def Dev.moveRun (d : Dev) (x : Inflight) (src dst : Desc) : Dev :=
  let m := d.moveCfg x
  let r := d.xferRun (m.xfer x src dst)
  let bad := first r.1.readBad r.1.writeBad
  let a := bad.getD 0
  let d := if m.dma then
      let d := if r.1.poison then r.2.dmaErr x.eng 0 (r.1.readBad.getD a) else r.2
      let d := if r.1.refused then d.dmaErr x.eng 1 a else d
      d.add64 (rDmaBytesLo x.eng) r.1.done
    else r.2
  (d.finish x { Result.fresh with
    status := if bad.isSome then .poisoned else .done, progress := if m.dma then dst.progress else 0, addr := a }).dmaStat x.eng

/-- Begin a move: its descriptors are read and checked; a compressed source first goes through its Trowel engine. -/
def Dev.moveBegin (d : Dev) (x : Inflight) (sa da : Nat) : Dev :=
  let m := d.moveCfg x
  let acc := x.acc m.src
  let no (d : Dev) (cause : Nat) : Dev := (d.finish x (aborted cause m.src)).dmaStat x.eng
  let s := d.loadDesc acc sa
  let t := s.2.loadDesc acc da
  match s.1, t.1 with
  | some src, some dst =>
    let on := if x.cls = 7 then d.trwOnFor x else d.trwOn x.part
    let c1 := t.2.clsOk on x.part src
    let c2 := c1.2.clsOk on x.part dst
    let d := c2.2
    if m.equal && src.size ≠ dst.size then no d 5
    else if descMeets x.epoch src dst then no d 7
    else if !(c1.1 && c2.1) then no d 0xB
    else
      let y := m.xfer x src dst
      if y.srcBlocks.isEmpty then d.moveRun x src dst
      else (d.setCmd x.q x.i (fun z => { z with phase := .working, descs := [src, dst] })).xferBegin y
  | _, _ => no t.2 3

/-- A Trowel engine has delivered a block to command `q`, `i`: with the last one its move runs. -/
def Dev.moveGo (d : Dev) (q : Nat) (i : Word) : Dev :=
  if d.trwDecoding (.cmd q i) then d
  else match d.queue.infl.find? (fun x => x.q = q && x.i = i && x.phase = .working) with
    | some x => match x.descs with
      | [src, dst] => d.moveRun x src dst
      | _ => d
    | none => d

/-! ### FILL (R83, R239, R248) -/

/-- Bits of a pattern above those that R83 lets the format use. -/
def patternBad (f : Fmt) (v : Nat) : Bool :=
  if f.isMx then 65536 ≤ v || nfld 7 f.bits v ≠ 0 else f.bits < 32 && 2 ^ f.bits ≤ v

/-- The blocks of an MX destination, filled with the pattern's element and scale codes (log 31). -/
def mxFill (t : Desc) (org v : Nat) : ByteMap :=
  let w := t.fmt.bits
  let idxs := (List.range t.count).map t.idxOf
  let blocks := sortNat (idxs.map (fun i => t.siOf i / 32))
  let sis := idxs.map t.siOf
  (blocks.flatMap (fun b =>
    let cs := (List.range 32).map (fun j => if sis.contains (32 * b + j) then v % 2 ^ w else 0)
    ((packElems w cs).zipIdx).map (fun e => (org + b * 4 * w + e.2, (e.1, false))))).mergeSort (fun a b => a.1 ≤ b.1)
    ++ blocks.map (fun b => (org + t.scaleOff + b, (BitVec.ofNat 8 (v / 256), false)))

/-- FILL: the destination's descriptor and the pattern are checked, then every element takes the pattern. -/
def Dev.fill (d : Dev) (x : Inflight) : Dev :=
  let m := d.moveCfg x
  let acc := x.acc m.src
  let no (d : Dev) (cause : Nat) : Dev := (d.finish x (aborted cause m.src)).dmaStat x.eng
  let v := x.opd 2 % 2 ^ 32
  match d.loadDesc acc (x.opd 1) with
  | (none, d) => no d 3
  | (some t, d) =>
    if patternBad t.fmt v then
      ((no d 0x20).qmErr 2 x.q x.seq).flw 3 2 (qmSrc x.q) 0
    else
      let c := d.clsOk (d.trwOn x.part) x.part t
      if !c.1 then no c.2 0xB
      else
        let y := m.xfer x t t
        let w : ElemWr × Dev :=
          if t.cls ≠ 0 then
            c.2.xferEncode y ((List.range t.count).map (fun e => ⟨t.idxOf e, .raw v, false⟩))
          else if t.fmt.isMx then
            let r := c.2.writeBytes acc 4096 (mxFill t (t.org x.epoch) v)
            (⟨[], r.1.1, r.1.2, none, false, false⟩, r.2)
          else
            c.2.writeElems acc 4096 t (t.org x.epoch) y.rnd ((List.range t.count).map (fun e => ⟨t.idxOf e, .raw v, false⟩))
        let d := match w.1.bad with
          | some a => w.2.dmaErr x.eng 1 a
          | none => w.2
        ((d.add64 (rDmaBytesLo x.eng) w.1.done).finish x { Result.fresh with
          status := if w.1.bad.isSome then .poisoned else .done, progress := t.progress, addr := w.1.bad.getD 0 }).dmaStat x.eng

/-! ### The commands -/

/-- A DMA move of operation `op` whose turn it is at its engine. -/
def Dev.dmaWork (d : Dev) (c : CmdRef) (op : Nat) (f : Inflight → Dev → Dev) : Dev :=
  d.work c (fun x => x.cls = 1 && x.op = op && x.phase = .dispatched && d.dmaTurn x) f

/-- COPY (R248). -/
def execCopy (c : CmdRef) (s : State) :=
  State.run (fun d => d.dmaWork c 0 (fun x d => d.moveBegin x (x.opd 0) (x.opd 1))) s
/-- FILL (R248). -/
def execFill (c : CmdRef) (s : State) := State.run (fun d => d.dmaWork c 1 (fun x d => d.fill x)) s

end Sys2Proof.Machine
end

