-- ==== Sys2Proof/Machine/TrowelCmds.lean ====
section
/-! DEFINITION. TROWEL commands (R202, R205 to R207), the engines' work on their queues (R185, R200, R203) and TRW_PCTL
(R209). -/

namespace Sys2Proof.Machine

/-! ### Slots -/

/-- Set STATE[1:0] of a slot, and count the slots OPEN. -/
def Dev.slotOpen (d : Dev) (src p slot : Nat) (was now : Bool) (state : Nat) : Dev :=
  let d := d.pokeSlot src p slot 0 4 state
  let n := (d.rd (rTrwSlotsOpen p)).toNat
  d.wr (rTrwSlotsOpen p) (BitVec.ofNat 32 (if now && !was then n + 1 else if was && !now then n - 1 else n))

/-- The descriptor that SINIT recorded for a slot. -/
def Dev.slotDesc (d : Dev) (p slot : Nat) : Option Desc := sget (fun _ => none) d.trw.descs (p * 4096 + slot)

/-- OPEN of a slot: every header 0, ALLOC 0, tags empty, HF and the key list cleared. -/
def Dev.slotClear (d : Dev) (src p slot : Nat) (epoch : Word) : Dev :=
  let d := match d.slotDesc p slot with
    | some t => (d.writeMem ⟨some p, src⟩ (t.org epoch) (clean (List.replicate (t.nblocks * 8) 0))).2
    | none => d
  let d := (d.pokeSlot src p slot 0x20 8 0).pokeSlot src p slot 0x50 8 (2 ^ 64 - 1)
  (d.pokeSlot src p slot 0x58 16 0).pokeSlot src p slot 0x80 64 0

/-- Elements of a frame. -/
def Desc.frameElems (t : Desc) (fdim : Nat) : Nat := if 6 ≤ fdim then t.count else t.count / t.size.getD fdim 1

/-- The parameter block's fields that Table 8-5 does not mark Parameters are 0. -/
def parmZeros (l : List Byte) : Bool :=
  leAt l 0 4 = 0 && leAt l 4 2 = 0 && leAt l 6 1 = 0 && leAt l 11 1 = 0 && leAt l 0xC 4 = 0 && leAt l 0x10 8 = 0
    && leAt l 0x18 8 = 0 && leAt l 0x20 8 = 0

/-- The limits of R188 on a mask: at most 4,096 channels, of which at most one in 32 is privileged. -/
def Desc.maskOk (t : Desc) : Bool :=
  let n := t.size.getD t.chdim 0
  t.cls = 4 || t.pmask = 0 || (n ≤ 4096 && t.mask.length ≤ n / 32)

/-- The conditions of R205 and R206 on a descriptor and a parameter block. RB0 and RB1 each hold a frame when neither
frame reaches into the other buffer (log 30). -/
def sinitOk (t : Desc) (l : List Byte) : Bool :=
  let fd := leAt l 8 1
  let xd := leAt l 9 1
  let yd := leAt l 10 1
  let rb0 := leAt l 0x40 8
  let rb1 := leAt l 0x48 8
  let fr := t.frameElems fd
  t.cls ≠ 0 && t.maskOk && parmZeros l && leAt l 0x28 8 % 64 = 0 && rb0 % 64 = 0 && rb1 % 64 = 0
    && (!t.delta ||
      ([fd, xd, yd, t.chdim].Nodup && [fd, xd, yd, t.chdim].all (· < t.rank) && fr % 256 = 0 && leAt l 7 1 ≤ 32
        && !meets rb0 (fr * t.esize) rb1 (fr * t.esize)))

/-- SINIT. -/
def Dev.sinit (d : Dev) (x : Inflight) (e slot : Nat) : Option Nat × Dev :=
  let src := trwSrc e
  let acc := x.acc src
  match d.loadDesc acc (x.opd 1) with
  | (none, d) => (some 3, d)
  | (some t, d) => match d.readStruct acc 1 (x.opd 2) 80 with
    | (none, d) => (some 3, d)
    | (some l, d) =>
      if !sinitOk t l then (some 0x27, d)
      else
        let was := d.readSlot src x.part slot
        let d := was.2
        let fd := leAt l 8 1
        let m := if t.pmask = 0 || t.rank ≤ t.chdim then ([], d)
          else
            let r := d.readMem acc t.pmask (cdiv (min (t.size.getD t.chdim 0) 4096) 8)
            (r.1.bytes, r.2)
        let mask := m.1 ++ List.replicate (512 - m.1.length) 0
        let head := leBytes 4 0 ++ [BitVec.ofNat 8 t.fmt.code, BitVec.ofNat 8 t.cls,
            BitVec.ofNat 8 (t.delta.toNat + (if t.pmask ≠ 0 then 2 else 0))] ++ (l.drop 7).take 4
          ++ [BitVec.ofNat 8 t.chdim] ++ leBytes 4 (t.frameElems fd / 256) ++ leBytes 8 t.base ++ leBytes 8 t.capBytes
          ++ leBytes 8 0 ++ (l.drop 0x28).take 0x28
        let rec_ := head ++ List.replicate (0x200 - head.length) 0 ++ mask ++ List.replicate 1024 0
        let d := (m.2.writeMem acc (d.slotAddr x.part slot) (clean rec_)).2
        let d := { d with trw := { d.trw with
          descs := sset (fun _ => none) d.trw.descs (x.part * 4096 + slot) (some t) } }
        let d := d.slotClear src x.part slot x.epoch
        (none, d.slotOpen src x.part slot was.1.isOpen true 1)

/-- The image of a slot's table set (Table 8-4). -/
def SlotRec.image (s : SlotRec) : List Byte :=
  let body := s.tables ++ List.replicate 128 0
  leBytes 4 0x5457 ++ [BitVec.ofNat 8 (s.fld 5 1), BitVec.ofNat 8 (s.fld 4 1), BitVec.ofNat 8 s.gen, 0]
    ++ leBytes 4 (crc32 body).toNat ++ List.replicate 52 0 ++ body

/-- Does the codebook of a class increase strictly? -/
def bookRises (cls : Nat) (tbl : List Byte) : Bool :=
  cls = 4 ||
    let b := (codebook cls tbl).take (clsLF cls).1
    (b.zip (b.drop 1)).all (fun e => e.1.lt e.2)

/-- LOAD (R202): answers the TRW_ERR.TABLE case apart. -/
def Dev.tblLoad (d : Dev) (x : Inflight) (e slot : Nat) (s : SlotRec) : Option Nat × Dev :=
  let src := trwSrc e
  match d.readStruct (x.acc src) 1 (x.opd 1) 512 with
  | (none, d) => (some 3, d)
  | (some l, d) =>
    let tbl := (l.drop 0x40).take 320
    let gen := leAt l 6 1
    if leAt l 0 4 ≠ 0x5457 || BitVec.ofNat 32 (leAt l 8 4) ≠ crc32 (l.drop 0x40) || leAt l 4 1 ≠ s.fld 5 1
        || leAt l 5 1 ≠ s.fld 4 1 || gen = 0 || 15 < gen then (some 0x27, d)
    else if !kraftOk (bytesToLens ((tbl.drop 64).take 128)) || !kraftOk (bytesToLens ((tbl.drop 192).take 128))
        || !bookRises (s.fld 5 1) tbl then (some 0x27, d.trwErr e 8 x.part slot src 0)
    else (none, d.setTables src x.part slot gen true tbl)

/-- What a TROWEL operation on a slot does: the cause when it is refused, and an address that was refused or poisoned. -/
def Dev.trwOpDo (d : Dev) (x : Inflight) : (Option Nat × Option Nat) × Dev :=
  let e := d.trwHubEngine x.part
  let src := trwSrc e
  let slot := x.opd 0 % 4096
  let sl := d.readSlot src x.part slot
  let s := sl.1
  let d := sl.2
  let wrap (r : Option Nat × Dev) : (Option Nat × Option Nat) × Dev := ((r.1, none), r.2)
  if x.op = 0 then wrap (d.sinit x e slot)
  else if x.op = 6 then ((none, none), d.slotOpen src x.part slot s.isOpen false (s.fld 0 4 / 4 * 4))
  else if !s.isOpen then ((some 0x27, none), d)
  else match x.op with
    | 1 => ((none, none), (d.slotClear src x.part slot x.epoch).slotOpen src x.part slot true true (s.fld 0 4 / 4 * 4 + 1))
    | 2 => wrap (d.tblLoad x e slot s)
    | 3 =>
      if !s.tbl then ((some 0x27, none), d)
      else
        let w := d.writeMem (x.acc src) (x.opd 1) (clean s.image)
        ((none, w.1), w.2)
    | _ =>
      let n := s.fld 0x64 4
      if 16 ≤ n then ((some 0x27, none), d)
      else ((none, none), (d.pokeSlot src x.part slot (0x80 + 4 * n) 4 (s.fld 0x60 4 + 1)).pokeSlot src x.part slot 0x64 4 (n + 1))

/-- Perform a TROWEL operation and end its work. -/
def Dev.trwOpEnd (d : Dev) (x : Inflight) : Dev :=
  let r := d.trwOpDo x
  match r.1 with
  | (some c, _) => r.2.finish x (aborted c (trwSrc (d.trwHubEngine x.part)))
  | (none, some a) => r.2.finish x { Result.fresh with status := .poisoned, addr := a }
  | (none, none) => r.2.finish x Result.fresh

/-- Begin a TROWEL operation on a slot: it waits while an engine holds blocks of the slot (R207). -/
def Dev.trwOp (d : Dev) (x : Inflight) : Dev :=
  if !d.trwOnFor x then d.finish x (aborted 0x27 (trwSrc (d.trwHubEngine x.part)))
  else if d.trwHoldsSlot x.part (x.opd 0 % 4096) then d.setCmd x.q x.i (fun y => { y with phase := .working })
  else d.trwOpEnd x

/-- A TROWEL command of operation `op` that has been dispatched. -/
def Dev.trwCmd (d : Dev) (c : CmdRef) (op : Nat) : Dev :=
  d.work c (fun x => x.cls = 7 && x.op = op && x.phase = .dispatched) (fun x d => d.trwOp x)

/-- SINIT (R206). -/
def execSinit (c : CmdRef) (s : State) := State.run (fun d => d.trwCmd c 0) s
/-- TROWEL OPEN (R206). -/
def execTrowelOpen (c : CmdRef) (s : State) := State.run (fun d => d.trwCmd c 1) s
/-- TROWEL LOAD (R202). -/
def execTrowelLoad (c : CmdRef) (s : State) := State.run (fun d => d.trwCmd c 2) s
/-- SAVE (R206). -/
def execSave (c : CmdRef) (s : State) := State.run (fun d => d.trwCmd c 3) s
/-- TROWEL KEY (R191). -/
def execTrowelKey (c : CmdRef) (s : State) := State.run (fun d => d.trwCmd c 4) s
/-- TROWEL FREE (R206). -/
def execTrowelFree (c : CmdRef) (s : State) := State.run (fun d => d.trwCmd c 6) s

/-- CONVERT (R206). -/
def execConvert (c : CmdRef) (s : State) :=
  State.run (fun d => d.work c (fun x => x.cls = 7 && x.op = 5 && x.phase = .dispatched) (fun x d =>
    if !d.trwOnFor x then d.finish x (aborted 0x27 (trwSrc (d.trwHubEngine x.part))) else d.moveBegin x (x.opd 1) (x.opd 2))) s

/-- TROWEL_OP_EFFECT (R207). -/
def execTrowelOpEffect (c : CmdRef) (s : State) :=
  State.run (fun d => d.work c (fun x => x.cls = 7 && x.op ≠ 5 && x.phase = .working) (fun x d =>
    if d.trwHoldsSlot x.part (x.opd 0 % 4096) then d else d.trwOpEnd x)) s

/-! ### The engines' queues (R185, R200, R203) -/

/-- A block of `j`'s requester was refused a write at `a`, or was written (none): a command of a DMA engine or a CONVERT ends
POISONED with the first such address in ADDR, DMA_ERR records it, and DMA_BYTES counts what was written (R250, R253); a core's
TSTORE reports it when it completes. -/
def Dev.codedFor (d : Dev) (j : TrwJob) (bad : Option Nat) : Dev :=
  match j.req, bad with
  | .cmd q i, some a =>
    let d := d.setCmd q i (fun x => if x.res.status = .done then { x with res := { x.res with status := .poisoned, addr := a } } else x)
    match d.queue.infl.find? (fun x => x.q = q && x.i = i && x.cls = 1) with
    | some x => d.dmaErr x.eng 1 a
    | none => d
  | .cmd q i, none =>
    match d.queue.infl.find? (fun x => x.q = q && x.i = i && x.cls = 1) with
    | some x => d.add64 (rDmaBytesLo x.eng) (min 256 (j.desc.count - 256 * j.blk) * j.desc.esize)
    | none => d
  | r, some a =>
    if d.trw.bad.any (·.1 = r) then d else { d with trw := { d.trw with bad := d.trw.bad ++ [(r, a)] } }
  | _, none => d

/-- Engine `e` codes a block for its requester. -/
def Dev.encodeJob (d : Dev) (e : Nat) (j : TrwJob) : Dev :=
  let r := d.encodeBlock e j
  r.2.codedFor j r.1

/-- S of R200. -/
def Dev.sampleSize (d : Dev) (p : Nat) (t : Desc) (bpf : Nat) : Nat :=
  let nb := t.nblocks
  let s := if nb ≤ 64 then nb else min (cdiv nb (2 ^ min 10 (d.rdFld (rTrwPctl p) 7 4))) 1024
  if t.delta then min s bpf else s

/-- Is any engine gathering or building tables for a slot? -/
def Dev.building (d : Dev) (p slot : Nat) : Bool :=
  d.trw.builds.any (fun b => match b.2 with
    | some b => b.part = p && b.slot = slot
    | none => false)

/-- The block at the front of the queue of engine `e` is coded, or joins the sample of a table build. -/
def Dev.blockEncode (d : Dev) (e : Nat) : Dev :=
  match d.trwQueue e with
  | [] => d
  | j :: t =>
    if !j.enc then d
    else
      let s := d.readSlot (trwSrc e) j.part j.slot
      if s.1.tbl || !j.build then ((s.2.setTrwQueue e t).encodeJob e j).trwStat e
      else match d.trwBuild e with
        | some b =>
          if b.part = j.part && b.slot = j.slot && !b.started && b.sample.length < d.sampleSize j.part j.desc s.1.bpf then
            (d.setTrwQueue e t).setTrwBuild e (some { b with sample := b.sample ++ [j] })
          else d
        | none =>
          if d.building j.part j.slot then d
          else (d.setTrwQueue e t).setTrwBuild e (some (⟨j.part, j.slot, [j], false⟩ : TrwBuild))

/-- The requester of decoded blocks goes on. -/
def Dev.trwDeliver (d : Dev) (r : TrwReq) : Dev :=
  match r with
  | .core c id =>
    if d.trwDecoding r then d
    else match (d.core c).ents.find? (fun e => e.id = id && e.started) with
      | some e => d.runXfer c e
      | none => d.trwDrop r
  | .cmd q i => d.moveGo q i
  | .stage _ => d

/-- The block at the front of the queue of engine `e` is decoded for its requester. -/
def Dev.blockDecode (d : Dev) (e : Nat) : Dev :=
  match d.trwQueue e with
  | [] => d
  | j :: t =>
    if j.enc then d
    else
      let r := (d.setTrwQueue e t).decodeBlock e j.part j.slot j.src j.desc j.blk
      let d := { r.2 with trw := { r.2.trw with out := r.2.trw.out ++ [(⟨j.req, j.part, j.slot, j.blk, r.1⟩ : TrwOut)] } }
      d.trwDeliver j.req

/-- A table build starts: when S sample blocks have arrived, or after the time without a further block (`full` false). -/
def Dev.buildStart (d : Dev) (e : Nat) (full : Bool) : Dev :=
  match d.trwBuild e with
  | none => d
  | some b => match b.sample with
    | [] => d
    | j :: _ =>
      let s := d.readSlot (trwSrc e) b.part b.slot
      if b.started || (full && decide (b.sample.length < d.sampleSize b.part j.desc s.1.bpf)) then d
      else (s.2.pokeSlot (trwSrc e) b.part b.slot 0 4 (s.1.fld 0 4 ||| 16)).setTrwBuild e (some { b with started := true })

/-- A table build ends: GEN advances, and the sample is coded. -/
def Dev.buildDone (d : Dev) (e : Nat) : Dev :=
  match d.trwBuild e with
  | none => d
  | some b => match b.started, b.sample with
    | true, j :: _ =>
      let s := d.readSlot (trwSrc e) b.part b.slot
      let d := s.2.setTables (trwSrc e) b.part b.slot (s.1.gen % 15 + 1) false (buildTables j.desc b.sample)
      (d.each b.sample (fun d j => d.encodeJob e j)).setTrwBuild e none
    | _, _ => d

/-- BLOCK_ENCODE (R185). -/
def execBlockEncode (e : Fin 10) (s : State) := State.run (fun d => d.blockEncode e.val) s
/-- BLOCK_DECODE (R203). -/
def execBlockDecode (e : Fin 10) (s : State) := State.run (fun d => d.blockDecode e.val) s
/-- TABLE_BUILD_START (R200). -/
def execTableBuildStart (e : Fin 10) (s : State) := State.run (fun d => d.buildStart e.val true) s
/-- TABLE_BUILD_TIMEOUT (R200). -/
def execTableBuildTimeout (e : Fin 10) (s : State) := State.run (fun d => d.buildStart e.val false) s
/-- TABLE_BUILD_DONE (R200). -/
def execTableBuildDone (e : Fin 10) (s : State) := State.run (fun d => d.buildDone e.val) s

/-! ### TRW_PCTL (R209) -/

/-- A write to TRW_PCTL: SAMPLE at once; a clear of EN waits for what is in flight; EN = 1 is refused when the slot area leaves the partition's HBM window or a clear is
pending (log 29). -/
def Dev.trwCtl (d : Dev) (p : Nat) (v : Word) : Dev :=
  let d := d.wrFld (rTrwPctl p) 7 4 (fld 7 4 v)
  let en := d.trwOn p
  if bitOf 0 v then
    if en then d
    else if !d.trw.closing.any (·.1 = p) && d.inHbmWin p (d.rd64 (rTrwSlotBaseLo p)) 0x800000 then d.wrFld (rTrwPctl p) 0 0 1
    else d.wr (rTrwPerr p) (setBit 0 true (d.rd (rTrwPerr p)))
  else if en then { (d.wrFld (rTrwPctl p) 0 0 0) with trw := { d.trw with closing := d.trw.closing ++ [(p, d.queue.nextOrd)] } }
  else d

/-- Does partition `p` have a compressed access in flight: a block with an engine, a move under way between compressed
operands, an issued TLOAD or TSTORE, a stripe being staged (R209)? -/
def Dev.trwInUse (d : Dev) (p : Nat) : Bool :=
  d.queue.infl.any (fun x => x.part = p && x.phase ≠ .ended && (x.cls = 7 || x.descs.any (·.cls ≠ 0)))
    || d.cores.any (fun c => d.partOfDie (c.1 / 192) = p && c.2.ents.any (fun e =>
        (e.op = .load || e.op = .store) && e.ops.any (·.cls ≠ 0)))
    || d.launches.any (fun k => k.2.part = p && k.2.staging.isSome && k.2.sdesc.any (·.cls ≠ 0))
    || d.trw.queues.any (fun e => e.2.any (·.part = p))
    || d.trw.builds.any (fun b => match b.2 with
      | some b => b.part = p
      | none => false)

/-- A clear of TRW_PCTL.EN ends: every slot of the partition becomes FREE. -/
def Dev.trwDisableEnd (d : Dev) (p : Nat) : Dev :=
  if !d.trw.closing.any (·.1 = p) || d.trwInUse p then d
  else
    let src := trwSrc (d.trwHubEngine p)
    let d := d.each (List.range 4096) (fun d k =>
      let r := d.readMem ⟨some p, src⟩ (d.slotAddr p k) 4
      let w := ofLe r.1.bytes
      if w % 4 = 0 then r.2 else r.2.pokeSlot src p k 0 4 (w / 4 * 4))
    { (d.wr (rTrwSlotsOpen p) 0) with trw := { d.trw with closing := d.trw.closing.filter (·.1 ≠ p) } }

/-- TRW_DISABLE_END (R209). -/
def execTrwDisableEnd (p : Fin 8) (s : State) := State.run (fun d => d.trwDisableEnd p.val) s

end Sys2Proof.Machine
end

