-- ==== Sys2Proof/Machine/Media.lean ====
section
/-! DEFINITION. The media commands (02): CODEC operations, WARP, SCAN, the sample cache with its ring and index (R64 to R66,
R208), and its control. -/

namespace Sys2Proof.Machine

/-! ### The sample cache (R64 to R66, R208) -/

/-- The sample cache's Trowel slot (R208). -/
def cacheSlot : Nat := 4095

/-- log2 of the set count. -/
def Dev.cacheSets (d : Dev) (p : Nat) : Nat := d.rdFld (rInpCacheCtl p) 5 1

/-- A key's set (R64). -/
def Dev.cacheSet (d : Dev) (p key : Nat) : Nat := (key ^^^ (key / 2 ^ 29)) % 2 ^ d.cacheSets p

/-- Ring size in bytes. -/
def Dev.ringBytes (d : Dev) (p : Nat) : Nat := (d.rd (rInpCacheSize p)).toNat * 2 ^ 21

/-- The index entry in memory changes; the spec gives no layout of it (log 38). -/
def Dev.cacheIndex (d : Dev) (p set way : Nat) : Dev :=
  let f := d.fresh
  (f.2.writeMem ⟨some p, trwSrc (d.trwHubEngine p)⟩ (d.rd64 (rInpCacheIdxLo p) + (set * 8 + way) * 32)
    (clean ((List.range 32).map (Config.mediaFill f.1)))).2

/-- Invalidate the entries that `q` picks; `count` adds them to INP_CACHE_EVICT. -/
def Dev.cacheDrop (d : Dev) (p : Nat) (count : Bool) (q : CacheEntry → Bool) : Dev :=
  let out := d.media.cache.filter (fun e => e.part = p && q e)
  let d := { d with media := { d.media with cache := d.media.cache.filter (fun e => !(e.part = p && q e)) } }
  let d := d.each out (fun d e => d.cacheIndex p e.set e.way)
  if count then d.addSat (rInpCacheEvict p) out.length else d

/-- The tensor descriptor of an entry at `addr`: BF16 elements in the cache's class, or bytes on the lossless path (R208). -/
def cacheDesc (cls addr : Nat) (bf16 : Bool) (n : Nat) : Desc :=
  { fmt := if bf16 then .bf16 else .int8, rank := 1, region := 0, cls := if bf16 then cls else 4, delta := false, eb := 0,
    rnd := 1, chdim := 0, sat := true, pad := 0, base := addr, tslot := cacheSlot, pmask := 0, size := [n, 1, 1, 1, 1, 1],
    stride := [1, 0, 0, 0, 0, 0], mask := [] }

/-- Blocks of bytes: 256 codes with their marks each, positions beyond the end 0. -/
def cacheBlocks (esize n : Nat) (bs : Marked) : List (List (Nat × Bool)) :=
  (List.range (cdiv n 256)).map (fun i => (List.range 256).map (fun k =>
    let l := (bs.drop ((256 * i + k) * esize)).take esize
    if 256 * i + k < n then (ofLe (l.map (·.1)), l.any (·.2)) else (0, false)))

/-- Run `f` with the slot's ALLOC and CAP those of an entry, and put the slot's own back; answers ALLOC after it. -/
def Dev.withAlloc {α : Type} (d : Dev) (p alloc cap : Nat) (f : Dev → α × Dev) : (α × Nat) × Dev :=
  let src := trwSrc (d.trwHubEngine p)
  let s := d.readSlot src p cacheSlot
  let r := f ((s.2.pokeSlot src p cacheSlot 0x20 8 alloc).pokeSlot src p cacheSlot 0x18 8 cap)
  let s2 := r.2.readSlot src p cacheSlot
  ((r.1, s2.1.fld 0x20 8),
    (s2.2.pokeSlot src p cacheSlot 0x20 8 (s.1.fld 0x20 8)).pokeSlot src p cacheSlot 0x18 8 (s.1.fld 0x18 8))

/-- Code an entry at `addr`; answers the bytes of its lossless area. While TBLSRC is BUILD, a slot without tables builds them
from the entry's first blocks (R200). -/
def Dev.cacheEncode (d : Dev) (x : Inflight) (addr : Nat) (bf16 : Bool) (bs : Marked) : Nat × Dev :=
  let p := x.part
  let e := d.trwHubEngine p
  let n := if bf16 then bs.length / 2 else bs.length
  let t := cacheDesc (d.rdFld (rInpCacheCtl p) 8 6) addr bf16 n
  let jobs := (cacheBlocks t.esize n bs).zipIdx.map (fun b => ({
    req := .cmd x.q x.i, src := trwSrc e, part := p, slot := cacheSlot, desc := t, blk := b.2, enc := true, vals := b.1,
    build := false } : TrwJob))
  let s := d.readSlot (trwSrc e) p cacheSlot
  let d := if bf16 && !s.1.tbl && !x.tblsrc then
      s.2.setTables (trwSrc e) p cacheSlot (s.1.gen % 15 + 1) false
        (buildTables t (jobs.take (s.2.sampleSize p t 0)))
    else s.2
  let r := d.withAlloc p 0 (t.footprint) (fun d => ((), d.each jobs (fun d j => (d.encodeBlock e j).2)))
  (r.1.2, r.2)

/-- Is slot 4,095 as R208 needs it? -/
def Dev.cacheSlotOk (d : Dev) (p : Nat) : Bool × Dev :=
  let s := d.readSlot (trwSrc (d.trwHubEngine p)) p cacheSlot
  (s.1.isOpen && s.1.fld 4 1 = 1 && s.1.fld 5 1 = d.rdFld (rInpCacheCtl p) 8 6 && !(s.1.fld 6 1).testBit 0, s.2)

/-- STORE of output bytes under a key: the entries whose ring space it takes go first; it replaces an older entry of its
key, else takes a free way, else the way of the set's oldest entry. An entry that does not fit before the ring's end starts at
its base; one larger than the ring is not kept (log 38). -/
def Dev.cacheStore (d : Dev) (x : Inflight) (bf16 : Bool) (bs : Marked) : Dev :=
  let p := x.part
  let key := x.opd 2
  let base := d.rd64 (rInpCacheBaseLo p)
  let pos := sget (fun _ => 0) d.media.ringPos p
  let n := if bf16 then bs.length / 2 else bs.length
  let t := cacheDesc (d.rdFld (rInpCacheCtl p) 8 6) 0 bf16 n
  let fixed := t.hdrBytes + t.lossyArea
  let need := fixed + (d.cacheEncode x (base + pos) bf16 bs).1
  if d.ringBytes p < need then d
  else
    let pos := if d.ringBytes p < pos + need then 0 else pos
    let a := base + pos
    let r := d.cacheEncode x a bf16 bs
    let size := fixed + r.1
    let set := d.cacheSet p key
    let d := r.2.cacheDrop p true (fun e => e.addr < a + size && a < e.addr + e.size)
    let same := d.media.cache.find? (fun e => e.part = p && e.key = key)
    let inSet := d.media.cache.filter (fun e => e.part = p && e.set = set)
    let d := match same with
      | some _ => d.cacheDrop p false (fun e => e.key = key)
      | none => if inSet.length < 8 then d
        else d.cacheDrop p true (fun e => e.set = set && inSet.all (fun f => e.age ≤ f.age))
    let used := (d.media.cache.filter (fun e => e.part = p && e.set = set)).map (·.way)
    let way := ((List.range 8).find? (fun w => !used.contains w)).getD 0
    let age := (d.media.cache.map (·.age)).foldl max 0 + 1
    let en : CacheEntry := {
      part := p, key := key, set := set, way := way, addr := a, size := size, alloc := r.1, age := age, bf16 := bf16,
      cls := d.rdFld (rInpCacheCtl p) 8 6, count := n }
    let d := { d with media := { d.media with
      cache := d.media.cache ++ [en],
      ringPos := sset (fun _ => 0) d.media.ringPos p (if d.ringBytes p ≤ pos + size then 0 else pos + size) } }
    d.cacheIndex p set way

/-- The bytes of an entry, decoded in the class that it was coded in (R208). -/
def Dev.cacheFetch (d : Dev) (p : Nat) (en : CacheEntry) : Marked × Dev :=
  let e := d.trwHubEngine p
  let t := cacheDesc en.cls en.addr en.bf16 en.count
  let r := d.withAlloc p en.alloc (t.footprint) (fun d =>
    (List.range t.nblocks).foldl (fun (r : Marked × Dev) i =>
      let b := r.2.decodeStored e p cacheSlot (trwSrc e) t i
      (r.1 ++ (b.1.take (t.count - 256 * i)).flatMap (fun v => (leBytes t.esize v.1).map (·, v.2)), b.2)) ([], d))
  (r.1.1, r.2)

/-- Is the cache of partition `p` enabled? -/
def Dev.cacheOn (d : Dev) (p : Nat) : Bool := bitOf 0 (d.rd (rInpCacheCtl p))

/-! ### WARP and SCAN (R59, R63, R65) -/

/-- The die on which a WARP or SCAN runs and the source number of its warp engine or range-scan unit there (log 37). -/
def Dev.pickUnit (d : Dev) (warp : Bool) : (Nat × Nat) × Dev :=
  let f := d.fresh
  let m := (Config.mediaDie f.1).toNat
  ((m, if warp then warpSrc m (Config.warpEngine f.1).val else scanSrc m), f.2)

/-- A descriptor that breaks its rules: INP_ERR.DESC and ABORTED. -/
def Dev.inpAbort (d : Dev) (x : Inflight) (m src : Nat) : Dev :=
  (d.inpErr m 0 src (x.opd 0)).finish x (aborted 3 src)

/-- The cache operation of a WARP or SCAN: 1 STORE, 2 LOAD, else NONE (log 38). -/
def Inflight.cacheOp (x : Inflight) : Nat := x.opd 1 % 4

/-- The output of a WARP or SCAN is written. The command ends, or with a STORE of clean output to an enabled cache it goes on
to it. -/
def Dev.inpDone (d : Dev) (x : Inflight) (m src : Nat) (bf16 : Bool) (out : Marked) (bad : Option Nat) (poison : Bool) : Dev :=
  let d := if poison then d.inpErr m 1 src (x.opd 0) else d
  let r : Result := { Result.fresh with
    status := if bad.isSome || poison then .poisoned else .done, addr := bad.getD 0 }
  if x.cacheOp = 1 && d.cacheOn x.part && r.status = .done then
    let d := d.setCmd x.q x.i (fun y => { y with phase := .working, res := r })
    { d with media := { d.media with stores := d.media.stores ++ [(x.q, x.i, bf16, out.map (·.1))] } }
  else d.finish x r

/-- WARP, its cache operation NONE or STORE. -/
def Dev.warp (d : Dev) (x : Inflight) : Dev :=
  let k := d.pickUnit true
  let m := k.1.1
  let src := k.1.2
  let acc := x.acc src
  match k.2.warpDesc acc (x.opd 0) with
  | (none, d) => d.inpAbort x m src
  | (some (t, p), d) =>
    let r := d.warpRun m acc t p
    r.2.inpDone x m src (t.ofmt = .bf16) r.1.1 r.1.2.1 r.1.2.2

/-- SCAN, its cache operation NONE or STORE. -/
def Dev.scan (d : Dev) (x : Inflight) : Dev :=
  let k := d.pickUnit false
  let m := k.1.1
  let src := k.1.2
  let acc := x.acc src
  match k.2.scanDesc acc (x.opd 0) with
  | (none, d) => d.inpAbort x m src
  | (some p, d) =>
    let r := d.scanRun m acc p
    r.2.inpDone x m src false r.1.1 r.1.2.1 r.1.2.2

/-- CACHE_STORE: the output is coded into the ring, or the command ends ABORTED where slot 4,095 is not as R208 needs it. -/
def Dev.cacheStoreCmd (d : Dev) (x : Inflight) : Dev :=
  let mine (e : Nat × Word × Bool × List Byte) : Bool := e.1 = x.q && e.2.1 = x.i
  match d.media.stores.find? mine with
  | none => d
  | some (_, _, bf16, out) =>
    let d := { d with media := { d.media with stores := d.media.stores.filter (fun e => !mine e) } }
    let ok := d.cacheSlotOk x.part
    if !d.cacheOn x.part then d.finish x x.res
    else if !ok.1 then ok.2.finish x (aborted 0x27 (trwSrc (d.trwHubEngine x.part)))
    else (ok.2.cacheStore x bf16 (clean out)).finish x x.res

/-- The parts of memory that the output of a WARP or SCAN fills, those of a scan by the length of its bytes. -/
def Dev.outParts (d : Dev) (x : Inflight) (src total : Nat) : Option (List (Nat × Nat)) × Dev :=
  let acc := x.acc src
  if x.cls = 4 then
    let r := d.warpDesc acc (x.opd 0)
    (r.1.map (fun t => t.1.rows), r.2)
  else
    let r := d.scanDesc acc (x.opd 0)
    (r.1.map (fun p => p.parts total), r.2)

/-- CACHE_LOAD: the entry's bytes go to the destination; without an entry, or with the cache off, NOT_STARTED. -/
def Dev.cacheLoadCmd (d : Dev) (x : Inflight) : Dev :=
  let p := x.part
  let src := trwSrc (d.trwHubEngine p)
  let no (d : Dev) : Dev := d.finish x { Result.fresh with status := .notStarted }
  let en := d.media.cache.find? (fun e => e.part = p && e.key = x.opd 2)
  let total := match en with
    | some e => if e.bf16 then 2 * e.count else e.count
    | none => 0
  let k := d.pickUnit (x.cls = 4)
  match k.2.outParts x src total with
  | (none, d) => d.inpAbort x k.1.1 k.1.2
  | (some parts, d) =>
    if !d.cacheOn p then no d
    else match en with
      | none => no (d.addSat (rInpCacheMisses p) 1)
      | some en =>
        let r := (d.addSat (rInpCacheHits p) 1).cacheFetch p en
        let w := r.2.writeParts (x.acc src) parts r.1
        let bad := first w.1 ((r.1.findIdx? (·.2)).map (fun _ => 0))
        w.2.finish x { Result.fresh with
          status := if bad.isSome then .poisoned else .done, addr := bad.getD 0 }

/-! ### INP_CACHE_CTL (R66, R210) -/

/-- Does a ring meet the T2 pool of any partition? -/
def Dev.meetsPool (d : Dev) (a n : Nat) : Bool :=
  (List.range 8).any (fun p =>
    let b := d.rd64 (rSmpT2poolLo p)
    let m := (d.rd (rSmpT2poolSize p)).toNat * 4096
    m ≠ 0 && a < b + m && b < a + n)

/-- Are ring and index within the partition's windows, SETS in its range, and the ring clear of every T2 pool? -/
def Dev.cacheCfgOk (d : Dev) (p sets : Nat) : Bool :=
  let base := d.rd64 (rInpCacheBaseLo p)
  let n := d.ringBytes p
  4 ≤ sets && sets ≤ 20 && n ≠ 0 && isSump base && isSump (base + n - 1) && d.inWindow p base && d.inWindow p (base + n - 1)
    && d.inHbmWin p (d.rd64 (rInpCacheIdxLo p)) (2 ^ sets * 256) && !d.meetsPool base n

/-- A write to INP_CACHE_CTL: SETS only while EN = 0, CLASS at once, EN as R66 states. The refusal is flagged on both media
dies' pages, since the cache belongs to neither (log 38). -/
def Dev.cacheCtl (d : Dev) (p : Nat) (v : Word) : Dev :=
  let r := rInpCacheCtl p
  let en := d.cacheOn p
  let d := d.wrFld r 8 6 (fld 8 6 v)
  let d := if en then d else d.wrFld r 5 1 (fld 5 1 v)
  if bitOf 0 v then
    if en then d
    else if d.cacheCfgOk p (d.cacheSets p) && !d.media.cacheClosing.contains p then d.wrFld r 0 0 1
    else (d.inpErr 0 2 (ctxSrc 0) 0).inpErr 1 2 (ctxSrc 1) 0
  else if en then { (d.wrFld r 0 0 0) with media := { d.media with cacheClosing := insNat p d.media.cacheClosing } }
  else d

/-- A clear of EN ends when no cache operation is in flight: every entry is invalid. -/
def Dev.cacheInvalidate (d : Dev) (p : Nat) : Dev :=
  let busy := d.queue.infl.any (fun x => x.part = p && (x.cls = 4 || x.cls = 5) && x.cacheOp = 1 && x.phase = .working)
  if !d.media.cacheClosing.contains p || busy then d
  else
    let d := d.cacheDrop p false (fun _ => true)
    { d with media := { d.media with
        cacheClosing := delNat p d.media.cacheClosing, ringPos := sset (fun _ => 0) d.media.ringPos p 0 } }

/-! ### Rows -/

/-- INIT (R41). -/
def execInit (c : CmdRef) (s : State) := State.run (fun d => d.codecCmd c 0 (fun k x d => d.codecInit k x)) s
/-- DECODE (R41). -/
def execDecode (c : CmdRef) (s : State) := State.run (fun d => d.codecCmd c 1 (fun k x d => d.codecDecode k x)) s
/-- ENCODE (R41). -/
def execEncode (c : CmdRef) (s : State) := State.run (fun d => d.codecCmd c 2 (fun k x d => d.codecEncode k x)) s
/-- FLUSH (R41). -/
def execFlush (c : CmdRef) (s : State) := State.run (fun d => d.codecCmd c 3 (fun k x d => d.codecFlush k x)) s
/-- CLOSE (R41). -/
def execClose (c : CmdRef) (s : State) := State.run (fun d => d.codecCmd c 4 (fun k x d => d.codecClose k x)) s
/-- ENTROPY_PARSE_FRAME (R44). -/
def execEntropyParseFrame (m : Fin 2) (engine : Fin 4) (ctx : Fin 1024) (s : State) :=
  State.run (fun d => (d.entropyParse m.val engine.val ctx.val).codecNext (1024 * m.val + ctx.val)) s
/-- PIXEL_FRAME_END (R45). -/
def execPixelFrameEnd (m : Fin 2) (engine : Fin 4) (s : State) := State.run (fun d => d.pixelEnd m.val engine.val) s
/-- WARP (R56). -/
def execWarp (c : CmdRef) (s : State) :=
  State.run (fun d => d.work c (fun x => x.cls = 4 && x.phase = .dispatched && x.cacheOp ≠ 2) (fun x d => d.warp x)) s
/-- SCAN (R63). -/
def execScan (c : CmdRef) (s : State) :=
  State.run (fun d => d.work c (fun x => x.cls = 5 && x.phase = .dispatched && x.cacheOp ≠ 2) (fun x d => d.scan x)) s
/-- CACHE_STORE (R65). -/
def execCacheStore (c : CmdRef) (s : State) :=
  State.run (fun d => d.work c (fun x => (x.cls = 4 || x.cls = 5) && x.phase = .working && x.cacheOp = 1)
    (fun x d => d.cacheStoreCmd x)) s
/-- CACHE_LOAD (R65). -/
def execCacheLoad (c : CmdRef) (s : State) :=
  State.run (fun d => d.work c (fun x => (x.cls = 4 || x.cls = 5) && x.phase = .dispatched && x.cacheOp = 2)
    (fun x d => d.cacheLoadCmd x)) s
/-- INP_CACHE_INVALIDATE (R66). -/
def execInpCacheInvalidate (part : Fin 8) (s : State) := State.run (fun d => d.cacheInvalidate part.val) s
/-- MEDIA_DIE_FAULT (R307). -/
def execMediaDieFault (m : Fin 2) (s : State) := State.run (fun d => d.mediaFault m.val) s

end Sys2Proof.Machine
end

