-- ==== Sys2Proof/Machine/Tier.lean ====
section
/-! DEFINITION. TIER commands (R222 to R225), moves of pages (R215), quotas (R226, R227) and stalls (R221). -/

namespace Sys2Proof.Machine

/-! ### Windows and runs -/

/-- Does aperture page `n` lie in the managed window of partition `p`? -/
def Dev.pageIn (d : Dev) (p n : Nat) : Bool :=
  n < 2097152 && d.inWindow p (0x80000000000 + n * 0x200000)

/-- Do pages [a, a + n) lie in the partition's managed window? -/
def Dev.pagesIn (d : Dev) (p a n : Nat) : Bool := n ≠ 0 && d.pageIn p a && d.pageIn p (a + n - 1)

/-- Does a page of [a, a + n) stand allocated? -/
def Dev.runMeets (d : Dev) (a n : Nat) : Bool :=
  d.tier.pages.any (fun e => e.2.state ≠ .free && a ≤ e.1 && e.1 < a + n)

/-- The lowest free run of `n` pages of the partition's managed window. -/
def Dev.freeRun (d : Dev) (p n : Nat) : Option Nat :=
  let base := fld 15 0 (d.rd (rTopPMgdwin p)) * 512
  let starts := base :: (d.tier.pages.filter (fun e => e.2.state ≠ .free)).map (·.1 + 1)
  (starts.filter (fun a => d.pagesIn p a n && !d.runMeets a n)).min?

/-- Generation of a T0 unit. -/
def Dev.t0Gen (d : Dev) (u : Nat) : Word := sget (fun _ => 0) d.tier.t0gen u

/-! ### Handles (Table 9-6) -/

/-- A handle. -/
structure Handle where
  first : Nat
  count : Nat
  t0 : Bool
  queue : Nat
  part : Nat
  gen : Word
  deriving DecidableEq, Repr

/-- The handle that two words spell. -/
def Handle.ofWords (a b : Nat) : Handle :=
  ⟨nfld 20 0 a, nfld 41 21 a, a.testBit 42, nfld 15 0 b, nfld 19 16 b, BitVec.ofNat 32 (b / 2 ^ 32)⟩

/-- The bytes of a handle. -/
def Handle.bytes (h : Handle) : List Byte :=
  leBytes 8 (h.first + 2 ^ 21 * h.count + (if h.t0 then 2 ^ 42 else 0))
    ++ leBytes 8 (h.queue + 2 ^ 16 * h.part + 2 ^ 32 * h.gen.toNat)

/-- The live allocation that a handle names: its queue and partition. -/
def Dev.handleHeld (d : Dev) (h : Handle) : Option (Nat × Nat) :=
  if h.t0 then
    (d.tier.t0.find? (fun t => t.first = h.first && t.count = h.count && t.gen = h.gen)).map (fun t => (t.queue, t.part))
  else
    let r := d.page h.first
    match r.head with
    | some a => if a.count = h.count && r.gen = h.gen then some (a.queue, a.part) else none
    | none => none

/-- The address that a handle's first page or unit has. -/
def Handle.addr (h : Handle) : Nat := if h.t0 then 0x200000000000 + h.first * 65536 else 0x80000000000 + h.first * 0x200000

/-! ### Results (Table 9-7) -/

/-- End a TIER command with result code `code`. -/
def Dev.tierEnd (d : Dev) (x : Inflight) (code : Nat) (st : Status) (progress : Nat) : Dev :=
  (d.finish x { Result.fresh with
    status := st, cause := if st = .aborted then 0x27 else 0, result := code, progress := progress,
    src := if code = 0 || code = 7 then 0xFFFF else srcNo (16 + x.q % 2) 0x010 }).tierCount x.part

/-- Refuse an ALLOC or a QUERY with result code `code`; NO_SPACE has an SMP_ERR bit and a record. -/
def Dev.tierNo (d : Dev) (x : Inflight) (code a arg : Nat) : Dev :=
  let d := if code = 3 then d.smpErr 2 (qmSrc x.q) 0 code a arg else d
  d.tierEnd x code .aborted 0

/-- Refuse an operation that names a handle with result code `code` (R224): the matching SMP_ERR bit, of which RANGE has none,
and a record with the handle in its first four snapshot words. -/
def Dev.handleNo (d : Dev) (x : Inflight) (code a : Nat) : Dev :=
  let words : List Word := [x.opd 0 % 2 ^ 32, x.opd 0 / 2 ^ 32, x.opd 1 % 2 ^ 32, x.opd 1 / 2 ^ 32].map (BitVec.ofNat 32)
  let d := if code ≤ 2 then d.smpRaise (code - 1) (qmSrc x.q) 0 code a else d
  (d.flwWith words 2 (if code ≤ 2 then code - 1 else 6) (qmSrc x.q) (x.opd 0)).tierEnd x code
    (if code = 1 then .done else .aborted) 0

/-! ### ALLOC (R222, R226) -/

/-- Write a handle and end the command. -/
def Dev.tierHandle (d : Dev) (x : Inflight) (h : Handle) : Dev :=
  let w := d.writeMem (x.acc (srcNo (16 + x.q % 2) 0x010)) (x.opd 2) (clean h.bytes)
  match w.1 with
  | none => w.2.tierEnd x 0 .done 0
  | some a => w.2.finish x { Result.fresh with status := .poisoned, addr := a } |>.tierCount x.part

/-- ALLOC of T0 units. -/
def Dev.allocT0 (d : Dev) (x : Inflight) (n : Nat) : Dev :=
  let a := x.opd 1
  let u := (a - 0x200000000000) / 65536
  let p := x.part
  if (d.rd (rSmpQt0 p)).toNat < d.use0 p + n then d.tierNo x 3 a 0
  else if n = 0 || 2097151 < n || a % 65536 ≠ 0 || !d.inHbmOrGallery p a (n * 65536) || !isGallery a then d.tierNo x 4 a 0
  else if d.tier.t0.any (fun t => meets t.first t.count u n) then d.tierNo x 5 a 0
  else
    let t : T0Alloc := ⟨u, n, x.q, p, d.t0Gen u⟩
    ({ d with tier := { d.tier with t0 := d.tier.t0 ++ [t] } }).tierHandle x ⟨u, n, true, x.q, p, d.t0Gen u⟩

/-- ALLOC of managed pages. -/
def Dev.allocPages (d : Dev) (x : Inflight) (n : Nat) (pcode : Bool) : Dev :=
  let p := x.part
  let want := x.opd 1
  let fixed := want ≠ 0xFFFFFFFF
  let a := 0x80000000000 + want * 0x200000
  if (d.rd (rSmpQt1 p)).toNat + (d.rd (rSmpQt2 p)).toNat < (d.pagesOf p).length + n then d.tierNo x 3 a 0
  else if n = 0 || 2097151 < n || (fixed && !d.pagesIn p want n) then d.tierNo x 4 a 0
  else if fixed && d.runMeets want n then d.tierNo x 5 a 0
  else match (if fixed then some want else d.freeRun p n) with
    | none => d.tierNo x 6 a 0
    | some f =>
      let d := d.each (rangeFrom f n) (fun d k =>
        d.setPage k { PageRec.blank with
          state := .zero, gen := (d.page k).gen, part := p, pcode := pcode,
          head := if k = f then some ⟨n, x.q, p⟩ else none })
      d.tierHandle x ⟨f, n, false, x.q, p, (d.page f).gen⟩

/-! ### Operations on a handle -/

/-- FREE of a page. -/
def Dev.freePage (d : Dev) (n : Nat) : Dev := d.setPage n { PageRec.blank with gen := (d.page n).gen + 1 }

/-- DISCARD of a page: it becomes ZERO; a pin stays. -/
def Dev.discardPage (d : Dev) (n : Nat) : Dev :=
  d.setPage n { d.page n with state := .zero, dirty := 0, frame := 0, ext := 0, sectors := 0 }

/-- FREE of a handle. -/
def Dev.tierFree (d : Dev) (x : Inflight) (h : Handle) : Dev :=
  if h.t0 then
    let d := { d with tier := { d.tier with
      t0 := d.tier.t0.filter (fun t => !(t.first = h.first && t.count = h.count)),
      t0gen := (rangeFrom h.first h.count).foldl (fun m u => sset (fun _ => 0) m u (d.t0Gen u + 1)) d.tier.t0gen } }
    d.tierEnd x 0 .done 0
  else (d.each (rangeFrom h.first h.count) Dev.freePage).tierEnd x 0 .done 0

/-- Source number of the Tier manager that serves a command's queue. -/
def smpSrc (q : Nat) : Nat := srcNo (16 + q % 2) 0x010

/-- A TIER command waits for a frame of page `n` with `k` pages done (R221); once its stall limit has passed it ends POISONED. -/
def Dev.tierWait (d : Dev) (x : Inflight) (n k : Nat) : Dev :=
  let src := smpSrc x.q
  if d.stalledOut src n then
    (((d.endWait src n).finish x { Result.fresh with
      status := .poisoned, progress := k, addr := 0x80000000000 + n * 0x200000 })).tierCount x.part
  else ((d.setCmd x.q x.i (fun y => { y with phase := .working, res := { y.res with progress := k } })).waitFrame src n).tierCount
    x.part

/-- PIN the pages `l`, `k` of the handle's pages being pinned: a page that finds no frame leaves the command waiting. -/
def Dev.tierPin (d : Dev) (x : Inflight) : List Nat → Nat → Dev
  | [], k => d.tierEnd x 0 .done k
  | n :: t, k =>
    let r := d.page n
    if r.pin then d.tierPin x t (k + 1)
    else if (d.rd (rSmpQt1 x.part)).toNat < d.pinned x.part + 1 then d.tierEnd x 7 .partial_ k
    else match d.promotePage n with
      | (ok, e) =>
        if r.state = .t2 && !ok then e.tierWait x n k
        else ((e.endWait (smpSrc x.q) n).setPage n { e.page n with pin := true }).tierPin x t (k + 1)

/-- PREFETCH of the pages `all`, of which `l` are still to be promoted: a page that finds no frame leaves the command waiting,
and so does a page that a later promotion has evicted (log 32). -/
def Dev.tierPrefetch (d : Dev) (x : Inflight) (all : List Nat) : List Nat → Dev
  | [] =>
    if all.any (fun n => (d.page n).state = .t2) then
      (d.setCmd x.q x.i (fun y => { y with phase := .working })).tierCount x.part
    else d.tierEnd x 0 .done 0
  | n :: t =>
    if (d.page n).state ≠ .t2 then d.tierPrefetch x all t
    else match d.promotePage n with
      | (true, d) => (d.endWait (smpSrc x.q) n).tierPrefetch x all t
      | (false, d) => d.tierWait x n 0

/-- DEMOTE of the pages `l`: a page that cannot be demoted stays (log 32). -/
def Dev.tierDemote (d : Dev) (x : Inflight) (l : List Nat) : Dev :=
  (d.each l (fun d n => (d.demotePage n).getD d)).tierEnd x 0 .done 0

/-- CLEAN of the pages `l`: a page for which no extent is to be had stays (log 32). -/
def Dev.tierClean (d : Dev) (x : Inflight) (l : List Nat) : Dev :=
  (d.each l (fun d n =>
    let r := d.page n
    if r.hasFrame && r.dirty ≠ 0 then (d.writeBackPage n).getD d else d)).tierEnd x 0 .done 0

/-- DISCARD of the pages `l`. -/
def Dev.tierDiscard (d : Dev) (x : Inflight) (l : List Nat) : Dev := (d.each l Dev.discardPage).tierEnd x 0 .done 0

/-- Check a handle (R224) and go on with its pages; `ranged` operations carry a first aperture page and a count (log 32). -/
def Dev.tierHandled (d : Dev) (x : Inflight) (ranged : Bool) (f : Handle → List Nat → Dev → Dev) : Dev :=
  let h := Handle.ofWords (x.opd 0) (x.opd 1)
  match d.handleHeld h with
  | none => d.handleNo x 1 h.addr
  | some (q, p) =>
    if q ≠ x.q || p ≠ x.part || h.queue ≠ x.q || h.part ≠ x.part then d.handleNo x 2 h.addr
    else if h.t0 && x.op ≠ 1 then d.tierEnd x 0 .done 0
    else
      let a := x.opd 2 % 2 ^ 32
      let n := x.opd 2 / 2 ^ 32
      if ranged && (n = 0 || a < h.first || h.first + h.count < a + n) then d.handleNo x 4 h.addr
      else f h (if ranged then rangeFrom a n else rangeFrom h.first h.count) d

/-! ### QUERY (Table 9-8) -/

/-- Code of Table 9-2. -/
def PageState.code : PageState → Nat
  | .free => 0 | .zero => 1 | .t1 => 2 | .t2 => 3 | .both => 4

/-- Does a page's frame or stream hold poison? -/
def Dev.pagePoison (d : Dev) (n : Nat) : Bool :=
  let r := d.page n
  (r.hasFrame && d.mem.poison.any (fun g => r.frame / 64 ≤ g && g < (r.frame + 0x200000) / 64))
    || (r.hasExt && (d.mem.poison.any (fun g => r.ext / 64 ≤ g && g < (r.ext + r.sectors * 4096) / 64)
      || (List.range 32).any (fun c => ofLe (d.mem.bytes (r.ext + 16 * c + 2) 2) ≠ 0)))

/-- The QUERY entry of a page. -/
def Dev.queryEntry (d : Dev) (n : Nat) : List Byte :=
  let r := d.page n
  leBytes 8 (r.state.code + 8 * r.pin.toNat + 32 * (d.pagePoison n).toNat
    + 2 ^ 16 * (if r.hasExt then r.sectors else 0) + 2 ^ 32 * r.dirty.toNat)

/-- QUERY. -/
def Dev.tierQuery (d : Dev) (x : Inflight) : Dev :=
  let a := x.opd 2 % 2 ^ 32
  let n := x.opd 2 / 2 ^ 32
  if !d.pagesIn x.part a n then d.tierNo x 4 0 0
  else
    let w := d.writeMem (x.acc (srcNo (16 + x.q % 2) 0x010)) (x.opd 3) (clean ((rangeFrom a n).flatMap d.queryEntry))
    match w.1 with
    | none => w.2.tierEnd x 0 .done 0
    | some e => w.2.finish x { Result.fresh with status := .poisoned, addr := e } |>.tierCount x.part

/-- A TIER command of operation `op`. -/
def Dev.tierCmd (d : Dev) (c : CmdRef) (op : Nat) (f : Inflight → Dev → Dev) : Dev :=
  d.work c (fun x => x.cls = 6 && x.op = op) f

/-- ALLOC (R222). -/
def execAlloc (c : CmdRef) (s : State) :=
  State.run (fun d => d.tierCmd c 0 (fun x d =>
    let n := x.opd 0 / 2 ^ 32
    if (x.opd 0).testBit 0 then d.allocT0 x n else d.allocPages x n ((x.opd 0).testBit 1))) s
/-- TIER FREE (R222). -/
def execTierFree (c : CmdRef) (s : State) :=
  State.run (fun d => d.tierCmd c 1 (fun x d => d.tierHandled x false (fun h _ d => d.tierFree x h))) s
/-- PIN (R222). -/
def execPin (c : CmdRef) (s : State) :=
  State.run (fun d => d.tierCmd c 2 (fun x d => d.tierHandled x false (fun _ l d => d.tierPin x l 0))) s
/-- UNPIN (R222). -/
def execUnpin (c : CmdRef) (s : State) :=
  State.run (fun d => d.tierCmd c 3 (fun x d => d.tierHandled x false (fun _ l d =>
    (d.each l (fun d n => d.setPage n { d.page n with pin := false })).tierEnd x 0 .done 0))) s
/-- PREFETCH (R222). -/
def execPrefetch (c : CmdRef) (s : State) :=
  State.run (fun d => d.tierCmd c 4 (fun x d => d.tierHandled x true (fun _ l d => d.tierPrefetch x l l))) s
/-- DEMOTE (R222). -/
def execDemote (c : CmdRef) (s : State) :=
  State.run (fun d => d.tierCmd c 5 (fun x d => d.tierHandled x true (fun _ l d => d.tierDemote x l))) s
/-- CLEAN (R222). -/
def execClean (c : CmdRef) (s : State) :=
  State.run (fun d => d.tierCmd c 6 (fun x d => d.tierHandled x true (fun _ l d => d.tierClean x l))) s
/-- DISCARD (R222). -/
def execDiscard (c : CmdRef) (s : State) :=
  State.run (fun d => d.tierCmd c 7 (fun x d => d.tierHandled x true (fun _ l d => d.tierDiscard x l))) s
/-- QUERY (R222). -/
def execQuery (c : CmdRef) (s : State) := State.run (fun d => d.tierCmd c 8 (fun x d => d.tierQuery x)) s

/-! ### Moves (R215) -/

/-- PROMOTION (R215): only a page in T2 that finds a frame is promoted. -/
def execPromotion (pg : Fin 2097152) (s : State) :=
  State.run (fun d => if (d.page pg.val).state = .t2 then (d.promotePage pg.val).2 else d) s

/-- WRITE_BACK (R215). -/
def execWriteBack (pg : Fin 2097152) (s : State) :=
  State.run (fun d => if (d.page pg.val).dirty ≠ 0 then (match d.writeBackPage pg.val with
    | some e => e.tierCount (d.page pg.val).part
    | none => d) else d) s

/-- DROP (R215). -/
def execDrop (pg : Fin 2097152) (s : State) :=
  State.run (fun d => (d.dropPage pg.val).tierCount (d.page pg.val).part) s

/-- COMPACTION (R215): the extent moves to the lowest free run below it. -/
def execCompaction (pg : Fin 2097152) (s : State) :=
  State.run (fun d =>
    let r := d.page pg.val
    match d.findRun r.part r.sectors with
    | some a => if r.hasExt && a < r.ext then d.moveExtent pg.val a else d
    | none => d) s

/-! ### Stalls and quotas (R221, R227) -/

/-- TIER_STALL_TIMEOUT: an access of partition `p` that has waited for a frame for SMP_STALL_LIMIT microseconds, and finds none
now, is refused; the TIER command that waits for it ends POISONED with the pages it has done. Any other access is refused when
the command that makes it is tried again (log 24). -/
def Dev.tierStall (d : Dev) (p src a : Nat) (cmd : Option CmdRef) : Dev :=
  let n := (a - 0x80000000000) / 0x200000
  match d.tier.waits.find? (fun w => w.src = src && w.page = n && !w.refused) with
  | none => d
  | some w =>
    if !(isManaged a && (d.page n).part = p) || d.now < w.since + (d.rd rSmpStallLimit).toNat * 1000
        || (d.takeFrame p).1.isSome then d
    else
      let d := (d.smpErr 4 src 0 0 a a).refuse p src a
      match cmd with
      | none => { d with tier := { d.tier with
          waits := mapIf (fun w => w.src = src && w.page = n) (fun w => { w with refused := true }) d.tier.waits } }
      | some c => d.work c (fun x => x.cls = 6 && x.part = p && x.phase = .working) (fun x d =>
          (d.endWait src n).finish x { Result.fresh with status := .poisoned, progress := x.res.progress, addr := a })

/-- TIER_STALL_TIMEOUT (R221). -/
def execTierStallTimeout (p : Fin 8) (src : BitVec 16) (addr : BitVec 48) (cmd : Option CmdRef) (s : State) :=
  State.run (fun d => d.tierStall p.val src.toNat addr.toNat cmd) s

/-- Demote least recently used pages, clean ones first, until T1 use is at or below QT1; `fuel` bounds the demotions. -/
def Dev.demoteTo (d : Dev) (p : Nat) : Nat → Dev
  | 0 => d
  | fuel + 1 =>
    if d.use1 p ≤ (d.rd (rSmpQt1 p)).toNat then d
    else match d.evict p with
      | some d => d.demoteTo p fuel
      | none => d

/-- Register of quota `k` of partition `p`. -/
def rQuota (p k : Nat) : Nat := if k = 0 then rSmpQt0 p else if k = 1 then rSmpQt1 p else rSmpQt2 p

/-- A write to a quota register (R227): demotion runs to its end, so that DEMOTING has cleared again. -/
def Dev.quotaWrite (d : Dev) (p k : Nat) (v : Word) : Dev :=
  let d := d.wr (rQuota p k) v
  let d := if k = 1 then d.demoteTo p (d.use1 p) else d
  let beyond := if k = 0 then decide (v.toNat < d.use0 p) else if k = 1 then decide (v.toNat < d.use1 p)
    else decide (v.toNat * 513 < d.use2 p)
  (d.wr (rSmpPStatus p) (setBit k beyond (d.rd (rSmpPStatus p)))).tierCount p

end Sys2Proof.Machine
end

