-- ==== Sys2Proof/Machine/Ecc.lean ====
section
/-! DEFINITION. Gallery retention (R161), patrol and range scrubs (R172 to R174), correctable-error windows (R175) and error
injection (R176). -/

namespace Sys2Proof.Machine

/-- Number of an error page: a Gallery die, or 8 + an HBM stack. -/
def pageNo : EccPage → Nat
  | .gal n => n.val
  | .hbm s => 8 + s.val

/-- Place a Gallery bank into retention, when its rail allows the gating step (R324); a retained bank keeps its contents and
wakes on access. -/
def Dev.retain (d : Dev) (die col bank : Nat) : Dev :=
  let b := (die * 192 + col) * 8 + bank
  if d.mem.retained.contains b then d
  else match d.gateStep (8 + die) 1 with
    | some d => { d with mem := { d.mem with retained := insNat b d.mem.retained } }
    | none => d

/-- GALLERY_BANK_RETAIN (R161). -/
def execGalleryBankRetain (n : Fin 8) (col : Fin 192) (bank : Fin 8) (s : State) :=
  State.run (fun d => d.retain n.val col.val bank.val) s

/-! ### The patrol (R172) -/

/-- Number of a scrubber. -/
def scrubNo : Scrubber → Nat
  | .gal n => n.val
  | .hbm c => 8 + c.val

/-- Source number of scrubber `k`. -/
def scrubSrc (k : Nat) : Nat := if k < 8 then srcNo (8 + k) 0x0C0 else srcNo ((k - 8) / 3) (0x208 + (k - 8) % 3)

/-- Error page of scrubber `k`. -/
def scrubPage (k : Nat) : Nat := if k < 8 then k else 8 + (ctrlStack (k - 8)).1

/-- Granules that scrubber `k` covers. -/
def scrubSpan (k : Nat) : Nat := if k < 8 then 0x48000000 / 64 else 2 ^ 24 * 32

/-- The device address of position `n` of scrubber `k`: for HBM, one offset of the 32 pseudo-channels after another. -/
def scrubAddr (k n : Nat) : Nat :=
  if k < 8 then 0x200000000000 + k * 0x48000000 + n * 64
  else
    let st := ctrlStack (k - 8)
    hbmAddr (st.1 * 64 + (if st.2 then 32 else 0) + n % 32) (n / 32 * 64)

/-- Position of scrubber `k`. -/
def Dev.scrubAt (d : Dev) (k : Nat) : Nat := sget (fun _ => 0) d.mem.scrubPos k

/-- SCRUB_POS of a stack's page follows its scrubbers: the lower of the two controllers' offsets (log 33). A Gallery page's is
read from the scrubber (`Dev.peek`). -/
def Dev.scrubReg (d : Dev) (k : Nat) : Dev :=
  if k < 8 then d
  else
    let s := (ctrlStack (k - 8)).1
    let c := stackCtrls s
    d.wr64 (pgReg (8 + s) 0x58) (min (d.scrubAt (8 + c.1) / 32 * 64) (d.scrubAt (8 + c.2) / 32 * 64))

/-- Does scrubber `k` run? -/
def Dev.scrubOn (d : Dev) (k : Nat) : Bool :=
  bitOf 0 (d.rd (pgReg (scrubPage k) 0x50)) && (if k < 8 then !d.fenced k else !d.mem.ctrlFenced.contains (k - 8))

/-- The patrol reads the next granule and acts on its outcome. -/
def Dev.patrol (d : Dev) (k : Nat) : Dev :=
  if !d.scrubOn k then d
  else
    let n := d.scrubAt k
    let d := ((d.wakeBank (scrubAddr k n)).readGran (scrubSrc k) true (scrubAddr k n)).2
    ({ d with mem := { d.mem with
        scrubPos := sset (fun _ => 0) d.mem.scrubPos k ((n + 1) % scrubSpan k) } }).scrubReg k

/-- SCRUB_PATROL_READ (R172). -/
def execScrubPatrolRead (u : Scrubber) (s : State) := State.run (fun d => d.patrol (scrubNo u)) s

/-! ### Range scrubs (R173, R174) -/

/-- The granules of a page's range: positions from `next` to `stop`. For Gallery a position is a granule of the die, for HBM
an offset granule × 64 + a pseudo-channel of the stack. -/
def Dev.rangeOf (d : Dev) (pg : Nat) : Nat × Nat :=
  let b := d.rd64 (pgReg pg 0x60)
  let l := d.rd64 (pgReg pg 0x68)
  if pg < 8 then
    let org := 0x200000000000 + pg * 0x48000000
    let lo := (max b org - org) / 64
    (lo, max lo ((min l (org + 0x48000000) - org) / 64))
  else
    let lo := min b (2 ^ 30) / 64 * 64
    (lo, max lo (min l (2 ^ 30) / 64 * 64))

/-- The device address of a range position. -/
def rangeAddr (pg n : Nat) : Nat :=
  if pg < 8 then 0x200000000000 + pg * 0x48000000 + n * 64 else hbmAddr ((pg - 8) * 64 + n % 64) (n / 64 * 64)

/-- The scrubber that reads a range position. -/
def rangeSrc (pg n : Nat) : Nat := if pg < 8 then scrubSrc pg else scrubSrc (8 + ctrlOf ((pg - 8) * 64 + n % 64))

/-- RANGE_GO: start a range scrub, unless one runs or the page is fenced; an empty range ends at once. -/
def Dev.rangeGo (d : Dev) (pg : Nat) : Dev :=
  if (sget (fun _ => none) d.mem.range pg).isSome || bitOf 2 (d.rd (pgReg pg 0)) then d
  else
    let r := d.rangeOf pg
    if r.2 ≤ r.1 then d.wr (pgReg pg 0x70) 0
    else
      let d := { d with mem := { d.mem with range := sset (fun _ => none) d.mem.range pg (some ⟨r.1, r.2, 0⟩) } }
      d.wrFld (pgReg pg 0) 1 1 1

/-- A range scrub reads its next granule; it ends after the last. -/
def Dev.rangeRead (d : Dev) (pg : Nat) : Dev :=
  match sget (fun _ => none) d.mem.range pg with
  | none => d
  | some r =>
    let a := rangeAddr pg r.next
    let old := d.mem.isPoison (a / 64)
    let x := (d.wakeBank a).readGran (rangeSrc pg r.next) true a
    let ue := x.1.2 && !old
    let d := x.2
    let r : RangeScrub := ⟨r.next + 1, r.stop, if ue then r.found + 1 else r.found⟩
    let d := { d with mem := { d.mem with range := sset (fun _ => none) d.mem.range pg (some r) } }
    if r.stop ≤ r.next then d.rangeEnd pg else d

/-- SCRUB_RANGE_READ (R173). -/
def execScrubRangeRead (pg : EccPage) (s : State) := State.run (fun d => d.rangeRead (pageNo pg)) s

/-- SCRUB_ACTIVE of a page follows EN and the fences, once the device is READY. -/
def Dev.scrubStat (d : Dev) (pg : Nat) : Dev :=
  let on := if pg < 8 then d.scrubOn pg else d.scrubOn (8 + (stackCtrls (pg - 8)).1) || d.scrubOn (8 + (stackCtrls (pg - 8)).2)
  d.wrFld (pgReg pg 0) 0 0 (on && d.bootState = 5).toNat

/-- A write to SCRUB_CTL (Table 7-8): a HOURS of 0 leaves the field unchanged. -/
def Dev.scrubCtl (d : Dev) (pg : Nat) (v : Word) : Dev :=
  let d := d.wrFld (pgReg pg 0x50) 0 0 (fld 0 0 v)
  let d := (if fld 15 8 v = 0 then d else d.wrFld (pgReg pg 0x50) 15 8 (fld 15 8 v)).scrubStat pg
  if bitOf 16 v then d.rangeGo pg else d

/-! ### Windows of corrections (R175) -/

/-- A new window starts. -/
def Dev.ceWindow (d : Dev) (pg : Nat) : Dev :=
  { d with mem := { d.mem with ceCount := sset (fun _ => 0) d.mem.ceCount pg 0 } }

/-- CE_WINDOW_EXPIRE (R175); a WINDOW of 0 has no end. -/
def execCeWindowExpire (pg : EccPage) (s : State) :=
  State.run (fun d => if d.rdFld (pgReg (pageNo pg) 0x44) 31 16 = 0 then d else d.ceWindow (pageNo pg)) s

/-- A write to CE_THRESH. -/
def Dev.ceThresh (d : Dev) (pg : Nat) (v : Word) : Dev := (d.wr (pgReg pg 0x44) v).ceWindow pg

/-! ### Injection (R176, R177) -/

/-- Damage one more symbol. -/
def Damage.add : Option Damage → Nat → Damage
  | none, s => .one s
  | some (.one a), s => if s = a then .one a else .two a s
  | some (.two a b), s => if s = a || s = b then .two a b else .more
  | some .more, _ => .more
  | some .onDie, s => .one s
  | some .dead, _ => .dead

/-- The damage of a granule after an INJ_CTL value, none where the value does nothing to its symbols. -/
def injDamage (pg : Nat) (v : Word) (old : Option Damage) : Option Damage :=
  let sym := fld 8 2 v
  let top := if pg < 8 then 66 else 34
  match fld 1 0 v with
  | 1 => if sym ≤ top then some (Damage.add old sym) else none
  | 2 => if sym < top then some (Damage.add (some (Damage.add old sym)) (sym + 1)) else none
  | _ => none

/-- A write to INJ_CTL by source `src`: discarded and logged while the lock is CLOSED, or when INJ_ADDR lies outside the
page's die or stack. -/
def Dev.injCtl (d : Dev) (src pg : Nat) (v : Word) : Dev :=
  let reg := 0x3F0000000000 + pgReg pg 0xF8
  let a := d.rd64 (pgReg pg 0xF0)
  if !d.debugOpen then d.accessErr 4 src 4 reg
  else if errPage a ≠ some pg then d.accessErr 5 src 4 reg
  else if fld 1 0 v = 3 then { d with mem := d.mem.setPoison (a / 64) true }
  else match injDamage pg v (d.mem.dmg (a / 64)) with
    | some x => { d with mem := d.mem.setDmg (a / 64) (some x) }
    | none => d

end Sys2Proof.Machine
end

