-- ==== Sys2Proof/Machine/Power.lean ====
section
/-! DEFINITION. Reference clocks (R316 to R319), gating, naps and wake grants (R320 to R324), power caps and throttling (R325,
R388), regulators (R328) and ageing (R329). -/

namespace Sys2Proof.Machine

/-! ### Reference clocks (R317 to R319) -/

/-- Source number of the monitor of reference `n`: SYSREF0 and SYSREF1 are monitored on HB0, the others on their hub (log 34). -/
def clkSrc (n : Nat) : Nat := srcNo (16 + (if 2 ≤ n then n % 2 else 0)) 0x7F1

/-- Set a bit of CLK_ERR. -/
def Dev.clkErr (d : Dev) (bit : Nat) : Dev := d.wr rClkErr (setBit bit true (d.rd rClkErr))

/-- HOLD and LOST of reference `n`. -/
def Dev.refHold (d : Dev) (n : Nat) : Bool := bitOf (2 + n) (d.rd rClkStatus)
/-- LOST of reference `n`. -/
def Dev.refLost (d : Dev) (n : Nat) : Bool := bitOf (8 + n) (d.rd rClkStatus)

/-- Is reference `n` healthy: neither lost nor in holdover? -/
def Dev.refOk (d : Dev) (n : Nat) : Bool := !d.refLost n && !d.refHold n

/-- SYSSEL follows R317: SYSREF0 while it is healthy, SYSREF1 otherwise, the internal oscillator when neither is. PLLs that hold the
frequency of their input stay on it until the holdover ends (R318). -/
def Dev.sysSel (d : Dev) : Dev :=
  let cur := d.rdFld rClkStatus 1 0
  d.wrFld rClkStatus 1 0 (if d.refOk 0 then 0 else if cur < 2 && d.refHold cur then cur else if d.refOk 1 then 1 else 2)

/-- A loss of reference `n`: its PLLs hold. -/
def Dev.clkLoss (d : Dev) (n : Nat) : Dev :=
  if d.refLost n then d else (d.clkErr 1).wr rClkStatus (setBit (2 + n) true (d.rd rClkStatus))

/-- A monitor window of reference `n` ends. -/
def Dev.clkWindow (d : Dev) (n : Nat) (w : ClkWindow) : Dev :=
  let d := if w.glitches = 0 then d else (d.addSat (rClkGlitch n) w.glitches).clkErr 3
  let d := d.wr (rClkPpm n) (BitVec.ofInt 32 w.ppm)
  if 500 < w.ppm.natAbs then d.clkLoss n
  else
    -- a return within the holdover is counted (log 34)
    let d := if d.refHold n then d.addSat (rClkGlitch n) 1 else d
    (d.wr rClkStatus (setBit (8 + n) false (setBit (2 + n) false (d.rd rClkStatus)))).sysSel

/-- CLK_MONITOR_WINDOW (R318). -/
def execClkMonitorWindow (n : Fin 6) (w : ClkWindow) (s : State) := State.run (fun d => d.clkWindow n.val w) s
/-- CLK_EDGE_TIMEOUT (R318). -/
def execClkEdgeTimeout (n : Fin 6) (s : State) := State.run (fun d => d.clkLoss n.val) s

/-- A holdover of reference `n` ends without its return: the part of R319 that the clock tree sees; answers whether it ended. -/
def Dev.clkHoldEnd (d : Dev) (n : Nat) : Bool × Dev :=
  if !d.refHold n then (false, d)
  else
    let sel := d.rdFld rClkStatus 1 0
    let d := (d.wr rClkStatus (setBit (8 + n) true (setBit (2 + n) false (d.rd rClkStatus)))).sysSel
    let now := d.rdFld rClkStatus 1 0
    if 2 ≤ n then (true, d.flw 5 1 (clkSrc n) 0)
    else if now = 2 then (true, (((d.clkErr 2).flw 5 2 (clkSrc n) 0).withdraw 4))
    else if now ≠ sel then (true, (d.clkErr 0).flw 5 0 (clkSrc n) 0)
    else (true, d.flw 5 1 (clkSrc n) 0)

/-! ### Gating (R320) -/

/-- An idle core's clock is gated: no tensor instruction, no tile. -/
def Dev.clockGate (d : Dev) (c : Nat) : Dev :=
  let s := d.core c
  if d.coreState c = 1 && s.ents.isEmpty && s.held.isEmpty && s.launch.isNone then d.setCoreState c 3 else d

/-- CLOCK_GATE (R320). -/
def execClockGate (c : Fin 1536) (s : State) := State.run (fun d => d.clockGate c.val) s
/-- A clock-gated core's power is gated, when its rail allows the gating step (R324). -/
def Dev.powerGate (d : Dev) (c : Nat) : Dev :=
  if d.coreState c ≠ 3 then d
  else match d.gateStep (c / 192) 8 with
    | some d => d.setCoreState c 4
    | none => d

/-- POWER_GATE (R320). -/
def execPowerGate (c : Fin 1536) (s : State) := State.run (fun d => d.powerGate c.val) s

/-- Is a KERNEL of partition `p` accepted, dispatched or at the head of a queue that could dispatch it? -/
def Dev.kernelNear (d : Dev) (p : Nat) : Bool :=
  d.queue.infl.any (fun x => x.cls = 0 && x.part = p)
    || d.queue.fetched.any (fun f => d.qPart f.q = p && d.ready f.q && (match d.head? f.q with
        | some (s, _) => leAt s 0 1 % 16 = 0
        | none => false))

/-- Compute die `n` naps: every core in service is POWER_GATED, no KERNEL needs it, and its rail allows the gating step (R324). -/
def Dev.napDie (d : Dev) (n : Nat) : Dev :=
  let cs := (rangeFrom (192 * n) 192).filter (fun c => d.coreState c ≠ 0 && d.coreState c ≠ 5)
  if !d.inNap n && cs.all (fun c => d.coreState c = 4) && !d.kernelNear (d.partOfDie n) && !d.fenced n then
    match d.gateStep n 32 with
    | some d => d.wr rPwrStatus (setBit (8 + n) true (d.rd rPwrStatus))
    | none => d
  else d

/-- NAP (R320). -/
def execNap (n : Fin 8) (s : State) := State.run (fun d => d.napDie n.val) s

/-! ### Wake grants (R323) -/

/-- Credits of rail `r`. -/
def Dev.credit (d : Dev) (r : Nat) : Nat := sget (fun _ => 256) d.pwr.credits r

/-- Set the credits of rail `r`. -/
def Dev.setCredit (d : Dev) (r n : Nat) : Dev :=
  { d with pwr := { d.pwr with credits := sset (fun _ => 256) d.pwr.credits r n } }

/-- WAKE_CREDIT_REFILL (R323): one microsecond's refill. -/
def execWakeCreditRefill (r : Fin 16) (s : State) :=
  State.run (fun d => d.setCredit r.val (min (d.slew r.val) (d.credit r.val + d.slew r.val))) s

/-- The rail that a unit's wake draws on. -/
def wakeRail : WakeUnit → Nat
  | .core c => c.val / 192
  | .die n => n.val
  | .bank n _ _ => 8 + n.val

/-- The cost of a wake; a core that is only CLOCK_GATED needs no grant. -/
def wakeCost : WakeUnit → Nat
  | .core _ => 8
  | .die _ => 32
  | .bank _ _ _ => 1

/-- Does a request wait for a grant now? A core's wait begins once its die is awake. -/
def Dev.wakeWaits (d : Dev) (w : WakeReq) : Bool :=
  !w.granted && (match w.unit with
    | .core c => d.coreState c.val = 4 && !d.inNap (c.val / 192)
    | _ => true)

/-- Grant the pending wake of rail `r` that comes first by priority, then age, when its cost is covered. -/
def Dev.wakeGrant (d : Dev) (r : Nat) : Dev :=
  let ws := d.pwr.wakes.filter (fun w => wakeRail w.unit = r && d.wakeWaits w)
  match bestBy (fun (w : WakeReq) => w.prio) ws with
  | none => d
  | some w =>
    let cost := wakeCost w.unit
    if d.credit r < cost then d
    else
      let d := { d with pwr := { d.pwr with
        wakes := mapIf (fun (v : WakeReq) => v.unit = w.unit) (fun v => { v with granted := true }) d.pwr.wakes } }
      (d.setCredit r (d.credit r - cost)).add64 rPwrWakeWaitLo (d.now - w.since)

/-- WAKE_GRANT (R323). -/
def execWakeGrant (r : Fin 16) (s : State) := State.run (fun d => d.wakeGrant r.val) s

/-- A unit is awake. -/
def Dev.awake (d : Dev) (u : WakeUnit) : Dev :=
  match d.pwr.wakes.find? (fun w => w.unit = u) with
  | none => d
  | some w =>
    let free : Bool := match u with
      | .core c => d.coreState c.val = 3 && !d.inNap (c.val / 192)
      | _ => false
    if !(w.granted || free) then d
    else
      let d := { d with pwr := { d.pwr with wakes := d.pwr.wakes.filter (fun w => w.unit ≠ u) } }
      match u with
      | .core c => if d.coreState c.val = 3 || d.coreState c.val = 4 then d.setCoreState c.val 1 else d
      | .die n =>
        -- the device is IDLE only while every compute die naps (R326; log 46)
        let d := d.wr rPwrStatus (setBit (8 + n.val) false (d.rd rPwrStatus))
        if d.rdFld rPwrStatus 1 0 = 1 then d.wrFld rPwrStatus 1 0 0 else d
      | .bank n col b => { d with mem := { d.mem with retained := delNat ((n.val * 192 + col.val) * 8 + b.val) d.mem.retained } }

/-- WAKE_COMPLETE (R320). -/
def execWakeComplete (u : WakeUnit) (s : State) := State.run (fun d => d.awake u) s

/-! ### Power caps and throttling (R325, R388) -/

/-- Table 14-4: PCAP in W and the ceiling in MHz. -/
def profile : Nat → Nat × Nat
  | 0 => (3400, 2000) | 1 => (3000, 2000) | 2 => (2600, 1800) | 3 => (2200, 1600)
  | 4 => (1800, 1400) | 5 => (1400, 1200) | 6 => (1000, 1000) | _ => (600, 600)

/-- The profile in force. -/
def Dev.profileNo (d : Dev) : Nat := d.rdFld rPwrStatus 4 2

/-- The clock that the cap allows compute die `n`. -/
def Dev.capClk (d : Dev) (n : Nat) : Nat := sget (fun _ => 2000) d.pwr.capClk n
/-- The clock that the temperature allows die `n`. -/
def Dev.thrClk (d : Dev) (n : Nat) : Nat := sget (fun _ => 2000) d.pwr.thrClk n

/-- The core clock of compute die `n` in MHz: the lower of the two, halved on the internal oscillator. -/
def Dev.coreClk (d : Dev) (n : Nat) : Nat :=
  let f := min (d.capClk n) (d.thrClk n)
  if d.rdFld rClkStatus 1 0 = 2 then f / 2 else f

/-- Set the cap's clock of compute die `n`. -/
def Dev.setCap (d : Dev) (n f : Nat) : Dev :=
  { d with pwr := { d.pwr with capClk := sset (fun _ => 2000) d.pwr.capClk n f } }
/-- Set the temperature's clock of die `n`. -/
def Dev.setThr (d : Dev) (n f : Nat) : Dev :=
  { d with pwr := { d.pwr with thrClk := sset (fun _ => 2000) d.pwr.thrClk n f } }

/-- Flag an error of PWR_ERR. -/
def Dev.pwrErr (d : Dev) (bit : Nat) : Dev := d.wr rPwrErr (setBit bit true (d.rd rPwrErr))

/-- One millisecond's step of the cap, at package power `mw`. -/
def Dev.capAdjust (d : Dev) (mw : Nat) : Dev :=
  let d := d.wr rPwrPkgMw (BitVec.ofNat 32 mw)
  let pf := profile d.profileNo
  if pf.1 * 1000 < mw then d.each (List.range 8) (fun d n => d.setCap n (max 50 (d.capClk n - 50))) |>.pwrErr 2
  else if mw * 100 ≤ pf.1 * 1000 * 97 then d.each (List.range 8) (fun d n => d.setCap n (min pf.2 (d.capClk n + 50)))
  else d

/-- POWER_CAP_ADJUST (R325). -/
def execPowerCapAdjust (mw : Word) (s : State) := State.run (fun d => d.capAdjust mw.toNat) s

/-- Put profile `v` in force: no clock stays above its ceiling. -/
def Dev.setProfile (d : Dev) (v : Nat) : Dev :=
  (d.wrFld rPwrStatus 4 2 v).each (List.range 8) (fun d n => d.setCap n (min (profile v).2 (d.capClk n)))

/-- THERMAL_THROTTLE (R388): one step down. -/
def execThermalThrottle (die : Fin 20) (s : State) :=
  State.run (fun d => (d.setThr die.val (max 50 (d.thrClk die.val - 50))).pwrErr 2) s
/-- THROTTLE_RELEASE (R388): one step up. -/
def execThrottleRelease (die : Fin 20) (s : State) :=
  State.run (fun d => d.setThr die.val (min 2000 (d.thrClk die.val + 50))) s

/-! ### Regulators (R328) -/

/-- What a rail fault does: a VCORE or VGAL rail fences its compute die, any other rail makes the device withdraw. -/
def Dev.railFault (d : Dev) (r : Nat) : Dev := if r < 16 then d.fenceDie (r % 8) else d.withdraw 6

/-- What a poll finds on one rail. -/
def Dev.railPoll (d : Dev) (r : Nat) (x : RailState) : Dev :=
  let tele (d : Dev) (mv cur : BitVec 16) : Dev := d.wr (rPwrRail r) (BitVec.ofNat 32 (mv.toNat + 65536 * cur.toNat))
  match x with
  | .ok mv cur => tele d mv cur
  | .fault mv cur => (((tele d mv cur).pwrErr 0).flw 5 0 (srcOf .mgmt) r).railFault r
  | .noReply => ((d.pwrErr 1).flw 5 1 (srcOf .mgmt) r).railFault r

/-- PMBUS_POLL (R328). -/
def execPmbusPoll (rails : List (Fin 34 × RailState)) (s : State) :=
  State.run (fun d => d.each rails (fun d e => d.railPoll e.1.val e.2)) s

/-! ### Ageing (R329) -/

/-- Fence a core that is to be retired (R120): its tiles are handled as a faulted core's. -/
def Dev.benchCore (d : Dev) (c : Nat) : Dev :=
  if d.coreState c = 0 || d.coreState c = 5 then d
  else
    let k := (d.core c).launch
    let d := d.fenceCore c
    match k with
    | some k => (d.dropTiles k [c]).launchDone k
    | none => d.each (d.launches.filter (fun e => e.2.cores.contains c)) (fun d e => (d.slotStat e.1).launchDone e.1)

/-- The measurement of cluster `k`: its guard band rises no further than AGE_LIMIT; a cluster that asks for more has its
slowest core retired, which one being a free value (log 35). -/
def Dev.ageCluster (d : Dev) (k slow guard : Nat) : Dev :=
  let lim := d.rdFld rAgeCtl 15 8
  let d := d.wr (rAgeCluster k) (BitVec.ofNat 32 (slow % 65536 + 65536 * min guard lim))
  if guard ≤ lim then d
  else
    let f := d.fresh
    f.2.benchCore (k / 12 * 192 + k % 12 * 16 + Config.slowestCore f.1 % 16)

/-- A re-plan at `hours` operating hours. -/
def Dev.replan (d : Dev) (hours : Word) (ages : List (Fin 96 × BitVec 16 × BitVec 8)) : Dev :=
  let d := d.wr rAgeLast hours
  (d.each ages (fun d e => d.ageCluster e.1.val e.2.1.toNat e.2.2.toNat)).flw 5 0x20 (srcOf .mgmt) 0

/-- AGE_REPLAN_TIMER (R329). -/
def execAgeReplanTimer (hours : Word) (ages : List (Fin 96 × BitVec 16 × BitVec 8)) (s : State) :=
  State.run (fun d => d.replan hours ages) s

end Sys2Proof.Machine
end

