-- ==== Sys2Proof/Machine/Queues.lean ====
section
/-! DEFINITION. The queue managers' commands (R230 to R246): fetch, dispatch, WAIT, SIGNAL, MARK, MODE, completion. -/

namespace Sys2Proof.Machine

/-! ### Fetch and dispatch -/

/-- RING_FETCH (R232). -/
def execRingFetch (q : Fin 65536) (s : State) := State.run (fun d => d.ringFetch q.val) s
/-- Dispatch the command at HEAD: a KERNEL's structures are copied (R123), and one accepted early that is refused at its
dispatch gives its launch slot back. -/
def Dev.dispatchCmd (d : Dev) (q : Nat) : Dev :=
  let h := d.rd (rQmgQHead q)
  let d := d.dispatch q
  match d.queue.infl.find? (fun x => x.q = q && x.i = h) with
  | some x =>
    if x.phase = .ended then d.dropEarly q h
    else if x.cls = 0 && x.phase = .dispatched then d.kernelCopy x
    else d
  | none => d

/-- COMMAND_DISPATCH (R233). -/
def execCommandDispatch (q : Fin 65536) (s : State) := State.run (fun d => d.dispatchCmd q.val) s
/-- KERNEL_EARLY_ACCEPT (R251). -/
def execKernelEarlyAccept (q : Fin 65536) (s : State) := State.run (fun d => d.earlyAccept q.val) s
/-- KERNEL (R240). -/
def execKernel (c : CmdRef) (s : State) :=
  State.run (fun d => d.work c (fun x => x.cls = 0 && x.phase = .dispatched) (fun x d => d.kernelStart x)) s
/-- WAIT (R239). -/
def execWait (c : CmdRef) (s : State) :=
  State.run (fun d => d.work c (fun x => x.cls = 8) (fun x d => d.finish x Result.fresh)) s
/-- SIGNAL (R239). -/
def execSignal (c : CmdRef) (s : State) :=
  State.run (fun d => d.work c (fun x => x.cls = 9) (fun x d => d.finish x Result.fresh)) s

/-- MARK: its record, and a Flowstone record with FLW = 1. -/
def Dev.mark (d : Dev) (x : Inflight) : Dev :=
  let rec_ := leBytes 4 x.seq ++ leBytes 4 x.q ++ leBytes 8 x.ts ++ leBytes 8 (x.opd 1) ++ leBytes 8 0
  let w := d.writeMem (x.acc (qmSrc x.q)) (x.opd 0) (clean rec_)
  let d := if (x.opd 2).testBit 0 then w.2.flw 8 0 (qmSrc x.q) (x.opd 1) else w.2
  match w.1 with
  | none => d.finish x Result.fresh
  | some a => d.finish x { Result.fresh with status := .poisoned, addr := a }

/-- MARK (R239). -/
def execMark (c : CmdRef) (s : State) :=
  State.run (fun d => d.work c (fun x => x.cls = 12) (fun x d => d.mark x)) s

/-! ### MODE (R245, R246) -/

/-- Source number of a unit of a MODE. -/
def modeSrc : ModeUnit → Nat
  | .queueManager h => srcNo (16 + h.val) 0x000
  | .trowel e => trwSrc e.val
  | .lantern h => srcNo (16 + h.val) 0x074
  | .monitor n => srcNo n.val 0x7F1

/-- The MODE that is in progress for command `x`. -/
def Dev.modeOf (d : Dev) (x : Inflight) : Option ModeSt :=
  match d.queue.mode with
  | some m => if m.cmd.q.val = x.q && m.cmd.i = x.i then some m else none
  | none => none

/-- A MODE command's work: the new value goes out to the affected units. -/
def Dev.modeAsk (d : Dev) (c : CmdRef) (op : Nat) : Dev :=
  d.work c (fun x => x.cls = 10 && x.op = op && x.phase = .dispatched) (fun x d =>
    d.setCmd x.q x.i (fun y => { y with phase := .working }))

/-- MODE ROUND (R245). -/
def execModeRound (c : CmdRef) (s : State) := State.run (fun d => d.modeAsk c 0) s
/-- MODE TBLSRC (R245). -/
def execModeTblsrc (c : CmdRef) (s : State) := State.run (fun d => d.modeAsk c 1) s
/-- MODE POWER (R245). -/
def execModePower (c : CmdRef) (s : State) := State.run (fun d => d.modeAsk c 2) s

/-- Does unit `u` acknowledge a MODE: a Trowel engine only with no table build in progress (R201)? -/
def Dev.modeReady (d : Dev) (u : ModeUnit) : Bool :=
  match u with
  | .trowel e => (d.trwBuild e.val).isNone
  | _ => true

/-- A unit acknowledges, within 100 µs of H; with the last acknowledgement, TA is set 2 µs ahead. -/
def Dev.modeAck (d : Dev) (u : ModeUnit) : Dev :=
  match d.queue.mode with
  | none => d
  | some m =>
    let us := d.modeUnits m.op
    if m.ta.isSome || m.h + 100000 < d.now || !d.modeAsked m || !us.contains u || m.acked.contains u || !d.modeReady u then d
    else ({ d with queue := { d.queue with mode := some { m with acked := m.acked ++ [u] } } } : Dev).modeSettle

/-- MODE_ACK (R246). -/
def execModeAck (u : ModeUnit) (s : State) := State.run (fun d => d.modeAck u) s

/-- The MODE is over: its hold ends and its command has this result. -/
def Dev.modeEnd (d : Dev) (m : ModeSt) (r : Result) : Dev :=
  let d := ({ d with queue := { d.queue with mode := none } }).wr rQmgStatus 0
  match d.queue.infl.find? (fun x => x.q = m.cmd.q.val && x.i = m.cmd.i) with
  | some x => d.finish x r
  | none => d

/-- At TA every affected unit switches. -/
def Dev.modeSwitch (d : Dev) : Dev :=
  match d.queue.mode with
  | none => d
  | some m => match m.ta with
    | none => d
    | some ta =>
      if d.now < ta then d
      else
        let d := match m.op with
          | 0 => { d with queue := { d.queue with rnd := sset (fun _ => 1) d.queue.rnd m.part m.value } }
          | 1 => d.wrFld (rTrwPctl m.part) 1 1 m.value
          | _ => d.setProfile m.value
        (d.wr64 rQmgModeTaLo ta).modeEnd m { Result.fresh with xa := ta }

/-- MODE_SWITCH (R246). -/
def execModeSwitch (s : State) := State.run (fun d => d.modeSwitch) s

/-- 100 µs after H with acknowledgements missing: shadows are discarded and the MODE is ABORTED with its failing units. -/
def Dev.modeTimeout (d : Dev) : Dev :=
  match d.queue.mode with
  | none => d
  | some m =>
    if m.ta.isSome || d.now < m.h + 100000 || (d.modeUnits m.op).all m.acked.contains then d
    else match d.queue.infl.find? (fun x => x.q = m.cmd.q.val && x.i = m.cmd.i) with
      | none => d.modeEnd m Result.fresh
      | some x =>
        let late := ((d.modeUnits m.op).filter (fun u => !m.acked.contains u)).map modeSrc
        let xb := ((late.take 4).zipIdx.map (fun e => e.1 * 65536 ^ e.2)).sum
        let d := if x.opd 1 = 0 then d
          else (d.writeMem (x.acc (qmSrc x.q)) (x.opd 1) (clean ((late.take 64).flatMap (leBytes 2)))).2
        let d := (d.qmErr 4 x.q x.seq).flw 3 4 (qmSrc x.q) 0
        d.modeEnd m { aborted 0x24 (late.headD 0xFFFF) with result := late.length, xb := xb }

/-- MODE_TIMEOUT (R246). -/
def execModeTimeout (s : State) := State.run (fun d => d.modeTimeout) s

/-! ### Completion (R241) -/

/-- Is every write of the command performed: does no Trowel engine hold a block of it? -/
def Dev.allDone (d : Dev) (x : Inflight) : Bool := x.phase = .ended && !d.trwHolds (.cmd x.q x.i)

/-- Complete a command, and release its DMA engine and its EPOCH. -/
def Dev.completeCmd (d : Dev) (x : Inflight) : Dev :=
  let d := if x.held then d.add64 (rDmaCmdsLo x.eng) 1 else d
  let d := if x.cls = 11 then { d with queue := { d.queue with
      epochs := d.queue.epochs.filter (fun e => match e.2 with
        | some st => !(st.cmd.q.val = x.q && st.cmd.i = x.i)
        | none => false) } } else d
  (d.complete x x.ts).dmaStat x.eng

/-- COMMAND_COMPLETE (R241). -/
def execCommandComplete (c : CmdRef) (s : State) :=
  State.run (fun d => match d.cmd? c with
    | some x => if d.allDone x then d.completeCmd x else d
    | none => d) s

/-- A clear of EN ends; a KERNEL accepted early and never dispatched gives its launch slot back (log 51). -/
def Dev.closeQueue (d : Dev) (q : Nat) : Dev :=
  let d := d.closeEnd q
  if d.rdFld (rQmgQStatus q) 1 0 ≠ 0 then d
  else d.each (d.queue.infl.filter (fun x => x.q = q && x.phase = .early)) (fun d x => d.dropEarly q x.i)

/-- QUEUE_CLOSE_END (R244). -/
def execQueueCloseEnd (q : Fin 65536) (s : State) := State.run (fun d => d.closeQueue q.val) s

end Sys2Proof.Machine
end

