-- ==== Sys2Proof/Machine/Links.lean ====
section
/-! DEFINITION. Link ports and what stands on them (12): group membership, events, ports with their credits, replay and
acknowledgement, routes, and the partner table. -/

namespace Sys2Proof.Machine

/-! ### Coordinates (Table 12-13) -/

/-- Source number of hub `h`'s collective engine. -/
def colSrc (h : Nat) : Nat := srcNo (16 + h) 0x040
/-- Source number of device port `p`. -/
def portSrc (p : Nat) : Nat := srcNo (16 + p / 12) (0x050 + p % 12)

/-- Slot, tray and rack of a coordinate. -/
def coSlot (c : Nat) : Nat := c % 8
/-- Tray. -/
def coTray (c : Nat) : Nat := c / 16 % 16
/-- Rack. -/
def coRack (c : Nat) : Nat := c / 256 % 256
/-- The coordinate of a rack, tray and slot. -/
def coOf (rack tray slot : Nat) : Nat := slot + 16 * tray + 256 * rack
/-- The device's own coordinate. -/
def Dev.coord (d : Dev) : Nat := d.rdFld rColCoord 15 0

/-! ### Groups (R276) -/

/-- An axis register: LO, COUNT, STRIDE. -/
def axis (w : Word) : Nat × Nat × Nat := (fld 7 0 w, fld 15 8 w, fld 23 16 w)

/-- The coordinates that an axis selects: its list when masked in, else the device's own. -/
def axisList (masked : Bool) (w : Word) (own : Nat) : List Nat :=
  if masked then (List.range (axis w).2.1).map (fun k => (axis w).1 + k * (axis w).2.2) else [own]

/-- A group's members by level: partitions, slots, trays, racks. -/
structure Levels where
  parts : List Nat
  slots : List Nat
  trays : List Nat
  racks : List Nat
  deriving DecidableEq, Repr

/-- The levels of group `g` of partition `p`. -/
def Dev.levels (d : Dev) (p g : Nat) : Levels :=
  let w := d.rd (rColGCtl p g)
  let own := d.coord
  { parts := (List.range 8).filter (fun k => bitOf (8 + k) w)
    slots := axisList (bitOf 16 w) (d.rd (rColGAxslot p g)) (coSlot own)
    trays := axisList (bitOf 17 w) (d.rd (rColGAxtray p g)) (coTray own)
    racks := axisList (bitOf 18 w) (d.rd (rColGAxrack p g)) (coRack own) }

/-- N. -/
def Levels.n (l : Levels) : Nat := l.parts.length * l.slots.length * l.trays.length * l.racks.length

/-- The coordinates of the group's devices, in rank order. -/
def Levels.coords (l : Levels) : List Nat :=
  l.racks.flatMap (fun r => l.trays.flatMap (fun t => l.slots.map (fun s => coOf r t s)))

/-- Indices of a rank by level: partition, slot, tray, rack. -/
def Levels.idx (l : Levels) (rank : Nat) : List Nat :=
  let a := l.parts.length
  let b := l.slots.length
  let c := l.trays.length
  [rank % a, rank / a % b, rank / a / b % c, rank / a / b / c]

/-- The rank of indices. -/
def Levels.rankOf (l : Levels) (i : List Nat) : Nat :=
  i.getD 0 0 + l.parts.length * (i.getD 1 0 + l.slots.length * (i.getD 2 0 + l.trays.length * i.getD 3 0))

/-- Device coordinate and partition of a rank. -/
def Levels.member (l : Levels) (rank : Nat) : Nat × Nat :=
  let i := l.idx rank
  (coOf (l.racks.getD (i.getD 3 0) 0) (l.trays.getD (i.getD 2 0) 0) (l.slots.getD (i.getD 1 0) 0), l.parts.getD (i.getD 0 0) 0)

/-- The rank of the device's partition `p`. -/
def Levels.own (l : Levels) (coord p : Nat) : Nat :=
  l.rankOf [l.parts.idxOf p, l.slots.idxOf (coSlot coord), l.trays.idxOf (coTray coord), l.racks.idxOf (coRack coord)]

/-- Is group `g` of partition `p` enabled? -/
def Dev.groupOn (d : Dev) (p g : Nat) : Bool := bitOf 0 (d.rd (rColGCtl p g))

/-- Every enabled group: partition and group. -/
def Dev.groupsOn (d : Dev) : List (Nat × Nat) :=
  (d.col.groups.filter (fun e => e.2.isSome)).map (fun e => (e.1 / 64, e.1 % 64))

/-- The remote devices of a group. -/
def Dev.remotes (d : Dev) (p g : Nat) : List Nat := (d.levels p g).coords.filter (· ≠ d.coord)

/-! ### Errors and events (Table 12-14, R294) -/

/-- Flag an error of COL_ERR with its capture and its record. -/
def Dev.colErr (d : Dev) (bit p g coord : Nat) : Dev :=
  (d.raise rColErr bit (fun d => d.wr rColErrInfo (BitVec.ofNat 32 (g % 64 + 64 * (p % 16) + 65536 * coord)))).flw 4 (bit + 0x10)
    (colSrc 0) 0

/-- Flag an error of LNK_ERR. -/
def Dev.lnkErr (d : Dev) (p bit : Nat) : Dev := d.wr (rLnkErr p) (setBit bit true (d.rd (rLnkErr p)))

/-- Append an event (Table 12-10) to the ring, to Flowstone, and as an MSI-X message; one that finds the ring full reaches Flowstone
only. -/
def Dev.colEvent (d : Dev) (kind coord port serial : Nat) : Dev :=
  let h := d.rdFld rColEvtHead 7 0
  let src := if port < 24 then portSrc port else colSrc 0
  if (h + 1) % 256 = d.rdFld rColEvtTail 7 0 then (d.flw 4 kind src 0).colErr 6 0 0 coord
  else
    let rec_ := leBytes 8 d.now ++ leBytes 2 coord ++ leBytes 1 kind ++ leBytes 1 (if port < 24 then port else 255)
      ++ leBytes 4 serial
    let d := (d.writeMem ⟨none, colSrc 0⟩ (d.rd64 rColEvtBaseLo + 16 * h) (clean rec_)).2
    let d := (d.wrFld rColEvtHead 7 0 (h + 1)).flw 4 kind src 0
    let w := d.rd rColEvtCfg
    if bitOf 12 w then d.msixSend (fld 11 11 w) (fld 10 0 w) else d

/-! ### Ports -/

/-- Port `p`. -/
def Dev.port (d : Dev) (p : Nat) : PortSt := sget (fun _ => PortSt.reset) d.col.ports p
/-- Set port `p`. -/
def Dev.setPort (d : Dev) (p : Nat) (s : PortSt) : Dev :=
  { d with col := { d.col with ports := sset (fun _ => PortSt.reset) d.col.ports p s } }

/-- LNK_STATUS.STATE: 0 DOWN, 1 TRAINING, 2 HELLO, 3 UP, 4 MISWIRED. -/
def Dev.portState (d : Dev) (p : Nat) : Nat := d.rdFld (rLnkStatus p) 2 0
/-- Is port `p` UP? -/
def Dev.portUp (d : Dev) (p : Nat) : Bool := d.portState p = 3
/-- LNK_CFG.EN. -/
def Dev.portOn (d : Dev) (p : Nat) : Bool := bitOf 0 (d.rd (rLnkCfg p))
/-- Does port `p` run Ethernet? -/
def Dev.portEth (d : Dev) (p : Nat) : Bool := bitOf 1 (d.rd (rLnkCfg p))
/-- ROLE: 0 tray, 1 rack, 2 between racks. -/
def Dev.portRole (d : Dev) (p : Nat) : Nat := d.rdFld (rLnkCfg p) 3 2
/-- The partner's coordinate. -/
def Dev.portPartner (d : Dev) (p : Nat) : Nat := d.rdFld (rLnkPartner p) 15 0
/-- Is the partner a switch? -/
def Dev.portSwitch (d : Dev) (p : Nat) : Bool := bitOf 3 (d.rd (rLnkStatus p))

/-- Has the device withdrawn (R306)? -/
def Dev.withdrawn (d : Dev) : Bool := bitOf 6 (d.rd rTopStatus)

/-- Payload bytes of a message; a HELLO has the 16 bytes of Table 12-8, and a message whose payload no table lays out fills its
flit (log 17). -/
def OutMsg.bytes (o : OutMsg) : Nat := match o.kind with
  | .data _ bs => 16 + bs.length
  | .hello _ => 16
  | .pullReply bs _ => bs.length
  | .ctrl _ => 0
  | _ => 240
/-- Flits of a message (R287). -/
def OutMsg.flits (o : OutMsg) : Nat := max 1 (cdiv o.bytes 240)
/-- Collective payload bytes of a message. -/
def OutMsg.wire (o : OutMsg) : Nat := match o.kind with
  | .data _ bs => bs.length
  | _ => 0
/-- TYPE of a message's flits (Table 12-5). EPOCH records and PULL requests travel as CTRL, PULL replies as DATA (log 17). -/
def OutMsg.type (o : OutMsg) : Nat := match o.kind with
  | .data _ _ => 1
  | .pullReply _ _ => 1
  | .hello _ => 3
  | .heartbeat _ _ => 4
  | .time => 5
  | _ => 2
/-- LEN of flit `k`. -/
def OutMsg.lenAt (o : OutMsg) (k : Nat) : Nat := min 240 (o.bytes - 240 * k)
/-- POISON of flit `k`. -/
def OutMsg.badAt (o : OutMsg) (k : Nat) : Bool := match o.kind with
  | .pullReply _ ps => ps.any (fun g => 64 * g < 240 * k + 240 && 240 * k < 64 * g + 64)
  | _ => o.poison
/-- Is a message one of the port itself: it goes before the port is UP, and no other port carries it? -/
def OutMsg.ofPort (o : OutMsg) : Bool := match o.kind with
  | .hello _ => true
  | .ctrl _ => true
  | _ => false
/-- Is a message a HELLO? -/
def OutMsg.isHello (o : OutMsg) : Bool := match o.kind with
  | .hello _ => true
  | _ => false
/-- Is a message kept until it is acknowledged on an Ethernet port: every one but the acknowledgement itself? -/
def OutMsg.acked (o : OutMsg) : Bool := match o.kind with
  | .ctrl _ => false
  | _ => true

/-- SEQ arithmetic: is `a` at or before `b`, modulo 4096? -/
def seqLe (a b : Nat) : Bool := (b + 4096 - a) % 4096 < 2048

/-- Can port `p` send a flit of `o` now: with a credit and room in the replay buffer on Dreuri (R288, R289), unpaused on
Ethernet? -/
def Dev.canSend (d : Dev) (p : Nat) (o : OutMsg) : Bool :=
  let s := d.port p
  (d.portUp p || o.ofPort) &&
    (if d.portEth p then !s.paused.testBit (nfld (3 * o.vc + 2) (3 * o.vc) (d.rd (rLnkEthPcp p)).toNat)
     else s.credits.getD o.vc 0 ≠ 0 && s.unacked.length < 1024)

/-- The channel whose credits the next flit returns: the first that owes any. -/
def PortSt.owes (s : PortSt) : Nat := ((List.range 8).find? (fun c => s.used.getD c 0 ≠ 0)).getD 0

/-- Put a Dreuri flit on the wire of port `p`: its header acknowledges and returns credits (Table 12-5). -/
def Dev.emit (d : Dev) (p type vc : Nat) (last : Bool) (len seq : Nat) (poison : Bool) (dest : Nat) (o : Option OutMsg) (k : Nat) : Dev :=
  let s := d.port p
  (d.setPort p { s with used := s.used.set s.owes 0, ackSent := s.rxSeq }).send
    (.flit p ⟨type, vc, last, len, seq, poison, (s.rxSeq + 4095) % 4096, s.owes, s.used.getD s.owes 0, dest, d.coord⟩ o k)

/-- Flit `k` of message `o` with this SEQ. -/
def Dev.sendFlit (d : Dev) (p seq k : Nat) (o : OutMsg) : Dev :=
  d.emit p o.type o.vc (k + 1 = o.flits) (o.lenAt k) seq (o.badAt k) o.dest (some o) k

/-- Message `o` with this number in Ethernet frames of up to 16 flits; ACK and credits are not used (R290). -/
def Dev.sendFrames (d : Dev) (p num : Nat) (o : OutMsg) : Dev :=
  let e : EthOut := ⟨Config.nextHopMac o.dest, d.rd64 (rLnkEthMacLo p), nfld (3 * o.vc + 2) (3 * o.vc) (d.rd (rLnkEthPcp p)).toNat,
    d.rdFld (rLnkEthType p) 15 0⟩
  let flit (k : Nat) : FlitOut := ⟨o.type, o.vc, k + 1 = o.flits, o.lenAt k, num, o.badAt k, 0, 0, 0, o.dest, d.coord⟩
  d.each (List.range (cdiv o.flits 16)) (fun d j => d.send (.frame p e ((rangeFrom (16 * j) (min 16 (o.flits - 16 * j))).map flit) o))

/-- Send what waits first in `e`: the next flit of its message on Dreuri, the whole message on Ethernet. -/
def Dev.transmit (d : Dev) (p : Nat) (e : OutMsg × Nat) : Dev :=
  let s := d.port p
  let o := e.1
  if d.portEth p then
    let d := (d.add64 (rLnkTxBytesLo p) o.bytes).add64 rColWireBytesLo o.wire
    (d.setPort p { s with txSeq := (s.txSeq + 1) % 4096, wait := s.wait.erase e,
                          unacked := if o.acked then s.unacked ++ [(s.txSeq, 0, o)] else s.unacked }).sendFrames p s.txSeq o
  else
    let d := (d.add64 (rLnkTxBytesLo p) (o.lenAt e.2)).add64 rColWireBytesLo (if e.2 = 0 then o.wire else 0)
    let wait := if e.2 + 1 < o.flits then s.wait.replace e (o, e.2 + 1) else s.wait.erase e
    (d.setPort p { s with txSeq := (s.txSeq + 1) % 4096, credits := s.credits.modify o.vc (· - 1), wait := wait,
                          unacked := s.unacked ++ [(s.txSeq, e.2, o)] }).sendFlit p s.txSeq e.2 o

/-- Send what waits on port `p` and can go, VC 5 first (R291); `fuel` bounds the flits. -/
def Dev.pump (d : Dev) (p : Nat) : Nat → Dev
  | 0 => d
  | n + 1 =>
    let w := (d.port p).wait.filter (fun e => d.canSend p e.1)
    match (w.find? (fun e => e.1.vc = 5)).or w.head? with
    | some e => (d.transmit p e).pump p n
    | none => d

/-- Send what waits on port `p`: its credits, or what waits, bound the flits that can go. -/
def Dev.drain (d : Dev) (p : Nat) : Dev := d.pump p (512 + (d.port p).wait.length)

/-- Send `o` on port `p`, behind what waits on its channel. -/
def Dev.portSend (d : Dev) (p : Nat) (o : OutMsg) : Dev :=
  (d.setPort p { d.port p with wait := (d.port p).wait ++ [(o, 0)] }).drain p

/-- The ports that can carry traffic of hub `h` to coordinate `c` (R284, R286, R309): those of the hub that reach it directly, else
those of the other hub, else the hub's rack ports within the rack or its between-rack ports, else the other hub's. -/
def Dev.routes (d : Dev) (h c : Nat) : List Nat :=
  let up (h : Nat) (f : Nat → Bool) : List Nat :=
    (rangeFrom (12 * h) 12).filter (fun p => d.portUp p && f p && !(d.port p).silent.contains c)
  let direct (p : Nat) : Bool := !d.portSwitch p && d.portPartner p = c
  let role (p : Nat) : Bool := d.portRole p = (if coRack c = coRack d.coord then 1 else 2)
  ([up h direct, up (1 - h) direct, up h role, up (1 - h) role].find? (fun l => !l.isEmpty)).getD []

/-- The port that carries a message to its destination: the lowest of its routes (log 17); a PULL takes the one with the least
traffic (R310). -/
def Dev.portFor (d : Dev) (o : OutMsg) : Option Nat :=
  let l := d.routes o.hub o.dest
  match o.kind with
  | .pullRequest _ _ _ =>
    let load (p : Nat) : Nat := ((d.port p).wait.map (fun e => e.1.flits - e.2)).sum + (d.port p).unacked.length
    l.find? (fun p => l.all (fun q => load p ≤ load q))
  | _ => l.head?

/-- Send a message to its destination, or keep it until a port reaches it. -/
def Dev.sendTo (d : Dev) (o : OutMsg) : Dev :=
  match d.portFor o with
  | some p => d.portSend p o
  | none => { d with col := { d.col with unsent := d.col.unsent ++ [o] } }

/-- FAILOVER of every port: it is UP, and another enabled port with its partner, or its role, is not (R286). -/
def Dev.failStat (d : Dev) : Dev :=
  d.each (List.range 24) (fun d q =>
    let r := d.portRole q
    let on := d.portUp q && (List.range 24).any (fun p => p ≠ q && d.portOn p && !d.portUp p && d.portRole p = r
      && (r ≠ 0 || d.rdFld (rLnkExpect p) 15 0 = d.rdFld (rLnkExpect q) 15 0))
    d.wr (rLnkStatus q) (setBit 4 on (d.rd (rLnkStatus q))))

/-! ### The partner table (R293, R294) -/

/-- The entry of coordinate `c`. -/
def Dev.partner (d : Dev) (c : Nat) : PartnerSt := sget (fun _ => ⟨0, 0, 0, 0⟩) d.col.partners c

/-- Device ports that reach `c` directly and are UP. -/
def Dev.directPorts (d : Dev) (c : Nat) : List Nat :=
  (List.range 24).filter (fun p => d.portUp p && !d.portSwitch p && d.portPartner p = c)

/-- Set the entry of coordinate `c`, here and in the table at COL_PT_BASE. -/
def Dev.setPartner (d : Dev) (c : Nat) (e : PartnerSt) : Dev :=
  let e := { e with ports := ((d.directPorts c).map (2 ^ ·)).sum }
  let old := d.partner c
  let d := { d with col := { d.col with partners := sset (fun _ => ⟨0, 0, 0, 0⟩) d.col.partners c e } }
  if old.state = e.state && old.ports = e.ports && old.serial = e.serial then d
  else
    let i := coRack c * 72 + coTray c * 8 + coSlot c
    (d.writeMem ⟨none, colSrc 0⟩ (d.rd64 rColPtBaseLo + 16 * i)
      (clean (leBytes 4 (c + 65536 * e.state) ++ leBytes 4 e.ports ++ leBytes 8 e.serial))).2

/-- A valid flit has arrived from coordinate `c`, with its serial number when the flit carries one: a device that was not
ALIVE joins. -/
def Dev.hear (d : Dev) (c : Nat) (serial : Option Nat) (port : Nat) : Dev :=
  if c = d.coord then d
  else
    let e := d.partner c
    let s := serial.getD e.serial
    let d := d.setPartner c { e with state := 1, serial := s, heardAt := d.now }
    if e.state = 1 then d else d.colEvent 1 c port s

/-! ### States of a port (R285, R286, R289, R292) -/

/-- Set LNK_STATUS.STATE. -/
def Dev.setPortState (d : Dev) (p s : Nat) : Dev :=
  let c := d.portPartner p
  let sw := d.portSwitch p
  let d := (d.wrFld (rLnkStatus p) 2 0 s).failStat
  if sw || (d.partner c).state = 0 then d else d.setPartner c (d.partner c)

/-- The messages that port `p` still owes: those with a flit that is not acknowledged, then those that wait. -/
def PortSt.messages (s : PortSt) (eth : Bool) : List OutMsg :=
  let l := s.unacked.map (fun e => (e.2.2, if eth then 0 else e.2.1)) ++ s.wait
  l.foldl (fun out e => if e.1.ofPort || (e.2 ≠ 0 && out.contains e.1) then out else out ++ [e.1]) []

/-- Traffic that port `p` can no longer carry moves to another port: messages whose flits are not acknowledged go again
whole. -/
def Dev.reroute (d : Dev) (p : Nat) : Dev :=
  let s := d.port p
  (d.setPort p { PortSt.reset with paused := s.paused, silent := s.silent }).each (s.messages (d.portEth p)) Dev.sendTo

/-- Port `p` goes DOWN. -/
def Dev.portDown (d : Dev) (p : Nat) : Dev :=
  if d.portState p = 0 then d
  else
    let c := d.portPartner p
    let d := ((d.lnkErr p 3).setPortState p 0).colEvent 4 c p (d.rd64 (rLnkPartnerSerLo p) % 2 ^ 32)
    (d.ledger 8 (portSrc p) 0 0 0).reroute p

/-- What a port sends as its HELLO. -/
def Dev.ownHello (d : Dev) (p : Nat) : Hello :=
  { serial := BitVec.ofNat 64 (d.rd64 rLockSerialLo), coord := BitVec.ofNat 16 d.coord, port := BitVec.ofNat 5 p,
    switch := false, version := 1 }

/-- Send a HELLO on port `p`; a withdrawn device sends none. -/
def Dev.sayHello (d : Dev) (p : Nat) : Dev :=
  if d.withdrawn then d
  else (d.setPort p { d.port p with helloSent := true }).portSend p
    { vc := 5, dest := d.rdFld (rLnkExpect p) 15 0, hub := p / 12, poison := false, kind := .hello (d.ownHello p) }

/-- Port `p` completes training. -/
def Dev.portTrained (d : Dev) (p : Nat) : Dev :=
  if d.portOn p && d.portState p ≤ 1 then (d.setPortState p 2).sayHello p else d

/-- Port `p` retrains; what its replay buffer holds stays, and HELLOs are exchanged anew. -/
def Dev.retrain (d : Dev) (p : Nat) : Dev :=
  let d := ((d.lnkErr p 2).flw 4 2 (portSrc p) 0).addSat (rLnkRetrain p) 1
  (d.setPort p { d.port p with helloSent := false, helloGot := false }).setPortState p 1

/-- Has the partner received the port's own HELLO: one was sent, and none waits or is unacknowledged (R292; log 17)? -/
def PortSt.greeted (s : PortSt) : Bool :=
  s.helloSent && !s.wait.any (·.1.isHello) && !s.unacked.any (·.2.2.isHello)

/-- A port in HELLO comes UP once both HELLOs have been received (R292): what could not go before goes now. -/
def Dev.comeUp (d : Dev) (p : Nat) : Dev :=
  let s := d.port p
  if !(d.portState p = 2 && s.helloGot && s.greeted) then d
  else
    let c := d.portPartner p
    let n := d.rd64 (rLnkPartnerSerLo p)
    let d := (d.setPortState p 3).colEvent 3 c p (n % 2 ^ 32)
    let d := if d.portSwitch p then d else d.hear c (some n) p
    let l := d.col.unsent
    (({ d with col := { d.col with unsent := [] } }).drain p).each l Dev.sendTo

/-- The partner's HELLO on port `p`: the port goes on to UP, or is MISWIRED. -/
def Dev.helloIn (d : Dev) (p : Nat) (h : Hello) : Dev :=
  let w : Word := BitVec.ofNat 32 (h.coord.toNat + 65536 * h.port.toNat)
  let was := d.portState p
  let d := ((d.wr (rLnkPartner p) w).wr64 (rLnkPartnerSerLo p) h.serial.toNat)
  let d := d.wr (rLnkStatus p) (setBit 3 h.switch (d.rd (rLnkStatus p)))
  if w ≠ d.rd (rLnkExpect p) then
    if was = 4 then d
    else ((d.lnkErr p 4).raise rColErr 4 (fun d => d.wr rColErrInfo (BitVec.ofNat 32 (65536 * h.coord.toNat)))).setPortState p 4
      |>.colEvent 5 h.coord.toNat p (h.serial.toNat % 2 ^ 32) |>.reroute p
  else
    let d := if was = 4 then d.setPortState p 2 else d
    let d := d.setPort p { d.port p with helloGot := true }
    if was = 3 && !h.switch then d.hear h.coord.toNat (some h.serial.toNat) p else d

/-! ### Receiving flits (R287 to R290) -/

/-- ACK and credits of an accepted flit. -/
def Dev.flitAcks (d : Dev) (p : Nat) (f : FlitHdr) : Dev :=
  if d.portEth p then d
  else
    let s := d.port p
    let s := { s with
      unacked := s.unacked.filter (fun e => !seqLe e.1 f.ack.toNat)
      credits := s.credits.modify f.cvc.val (fun n => min 64 (n + f.credits.toNat)) }
    (d.setPort p s).drain p

/-- Send RETRY naming the flit expected, once until it comes. -/
def Dev.askRetry (d : Dev) (p : Nat) : Dev :=
  let s := d.port p
  if s.discarding then d
  else ((d.setPort p { s with discarding := true }).addSat (rLnkRetry p) 1).emit p 6 0 true 0 s.rxSeq false (d.portPartner p) none 0

/-- What a received flit is to its port: a HELLO; IDLE, CTRL or RETRY, which also come before the port is UP; or traffic. -/
inductive FlitKind
  | hello | bare | traffic
  deriving DecidableEq, Repr

/-- Does port `p` take flits of this kind in its state? A port that is not UP carries no traffic. -/
def Dev.takes (d : Dev) (p : Nat) (k : FlitKind) : Bool :=
  match d.portState p with
  | 3 => true
  | 2 => k ≠ .traffic
  | 4 => k ≠ .traffic
  | _ => false

/-- A flit that fails its CRC or lies in an uncorrectable codeword. -/
def Dev.flitBad (d : Dev) (p : Nat) (f : FlitHdr) : Dev :=
  let d := if f.crcOk then d else (d.lnkErr p 1).flw 4 1 (portSrc p) 0
  let d := if f.fec = .bad then ((d.lnkErr p 0).flw 4 0 (portSrc p) 0).addSat (rLnkFecUncorr p) 1 else d
  if d.portEth p then d else d.askRetry p

/-- A valid flit of `n` payload bytes is accepted: it acknowledges, its source counts as heard on this port, it acts, and an
Ethernet port acknowledges its message. -/
def Dev.accept (d : Dev) (p : Nat) (f : FlitHdr) (kind : FlitKind) (n : Nat) (serial : Option Nat) (act : Dev → Dev) : Dev :=
  let d := if f.fec = .corrected then d.add64 (rLnkFecCorrLo p) 1 else d
  let d := (d.add64 (rLnkRxBytesLo p) n).flitAcks p f
  let d := if kind = .hello || d.portState p ≠ 3 then d
    else
      let s := d.port p
      (d.setPort p { s with silent := s.silent.filter (· ≠ f.src.toNat) }).hear f.src.toNat serial p
  let d := act d
  let d := if d.portEth p && kind ≠ .bare then
      d.portSend p { vc := 5, dest := f.src.toNat, hub := p / 12, poison := false, kind := .ctrl f.seq.toNat }
    else d
  d.comeUp p

/-- A message of `k` flits and `n` payload bytes arrives on port `p`: on Dreuri it must be in order and its first flit within the
credits. -/
def Dev.flitIn (d : Dev) (p : Nat) (f : FlitHdr) (kind : FlitKind) (k n : Nat) (serial : Option Nat) (act : Dev → Dev) : Dev :=
  if !d.takes p kind then d
  else if !f.crcOk || f.fec = .bad then d.flitBad p f
  else if d.portEth p then d.accept p f kind n serial act
  else
    let s := d.port p
    if f.seq.toNat ≠ s.rxSeq then d.askRetry p
    else
      let s := { s with discarding := false, rxSeq := (s.rxSeq + k) % 4096 }
      if 64 ≤ s.used.getD f.vc.val 0 then ((d.setPort p s).lnkErr p 5).flw 4 5 (portSrc p) 0
      else (d.setPort p { s with used := s.used.modify f.vc.val (fun u => min 64 (u + k)) }).accept p f kind n serial act

/-- An IDLE flit: it takes no SEQ and no credit (log 17); a port that discards flits discards it too. -/
def Dev.idleIn (d : Dev) (p : Nat) (f : FlitHdr) : Dev :=
  if d.portEth p || !d.takes p .bare then d
  else if !f.crcOk || f.fec = .bad then d.flitBad p f
  else if (d.port p).discarding then d
  else d.accept p f .bare 0 none (fun d => d)

/-- Flits go again from SEQ; the eighth RETRY in a row that names one SEQ retrains the port. -/
def Dev.replay (d : Dev) (p seq : Nat) : Dev :=
  let s := d.port p
  let n := if s.retryNo ≠ 0 && s.retrySeq = seq then s.retryNo + 1 else 1
  let d := d.setPort p { s with retrySeq := seq, retryNo := if n = 8 then 0 else n }
  if n = 8 then d.retrain p
  else d.each (s.unacked.filter (fun e => seqLe seq e.1)) (fun d e => d.sendFlit p e.1 e.2.1 e.2.2)

/-- RETRY on port `p` (log 17: it is acted on while the port itself discards). -/
def Dev.retryIn (d : Dev) (p : Nat) (f : FlitHdr) : Dev :=
  if d.portEth p || !d.takes p .bare then d
  else if !f.crcOk || f.fec = .bad then d.flitBad p f
  else d.accept p f .bare 0 none (fun d => d.replay p f.seq.toNat)

/-- An IDLE flit on every Dreuri port that has an acknowledgement or credits to give: IDLE flits fill the time without
traffic (R287; those that would give nothing are not listed, log 17). -/
def Dev.sendIdles (d : Dev) : Dev :=
  d.each (List.range 24) (fun d p =>
    let s := d.port p
    if 2 ≤ d.portState p && !d.portEth p && (s.ackSent ≠ s.rxSeq || s.used.any (· ≠ 0)) then
      d.emit p 0 0 true 0 s.txSeq false (d.portPartner p) none 0
    else d)

end Sys2Proof.Machine
end

