-- ==== Sys2Proof/Machine/Epoch.lean ====
section
/-! DEFINITION. The training step's commit (11): the EPOCH command through the points of Table 11-3, its statistics, and the
writes of the epoch page. -/

namespace Sys2Proof.Machine

/-- The EPOCH in progress of partition `p`. -/
def Dev.epochSt (d : Dev) (p : Nat) : Option EpochSt := sget (fun _ => none) d.queue.epochs p
/-- Set it. -/
def Dev.setEpochSt (d : Dev) (p : Nat) (s : EpochSt) : Dev :=
  { d with queue := { d.queue with epochs := sset (fun _ => none) d.queue.epochs p (some s) } }

/-- The command of an EPOCH in progress. -/
def Dev.epochCmd (d : Dev) (s : EpochSt) : Option Inflight := d.queue.infl.find? (fun x => x.q = s.cmd.q.val && x.i = s.cmd.i)

/-! ### The descriptor (Table 11-2) -/

/-- The descriptor that 64 bytes spell. -/
def epochDesc (l : List Byte) : EpochDesc :=
  { group := leAt l 0 4, stats := (leAt l 4 4).testBit 0, timeout := leAt l 8 4, blocal := BitVec.ofNat 32 (leAt l 0xC 4),
    micro := BitVec.ofNat 32 (leAt l 0x10 4), gscale := BitVec.ofNat 32 (leAt l 0x14 4), alpha := leAt l 0x18 1,
    accmax := leAt l 0x19 1, out := leAt l 0x20 8 }

/-- Is an FP32 value above 0? -/
def above0 (w : Word) : Bool := Fp.zero.lt (Fp.ofBits w.toNat)

/-- Does it meet Table 11-2? -/
def epochDescOk (l : List Byte) : Bool :=
  let e := epochDesc l
  e.group < 64 && leAt l 4 4 < 4 && 1 ≤ e.timeout && e.timeout ≤ 1000000 && (!e.stats || (above0 e.blocal && e.micro ≠ 0))
    && above0 e.gscale && 1 ≤ e.alpha && e.alpha ≤ 16 && 1 ≤ e.accmax && leAt l 0x1A 6 = 0 && e.out % 64 = 0
    && (l.drop 0x28).all (· = 0)

/-! ### The step record (Table 11-8) -/

/-- Write the step record, if the descriptor names one. A field that nothing states is a free value (log 36). -/
def Dev.stepRecord (d : Dev) (p : Nat) (s : EpochSt) (status : Word) (tc n : Nat) (sums : Option (Word × Word))
    (stat : Option EpochStat) : Dev :=
  if s.desc.out = 0 then d
  else
    let f := d.free
    let d := { d with free := d.free + 4 }
    let w (x : Word) : List Byte := leBytes 4 x.toNat
    let sl := (sums.map (·.1)).getD (Config.stepField f)
    let sg := (sums.map (·.2)).getD (Config.stepField (f + 1))
    let g2 := (stat.map (·.g2)).getD (Config.stepField (f + 2))
    let trs := (stat.map (·.trs)).getD (Config.stepField (f + 3))
    let b := (stat.map (·.b)).getD 0x7FC00000
    let rec_ := w s.local_.epoch ++ w (d.rd (rColEpoch p)) ++ w status ++ leBytes 4 n ++ leBytes 8 tc ++ w sl ++ w sg ++ w g2
      ++ w trs ++ w b ++ w (d.rd (rColNsEma p)) ++ w (d.rd (rColNsSuggest p)) ++ leBytes 12 0
    (d.writeMem ⟨some p, colSrc (s.cmd.q.val % 2)⟩ s.desc.out (clean rec_)).2

/-- End an EPOCH's command. -/
def Dev.epochFinish (d : Dev) (s : EpochSt) (r : Result) : Dev :=
  match d.epochCmd s with
  | some x => d.finish x r
  | none => d

/-! ### Timeout and loss (R263, R295) -/

/-- The result will not arrive: LOST, ABORTED with cause UNIT; what arrives after that changes nothing. -/
def Dev.epochLost (d : Dev) (p : Nat) : Dev :=
  match d.epochSt p with
  | none => d
  | some s =>
    if s.phase ≠ .gathering then d
    else
      let w := setBit 5 true s.local_.status
      let d := ((d.epFlag p 5).wr (rColEpLast p) w).setEpochSt p { s with phase := .lost }
      let d := { d with col := { d.col with
        epochRecs := d.col.epochRecs.filter (·.1 ≠ p), gaveUp := sset (fun _ => 0) d.col.gaveUp p d.now } }
      let d := d.stepRecord p s w 0 (d.levels p s.desc.group).n none none
      d.epochFinish s { aborted 0x27 (colSrc (s.cmd.q.val % 2)) with
        result := w.toNat % 65536, progress := (d.rd (rColEpoch p)).toNat }

/-- EPOCH_TIMEOUT (R263): at D + TIMEOUT. -/
def execEpochTimeout (part : Fin 8) (s : State) :=
  State.run (fun d => match d.epochSt part.val with
    | some e => if e.d + e.desc.timeout * 1000 ≤ d.now then d.epochLost part.val else d
    | none => d) s

/-! ### The all-reduce (R260) -/

/-- Put a member's record among those that have arrived for partition `p`; a record that is sent again replaces its earlier
copy. One for an EPOCH that has been given up is dropped: it comes while that EPOCH stands given up, or its D, the proposal less
COL_EP_LEAD, is not after the moment it was given up (log 18). -/
def Dev.epochRec (d : Dev) (p : Nat) (r : EpochRecord) : Dev :=
  let old := sget (fun _ => 0) d.col.gaveUp p
  if (d.epochSt p).any (fun s => s.phase = .lost) || (old ≠ 0 && r.proposal.toNat ≤ old + d.epochLead p) then d
  else { d with col := { d.col with
    epochRecs := d.col.epochRecs.filter (fun e => !(e.1 = p && e.2.rank = r.rank)) ++ [(p, r)] } }

/-- Send a partition's record to every other member of its group. -/
def Dev.epochTell (d : Dev) (p g : Nat) (r : EpochRecord) : Dev :=
  let l := d.levels p g
  d.each ((List.range l.n).filter (· ≠ r.rank)) (fun d k =>
    let m := l.member k
    if m.1 = d.coord then d.epochRec m.2 r
    else d.sendTo { vc := 5, dest := m.1, hub := p % 2, poison := false, kind := .epoch m.2 r })

/-- An EPOCH command that has been dispatched: its descriptor is read and checked, its record completed and sent. -/
def Dev.epochStart (d : Dev) (x : Inflight) : Dev :=
  match d.epochSt x.part with
  | none => d
  | some s =>
    if s.phase ≠ .held then d
    else
      let p := x.part
      let src := colSrc (x.q % 2)
      let no (d : Dev) : Dev := d.finish x { aborted 3 src with progress := (d.rd (rColEpoch p)).toNat }
      match d.readStruct (x.acc src) 64 (x.opd 0) 64 with
      | (none, d) => no d
      | (some l, d) =>
        let e := epochDesc l
        if !epochDescOk l || !d.groupOn p e.group then no d
        else
          let veto := (leAt l 4 4).testBit 1
          let d := if veto then d.epFlag p 2 else d
          let r := s.local_
          let r := { r with rank := (d.levels p e.group).own d.coord p,
                            status := if veto then setBit 2 true r.status else r.status }
          let d := d.setCmd x.q x.i (fun y => { y with phase := .working })
          let d := (d.setEpochSt p { s with desc := e, local_ := r, phase := .gathering }).epochTell p e.group r
          if bitOf 1 (d.rd (rColGState p e.group)) then d.epochLost p else d

/-- EPOCH (R259, R260). -/
def execEpoch (c : CmdRef) (s : State) := State.run (fun d => d.work c (fun x => x.cls = 11) (fun x d => d.epochStart x)) s

/-- EPOCH_RECORD_RECEIVE (R260): a member's record arrives on port `p`. -/
def execEpochRecordReceive (rx : Rx) (r : Fin 8 × EpochRecord) (s : State) :=
  State.run (fun d => d.flitIn rx.port.val rx.hdr .traffic 1 240 none (fun d => d.epochRec r.1.val r.2)) s

/-- The reduction of all members' records, in rank order. -/
def epochReduce (n : Nat) (rs : List EpochRecord) : EpochRes :=
  let by_ := (List.range n).filterMap (fun k => rs.find? (·.rank = k))
  let sum (f : EpochRecord → Word) : Word :=
    match by_.map (fun r => Fp.ofBits (f r).toNat) with
    | [] => 0
    | a :: t => BitVec.ofNat 32 (t.foldl Fp.add32 a).toBits
  let w := by_.foldl (fun w r => w ||| r.status) 0
  let same := by_.all (fun r => (by_.head?.map (·.epoch)) = some r.epoch)
  { status := setBit 4 (bitOf 4 w || !same) w, tc := by_.foldl (fun t r => max t r.proposal.toNat) 0, sl := sum (·.sl),
    sg := sum (·.sg), members := n }

/-- The result arrives once every member's record has; LATE is set when that is after TC. -/
def Dev.epochResult (d : Dev) (p : Nat) : Dev :=
  match d.epochSt p with
  | none => d
  | some s =>
    let n := (d.levels p s.desc.group).n
    let rs := s.local_ :: (d.col.epochRecs.filter (·.1 = p)).map (·.2)
    if s.phase ≠ .gathering || !(List.range n).all (fun k => rs.any (·.rank = k)) then d
    else
      let r := epochReduce n rs
      let d := { d with col := { d.col with epochRecs := d.col.epochRecs.filter (fun e => !(e.1 = p && e.2.rank < n)) } }
      let late := decide (r.tc < d.now)
      (d.wr (rColEpLast p) (setBit 7 late r.status)).setEpochSt p { s with phase := .result r }

/-- EPOCH_RESULT (R260). -/
def execEpochResult (part : Fin 8) (s : State) := State.run (fun d => d.epochResult part.val) s

/-! ### The commit (R261, R265) -/

/-- Is a reduced status clean? -/
def cleanStatus (w : Word) : Bool := fld 5 0 w = 0

/-- The statistics of R265, and the registers that hold them. -/
def Dev.epochStats (d : Dev) (p : Nat) (e : EpochDesc) (r : EpochRes) : EpochStat × Dev :=
  let n := Fp.ofNat r.members
  let f (w : Word) : Fp := Fp.ofBits w.toNat
  let micro := (Fp.ofNat e.micro.toNat).r32
  let bs := f e.blocal
  let bb := n.mul32 bs
  let gg := (f e.gscale).mul32 (f e.gscale)
  let gs2 := (gg.mul32 (f r.sl)).div32 n
  let gb2 := (gg.mul32 (f r.sg)).div32 (n.mul32 n)
  let g2 := ((bb.mul32 gb2).sub32 (bs.mul32 gs2)).div32 (bb.sub32 bs)
  let one := Fp.ofNat 1
  let trs := (gs2.sub32 gb2).div32 ((one.div32 bs).sub32 (one.div32 bb))
  let b := trs.div32 g2
  let w (x : Fp) : Word := BitVec.ofNat 32 x.toBits
  if !Fp.zero.lt g2 || !Fp.zero.lt trs || !b.isFin then (⟨w g2, w trs, 0x7FC00000⟩, d.addSat (rColNsSkip p) 1)
  else
    let old := f (d.rd (rColNsEma p))
    let ema := if old.isNan then b else old.add32 ((b.sub32 old).mul32 (Fp.pow2 (-(e.alpha : Int))))
    let sug := max 1 (min (e.accmax : Int) (ema.div32 (n.mul32 micro)).ceil)
    let d := ((d.wr (rColNsLast p) (w b)).wr (rColNsEma p) (w ema)).wr (rColNsSuggest p) (BitVec.ofInt 32 sug)
    (⟨w g2, w trs, w b⟩, d)

/-- At TC, or at a later R: with a clean status COL_EPOCH increments; the flags and the accumulators are cleared. -/
def Dev.epochCommit (d : Dev) (p : Nat) : Dev :=
  match d.epochSt p with
  | none => d
  | some s => match s.phase with
    | .result r =>
      if d.now < r.tc then d
      else
        let ok := cleanStatus r.status
        let d := if ok then
            ((d.wr (rColEpoch p) (d.rd (rColEpoch p) + 1)).wr64 (rColEpTcLo p) r.tc).addSat (rColEpCommits p) 1
          else d
        let t := if ok && s.desc.stats && decide (2 ≤ r.members) then
            let x := d.epochStats p s.desc r
            (some x.1, x.2)
          else (none, d)
        (t.2.epochClear p).setEpochSt p { s with phase := .switched r ok t.1 }
    | _ => d

/-- EPOCH_COMMIT (R261, R262). -/
def execEpochCommit (part : Fin 8) (s : State) := State.run (fun d => d.epochCommit part.val) s

/-- At TC + 0.5 µs: the step record is written and the command's result is set. -/
def Dev.epochComplete (d : Dev) (p : Nat) : Dev :=
  match d.epochSt p with
  | none => d
  | some s => match s.phase with
    | .switched r ok stat =>
      if d.now < r.tc + 500 || !(d.epochCmd s).any (fun x => x.phase = .working) then d
      else
        let d := d.stepRecord p s (d.rd (rColEpLast p)) (if ok then r.tc else 0) r.members (some (r.sl, r.sg)) stat
        let e := (d.rd (rColEpoch p)).toNat
        if ok then d.epochFinish s { Result.fresh with progress := e }
        else d.epochFinish s { aborted 0x27 (colSrc (s.cmd.q.val % 2)) with
          progress := e, result := r.status.toNat % 65536 }
    | _ => d

/-- EPOCH_COMPLETE (R260 to R262). -/
def execEpochComplete (part : Fin 8) (s : State) := State.run (fun d => d.epochComplete part.val) s

/-! ### Writes of the epoch page (R264, R271) -/

/-- Has partition `p` a command in flight? -/
def Dev.partBusy (d : Dev) (p : Nat) : Bool := d.queue.infl.any (fun x => x.part = p && x.phase ≠ .early)

/-- A write to COL_EPOCH_SET: from a host or the management controller, with no command of the partition in flight. -/
def Dev.epochSet (d : Dev) (o : Origin) (p : Nat) (v : Word) : Dev :=
  let src := srcOf o
  let from_ : Bool := match o with
    | .host _ => true
    | .mgmt => true
    | _ => false
  if !from_ || d.partBusy p then d.accessErr 6 src 4 (0x3F0000000000 + rColEpochSet p)
  else
    let old := d.rd (rColEpoch p)
    ((d.wr (rColEpoch p) v).wr (rColEpFlags p) 0).flw 3 0x40 src (old.toNat + 2 ^ 32 * v.toNat)

/-- A write to COL_EP_CTL by source `src`: GATEP and GATEF wait for an EPOCH in flight, VETO sets its flag, CLEAR clears the
flags while no command of the partition is in flight. -/
def Dev.epCtl (d : Dev) (src p : Nat) (v : Word) : Dev :=
  let g := fld 15 0 v
  let d := if d.epochBusyOf p then { d with col := { d.col with gates := sset (fun _ => none) d.col.gates p (some g) } }
    else d.wrFld (rColEpCtl p) 15 0 g
  let d := if bitOf 16 v then d.epFlag p 2 else d
  if !bitOf 17 v then d
  else if d.partBusy p then d.accessErr 6 src 4 (0x3F0000000000 + rColEpCtl p)
  else
    let old := d.rd (rColEpFlags p)
    (d.wr (rColEpFlags p) 0).flw 3 0x40 src old.toNat

/-- A write to COL_NS_CTL: RESET empties the EMA. -/
def Dev.nsCtl (d : Dev) (p : Nat) (v : Word) : Dev :=
  if bitOf 0 v then (d.wr (rColNsEma p) 0x7FC00000).wr (rColNsSuggest p) 0 else d

end Sys2Proof.Machine
end

