-- ==== Sys2Proof/Machine/Collect.lean ====
section
/-! DEFINITION. Collectives (12): groups, the checks of R273 and R274, the stages of R278 with the reduction of R279, PERMUTE
(R283), and what a lost member ends (R295). -/

namespace Sys2Proof.Machine

/-! ### Groups (R276, R277, R295) -/

/-- May group `g` of partition `p` be enabled with these registers (R277)? -/
def Dev.groupOk (d : Dev) (p g : Nat) : Bool :=
  let w := d.rd (rColGCtl p g)
  let own := d.coord
  let ax (k lim : Nat) (r : Nat) (c : Nat) : Bool :=
    !bitOf k w || (let a := axis (d.rd r)
      a.2.1 ≠ 0 && a.2.2 ≠ 0 && a.1 + (a.2.1 - 1) * a.2.2 ≤ lim && (axisList true (d.rd r) 0).contains c)
  let l := d.levels p g
  ax 16 7 (rColGAxslot p g) (coSlot own) && ax 17 8 (rColGAxtray p g) (coTray own) && ax 18 255 (rColGAxrack p g) (coRack own)
    && l.parts.contains p && l.parts.all (· < d.parts) && l.n ≤ 32768

/-- READY follows what has been heard. -/
def Dev.groupReady (d : Dev) (p g : Nat) : Dev :=
  match sget (fun _ => none) d.col.groups (p * 64 + g) with
  | none => d
  | some s => if (d.remotes p g).all s.heard.contains then
      d.wr (rColGState p g) (setBit 0 true (d.rd (rColGState p g))) else d

/-- Forget what has arrived for a group. -/
def Dev.dropArrivals (d : Dev) (p g : Nat) : Dev :=
  { d with col := { d.col with arrivals := d.col.arrivals.filter (fun a => !(a.part = p && a.group = g)) } }

/-- EN = 1 is written with the group's registers already set. -/
def Dev.groupEnable (d : Dev) (p g : Nat) : Dev :=
  if !d.groupOk p g then d.colErr 2 p g d.coord
  else
    let l := d.levels p g
    let d := d.wr (rColGCtl p g) (setBit 0 true (d.rd (rColGCtl p g)))
    let d := d.wr (rColGInfo p g) (BitVec.ofNat 32 (l.n - 1 + 65536 * l.own d.coord p))
    let regs := [d.rd (rColGCtl p g), d.rd (rColGAxslot p g), d.rd (rColGAxtray p g), d.rd (rColGAxrack p g), d.rd (rColGWeight p g)]
    let d := ((d.wr (rColGSig p g) (Config.groupSig regs)).wr (rColGState p g) 0).wr (rColGColls p g) 0
    let d := { d with col := { d.col with groups := sset (fun _ => none) d.col.groups (p * 64 + g) (some ⟨[], d.now⟩) } }
    d.groupReady p g

/-- EN = 0 is written: what has arrived for the group is forgotten. -/
def Dev.groupDisable (d : Dev) (p g : Nat) : Dev :=
  let d := d.dropArrivals p g
  let d := d.wr (rColGCtl p g) (setBit 0 false (d.rd (rColGCtl p g)))
  let d := d.wr (rColGState p g) (setBit 0 false (d.rd (rColGState p g)))
  { d with col := { d.col with groups := sset (fun _ => none) d.col.groups (p * 64 + g) none } }

/-- A write to COL_G_CTL: while EN = 1 only EN = 0 acts. -/
def Dev.groupCtl (d : Dev) (p g : Nat) (v : Word) : Dev :=
  if d.groupOn p g then (if bitOf 0 v then d else d.groupDisable p g)
  else
    let d := d.wr (rColGCtl p g) (BitVec.ofNat 32 (fld 15 8 v * 256 + fld 18 16 v * 65536))
    if bitOf 0 v then d.groupEnable p g else d

/-! ### A collective in flight -/

/-- The collective of command `q`, `i`. -/
def Dev.coll? (d : Dev) (q : Nat) (i : Word) : Option CollSt := d.col.colls.find? (fun c => c.q = q && c.i = i)
/-- Replace it. -/
def Dev.setColl (d : Dev) (c : CollSt) : Dev :=
  { d with col := { d.col with colls := mapIf (fun e => e.q = c.q && e.i = c.i) (fun _ => c) d.col.colls } }

/-- COL_STATUS counts the collectives in flight. -/
def Dev.colCount (d : Dev) : Dev := d.wrFld rColStatus 10 0 (min d.col.colls.length 2047)

/-- End a collective: its arrivals are dropped and its command has this result. -/
def Dev.collEnd (d : Dev) (c : CollSt) (r : Result) : Dev :=
  let d := { d with col := { d.col with
    colls := d.col.colls.filter (fun e => !(e.q = c.q && e.i = c.i)),
    arrivals := d.col.arrivals.filter (fun a => !(a.part = c.part && a.group = c.group && a.number = c.number)) } }
  let d := d.colCount
  match d.queue.infl.find? (fun x => x.q = c.q && x.i = c.i) with
  | some x => d.finish x r
  | none => d

/-- Stages completed by both halves; for PERMUTE the bytes written into the tensor (R281). -/
def CollSt.progress (c : CollSt) : Nat :=
  match c.perm with
  | some s => (s.got.map (·.2)).sum - (s.bufs.map (·.2.2)).sum
  | none => min c.half0 c.half1

/-- PROGRESS of a collective: a REDUCESCATTER's delivery to the owners is no stage (R278). -/
def Dev.collProgress (d : Dev) (c : CollSt) : Nat :=
  let l := d.levels c.part c.group
  if c.op = 2 then
    min c.progress ([l.parts.length, l.slots.length, l.trays.length, l.racks.length].filter (1 < ·)).length
  else c.progress

/-- DST, or a PERMUTE's tensor, is undefined once data may have moved: its bytes and marks are free values (R281; log 27). -/
def Dev.collSpoil (d : Dev) (c : CollSt) : Dev :=
  match if c.perm.isSome then c.src else c.dst with
  | none => d
  | some t =>
    if !c.begun && !c.perm.any (·.moving) then d
    else
      let f := d.fresh
      (f.2.writeMem ⟨some c.part, colSrc (c.q % 2)⟩ t.base
        ((List.range t.footprint).map (fun k => (Config.collByte f.1 k, Config.collMark f.1 k)))).2

/-- End a collective ABORTED with cause UNIT. -/
def Dev.collFail (d : Dev) (c : CollSt) : Dev :=
  (d.collSpoil c).collEnd c { aborted 0x27 (colSrc (c.q % 2)) with progress := d.collProgress c, addr := c.bad.getD 0 }

/-- Group `g` of partition `p` has lost a member (R295). -/
def Dev.groupLose (d : Dev) (p g coord : Nat) : Dev :=
  let w := d.rd (rColGState p g)
  let d := if bitOf 1 w then d else d.wr (rColGState p g) (setFld 31 16 coord (setBit 1 true w))
  let d := d.each (d.col.colls.filter (fun c => c.part = p && c.group = g)) (fun d c => (d.collFail c).colErr 1 p g coord)
  match d.epochSt p with
  | some s => if s.desc.group = g then d.epochLost p else d
  | none => d

/-! ### Wire values (R279) -/

/-- The wire format: 0 BF16, 1 MXFP8 E4M3, 2 the tensor's own. -/
def CollSt.wire (c : CollSt) : Fmt :=
  match fld 3 2 c.flags with
  | 0 => .bf16
  | 1 => .mxE4m3
  | _ => (c.src.map (·.fmt)).getD .fp32

/-- Narrow 32 values to the wire: element codes, and for MX the scale code after them. -/
def wireEnc (f : Fmt) (l : List Fp) : List Byte :=
  if f.isMx then
    let sc := f.scaleCode l
    packElems f.bits (l.map (fun x => if sc = 0xFF then 0 else (f.narrowMx .nearest sc x).1)) ++ [BitVec.ofNat 8 sc]
  else l.flatMap (fun x => leBytes (f.bits / 8) (f.narrow .nearest false x).1)

/-- Widen the wire bytes of 32 values. -/
def wireDec (f : Fmt) (bs : List Byte) : List Fp :=
  if f.isMx then
    let sc := leAt bs (4 * f.bits) 1
    (List.range 32).map (fun k => (Elem.widen f .nearest ⟨leAt bs 0 (4 * f.bits) / 2 ^ (f.bits * k) % 2 ^ f.bits, sc, false⟩).1)
  else (List.range 32).map (fun k => f.elem (leAt bs (f.bits / 8 * k) (f.bits / 8)))

/-- A wrapping INT32 value. -/
def wrap32 (x : Fp) : Fp := Fp.ofInt (signed 32 (x.floor % 2 ^ 32).toNat)

/-- One combining operation: SUM, MAX, MIN; an INT32 SUM wraps. -/
def redOp (int : Bool) (op : Nat) (a b : Fp) : Fp :=
  match op with
  | 0 => if int then wrap32 (a.add b) else a.add32 b
  | 1 => if int then (if a.lt b then b else a) else vecMax a b
  | _ => if int then (if b.lt a then b else a) else vecMin a b

/-- Combine the participants' cells, left to right, and narrow the result to the wire; poison of any of them stays, on all 32
elements where they share a scale (R280). -/
def redCells (f : Fmt) (op : Nat) (cs : List Cell) : Cell :=
  let vals := match cs.map (fun c => wireDec f c.bytes) with
    | [] => []
    | a :: t => t.foldl (fun acc l => List.zipWith (redOp f.isInt op) acc l) a
  let bad := cs.foldl (fun b c => b ||| c.bad) 0
  { idx := (cs.head?.map (·.idx)).getD 0, bytes := wireEnc f vals, bad := if f.isMx && bad ≠ 0 then 2 ^ 32 - 1 else bad }

/-! ### Cells of a collective (R278) -/

/-- Elements of a shard. -/
def shardLen (n m r : Nat) : Nat := min ((r + 1) * cdiv n m) n - min (r * cdiv n m) n

/-- Is the operation a reduction? -/
def CollSt.reduces (c : CollSt) : Bool := c.op = 0 || c.op = 2

/-- The format of the bytes that move. -/
def CollSt.cellFmt (c : CollSt) : Fmt := if c.reduces then c.wire else
  match c.src, c.dst with
  | some s, _ => s.fmt
  | none, some t => if c.base.isSome then .mxE4m3 else t.fmt
  | none, none => .fp32

/-- Numbers that the cells of a gather's shard may take. -/
def cellsPer (n m : Nat) : Nat := cdiv (cdiv n m) 32 + 1

/-- First element and count of cell `k`; `m` is the number of shards that the data has. A cell of a gather is what a unit of 32
elements and a shard have in common; of MX data, a block of the shard. -/
def CollSt.cellEls (c : CollSt) (m k : Nat) : Nat × Nat :=
  if c.reduces then (32 * k, min 32 (c.n - 32 * k))
  else
    let r := k / cellsPer c.n m
    let j := k % cellsPer c.n m
    let a := r * cdiv c.n m
    let e := a + shardLen c.n m r
    if c.cellFmt.isMx then (a + 32 * j, min (a + 32 * j + 32) e - (a + 32 * j))
    else
      let u := a / 32 + j
      (max a (32 * u), min e (32 * u + 32) - max a (32 * u))

/-- The cells of shard `r` of a gather, rising. -/
def CollSt.shardKs (c : CollSt) (m r : Nat) : List Nat :=
  ((List.range (cellsPer c.n m)).map (r * cellsPer c.n m + ·)).filter (fun k => (c.cellEls m k).2 ≠ 0)

/-- Bytes of cell `k`. -/
def CollSt.cellLen (c : CollSt) (m k : Nat) : Nat :=
  let f := c.cellFmt
  if c.reduces then (if f.isMx then 4 * f.bits + 1 else 4 * f.bits)
  else if f.isMx then 4 * f.bits + 1 else f.bits / 8 * (c.cellEls m k).2

/-- Half of a cell: hub 0 serves the first floor(u / 2) units. -/
def CollSt.cellHalf (c : CollSt) (m k : Nat) : Nat := if (c.cellEls m k).1 / 32 < cdiv c.n 32 / 2 then 0 else 1

/-- The bytes of a cell with their marks. -/
def markCell (f : Fmt) (c : Cell) : Marked :=
  let w := f.bits
  c.bytes.zipIdx.map (fun e =>
    (e.1, if f.isMx && e.2 = 4 * w then c.bad = 2 ^ 32 - 1
      else (List.range 32).any (fun k => c.bad.testBit k && k * w < 8 * e.2 + 8 && 8 * e.2 < (k + 1) * w)))

/-- The cell that marked bytes spell. -/
def unmarkCell (f : Fmt) (idx : Nat) (l : Marked) : Cell :=
  let w := f.bits
  let m (j : Nat) : Bool := (l.getD j (0, false)).2
  let all := f.isMx && (m (4 * w))
  let bad := ((List.range 32).map (fun k =>
    if all || (rangeFrom (k * w / 8) (cdiv (k * w % 8 + w) 8)).any (fun j => m j) then 2 ^ k else 0)).sum
  { idx := idx, bytes := l.map (·.1), bad := bad }

/-- Cut marked bytes into the cells `ks`. -/
def CollSt.cutCells (c : CollSt) (m : Nat) : List Nat → Marked → List Cell
  | [], _ => []
  | k :: t, l => unmarkCell c.cellFmt k (l.take (c.cellLen m k)) :: c.cutCells m t (l.drop (c.cellLen m k))

/-! ### Stages (R278) -/

/-- The levels along which members differ: 0 package, 1 tray, 2 rack, 3 between racks. -/
def Levels.active (l : Levels) : List Nat :=
  (List.range 4).filter (fun k => 1 < [l.parts.length, l.slots.length, l.trays.length, l.racks.length].getD k 0)
/-- Participants of a level. -/
def Levels.size (l : Levels) (k : Nat) : Nat := [l.parts.length, l.slots.length, l.trays.length, l.racks.length].getD k 0

/-- Slice `i` of `m` of units [lo, hi). -/
def slice (lo hi i m : Nat) : Nat × Nat := (lo + i * (hi - lo) / m, lo + (i + 1) * (hi - lo) / m)

/-- The units that the member with indices `idx` serves after `s` reduce stages, out of [lo, hi). -/
def Levels.rangeAt (l : Levels) (idx : List Nat) (s : Nat) (r : Nat × Nat) : Nat × Nat :=
  (l.active.take s).foldl (fun r k => slice r.1 r.2 (idx.getD k 0) (l.size k)) r

/-- What a stage does: cells sent to each rank, cells received from each rank in order of rank, and whether they are
combined. -/
structure StagePlan where
  send : List (Nat × List Nat)
  recv : List (Nat × List Nat)
  combine : Bool
  keep : List Nat        -- cells of its own that the member still holds after the stage
  deriving DecidableEq, Repr

/-- Units of half `h`. -/
def CollSt.halfUnits (c : CollSt) (h : Nat) : Nat × Nat :=
  let u := cdiv c.n 32
  if h = 0 then (0, u / 2) else (u / 2, u)

/-- Cells of the shards of these ranks in half `h`, rising. -/
def CollSt.shardCells (c : CollSt) (m h : Nat) (ranks : List Nat) : List Nat :=
  (ranks.flatMap (c.shardKs m)).filter (fun k => c.cellHalf m k = h)

/-- Ranks. -/
def Levels.ranks (l : Levels) : List Nat := List.range l.n

/-- Does `b` agree with `a` on every level outside `ks`? -/
def agreeOff (ks a b : List Nat) : Bool := (List.range 4).all (fun k => ks.contains k || a.getD k 0 = b.getD k 0)

/-- Shards of the data: N for an ALLGATHER, one otherwise. -/
def CollSt.shards (c : CollSt) (l : Levels) : Nat := if c.op = 1 then l.n else 1

/-- Stage `s` of half `h` for rank `me`; none after the last. -/
def CollSt.plan (c : CollSt) (l : Levels) (me h s : Nat) : Option StagePlan :=
  let act := l.active
  let n := act.length
  let idx := l.idx me
  let line (k : Nat) : List Nat := (List.range (l.size k)).map (fun j => l.rankOf (idx.set k j))
  let span (r : Nat × Nat) : List Nat := rangeFrom r.1 (r.2 - r.1)
  let hu := c.halfUnits h
  let m := c.shards l
  if c.reduces then
    if s < n then
      let k := act.getD s 0
      let r := l.rangeAt idx s hu
      let mine := span (slice r.1 r.2 (idx.getD k 0) (l.size k))
      let ps := (line k).zipIdx
      some ⟨(ps.filter (fun e => e.1 ≠ me)).map (fun e => (e.1, span (slice r.1 r.2 e.2 (l.size k)))),
        ps.map (fun e => (e.1, mine)), true, mine⟩
    else if c.op = 0 then
      if s < 2 * n then
        let t := 2 * n - 1 - s
        let k := act.getD t 0
        let r := l.rangeAt idx t hu
        let ps := (line k).zipIdx.filter (fun e => e.1 ≠ me)
        let mine := span (slice r.1 r.2 (idx.getD k 0) (l.size k))
        some ⟨ps.map (fun e => (e.1, mine)), ps.map (fun e => (e.1, span (slice r.1 r.2 e.2 (l.size k)))), false, mine⟩
      else none
    else if s = n && 0 < n then
      -- each shard goes to its owner
      let has (r : Nat) : List Nat := span (l.rangeAt (l.idx r) n hu)
      let needs (r : Nat) (k : Nat) : Bool :=
        let a := min (r * cdiv c.n l.n) c.n
        let e := shardLen c.n l.n r
        e ≠ 0 && a / 32 ≤ k && k ≤ (a + e - 1) / 32
      let others := l.ranks.filter (· ≠ me)
      some ⟨others.map (fun r => (r, (has me).filter (needs r))), others.map (fun r => (r, (has r).filter (needs me))), false,
        (has me).filter (needs me)⟩
    else none
  else if n ≤ s then none
  else if c.op = 1 then
    let k := act.getD (n - 1 - s) 0
    let done := act.drop (n - s)
    let holds (r : Nat) : List Nat := c.shardCells m h (l.ranks.filter (fun o => agreeOff done (l.idx r) (l.idx o)))
    let ps := (line k).filter (· ≠ me)
    some ⟨ps.map (fun r => (r, holds me)), ps.map (fun r => (r, holds r)), false, holds me⟩
  else
    -- a pass outward from ROOT
    let k := act.getD s 0
    let root := l.idx (fld 31 16 c.flags)
    let all := c.shardCells 1 h [0]
    let near := agreeOff (act.take (s + 1)) idx root
    if !near then some ⟨[], [], false, []⟩
    else if idx.getD k 0 = root.getD k 0 then some ⟨((line k).filter (· ≠ me)).map (fun r => (r, all)), [], false, all⟩
    else some ⟨[], [(l.rankOf (idx.set k (root.getD k 0)), all)], false, []⟩

/-! ### Sending and receiving (R280, R287) -/

/-- Put bytes among the arrivals; bytes that are sent again replace their earlier copy. -/
def Dev.arrive (d : Dev) (a : Arrival) : Dev :=
  let same (b : Arrival) : Bool := b.part = a.part && b.group = a.group && b.number = a.number && b.stage = a.stage
    && b.half = a.half && b.rank = a.rank && b.off = a.off && b.bytes.length = a.bytes.length
  { d with col := { d.col with arrivals := d.col.arrivals.filter (fun b => !same b) ++ [a] } }

/-- Does an arrival concern a collective that has not ended: its group is enabled and its number is that of one in flight or
still to come? -/
def Dev.wanted (d : Dev) (p g : Nat) (number : Word) : Bool :=
  d.groupOn p g && (d.col.colls.any (fun c => c.part = p && c.group = g && c.number = number)
    || reached32 number (d.rd (rColGColls p g)))

/-- Messages of marked bytes from offset `off` on: of up to 64 KiB, and of one flit where poison is carried. -/
def messages (off : Nat) : Nat → Marked → List (Nat × Marked)
  | 0, _ => []
  | fuel + 1, l =>
    if l.isEmpty then []
    else
      let n := if (l.take 65536).any (·.2) then 224 else 65536
      (off, l.take n) :: messages (off + n) fuel (l.drop n)

/-- The virtual channel of a collective's traffic (R291). -/
def CollSt.vc (c : CollSt) (gather : Bool) : Nat :=
  if bitOf 6 c.flags then fld 9 7 c.flags else if c.op = 4 then 2 else if gather then 1 else 0

/-- Send bytes of a stage to member `rank`. -/
def Dev.collSend (d : Dev) (c : CollSt) (l : Levels) (me stage h rank vc off : Nat) (bs : Marked) : Dev :=
  let t := l.member rank
  d.each (messages off (bs.length + 1) bs) (fun d e =>
    if t.1 = d.coord then
      if !d.groupOn t.2 c.group || d.wanted t.2 c.group c.number then
        d.arrive { part := t.2, group := c.group, number := c.number, op := c.op, flags := c.flags, n := c.n, stage := stage,
                   half := h, rank := me, off := e.1, bytes := e.2 }
      else d
    else
      let m : MsgHdr := {
        group := Fin.ofNat 64 c.group, part := Fin.ofNat 8 t.2, stage := BitVec.ofNat 4 stage, op := BitVec.ofNat 4 c.op,
        half := h = 1, number := c.number, off := BitVec.ofNat 64 e.1, rank := me, flags := c.flags, n := c.n }
      d.sendTo { vc := vc, dest := t.1, hub := h, poison := e.2.any (·.2), kind := .data m (e.2.map (·.1)) })

/-- Tell every other member one byte about this collective: 1 it has begun, a PERMUTE's check passed; 0 the check failed; 2 an
arrival matched no entry (log 16). What is told carries OP, FLAGS and n, so that every member sees a pair that disagrees. -/
def Dev.collTell (d : Dev) (c : CollSt) (l : Levels) (me v : Nat) : Dev :=
  d.each (l.ranks.filter (· ≠ me)) (fun d r => d.collSend c l me 15 0 r (c.vc false) 0 [(BitVec.ofNat 8 v, false)])

/-- Has every other member begun a collective that pairs with this one? -/
def Dev.collPaired (d : Dev) (c : CollSt) (l : Levels) (me : Nat) : Bool :=
  (l.ranks.filter (· ≠ me)).all (fun r => d.col.arrivals.any (fun a => a.part = c.part && a.group = c.group
    && a.number = c.number && a.stage = 15 && a.rank = r && a.bytes.head?.any (fun b => b.1.toNat = 1)))

/-- The first `need` bytes that have arrived from `rank` for a stage, once they are all there. -/
def Dev.arrived (d : Dev) (c : CollSt) (stage h rank need : Nat) : Option Marked :=
  let l := d.col.arrivals.filter (fun a => a.part = c.part && a.group = c.group && a.number = c.number && a.stage = stage
    && a.half = h && a.rank = rank)
  let m := l.foldl (fun (m : ByteMap) a => m.put ((rangeFrom a.off a.bytes.length).zip a.bytes)) []
  if (List.range need).all (fun k => m.any (·.1 = k)) then some ((List.range need).map m.at) else none

/-- Stages that half `h` has completed. -/
def CollSt.stageOf (c : CollSt) (h : Nat) : Nat := if h = 0 then c.half0 else c.half1
/-- Cells that half `h` holds. -/
def CollSt.cellsOf (c : CollSt) (h : Nat) : List Cell := if h = 0 then c.cells0 else c.cells1
/-- Set them. -/
def CollSt.putHalf (c : CollSt) (h s : Nat) (cs : List Cell) : CollSt :=
  if h = 0 then { c with half0 := s, cells0 := cs } else { c with half1 := s, cells1 := cs }

/-- Send what the current stage of half `h` sends. -/
def Dev.collEnter (d : Dev) (c : CollSt) (l : Levels) (me h : Nat) : Dev :=
  match c.plan l me h (c.stageOf h) with
  | none => d
  | some pl => d.each pl.send (fun d e =>
      let cs := (c.cellsOf h).filter (fun x => e.2.contains x.idx)
      d.collSend c l me (c.stageOf h) h e.1 (c.vc (!pl.combine)) 0 (cs.flatMap (markCell c.cellFmt)))

/-- Advance half `h` over every stage whose data has arrived; `fuel` bounds the stages. -/
def Dev.collAdvance (d : Dev) (c : CollSt) (l : Levels) (me h : Nat) : Nat → CollSt × Dev
  | 0 => (c, d)
  | fuel + 1 => match c.plan l me h (c.stageOf h) with
    | none => (c, d)
    | some pl =>
      let m := c.shards l
      let got := pl.recv.map (fun e =>
        if e.1 = me then some ((c.cellsOf h).filter (fun x => e.2.contains x.idx))
        else (d.arrived c (c.stageOf h) h e.1 (e.2.map (c.cellLen m)).sum).map (c.cutCells m e.2))
      if got.any (·.isNone) then (c, d)
      else
        let got := got.filterMap id
        let own := (c.cellsOf h).filter (fun x => pl.keep.contains x.idx)
        let cs := if pl.combine then
            pl.keep.map (fun k => redCells c.wire (fld 5 4 c.flags) (got.filterMap (fun l => l.find? (·.idx = k))))
          else (own ++ got.flatten).mergeSort (fun a b => a.idx ≤ b.idx)
        let c := c.putHalf h (c.stageOf h + 1) cs
        (d.collEnter c l me h).collAdvance c l me h fuel

/-! ### The contribution and the result (R279, R280) -/

/-- The rank of the collective's member. -/
def Dev.collRank (d : Dev) (c : CollSt) : Nat := (d.levels c.part c.group).own d.coord c.part

/-- Read the member's contribution into cells. -/
def Dev.collRead (d : Dev) (x : Inflight) (c : CollSt) (l : Levels) (me : Nat) : CollSt × Dev :=
  match c.src with
  | none => (c, d)
  | some t =>
    let acc := x.acc (colSrc (c.q % 2))
    let r := d.readElems acc 4096 t t.base (List.range t.count)
    let els := r.1.els
    if c.reduces then
      let f := c.wire
      let vals := els.map (fun e => ((Elem.widen t.fmt .nearest e).1, e.bad))
      let exact := if t.fmt = .int32 then els.map (fun e => (e.exact t.fmt, e.bad)) else vals
      let cells := (chunksOf 32 (els.length + 1) exact).zipIdx.map (fun e =>
        let bad := (e.1.zipIdx.map (fun b => if b.1.2 then 2 ^ b.2 else 0)).sum
        ({ idx := e.2, bytes := wireEnc f (e.1.map (·.1)), bad := if f.isMx && bad ≠ 0 then 2 ^ 32 - 1 else bad } : Cell))
      let c := { c with
        begun := true, bad := r.1.bad, lsum := if bitOf 0 c.flags then reduceRow 3 (vals.map (·.1)) else Fp.zero
        cells0 := cells.filter (fun e => c.cellHalf 1 e.idx = 0), cells1 := cells.filter (fun e => c.cellHalf 1 e.idx = 1) }
      (c, r.2)
    else
      let m := c.shards l
      let ks := c.shardKs m (if c.op = 1 then me else 0)
      let org := ((ks.head?.map (fun k => (c.cellEls m k).1))).getD 0
      let w := t.fmt.bits
      let pieces := ks.map (fun k => ((els.drop ((c.cellEls m k).1 - org)).take (c.cellEls m k).2, k))
      let cells := pieces.map (fun e =>
        let bytes := if t.fmt.isMx then
            packElems w ((e.1.map (·.code)) ++ List.replicate (32 - e.1.length) 0) ++ [BitVec.ofNat 8 ((e.1.head?.map (·.sc)).getD 0)]
          else e.1.flatMap (fun b => leBytes (w / 8) b.code)
        let bad := (e.1.zipIdx.map (fun b => if b.1.bad then 2 ^ b.2 else 0)).sum
        ({ idx := e.2, bytes := bytes, bad := bad } : Cell))
      let c := { c with
        begun := true, bad := r.1.bad,
        cells0 := cells.filter (fun e => c.cellHalf m e.idx = 0), cells1 := cells.filter (fun e => c.cellHalf m e.idx = 1) }
      (c, r.2)

/-- The elements that a cell holds: index, code or value, poison. -/
def CollSt.cellOut (c : CollSt) (m : Nat) (e : Cell) : List (Nat × Elem × Fp × Bool) :=
  let f := c.cellFmt
  let a := c.cellEls m e.idx
  let vals := wireDec f e.bytes
  (List.range a.2).map (fun k =>
    let code := leAt e.bytes 0 e.bytes.length / 2 ^ (f.bits * k) % 2 ^ f.bits
    (a.1 + k, ⟨code, leAt e.bytes (4 * f.bits) 1, false⟩, vals.getD k Fp.zero, e.bad.testBit k))

/-- Write cells of MX blocks as they stand. -/
def mxRaw (t : Desc) (es : List (Nat × Elem × Fp × Bool)) : ByteMap :=
  let w := t.fmt.bits
  let blocks := sortNat (es.map (fun e => e.1 / 32))
  let of_ (b : Nat) := es.filter (fun e => e.1 / 32 = b)
  blocks.flatMap (fun b =>
    let l := of_ b
    let code (j : Nat) : Nat := ((l.find? (fun e => e.1 % 32 = j)).map (fun e => e.2.1.code)).getD 0
    let bad := l.any (fun e => e.2.2.2)
    (packElems w ((List.range 32).map code)).zipIdx.map (fun e => (t.base + b * 4 * w + e.2, (e.1, bad))))
    ++ blocks.map (fun b => (t.base + t.scaleOff + b,
      (BitVec.ofNat 8 (((of_ b).head?.map (fun e => e.2.1.sc)).getD 0), (of_ b).any (fun e => e.2.2.2))))

/-- Write DST (R274, R279) and end the collective. -/
def Dev.collFinish (d : Dev) (x : Inflight) (c : CollSt) (l : Levels) (me : Nat) : Dev :=
  let m := c.shards l
  let acc := x.acc (colSrc (c.q % 2))
  let es := ((c.cells0 ++ c.cells1).mergeSort (fun a b => a.idx ≤ b.idx)).flatMap (c.cellOut m)
  let a := me * cdiv c.n l.n
  let es := if c.op = 2 then
      (es.filter (fun e => a ≤ e.1 && e.1 < a + shardLen c.n l.n me)).map (fun e => (e.1 - a, e.2)) else es
  let d := if bitOf 0 c.flags then
      let p := reduceRow 3 (es.map (fun e => e.2.2.1))
      let p := if c.op = 0 then p.div32 (Fp.ofNat l.n) else p
      let old := sget (fun _ => (Fp.zero, Fp.zero)) d.col.norms c.part
      d.setNorms c.part (old.1.add c.lsum, old.2.add p)
    else d
  let rnd : RndCtx := ⟨0, 0, 0, 1⟩
  let w : (Option Nat × Bool) × Dev := match c.dst with
    | none => ((none, false), d)
    | some t =>
      let t1 := { t with rnd := 1 }
      match c.base with
      | some b =>
        let r := d.readElems acc 4096 b b.base (es.map (·.1))
        let os := (es.zip r.1.els).map (fun e =>
          ({ idx := [e.1.1], v := .num ((Elem.widen b.fmt .nearest e.2).1.add32 e.1.2.2.1), bad := e.1.2.2.2 || e.2.bad } : OutEl))
        let y := r.2.writeElems acc 4096 t1 t.base rnd os
        ((first r.1.bad y.1.bad, os.any (·.bad)), y.2)
      | none =>
        if c.reduces then
          let y := d.writeElems acc 4096 t1 t.base rnd (es.map (fun e => ⟨[e.1], .num e.2.2.1, e.2.2.2⟩))
          ((y.1.bad, es.any (fun e => e.2.2.2)), y.2)
        else if t.fmt.isMx then
          let y := d.writeBytes acc 4096 ((mxRaw t es).mergeSort (fun a b => a.1 ≤ b.1))
          ((y.1.1, es.any (fun e => e.2.2.2)), y.2)
        else
          let y := d.writeElems acc 4096 t1 t.base rnd (es.map (fun e => ⟨[e.1], .raw e.2.1.code, e.2.2.2⟩))
          ((y.1.bad, es.any (fun e => e.2.2.2)), y.2)
  let bad := first c.bad w.1.1
  w.2.collEnd c { Result.fresh with
    status := if w.1.2 || w.1.1.isSome then .poisoned else .done, progress := d.collProgress c, addr := bad.getD 0 }

/-! ### PERMUTE (R283) -/

/-- A move list of `n` entries. -/
def moveList (l : List Byte) (n : Nat) : List MoveE :=
  (List.range n).map (fun k => ⟨leAt l (32 * k) 8, leAt l (32 * k + 8) 8, leAt l (32 * k + 16) 4, leAt l (32 * k + 20) 2⟩)

/-- Do no two ranges of a list meet? -/
def apart : List MoveE → Bool
  | [] => true
  | e :: t => t.all (fun f => !meets e.off e.len f.off f.len) && apart t

/-- An incoming move whose destination meets the source of an outgoing move. -/
def PermSt.conflict (s : PermSt) (e : MoveE) : Bool := s.outs.any (fun o => meets e.off e.len o.off o.len)

/-- The member's check of its lists, over a tensor of `size` bytes in a group of `n`. -/
def PermSt.ok (s : PermSt) (size n : Nat) (raw : List Byte) : Bool :=
  let entry (e : MoveE) : Bool := e.len % 64 = 0 && 64 ≤ e.len && e.off + e.len ≤ size && e.peer < n
  s.outs.all entry && s.ins.all entry && apart s.outs && apart s.ins
    && (List.range (raw.length / 32)).all (fun k => ((raw.drop (32 * k + 0x16)).take 10).all (· = 0))
    && ((s.ins.filter s.conflict).map (·.len)).sum ≤ 2 * s.size

/-- Does a message of this PERMUTE to member `rank` that meets [off, off + n) wait to be sent or acknowledged? -/
def Dev.permOut (d : Dev) (c : CollSt) (l : Levels) (rank off n : Nat) : Bool :=
  let t := l.member rank
  let hit (o : OutMsg) : Bool := o.dest = t.1 && (match o.kind with
    | .data m bs => m.part.val = t.2 && m.group.val = c.group && m.number = c.number && m.op.toNat = 4 && m.stage = 1
        && meets m.off.toNat bs.length off n
    | _ => false)
  d.col.unsent.any hit || d.col.ports.any (fun e => e.2.wait.any (fun w => hit w.1) || e.2.unacked.any (fun u => hit u.2.2))

/-- Has the outgoing move been sent and acknowledged? -/
def Dev.moveSent (d : Dev) (c : CollSt) (l : Levels) (e : MoveE) : Bool := !d.permOut c l e.peer e.poff e.len

/-- The tensor's address of byte `off`. -/
def CollSt.at (c : CollSt) (off : Nat) : Nat := (c.src.map (·.base)).getD 0 + off

/-- Place one arrival: straight into the tensor, or into staging when its move is a conflicting one. -/
def Dev.permPlace (d : Dev) (acc : Acc) (c : CollSt) (s : PermSt) (e : MoveE) (a : Arrival) : CollSt × Dev :=
  let n := a.bytes.length
  let bad := a.bytes.any (·.2)
  let c := { c with bad := first c.bad (if bad then some (c.at a.off) else none) }
  let s := { s with got := s.got ++ [(a.off, n)] }
  if !s.conflict e then
    let w := d.writeMem acc (c.at a.off) a.bytes
    ({ c with perm := some s, bad := first c.bad w.1 }, w.2)
  else
    -- staging fills buffer 0, then buffer 1
    let k := min n (if s.fill < s.size then s.size - s.fill else n)
    let put := [(s.fill, a.off, k), (s.fill + k, a.off + k, n - k)].filter (fun b => b.2.2 ≠ 0)
    let w := d.writeMem acc (s.stage + s.fill) a.bytes
    ({ c with perm := some { s with fill := s.fill + n, bufs := s.bufs ++ put }, bad := first c.bad w.1 }, w.2)

/-- A PERMUTE goes on: its check is told and heard, its moves are sent, and what has arrived is placed. -/
def Dev.permRun (d : Dev) (x : Inflight) (c : CollSt) (l : Levels) (me : Nat) (s : PermSt) : Dev :=
  let acc := x.acc (colSrc (c.q % 2))
  let mine := d.col.arrivals.filter (fun a => a.part = c.part && a.group = c.group && a.number = c.number)
  let said (v : Nat) : Bool := mine.any (fun a => a.stage = 15 && a.bytes.head?.any (fun b => b.1.toNat = v))
  if said 0 then d.collEnd c { aborted 3 (colSrc (c.q % 2)) with progress := 0 }
  else if said 2 then (d.collFail c).colErr 3 c.part c.group d.coord
  else if !s.moving then
    if !d.collPaired c l me then d.setColl c
    else
      let r := s.outs.foldl (fun (r : CollSt × Dev) e =>
        let y := r.2.readMem acc (c.at e.off) e.len
        ({ r.1 with bad := first r.1.bad y.1.bad }, y.2.collSend c l me 1 0 e.peer (c.vc false) e.poff y.1.data)) (c, d)
      r.2.setColl { r.1 with perm := some { s with moving := true } }
  else
    -- place arrivals; the first that matches no entry ends every member's command
    let data := mine.filter (·.stage = 1)
    let entry (a : Arrival) : Option MoveE :=
      s.ins.find? (fun e => e.peer = a.rank && e.off ≤ a.off && a.off + a.bytes.length ≤ e.off + e.len)
    if data.any (fun a => (entry a).isNone) then
      ((d.collTell c l me 2).collFail c).colErr 3 c.part c.group d.coord
    else
      let d := { d with col := { d.col with arrivals := d.col.arrivals.filter (fun a =>
        !(a.part = c.part && a.group = c.group && a.number = c.number && a.stage = 1)) } }
      let r := data.foldl (fun (r : CollSt × Dev) a =>
        match entry a, r.1.perm with
        | some e, some s => if s.got.contains (a.off, a.bytes.length) then r else r.2.permPlace acc r.1 s e a
        | _, _ => r) (c, d)
      let s := r.1.perm.getD s
      let need := (s.ins.map (·.len)).sum
      if (s.got.map (·.2)).sum = need && s.bufs.isEmpty && s.outs.all (r.2.moveSent c l) then
        r.2.collEnd r.1 { Result.fresh with
          status := if r.1.bad.isSome then .poisoned else .done, progress := r.1.progress, addr := r.1.bad.getD 0 }
      else r.2.setColl r.1

/-- The first staging buffer that holds data and whose moves have gone: it is copied into the tensor. -/
def Dev.permCopy (d : Dev) (x : Inflight) (c : CollSt) (s : PermSt) : Dev :=
  let l := d.levels c.part c.group
  let acc := x.acc (colSrc (c.q % 2))
  let held (b : Nat) : List (Nat × Nat × Nat) := s.bufs.filter (fun e => e.1 / s.size = b)
  let free (b : Nat) : Bool := held b ≠ [] && (held b).all (fun e =>
    (s.outs.filter (fun o => meets o.off o.len e.2.1 e.2.2)).all (d.moveSent c l))
  match [0, 1].find? free with
  | none => d
  | some b =>
    let r := (held b).foldl (fun (r : Option Nat × Dev) e =>
      let y := r.2.readMem acc (s.stage + e.1) e.2.2
      let w := y.2.writeMem acc (c.at e.2.1) y.1.data
      (first r.1 (first (y.1.bad.map (fun _ => c.at e.2.1)) w.1), w.2)) (c.bad, d)
    r.2.setColl { c with bad := r.1, perm := some { s with bufs := s.bufs.filter (fun e => e.1 / s.size ≠ b) } }

/-! ### Checks (R273 to R275) -/

/-- The bank in use of a tensor that meets R274 rule 1. -/
def collTensor (epoch : Word) (t : Desc) : Option Desc :=
  if t.rank = 1 && t.cls = 0 && 1 ≤ t.region then some (t.banked epoch) else none

/-- Load a tensor descriptor; address 0 names none. The outer option is none when it fails. -/
def Dev.collDesc (d : Dev) (acc : Acc) (epoch : Word) (a : Nat) : Option (Option Desc) × Dev :=
  if a = 0 then (some none, d)
  else match d.loadDesc acc a with
    | (none, d) => (none, d)
    | (some t, d) => ((collTensor epoch t).map some, d)

/-- Elements of an optional tensor. -/
def optCount (t : Option Desc) : Nat := (t.map (·.count)).getD 0

/-- FLAGS of an operation (Tables 12-1 and 12-2, R274 rules 3 and 5). -/
def collFlagsOk (op n : Nat) (w : Word) : Bool :=
  let red := op = 0 || op = 2
  fld 15 10 w = 0 && fld 3 2 w ≠ 3 && fld 5 4 w ≠ 3 && (bitOf 6 w || fld 9 7 w = 0)
    && (red || (fld 3 2 w = 0 && fld 5 4 w = 0 && !bitOf 0 w)) && (!bitOf 0 w || fld 5 4 w = 0)
    && (op = 1 || !bitOf 1 w) && (if op = 3 then fld 31 16 w < n else fld 31 16 w = 0)

/-- R255, for a COLL with STATS. -/
def statsOk (t : Desc) : Bool :=
  let b := t.count * t.esize
  (t.fmt = .fp32 || t.fmt = .bf16) && ((isHbm t.base && isHbm (t.base + b - 1)) || (isGallery t.base && isGallery (t.base + b - 1)))
    && 0x400000 ≤ b && b ≤ 0x40000000 && b % 65536 = 0

/-- The tensors of an operation in a group of `n`, member `me`: 0 when they agree, else the cause. -/
def collShape (op n me : Nat) (w : Word) (src dst base : Option Desc) : Nat :=
  let fmt (t : Option Desc) : Option Fmt := t.map (·.fmt)
  let fl (t : Option Desc) : Bool := fmt t = some .fp32 || fmt t = some .bf16
  let cnt := optCount
  let bad3 : Bool := match op with
    | 0 => src.isNone || dst.isNone
    | 1 => dst.isNone
    | 2 => src.isNone
    | 3 => dst.isNone || (src.isSome ≠ (fld 31 16 w = me))
    | _ => src.isNone || dst.isSome
  let fmts : Bool := match op with
    | 0 => fmt src = fmt dst && (fl src || (fmt src = some .int32 && fld 3 2 w = 2)) && cnt src % 32 = 0
    | 2 => (dst.isNone || fmt src = fmt dst) && (fl src || (fmt src = some .int32 && fld 3 2 w = 2)) && cnt src % 32 = 0
    | 1 => if bitOf 1 w then
        (src.isNone || fmt src = some .mxE4m3 || fmt src = some .mxE5m2) && fl dst && fmt base = fmt dst
      else (src.isNone || fmt src = fmt dst) && (!(dst.any (·.fmt.isMx)) || cdiv (cnt dst) n % 32 = 0)
    | 3 => (src.isNone || fmt src = fmt dst) && (!(dst.any (·.fmt.isMx)) || cdiv (cnt dst) n % 32 = 0)
    | _ => true
  let sizes : Bool := match op with
    | 0 => cnt src = cnt dst
    | 1 => cnt src = shardLen (cnt dst) n me && (base.isNone || cnt base = cnt dst)
    | 2 => cnt dst = shardLen (cnt src) n me
    | 3 => src.isNone || cnt src = cnt dst
    | _ => true
  if bad3 || !fmts || (bitOf 0 w && !src.any statsOk) then 3 else if sizes then 0 else 5

/-- A COLL that has been dispatched: its descriptor is read, it waits while its group is neither READY nor LOST (R277), it takes its
number, and it is checked. -/
def Dev.collBegin (d : Dev) (x : Inflight) : Dev :=
  let src := colSrc (x.q % 2)
  let acc := x.acc src
  let p := x.part
  let held := d
  match d.readStruct acc 64 (x.opd 0) 64 with
  | (none, d) => d.finish x (aborted 3 src)
  | (some b, d) =>
    let g := leAt b 0 4
    let w : Word := BitVec.ofNat 32 (leAt b 4 4)
    let aux (k : Nat) := leAt b (0x18 + 8 * k) 8
    if 64 ≤ g then d.finish x (aborted 3 src)
    else if !d.groupOn p g then (d.finish x (aborted 0x27 src)).colErr 0 p g d.coord
    else if d.rdFld (rColGState p g) 1 0 = 0 then held
    else
      let number := d.rd (rColGColls p g)
      let d := d.wr (rColGColls p g) (number + 1)
      let l := d.levels p g
      let me := l.own d.coord p
      let op := x.op
      if bitOf 1 (d.rd (rColGState p g)) then (d.finish x (aborted 0x27 src)).colErr 1 p g (d.rdFld (rColGState p g) 31 16)
      else
        let accum := op = 1 && bitOf 1 w
        let auxOk := (op = 4 || ((rangeFrom 1 4).all (fun k => aux k = 0) && (accum || aux 0 = 0))) && (!accum || aux 0 ≠ 0)
        let t1 := d.collDesc acc x.epoch (leAt b 8 8)
        let t2 := t1.2.collDesc acc x.epoch (leAt b 0x10 8)
        let t3 := if accum then t2.2.collDesc acc x.epoch (aux 0) else (some none, t2.2)
        match t1.1, t2.1, t3.1 with
        | some s, some t, some e =>
          let d := t3.2
          let cause := if !auxOk || !collFlagsOk op l.n w then 3 else collShape op l.n me w s t e
          if cause ≠ 0 then d.finish x (aborted cause src)
          else
            let n := if op = 4 then 0 else if op = 2 then optCount s else optCount t
            let c : CollSt := {
              q := x.q, i := x.i, part := p, group := g, number := number, op := op, flags := w, n := n, begun := false,
              src := s, dst := t, base := e, half0 := 0, half1 := 0, cells0 := [], cells1 := [], lsum := Fp.zero, bad := none,
              perm := none }
            let add (c : CollSt) (d : Dev) : Dev :=
              let d := ({ d with col := { d.col with colls := d.col.colls ++ [c] } }).colCount
              d.setCmd x.q x.i (fun y => { y with phase := .working })
            if op ≠ 4 then (add c d).collTell c l me 1
            else
              let n1 := nfld 31 0 (aux 2)
              let n2 := nfld 63 32 (aux 2)
              let stg : Bool := aux 3 % 4096 = 0 && aux 4 % 4096 = 0 && (aux 3 = 0 || isSump (aux 3))
              let o := if n1 = 0 then (some [], d) else d.readStruct acc 1 (aux 0) (32 * n1)
              let i := if n2 = 0 then (some [], o.2) else o.2.readStruct acc 1 (aux 1) (32 * n2)
              match o.1, i.1 with
              | some lo, some li =>
                let ps : PermSt := ⟨moveList lo n1, moveList li n2, aux 3, aux 4, false, 0, [], []⟩
                let c := { c with perm := some ps }
                let size := (s.map (·.footprint)).getD 0
                let good := stg && ps.ok size l.n (lo ++ li) && (isSump (aux 3) || !ps.ins.any ps.conflict)
                if good then (add c i.2).collTell c l me 1
                else (i.2.collTell c l me 0).finish x (aborted 3 src)
              | _, _ => (i.2.collTell c l me 0).finish x (aborted 3 src)
        | _, _, _ => t3.2.finish x (aborted 3 src)

/-- A collective goes on once its group is READY. -/
def Dev.collRun (d : Dev) (x : Inflight) : Dev :=
  match d.coll? x.q x.i with
  | none => d
  | some c =>
    let p := c.part
    let l := d.levels p c.group
    let me := d.collRank c
    let other := d.col.arrivals.any (fun a => a.part = p && a.group = c.group && a.number = c.number
      && (a.op ≠ c.op || a.flags ≠ c.flags || a.n ≠ c.n))
    if other then (d.collFail c).colErr 0 p c.group d.coord
    else if !bitOf 0 (d.rd (rColGState p c.group)) then d
    else match c.perm with
      | some s => d.permRun x c l me s
      | none =>
        let b := if c.begun then (c, d)
          else
            let r := d.collRead x { c with begun := true } l me
            (r.1, (r.2.collEnter r.1 l me 0).collEnter r.1 l me 1)
        let h0 := b.2.collAdvance b.1 l me 0 10
        let h1 := h0.2.collAdvance h0.1 l me 1 10
        let c := h1.1
        if (c.plan l me 0 c.half0).isNone && (c.plan l me 1 c.half1).isNone && h1.2.collPaired c l me then h1.2.collFinish x c l me
        else h1.2.setColl c

/-- One step of a COLL of operation `op`: commands of a partition begin in dispatch order, since they take their numbers so
(R275). -/
def Dev.collWork (d : Dev) (c : CmdRef) (op : Nat) : Dev :=
  d.work c (fun x => x.cls = 2 && x.op = op) (fun x d =>
    if x.phase = .working then d.collRun x
    else if d.queue.infl.any (fun y => y.cls = 2 && y.part = x.part && y.ord < x.ord && y.phase = .dispatched) then d
    else
      let d := d.collBegin x
      if (d.coll? x.q x.i).isSome then d.collRun x else d)

/-- ALLREDUCE (R273). -/
def execAllreduce (c : CmdRef) (s : State) := State.run (fun d => d.collWork c 0) s
/-- ALLGATHER (R273). -/
def execAllgather (c : CmdRef) (s : State) := State.run (fun d => d.collWork c 1) s
/-- REDUCESCATTER (R273). -/
def execReducescatter (c : CmdRef) (s : State) := State.run (fun d => d.collWork c 2) s
/-- BROADCAST (R273). -/
def execBroadcast (c : CmdRef) (s : State) := State.run (fun d => d.collWork c 3) s
/-- PERMUTE (R283). -/
def execPermute (c : CmdRef) (s : State) := State.run (fun d => d.collWork c 4) s

/-- PERMUTE_BUFFER_COPY (R283). -/
def execPermuteBufferCopy (c : CmdRef) (s : State) :=
  State.run (fun d => d.work c (fun x => x.cls = 2 && x.op = 4) (fun x d => match d.coll? x.q x.i with
    | some e => match e.perm with
      | some p => d.permCopy x e p
      | none => d
    | none => d)) s

end Sys2Proof.Machine
end

