-- ==== Sys2Proof/Machine/LinkCmds.lean ====
section
/-! DEFINITION. The commands of links and time (R284 to R296), lost members (R293, R295), withdrawal (R306) and the end of a clock's
holdover (R319). -/

namespace Sys2Proof.Machine

/-! ### Ports -/

/-- PORT_TRAINED (R292). -/
def execPortTrained (p : Fin 24) (s : State) := State.run (fun d => d.portTrained p.val) s
/-- HELLO_REPEAT (R292). -/
def execHelloRepeat (p : Fin 24) (s : State) := State.run (fun d => if d.portState p.val = 2 then d.sayHello p.val else d) s
/-- HELLO (R285, R292). -/
def execHello (p : Fin 24) (f : FlitHdr) (h : Hello) (s : State) :=
  State.run (fun d => d.flitIn p.val f .hello 1 16 none (fun d => d.helloIn p.val h)) s
/-- IDLE (R287, R288). -/
def execIdle (p : Fin 24) (f : FlitHdr) (s : State) := State.run (fun d => d.idleIn p.val f) s
/-- RETRY (R289). -/
def execRetry (p : Fin 24) (f : FlitHdr) (s : State) := State.run (fun d => d.retryIn p.val f) s
/-- RETRAIN_TIMEOUT (R289). -/
def execRetrainTimeout (p : Fin 24) (s : State) := State.run (fun d => if d.portState p.val = 1 then d.portDown p.val else d) s
/-- PORT_DOWN (R286). -/
def execPortDown (p : Fin 24) (s : State) := State.run (fun d => d.portDown p.val) s

/-! ### Ethernet (R290) -/

/-- The partner acknowledges message `msg` of port `p`. -/
def Dev.ctrlIn (d : Dev) (p msg : Nat) : Dev :=
  if !d.portEth p then d
  else d.setPort p { d.port p with unacked := (d.port p).unacked.filter (·.1 ≠ msg) }

/-- CTRL (R290). -/
def execCtrl (p : Fin 24) (f : FlitHdr) (msg : Nat) (s : State) :=
  State.run (fun d => d.flitIn p.val f .bare 1 0 none (fun d => d.ctrlIn p.val msg)) s

/-- A destination that is treated as silent on port `p` (R290): its messages take another route (R286). -/
def Dev.goSilent (d : Dev) (p c : Nat) : Dev :=
  let s := d.port p
  let mine (o : OutMsg) : Bool := o.dest = c
  let l := (s.unacked.map (·.2.2)).filter mine ++ (s.wait.map (·.1)).filter mine
  let d := d.setPort p { s with
    silent := insNat c s.silent, unacked := s.unacked.filter (fun e => !mine e.2.2), wait := s.wait.filter (fun e => !mine e.1) }
  d.each (l.filter (fun o => !o.ofPort)) Dev.sendTo

/-- A message of an Ethernet port was not acknowledged in time: it is sent again whole; after 8 resends its destination is
silent on that port. -/
def Dev.resend (d : Dev) (p msg : Nat) : Dev :=
  let s := d.port p
  match s.unacked.find? (·.1 = msg) with
  | none => d
  | some e =>
    if !d.portEth p || !d.portUp p then d
    else if e.2.1 < 8 then
      let d := d.setPort p { s with unacked := mapIf (fun (u : Nat × Nat × OutMsg) => u.1 = msg) (fun u => (u.1, u.2.1 + 1, u.2.2)) s.unacked }
      ((d.lnkErr p 6).flw 4 6 (portSrc p) 0).sendFrames p msg e.2.2
    else d.goSilent p e.2.2.dest

/-- RESEND_TIMEOUT (R290). -/
def execResendTimeout (p : Fin 24) (msg : Nat) (s : State) := State.run (fun d => d.resend p.val msg) s

/-- A pause frame of IEEE 802.1Qbb: it pauses, or resumes, the priorities of its mask. -/
def Dev.pfc (d : Dev) (p prios : Nat) (pause : Bool) : Dev :=
  if !d.portEth p || !d.portUp p then d
  else
    let s := d.port p
    let m := (List.range 8).map (fun k => if (if prios.testBit k then pause else s.paused.testBit k) then 2 ^ k else 0)
    (d.setPort p { s with paused := m.sum }).drain p

/-- PRIORITY_FLOW_CONTROL (R290). -/
def execPriorityFlowControl (p : Fin 24) (prios : BitVec 8) (pause : Bool) (s : State) :=
  State.run (fun d => d.pfc p.val prios.toNat pause) s

/-! ### Heartbeats (R277, R293, R294) -/

/-- The ports of every usable path to coordinate `c`. -/
def Dev.paths (d : Dev) (c : Nat) : List Nat :=
  let role := if coRack c = coRack d.coord then 1 else 2
  (List.range 24).filter (fun p => d.portUp p && ((!d.portSwitch p && d.portPartner p = c) || d.portRole p = role))

/-- Send a heartbeat to every remote device of an enabled group and to every direct partner, on every usable path, with the
signatures of the groups concerned. -/
def Dev.heartbeats (d : Dev) : Dev :=
  if d.withdrawn then d
  else
    let gs := d.groupsOn
    let direct := ((List.range 24).filter (fun p => d.portUp p && !d.portSwitch p)).map d.portPartner
    d.each (sortNat (gs.flatMap (fun g => d.remotes g.1 g.2) ++ direct)) (fun d c =>
      let sigs := (gs.filter (fun g => (d.remotes g.1 g.2).contains c)).map (fun g => (g.1, g.2, d.rd (rColGSig g.1 g.2)))
      d.each (d.paths c) (fun d p =>
        d.portSend p { vc := 5, dest := c, hub := p / 12, poison := false, kind := .heartbeat (d.rd64 rLockSerialLo) sigs }))

/-- HEARTBEAT_SEND (R293). -/
def execHeartbeatSend (s : State) := State.run Dev.heartbeats s

/-- A heartbeat from coordinate `c`: its groups' signatures against the device's own. -/
def Dev.heartbeatIn (d : Dev) (c : Nat) (sigs : List (Fin 8 × Fin 64 × Word)) : Dev :=
  d.each d.groupsOn (fun d g =>
    if !(d.remotes g.1 g.2).contains c then d
    else
      let mine := sigs.filter (fun e => e.2.1.val = g.2 && (d.levels g.1 g.2).parts.contains e.1.val)
      let own := d.rd (rColGSig g.1 g.2)
      let d := if mine.any (fun e => e.2.2 ≠ own) then d.colErr 0 g.1 g.2 c else d
      if mine.any (fun e => e.2.2 = own) then
        match sget (fun _ => none) d.col.groups (g.1 * 64 + g.2) with
        | some st =>
          let d := { d with col := { d.col with
            groups := sset (fun _ => none) d.col.groups (g.1 * 64 + g.2) (some { st with heard := insNat c st.heard }) } }
          d.groupReady g.1 g.2
        | none => d
      else d)

/-- HEARTBEAT (R293). -/
def execHeartbeat (p : Fin 24) (f : FlitHdr) (serial : DWord) (sigs : List (Fin 8 × Fin 64 × Word)) (s : State) :=
  State.run (fun d => d.flitIn p.val f .traffic 1 240 (some serial.toNat) (fun d => d.heartbeatIn f.src.toNat sigs)) s

/-! ### Loss (R293, R295, R310) -/

/-- Nanoseconds of silence after which a device is LOST. -/
def Dev.hbLimit (d : Dev) : Nat := max 10 (d.rdFld rColHbMiss 7 0) * 10000

/-- Device `c` becomes LOST: its groups lose it, and PULLs from it end PARTIAL. -/
def Dev.lose (d : Dev) (c : Nat) : Dev :=
  let e := d.partner c
  let d := ((d.setPartner c { e with state := 2 }).addSat rColLossCount 1).colEvent 2 c 255 e.serial
  let d := d.each (d.groupsOn.filter (fun g => (d.remotes g.1 g.2).contains c)) (fun d g => d.groupLose g.1 g.2 c)
  d.each (d.queue.infl.filter (fun x => x.cls = 1 && x.op = 2 && x.phase ≠ .ended && x.opd 0 % 65536 = c)) (fun d x =>
    (d.finish x { Result.fresh with status := .partial_, src := dmaSrc x.eng }).dmaStat x.eng)

/-- PARTNER_LOSS (R293, R295). -/
def execPartnerLoss (coord : BitVec 16) (s : State) :=
  State.run (fun d =>
    let e := d.partner coord.toNat
    if e.state = 1 && e.heardAt + d.hbLimit ≤ d.now then d.lose coord.toNat else d) s

/-- GROUP_MEMBER_TIMEOUT (R295): 1 ms after EN = 1 a member has not been heard. -/
def execGroupMemberTimeout (part : Fin 8) (g : Fin 64) (s : State) :=
  State.run (fun d => match sget (fun _ => none) d.col.groups (part.val * 64 + g.val) with
    | none => d
    | some st =>
      if d.now < st.enAt + 1000000 then d
      else match (d.remotes part.val g.val).find? (fun c => !st.heard.contains c) with
        | some c => d.groupLose part.val g.val c
        | none => d) s

/-! ### DATA (R280, R287) -/

/-- The bytes of a message with the POISON of the flit that brought each; its header takes the first 16 of the first flit. -/
def flitMarks (f : FlitHdr) (bytes : List Byte) (poisoned : List Nat) : List (Byte × Bool) :=
  bytes.zipIdx.map (fun e => let k := (16 + e.2) / 240; (e.1, if k = 0 then f.poison else poisoned.contains k))

/-- A DATA message enters the stage or the permute that it names. -/
def Dev.dataIn (d : Dev) (m : MsgHdr) (bytes : List (Byte × Bool)) : Dev :=
  if !d.wanted m.part.val m.group.val m.number then d
  else d.arrive { part := m.part.val, group := m.group.val, number := m.number, op := m.op.toNat, flags := m.flags, n := m.n,
                  stage := m.stage.toNat, half := m.half.toNat, rank := m.rank, off := m.off.toNat,
                  bytes := bytes }

/-- DATA (R287). -/
def execData (p : Fin 24) (f : FlitHdr) (m : MsgHdr) (b : Body) (s : State) :=
  State.run (fun d => d.flitIn p.val f .traffic (cdiv (16 + b.bytes.length) 240) (16 + b.bytes.length) none (fun d =>
    d.dataIn m (flitMarks f b.bytes b.poisoned))) s

/-! ### Time (R296) -/

/-- TLOCK, in COL_STATUS and in TS_STATUS. -/
def Dev.setTlock (d : Dev) (b : Bool) : Dev :=
  (d.wr rColStatus (setBit 11 b (d.rd rColStatus))).wr rTsStatus (setBit 1 b (d.rd rTsStatus))

/-- Align the timestamp to a reference that is `ofs` ns ahead: the first lock steps, later offsets are slewed away. -/
def Dev.align (d : Dev) (ofs : Int) : Dev :=
  let t := d.col.time
  let d := d.wr rColTsyncOfs (BitVec.ofInt 32 ofs)
  if !t.locked then
    { d.setTlock true with now := ((d.now : Int) + ofs).toNat % 2 ^ 64, col := { d.col with time := ⟨true, 0, 0⟩ } }
  else { d.setTlock true with col := { d.col with time := { t with slew := ofs } } }

/-- The coordinate of the rack's time master, which the image's PORTS section names (R335; log 17). -/
def Dev.timeMaster (d : Dev) : Nat := Config.timeMaster d.mgmt.ports % 65536

/-- A TIME message for coordinate `c`. -/
def timeMsg (c hub : Nat) : OutMsg := { vc := 5, dest := c, hub := hub, poison := false, kind := .time }

/-- A TIME flit from coordinate `c` on port `p`: the time master answers it; any other device aligns to its master's. -/
def Dev.timeIn (d : Dev) (p c : Nat) (ofs : Int) : Dev :=
  if bitOf 0 (d.rd rColTsyncCfg) then d.sendTo (timeMsg c (p / 12))
  else if c = d.timeMaster then d.align ofs else d

/-- TIME (R296). -/
def execTime (p : Fin 24) (f : FlitHdr) (offset : Int) (s : State) :=
  State.run (fun d => d.flitIn p.val f .traffic 1 240 none (fun d => d.timeIn p.val f.src.toNat offset)) s

/-- TIME_SEND (R296): a device that is not the time master begins an exchange with it. -/
def execTimeSend (s : State) :=
  State.run (fun d => if bitOf 0 (d.rd rColTsyncCfg) then d else d.sendTo (timeMsg d.timeMaster 0)) s

/-- PTP_MESSAGE (R296): the rack's master follows its grandmaster through a between-rack port. -/
def execPtpMessage (p : Fin 24) (offset : Int) (s : State) :=
  State.run (fun d =>
    if d.rdFld rColTsyncCfg 1 0 = 3 && d.portUp p.val && d.portRole p.val = 2 && d.portEth p.val then d.align offset else d) s

/-- TIME_LOCK_LOSS (R296): the timestamp runs free. -/
def execTimeLockLoss (s : State) :=
  State.run (fun d =>
    if bitOf 11 (d.rd rColStatus) then
      let d := d.setTlock false
      ({ d with col := { d.col with time := { d.col.time with slew := 0 } } }).colErr 5 0 0 d.coord
    else d) s

/-! ### Withdrawal and clocks (R306, R319) -/

/-- DEVICE_WITHDRAW (R306): a fault of an HBM controller also fences it (R174). -/
def execDeviceWithdraw (w : Withdrawal) (s : State) :=
  State.run (fun d => match w.ctrl with
    | some c => if w.cause = 1 then ((d.fenceCtrl c.val).scrubStat (8 + (ctrlStack c.val).1)).withdraw 1 else d.withdraw w.cause.val
    | none => d.withdraw w.cause.val) s

/-- Port `n` of the PCIe interface goes down (Tables 1-14, 1-15). Where that is the first error flagged, the address captured is
0: R36 gives the event none (log 69). -/
def Dev.pciDown (d : Dev) (n : Nat) : Dev := if d.linkUp n then (d.wr (rPciStatus n) 0).pciErr n 1 0 else d

/-- A holdover ends: a reference of PCIe takes its port's link down, one of the links its hub's 12 ports. -/
def Dev.holdEnd (d : Dev) (n : Nat) : Dev :=
  let r := d.clkHoldEnd n
  if !r.1 then r.2
  else if n = 2 || n = 3 then r.2.pciDown (n - 2)
  else if n = 4 || n = 5 then r.2.each (rangeFrom (12 * (n - 4)) 12) Dev.portDown
  else r.2

/-- CLK_HOLDOVER_END (R319). -/
def execClkHoldoverEnd (n : Fin 6) (s : State) := State.run (fun d => d.holdEnd n.val) s

end Sys2Proof.Machine
end

