-- ==== Sys2Proof/Machine/Records.lean ====
section
/-! DEFINITION. Mailboxes (R348 to R351), counter snapshots (R355, R356) and the Flowstone unit (R357 to R363). The commands that
are register accesses are in RegRows.lean. -/

namespace Sys2Proof.Machine

/-! ### Mailboxes -/

/-- Register `r` of channel `ch`. -/
def mbx (ch r : Nat) : Nat := 0x12000000 + 0x400 * ch + r

/-- MBX_OWN.EN; channel 0 always serves the management controller (log 40). -/
def Dev.mbxOn (d : Dev) (ch : Nat) : Bool := ch = 0 || bitOf 4 (d.rd (rMbxOwn ch))

/-- Flag an error of MBX_ERR with its capture and its record. -/
def Dev.mbxErr (d : Dev) (ch bit src : Nat) : Dev :=
  (d.raise (rMbxErr ch) bit (fun d => d.wr (rMbxErrSrc ch) (BitVec.ofNat 32 (src % 65536)))).flw 3 bit src 0

/-- Notify target `n` of a channel once (R350). -/
def Dev.mbxNotify (d : Dev) (ch n : Nat) : Dev :=
  let w := d.rd (mbx ch (0x30 + 4 * n))
  match fld 1 0 w with
  | 1 => d.msixSend (fld 2 2 w) (fld 20 3 w % 2048)
  | 2 => d.send (.mgmtIrq ch)
  | 3 => d.cntAdd (fld 20 3 w) 1
  | _ => d

/-- Notify each target once for each bit of its masked doorbells that rises. -/
def Dev.mbxRise (d : Dev) (ch : Nat) (old0 old1 : Word) : Dev :=
  let db := d.rd (rMbxDb ch)
  let count (old new : Word) : Nat := ((List.range 32).filter (fun k => bitOf k (new &&& ~~~old))).length
  let d1 := d.each (List.range (count old0 (db &&& d.rd (rMbxDbMask0 ch)))) (fun d _ => d.mbxNotify ch 0)
  d1.each (List.range (count old1 (db &&& d.rd (rMbxDbMask1 ch)))) (fun d _ => d.mbxNotify ch 1)

/-- Set doorbell bits. -/
def Dev.mbxSet (d : Dev) (ch : Nat) (v : Word) : Dev :=
  let db := d.rd (rMbxDb ch)
  (d.wr (rMbxDb ch) (db ||| v)).mbxRise ch (db &&& d.rd (rMbxDbMask0 ch)) (db &&& d.rd (rMbxDbMask1 ch))

/-- Clear doorbell bits. -/
def Dev.mbxClear (d : Dev) (ch : Nat) (v : Word) : Dev := d.wr (rMbxDb ch) (d.rd (rMbxDb ch) &&& ~~~v)

/-- Write mask `n`; bit 30 of channel 0's mask 0 stays set (R352). -/
def Dev.mbxMask (d : Dev) (ch n : Nat) (v : Word) : Dev :=
  let db := d.rd (rMbxDb ch)
  let v := if ch = 0 && n = 0 then setBit 30 true v else v
  (d.wr (mbx ch (0x28 + 4 * n)) v).mbxRise ch (db &&& d.rd (rMbxDbMask0 ch)) (db &&& d.rd (rMbxDbMask1 ch))

/-- Write MBX_NOTIFY`n`: a counter must be one of the channel's partition; target 0 of channel 0 is fixed. -/
def Dev.mbxTarget (d : Dev) (src ch n : Nat) (v : Word) : Dev :=
  if ch = 0 && n = 0 then d
  else if fld 1 0 v = 3 && d.cntPart (fld 20 3 v) ≠ some (d.rdFld (rMbxOwn ch) 3 0) then d.mbxErr ch 3 src
  else d.wr (mbx ch (0x30 + 4 * n)) (BitVec.ofNat 32 (fld 20 0 v))

/-- The words of queue `n` of a channel. -/
def Dev.mbxWords (d : Dev) (ch n : Nat) : List Word := sget (fun _ => []) d.rcd.mbxQ (2 * ch + n)
/-- Set them, and the queue's count. -/
def Dev.setMbx (d : Dev) (ch n : Nat) (l : List Word) : Dev :=
  ({ d with rcd := { d.rcd with mbxQ := sset (fun _ => []) d.rcd.mbxQ (2 * ch + n) l } }).wr (mbx ch (8 + 0x10 * n))
    (BitVec.ofNat 32 l.length)

/-- Push a word: a full queue discards it. A word for the management controller leaves the number of its source (R352). -/
def Dev.mbxPush (d : Dev) (src ch n : Nat) (v : Word) : Dev :=
  let l := d.mbxWords ch n
  if 16 ≤ l.length then d.mbxErr ch 0 src
  else
    let d := if ch = 0 && n = 0 then { d with mgmt := { d.mgmt with pusher := src } } else d
    (d.setMbx ch n (l ++ [v])).mbxSet ch (setBit (30 + n) true 0)

/-- Pop the oldest word: an empty queue reads 0. -/
def Dev.mbxPop (d : Dev) (src ch n : Nat) : Word × Dev :=
  match d.mbxWords ch n with
  | [] => (0, d.mbxErr ch 1 src)
  | w :: t => (w, d.setMbx ch n t)

/-- The lock's owner. -/
def Dev.lockOwner (d : Dev) (ch : Nat) : Option Nat := sget (fun _ => none) d.rcd.mbxLock ch
/-- Set it. -/
def Dev.setLock (d : Dev) (ch : Nat) (o : Option Nat) : Dev :=
  { d with rcd := { d.rcd with mbxLock := sset (fun _ => none) d.rcd.mbxLock ch o } }

/-- Read MBX_LOCK: a free lock is taken. -/
def Dev.lockRead (d : Dev) (src ch : Nat) : Word × Dev :=
  match d.lockOwner ch with
  | some o => (BitVec.ofNat 32 (0x10000 + o % 65536), d)
  | none => (0, d.setLock ch (some src))

/-- Write MBX_LOCK: the owner frees it. -/
def Dev.lockWrite (d : Dev) (src ch : Nat) : Dev :=
  if d.lockOwner ch = some src then d.setLock ch none else d.mbxErr ch 2 src

/-- Write MBX_LOCK_FORCE, from the host, the sideband port or the management controller. -/
def Dev.lockForce (d : Dev) (o : Origin) (ch : Nat) (v : Word) : Dev :=
  let may : Bool := match o with
    | .core _ => false
    | .dma _ => false
    | _ => true
  if may && bitOf 0 v then (d.setLock ch none).flw 3 0x41 (srcOf o) 0 else d

/-! ### Counter snapshot (R355, R356) -/

/-- The bits of a register that are counters: its RC fields, or a word of a counter pair. -/
def counterMask (off : Nat) : Word :=
  match findRow off with
  | some r => if r.pair = .counterLo || r.pair = .counterHi then 0xFFFFFFFF else BitVec.ofNat 32 r.rc
  | none => 0

/-- Is the unit that holds the register at `off` out of service, so that it does not copy: of a fenced compute die its cores, spares,
DMA engines and Trowel engine and its Gallery die; a stack with a fenced HBM controller (log 67)? -/
def Dev.noCopy (d : Dev) (off : Nat) : Bool :=
  d.mem.ctrlFenced.any (fun c => off / 0x100000 = 0x60 + (ctrlStack c).1) || (List.range 8).any (fun n => d.fenced n
    && ((0x4000000 + 0xC0000 * n ≤ off && off < 0x4000000 + 0xC0000 * (n + 1))
      || (0x2040000 + 0x4000 * n ≤ off && off < 0x2040000 + 0x4000 * (n + 1))
      || (0x8000000 + 0x100000 * n ≤ off && off < 0x8000000 + 0x100000 * (n + 1))
      || (0x5000000 + 0x100000 * n ≤ off && off < 0x5000000 + 0x100000 * (n + 1))))

/-- A write to TS_SNAP_AT_HI arms a snapshot at the pair's tick, unless the tick is less than 1 µs away. -/
def Dev.snapArm (d : Dev) (v : Word) : Dev :=
  let d := d.wr rTsSnapAtHi v
  let at_ := d.rd64 rTsSnapAtLo
  if at_ < d.now + 1000 then d.wr rTsErr (setBit 0 true (d.rd rTsErr))
  else ({ d with rcd := { d.rcd with snapArmed := some at_ } }).wr rTsStatus (setBit 0 true (d.rd rTsStatus))

/-- At the tick every unit in service copies its counters. -/
def Dev.snapTick (d : Dev) : Dev :=
  match d.rcd.snapArmed with
  | none => d
  | some at_ =>
    if d.now < at_ then d
    else
      let keep := d.shadow.filter (fun e => d.noCopy e.1)
      let sh := (d.regs.filter (fun e => !d.noCopy e.1)).foldl (fun m e => sset (fun _ => 0) m e.1 (e.2 &&& counterMask e.1)) keep
      let miss := (List.range 20).filter (fun n =>
        (n < 16 && d.fenced (n % 8)) || d.mem.ctrlFenced.any (fun c => c / 3 = n))
      let d := { d with shadow := sh, rcd := { d.rcd with snapArmed := none, snapCopied := true } }
      let d := d.wr rTsSnapMiss (BitVec.ofNat 32 (miss.map (2 ^ ·)).sum)
      if miss.isEmpty then d else d.wr rTsErr (setBit 1 true (d.rd rTsErr))

/-- SNAPSHOT_TICK (R355). -/
def execSnapshotTick (s : State) := State.run Dev.snapTick s

/-- Every unit has copied. -/
def Dev.snapDone (d : Dev) : Dev :=
  if !d.rcd.snapCopied then d
  else
    let d := { d with rcd := { d.rcd with snapCopied := false } }
    let d := d.wr rTsSnapSeq (d.rd rTsSnapSeq + 1)
    d.wr rTsStatus (setBit 0 d.rcd.snapArmed.isSome (d.rd rTsStatus))

/-- SNAPSHOT_DONE (R355). -/
def execSnapshotDone (s : State) := State.run Dev.snapDone s

/-! ### The Flowstone ring (R357 to R360, R363) -/

/-- The 128 bytes of a record (Table 16-2); `lost` is FLAGS.LOST. -/
def flwBytes (r : FlwRec) (lost : Bool) : List Byte :=
  let body := leBytes 2 r.type ++ leBytes 2 r.src ++ leBytes 8 r.ts ++ leBytes 4 r.opsec.toNat ++ leBytes 4 r.cycles.toNat
    ++ leBytes 4 r.seq.toNat ++ leBytes 1 r.snap.length ++ leBytes 1 (r.tlock.toNat + 2 * lost.toNat) ++ leBytes 2 0
    ++ wordsToBytes r.snap ++ leBytes (4 * (20 - r.snap.length)) 0 ++ leBytes 8 r.arg ++ leBytes 4 0
  leBytes 4 0x53574C46 ++ body ++ leBytes 4 (crc32 body).toNat

/-- The ring slot of a SEQNO (R358). -/
def ringSlot (seq : Word) : Nat := seq.toNat % 262144

/-- Has the sector of a slot been erased for the records that now go into it (R359)? -/
def Dev.sectorReady (d : Dev) (slot : Nat) : Bool := slot % 512 ≠ 0 || d.rcd.erased = some (slot / 512)

/-- Program the oldest queued record into its slot. -/
def Dev.flwProgram (d : Dev) : Dev :=
  match d.rcd.queue with
  | [] => d
  | r :: t =>
    let slot := ringSlot r.seq
    if !d.sectorReady slot then d
    else
      let ring := sput slot (some (flwBytes r d.rcd.lost)) d.mgmt.flash.ring
      let d := { d with rcd := { d.rcd with queue := t, lost := false, erased := none },
                        mgmt := { d.mgmt with flash := { d.mgmt.flash with ring := ring } } }
      d.wrFld rFlwStatus 12 2 t.length

/-- FLOWSTONE_PROGRAM (R358). -/
def execFlowstoneProgram (s : State) := State.run Dev.flwProgram s

/-- Erase the sector that the next record begins. -/
def Dev.flwErase (d : Dev) : Dev :=
  match d.rcd.queue with
  | [] => d
  | r :: _ =>
    let slot := ringSlot r.seq
    if d.sectorReady slot then d
    else
      let ring := d.mgmt.flash.ring.filter (fun e => e.1 / 512 ≠ slot / 512)
      { d with rcd := { d.rcd with erased := some (slot / 512) },
               mgmt := { d.mgmt with flash := { d.mgmt.flash with ring := ring } } }

/-- FLOWSTONE_ERASE (R359). -/
def execFlowstoneErase (s : State) := State.run Dev.flwErase s

/-- OPSEC_SAVE (R357). -/
def execOpsecSave (s : State) :=
  State.run (fun d => { d with mgmt := { d.mgmt with flash := { d.mgmt.flash with opsec := d.rd rBootOpsec } } }) s

/-- A write to FLW_RD_SEQ starts a fetch, unless one runs. -/
def Dev.flwFetch (d : Dev) (v : Word) : Dev :=
  if d.rcd.fetch.isSome then d
  else (({ d with rcd := { d.rcd with fetch := some v } }).wr rFlwRdSeq v).wr rFlwRdStatus 1

/-- A fetch ends. -/
def Dev.flwFetched (d : Dev) : Dev :=
  match d.rcd.fetch with
  | none => d
  | some v =>
    let r := sget (fun _ => []) d.mgmt.flash.ring (ringSlot v)
    let ok := r.length = 128 && leAt r 0x18 4 = v.toNat
    let d := ({ d with rcd := { d.rcd with fetch := none } }).wr rFlwRdStatus (if ok then 2 else 0)
    d.each (List.range 32) (fun d k => d.wr (rFlwRdData k) (if ok then BitVec.ofNat 32 (leAt r (4 * k) 4) else 0))

/-- FLOWSTONE_FETCH_DONE (R363). -/
def execFlowstoneFetchDone (s : State) := State.run Dev.flwFetched s

end Sys2Proof.Machine
end

