-- ==== Sys2Proof/Machine/Boot.lean ====
section
/-! DEFINITION. Power cycles and the boot (R331 to R338), the sequencing of the rails (R384, R385, R388) and the wake from
STANDBY (R326, R327). -/

namespace Sys2Proof.Machine

/-! ### Images (R333, R334) -/

/-- `n` bytes of a flash copy; a byte that nothing has programmed reads 0xFF (log 22). -/
def flashBytes (n : Nat) (l : List Byte) : List Byte := l.take n ++ List.replicate (n - l.length) 0xFF

/-- A section table entry (R333). -/
structure Sect where
  type : Nat
  off : Nat
  len : Nat
  zero : Nat
  deriving DecidableEq, Repr

/-- LENGTH of an image. -/
def imgLen (img : List Byte) : Nat := leAt img 8 4
/-- SECTIONS of an image. -/
def imgSections (img : List Byte) : Nat := leAt img 6 2
/-- SECVER of an image. -/
def imgSecver (img : List Byte) : Nat := leAt img 0xC 4
/-- The section table. -/
def imgTable (img : List Byte) : List Sect :=
  (List.range (imgSections img)).map (fun k =>
    let o := 0x100 + 16 * k
    ⟨leAt img o 4, leAt img (o + 4) 4, leAt img (o + 8) 4, leAt img (o + 12) 4⟩)
/-- The bytes of section `t`. -/
def imgSection (img : List Byte) (t : Nat) : List Byte :=
  match (imgTable img).find? (·.type = t) with
  | some s => (img.drop s.off).take s.len
  | none => []

/-- May a section of type `t` have length `n` (Table 15-4, R336)? -/
def sectLenOk (t n : Nat) : Bool :=
  if t = 1 then decide (n ≤ 0x100000) else if t = 9 then n = 256 else if t ≤ 8 then n % 16 = 0 else true

/-- Do no two sections overlap? -/
def sectsApart : List Sect → Bool
  | [] => true
  | s :: t => t.all (fun u => s.len = 0 || u.len = 0 || s.off + s.len ≤ u.off || u.off + u.len ≤ s.off) && sectsApart t

/-- The entries of a register load list (R336): address, value, mask. -/
def loadList (l : List Byte) : List (Nat × Word × Word) :=
  (List.range (l.length / 16)).map (fun k =>
    (leAt l (16 * k) 8, BitVec.ofNat 32 (leAt l (16 * k + 8) 4), BitVec.ofNat 32 (leAt l (16 * k + 12) 4)))

/-- Is an entry of a register load list accepted (R336)? -/
def entryOk (e : Nat × Word × Word) : Bool :=
  match (regOff e.1).bind findRow with
  | some r => e.2.2 &&& ~~~(BitVec.ofNat 32 (r.rw ||| r.img)) = 0
  | none => false

/-- Checks 2 to 8 of Table 15-3 on the bytes of an image: 0, or the FAILCODE of the first that fails (log 43). -/
def imgCheck (f : FuseSt) (id : Word) (img : List Byte) : Nat :=
  let n := imgLen img
  let tbl := imgTable img
  let serial := leAt img 0x10 8
  let rev : Word := BitVec.ofNat 32 (leAt img 0x18 4)
  if leAt img 0 4 ≠ 0x4B525644 || leAt img 4 2 ≠ 1 then 2
  else if n < 4096 || 16777216 < n || n % 16 ≠ 0 || imgSections img = 0 || 64 < imgSections img
      || n - 96 < 0x100 + 16 * imgSections img
      || !tbl.all (fun s => 0x100 + 16 * imgSections img ≤ s.off && s.off + s.len ≤ n - 96) then 3
  else if Config.sha384 ((img.drop 0x20).take 96) ≠ f.keyHash then 4
  else if !Config.ecdsaOk ((img.drop 0x20).take 96) (Config.sha384 (img.take (n - 96))) ((img.drop (n - 96)).take 96) then 5
  else if 65536 ≤ imgSecver img || imgSecver img < f.floor then 6
  else if (serial ≠ 0 && serial ≠ f.serial) || (rev ^^^ id) &&& 0xFFFF00FF ≠ 0 then 7
  else if !(rangeFrom 1 9).all (fun t => (tbl.filter (·.type = t)).length = 1)
      || !tbl.all (fun s => sectLenOk s.type s.len && s.zero = 0) || !sectsApart tbl then 8
  else 0

/-- Check 9: every entry of sections 2 to 8. -/
def loadCheck (img : List Byte) : Bool :=
  (rangeFrom 2 7).all (fun t => (loadList (imgSection img t)).all entryOk)

/-- The bytes of a flash copy's image. -/
def FlashSt.image (f : FlashSt) (copy : Nat) : List Byte :=
  let l := if copy = 0 then f.copy0 else f.copy1
  flashBytes (min (imgLen (flashBytes 256 l)) 16777216) l

/-- Every check of Table 15-3 on a copy. -/
def Dev.bootCheck (d : Dev) (answers : Bool) (copy : Nat) : Nat :=
  if !answers then 1
  else
    let img := d.mgmt.flash.image copy
    let c := imgCheck d.mgmt.fuse (d.rd rTopId) img
    if c ≠ 0 then c else if loadCheck img then 0 else 9

/-! ### Boot states (R337) -/

/-- Enter boot state `s`: each change of state writes a record. -/
def Dev.setBoot (d : Dev) (s : Nat) : Dev := (d.wrFld rBootState 3 0 s).flw 0 s (srcOf .mgmt) 0

/-- Draw a new nonce from the random source (R346); LOCK_NONCE reads 0 in LOCKOUT. -/
def Dev.drawNonce (d : Dev) : Dev :=
  d.each (List.range 8) (fun d i =>
    let f := d.fresh
    f.2.wr (rLockNonce i) (if bitOf 2 (f.2.rd rLockStatus) then 0 else Config.nonceWord f.1))

/-- The ROM state ends. -/
def Dev.romDone (d : Dev) : Dev :=
  if d.bootState = 0 && d.pins.resetN && d.pins.railsEn && !d.pins.bootStop then d.drawNonce.setBoot 1 else d

/-- BOOT_ROM_DONE (R337). -/
def execBootRomDone (s : State) := State.run Dev.romDone s

/-- BOOT_READ_DONE (R337). -/
def execBootReadDone (s : State) := State.run (fun d => if d.bootState = 1 then d.setBoot 2 else d) s

/-- The copy that the boot tries: the primary first, the fallback once the primary is bad. -/
def Dev.bootCopy (d : Dev) : Nat := d.rdFld rBootState 5 5

/-- The checks end. -/
def Dev.verifyDone (d : Dev) (answers : Bool) : Dev :=
  if d.bootState ≠ 2 then d
  else
    let k := d.bootCopy
    match d.bootCheck answers k with
    | 0 =>
      let img := d.mgmt.flash.image k
      let g := Config.sha384 img
      let d := ((d.wrFld rBootState 4 4 k).wr rBootImglen (BitVec.ofNat 32 (imgLen img))).wrFld rBootSecver 15 0 (imgSecver img)
      (d.each (List.range 12) (fun d i => d.wr (rBootDigest i) (BitVec.ofNat 32 (leAt g (4 * i) 4)))).setBoot 3
    | c =>
      if k = 0 then ((d.wrFld rBootState 5 5 1).wrFld rBootState 15 8 c).setBoot 1
      else (d.wrFld rBootState 23 16 c).setBoot 6

/-- BOOT_VERIFY_DONE (R334). -/
def execBootVerifyDone (flashAnswers : Bool) (s : State) := State.run (fun d => d.verifyDone flashAnswers) s

/-! ### Applying register lists (R335, R336) -/

/-- Write value AND mask into the masked bits of the register that an entry names. -/
def Dev.applyEntry (d : Dev) (e : Nat × Word × Word) : Dev :=
  match regOff e.1 with
  | some off => d.wr off ((d.rd off &&& ~~~e.2.2) ||| (e.2.1 &&& e.2.2))
  | none => d

/-- Apply a list. -/
def Dev.applyList (d : Dev) (l : List (Nat × Word × Word)) : Dev := d.each l Dev.applyEntry

/-- Compute dies in a mask. -/
def popCount (n : Nat) : Nat := ((List.range 8).filter n.testBit).length

/-- The layout whose partition 0 holds the compute dies of a mask (Table 1-6); a mask that no layout has gives P1 (log 43). -/
def layoutOf (dies : Nat) : Nat :=
  match popCount dies with
  | 4 => 1
  | 2 => 2
  | 1 => 3
  | _ => 0

/-- DIES of partition `p`. -/
def Dev.diesMask (d : Dev) (p : Nat) : Nat := d.rdFld (rTopPStatus p) 7 0

/-- Are the DIES fields those of Table 1-6? -/
def Dev.layoutOk (d : Dev) : Bool :=
  let l := layoutOf (d.diesMask 0)
  let n := 8 / 2 ^ l
  (List.range 8).all (fun p => d.diesMask p = if p < 2 ^ l then (2 ^ n - 1) * 2 ^ (n * p) else 0)

/-- Do windows of different partitions overlap (R20)? -/
def Dev.windowsMeet (d : Dev) : Bool :=
  [rTopPHbmwin, rTopPSumpwin, rTopPMgdwin].any (fun r =>
    (List.range 8).any (fun p => (List.range p).any (fun q =>
      let a := d.rd (r p)
      let b := d.rd (r q)
      fld 31 16 a ≠ 0 && fld 31 16 b ≠ 0 && decide (fld 15 0 a < fld 15 0 b + fld 31 16 b)
        && decide (fld 15 0 b < fld 15 0 a + fld 31 16 a))))

/-- TOP_STATUS.LAYOUT follows the DIES fields. -/
def Dev.setLayout (d : Dev) : Dev := d.wrFld rTopStatus 5 4 (layoutOf (d.diesMask 0))

/-- Load a PARTITION section: one with overlapping windows, or with dies of no layout, is refused and the device keeps the
layout it has (R20; log 43). -/
def Dev.loadLayout (d : Dev) (l : List (Nat × Word × Word)) : Option Dev :=
  let n := (d.applyList l).setLayout
  if n.windowsMeet || !n.layoutOk then none else some n

/-- Load another section, or a REGLIST: one whose entries make windows overlap, or change DIES to those of no layout, is refused
(R20; log 43). -/
def Dev.loadSection (d : Dev) (l : List (Nat × Word × Word)) : Option Dev :=
  let n := (d.applyList l).setLayout
  let moved := (List.range 8).any (fun p => d.diesMask p ≠ n.diesMask p)
  if n.windowsMeet || (moved && !n.layoutOk) then none else some n

/-- Port `p` begins training, when enabled and not already up. -/
def Dev.trainPort (d : Dev) (p : Nat) : Dev := if d.portOn p && d.portState p = 0 then d.setPortState p 1 else d

/-- The device withdrew under an enable map that is booted again: it stays withdrawn; a changed map ends that (R314;
log 44). -/
def Dev.bootWithdraw (d : Dev) : Dev :=
  match d.mgmt.wd with
  | none => d
  | some (m, c) =>
    if m = d.mgmt.enable then d.withdraw c
    else { d with mgmt := { d.mgmt with wd := none },
                  rcd := { d.rcd with ledger := mapIf (·.kind = 10) (fun r => { r with done := true }) d.rcd.ledger } }

/-- A compute die that the image's enable map leaves out stays fenced (R304; log 45). -/
def Dev.leaveOut (d : Dev) (n : Nat) : Dev :=
  (d.wr rTopStatus (setBit (16 + n) true (d.rd rTopStatus))).wr (rGalStatus n) (setBit 2 true (d.rd (rGalStatus n)))

/-- The sections have been applied, in the order of Table 15-4, and every rail is on. -/
def Dev.configDone (d : Dev) : Dev :=
  if d.bootState ≠ 3 || d.pins.step ≠ 4 then d
  else
    let img := d.mgmt.flash.image (d.rdFld rBootState 4 4)
    let list (t : Nat) : List (Nat × Word × Word) := loadList (imgSection img t)
    let d := d.each (rangeFrom 2 7) (fun d t => ((if t = 5 then d.loadLayout (list 5) else d.loadSection (list t))).getD d)
    let d := d.wrFld rSmpStatus 18 17 (Config.sumpSize (imgSection img 6) % 4)
    let d := { d with mgmt := { d.mgmt with lock := imgSection img 9, enable := imgSection img 2, ports := imgSection img 4 } }
    let d := d.each ((List.range 8).filter (Config.enableInfo d.mgmt.enable).diesOff.contains) Dev.leaveOut
    ((d.each (List.range 24) Dev.trainPort).bootWithdraw).setBoot 4

/-- BOOT_CONFIG_DONE (R335). -/
def execBootConfigDone (s : State) := State.run Dev.configDone s

/-! ### Training (R118, R228, R329, R337) -/

/-- The physical slots of a die's local cores 0 to 191 and then of its spares 0 to 7, as the image maps them; an image whose map
is no arrangement of the 200 slots leaves them in order (R118; log 45). -/
def slotMap (m : List Nat) : List Nat :=
  if m.length = 200 && (List.range 200).all m.contains then m else List.range 200

/-- The cores and spares of compute die `n` enter service: a core that failed the self-test is served by the next healthy spare, and
those beyond the spares are ABSENT, as are those that the enable map leaves out (R118, R120). -/
def Dev.mapCores (d : Dev) (n : Nat) (t : TrainResult) : Dev :=
  let info := Config.enableInfo d.mgmt.enable
  let slots := slotMap (info.slots[n]?.getD [])
  let off (c : Nat) : Bool := info.coresOff.contains c || d.fenced n
  let sick (s : Nat) : Bool := t.spareFailed.any (fun e => e.1.val = n && e.2.val = s)
  let bad := (rangeFrom (192 * n) 192).filter (fun c => t.coreFailed.any (fun f => f.val = c) && !off c)
  let use := bad.zip ((List.range 8).filter (fun s => !sick s))
  let d := d.each (rangeFrom (192 * n) 192) (fun d c =>
    match use.find? (fun e => e.1 = c) with
    | some e => (d.wr (rCorePhys c) (BitVec.ofNat 32 (256 + slots[192 + e.2]?.getD 0))).setCoreState c 1
    | none => (d.wr (rCorePhys c) (BitVec.ofNat 32 (slots[c % 192]?.getD 0))).setCoreState c
        (if off c || bad.contains c then 0 else 1))
  d.each (List.range 8) (fun d s =>
    let w := setBit 9 (sick s) (BitVec.ofNat 32 (65536 * slots[192 + s]?.getD 0) : Word)
    d.wr (rCoreSpareSlot n s) (match use.find? (fun e => e.2 = s) with
      | some e => setFld 7 0 (e.1 % 192) (setBit 8 true w)
      | none => setFld 7 0 0xFF w))

/-- SMP_STATUS after training: the raw Sump is mapped when every channel trained; its channel size is the image's. -/
def Dev.mapSump (d : Dev) (failed : List (Fin 16)) : Dev :=
  let size := d.rdFld rSmpStatus 18 17
  let ok := ((List.range 16).filter (fun k => !failed.any (fun f => f.val = k))).map (2 ^ ·)
  let d := d.wr rSmpStatus (BitVec.ofNat 32 (ok.sum + (if failed.isEmpty && size ≠ 0 then 65536 else 0) + 2 ^ 17 * size))
  if failed.isEmpty then d else d.smpErr 5 (srcOf .mgmt) 0 0 0 0

/-- Training ends. -/
def Dev.trainDone (d : Dev) (t : TrainResult) : Dev :=
  if d.bootState ≠ 4 then d
  else
    let d := d.each (List.range 8) (fun d n => d.mapCores n t)
    let d := d.each (List.range 12) (fun d k => d.wrFld (rHbmStatus k) 3 3 (!t.hbmFailed.any (fun f => f.val = k)).toNat)
    let d := d.mapSump t.sumpFailed
    let d := { d with rcd := { d.rcd with
      ledger := mapIf (fun r => r.action = 1 && !t.noRepair) (fun r => { r with done := true }) d.rcd.ledger } }
    let d := d.replan (BitVec.ofNat 32 ((d.rd rBootOpsec).toNat / 3600)) t.ages
    let d := (d.wr rBootTReady (BitVec.ofNat 32 (d.now / 1000))).setBoot 5
    let d := d.each (List.range 20) Dev.scrubStat
    let d := if t.hbmFailed.isEmpty then d else d.withdraw 7
    if t.noRepair then d.withdraw 8 else d

/-- BOOT_TRAIN_DONE (R337). -/
def execBootTrainDone (t : TrainResult) (s : State) := State.run (fun d => d.trainDone t) s

/-! ### Power cycles (R332, R385) -/

/-- What a power cycle leaves: fuses, flash with the fault ledger, host memory, what has left the device, and the model's
counter of free values. RESET_N is low, or the supply is below its limit; the rails are off. -/
def Dev.powerLoss (d : Dev) : Dev :=
  { Dev.reset with
    mgmt := { MgmtSt.reset with fuse := d.mgmt.fuse, flash := d.mgmt.flash, wd := d.mgmt.wd }
    rcd := { RecSt.reset with ledger := d.rcd.ledger }
    host := { HostSt.reset with cells := d.host.cells, poison := d.host.poison }
    pins := { PinSt.reset with resetN := false, railsEn := false }
    sent := d.sent
    free := d.free }

/-- RESET_N_ASSERT (R385). -/
def execResetNAssert (s : State) := State.run Dev.powerLoss s

/-- VAON_LOW (R385). -/
def execVaonLow (s : State) := State.run Dev.powerLoss s

/-- The SEQNO at which the Flowstone unit resumes: after the highest valid record of the ring (R359). -/
def FlashSt.nextSeq (f : FlashSt) : Word :=
  match f.ring.map (fun e => (BitVec.ofNat 32 (leAt e.2 0x18 4) : Word)) with
  | [] => 0
  | s :: t => t.foldl (fun b x => if reached32 x b then x else b) s + 1

/-- RESET_N is released: a power cycle begins, with what flash and fuses keep. -/
def Dev.release (d : Dev) : Dev :=
  if d.pins.resetN then d
  else
    let f := { d.mgmt.flash with cycles := d.mgmt.flash.cycles + 1 }
    let d := { d with
      pins := { d.pins with resetN := true, railsEn := true }, now := 0, mgmt := { d.mgmt with flash := f } }
    let d := ((d.wr rBootCycles f.cycles).wr rBootOpsec f.opsec).wr64 rBootRseqLo f.rseq
    let d := (d.wrFld rBootSecver 31 16 d.mgmt.fuse.floor).wr64 rLockSerialLo d.mgmt.fuse.serial
    let d := d.wrFld rTopId 9 8 d.mgmt.fuse.lid
    d.wr rFlwSeq f.nextSeq

/-- RESET_N_RELEASE (R384). -/
def execResetNRelease (s : State) := State.run Dev.release s

/-- The switched rails go off: the link ports and the PCIe ports that they power go down (log 46), and every memory that they
power loses its contents. -/
def Dev.railsOff (d : Dev) (keep : Nat → Bool) : Dev :=
  let d := (d.each (List.range 24) Dev.portDown).each (List.range 2) Dev.pciDown
  { d with
    pins := { d.pins with step := 0 }
    mem := { MemSt.reset with
      cells := d.mem.cells.filter (fun e => keep e.1), poison := d.mem.poison.filter (fun g => keep (g * 64)),
      damage := d.mem.damage.filter (fun e => keep (e.1 * 64)), scrubPos := d.mem.scrubPos, ceCount := d.mem.ceCount } }

/-- A die reaches 115 °C: THERMTRIP_N is driven low, the device withdraws, and the power-down sequence follows. -/
def Dev.thermTrip (d : Dev) : Dev :=
  let e := (d.withdraw 0).railsOff (fun _ => false)
  -- no access of the withdrawal holds the power-down up (log 24)
  { e with pins := { e.pins with railsEn := false, thermtripN := false }, tier := { e.tier with stall := d.tier.stall } }

/-- THERMTRIP (R388). -/
def execThermtrip (_die : Fin 20) (s : State) := State.run Dev.thermTrip s

/-! ### Rails (R384) -/

/-- The boot rails: VHUB, VSER, VSERH, VCORE0 and VGAL0. -/
def bootRail (r : Nat) : Bool := r = 0 || r = 8 || r = 16 || r = 17 || (20 ≤ r && r ≤ 23)

/-- The power-up step of rail `r` (Table 18-3); 0 for VAON and VIO18. -/
def railStep (r : Nat) : Nat :=
  if 28 ≤ r && r ≤ 29 then 1 else if r ≤ 21 then 2 else if 24 ≤ r && r ≤ 25 then 3 else if r ≤ 31 then 4 else 0

/-- Is a power-up under way? -/
def Dev.powering (d : Dev) : Bool := (d.bootState = 3 || d.mgmt.wake.isSome) && d.pins.railsEn && d.pins.step < 4

/-- A power-up step ends; the last step of a wake reaches the state asked for, and the ports that woke the device train. -/
def Dev.powerGood (d : Dev) : Dev :=
  if !d.powering then d
  else
    let d := { d with pins := { d.pins with step := d.pins.step + 1 } }
    match d.mgmt.wake with
    | some w =>
      if d.pins.step < 4 then d
      else
        let d := ({ d with mgmt := { d.mgmt with wake := none } }).wrFld rPwrStatus 1 0 w.state
        d.each w.ports Dev.trainPort
    | none => d

/-- RAIL_POWER_GOOD (R384). -/
def execRailPowerGood (s : State) := State.run Dev.powerGood s

/-- Rail `r` is not in regulation in time: a boot rail stops the boot in ROM; in a power-up step it is a rail fault. -/
def Dev.railLate (d : Dev) (r : Nat) : Dev :=
  if d.bootState = 0 && d.pins.railsEn && bootRail r then { d with pins := { d.pins with bootStop := true } }
  else if d.powering && railStep r = d.pins.step + 1 then ((d.pwrErr 0).flw 5 0 (srcOf .mgmt) r).railFault r
  else d

/-- RAIL_TIMEOUT (R384). -/
def execRailTimeout (r : Fin 34) (s : State) := State.run (fun d => d.railLate r.val) s

/-! ### Device states (R326, R327) -/

/-- Can the device leave ON for a deeper state: no compute die runs or awaits a KERNEL, and for STANDBY nothing is in flight? -/
def Dev.canSleep (d : Dev) (standby : Bool) : Bool :=
  (List.range 1536).all (fun c => d.coreState c ≠ 2 && (d.core c).launch.isNone)
    && (List.range 8).all (fun p => !d.kernelNear p) && !(standby && !d.queue.infl.isEmpty)

/-- Every compute die naps. -/
def Dev.napAll (d : Dev) : Dev :=
  let d := d.each (List.range 1536) (fun d c => if d.coreState c = 1 || d.coreState c = 3 then d.setCoreState c 4 else d)
  d.each (List.range 8) (fun d n => if d.fenced n then d else d.wr rPwrStatus (setBit (8 + n) true (d.rd rPwrStatus)))

/-- Enter IDLE or STANDBY; in STANDBY only HBM and the Sump keep their contents (log 46). -/
def Dev.sleep (d : Dev) (v : Nat) : Dev :=
  let d := d.napAll.wrFld rPwrStatus 1 0 v
  if v = 2 then d.railsOff (fun a => isHbm a || isSump a) else d

/-- Start a wake from STANDBY. -/
def Dev.startWake (d : Dev) (ports : List Nat) (v : Nat) : Dev :=
  { d with mgmt := { d.mgmt with wake := some ⟨ports, v⟩ } }

/-- A port's detector sees a wake sequence. -/
def Dev.portWake (d : Dev) (p : Nat) : Dev :=
  match d.rdFld rPwrStatus 1 0 with
  | 2 =>
    match d.mgmt.wake with
    | none => d.startWake [p] 0
    | some w => d.startWake (insNat p w.ports) 0
  | 1 => (d.wrFld rPwrStatus 1 0 0).trainPort p
  | _ => d.trainPort p

/-- PORT_WAKE (R327). -/
def execPortWake (p : Fin 24) (s : State) := State.run (fun d => d.portWake p.val) s

end Sys2Proof.Machine
end

