-- ==== Sys2Proof/Machine/Cores.lean ====
section
/-! DEFINITION. The commands of the cores' tensor extension (R87, R91 to R117): launch start, descriptor and tensor
instructions, the pipes, TSYNC, exceptions, retirement and hardware faults of cores. -/

namespace Sys2Proof.Machine

/-- Number of a pipe: the bit of TSYNC.PIPE's mask and of CORE_STATUS.PIPES. -/
def pipeNo : Pipe → Nat
  | .ls => 0 | .matrix => 1 | .vector => 2

/-- Is the entry a KV fill of the tile sequencer (R156)? -/
def TEntry.isFill (e : TEntry) : Bool := match e.op with
  | .kvFill _ _ => true
  | _ => false

/-- CORE_LAUNCH_START (R87). -/
def execCoreLaunchStart (c : Fin 1536) (s : State) := State.run (fun d => d.launchStart c.val) s

/-- TDLD (R91). -/
def execTdld (c : Fin 1536) (td : Fin 32) (addr : DWord) (s : State) := State.run (fun d => d.doTdld c.val td.val addr.toNat) s

/-- TDBASE (R91). -/
def execTdbase (c : Fin 1536) (td : Fin 32) (base : DWord) (s : State) :=
  State.run (fun d => d.doTdbase c.val td.val base.toNat) s

/-- TDSIZE (R91). -/
def execTdsize (c : Fin 1536) (td : Fin 32) (k : Fin 8) (size : DWord) (s : State) :=
  State.run (fun d => d.doTdsize c.val td.val k.val size.toNat) s

/-- TLOAD (R98). -/
def execTload (c : Fin 1536) (f : RType) (s : State) := State.run (fun d => d.issue c.val .load f) s
/-- TSTORE (R98). -/
def execTstore (c : Fin 1536) (f : RType) (s : State) := State.run (fun d => d.issue c.val .store f) s
/-- TMMA (R99). -/
def execTmma (c : Fin 1536) (f : RType) (s : State) := State.run (fun d => d.issue c.val .mma f) s
/-- TCONV (R100). -/
def execTconv (c : Fin 1536) (f : RType) (s : State) := State.run (fun d => d.issue c.val .conv f) s
/-- TVEC (R101). -/
def execTvec (c : Fin 1536) (f : RType) (s : State) := State.run (fun d => d.issue c.val .vec f) s
/-- TRED (R103). -/
def execTred (c : Fin 1536) (f : RType) (s : State) := State.run (fun d => d.issue c.val .red f) s
/-- TSOFT (R104). -/
def execTsoft (c : Fin 1536) (f : RType) (s : State) := State.run (fun d => d.issue c.val .soft f) s
/-- TSEG (R108). -/
def execTseg (c : Fin 1536) (f : RType) (s : State) := State.run (fun d => d.issue c.val .seg f) s
/-- TSORT (R109). -/
def execTsort (c : Fin 1536) (f : RType) (s : State) := State.run (fun d => d.issue c.val .sort f) s
/-- TGATHER (R105). -/
def execTgather (c : Fin 1536) (f : RType) (s : State) := State.run (fun d => d.issue c.val .gather f) s
/-- TSCATTER (R106). -/
def execTscatter (c : Fin 1536) (f : RType) (s : State) := State.run (fun d => d.issue c.val .scatter f) s
/-- TSCATTERADD (R107). -/
def execTscatteradd (c : Fin 1536) (f : RType) (s : State) := State.run (fun d => d.issue c.val .scatterAdd f) s

/-- TENSOR_INSTRUCTION_START (R93): an instruction of the kernel; a fill starts by KV_FILL. -/
def execTensorInstructionStart (c : Fin 1536) (p : Pipe) (s : State) :=
  State.run (fun d => match (d.core c.val).startable (pipeNo p) with
    | some e => if e.isFill then d else d.startPipe c.val (pipeNo p)
    | none => d) s

/-- KV_FILL (R156): the fill that is next in the load/store pipe starts. -/
def execKvFill (c : Fin 1536) (s : State) :=
  State.run (fun d => match (d.core c.val).startable 0 with
    | some e => if e.isFill then d.startPipe c.val 0 else d
    | none => d) s

/-- TENSOR_INSTRUCTION_COMPLETE (R112). -/
def execTensorInstructionComplete (c : Fin 1536) (p : Pipe) (s : State) :=
  State.run (fun d => d.completePipe c.val (pipeNo p)) s

/-- CORE_EXCEPTION_END (R114). -/
def execCoreExceptionEnd (c : Fin 1536) (s : State) := State.run (fun d => d.excEnd c.val) s

/-- TSYNC.PIPE (R110). -/
def execTsyncPipe (c : Fin 1536) (mask : BitVec 3) (s : State) :=
  State.run (fun d => d.tsync c.val (.pipes mask.toNat)) s
/-- TSYNC.MEM (R110). -/
def execTsyncMem (c : Fin 1536) (s : State) := State.run (fun d => d.tsync c.val .mem) s
/-- TSYNC.TILE (R131). -/
def execTsyncTile (c : Fin 1536) (rd : Fin 32) (s : State) := State.run (fun d => d.tsyncTile c.val rd.val) s
/-- TSYNC.END (R110). -/
def execTsyncEnd (c : Fin 1536) (s : State) := State.run (fun d => d.tsync c.val .ending) s

/-- CORE_RETIRE (R118, R120). -/
def execCoreRetire (c : Fin 1536) (s : State) := State.run (fun d => d.retireCore c.val) s
/-- CORE_HW_FAULT (R303). -/
def execCoreHwFault (c : Fin 1536) (s : State) := State.run (fun d => d.coreFault c.val) s

end Sys2Proof.Machine
end

