-- ==== Sys2Proof/Machine/Mgmt.lean ====
section
/-! DEFINITION. Management requests (R339 to R343, R352) and the change log (R342). One row of the table is one kind of request: its
meaning performs the descriptor at the front of channel 0's queue 0 when that request's CODE is the row's, or when no row
has its CODE. -/

namespace Sys2Proof.Machine

/-! ### The change log (R342) -/

/-- Write a 64-byte change log record; a full ring loses its oldest sector of 1,024 records. -/
def Dev.changeLog (d : Dev) (src code result key rseq : Nat) (digest : List Byte) : Dev :=
  let body := leBytes 8 d.now ++ leBytes 2 src ++ leBytes 1 code ++ leBytes 1 result ++ leBytes 1 key ++ leBytes 3 0
    ++ leBytes 8 rseq ++ (digest ++ List.replicate 16 0).take 16 ++ leBytes 4 (d.rd rBootOpsec).toNat
    ++ leBytes 4 (d.rd rBootCycles).toNat ++ leBytes 12 0
  let l := d.mgmt.flash.log
  let l := if 65536 ≤ l.length then l.drop 1024 else l
  let f := { d.mgmt.flash with log := l ++ [body ++ leBytes 4 (crc32 body).toNat] }
  ({ d with mgmt := { d.mgmt with flash := f } }).wr rBootLogCount (d.rd rBootLogCount + 1)

/-- A write of `v` to quota `k` of partition `p` by source `src`: it is logged as 0x83 and takes effect. -/
def Dev.quotaSet (d : Dev) (src p k : Nat) (v : Word) : Dev := (d.changeLog src 0x83 0 0 0 []).quotaWrite p k v

/-! ### Requests (R340, R341) -/

/-- A request as the controller has read it; `key` is the credential that its key names (1 owner, 2 vendor). -/
structure MgmtReq where
  addr : Nat
  len : Nat
  cap : Nat
  src : Nat
  code : Nat
  rseq : Nat
  serial : Nat
  payload : List Byte
  body : List Byte         -- header and payload
  pub : List Byte
  sig : List Byte
  ok : Bool                -- the header is well formed
  deriving DecidableEq, Repr

/-- Is a CODE signed (Table 15-6)? -/
def reqSigned (c : Nat) : Bool := c = 1 || c = 2 || c = 3 || c = 4 || c = 6 || c = 7
/-- Is a CODE one of Table 15-6? -/
def reqCode (c : Nat) : Bool := reqSigned c || c = 5 || c = 0x10 || c = 0x11 || c = 0x12

/-- May the controller use device memory [a, a + n) for a request: in BOOT_STATE FAIL only CD0's Gallery (R352)? -/
def Dev.reqMemory (d : Dev) (a n : Nat) : Bool :=
  (hostPort a).isNone && (regOff a).isNone
    && (d.bootState ≠ 6 || (0x200000000000 ≤ a && a + n ≤ 0x200048000000))

/-- Read the request of a descriptor. -/
def Dev.readReqAt (d : Dev) (lo hi len cap : Word) : MgmtReq × Dev :=
  let a := lo.toNat / 2 * 2 + 2 ^ 32 * hi.toNat
  let n := len.toNat
  let src := d.mgmt.pusher
  let no : MgmtReq := ⟨a, n, cap.toNat, src, 0, 0, 0, [], [], [], [], false⟩
  if a % 64 ≠ 0 || n < 64 || !d.reqMemory a n then (no, d)
  else
    let r := d.readMem ⟨none, srcOf .mgmt⟩ a n
    if r.1.bad.isSome then (no, r.2)
    else
      let b := r.1.bytes
      let code := leAt b 0 2
      let m := leAt b 4 4
      let shape := n = 64 + m + (if reqSigned code then 192 else 0) && leAt b 2 2 = 0 && leAt b 24 40 = 0
      (⟨a, n, cap.toNat, src, code, leAt b 8 8, leAt b 16 8, (b.drop 64).take m, b.take (64 + m),
        (b.drop (64 + m)).take 96, (b.drop (160 + m)).take 96, shape⟩, r.2)

/-- The credential that a key names: 1 owner, 2 vendor, 0 none that is enabled (R340). -/
def Dev.credential (d : Dev) (pub : List Byte) : Nat :=
  let h := Config.sha384 pub
  let en := leAt d.mgmt.lock 0xB0 4
  if h = (d.mgmt.lock.drop 0x80).take 48 && en.testBit 1 then 1
  else if h = (d.mgmt.lock.drop 0x50).take 48 && en.testBit 2 then 2 else 0

/-- Why a request is refused before its payload is looked at: a result code of Table 15-7, 0 where it is not. -/
def Dev.reqRefused (d : Dev) (r : MgmtReq) : Nat :=
  if !r.ok || !reqCode r.code then 5
  else if d.bootState = 6 && !(r.code = 5 || r.code = 0x11 || r.code = 0x12) then 4
  else if !reqSigned r.code then 0
  else if d.credential r.pub = 0 || !Config.ecdsaOk r.pub (Config.sha384 r.body) r.sig then 1
  else if r.serial ≠ d.rd64 rLockSerialLo then 3
  else if r.rseq ≠ d.rd64 rBootRseqLo + 1 then 2
  else 0

/-- What performing a request comes to: the device, and its reply or its refusal. -/
abbrev Performed := Except Nat (Dev × List Byte)

/-- Save RSEQ in flash and in BOOT_RSEQ. -/
def Dev.takeRseq (d : Dev) (n : Nat) : Dev :=
  ({ d with mgmt := { d.mgmt with flash := { d.mgmt.flash with rseq := n } } }).wr64 rBootRseqLo n

/-- The reply and the result go out: data at ADDR up to CAP bytes, two words into queue 1, BOOT_REQ and a record. -/
def Dev.reqReply (d : Dev) (r : MgmtReq) (result : Nat) (reply : List Byte) : Dev :=
  let out := reply.take r.cap
  let d := if out.isEmpty then d else (d.writeMem ⟨none, srcOf .mgmt⟩ r.addr (clean out)).2
  let d := d.wr rBootReq (BitVec.ofNat 32 (result + 256 * (r.code % 256)))
  let d := d.flw 0 (0x100 + r.code % 256) (srcOf .mgmt) 0
  (d.mbxPush (srcOf .mgmt) 0 1 (BitVec.ofNat 32 (result + 256 * (r.code % 256)))).mbxPush (srcOf .mgmt) 0 1
    (BitVec.ofNat 32 out.length)

/-- A request is logged with its result and with the credential that its key names. -/
def Dev.reqLog (d : Dev) (r : MgmtReq) (result : Nat) : Dev :=
  d.changeLog r.src (r.code % 256) result (if reqSigned r.code then d.credential r.pub else 0) r.rseq (Config.sha384 r.body)

/-- A request ends without effect: it is logged, and its result goes out. -/
def Dev.reqEnd (d : Dev) (r : MgmtReq) (result : Nat) : Dev := (d.reqLog r result).reqReply r result []

/-- Perform a request: it is logged, whatever its result, before it takes effect. -/
def Dev.reqRun (d : Dev) (r : MgmtReq) (f : MgmtReq → Dev → Performed) : Dev :=
  match d.reqRefused r with
  | 0 =>
    match f r d with
    | .error e => d.reqEnd r e
    | .ok (_, reply) =>
      let result := if r.cap < reply.length then 5 else 0
      let d := (if reqSigned r.code then d.takeRseq r.rseq else d).reqLog r result
      match f r d with
      | .error e => d.reqReply r e []
      | .ok (d, reply) => d.reqReply r result reply
  | e => d.reqEnd r e

/-- The descriptor that stands first in the words of channel 0's queue 0, and the words after it. Words without START that begin
none are dropped. A word with START begins a new descriptor and the unfinished one is discarded; a word that has bit 0 set for
its address or length reads the same, so that which it is is free (R352; log 41). -/
def descriptor : List Word → Option ((Word × Word × Word × Word) × List Word)
  | [] => none
  | lo :: t =>
    if !bitOf 0 lo then descriptor t
    else match t with
      | hi :: len :: cap :: rest =>
        if (bitOf 0 hi || bitOf 0 len || bitOf 0 cap) && Config.restarts [lo, hi, len, cap] then descriptor t
        else some ((lo, hi, len, cap), rest)
      | _ => none

/-- Serve the request at the front of channel 0's queue 0 when its CODE is `code`, or one that no row has. -/
def Dev.mgmtServe (d : Dev) (code : Nat) (f : MgmtReq → Dev → Performed) : Dev :=
  if d.bootState ≠ 5 && d.bootState ≠ 6 then d
  else
    match descriptor (d.mbxWords 0 0) with
    | some ((lo, hi, len, cap), rest) =>
      let r := d.readReqAt lo hi len cap
      if r.1.ok && reqCode r.1.code && r.1.code ≠ code then d
      else ((r.2.setMbx 0 0 rest).mbxClear 0 0x40000000).reqRun r.1 f
    | none => d

/-! ### Conditions -/

/-- Is queue `q` empty? -/
def Dev.queueEmpty (d : Dev) (q : Nat) : Bool := d.rd (rQmgQHead q) = d.rd (rQmgQTail q)

/-- The partitions that a register belongs to: its page's, or the owner that it names (R19). -/
def Dev.ownersAt (d : Dev) (off : Nat) : List Nat :=
  let w := d.rd off
  if 0x1000100 ≤ off && off < 0x1000200 then (if bitOf 4 w then [fld 3 0 w] else [])
  else if off / 0x1000000 = 0xB then [fld 3 0 w]
  else (d.regPart off).toList

/-- Does a register belong to the partition layout: windows, dies and the owners of units (R19, R20, R23)? -/
def layoutReg (off : Nat) : Bool :=
  (0x800000 ≤ off && off < 0x808000 && (off % 0x1000 = 4 || (0x10 ≤ off % 0x1000 && off % 0x1000 < 0x1C)))
    || (0x1000100 ≤ off && off < 0x1000200) || (0x1400000 ≤ off && off < 0x1800000 && off % 0x40 = 8)
    || (off / 0x1000000 = 0xB && 0x100 ≤ off % 0x100000 && off % 0x100000 < 0x1100)
    || (0x12000000 ≤ off && off < 0x12010000 && off % 0x400 = 0x48)

/-- The partitions that a new layout `n` affects: all where the dies change, else those whose registers change. -/
def Dev.affected (d n : Dev) (l : List (Nat × Word × Word)) : List Nat :=
  if (List.range 8).any (fun p => d.diesMask p ≠ n.diesMask p) then List.range 8
  else l.flatMap (fun e => match regOff e.1 with
    | some off => if d.rd off = n.rd off then [] else d.ownersAt off ++ n.ownersAt off
    | none => [])

/-- The queues of which any register holds a value: every other is empty. -/
def Dev.knownQueues (d : Dev) : List Nat :=
  d.regs.filterMap (fun e => if 0x1400000 ≤ e.1 && e.1 < 0x1800000 then some ((e.1 - 0x1400000) / 0x40) else none)

/-- Is every queue of every partition in `ps` empty, and nothing of them in flight (R23)? -/
def Dev.partsQuiet (d : Dev) (ps : List Nat) : Bool :=
  d.knownQueues.all (fun q => !ps.contains (d.qPart q) || d.queueEmpty q)
    && d.queue.infl.all (fun x => !ps.contains x.part)

/-! ### The requests (Table 15-6) -/

/-- LAYOUT: loads a PARTITION section (R20, R23). -/
def doLayout (r : MgmtReq) (d : Dev) : Performed :=
  let l := loadList r.payload
  if r.payload.length % 16 ≠ 0 || !l.all entryOk then .error 5
  else match d.loadLayout l with
    | none => .error 5
    | some n => if d.partsQuiet (d.affected n l) then .ok (n, []) else .error 4
/-- LAYOUT (R23). -/
def execLayout (s : State) := State.run (fun d => d.mgmtServe 1 doLayout) s

/-- The one word of a payload of 4 bytes. -/
def reqWord (r : MgmtReq) : Option Nat := if r.payload.length = 4 then some (leAt r.payload 0 4) else none

/-- FENCE_DIE: the die of the payload is fenced (R304). -/
def doFenceDie (r : MgmtReq) (d : Dev) : Performed :=
  match reqWord r with
  | some n => if n < 8 then .ok (d.fenceDie n, []) else .error 5
  | none => .error 5
/-- FENCE_DIE (R341). -/
def execFenceDie (s : State) := State.run (fun d => d.mgmtServe 2 doFenceDie) s

/-- The device takes coordinate `c` (R308). -/
def Dev.recoord (d : Dev) (c : Nat) : Dev :=
  let d := d.wrFld rColCoord 15 0 c
  let d := d.each d.groupsOn (fun d g => d.groupDisable g.1 g.2)
  let ports := List.range 24
  let out := ports.filter (fun p => d.portOn p && d.portRole p = 0 && d.rdFld (rLnkExpect p) 15 0 / 16 ≠ c / 16)
  let d := d.each out (fun d p => (d.portDown p).wrFld (rLnkCfg p) 0 0 0)
  d.each (ports.filter d.portOn) Dev.sayHello

/-- RECOORD: refused unless every queue of the device is empty. -/
def doRecoord (r : MgmtReq) (d : Dev) : Performed :=
  match reqWord r with
  | some c =>
    if 65536 ≤ c then .error 5
    else if d.enabledQueues.all d.queueEmpty then .ok (d.recoord c, []) else .error 4
  | none => .error 5
/-- RECOORD (R308). -/
def execRecoord (s : State) := State.run (fun d => d.mgmtServe 3 doRecoord) s

/-- POWER_STATE: ON, IDLE or STANDBY (R326). -/
def doPowerState (r : MgmtReq) (d : Dev) : Performed :=
  match reqWord r with
  | some v =>
    let now := d.rdFld rPwrStatus 1 0
    if 3 ≤ v then .error 5
    else if d.mgmt.wake.isSome then .error 4
    else if now = v then .ok (d, [])
    else if now = 2 then .ok (d.startWake [] v, [])
    else if v = 0 then .ok (d.wrFld rPwrStatus 1 0 0, [])
    else if d.canSleep (v = 2) then .ok (d.sleep v, []) else .error 4
  | none => .error 5
/-- POWER_STATE (R326). -/
def execPowerState (s : State) := State.run (fun d => d.mgmtServe 4 doPowerState) s

/-- Write an image copy in flash. -/
def FlashSt.setImage (f : FlashSt) (copy : Nat) (l : List Byte) : FlashSt :=
  if copy = 0 then { f with copy0 := l } else { f with copy1 := l }

/-- IMAGE_WRITE: a copy number and an image, which passes checks 2 to 8 against the fuses. -/
def doImageWrite (r : MgmtReq) (d : Dev) : Performed :=
  let copy := leAt r.payload 0 4
  let img := r.payload.drop 4
  let good (img : List Byte) : Bool := imgCheck d.mgmt.fuse (d.rd rTopId) img = 0
  if r.payload.length < 4 || 2 ≤ copy then .error 5
  else if img.length ≠ imgLen img || !good img then .error 1
  else if d.bootState = 5 && copy = d.rdFld rBootState 4 4 && !good (d.mgmt.flash.image (1 - copy)) then .error 4
  else .ok ({ d with mgmt := { d.mgmt with flash := d.mgmt.flash.setImage copy img } }, [])
/-- IMAGE_WRITE (R341). -/
def execImageWrite (s : State) := State.run (fun d => d.mgmtServe 5 doImageWrite) s

/-- SECVER: the fused floor rises to the running image's SECVER. -/
def doSecver (r : MgmtReq) (d : Dev) : Performed :=
  if r.payload.isEmpty then
    let v := max d.mgmt.fuse.floor (d.rdFld rBootSecver 15 0)
    .ok (({ d with mgmt := { d.mgmt with fuse := { d.mgmt.fuse with floor := v } } }).wrFld rBootSecver 31 16 v, [])
  else .error 5
/-- SECVER (R341). -/
def execSecver (s : State) := State.run (fun d => d.mgmtServe 6 doSecver) s

/-- Apply one entry of a REGLIST: a write to an SMP quota register has its effect and is logged. -/
def Dev.applyReg (d : Dev) (src : Nat) (e : Nat × Word × Word) : Dev :=
  match (List.range 24).find? (fun k => regOff e.1 = some (rQuota (k / 3) (k % 3))) with
  | some k =>
    let old := d.rd (rQuota (k / 3) (k % 3))
    d.quotaSet src (k / 3) (k % 3) ((old &&& ~~~e.2.2) ||| (e.2.1 &&& e.2.2))
  | none => d.applyEntry e

/-- REGLIST: a section type (6, 7 or 8) and its entries; a T2 pool that would meet an enabled sample-cache ring is refused
(R210, R336), and entries that change the layout follow R20 and R23. -/
def doReglist (r : MgmtReq) (d : Dev) : Performed :=
  let t := leAt r.payload 0 4
  let l := loadList (r.payload.drop 4)
  if r.payload.length < 4 || (r.payload.length - 4) % 16 ≠ 0 || t < 6 || 8 < t || !l.all entryOk then .error 5
  else
    match d.loadSection l with
    | none => .error 5
    | some n =>
      if t = 6 && (List.range 8).any (fun p => n.cacheOn p && n.meetsPool (n.rd64 (rInpCacheBaseLo p)) (n.ringBytes p)) then .error 5
      else if !d.partsQuiet (d.affected n (l.filter (fun e => (regOff e.1).any layoutReg))) then .error 4
      else
        .ok ((d.each l (fun d e => d.applyReg r.src e)).setLayout, [])
/-- REGLIST (R336). -/
def execReglist (s : State) := State.run (fun d => d.mgmtServe 7 doReglist) s

/-- The 64 bytes of a fault ledger record (Table 13-5). -/
def ledgerBytes (r : LedgerRec) : List Byte :=
  let body := leBytes 2 r.kind ++ leBytes 2 r.src ++ leBytes 4 r.count.toNat ++ leBytes 8 r.loc ++ leBytes 8 r.first
    ++ leBytes 8 r.last ++ leBytes 4 r.opsec.toNat ++ leBytes 4 r.cycles.toNat ++ leBytes 1 r.action ++ leBytes 1 r.done.toNat
    ++ leBytes 2 0 ++ leBytes 4 r.errInfo.toNat ++ leBytes 12 0
  body ++ leBytes 4 (crc32 body).toNat

/-- The records that a read names: the first one and how many. -/
def reqRecords (r : MgmtReq) (l : List (List Byte)) : Option (List Byte) :=
  if r.payload.length = 8 then some ((l.drop (leAt r.payload 0 4)).take (leAt r.payload 4 4)).flatten else none

/-- LEDGER_READ. -/
def doLedgerRead (r : MgmtReq) (d : Dev) : Performed :=
  match reqRecords r (d.rcd.ledger.map ledgerBytes) with
  | some b => .ok (d, b)
  | none => .error 5
/-- LEDGER_READ (R341). -/
def execLedgerRead (s : State) := State.run (fun d => d.mgmtServe 0x10 doLedgerRead) s

/-- LOG_READ. -/
def doLogRead (r : MgmtReq) (d : Dev) : Performed :=
  match reqRecords r d.mgmt.flash.log with
  | some b => .ok (d, b)
  | none => .error 5
/-- LOG_READ (R341). -/
def execLogRead (s : State) := State.run (fun d => d.mgmtServe 0x11 doLogRead) s

/-- STATUS: BOOT_STATE, the image digest and the lock status. -/
def doStatus (r : MgmtReq) (d : Dev) : Performed :=
  if r.payload.isEmpty then
    .ok (d, wordsToBytes (d.rd rBootState :: (List.range 12).map (fun i => d.rd (rBootDigest i)) ++ [d.rd rLockStatus]))
  else .error 5
/-- STATUS (R341). -/
def execStatus (s : State) := State.run (fun d => d.mgmtServe 0x12 doStatus) s

/-! ### The standby twin (R343) -/

/-- The request at the front of channel 0's queue 0 was in progress: it completes with TAKEOVER and has no effect. -/
def Dev.reqLost (d : Dev) : Dev :=
  if d.bootState ≠ 5 && d.bootState ≠ 6 then d
  else match descriptor (d.mbxWords 0 0) with
    | some ((lo, hi, len, cap), rest) =>
      let r := d.readReqAt lo hi len cap
      ((r.2.setMbx 0 0 rest).mbxClear 0 0x40000000).reqEnd r.1 6
    | none => d

/-- The twin takes over. Whether the request at the front was in progress is a free value: the model performs a request whole,
so that one that is served has taken effect (log 41). -/
def Dev.takeover (d : Dev) : Dev :=
  if bitOf 6 (d.rd rBootState) then d
  else
    let f := (((d.wrFld rBootState 6 6 1).wrFld rFlwStatus 0 0 1).flw 0 0x10 (srcNo 17 0x070) 0).fresh
    if Config.requestTaken f.1 then f.2.reqLost else f.2

/-- TWIN_TAKEOVER (R343). -/
def execTwinTakeover (s : State) := State.run Dev.takeover s

end Sys2Proof.Machine
end

