-- ==== Sys2Proof/Machine/Lock.lean ====
section
/-! DEFINITION. The access lock (R344 to R347). -/

namespace Sys2Proof.Machine

/-- Set bits of LOCK_ERR. -/
def Dev.lockErr (d : Dev) (bit : Nat) : Dev := d.wr rLockErr (setBit bit true (d.rd rLockErr))

/-- A lock event is logged, in the change log and in Flowstone. -/
def Dev.lockEvent (d : Dev) (src code key : Nat) : Dev := (d.changeLog src code 0 key 0 []).flw 7 code src 0

/-- CLOSE: both scopes close at once, in every state; a running attempt is abandoned. -/
def Dev.lockClose (d : Dev) (src : Nat) : Dev :=
  let d := (d.wrFld rLockStatus 1 0 0).wrFld rLockStatus 9 8 0
  let d := { d with mgmt := { d.mgmt with attempt := d.mgmt.attempt.map (fun (a : Attempt) => { a with abandoned := true }) } }
  d.lockEvent src 0x81 0

/-- The bit of the LOCK section's enables that a command's credential has: PW_EN, OWNER_EN, VENDOR_EN. -/
def Dev.lockEnabled (d : Dev) (cmd : Nat) : Bool := (leAt d.mgmt.lock 0xB0 4).testBit (cmd - 1)

/-- A write to LOCK_CMD by source `src`, judged in the order of R346. -/
def Dev.lockCmd (d : Dev) (src : Nat) (v : Word) : Dev :=
  let c := fld 3 0 v
  let n := fld 10 4 v
  if c = 4 then d.lockClose src
  else if bitOf 2 (d.rd rLockStatus) || bitOf 3 (d.rd rLockStatus) then d.lockErr 2
  else if c = 0 || 4 < c || (c = 1 && (n < 8 || 64 < n)) then d.lockErr 4
  else if !d.lockEnabled c then d.lockErr 3
  else
    let a : Attempt := {
      src := src, cmd := c, len := n, data := (List.range 48).map (fun i => d.rd (rLockData i)),
      nonce := (List.range 8).map (fun i => d.rd (rLockNonce i)), abandoned := false }
    ({ d with mgmt := { d.mgmt with attempt := some a } }).wrFld rLockStatus 3 3 1

/-- The verifier of a password (R344). -/
def pwHash (salt pw : List Byte) : List Byte :=
  (List.range 4095).foldl (fun h _ => Config.sha384 (h ++ salt)) (Config.sha384 (salt ++ pw))

/-- Does an attempt succeed (R344, R346)? -/
def Dev.attemptOk (d : Dev) (a : Attempt) : Bool :=
  let sect := d.mgmt.lock
  let b := wordsToBytes a.data
  if a.cmd = 1 then pwHash (sect.take 32) (b.take a.len) = (sect.drop 0x20).take 48
  else
    let key := b.take 96
    let want := if a.cmd = 2 then (sect.drop 0x80).take 48 else (sect.drop 0x50).take 48
    Config.sha384 key = want
      && Config.ecdsaOk key (Config.sha384 (wordsToBytes a.nonce ++ leBytes 8 d.mgmt.fuse.serial)) ((b.drop 96).take 96)

/-- The credential of a command, as the change log numbers it: 1 owner, 2 vendor, 3 password. -/
def lockKey (cmd : Nat) : Nat := if cmd = 1 then 3 else cmd - 1

/-- A successful attempt opens its scopes and closes none. -/
def Dev.lockOpen (d : Dev) (a : Attempt) : Dev :=
  let w := d.rd rLockStatus
  let w := setBit 0 true (if a.cmd = 3 then setBit 1 true w else w)
  (d.wr rLockStatus (setFld 9 8 a.cmd w)).lockEvent a.src 0x80 (lockKey a.cmd)

/-- A failed attempt is counted; the eighth locks out. -/
def Dev.lockFail (d : Dev) (a : Attempt) : Dev :=
  let n := d.rdFld rLockStatus 7 4 + 1
  let d := (d.wrFld rLockStatus 7 4 n).lockErr 0
  if n < 8 then d else ((d.wrFld rLockStatus 2 2 1).lockErr 1).lockEvent a.src 0x82 (lockKey a.cmd)

/-- 10 ms after its command an attempt ends. -/
def Dev.lockEnd (d : Dev) : Dev :=
  match d.mgmt.attempt with
  | none => d
  | some a =>
    let d := ({ d with mgmt := { d.mgmt with attempt := none } }).wrFld rLockStatus 3 3 0
    (if a.abandoned then d else if d.attemptOk a then d.lockOpen a else d.lockFail a).drawNonce

/-- LOCK_ATTEMPT_END (R346). -/
def execLockAttemptEnd (s : State) := State.run Dev.lockEnd s

end Sys2Proof.Machine
end

