-- ==== Sys2Proof/WellFormed.lean ====
section
/-! DEFINITION. Which commands a sender can form. A command that breaks its check cannot reach the device: its meaning
faults with `illFormed`. The bounds of unit indices are in the types of Syntax.lean. -/

namespace Sys2Proof

/-- A PCIe access to BAR2 has a width of 1 to 255 bytes in the capture field (R31, R380), and a doorbell is no such access:
a 32-bit write at offset 0x00 of a 64-byte page rings the queue (R31). -/
def WellFormed.bar2 (off : BitVec 22) (width : BitVec 8) (a : BarOp) : Bool :=
  width ≠ 0 && (a = .read || !(width = 4 && off.toNat % 64 = 0))

/-- An unaligned access has a nonzero size and is not aligned to it (R371). -/
def WellFormed.unaligned (off : BitVec 32) (width : BitVec 8) : Bool := width ≠ 0 && off.toNat % width.toNat ≠ 0

/-- The number of bytes of an access size. -/
def MemSize.bytes : MemSize → Nat
  | .b1 => 1
  | .b2 => 2
  | .b4 => 4
  | .b8 => 8

/-- The check of each command. -/
def Instr.wellFormed : Instr → Bool
  | .bar2OtherWrite _ off width a => WellFormed.bar2 off width a
  | .unalignedAccess _ off width _ => WellFormed.unaligned off width
  | _ => true

end Sys2Proof
end

