-- ==== Sys2Proof/Machine/RegIo.lean ====
section
/-! DEFINITION. Reads and writes of registers as their senders make them (R28, R369 to R376): who reaches a page, access widths, side
effects of reads, latches, and what a write to each register does. -/

namespace Sys2Proof.Machine

/-! ### Reads -/

/-- Key of the latch of `off`'s block for latch number `k` (R373). -/
def latchKey (off k : Nat) : Nat := off / 0x1000000 * 4 + k

/-- The latch of `off`'s block for latch number `k`. -/
def Dev.latchAt (d : Dev) (off k : Nat) : Option Word := sget (fun _ => none) d.latch (latchKey off k)

/-- Set it. -/
def Dev.setLatch (d : Dev) (off k : Nat) (v : Option Word) : Dev :=
  { d with latch := sset (fun _ => none) d.latch (latchKey off k) v }

/-- Is the register at `off` the low (high) word of a counter pair or of TS_NOW? -/
def latchLo (off : Nat) : Bool := off = rTsNowLo || (findRow off).any (fun r => r.pair = .counterLo)
/-- The high word. -/
def latchHi (off : Nat) : Bool := off = rTsNowHi || (findRow off).any (fun r => r.pair = .counterHi)

/-- Is the block of `off` hidden in BOOT_STATE FAIL: all but TOP, BOOT, LOCK, MBX, SB and PCI (R337)? -/
def Dev.failHides (d : Dev) (off : Nat) : Bool :=
  let b := off / 0x1000000
  d.bootState = 6 && !(b = 0 || b = 0x10 || b = 0x11 || b = 0x12 || b = 0x14 || b = 0x16)

/-- A 32-bit read of the register at `off`, with its side effects: pops, the lock, RC fields, latches. A shadow is read as it
stands (R355). -/
def Dev.read32 (d : Dev) (o : Origin) (off : Nat) : Word × Dev :=
  if 0x80000000 ≤ off then (sget (fun _ => 0) d.shadow (off - 0x80000000), d)
  else if d.failHides off || d.pageHidden off then (0, d)
  else match findRow off with
    | none => (0, d)
    | some r =>
      let ch := (off - 0x12000000) / 0x400
      if off / 0x1000000 = 0x12 && (off % 0x400 = 4 || off % 0x400 = 0x14) then d.mbxPop (srcOf o) ch (off % 0x400 / 0x10)
      else if off / 0x1000000 = 0x12 && off % 0x400 = 0x40 then d.lockRead (srcOf o) ch
      else
        let v := d.peek off
        let d := if r.rc = 0 then d else d.wr off (v &&& ~~~(BitVec.ofNat 32 r.rc))
        match latchOf o with
        | none => (v, d)
        | some k =>
          if latchLo off then (v, d.setLatch off k (some (d.peek (off + 4))))
          else if latchHi off then
            match d.latchAt off k with
            | some w => (w, d.setLatch off k none)
            | none => (v, d)
          else (v, d)

/-! ### Writes -/

/-- What a plain write leaves: RW fields take the value, W1C bits written 1 clear. -/
def Dev.writePlain (d : Dev) (off : Nat) (v : Word) : Dev :=
  match findRow off with
  | none => d
  | some r =>
    let rw : Word := BitVec.ofNat 32 (r.rw ||| r.wo)
    d.wr off (((d.rd off &&& ~~~rw) ||| (v &&& rw)) &&& ~~~(v &&& BitVec.ofNat 32 r.w1c))

/-- A write to TOP_P_CTL (Table 17-7): a write with both bits set does nothing. -/
def Dev.partCtl (d : Dev) (p : Nat) (v : Word) : Dev :=
  let qs := (List.range 65536).filter (fun q => d.qPart q = p)
  match fld 1 0 v with
  | 1 => d.each qs (fun d q => d.queueStopWrite q true)
  | 2 => d.each qs (fun d q => d.queueStopWrite q false)
  | _ => d

/-- A write to TOP_SEED_LO is held; TOP_SEED_HI puts both words in effect (R379). -/
def Dev.seedLo (d : Dev) (p : Nat) (v : Word) : Dev := { d with seedHeld := sset (fun _ => 0) d.seedHeld p v }
/-- A write to TOP_SEED_HI. -/
def Dev.seedHi (d : Dev) (p : Nat) (v : Word) : Dev := (d.wr (rTopSeedLo p) (sget (fun _ => 0) d.seedHeld p)).wr (rTopSeedHi p) v

/-- A write to QMG_Q_CTL: FLUSH acts on the state before the write, then STOP takes its value (R244). -/
def Dev.queueCtl (d : Dev) (q : Nat) (v : Word) : Dev :=
  let st := d.rdFld (rQmgQStatus q) 1 0
  (if bitOf 1 v && (st = 2 || st = 3) then d.flush q 0x23 else d).queueStopWrite q (bitOf 0 v)

/-- A write to a queue's page (Table 10-10). -/
def Dev.writeQueue (d : Dev) (off : Nat) (v : Word) : Dev :=
  let q := (off - 0x1400000) / 0x40
  match off % 0x40 with
  | 0x08 => d.queueCfg q v
  | 0x1C => d.doorbell q v
  | 0x28 => d.queueCtl q v
  | 0x2C => d.writePlain off v
  | _ => if bitOf 0 (d.rd (rQmgQCfg q)) || d.closing q then d else d.writePlain off v

/-- A write to a sync counter: VAL sets it and clears FAULT, ADD adds. -/
def Dev.writeCnt (d : Dev) (off : Nat) (v : Word) : Dev :=
  let c := (off - 0x1800000) / 8
  if off % 8 = 0 then (d.wr (rQmgCntVal c) v).cntFault c false else d.cntAdd c v

/-- A write to INJ_ADDR by source `src`: discarded and logged while the lock is CLOSED (R176). -/
def Dev.injAddr (d : Dev) (src off : Nat) (v : Word) : Dev :=
  if d.debugOpen then d.writePlain off v else d.accessErr 4 src 4 (0x3F0000000000 + off)

/-- A write to a page of the GAL or HBM block. -/
def Dev.writeEcc (d : Dev) (src off : Nat) (v : Word) : Dev :=
  let pg := if off < 0x6000000 then (off - 0x5000000) / 0x100000 else 8 + (off - 0x6000000) / 0x100000
  match off % 0x100000 with
  | 0x44 => d.ceThresh pg v
  | 0x50 => d.scrubCtl pg v
  | 0xF0 => d.injAddr src off v
  | 0xF4 => d.injAddr src off v
  | 0xF8 => d.injCtl src pg v
  | _ => d.writePlain off v

/-- Do the `n` bytes at `a` lie within the windows of partition `p`, in one region? -/
def Dev.windowHolds (d : Dev) (p a n : Nat) : Bool :=
  let z := a + n - 1
  n = 0 || (d.inWindow p a && d.inWindow p z
    && ((isHbm a && isHbm z) || (isManaged a && isManaged z) || (isSump a && isSump z) || (isGallery a && isGallery z)
      || (isPocket a && z / 0x200000 = a / 0x200000) || ((hostPort a).isSome && hostPort a = hostPort z)))

/-- A write to COL_EXP_CTL (Table 13-8). -/
def Dev.expCtl (d : Dev) (p : Nat) (v : Word) : Dev :=
  let on := bitOf 0 (d.rd (rColExpCtl p))
  if bitOf 0 v && !on && !d.windowHolds p (d.rd64 (rColExpBaseLo p)) (d.rd64 (rColExpSizeLo p)) then d
  else d.wr (rColExpCtl p) (BitVec.ofNat 32 (fld 0 0 v))

/-- A write to the COL block: group pages, epoch pages, the rest. -/
def Dev.writeCol (d : Dev) (o : Origin) (off : Nat) (v : Word) : Dev :=
  if 0x9400000 ≤ off && off < 0x9480000 then
    let p := (off - 0x9400000) / 0x10000
    let g := off % 0x10000 / 0x40
    if off % 0x40 = 0 then d.groupCtl p g v
    else if d.groupOn p g then d else d.writePlain off v
  else if 0x9800000 ≤ off && off < 0x9808000 then
    let p := (off - 0x9800000) / 0x1000
    match off % 0x1000 with
    | 0x04 => d.epochSet o p v
    | 0x08 => d.epCtl (srcOf o) p v
    | 0x44 => d.nsCtl p v
    | 0x90 => d.expCtl p v
    | k => if 0x80 ≤ k && k < 0x90 && bitOf 0 (d.rd (rColExpCtl p)) then d else d.writePlain off v
  else d.writePlain off v

/-- A write to a port's page (Table 12-16): EN = 1 begins training, EN = 0 takes the port down. -/
def Dev.writeLnk (d : Dev) (off : Nat) (v : Word) : Dev :=
  let p := (off - 0xA000000) / 0x10000
  let en := d.portOn p
  match off % 0x10000 with
  | 0 =>
    if en then (if bitOf 0 v then d else (d.portDown p).wrFld (rLnkCfg p) 0 0 0)
    else (d.wrFld (rLnkCfg p) 1 0 (fld 1 0 v)).trainPort p
  | 0x70 => if en then d else d.writePlain off v
  | 0x74 => if en then d else d.writePlain off v
  | 0x80 => if en then d else d.writePlain off v
  | _ => d.writePlain off v

/-- A write to a mailbox channel (Table 16-1). -/
def Dev.writeMbx (d : Dev) (o : Origin) (off : Nat) (v : Word) : Dev :=
  let ch := (off - 0x12000000) / 0x400
  match off % 0x400 with
  | 0x00 => d.mbxPush (srcOf o) ch 0 v
  | 0x10 => d.mbxPush (srcOf o) ch 1 v
  | 0x20 => d.mbxClear ch v
  | 0x24 => d.mbxSet ch v
  | 0x28 => d.mbxMask ch 0 v
  | 0x2C => d.mbxMask ch 1 v
  | 0x30 => d.mbxTarget (srcOf o) ch 0 v
  | 0x34 => d.mbxTarget (srcOf o) ch 1 v
  | 0x40 => d.lockWrite (srcOf o) ch
  | 0x44 => d.lockForce o ch v
  | _ => d.writePlain off v

/-- A write to AGE_CTL: AGE_LIMIT, and REPLAN with what the monitors find. -/
def Dev.ageCtl (d : Dev) (v hours : Word) (ages : List (Fin 96 × BitVec 16 × BitVec 8)) : Dev :=
  let d := d.wrFld rAgeCtl 15 8 (fld 15 8 v)
  if bitOf 0 v then d.replan hours ages else d

/-- The block of an offset decides what a 32-bit write does. -/
def Dev.writeBlock (d : Dev) (o : Origin) (off : Nat) (v : Word) : Dev :=
  let page (b : Nat) : Nat := (off - b) / 0x1000
  match off / 0x1000000 with
  | 0x00 =>
    if off < 0x800000 then d.writePlain off v
    else match off % 0x1000 with
      | 0 => d.partCtl (page 0x800000) v
      | 0x20 => d.seedLo (page 0x800000) v
      | 0x24 => d.seedHi (page 0x800000) v
      | _ => d.writePlain off v
  | 0x01 =>
    if 0x1800000 ≤ off then d.writeCnt off v else if 0x1400000 ≤ off then d.writeQueue off v else d.writePlain off v
  | 0x02 =>
    if off < 0x2800000 || off % 0x1000 = 0x20 then d.writePlain off v
    else if off % 0x1000 = 0 then d.kvCtl (page 0x2800000) v
    else if bitOf 0 (d.rd (rDmaKvCtl (page 0x2800000))) || d.kvClosing.any (·.1 = page 0x2800000) then d
    else d.writePlain off v
  | 0x05 => d.writeEcc (srcOf o) off v
  | 0x06 => d.writeEcc (srcOf o) off v
  | 0x07 =>
    match (List.range 24).find? (fun k => off = rQuota (k / 3) (k % 3)) with
    | some k => d.quotaSet (srcOf o) (k / 3) (k % 3) v
    | none => d.writePlain off v
  | 0x08 =>
    if off < 0x8C00000 || off % 0x1000 = 0x14 then d.writePlain off v
    else if off % 0x1000 = 0 then d.trwCtl (page 0x8C00000) v
    else if d.trwOn (page 0x8C00000) || d.trw.closing.any (·.1 = page 0x8C00000) then d
    else d.writePlain off v
  | 0x09 => d.writeCol o off v
  | 0x0A => d.writeLnk off v
  | 0x0B => if off % 0x100000 = 0x40 then d.keyRequest ((off - 0xB000000) / 0x100000) v else d.writePlain off v
  | 0x0C =>
    if off < 0xC800000 then d.writePlain off v
    else
      let p := (off - 0xC800000) / 0x10000
      if off % 0x10000 = 0x18 then d.cacheCtl p v else if d.cacheOn p then d else d.writePlain off v
  | 0x0F => d.ageCtl v (BitVec.ofNat 32 ((d.rd rBootOpsec).toNat / 3600)) []
  | 0x11 => if off = rLockCmd then d.lockCmd (srcOf o) v else d.writePlain off v
  | 0x12 => d.writeMbx o off v
  | 0x13 => if off = rFlwRdSeq then d.flwFetch v else d.writePlain off v
  | 0x15 => if off = rTsSnapAtHi then d.snapArm v else d.writePlain off v
  | _ => d.writePlain off v

/-- May the register at `off` be written at all: it has a field that a write acts on, or is MBX_LOCK? -/
def writable (off : Nat) : Bool :=
  (findRow off).any (fun r => r.rw ||| r.w1c ||| r.w1s ||| r.wo ≠ 0)
    || (0x12000000 ≤ off && off < 0x12010000 && off % 0x400 = 0x40)

/-- A 32-bit write of the register at `off`. -/
def Dev.write32 (d : Dev) (o : Origin) (off : Nat) (v : Word) : Dev :=
  if d.failHides off || d.pageHidden off || !writable off then d else d.writeBlock o off v

/-! ### Who reaches a page, and widths (R28, R371) -/

/-- The partition that a core or DMA engine acts for; a hub engine acts for the command that it holds. -/
def Dev.originPart (d : Dev) (o : Origin) : Option Nat :=
  match o with
  | .dma e => if e.val < 64 then (d.queue.infl.find? (fun x => x.eng = e.val && x.held)).map (·.part) else d.partOf o
  | o => d.partOf o

/-- Is the origin bound by R28? -/
def bounded : Origin → Bool
  | .core _ => true
  | .dma _ => true
  | _ => false

/-- Is `off` in the register page of a core that is ABSENT or lies on a fenced die (R24, R120)? -/
def Dev.coreGone (d : Dev) (off : Nat) : Bool :=
  let c := (off - 0x4000000) / 0x1000
  0x4000000 ≤ off && off < 0x4600000 && (d.coreState c = 0 || d.fenced (c / 192))

/-- May the origin access the register page of `off`: units of its own partition, or a write while DEBUG is open (R345)? The
page of a core that is gone is in no partition's reach. -/
def Dev.regReach (d : Dev) (o : Origin) (wr : Bool) (off : Nat) : Bool :=
  !bounded o || (!d.coreGone off && ((d.regPart off).any (fun p => d.originPart o = some p) || (wr && d.debugOpen)))

/-- A register access that R28 refuses: logged as PARTITION, and POISON of the origin's partition is set (R21). -/
def Dev.regRefuse (d : Dev) (o : Origin) (off width : Nat) : Dev :=
  (match d.originPart o with
    | some p => d.epFlag p 0
    | none => d).accessErr 7 (srcOf o) width (0x3F0000000000 + off)

/-- The outcome of a register access: its bytes, whether R28 refused it. -/
structure RegRd where
  bytes : List Byte
  refused : Bool
  deriving DecidableEq, Repr

/-- Read `n` bytes (1, 2, 4 or 8) of register space at `off` (Table 17-2). -/
def Dev.regRead (d : Dev) (o : Origin) (off n : Nat) : RegRd × Dev :=
  if off % n ≠ 0 then (⟨List.replicate n 0xFF, false⟩, d.accessErr 1 (srcOf o) n (0x3F0000000000 + off))
  else if !d.regReach o false off then (⟨List.replicate n 0, true⟩, d.regRefuse o off n)
  else if n ≤ 4 then
    let r := d.read32 o (off / 4 * 4)
    (⟨(leBytes 4 r.1.toNat).drop (off % 4) |>.take n, false⟩, r.2)
  else
    let lo := d.read32 o off
    let hi := lo.2.read32 o (off + 4)
    (⟨leBytes 4 lo.1.toNat ++ leBytes 4 hi.1.toNat, false⟩, hi.2)

/-- Write `n` bytes of register space at `off`. -/
def Dev.regWrite (d : Dev) (o : Origin) (off n v : Nat) : Dev :=
  if off % n ≠ 0 then d.accessErr 1 (srcOf o) n (0x3F0000000000 + off)
  else if !d.regReach o true off then d.regRefuse o off n
  else if n < 4 then d.accessErr 0 (srcOf o) n (0x3F0000000000 + off)
  else
    let d := d.write32 o off (BitVec.ofNat 32 v)
    if n = 4 then d else d.write32 o (off + 4) (BitVec.ofNat 32 (v / 2 ^ 32))

/-- Answer an access. -/
def Dev.answer (d : Dev) (bs : List Byte) (ep : Bool) : Dev := { d with resp := .data bs ep }

end Sys2Proof.Machine
end

