-- ==== Sys2Proof/Machine/RegRows.lean ====
section
/-! DEFINITION. The commands that are accesses to one register: each is a write or read of that register by its origin, so that R28,
the access widths and the register's own rules all apply (RegIo.lean). Where a row stands for a bit written 1 (or 0), that bit
of its operand is taken as so. An origin's core does not advance here: SCALAR_LOAD and SCALAR_STORE are the instructions
(log 48). -/

namespace Sys2Proof.Machine

/-- Can an origin's access reach the device: a host needs its port's link up, and BARs that answer only in READY and FAIL
(R338, R370)? -/
def Dev.may (d : Dev) (o : Origin) : Bool :=
  match o with
  | .host p => d.linkUp p.val && (d.bootState = 5 || d.bootState = 6)
  | _ => true

/-- Port of a host origin. -/
def hostOf : Origin → Option Nat
  | .host p => some p.val
  | _ => none

/-- A register write as a row of the table; poisoned host data is discarded and sets PCI_ERR.EP (R35). -/
def Dev.hostWrite (d : Dev) (o : Origin) (off n v : Nat) (ep : Bool) : Dev :=
  if !d.may o then d
  else match hostOf o, ep with
    | some p, true => d.pciErr p 0 (0x3F0000000000 + off)
    | _, _ => d.regWrite o off n v

/-- A 32-bit register write. -/
def Dev.rowWr (d : Dev) (o : Origin) (off : Nat) (v : Word) : Dev := d.hostWrite o off 4 v.toNat false

/-- A register read as a row of the table: the sender gets its bytes, poisoned where R28 refuses. -/
def Dev.rowRd (d : Dev) (o : Origin) (off n : Nat) : Dev :=
  if !d.may o then d
  else
    let r := d.regRead o off n
    r.2.answer r.1.bytes r.1.refused

/-! ### Queues and counters -/

/-- DOORBELL (R31, R231): a host rings through BAR2, a unit of the partition through QMG_Q_DB. -/
def execDoorbell (o : Origin) (q : Fin 65536) (tail : Word) (ep : Bool) (s : State) :=
  State.run (fun d => match hostOf o with
    | some p =>
      if !d.may o then d
      else if ep then d.pciErr p 0 (64 * q.val)
      else d.doorbell q.val tail
    | none => d.rowWr o (rQmgQDb q.val) tail) s

/-- QUEUE_STOP (R244). -/
def execQueueStop (o : Origin) (q : Fin 65536) (s : State) := State.run (fun d => d.rowWr o (rQmgQCtl q.val) 1) s
/-- QUEUE_RESUME (R244). -/
def execQueueResume (o : Origin) (q : Fin 65536) (s : State) := State.run (fun d => d.rowWr o (rQmgQCtl q.val) 0) s
/-- QUEUE_FLUSH (R244). -/
def execQueueFlush (o : Origin) (q : Fin 65536) (stop : Bool) (s : State) :=
  State.run (fun d => d.rowWr o (rQmgQCtl q.val) (BitVec.ofNat 32 (2 + stop.toNat))) s
/-- QUEUE_ENABLE (R230). -/
def execQueueEnable (o : Origin) (q : Fin 65536) (v : Word) (s : State) :=
  State.run (fun d => d.rowWr o (rQmgQCfg q.val) (setBit 0 true v)) s
/-- QUEUE_DISABLE (R244). -/
def execQueueDisable (o : Origin) (q : Fin 65536) (v : Word) (s : State) :=
  State.run (fun d => d.rowWr o (rQmgQCfg q.val) (setBit 0 false v)) s
/-- QMG_CNT_VAL (R237). -/
def execQmgCntVal (o : Origin) (c : Fin 262144) (v : Word) (s : State) := State.run (fun d => d.rowWr o (rQmgCntVal c.val) v) s
/-- QMG_CNT_ADD (R237). -/
def execQmgCntAdd (o : Origin) (c : Fin 262144) (v : Word) (s : State) := State.run (fun d => d.rowWr o (rQmgCntAdd c.val) v) s
/-- TOP_P_STOPALL (R379). -/
def execTopPStopall (o : Origin) (part : Fin 8) (v : Word) (s : State) :=
  State.run (fun d => d.rowWr o (rTopPCtl part.val) (setBit 0 true v)) s
/-- TOP_P_RESUME (R379). -/
def execTopPResume (o : Origin) (part : Fin 8) (v : Word) (s : State) :=
  State.run (fun d => d.rowWr o (rTopPCtl part.val) (setBit 1 true v)) s

/-! ### Media, KV, memory, Trowel, tiers -/

/-- VCD_KEYREQ (R49). -/
def execVcdKeyreq (o : Origin) (m : Fin 2) (v : Word) (s : State) := State.run (fun d => d.rowWr o (rVcdKeyreq m.val) v) s
/-- INP_CACHE_ENABLE (R66). -/
def execInpCacheEnable (o : Origin) (part : Fin 8) (v : Word) (s : State) :=
  State.run (fun d => d.rowWr o (rInpCacheCtl part.val) (setBit 0 true v)) s
/-- INP_CACHE_DISABLE (R66). -/
def execInpCacheDisable (o : Origin) (part : Fin 8) (v : Word) (s : State) :=
  State.run (fun d => d.rowWr o (rInpCacheCtl part.val) (setBit 0 false v)) s
/-- DMA_KV_ENABLE (R158). -/
def execDmaKvEnable (o : Origin) (part : Fin 8) (v : Word) (s : State) :=
  State.run (fun d => d.rowWr o (rDmaKvCtl part.val) (setBit 0 true v)) s
/-- DMA_KV_DISABLE (R158). -/
def execDmaKvDisable (o : Origin) (part : Fin 8) (v : Word) (s : State) :=
  State.run (fun d => d.rowWr o (rDmaKvCtl part.val) (setBit 0 false v)) s
/-- RANGE_GO (R173). -/
def execRangeGo (o : Origin) (pg : EccPage) (v : Word) (s : State) :=
  State.run (fun d => d.rowWr o (pgReg (pageNo pg) 0x50) (setBit 16 true v)) s
/-- CE_THRESH_WRITE (R175). -/
def execCeThreshWrite (o : Origin) (pg : EccPage) (v : Word) (s : State) :=
  State.run (fun d => d.rowWr o (pgReg (pageNo pg) 0x44) v) s
/-- INJ_CTL (R176). -/
def execInjCtl (o : Origin) (pg : EccPage) (v : Word) (s : State) := State.run (fun d => d.rowWr o (pgReg (pageNo pg) 0xF8) v) s
/-- TRW_ENABLE (R209). -/
def execTrwEnable (o : Origin) (part : Fin 8) (v : Word) (s : State) :=
  State.run (fun d => d.rowWr o (rTrwPctl part.val) (setBit 0 true v)) s
/-- TRW_DISABLE (R209). -/
def execTrwDisable (o : Origin) (part : Fin 8) (v : Word) (s : State) :=
  State.run (fun d => d.rowWr o (rTrwPctl part.val) (setBit 0 false v)) s
/-- SMP_QUOTA_WRITE (R227, R342). -/
def execSmpQuotaWrite (o : Origin) (part : Fin 8) (tier : Fin 3) (v : Word) (s : State) :=
  State.run (fun d => d.rowWr o (rQuota part.val tier.val) v) s

/-! ### The training step, groups, exports, ageing -/

/-- COL_EPOCH_SET (R264). -/
def execColEpochSet (o : Origin) (part : Fin 8) (v : Word) (s : State) :=
  State.run (fun d => d.rowWr o (rColEpochSet part.val) v) s
/-- COL_EP_CTL_VETO (R258). -/
def execColEpCtlVeto (o : Origin) (part : Fin 8) (v : Word) (s : State) :=
  State.run (fun d => d.rowWr o (rColEpCtl part.val) (setBit 16 true v)) s
/-- COL_EP_CTL_CLEAR (R264). -/
def execColEpCtlClear (o : Origin) (part : Fin 8) (v : Word) (s : State) :=
  State.run (fun d => d.rowWr o (rColEpCtl part.val) (setBit 17 true v)) s
/-- COL_NS_RESET (R271). -/
def execColNsReset (o : Origin) (part : Fin 8) (v : Word) (s : State) :=
  State.run (fun d => d.rowWr o (rColNsCtl part.val) (setBit 0 true v)) s
/-- GROUP_ENABLE (R277). -/
def execGroupEnable (o : Origin) (part : Fin 8) (g : Fin 64) (v : Word) (s : State) :=
  State.run (fun d => d.rowWr o (rColGCtl part.val g.val) (setBit 0 true v)) s
/-- GROUP_DISABLE (R277). -/
def execGroupDisable (o : Origin) (part : Fin 8) (g : Fin 64) (v : Word) (s : State) :=
  State.run (fun d => d.rowWr o (rColGCtl part.val g.val) (setBit 0 false v)) s
/-- COL_EXP_ENABLE (R311, R315). -/
def execColExpEnable (o : Origin) (part : Fin 8) (v : Word) (s : State) :=
  State.run (fun d => d.rowWr o (rColExpCtl part.val) (setBit 0 true v)) s
/-- REPLAN (R329): the write, with what the monitors measure. -/
def execReplan (o : Origin) (v hours : Word) (ages : List (Fin 96 × BitVec 16 × BitVec 8)) (s : State) :=
  State.run (fun d =>
    if !d.may o || d.failHides rAgeCtl then d
    else if !d.regReach o true rAgeCtl then d.regRefuse o rAgeCtl 4
    else d.ageCtl (setBit 0 true v) hours ages) s

/-! ### The access lock -/

/-- PASSWORD (R346). -/
def execPassword (o : Origin) (v : Word) (s : State) := State.run (fun d => d.rowWr o rLockCmd (setFld 3 0 1 v)) s
/-- OWNER (R346). -/
def execOwner (o : Origin) (v : Word) (s : State) := State.run (fun d => d.rowWr o rLockCmd (setFld 3 0 2 v)) s
/-- VENDOR (R346). -/
def execVendor (o : Origin) (v : Word) (s : State) := State.run (fun d => d.rowWr o rLockCmd (setFld 3 0 3 v)) s
/-- LOCK_CLOSE (R346). -/
def execLockClose (o : Origin) (v : Word) (s : State) := State.run (fun d => d.rowWr o rLockCmd (setFld 3 0 4 v)) s

/-! ### Mailboxes, snapshots, Flowstone -/

/-- MBX_Q_PUSH (R349). -/
def execMbxQPush (o : Origin) (ch : Fin 64) (n : Fin 2) (v : Word) (ep : Bool) (s : State) :=
  State.run (fun d => d.hostWrite o (mbx ch.val (0x10 * n.val)) 4 v.toNat ep) s
/-- MBX_Q_POP (R349). -/
def execMbxQPop (o : Origin) (ch : Fin 64) (n : Fin 2) (s : State) :=
  State.run (fun d => d.rowRd o (mbx ch.val (0x10 * n.val + 4)) 4) s
/-- MBX_DB (R350). -/
def execMbxDb (o : Origin) (ch : Fin 64) (v : Word) (s : State) := State.run (fun d => d.rowWr o (rMbxDb ch.val) v) s
/-- MBX_DB_SET (R350). -/
def execMbxDbSet (o : Origin) (ch : Fin 64) (v : Word) (s : State) := State.run (fun d => d.rowWr o (rMbxDbSet ch.val) v) s
/-- MBX_DB_MASK (R350). -/
def execMbxDbMask (o : Origin) (ch : Fin 64) (n : Fin 2) (v : Word) (s : State) :=
  State.run (fun d => d.rowWr o (mbx ch.val (0x28 + 4 * n.val)) v) s
/-- MBX_NOTIFY (R350). -/
def execMbxNotify (o : Origin) (ch : Fin 64) (n : Fin 2) (v : Word) (s : State) :=
  State.run (fun d => d.rowWr o (mbx ch.val (0x30 + 4 * n.val)) v) s
/-- MBX_LOCK_READ (R351). -/
def execMbxLockRead (o : Origin) (ch : Fin 64) (s : State) := State.run (fun d => d.rowRd o (rMbxLock ch.val) 4) s
/-- MBX_LOCK_WRITE (R351). -/
def execMbxLockWrite (o : Origin) (ch : Fin 64) (v : Word) (s : State) := State.run (fun d => d.rowWr o (rMbxLock ch.val) v) s
/-- MBX_LOCK_FORCE (R351). -/
def execMbxLockForce (o : Origin) (ch : Fin 64) (v : Word) (s : State) :=
  State.run (fun d => d.rowWr o (rMbxLockForce ch.val) (setBit 0 true v)) s
/-- SNAPSHOT_ARM (R355, R356). -/
def execSnapshotArm (o : Origin) (v : Word) (s : State) := State.run (fun d => d.rowWr o rTsSnapAtHi v) s
/-- FLW_RD_SEQ (R363). -/
def execFlwRdSeq (o : Origin) (v : Word) (s : State) := State.run (fun d => d.rowWr o rFlwRdSeq v) s

/-! ### Register conventions (R369 to R376, R379) -/

/-- Does an origin reach register space at `off` in this way: a host through BAR0 only below 0x1800_0000 (R375)? -/
def barReach (o : Origin) (off : Nat) : Bool := (hostOf o).isNone || off < 0x18000000

/-- PAIR_LO_READ (R373). -/
def execPairLoRead (o : Origin) (off : BitVec 32) (s : State) :=
  State.run (fun d => if barReach o off.toNat then d.rowRd o off.toNat 4 else d) s
/-- PAIR_HI_READ (R373). -/
def execPairHiRead (o : Origin) (off : BitVec 32) (s : State) :=
  State.run (fun d => if barReach o off.toNat then d.rowRd o off.toNat 4 else d) s
/-- TOP_SEED_LO_WRITE (R379). -/
def execTopSeedLoWrite (o : Origin) (part : Fin 8) (v : Word) (s : State) :=
  State.run (fun d => d.rowWr o (rTopSeedLo part.val) v) s
/-- TOP_SEED_HI_WRITE (R379). -/
def execTopSeedHiWrite (o : Origin) (part : Fin 8) (v : Word) (s : State) :=
  State.run (fun d => d.rowWr o (rTopSeedHi part.val) v) s

/-- An access that is not aligned to its size: a core's raises SCALAR before it reaches the block, any other is logged and
does nothing (R371). -/
def Dev.unaligned (d : Dev) (o : Origin) (off width : Nat) (wr : Bool) : Dev :=
  if !d.may o || !barReach o off then d
  else match o with
    | .core c => if d.issuing c.val then d.raiseExc c.val 0x10 0 0 true (d.core c.val).pc else d
    | _ =>
      let d := d.accessErr 1 (srcOf o) width (0x3F0000000000 + off)
      if wr then d else d.answer (List.replicate width 0xFF) false

/-- UNALIGNED_ACCESS (R371). -/
def execUnalignedAccess (o : Origin) (off : BitVec 32) (width : BitVec 8) (isWrite : Bool) (s : State) :
    Host.Outcome State Fault Refusal :=
  if WellFormed.unaligned off width then State.run (fun d => d.unaligned o off.toNat width.toNat isWrite) s
  else .fault .illFormed

/-- A long PCIe write: its words in increasing address order; a word whose byte enables are not all set is a narrow write of 2
bytes (R372, log 76). -/
def Dev.burstWrite (d : Dev) (o : Origin) (off : Nat) (ws : List (Option Word)) : Dev :=
  d.each ws.zipIdx (fun d e => match e.1 with
    | some w => d.regWrite o (off + 4 * e.2) 4 w.toNat
    | none => d.regWrite o (off + 4 * e.2) 2 0)

/-- A long PCIe read: the results of its words in order. -/
def Dev.burstRead (d : Dev) (o : Origin) (off n : Nat) : List Byte × Dev :=
  (List.range n).foldl (fun (r : List Byte × Dev) k =>
    let x := r.2.regRead o (off + 4 * k) 4
    (r.1 ++ x.1.bytes, x.2)) ([], d)

/-- A write to register space. A long request begins at a word. -/
def Dev.regRowWrite (d : Dev) (o : Origin) (off : Nat) (size : MemSize) (a : RegWr) (ep : Bool) : Dev :=
  match a with
  | .one v => d.hostWrite o off size.bytes v.toNat ep
  | .burst ws => if !d.may o then d else if ep then d.hostWrite o off 4 0 true else d.burstWrite o (off / 4 * 4) ws

/-- REGISTER_WRITE (R369, R371, R372). -/
def execRegisterWrite (o : Origin) (off : BitVec 32) (size : MemSize) (a : RegWr) (ep : Bool) (s : State) :=
  State.run (fun d => if barReach o off.toNat then d.regRowWrite o off.toNat size a ep else d) s

/-- A read of register space. -/
def Dev.regRowRead (d : Dev) (o : Origin) (off : Nat) (n : RegLen) : Dev :=
  match n with
  | .one size => d.rowRd o off size.bytes
  | .burst k => if !d.may o then d else
    let r := d.burstRead o (off / 4 * 4) k
    r.2.answer r.1 false

/-- RC_READ (R369, R371, R372). -/
def execRcRead (o : Origin) (off : BitVec 32) (n : RegLen) (s : State) :=
  State.run (fun d => if barReach o off.toNat then d.regRowRead o off.toNat n else d) s

end Sys2Proof.Machine
end

