-- ==== Sys2Proof/Machine/Scalar.lean ====
section
/-! DEFINITION. The control processor (R86 to R90): scalar loads and stores, atomics, ECALL and EBREAK, FENCE.I, writes of the
tensor CSRs, and the reading of instruction parcels. Fetch.lean decodes and executes what is fetched. -/

namespace Sys2Proof.Machine

/-- Raise SCALAR (0x10) or SCALAR_POISON (0x11) at the pc. -/
def Dev.scalarExc (d : Dev) (c cause : Nat) : Dev := d.raiseExc c cause 0 0 true (d.core c).pc

/-- Does register space hold address `a`? -/
def inRegs (a : Nat) : Bool := 0x3F0000000000 ≤ a && a < 0x400000000000

/-- Does the data cache hold lines of this region: HBM, managed aperture, Sump and host memory (R89)? -/
def cacheable (a : Nat) : Bool := isHbm a || isManaged a || isSump a || (hostPort a).isSome

/-- The line of `a`, of 64 bytes (log 13). -/
def lineOf (l : List (Nat × List Byte)) (a : Nat) : Option (List Byte) := (l.find? (·.1 = a / 64 * 64)).map (·.2)

/-- Read `n` bytes at `a` within one line through a cache of at most `cap` lines: a line that it holds, unless it has been
replaced, or the line from memory, which is then held unless it is poisoned. -/
def Dev.cacheRead (d : Dev) (acc : Acc) (lines : List (Nat × List Byte)) (cap a n : Nat) :
    (Marked × List (Nat × List Byte)) × Dev :=
  let f := d.fresh
  let cut (b : Marked) : Marked := (b.drop (a % 64)).take n
  match (if Config.lineKept f.1 then lineOf lines a else none) with
  | some b => ((cut (clean b), lines), f.2)
  | none =>
    let r := f.2.readMem acc (a / 64 * 64) 64
    let rest := lines.filter (·.1 ≠ a / 64 * 64)
    ((cut r.1.data, if r.1.bad.isSome then rest else ((a / 64 * 64, r.1.bytes) :: rest).take cap), r.2)

/-- A scalar read meets poison or a refusal. -/
def Dev.scalarPoison (d : Dev) (c a : Nat) : Dev :=
  ((d.readPoison c).corePoison c a).scalarExc c 0x11

/-- Widen `n` bytes to 64 bits. -/
def widen (n v : Nat) (sg : Bool) : DWord := if sg then BitVec.ofInt 64 (signed (8 * n) v) else BitVec.ofNat 64 v

/-! ### Loads and stores -/

/-- A scalar load of `n` aligned bytes at `a`: its bytes with their marks. -/
def Dev.scalarRead (d : Dev) (c a n : Nat) : Marked × Dev :=
  let o : Origin := .core (Fin.ofNat 1536 c)
  let acc := d.accOf o
  if inRegs a && d.mapped a then
    let r := d.regRead o (a - 0x3F0000000000) n
    (r.1.bytes.map (·, r.1.refused), r.2)
  else if cacheable a then
    let r := d.cacheRead acc (d.core c).dcache 256 a n
    (r.1.1, r.2.updCore c (fun s => { s with dcache := r.1.2 }))
  else
    let r := d.readMem acc a n
    (r.1.data, r.2)

/-- SCALAR_LOAD: a misaligned one raises SCALAR, a poisoned or refused one SCALAR_POISON; `len` is the instruction's length. -/
def Dev.scalarLoad (d : Dev) (c rd a n : Nat) (sg : Bool) (len : Nat) : Dev :=
  if !d.issuing c then d
  else if a % n ≠ 0 then d.scalarExc c 0x10
  else if d.scalarStalls c a false then d
  else
    let r := d.scalarRead c a n
    if r.1.any (·.2) then r.2.scalarPoison c a
    else (r.2.updCore c (fun s => s.wx rd (widen n (ofLe (r.1.map (·.1))) sg))).advance c len

/-- SCALAR_LOAD (R89). -/
def execScalarLoad (c : Fin 1536) (rd : Fin 32) (addr : DWord) (size : MemSize) (sg : Bool) (s : State) :=
  State.run (fun d => d.scalarLoad c.val rd.val addr.toNat size.bytes sg 4) s

/-- Write `n` bytes through to memory, updating a line that the data cache holds; a refused store is discarded and poisons
the launch. -/
def Dev.scalarWrite (d : Dev) (c a : Nat) (bs : List Byte) : Dev :=
  let o : Origin := .core (Fin.ofNat 1536 c)
  let w := d.writeMem (d.accOf o) a (clean bs)
  match w.1 with
  | some x => w.2.corePoison c x
  | none =>
    let k := a % 64
    w.2.updCore c (fun s => { s with
      dcache := mapIf (fun (l : Nat × List Byte) => l.1 = a / 64 * 64)
        (fun l => (l.1, l.2.take k ++ bs ++ l.2.drop (k + bs.length))) s.dcache })

/-- SCALAR_STORE; `len` is the instruction's length. -/
def Dev.scalarStore (d : Dev) (c a n : Nat) (v len : Nat) : Dev :=
  let o : Origin := .core (Fin.ofNat 1536 c)
  if !d.issuing c then d
  else if a % n ≠ 0 then d.scalarExc c 0x10
  else if d.scalarStalls c a true then d
  else if inRegs a && d.mapped a then
    let off := a - 0x3F0000000000
    let ok := d.regReach o true off
    let d := d.regWrite o off n v
    (if ok then d else d.corePoison c a).advance c len
  else (d.scalarWrite c a (leBytes n v)).advance c len

/-- SCALAR_STORE (R89). -/
def execScalarStore (c : Fin 1536) (addr : DWord) (size : MemSize) (v : DWord) (s : State) :=
  State.run (fun d => d.scalarStore c.val addr.toNat size.bytes v.toNat 4) s

/-! ### Atomics -/

/-- What an atomic operation leaves in memory, on operands of `w` bits. -/
def amo (op : AmoOp) (w old v : Nat) : Nat :=
  let so := signed w old
  let sv := signed w v
  match op with
  | .swap => v
  | .add => (old + v) % 2 ^ w
  | .xor => old ^^^ v
  | .and => old &&& v
  | .or => old ||| v
  | .min => if so ≤ sv then old else v
  | .max => if sv ≤ so then old else v
  | .minu => min old v
  | .maxu => max old v
  | .lr => old
  | .sc => v

/-- ATOMIC: on the core's own Pocket and on Gallery; elsewhere, or misaligned, it raises SCALAR. -/
def Dev.atomic (d : Dev) (c : Nat) (op : AmoOp) (rd a n v : Nat) : Dev :=
  let own := pocketAddr c 0 ≤ a && a < pocketAddr c 0x180000
  if !d.issuing c then d
  else if a % n ≠ 0 || !(own || isGallery a) then d.scalarExc c 0x10
  else if d.scalarStalls c a true then d
  else
    let r := d.readMem (d.accOf (.core (Fin.ofNat 1536 c))) a n
    let old := ofLe r.1.bytes
    let v := v % 2 ^ (8 * n)
    let setRd (d : Dev) (x : DWord) : Dev := (d.updCore c (fun s => s.wx rd x)).advance c 4
    let held := (d.core c).resv = some a
    if op = .sc then
      let d := d.updCore c (fun s => { s with resv := none })
      if held then setRd (d.scalarWrite c a (leBytes n v)) 0 else setRd d 1
    else if r.1.bad.isSome then r.2.scalarPoison c a
    else if op = .lr then setRd (r.2.updCore c (fun s => { s with resv := some a })) (widen n old true)
    else setRd (r.2.scalarWrite c a (leBytes n (amo op (8 * n) old v))) (widen n old true)

/-- ATOMIC (R89). -/
def execAtomic (c : Fin 1536) (op : AmoOp) (rd : Fin 32) (addr : DWord) (double : Bool) (v : DWord) (s : State) :=
  State.run (fun d => d.atomic c.val op rd.val addr.toNat (if double then 8 else 4) v.toNat) s

/-! ### System instructions and CSRs -/

/-- ECALL raises SCALAR. -/
def Dev.ecall (d : Dev) (c : Nat) : Dev := if d.issuing c then d.scalarExc c 0x10 else d

/-- ECALL (R88). -/
def execEcall (c : Fin 1536) (s : State) := State.run (fun d => d.ecall c.val) s

/-- EBREAK halts into debug while the access lock is open, else it raises SCALAR. -/
def Dev.ebreak (d : Dev) (c : Nat) : Dev :=
  if !d.issuing c then d
  else if d.debugOpen then d.updCore c (fun k => { k with wait := .debug })
  else d.scalarExc c 0x10

/-- EBREAK (R88). -/
def execEbreak (c : Fin 1536) (s : State) := State.run (fun d => d.ebreak c.val) s

/-- FENCE.I invalidates the instruction cache. -/
def Dev.fenceI (d : Dev) (c : Nat) : Dev :=
  if d.issuing c then (d.updCore c (fun k => { k with icache := [] })).advance c 4 else d

/-- FENCE_I (R89). -/
def execFenceI (c : Fin 1536) (s : State) := State.run (fun d => d.fenceI c.val) s

/-- A write of a CSR (Table 4-2): a read-only one, or one that the core does not have, raises SCALAR (log 14). -/
def Dev.csrWrite (d : Dev) (c csr : Nat) (v : DWord) : Dev :=
  if !d.issuing c then d
  else if 0x800 ≤ csr && csr ≤ 0x803 then
    (d.updCore c (fun s => { s with targ := sset (fun _ => 0) s.targ (csr - 0x800) v })).advance c 4
  else if csr = 0x804 then (d.updCore c (fun s => { s with tflags := v.setWidth 32 &&& 0x1F })).advance c 4
  else if csr = 0x805 then (d.updCore c (fun s => { s with trtile := v })).advance c 4
  else d.scalarExc c 0x10

/-- CSR_WRITE (R90). -/
def execCsrWrite (c : Fin 1536) (csr : BitVec 12) (v : DWord) (s : State) :=
  State.run (fun d => d.csrWrite c.val csr.toNat v) s

/-! ### Instruction fetches -/

/-- Fetch the 16-bit parcel at `a`: 0, or the exception it raises. -/
def Dev.fetchParcel (d : Dev) (c a : Nat) : (Nat × Nat) × Dev :=
  if a % 2 ≠ 0 || inRegs a || !d.mapped a then ((0x10, 0), d)
  else
    let r := d.cacheRead (d.accOf (.core (Fin.ofNat 1536 c))) (d.core c).icache 512 a 2
    let d := r.2.updCore c (fun s => { s with icache := r.1.2 })
    if r.1.1.any (·.2) then ((0x11, 0), d) else ((0, ofLe (r.1.1.map (·.1))), d)

end Sys2Proof.Machine
end

