-- ==== Sys2Proof/Machine/Fetch.lean ====
section
/-! DEFINITION. Instruction fetches and the execution of what they fetch (R86 to R96). The tensor extension is encoded as
Table 4-3 gives it; the base instructions are those of RV64IMAC with Zicsr and Zifencei, which R86 names and the RISC-V manual
defines (PRESUMED, log 14). -/

namespace Sys2Proof.Machine

/-! ### The base instructions' arithmetic -/

/-- A field of `n` bits as a sign-extended 64-bit value. -/
def rvSx (n v : Nat) : DWord := BitVec.ofInt 64 (signed n v)

/-- The immediates of the I, S, B, U and J formats. -/
def rvImmI (w : Nat) : DWord := rvSx 12 (nfld 31 20 w)
def rvImmS (w : Nat) : DWord := rvSx 12 (nfld 31 25 w * 32 + nfld 11 7 w)
def rvImmB (w : Nat) : DWord := rvSx 13 (nfld 31 31 w * 4096 + nfld 7 7 w * 2048 + nfld 30 25 w * 32 + nfld 11 8 w * 2)
def rvImmU (w : Nat) : DWord := rvSx 32 (nfld 31 12 w * 4096)
def rvImmJ (w : Nat) : DWord :=
  rvSx 21 (nfld 31 31 w * 1048576 + nfld 19 12 w * 4096 + nfld 20 20 w * 2048 + nfld 30 21 w * 2)

/-- ADD, SLL, SLT, SLTU, XOR, SRL, OR, AND by funct3; `alt` selects SUB and SRA. -/
def rvAlu {n : Nat} (f3 : Nat) (alt : Bool) (a b : BitVec n) : BitVec n :=
  match f3 with
  | 0 => if alt then a - b else a + b
  | 1 => a <<< (b.toNat % n)
  | 2 => if a.toInt < b.toInt then 1 else 0
  | 3 => if a.toNat < b.toNat then 1 else 0
  | 4 => a ^^^ b
  | 5 => if alt then a.sshiftRight (b.toNat % n) else a >>> (b.toNat % n)
  | 6 => a ||| b
  | _ => a &&& b

/-- MUL, MULH, MULHSU, MULHU, DIV, DIVU, REM, REMU by funct3. -/
def rvMul {n : Nat} (f3 : Nat) (a b : BitVec n) : BitVec n :=
  match f3 with
  | 0 => a * b
  | 1 => BitVec.ofInt n (a.toInt * b.toInt / 2 ^ n)
  | 2 => BitVec.ofInt n (a.toInt * b.toNat / 2 ^ n)
  | 3 => BitVec.ofNat n (a.toNat * b.toNat / 2 ^ n)
  | 4 => if b.toNat = 0 then BitVec.allOnes n else BitVec.ofInt n (a.toInt.tdiv b.toInt)
  | 5 => if b.toNat = 0 then BitVec.allOnes n else BitVec.ofNat n (a.toNat / b.toNat)
  | 6 => if b.toNat = 0 then a else BitVec.ofInt n (a.toInt.tmod b.toInt)
  | _ => if b.toNat = 0 then a else BitVec.ofNat n (a.toNat % b.toNat)

/-- An OP instruction by funct7 and funct3. -/
def rvOp (f7 f3 : Nat) (a b : DWord) : Option DWord :=
  match f7 with
  | 0 => some (rvAlu f3 false a b)
  | 1 => some (rvMul f3 a b)
  | 0x20 => if f3 = 0 || f3 = 5 then some (rvAlu f3 true a b) else none
  | _ => none

/-- An OP-32 instruction: the low words' result, sign-extended. -/
def rvOpW (f7 f3 : Nat) (a b : DWord) : Option DWord :=
  let x := a.setWidth 32
  let y := b.setWidth 32
  (match f7 with
   | 0 => if f3 = 0 || f3 = 1 || f3 = 5 then some (rvAlu f3 false x y) else none
   | 1 => if f3 = 0 || 4 ≤ f3 then some (rvMul f3 x y) else none
   | 0x20 => if f3 = 0 || f3 = 5 then some (rvAlu f3 true x y) else none
   | _ => none).map (fun (r : Word) => r.signExtend 64)

/-- An OP-IMM instruction: `i` is the immediate; a shift takes its low six bits and the other bits select SRAI. -/
def rvOpImm (w f3 : Nat) (a : DWord) : Option DWord :=
  if f3 = 1 || f3 = 5 then
    let top := nfld 31 26 w
    let sh := BitVec.ofNat 64 (nfld 25 20 w)
    if top = 0 then some (rvAlu f3 false a sh)
    else if f3 = 5 && top = 0x10 then some (rvAlu f3 true a sh)
    else none
  else some (rvAlu f3 false a (rvImmI w))

/-- An OP-IMM-32 instruction. -/
def rvOpImmW (w f3 : Nat) (a : DWord) : Option DWord :=
  if f3 = 0 then rvOpW 0 0 a (rvImmI w)
  else if nfld 31 25 w = 1 then none
  else if f3 = 1 || f3 = 5 then rvOpW (nfld 31 25 w) f3 a (BitVec.ofNat 64 (nfld 24 20 w))
  else none

/-- Is a branch taken, by funct3? None for 2 and 3, which no branch has. -/
def rvTaken (f3 : Nat) (a b : DWord) : Option Bool :=
  match f3 with
  | 0 => some (a = b)
  | 1 => some (a ≠ b)
  | 4 => some (a.toInt < b.toInt)
  | 5 => some (b.toInt ≤ a.toInt)
  | 6 => some (a.toNat < b.toNat)
  | 7 => some (b.toNat ≤ a.toNat)
  | _ => none

/-- The atomic operation of funct5. -/
def rvAmo (f5 : Nat) : Option AmoOp :=
  match f5 with
  | 0 => some .add
  | 1 => some .swap
  | 2 => some .lr
  | 3 => some .sc
  | 4 => some .xor
  | 8 => some .or
  | 12 => some .and
  | 16 => some .min
  | 20 => some .max
  | 24 => some .minu
  | 28 => some .maxu
  | _ => none

/-! ### CSRs (R90, Table 4-2) -/

/-- What a tensor CSR reads as; none for a CSR that the core does not have (log 14). -/
def Dev.csrRead (d : Dev) (c csr : Nat) : Option DWord :=
  let s := d.core c
  if 0x800 ≤ csr && csr ≤ 0x803 then some (sget (fun _ => 0) s.targ (csr - 0x800))
  else match csr with
    | 0x804 => some (s.tflags.setWidth 64)
    | 0x805 => some s.trtile
    | 0xCC0 => some s.ttile
    | 0xCC1 => some (BitVec.ofNat 64 c)
    | 0xCC2 => some (s.tseq.setWidth 64)
    | 0xCC3 => some (s.tepoch.setWidth 64)
    | _ => none

/-- CSRRW, CSRRS, CSRRC and their immediate forms: the old value is read, and the CSR written unless a set or clear names x0
or the immediate 0. -/
def Dev.csrOp (d : Dev) (c w : Nat) : Dev :=
  let csr := nfld 31 20 w
  let f3 := nfld 14 12 w
  let rs1 := nfld 19 15 w
  match d.csrRead c csr with
  | none => d.scalarExc c 0x10
  | some old =>
    let src : DWord := if 5 ≤ f3 then BitVec.ofNat 64 rs1 else (d.core c).rx rs1
    let v := match f3 % 4 with
      | 1 => src
      | 2 => old ||| src
      | _ => old &&& ~~~src
    let put (d : Dev) : Dev := d.updCore c (fun k => k.wx (nfld 11 7 w) old)
    if f3 % 4 = 1 || rs1 ≠ 0 then
      if csr ≤ 0x805 then put (d.csrWrite c csr v) else d.scalarExc c 0x10
    else (put d).advance c 4

/-- A SYSTEM instruction: ECALL, EBREAK, WFI, which ends at once, or a CSR operation; any other is illegal (log 14). -/
def Dev.rvSystem (d : Dev) (c w : Nat) : Dev :=
  match nfld 14 12 w with
  | 0 =>
    match w with
    | 0x00000073 => d.ecall c
    | 0x00100073 => d.ebreak c
    | 0x10500073 => d.advance c 4
    | _ => d.scalarExc c 0x10
  | 4 => d.scalarExc c 0x10
  | _ => d.csrOp c w

/-! ### The tensor extension (Table 4-3) -/

/-- The instruction of a pipe that an opcode and funct3 name. -/
def tensorOp (op f3 : Nat) : Option TOp :=
  match op, f3 with
  | 0x0B, 0 => some .load
  | 0x0B, 1 => some .store
  | 0x2B, 0 => some .mma
  | 0x2B, 1 => some .conv
  | 0x5B, 0 => some .vec
  | 0x5B, 1 => some .red
  | 0x5B, 2 => some .soft
  | 0x5B, 3 => some .seg
  | 0x5B, 4 => some .sort
  | 0x7B, 0 => some .gather
  | 0x7B, 1 => some .scatter
  | 0x7B, 2 => some .scatterAdd
  | _, _ => none

/-- The operand fields of an R-type word (R95). -/
def rType (w : Nat) : RType :=
  ⟨Fin.ofNat 32 (nfld 11 7 w), Fin.ofNat 32 (nfld 19 15 w), Fin.ofNat 32 (nfld 24 20 w), BitVec.ofNat 7 (nfld 31 25 w)⟩

/-- TDLD, TDBASE, TDSIZE (opcode 0x0B, funct3 2): a field that they leave 0 and that is not 0 raises ILLEGAL (R95). -/
def Dev.rvDesc (d : Dev) (c w : Nat) : Dev :=
  let rd := nfld 11 7 w
  let a := ((d.core c).rx (nfld 19 15 w)).toNat
  let k := nfld 27 25 w
  let ill := d.raiseExc c 1 0 rd true (d.core c).pc
  if nfld 24 20 w ≠ 0 then ill
  else match nfld 31 28 w with
    | 0 => if k = 0 then d.doTdld c rd a else ill
    | 1 => if k = 0 then d.doTdbase c rd a else ill
    | 2 => d.doTdsize c rd k a
    | _ => ill

/-- TSYNC (opcode 0x0B, funct3 3; Table 4-5). -/
def Dev.rvTsync (d : Dev) (c w : Nat) : Dev :=
  let rs1 := nfld 19 15 w
  let ill := d.raiseExc c 1 0 0 true (d.core c).pc
  if nfld 24 20 w ≠ 0 then ill
  else match nfld 31 25 w with
    | 0 => if rs1 < 8 then d.tsync c (.pipes rs1) else ill
    | 1 => if rs1 = 0 then d.tsync c .mem else ill
    | 2 => if rs1 = 0 then d.tsyncTile c (nfld 11 7 w) else ill
    | 3 => if rs1 = 0 then d.tsync c .ending else ill
    | _ => ill

/-- An instruction of the tensor extension. -/
def Dev.rvTensor (d : Dev) (c w : Nat) : Dev :=
  match tensorOp (w % 128) (nfld 14 12 w) with
  | some op => d.issue c op (rType w)
  | none =>
    if w % 128 = 0x0B && nfld 14 12 w = 2 then d.rvDesc c w
    else if w % 128 = 0x0B && nfld 14 12 w = 3 then d.rvTsync c w
    else d.raiseExc c 1 0 0 true (d.core c).pc

/-! ### Execution -/

/-- Go on at `a`. -/
def Dev.jumpTo (d : Dev) (c : Nat) (a : DWord) : Dev := d.updCore c (fun s => { s with pc := a.toNat })

/-- Execute the 32-bit instruction `w`, or one of 16 bits that `w` expands (`len` is 2), on an issuing core. -/
def Dev.rvExec (d : Dev) (c w len : Nat) : Dev :=
  let s := d.core c
  let rd := nfld 11 7 w
  let f3 := nfld 14 12 w
  let a := s.rx (nfld 19 15 w)
  let b := s.rx (nfld 24 20 w)
  let bad := d.scalarExc c 0x10
  let pc := BitVec.ofNat 64 s.pc
  let put (v : Option DWord) : Dev := match v with
    | some v => (d.updCore c (fun k => k.wx rd v)).advance c len
    | none => bad
  let link := d.updCore c (fun k => k.wx rd (pc + BitVec.ofNat 64 len))
  match w % 128 with
  | 0x37 => put (some (rvImmU w))
  | 0x17 => put (some (pc + rvImmU w))
  | 0x6F => link.jumpTo c (pc + rvImmJ w)
  | 0x67 => if f3 = 0 then link.jumpTo c ((a + rvImmI w) &&& ~~~1) else bad
  | 0x63 => match rvTaken f3 a b with
    | some true => d.jumpTo c (pc + rvImmB w)
    | some false => d.advance c len
    | none => bad
  | 0x03 => if f3 = 7 then bad else d.scalarLoad c rd (a + rvImmI w).toNat (2 ^ (f3 % 4)) (f3 < 4) len
  | 0x23 => if 4 ≤ f3 then bad else d.scalarStore c (a + rvImmS w).toNat (2 ^ f3) b.toNat len
  | 0x13 => put (rvOpImm w f3 a)
  | 0x1B => put (rvOpImmW w f3 a)
  | 0x33 => put (rvOp (nfld 31 25 w) f3 a b)
  | 0x3B => put (rvOpW (nfld 31 25 w) f3 a b)
  | 0x0F => if f3 = 0 then d.advance c len else if f3 = 1 then d.fenceI c else bad
  | 0x2F => match rvAmo (nfld 31 27 w) with
    | some op =>
      if (f3 ≠ 2 && f3 ≠ 3) || (op = .lr && nfld 24 20 w ≠ 0) then bad
      else d.atomic c op rd a.toNat (2 ^ f3) b.toNat
    | none => bad
  | 0x73 => if len = 2 then d.ebreak c else d.rvSystem c w
  | 0x0B => d.rvTensor c w
  | 0x2B => d.rvTensor c w
  | 0x5B => d.rvTensor c w
  | 0x7B => d.rvTensor c w
  | _ => bad

/-! ### The 16-bit instructions (the C extension) -/

/-- Words of the I, R, S, B and J formats; an immediate is taken modulo its field. -/
def rvI (imm rs1 f3 rd op : Nat) : Nat := imm % 4096 * 1048576 + rs1 * 32768 + f3 * 4096 + rd * 128 + op
def rvR (f7 rs2 rs1 f3 rd op : Nat) : Nat := f7 * 33554432 + rs2 * 1048576 + rs1 * 32768 + f3 * 4096 + rd * 128 + op
def rvS (imm rs2 rs1 f3 : Nat) : Nat := rvR (imm / 32 % 128) rs2 rs1 f3 (imm % 32) 0x23
def rvB (imm rs1 f3 : Nat) : Nat :=
  rvR (nfld 12 12 imm * 64 + nfld 10 5 imm) 0 rs1 f3 (nfld 4 1 imm * 2 + nfld 11 11 imm) 0x63
def rvJ (imm : Nat) : Nat :=
  nfld 20 20 imm * 2147483648 + nfld 10 1 imm * 2097152 + nfld 11 11 imm * 1048576 + nfld 19 12 imm * 4096 + 0x6F

/-- A field of `n` bits sign-extended to 21 bits. -/
def rvcSx (n v : Nat) : Nat := (BitVec.ofInt 21 (signed n v)).toNat

/-- The 32-bit instruction that a parcel whose low bits are not 11 stands for; none where it stands for none. -/
def rvcExpand (w : Nat) : Option Nat :=
  let f3 := nfld 15 13 w
  let rd := nfld 11 7 w
  let r2 := nfld 6 2 w
  let rs := 8 + nfld 9 7 w
  let rt := 8 + nfld 4 2 w
  let sh := nfld 12 12 w * 32 + r2
  let imm := rvcSx 6 sh
  let lw := nfld 5 5 w * 64 + nfld 12 10 w * 8 + nfld 6 6 w * 4
  let ld := nfld 6 5 w * 64 + nfld 12 10 w * 8
  match w % 4, f3 with
  | 0, 0 =>
    let i := nfld 10 7 w * 64 + nfld 12 11 w * 16 + nfld 5 5 w * 8 + nfld 6 6 w * 4
    if i = 0 then none else some (rvI i 2 0 rt 0x13)
  | 0, 2 => some (rvI lw rs 2 rt 0x03)
  | 0, 3 => some (rvI ld rs 3 rt 0x03)
  | 0, 6 => some (rvS lw rt rs 2)
  | 0, 7 => some (rvS ld rt rs 3)
  | 1, 0 => some (rvI imm rd 0 rd 0x13)
  | 1, 1 => if rd = 0 then none else some (rvI imm rd 0 rd 0x1B)
  | 1, 2 => some (rvI imm 0 0 rd 0x13)
  | 1, 3 =>
    if sh = 0 then none
    else if rd = 2 then
      some (rvI (rvcSx 10 (nfld 12 12 w * 512 + nfld 4 3 w * 128 + nfld 5 5 w * 64 + nfld 2 2 w * 32 + nfld 6 6 w * 16)) 2 0 2 0x13)
    else some (imm % 1048576 * 4096 + rd * 128 + 0x37)
  | 1, 4 =>
    match nfld 11 10 w with
    | 0 => some (rvI sh rs 5 rs 0x13)
    | 1 => some (rvI (1024 + sh) rs 5 rs 0x13)
    | 2 => some (rvI imm rs 7 rs 0x13)
    | _ => match nfld 12 12 w, nfld 6 5 w with
      | 0, 0 => some (rvR 0x20 rt rs 0 rs 0x33)
      | 0, 1 => some (rvR 0 rt rs 4 rs 0x33)
      | 0, 2 => some (rvR 0 rt rs 6 rs 0x33)
      | 0, _ => some (rvR 0 rt rs 7 rs 0x33)
      | _, 0 => some (rvR 0x20 rt rs 0 rs 0x3B)
      | _, 1 => some (rvR 0 rt rs 0 rs 0x3B)
      | _, _ => none
  | 1, 5 =>
    some (rvJ (rvcSx 12 (nfld 12 12 w * 2048 + nfld 8 8 w * 1024 + nfld 10 9 w * 256 + nfld 6 6 w * 128 + nfld 7 7 w * 64
      + nfld 2 2 w * 32 + nfld 11 11 w * 16 + nfld 5 3 w * 2)))
  | 1, _ =>
    some (rvB (rvcSx 9 (nfld 12 12 w * 256 + nfld 6 5 w * 64 + nfld 2 2 w * 32 + nfld 11 10 w * 8 + nfld 4 3 w * 2)) rs (f3 - 6))
  | 2, 0 => some (rvI sh rd 1 rd 0x13)
  | 2, 2 => if rd = 0 then none else some (rvI (nfld 3 2 w * 64 + nfld 12 12 w * 32 + nfld 6 4 w * 4) 2 2 rd 0x03)
  | 2, 3 => if rd = 0 then none else some (rvI (nfld 4 2 w * 64 + nfld 12 12 w * 32 + nfld 6 5 w * 8) 2 3 rd 0x03)
  | 2, 4 =>
    match nfld 12 12 w with
    | 0 => if r2 ≠ 0 then some (rvR 0 r2 0 0 rd 0x33) else if rd = 0 then none else some (rvI 0 rd 0 0 0x67)
    | _ => if r2 ≠ 0 then some (rvR 0 r2 rd 0 rd 0x33) else if rd = 0 then some 0x00100073 else some (rvI 0 rd 0 1 0x67)
  | 2, 6 => some (rvS (nfld 8 7 w * 64 + nfld 12 9 w * 4) r2 2 2)
  | 2, 7 => some (rvS (nfld 9 7 w * 64 + nfld 12 10 w * 8) r2 2 3)
  | _, _ => none

/-! ### Fetch (R89) -/

/-- INSTRUCTION_FETCH: the instruction at the pc, of one parcel or two, is read through the instruction cache and executed. -/
def Dev.instrFetch (d : Dev) (c : Nat) : Dev :=
  if !d.issuing c then d
  else
    let pc := (d.core c).pc
    let lo := d.fetchParcel c pc
    let hi := if lo.1.1 = 0 && lo.1.2 % 4 = 3 then lo.2.fetchParcel c (pc + 2) else lo
    match hi.1.1 with
    | 0 =>
      if lo.1.2 % 4 = 3 then hi.2.rvExec c (lo.1.2 + hi.1.2 * 65536) 4
      else match rvcExpand lo.1.2 with
        | some w => hi.2.rvExec c w 2
        | none => hi.2.scalarExc c 0x10
    | 0x11 => hi.2.scalarPoison c pc
    | e => hi.2.scalarExc c e

/-- INSTRUCTION_FETCH (R89). -/
def execInstructionFetch (c : Fin 1536) (s : State) := State.run (fun d => d.instrFetch c.val) s

end Sys2Proof.Machine
end

