-- ==== Sys2Proof/Machine/Host.lean ====
section
/-! DEFINITION. The PCIe ports (R29 to R36, R338): the bulk data port and the aperture, BAR2 accesses that are no doorbell, link
events, resets, MSI-X, and configuration requests. -/

namespace Sys2Proof.Machine

/-- Is the port alive for its host: its link up, its BARs answering (R338)? -/
def Dev.portAlive (d : Dev) (p : Fin 2) : Bool := d.may (.host p)

/-! ### BAR2 (R31) -/

/-- Answer an access of the host that reads `n` bytes of value 0. -/
def Dev.zeros (d : Dev) (n : Nat) : Dev := d.answer (List.replicate n 0) false

/-- A BAR2 access that is no doorbell: a read returns 0, a write is discarded and logged. -/
def Dev.bar2Other (d : Dev) (p : Fin 2) (off width : Nat) (a : BarOp) : Dev :=
  if !d.portAlive p then d
  else match a with
    | .read => d.zeros width
    | .write ep => (if ep then d.pciErr p.val 0 off else d).accessErr 2 (srcOf (.host p)) width off

/-- BAR2_OTHER_WRITE (R31). -/
def execBar2OtherWrite (p : Fin 2) (off : BitVec 22) (width : BitVec 8) (a : BarOp) (s : State) :
    Host.Outcome State Fault Refusal :=
  if WellFormed.bar2 off width a then State.run (fun d => d.bar2Other p off.toNat width.toNat a) s else .fault .illFormed

/-! ### Bulk accesses (R33, R35, R337) -/

/-- Do the bulk paths and the sideband port reach address `a`: mapped, below host memory, and in BOOT_STATE FAIL a register or
CD0's Gallery (R33, R337, R367)? -/
def Dev.bulkReach (d : Dev) (a : Nat) : Bool :=
  d.mapped a && (hostPort a).isNone && (d.bootState ≠ 6 || inRegs a || (isGallery a && galDie a = 0))

/-- Read the `n` bytes at `a` that lie in one granule: a whole word of register space by one access, part of one as a narrow
read; nothing where the path does not reach. -/
def Dev.bulkRead1 (d : Dev) (o : Origin) (a n : Nat) : Option Marked × Dev :=
  if !d.bulkReach a then (none, d)
  else if inRegs a then
    let r := (cutAt 4 (n / 4 + 2) (a - 0x3F0000000000) n).foldl (fun (r : Marked × Dev) e =>
      let w := r.2.read32 o (e.1 / 4 * 4)
      (r.1 ++ clean (((leBytes 4 w.1.toNat).drop (e.1 % 4)).take e.2), w.2)) ([], d)
    (some r.1, r.2)
  else
    let r := d.readMem ⟨none, srcOf o⟩ a n
    (some r.1.data, r.2)

/-- Write bytes at `a` that lie in one granule; a part of a register word is a narrow write. -/
def Dev.bulkWrite1 (d : Dev) (o : Origin) (a : Nat) (bs : Marked) : Bool × Dev :=
  if !d.bulkReach a then (false, d)
  else if inRegs a then
    (true, (cutAt 4 (bs.length / 4 + 2) (a - 0x3F0000000000) bs.length).foldl (fun d e =>
      let v := ofLe (((bs.drop (e.1 - (a - 0x3F0000000000))).take e.2).map (·.1))
      if e.2 = 4 then d.write32 o e.1 (BitVec.ofNat 32 v) else d.accessErr 0 (srcOf o) e.2 (0x3F0000000000 + e.1)) d)
  else (true, (d.writeMem ⟨none, srcOf o⟩ a bs).2)

/-- A bulk read of `n` bytes at `a` through port `p`: poisoned data is sent with EP. -/
def Dev.bulkRead (d : Dev) (p : Fin 2) (a n : Nat) : Dev :=
  let o : Origin := .host p
  let r := (cutAt 64 (n / 64 + 2) a n).foldl (fun (r : Marked × Dev) e =>
    match r.2.bulkRead1 o e.1 e.2 with
    | (some m, d) => (r.1 ++ m, d)
    | (none, d) => (r.1 ++ List.replicate e.2 (0xFF, false), d.pciErr p.val 5 e.1)) ([], d)
  let d := match r.1.findIdx? (·.2) with
    | some k => r.2.pciErr p.val 0 (a + k)
    | none => r.2
  d.answer (r.1.map (·.1)) (r.1.any (·.2))

/-- A bulk write at `a`: data that came with EP lands poisoned in memory, and is discarded at a register. -/
def Dev.bulkWrite (d : Dev) (p : Fin 2) (a : Nat) (bytes : List Byte) (ep : Bool) : Dev :=
  let o : Origin := .host p
  let d := if ep then d.pciErr p.val 0 a else d
  (cutAt 64 (bytes.length / 64 + 2) a bytes.length).foldl (fun d e =>
    let part := ((bytes.drop (e.1 - a)).take e.2).map (·, ep)
    if ep && inRegs e.1 && d.bulkReach e.1 then d
    else match d.bulkWrite1 o e.1 part with
      | (true, d) => d
      | (false, d) => d.pciErr p.val 5 e.1) d

/-- Number of bytes of a bulk access. -/
def bulkLen : BulkOp → Nat
  | .read n => n
  | .write b _ => b.length

/-- A bulk access at `a`. -/
def Dev.bulk (d : Dev) (p : Fin 2) (a : Nat) : BulkOp → Dev
  | .read n => d.bulkRead p a n
  | .write b ep => d.bulkWrite p a b ep

/-- An access to the bulk data port acts at PCI_BULK_PTR, which then advances; a length that is no multiple of 4 is discarded
and logged. -/
def Dev.bulkPort (d : Dev) (p : Fin 2) (x : BulkOp) : Dev :=
  if !d.portAlive p then d
  else
    let a := d.rd64 (rPciBulkPtrLo p.val)
    let n := bulkLen x
    if n % 4 ≠ 0 then
      let d := d.accessErr 3 (srcOf (.host p)) n a
      match x with
      | .read n => d.answer (List.replicate n 0xFF) false
      | .write _ ep => if ep then d.pciErr p.val 0 a else d
    else
      let d := d.bulk p a x
      d.wr64 (rPciBulkPtrLo p.val) ((a + n) % 2 ^ 64)

/-- BULK_DATA_PORT_ACCESS (R33). -/
def execBulkDataPortAccess (p : Fin 2) (a : BulkOp) (s : State) := State.run (fun d => d.bulkPort p a) s

/-! ### BAR4 (R32, R35, R36) -/

/-- Write word `w` of the MSI-X entry of vector `vec`; of the control word only the mask bit is held. A pending message of a
vector that this unmasks is sent. -/
def Dev.msixPut (d : Dev) (p vec w : Nat) (v : Word) : Dev :=
  let v := if w = 3 then v &&& 1 else v
  let d := { d with host := { d.host with msix := sset msixDefault d.host.msix ((p * 2048 + vec) * 4 + w) v } }
  if w = 3 && !bitOf 0 v && d.host.pba.contains (p * 2048 + vec) then d.msixSend p vec else d

/-- `n` bytes of the MSI-X table of port `p` at byte `o`; beyond the table 0. -/
def Dev.msixRead (d : Dev) (p o n : Nat) : List Byte :=
  (rangeFrom o n).map (fun a =>
    if a < 0x8000 then (leBytes 4 (d.msixWord p (a / 16) (a / 4 % 4)).toNat).getD (a % 4) 0 else 0)

/-- Write bytes at byte `o` of the MSI-X table: the words that they cover whole (log 75). -/
def Dev.msixWrite (d : Dev) (p o : Nat) (bs : List Byte) : Dev :=
  let k := cdiv o 4
  d.each (rangeFrom k (min 0x2000 ((o + bs.length) / 4) - k)) (fun d w =>
    d.msixPut p (w / 4) (w % 4) (BitVec.ofNat 32 (leAt bs (4 * w - o) 4)))

/-- `n` bytes of the pending-bit array of port `p` at byte `o`. -/
def Dev.pbaRead (d : Dev) (p o n : Nat) : List Byte :=
  (rangeFrom o n).map (fun a => BitVec.ofNat 8
    ((List.range 8).map (fun b => if a < 0x100 && d.host.pba.contains (p * 2048 + 8 * a + b) then 2 ^ b else 0)).sum)

/-- An access at offset `off` of BAR4 (Table 1-12): a mailbox channel, the bulk data port, the MSI-X table, the pending-bit array
(which a write leaves, log 75), the bulk aperture at PCI_BULK_BASE; elsewhere reads return 0 and writes are discarded. -/
def Dev.bar4 (d : Dev) (p : Fin 2) (off : Nat) (x : BulkOp) : Dev :=
  if 0x2000000 ≤ off then d.bulk p (d.rd64 (rPciBulkBaseLo p.val) + (off - 0x2000000)) x
  else if off < 0x10000 then d.bulk p (0x3F0012000000 + off) x
  else if off < 0x11000 then d.bulkPort p x
  else match x with
    | .read n =>
      if 0x20000 ≤ off && off < 0x28000 then d.answer (d.msixRead p.val (off - 0x20000) n) false
      else if 0x28000 ≤ off && off < 0x28100 then d.answer (d.pbaRead p.val (off - 0x28000) n) false
      else d.zeros n
    | .write bs ep =>
      if ep then d.pciErr p.val 0 off
      else if 0x20000 ≤ off && off < 0x28000 then d.msixWrite p.val (off - 0x20000) bs
      else d

/-- BULK_APERTURE_ACCESS (R32, R33): a host access to BAR4, in the aperture at device address PCI_BULK_BASE + offset. -/
def execBulkApertureAccess (p : Fin 2) (off : BitVec 26) (a : BulkOp) (s : State) :=
  State.run (fun d => if d.portAlive p then d.bar4 p off.toNat a else d) s

/-! ### Link, resets, MSI-X (R29, R36, R338) -/

/-- PCIE_LINK_DOWN (R36). -/
def execPcieLinkDown (p : Fin 2) (s : State) := State.run (fun d => d.pciDown p.val) s

/-- Send the messages of port `p` that are pending and no longer masked. -/
def Dev.msixPending (d : Dev) (p : Nat) : Dev :=
  d.each (d.host.pba.filter (fun k => k / 2048 = p)) (fun d k => d.msixSend p (k % 2048))

/-- Lanes as PCI_STATUS.WIDTH holds them. -/
def lanesNo : PciLanes → Nat
  | .x4 => 4
  | .x8 => 8
  | .x16 => 16

/-- The link of port `p` comes up, once the boot rails are in regulation (R338); at 64 GT/s it runs in flit mode (R29). -/
def Dev.pciUp (d : Dev) (p gen width : Nat) (flit : Bool) : Dev :=
  let asleep := d.rdFld rPwrStatus 1 0 = 2 && d.pins.step < 2
  if d.linkUp p || !d.pins.railsEn || !d.pins.resetN || d.pins.bootStop || asleep then d
  else
    let w := gen + 2 ^ 4 * width + 2 ^ 9 + (if flit || gen = 6 then 2 ^ 10 else 0)
    (d.wr (rPciStatus p) (BitVec.ofNat 32 w)).msixPending p

/-- PCIE_LINK_UP (R36). -/
def execPcieLinkUp (p : Fin 2) (gen : Fin 6) (lanes : PciLanes) (flit : Bool) (s : State) :=
  State.run (fun d => d.pciUp p.val (gen.val + 1) (lanesNo lanes) flit) s

/-- A function-level or hot reset of port `p`: its configuration space with the BARs, its MSI-X table and pending bits,
PCI_BULK_PTR and PCI_BULK_BASE. -/
def Dev.functionReset (d : Dev) (p : Nat) : Dev :=
  let d := { d with host := { d.host with
    msix := d.host.msix.filter (fun e => e.1 / 8192 ≠ p), pba := d.host.pba.filter (fun k => k / 2048 ≠ p),
    bars := d.host.bars.filter (fun e => e.1 / 6 ≠ p) } }
  (d.wr64 (rPciBulkBaseLo p) 0).wr64 (rPciBulkPtrLo p) 0

/-- PCIE_FUNCTION_RESET (R36). -/
def execPcieFunctionReset (p : Fin 2) (s : State) := State.run (fun d => d.functionReset p.val) s

/-- The host unmasks vector `vec` of port `p` with a write of its whole entry; a pending message is sent. Poisoned data is
discarded (R35). -/
def Dev.msixUnmask (d : Dev) (p : Fin 2) (vec : Nat) (addr : DWord) (data : Word) (ep : Bool) : Dev :=
  if !d.portAlive p then d
  else if ep then d.pciErr p.val 0 (0x20000 + 16 * vec)
  else
    (((d.msixPut p.val vec 0 (addr.setWidth 32)).msixPut p.val vec 1 ((addr >>> 32).setWidth 32)).msixPut p.val vec 2 data).msixPut
      p.val vec 3 0

/-- MSIX_UNMASK (R36). -/
def execMsixUnmask (p : Fin 2) (vec : Fin 2048) (addr : DWord) (data : EpWord) (s : State) :=
  State.run (fun d => d.msixUnmask p vec.val addr data.word data.ep) s

/-- A device read of host memory at `a` times out: its data returns poisoned. -/
def Dev.hostTimeout (d : Dev) (p a : Nat) : Dev :=
  if !d.linkUp p || hostPort a ≠ some p then d
  else
    let g := d.hostKey p a / 64
    ({ d with host := { d.host with timeouts := insNat g d.host.timeouts } }).pciErr p 3 a

/-- HOST_READ_TIMEOUT (R36, Table 1-15). -/
def execHostReadTimeout (p : Fin 2) (addr : BitVec 48) (s : State) := State.run (fun d => d.hostTimeout p.val addr.toNat) s

/-- UNSUPPORTED_REQUEST (R29, Table 1-15). -/
def execUnsupportedRequest (p : Fin 2) (addr : DWord) (s : State) :=
  State.run (fun d => if d.linkUp p.val then d.pciErr p.val 4 addr.toNat else d) s

/-- log2 of the space that BAR `k` (0, 2, 4) decodes: its size of Table 1-11, that of BAR0 rounded up to a power of two
(log 49). -/
def barBits (k : Nat) : Nat := if k = 0 then 29 else if k = 2 then 22 else 26

/-- Word `k` of the BARs of port `p`: 64-bit and non-prefetchable. -/
def Dev.barWord (d : Dev) (p k : Nat) : Word :=
  let v := sget (fun _ => 0) d.host.bars (6 * p + k)
  if k % 2 = 0 then setFld (barBits k - 1) 0 4 v else v

/-- The host writes word `k` of the BARs: the bits below the size are fixed. -/
def Dev.setBar (d : Dev) (p k : Nat) (v : Word) : Dev :=
  let v := if k % 2 = 0 then setFld (barBits k - 1) 0 0 v else v
  { d with host := { d.host with bars := sset (fun _ => 0) d.host.bars (6 * p + k) v } }

/-- A read of a configuration word: the BARs, and the fields of the standard's registers that Table 1-10 fixes in a word that
is free otherwise (log 49): a type 0 header, no legacy interrupt pin, MSI-X with 2,048 vectors in BAR4, 512 B of payload,
10-bit tags, no AtomicOp. -/
def Dev.configRead (d : Dev) (p reg : Nat) : Word × Dev :=
  let r := reg / 4 * 4
  if 0x10 ≤ r && r < 0x28 then (d.barWord p ((r - 0x10) / 4), d)
  else
    let f := d.fresh
    let w := Config.configWord f.1
    (if r = 0x0C then setFld 23 16 0 w
     else if r = 0x3C then setFld 15 8 0 w
     else if r = Config.msixCap then setFld 26 16 2047 (setFld 7 0 0x11 w)
     else if r = Config.msixCap + 4 then 0x20004
     else if r = Config.msixCap + 8 then 0x28004
     else if r = Config.expressCap then setFld 7 0 0x10 w
     else if r = Config.expressCap + 4 then setFld 2 0 2 w
     else if r = Config.expressCap + 0x24 then setFld 17 16 3 (setFld 9 6 0 w)
     else w, f.2)

/-- A configuration request: retry status until READY or FAIL. -/
def Dev.configReq (d : Dev) (p reg : Nat) (wdata : Option Word) : Dev :=
  if !d.linkUp p then d
  else if !(d.bootState = 5 || d.bootState = 6) then { d with resp := .retryStatus }
  else match wdata with
    | some v => if 0x10 ≤ reg && reg < 0x28 then d.setBar p ((reg - 0x10) / 4) v else d
    | none =>
      let r := d.configRead p reg
      { r.2 with resp := .config r.1 }

/-- CONFIGURATION_REQUEST (R29, R30, R338). -/
def execConfigurationRequest (p : Fin 2) (reg : BitVec 12) (wdata : Option Word) (s : State) :=
  State.run (fun d => d.configReq p.val reg.toNat wdata) s

end Sys2Proof.Machine
end

