-- ==== Sys2Proof/Machine/Pull.lean ====
section
/-! DEFINITION. Engines that take commands (R234, R247), and the state copies between devices, PULL (R310, R311). -/

namespace Sys2Proof.Machine

/-! ### A PULL goes out -/

/-- A PULL that its engine has taken: a length that breaks R310 ends it ABORTED with UNIT (log 31), a peer that is LOST ends it
PARTIAL, and else its request travels on VC 3 over a port of the engine's hub. -/
def Dev.pullAsk (d : Dev) (x : Inflight) : Dev :=
  let n := x.opd 3 % 2 ^ 32
  let peer := x.opd 0 % 65536
  if n % 64 ≠ 0 || n = 0 then d.finish x (aborted 0x27 (dmaSrc x.eng))
  else if (d.partner peer).state = 2 then d.finish x { Result.fresh with status := .partial_, src := dmaSrc x.eng }
  else d.sendTo { vc := 3, dest := peer, hub := x.eng / 32 % 2, poison := false,
                  kind := .pullRequest (x.opd 0 / 65536 % 16) (x.opd 1) n }

/-- Engine `e` takes the waiting command of the highest queue priority, round robin among equals, in dispatch order within a
queue. -/
def Dev.dmaTake (d : Dev) (e : Nat) : Dev :=
  let waiting := d.queue.infl.filter (fun x => x.eng = e && !x.held && x.phase = .dispatched)
  let last := sget (fun _ => 65535) d.queue.rrLast (16 + e)
  let key (x : Inflight) : Nat :=
    (d.rdFld (rQmgQCfg x.q) 8 6 * 65536 + (65535 - (x.q + 65536 - last - 1) % 65536)) * (d.queue.nextOrd + 1)
      + (d.queue.nextOrd - x.ord)
  if 4 ≤ (d.dmaHeld e).length then d
  else match bestBy key waiting with
    | none => d
    | some x =>
      let n := d.queue.nextOrd + 1
      let d := d.setCmd x.q x.i (fun y => { y with heldAt := n })
      let d := { d with queue := { d.queue with
        nextOrd := n, rrLast := sset (fun _ => 65535) d.queue.rrLast (16 + e) x.q } }
      (if x.op = 2 then d.pullAsk x else d).dmaStat e

/-- DMA_ENGINE_START (R247). -/
def execDmaEngineStart (e : Fin 96) (s : State) := State.run (fun d => d.dmaTake e.val) s

/-! ### The reply (R310) -/

/-- Bytes of a reply with their marks: granules that the peer marked, and the first flit when its header has POISON. -/
def replyMarks (f : FlitHdr) (bytes : List Byte) (poison : List Nat) : Marked :=
  bytes.zipIdx.map (fun e => (e.1, poison.contains (e.2 / 64) || (f.poison && e.2 < 240)))

/-- Write bytes at local address `a`: memory, or the register pages that the engine may reach (R28), as 32-bit accesses; a
poisoned word reaches no register (log 70). Answers the first address refused or discarded, and the bytes written. -/
def Dev.pullWrite (d : Dev) (x : Inflight) (a : Nat) (bs : Marked) : (Option Nat × Nat) × Dev :=
  match regOff a with
  | none => d.writeBytes (x.acc (dmaSrc x.eng)) 4096 (bs.zipIdx.map (fun e => (a + e.2, e.1)))
  | some off =>
    let o : Origin := .dma (Fin.ofNat 96 x.eng)
    (chunksOf 4 (bs.length + 1) bs).zipIdx.foldl (fun (r : (Option Nat × Nat) × Dev) w =>
      let at_ := off + 4 * w.2
      if w.1.any (·.2) then ((first r.1.1 (some (a + 4 * w.2)), r.1.2), r.2)
      else
        let ok := r.2.regReach o true at_
        ((if ok then r.1.1 else first r.1.1 (some (a + 4 * w.2)), if ok then r.1.2 + 4 else r.1.2),
          r.2.regWrite o at_ 4 (leAt (w.1.map (·.1)) 0 4))) ((none, 0), d)

/-- PULL: the peer's reply is written at the local address. -/
def Dev.pull (d : Dev) (x : Inflight) (f : FlitHdr) (bytes : List Byte) (poison : List Nat) : Dev :=
  let n := x.opd 3 % 2 ^ 32
  if bytes.length ≠ n || f.src.toNat ≠ x.opd 0 % 65536 then d
  else
    let bs := replyMarks f bytes poison
    let w := d.pullWrite x (x.opd 2) bs
    let bad := (bs.findIdx? (·.2)).map (x.opd 2 + ·)
    let d := match bad with
      | some a => w.2.dmaErr x.eng 0 a
      | none => w.2
    let d := match w.1.1 with
      | some a => d.dmaErr x.eng 1 a
      | none => d
    let any := first bad w.1.1
    ((d.add64 (rDmaBytesLo x.eng) w.1.2).finish x { Result.fresh with
      status := if any.isSome then .poisoned else .done, progress := n, addr := any.getD 0 }).dmaStat x.eng

/-- PULL (R310): the reply arrives. -/
def execPull (c : CmdRef) (rx : Rx) (b : Body) (s : State) :=
  State.run (fun d => d.flitIn rx.port.val rx.hdr .traffic (max 1 (cdiv b.bytes.length 240)) b.bytes.length none (fun d =>
    d.dmaWork c 2 (fun x d => d.pull x rx.hdr b.bytes b.poisoned))) s

/-! ### Serving a peer (R311) -/

/-- Serve a peer's PULL read of [a, a + n) at partition `q`, within the export window and the partition's windows; the reply goes
back on VC 3. -/
def Dev.pullServe (d : Dev) (hub q peer a n : Nat) : Dev :=
  let base := d.rd64 (rColExpBaseLo q)
  let size := d.rd64 (rColExpSizeLo q)
  let inside := bitOf 0 (d.rd (rColExpCtl q)) && base ≤ a && a + n ≤ base + size
  let acc : Acc := ⟨some q, srcNo (16 + hub) 0x040⟩
  let marks (l : Marked) : List Nat := (sortNat (l.zipIdx.filterMap (fun e => if e.1.2 then some (e.2 / 64) else none)))
  let reply (bs : List Byte) (ps : List Nat) : OutMsg :=
    { vc := 3, dest := peer, hub := hub, poison := !ps.isEmpty, kind := .pullReply bs ps }
  if !inside || !(granules a n).all (fun g => d.reaches acc false g.1) then
    (d.addSat (rColExpRefused q) 1).sendTo (reply (List.replicate n 0) (List.range (cdiv n 64)))
  else
    let r := d.readMem acc a n
    (r.2.add64 (rColExpBytesLo q) n).sendTo (reply r.1.bytes (marks r.1.data))

/-- PULL_SERVE (R311): a peer's request arrives. -/
def execPullServe (rx : Rx) (part : Fin 8) (addr : BitVec 48) (len : Nat) (s : State) :=
  State.run (fun d => d.flitIn rx.port.val rx.hdr .traffic 1 240 none (fun d =>
    d.pullServe (rx.port.val / 12) part.val rx.hdr.src.toNat addr.toNat len)) s

end Sys2Proof.Machine
end

