-- ==== Sys2Proof/Machine/Sideband.lean ====
section
/-! DEFINITION. The sideband SPI port (R364 to R368). One command is one frame up to its last committed word; SB_CS_RELEASE ends it. -/

namespace Sys2Proof.Machine

/-- Add to a field of SB_STATUS, which saturates. -/
def Dev.sbCount (d : Dev) (hi lo n : Nat) : Dev :=
  d.wrFld rSbStatus hi lo (min (d.rdFld rSbStatus hi lo + n) (2 ^ (hi + 1 - lo) - 1))

/-- Does a frame run? -/
def Dev.sbFrame (d : Dev) : Bool := bitOf 28 (d.rd rSbStatus)

/-- A frame begins; `bad` marks one without a known opcode. A frame that runs already must end first (log 4). -/
def Dev.sbBegin (d : Dev) (bad : Bool) (f : Dev → Dev) : Dev :=
  if d.sbFrame then d
  else f ({ (d.wrFld rSbStatus 28 28 1) with rcd := { d.rcd with sbBad := bad } })

/-- Flag SB_ERR.ADDR with its capture. -/
def Dev.sbErr (d : Dev) (a : Nat) : Dev := d.raise rSbErr 0 (fun d => d.wr64 rSbErrAddrLo a)

/-- Does the port reach `a`: R337 also hides registers in BOOT_STATE FAIL (R367)? -/
def Dev.sbReach (d : Dev) (a : Nat) : Bool := d.bulkReach a && !(inRegs a && d.failHides (a - 0x3F0000000000))

/-- SB_ADDR advances by a word when SB_CFG.INC is 1. -/
def Dev.sbNext (d : Dev) : Dev :=
  if bitOf 0 (d.rd rSbCfg) then d.wr64 rSbAddrLo ((d.rd64 rSbAddrLo + 4) % 2 ^ 64) else d

/-- SETADDR: two words set SB_ADDR; complete words beyond are counted. -/
def Dev.sbSetAddr (d : Dev) (ws : List Word) : Dev :=
  match ws with
  | lo :: hi :: rest => ((d.wr rSbAddrLo (setFld 1 0 0 lo)).wr rSbAddrHi hi).sbCount 15 8 rest.length
  | _ => d

/-- SETADDR (R364). -/
def execSetaddr (words : List Word) (s : State) := State.run (fun d => d.sbBegin false (fun d => d.sbSetAddr words)) s

/-- A committed word is written at SB_ADDR. -/
def Dev.sbWrite1 (d : Dev) (w : Word) : Dev :=
  let a := d.rd64 rSbAddrLo
  let d := if d.sbReach a then (d.bulkWrite1 .sideband a (clean (leBytes 4 w.toNat))).2 else d.sbErr a
  d.sbNext

/-- WRITE (R364). -/
def execWrite (words : List Word) (s : State) := State.run (fun d => d.sbBegin false (fun d => d.each words Dev.sbWrite1)) s

/-- The read of the word at address `a`. -/
def Dev.sbRead1 (d : Dev) (a : Nat) : List Byte × Dev :=
  if d.sbReach a then
    match d.bulkRead1 .sideband a 4 with
    | (some m, d) => (m.map (·.1), d)
    | (none, d) => (List.replicate 4 0xFF, d)
  else (List.replicate 4 0xFF, d.sbErr a)

/-- Read `k` words, the address of each following the one before. -/
def Dev.sbReads (d : Dev) (a step : Nat) : Nat → List Byte × Dev
  | 0 => ([], d)
  | k + 1 =>
    let r := d.sbRead1 a
    let t := r.2.sbReads ((a + step) % 2 ^ 64) step k
    (r.1 ++ t.1, t.2)

/-- READ of `n` words, the word after the last being read too; the word `late` comes too late: it and all later ones are
0xFFFF_FFFF, and SB_ADDR rests at it (R366). -/
def Dev.sbRead (d : Dev) (n : Nat) (late : Option Nat) : Dev :=
  let step := if bitOf 0 (d.rd rSbCfg) then 4 else 0
  let a := d.rd64 rSbAddrLo
  let go (d : Dev) (good : Nat) : Dev :=
    let r := d.sbReads a step (good + 1)
    (r.2.wr64 rSbAddrLo ((a + step * good) % 2 ^ 64)).answer (r.1.take (4 * good) ++ List.replicate (4 * (n - good)) 0xFF) false
  match late with
  | some k => if k < n then (go d k).sbCount 23 16 1 else go d n
  | none => go d n

/-- READ (R366). -/
def execRead (n : Nat) (lateAt : Option Nat) (s : State) := State.run (fun d => d.sbBegin false (fun d => d.sbRead n lateAt)) s

/-- SIDEBAND_STATUS (R364): SB_STATUS as it stands; complete words beyond are counted. -/
def execSidebandStatus (extra : Nat) (s : State) :=
  State.run (fun d => d.sbBegin false (fun d => (d.answer (leBytes 4 (d.rd rSbStatus).toNat) false).sbCount 15 8 extra)) s

/-- BADOP (R365). -/
def execBadop (s : State) := State.run (fun d => d.sbBegin true (fun d => d.sbCount 27 24 1)) s

/-- SB_CS_N rises: an incomplete word is discarded and counted. -/
def Dev.sbRelease (d : Dev) (midWord : Bool) : Dev :=
  if !d.sbFrame then d
  else
    let d := if midWord && !d.rcd.sbBad then d.sbCount 7 0 1 else d
    { (d.wrFld rSbStatus 28 28 0) with rcd := { d.rcd with sbBad := false } }

/-- SB_CS_RELEASE (R365). -/
def execSbCsRelease (midWord : Bool) (s : State) := State.run (fun d => d.sbRelease midWord) s

end Sys2Proof.Machine
end

