-- ==== Sys2Proof/Machine/Tiles.lean ====
section
/-! DEFINITION. The commands of the tile sequencers (R122 to R143) and of die fences (R134, R304). -/

namespace Sys2Proof.Machine

/-- Number of a launch slot: hub × 256 + slot. -/
def slotNo (hub : Fin 2) (slot : Fin 256) : Nat := hub.val * 256 + slot.val

/-- TILE_RETIRE (R128). -/
def execTileRetire (c : Fin 1536) (s : State) := State.run (fun d => d.tileRetire c.val) s
/-- MULTICAST_CLOSE (R131). -/
def execMulticastClose (hub : Fin 2) (slot : Fin 256) (group : Nat) (s : State) :=
  State.run (fun d => d.mcastClose (slotNo hub slot) group) s
/-- MULTICAST_COMPLETE (R132). -/
def execMulticastComplete (hub : Fin 2) (slot : Fin 256) (group : Nat) (s : State) :=
  State.run (fun d => d.mcastDone (slotNo hub slot) group) s
/-- DIE_FENCE (R304). -/
def execDieFence (f : FenceReq) (s : State) := State.run (fun d => d.fenceFor f.die.val f.why) s
/-- ROUTER_DRAIN_END (R134). -/
def execRouterDrainEnd (n : Fin 8) (s : State) := State.run (fun d => d.drainEnd n.val) s
/-- CORE_RESTART (R134). -/
def execCoreRestart (hub : Fin 2) (slot : Fin 256) (s : State) := State.run (fun d => d.restart (slotNo hub slot)) s
/-- STRIPE_STAGE_START (R142). -/
def execStripeStageStart (hub : Fin 2) (slot : Fin 256) (s : State) := State.run (fun d => d.stageStart (slotNo hub slot)) s
/-- STRIPE_STAGE_DONE (R142). -/
def execStripeStageDone (hub : Fin 2) (slot : Fin 256) (s : State) := State.run (fun d => d.stageDone (slotNo hub slot)) s

end Sys2Proof.Machine
end

