-- ==== Sys2Proof/Machine/Dispatch.lean ====
section
/-! DEFINITION. One arm per command: the meaning it has. -/

namespace Sys2Proof.Machine

/-- The effect of a command on everything but the queue of waiting commands. -/
def exec (i : Instr) (s : State) : Host.Outcome State Fault Refusal :=
  match i with
  | .doorbell o q tail ep => Sys2Proof.Machine.execDoorbell o q tail ep s
  | .bar2OtherWrite p off width a => Sys2Proof.Machine.execBar2OtherWrite p off width a s
  | .bulkDataPortAccess p a => Sys2Proof.Machine.execBulkDataPortAccess p a s
  | .bulkApertureAccess p off a => Sys2Proof.Machine.execBulkApertureAccess p off a s
  | .pcieLinkDown p => Sys2Proof.Machine.execPcieLinkDown p s
  | .pcieLinkUp p gen lanes flit => Sys2Proof.Machine.execPcieLinkUp p gen lanes flit s
  | .pcieFunctionReset p => Sys2Proof.Machine.execPcieFunctionReset p s
  | .msixUnmask p vec addr data => Sys2Proof.Machine.execMsixUnmask p vec addr data s
  | .hostReadTimeout p addr => Sys2Proof.Machine.execHostReadTimeout p addr s
  | .unsupportedRequest p addr => Sys2Proof.Machine.execUnsupportedRequest p addr s
  | .init c => Sys2Proof.Machine.execInit c s
  | .decode c => Sys2Proof.Machine.execDecode c s
  | .encode c => Sys2Proof.Machine.execEncode c s
  | .flush c => Sys2Proof.Machine.execFlush c s
  | .close c => Sys2Proof.Machine.execClose c s
  | .entropyParseFrame m engine ctx => Sys2Proof.Machine.execEntropyParseFrame m engine ctx s
  | .pixelFrameEnd m engine => Sys2Proof.Machine.execPixelFrameEnd m engine s
  | .vcdKeyreq o m v => Sys2Proof.Machine.execVcdKeyreq o m v s
  | .warp c => Sys2Proof.Machine.execWarp c s
  | .scan c => Sys2Proof.Machine.execScan c s
  | .cacheStore c => Sys2Proof.Machine.execCacheStore c s
  | .cacheLoad c => Sys2Proof.Machine.execCacheLoad c s
  | .inpCacheEnable o part v => Sys2Proof.Machine.execInpCacheEnable o part v s
  | .inpCacheDisable o part v => Sys2Proof.Machine.execInpCacheDisable o part v s
  | .inpCacheInvalidate part => Sys2Proof.Machine.execInpCacheInvalidate part s
  | .coreLaunchStart c => Sys2Proof.Machine.execCoreLaunchStart c s
  | .scalarLoad c rd addr size signed => Sys2Proof.Machine.execScalarLoad c rd addr size signed s
  | .scalarStore c addr size v => Sys2Proof.Machine.execScalarStore c addr size v s
  | .atomic c op rd addr double v => Sys2Proof.Machine.execAtomic c op rd addr double v s
  | .ecall c => Sys2Proof.Machine.execEcall c s
  | .ebreak c => Sys2Proof.Machine.execEbreak c s
  | .fenceI c => Sys2Proof.Machine.execFenceI c s
  | .csrWrite c csr v => Sys2Proof.Machine.execCsrWrite c csr v s
  | .tdld c td addr => Sys2Proof.Machine.execTdld c td addr s
  | .tdbase c td base => Sys2Proof.Machine.execTdbase c td base s
  | .tdsize c td k size => Sys2Proof.Machine.execTdsize c td k size s
  | .tload c f => Sys2Proof.Machine.execTload c f s
  | .tstore c f => Sys2Proof.Machine.execTstore c f s
  | .tmma c f => Sys2Proof.Machine.execTmma c f s
  | .tconv c f => Sys2Proof.Machine.execTconv c f s
  | .tvec c f => Sys2Proof.Machine.execTvec c f s
  | .tred c f => Sys2Proof.Machine.execTred c f s
  | .tsoft c f => Sys2Proof.Machine.execTsoft c f s
  | .tseg c f => Sys2Proof.Machine.execTseg c f s
  | .tsort c f => Sys2Proof.Machine.execTsort c f s
  | .tgather c f => Sys2Proof.Machine.execTgather c f s
  | .tscatter c f => Sys2Proof.Machine.execTscatter c f s
  | .tscatteradd c f => Sys2Proof.Machine.execTscatteradd c f s
  | .tensorInstructionStart c p => Sys2Proof.Machine.execTensorInstructionStart c p s
  | .tensorInstructionComplete c p => Sys2Proof.Machine.execTensorInstructionComplete c p s
  | .coreExceptionEnd c => Sys2Proof.Machine.execCoreExceptionEnd c s
  | .tsyncPipe c mask => Sys2Proof.Machine.execTsyncPipe c mask s
  | .tsyncMem c => Sys2Proof.Machine.execTsyncMem c s
  | .tsyncTile c rd => Sys2Proof.Machine.execTsyncTile c rd s
  | .tsyncEnd c => Sys2Proof.Machine.execTsyncEnd c s
  | .tileRetire c => Sys2Proof.Machine.execTileRetire c s
  | .multicastClose hub slot group => Sys2Proof.Machine.execMulticastClose hub slot group s
  | .multicastComplete hub slot group => Sys2Proof.Machine.execMulticastComplete hub slot group s
  | .coreRetire c => Sys2Proof.Machine.execCoreRetire c s
  | .coreHwFault c => Sys2Proof.Machine.execCoreHwFault c s
  | .dieFence f => Sys2Proof.Machine.execDieFence f s
  | .routerDrainEnd d => Sys2Proof.Machine.execRouterDrainEnd d s
  | .coreRestart hub slot => Sys2Proof.Machine.execCoreRestart hub slot s
  | .stripeStageStart hub slot => Sys2Proof.Machine.execStripeStageStart hub slot s
  | .stripeStageDone hub slot => Sys2Proof.Machine.execStripeStageDone hub slot s
  | .kvopen c => Sys2Proof.Machine.execKvopen c s
  | .kvappend c => Sys2Proof.Machine.execKvappend c s
  | .kvtrim c => Sys2Proof.Machine.execKvtrim c s
  | .kvclose c => Sys2Proof.Machine.execKvclose c s
  | .kvFrameRelease c => Sys2Proof.Machine.execKvFrameRelease c s
  | .kvFill c => Sys2Proof.Machine.execKvFill c s
  | .dmaKvEnable o part v => Sys2Proof.Machine.execDmaKvEnable o part v s
  | .dmaKvDisable o part v => Sys2Proof.Machine.execDmaKvDisable o part v s
  | .dmaKvDisableEnd part => Sys2Proof.Machine.execDmaKvDisableEnd part s
  | .galleryBankRetain d col bank => Sys2Proof.Machine.execGalleryBankRetain d col bank s
  | .scrubPatrolRead u => Sys2Proof.Machine.execScrubPatrolRead u s
  | .rangeGo o pg v => Sys2Proof.Machine.execRangeGo o pg v s
  | .scrubRangeRead pg => Sys2Proof.Machine.execScrubRangeRead pg s
  | .ceWindowExpire pg => Sys2Proof.Machine.execCeWindowExpire pg s
  | .ceThreshWrite o pg v => Sys2Proof.Machine.execCeThreshWrite o pg v s
  | .injCtl o pg v => Sys2Proof.Machine.execInjCtl o pg v s
  | .sinit c => Sys2Proof.Machine.execSinit c s
  | .trowelOpen c => Sys2Proof.Machine.execTrowelOpen c s
  | .trowelLoad c => Sys2Proof.Machine.execTrowelLoad c s
  | .save c => Sys2Proof.Machine.execSave c s
  | .trowelKey c => Sys2Proof.Machine.execTrowelKey c s
  | .convert c => Sys2Proof.Machine.execConvert c s
  | .trowelFree c => Sys2Proof.Machine.execTrowelFree c s
  | .trowelOpEffect c => Sys2Proof.Machine.execTrowelOpEffect c s
  | .blockEncode e => Sys2Proof.Machine.execBlockEncode e s
  | .blockDecode e => Sys2Proof.Machine.execBlockDecode e s
  | .tableBuildStart e => Sys2Proof.Machine.execTableBuildStart e s
  | .tableBuildTimeout e => Sys2Proof.Machine.execTableBuildTimeout e s
  | .tableBuildDone e => Sys2Proof.Machine.execTableBuildDone e s
  | .trwEnable o part v => Sys2Proof.Machine.execTrwEnable o part v s
  | .trwDisable o part v => Sys2Proof.Machine.execTrwDisable o part v s
  | .trwDisableEnd part => Sys2Proof.Machine.execTrwDisableEnd part s
  | .alloc c => Sys2Proof.Machine.execAlloc c s
  | .tierFree c => Sys2Proof.Machine.execTierFree c s
  | .pin c => Sys2Proof.Machine.execPin c s
  | .unpin c => Sys2Proof.Machine.execUnpin c s
  | .prefetch c => Sys2Proof.Machine.execPrefetch c s
  | .demote c => Sys2Proof.Machine.execDemote c s
  | .clean c => Sys2Proof.Machine.execClean c s
  | .discard c => Sys2Proof.Machine.execDiscard c s
  | .query c => Sys2Proof.Machine.execQuery c s
  | .promotion pg => Sys2Proof.Machine.execPromotion pg s
  | .writeBack pg => Sys2Proof.Machine.execWriteBack pg s
  | .drop pg => Sys2Proof.Machine.execDrop pg s
  | .compaction pg => Sys2Proof.Machine.execCompaction pg s
  | .tierStallTimeout part src addr cmd => Sys2Proof.Machine.execTierStallTimeout part src addr cmd s
  | .smpQuotaWrite o part tier v => Sys2Proof.Machine.execSmpQuotaWrite o part tier v s
  | .ringFetch q => Sys2Proof.Machine.execRingFetch q s
  | .commandDispatch q => Sys2Proof.Machine.execCommandDispatch q s
  | .kernelEarlyAccept q => Sys2Proof.Machine.execKernelEarlyAccept q s
  | .kernel c => Sys2Proof.Machine.execKernel c s
  | .copy c => Sys2Proof.Machine.execCopy c s
  | .fill c => Sys2Proof.Machine.execFill c s
  | .pull c rx b => Sys2Proof.Machine.execPull c rx b s
  | .pullServe rx part addr len => Sys2Proof.Machine.execPullServe rx part addr len s
  | .dmaEngineStart e => Sys2Proof.Machine.execDmaEngineStart e s
  | .wait c => Sys2Proof.Machine.execWait c s
  | .signal c => Sys2Proof.Machine.execSignal c s
  | .mark c => Sys2Proof.Machine.execMark c s
  | .modeRound c => Sys2Proof.Machine.execModeRound c s
  | .modeTblsrc c => Sys2Proof.Machine.execModeTblsrc c s
  | .modePower c => Sys2Proof.Machine.execModePower c s
  | .modeAck u => Sys2Proof.Machine.execModeAck u s
  | .modeSwitch => Sys2Proof.Machine.execModeSwitch s
  | .modeTimeout => Sys2Proof.Machine.execModeTimeout s
  | .commandComplete c => Sys2Proof.Machine.execCommandComplete c s
  | .queueStop o q => Sys2Proof.Machine.execQueueStop o q s
  | .queueResume o q => Sys2Proof.Machine.execQueueResume o q s
  | .queueFlush o q stop => Sys2Proof.Machine.execQueueFlush o q stop s
  | .queueEnable o q v => Sys2Proof.Machine.execQueueEnable o q v s
  | .queueDisable o q v => Sys2Proof.Machine.execQueueDisable o q v s
  | .queueCloseEnd q => Sys2Proof.Machine.execQueueCloseEnd q s
  | .qmgCntVal o c v => Sys2Proof.Machine.execQmgCntVal o c v s
  | .qmgCntAdd o c v => Sys2Proof.Machine.execQmgCntAdd o c v s
  | .topPStopall o part v => Sys2Proof.Machine.execTopPStopall o part v s
  | .topPResume o part v => Sys2Proof.Machine.execTopPResume o part v s
  | .epoch c => Sys2Proof.Machine.execEpoch c s
  | .epochRecordReceive rx r => Sys2Proof.Machine.execEpochRecordReceive rx r s
  | .epochResult part => Sys2Proof.Machine.execEpochResult part s
  | .epochCommit part => Sys2Proof.Machine.execEpochCommit part s
  | .epochComplete part => Sys2Proof.Machine.execEpochComplete part s
  | .epochTimeout part => Sys2Proof.Machine.execEpochTimeout part s
  | .colEpochSet o part v => Sys2Proof.Machine.execColEpochSet o part v s
  | .colEpCtlVeto o part v => Sys2Proof.Machine.execColEpCtlVeto o part v s
  | .colEpCtlClear o part v => Sys2Proof.Machine.execColEpCtlClear o part v s
  | .colNsReset o part v => Sys2Proof.Machine.execColNsReset o part v s
  | .allreduce c => Sys2Proof.Machine.execAllreduce c s
  | .allgather c => Sys2Proof.Machine.execAllgather c s
  | .reducescatter c => Sys2Proof.Machine.execReducescatter c s
  | .broadcast c => Sys2Proof.Machine.execBroadcast c s
  | .permute c => Sys2Proof.Machine.execPermute c s
  | .permuteBufferCopy c => Sys2Proof.Machine.execPermuteBufferCopy c s
  | .groupEnable o part g v => Sys2Proof.Machine.execGroupEnable o part g v s
  | .groupDisable o part g v => Sys2Proof.Machine.execGroupDisable o part g v s
  | .groupMemberTimeout part g => Sys2Proof.Machine.execGroupMemberTimeout part g s
  | .portTrained p => Sys2Proof.Machine.execPortTrained p s
  | .helloRepeat p => Sys2Proof.Machine.execHelloRepeat p s
  | .hello p f h => Sys2Proof.Machine.execHello p f h s
  | .heartbeatSend => Sys2Proof.Machine.execHeartbeatSend s
  | .heartbeat p f serial sigs => Sys2Proof.Machine.execHeartbeat p f serial sigs s
  | .partnerLoss coord => Sys2Proof.Machine.execPartnerLoss coord s
  | .data p f m b => Sys2Proof.Machine.execData p f m b s
  | .ctrl p f msg => Sys2Proof.Machine.execCtrl p f msg s
  | .idle p f => Sys2Proof.Machine.execIdle p f s
  | .retry p f => Sys2Proof.Machine.execRetry p f s
  | .retrainTimeout p => Sys2Proof.Machine.execRetrainTimeout p s
  | .portDown p => Sys2Proof.Machine.execPortDown p s
  | .resendTimeout p msg => Sys2Proof.Machine.execResendTimeout p msg s
  | .timeSend => Sys2Proof.Machine.execTimeSend s
  | .time p f offset => Sys2Proof.Machine.execTime p f offset s
  | .ptpMessage p offset => Sys2Proof.Machine.execPtpMessage p offset s
  | .timeLockLoss => Sys2Proof.Machine.execTimeLockLoss s
  | .deviceWithdraw w => Sys2Proof.Machine.execDeviceWithdraw w s
  | .colExpEnable o part v => Sys2Proof.Machine.execColExpEnable o part v s
  | .clkMonitorWindow n w => Sys2Proof.Machine.execClkMonitorWindow n w s
  | .clkEdgeTimeout n => Sys2Proof.Machine.execClkEdgeTimeout n s
  | .clkHoldoverEnd n => Sys2Proof.Machine.execClkHoldoverEnd n s
  | .clockGate c => Sys2Proof.Machine.execClockGate c s
  | .powerGate c => Sys2Proof.Machine.execPowerGate c s
  | .nap d => Sys2Proof.Machine.execNap d s
  | .wakeCreditRefill r => Sys2Proof.Machine.execWakeCreditRefill r s
  | .wakeGrant r => Sys2Proof.Machine.execWakeGrant r s
  | .wakeComplete u => Sys2Proof.Machine.execWakeComplete u s
  | .powerCapAdjust mw => Sys2Proof.Machine.execPowerCapAdjust mw s
  | .portWake p => Sys2Proof.Machine.execPortWake p s
  | .pmbusPoll rails => Sys2Proof.Machine.execPmbusPoll rails s
  | .replan o v hours ages => Sys2Proof.Machine.execReplan o v hours ages s
  | .ageReplanTimer hours ages => Sys2Proof.Machine.execAgeReplanTimer hours ages s
  | .thermalThrottle die => Sys2Proof.Machine.execThermalThrottle die s
  | .thermtrip die => Sys2Proof.Machine.execThermtrip die s
  | .resetNAssert => Sys2Proof.Machine.execResetNAssert s
  | .resetNRelease => Sys2Proof.Machine.execResetNRelease s
  | .vaonLow => Sys2Proof.Machine.execVaonLow s
  | .railPowerGood => Sys2Proof.Machine.execRailPowerGood s
  | .railTimeout r => Sys2Proof.Machine.execRailTimeout r s
  | .bootRomDone => Sys2Proof.Machine.execBootRomDone s
  | .bootReadDone => Sys2Proof.Machine.execBootReadDone s
  | .bootVerifyDone flashAnswers => Sys2Proof.Machine.execBootVerifyDone flashAnswers s
  | .bootConfigDone => Sys2Proof.Machine.execBootConfigDone s
  | .bootTrainDone t => Sys2Proof.Machine.execBootTrainDone t s
  | .layout => Sys2Proof.Machine.execLayout s
  | .fenceDie => Sys2Proof.Machine.execFenceDie s
  | .recoord => Sys2Proof.Machine.execRecoord s
  | .powerState => Sys2Proof.Machine.execPowerState s
  | .imageWrite => Sys2Proof.Machine.execImageWrite s
  | .secver => Sys2Proof.Machine.execSecver s
  | .reglist => Sys2Proof.Machine.execReglist s
  | .ledgerRead => Sys2Proof.Machine.execLedgerRead s
  | .logRead => Sys2Proof.Machine.execLogRead s
  | .status => Sys2Proof.Machine.execStatus s
  | .twinTakeover => Sys2Proof.Machine.execTwinTakeover s
  | .password o v => Sys2Proof.Machine.execPassword o v s
  | .owner o v => Sys2Proof.Machine.execOwner o v s
  | .vendor o v => Sys2Proof.Machine.execVendor o v s
  | .lockClose o v => Sys2Proof.Machine.execLockClose o v s
  | .lockAttemptEnd => Sys2Proof.Machine.execLockAttemptEnd s
  | .mbxQPush o ch n v ep => Sys2Proof.Machine.execMbxQPush o ch n v ep s
  | .mbxQPop o ch n => Sys2Proof.Machine.execMbxQPop o ch n s
  | .mbxDb o ch v => Sys2Proof.Machine.execMbxDb o ch v s
  | .mbxDbSet o ch v => Sys2Proof.Machine.execMbxDbSet o ch v s
  | .mbxDbMask o ch n v => Sys2Proof.Machine.execMbxDbMask o ch n v s
  | .mbxNotify o ch n v => Sys2Proof.Machine.execMbxNotify o ch n v s
  | .mbxLockRead o ch => Sys2Proof.Machine.execMbxLockRead o ch s
  | .mbxLockWrite o ch v => Sys2Proof.Machine.execMbxLockWrite o ch v s
  | .mbxLockForce o ch v => Sys2Proof.Machine.execMbxLockForce o ch v s
  | .snapshotArm o v => Sys2Proof.Machine.execSnapshotArm o v s
  | .snapshotTick => Sys2Proof.Machine.execSnapshotTick s
  | .snapshotDone => Sys2Proof.Machine.execSnapshotDone s
  | .flowstoneProgram => Sys2Proof.Machine.execFlowstoneProgram s
  | .flowstoneErase => Sys2Proof.Machine.execFlowstoneErase s
  | .opsecSave => Sys2Proof.Machine.execOpsecSave s
  | .flwRdSeq o v => Sys2Proof.Machine.execFlwRdSeq o v s
  | .flowstoneFetchDone => Sys2Proof.Machine.execFlowstoneFetchDone s
  | .setaddr words => Sys2Proof.Machine.execSetaddr words s
  | .write words => Sys2Proof.Machine.execWrite words s
  | .read n lateAt => Sys2Proof.Machine.execRead n lateAt s
  | .sidebandStatus extra => Sys2Proof.Machine.execSidebandStatus extra s
  | .badop => Sys2Proof.Machine.execBadop s
  | .sbCsRelease midWord => Sys2Proof.Machine.execSbCsRelease midWord s
  | .pairLoRead o off => Sys2Proof.Machine.execPairLoRead o off s
  | .pairHiRead o off => Sys2Proof.Machine.execPairHiRead o off s
  | .topSeedLoWrite o part v => Sys2Proof.Machine.execTopSeedLoWrite o part v s
  | .topSeedHiWrite o part v => Sys2Proof.Machine.execTopSeedHiWrite o part v s
  | .unalignedAccess o off width isWrite => Sys2Proof.Machine.execUnalignedAccess o off width isWrite s
  | .registerWrite o off size a ep => Sys2Proof.Machine.execRegisterWrite o off size a ep s
  | .rcRead o off n => Sys2Proof.Machine.execRcRead o off n s
  | .instructionFetch c => Sys2Proof.Machine.execInstructionFetch c s
  | .priorityFlowControl p prios pause => Sys2Proof.Machine.execPriorityFlowControl p prios pause s
  | .configurationRequest p reg wdata => Sys2Proof.Machine.execConfigurationRequest p reg wdata s
  | .mediaDieFault m => Sys2Proof.Machine.execMediaDieFault m s
  | .throttleRelease die => Sys2Proof.Machine.execThrottleRelease die s

end Sys2Proof.Machine
end

