-- ==== Sys2Proof/Machine/Idle.lean ====
section
/-! DEFINITION. What happens while no command waits (log 3): the timestamp counts (R353), full Trowel queues stall (R179), ports send IDLE flits (R287), and cells
and channels of the memories may fail (R165 to R167, R228, R307; log 67). -/

namespace Sys2Proof.Machine

/-- A symbol of the granule at `a` is damaged, when a memory with symbols holds it. -/
def MemSt.hurt (m : MemSt) (g sym : Nat) : MemSt :=
  let a := 64 * g
  if isHbm a then m.setDmg g (some (Damage.add (m.dmg g) (sym % 35)))
  else if isGallery a || isPocket a then m.setDmg g (some (Damage.add (m.dmg g) (sym % 67)))
  else m

/-- What a mishap does to the memories. -/
def MemSt.mishap (m : MemSt) : Config.Mishap → MemSt
  | .none => m
  | .symbol g sym => m.hurt g sym
  | .onDie g fatal =>
    if isHbm (64 * g) && (m.dmg g).isNone then m.setDmg g (some (if fatal then .dead else .onDie)) else m
  | .link g => if isSump (64 * g) then m.setDmg g (some .dead) else m
  | .sumpChannel c => { m with sumpBad := insNat (c % 16) m.sumpBad }

/-- One nanosecond without a command. The ten Trowel engines take two cycles in it. -/
def Dev.idle (d : Dev) : Dev :=
  let d := (d.tick.each (List.range 10) (fun d e => d.trwStall 2 e)).sendIdles
  let f := d.fresh
  { f.2 with mem := f.2.mem.mishap (Config.mishap f.1) }

end Sys2Proof.Machine
end

