-- ==== Sys2Proof/Machine/Step.lean ====
section
/-! DEFINITION. One step of the block: the command at the front of the queue, or one nanosecond of idling when none waits. -/

namespace Sys2Proof.Machine

/-- One step: take the command at the front and run it with the rest of the queue; on an empty queue the block idles and
its global timestamp counts 1 ns (R353; log 3). -/
def step (s : State) : Host.Outcome State Fault Refusal :=
  match s.pending with
  | c :: t => exec c { s with pending := t }
  | [] => .next { s with dev := s.dev.idle }

/-- `s` with the command that a word spells put at the front of its queue; `s` where the word spells none. -/
def State.withFetchWord (s : State) (nbits w : Nat) : State :=
  match decodeTableWord nbits w with
  | some c => { s with pending := c :: s.pending }
  | none => s

end Sys2Proof.Machine
end

