-- ==== Sys2Proof/Safety.lean ====
section
/-! DEFINITION. What holds of a state that claims are made of: the copies in the status words agree with what they copy (R378,
R379), and memory is in its canonical form; and the words that claims about commands are made with. -/

namespace Sys2Proof.Safety

open Sys2Proof.Machine

/-- TOP_STATUS shows STATE and TWIN of BOOT_STATE and LOCKOPEN of LOCK_STATUS (R378). -/
def TopAgrees (d : Dev) : Prop :=
  fld 3 0 (d.rd rTopStatus) = fld 3 0 (d.rd rBootState) ∧
  bitOf 12 (d.rd rTopStatus) = bitOf 6 (d.rd rBootState) ∧
  bitOf 11 (d.rd rTopStatus) = (bitOf 0 (d.rd rLockStatus) || bitOf 1 (d.rd rLockStatus))

/-- TOP_P_STATUS of partition `p`: QUIET is set exactly when none of its commands is in flight, and FENCED lists the fenced ones
of its dies (R379). -/
def PartAgrees (d : Dev) (p : Nat) : Prop :=
  bitOf 16 (d.rd (rTopPStatus p)) = d.queue.infl.all (fun x => x.part ≠ p || x.phase = .early) ∧
  fld 15 8 (d.rd (rTopPStatus p)) = (fld 23 16 (d.rd rTopStatus) &&& fld 7 0 (d.rd (rTopPStatus p)))

/-- Every copy agrees. -/
def CopiesAgree (s : State) : Prop := TopAgrees s.dev ∧ ∀ p < 8, PartAgrees s.dev p

/-- Memory is in its canonical form. -/
def MemoryOk (s : State) : Prop := s.dev.mem.wf = true

/-- No access is held between two commands: what a command noted of one that found no frame is gone with it (R221). -/
def Settled (s : State) : Prop := s.dev.tier.stall = none

/-- A state in which all of this holds. -/
def Good (s : State) : Prop := CopiesAgree s ∧ MemoryOk s ∧ Settled s

/-! ### What a command does -/

/-- The command `i` completes: the queue of waiting commands stays, and the device becomes `u`, with its status copies set again
(R378, R379); only where an access of it found no frame of a managed page is it put off, and the wait stands (R221). -/
abbrev Does (i : Instr) (s : State) (u : Dev) : Prop := exec i s = .next (s.settle u)

/-- The command `i` completes without an access that waits for a frame: in a settled state the device becomes one of which `P`
holds, and the queue of waiting commands stays. -/
def Runs (i : Instr) (s : State) (P : Dev → Prop) : Prop := ∃ u, Does i s u ∧ u.tier.stall = s.dev.tier.stall ∧ P u.refresh

/-- The command `i` completes in a device of which `P` holds, or an access of it waits for a frame (R221). -/
def RunsOrWaits (i : Instr) (s : State) (P : Dev → Prop) : Prop := ∃ u, Does i s u ∧ (u.tier.stall = none → P u.refresh)

/-- Is `off` one of the status words that hold copies: TOP_STATUS and the TOP_P_STATUS of the eight partitions? -/
def isCopy (off : Nat) : Bool := off = rTopStatus || (List.range 8).any (fun p => off = rTopPStatus p)

/-- From `d` to `t` only the registers of `l` and the copies in the status words may change: every other register, every byte
of memory and everything else is as it was. -/
def OnlyRegs (d t : Dev) (l : List Nat) : Prop :=
  (∀ off, off ∉ l → isCopy off = false → t.rd off = d.rd off) ∧ (∀ a, t.mem.byte a = d.mem.byte a)
    ∧ t = { d with regs := t.regs }

/-- An aligned 32-bit write by origin `o` reaches the register at `off`: the sender can reach the device, R28 does not refuse the
page, and the page is not hidden (R337, R375, R376, Table 16-1). -/
abbrev Reaches (d : Dev) (o : Origin) (off : Nat) : Prop :=
  d.may o = true ∧ d.regReach o true off = true ∧ d.failHides off = false ∧ d.pageHidden off = false

/-- A flit of kind `k` is taken by port `p`: the port's state takes it, it is valid, and on Dreuri it is in order and within the
credits (R287 to R290). -/
abbrev FlitOk (d : Dev) (p : Nat) (f : FlitHdr) (k : FlitKind) : Prop :=
  d.takes p k = true ∧ f.crcOk = true ∧ f.fec ≠ .bad ∧
    (d.portEth p = false → f.seq.toNat = (d.port p).rxSeq ∧ (d.port p).used.getD f.vc.val 0 < 64)

/-- Port `p` with a message of `k` flits taken: on Dreuri the next SEQ is expected and its channel owes `k` credits. -/
def taken (d : Dev) (p : Nat) (f : FlitHdr) (k : Nat) : Dev :=
  if d.portEth p then d
  else d.setPort p { d.port p with
    discarding := false, rxSeq := ((d.port p).rxSeq + k) % 4096, used := (d.port p).used.modify f.vc.val (fun u => min 64 (u + k)) }

/-- Coordinate `c` is ALIVE, and its entry of the partner table shows the ports that reach it (R293): hearing it again changes
when it was heard and nothing else. -/
abbrev Known (d : Dev) (c : Nat) : Prop :=
  (d.partner c).state = 1 ∧ (d.partner c).ports = ((d.directPorts c).map (2 ^ ·)).sum

/-- The command that `c` names is in flight as `x`, dispatched, and of CLASS `cls` and OP `op`. -/
abbrev Dispatched (d : Dev) (c : CmdRef) (x : Inflight) (cls op : Nat) : Prop :=
  d.cmd? c = some x ∧ x.phase = .dispatched ∧ x.cls = cls ∧ x.op = op

end Sys2Proof.Safety
end

