-- ==== Sys2Proof/Certificates/Slice0/Obligations.lean ====
section
/-! DEFINITION. The statements for the provers. `Does`, `Runs`, `OnlyRegs` and `Reaches` (Safety.lean) say what a command does: `Does i s u` is the
whole next state, so everything that `u` does not change is unchanged. -/

open Sys2Proof Sys2Proof.Machine Sys2Proof.Safety

/-! ## Queues (10) -/

/-- R231, R237: a doorbell that R231 does not discard sets TAIL and nothing else, through BAR2 and through QMG_Q_DB; a write to
QMG_CNT_VAL sets the counter and clears FAULT; a write to QMG_CNT_ADD adds modulo 2^32 and leaves FAULT. -/
def Obligations.DoorbellsAndCounterWritesTakeEffect : Prop :=
  ∀ (s : State) (o : Origin) (p : Fin 2) (q : Fin 65536) (c : Fin 262144) (v : Word),
    (bitOf 0 (s.dev.rd (rQmgQCfg q)) = true → bitOf 4 (s.dev.rd (rQmgQStatus q)) = false →
      reached32 v (s.dev.rd (rQmgQTail q)) = true →
      (v - s.dev.rd (rQmgQRetire q)).toNat ≤ 2 ^ fld 5 1 (s.dev.rd (rQmgQCfg q)) →
      (s.dev.may (.host p) = true → Does (.doorbell (.host p) q v false) s (s.dev.wr (rQmgQTail q) v)) ∧
      (hostOf o = none → Reaches s.dev o (rQmgQDb q) → Does (.doorbell o q v false) s (s.dev.wr (rQmgQTail q) v))) ∧
    (Reaches s.dev o (rQmgCntVal c) →
      Does (.qmgCntVal o c v) s
        ((s.dev.wr (rQmgCntVal c) v).wr (rQmgCntAdd c) (setBit 0 false (s.dev.rd (rQmgCntAdd c))))) ∧
    (Reaches s.dev o (rQmgCntAdd c) →
      Does (.qmgCntAdd o c v) s (s.dev.wr (rQmgCntVal c) (s.dev.rd (rQmgCntVal c) + v)))

/-- R244, R379: QUEUE_STOP sets STOP and makes an enabled queue STOPPED, QUEUE_RESUME clears STOP and makes it RUNNING,
QUEUE_FLUSH acts on a STOPPED or HALTED queue with cause 0x23 and then writes STOP; TOP_P_CTL does one or the other to every
queue of the partition, whichever of its two bits is written 1 alone. -/
def Obligations.QueueControlWritesSetStopAndState : Prop :=
  ∀ (s : State) (o : Origin) (q : Fin 65536) (p : Fin 8) (stop : Bool) (v : Word),
    let stopped (d : Dev) (q : Nat) (b : Bool) (st : Nat) : Dev :=
      (d.wr (rQmgQCtl q) (setBit 0 b (d.rd (rQmgQCtl q)))).wrFld (rQmgQStatus q) 1 0 st
    let all (b : Bool) (st : Nat) : Dev :=
      ((List.range 65536).filter (fun q => s.dev.qPart q = p)).foldl (fun d q =>
        if d.rdFld (rQmgQStatus q) 1 0 = 0 then d.wr (rQmgQCtl q) (setBit 0 b (d.rd (rQmgQCtl q))) else stopped d q b st) s.dev
    (Reaches s.dev o (rQmgQCtl q) → s.dev.rdFld (rQmgQStatus q) 1 0 ≠ 0 →
      Does (.queueStop o q) s (stopped s.dev q true 2) ∧ Does (.queueResume o q) s (stopped s.dev q false 1)) ∧
    (Reaches s.dev o (rQmgQCtl q) → (s.dev.rdFld (rQmgQStatus q) 1 0 = 2 ∨ s.dev.rdFld (rQmgQStatus q) 1 0 = 3) →
      Does (.queueFlush o q stop) s ((s.dev.flush q 0x23).queueStopWrite q stop)) ∧
    (Reaches s.dev o (rTopPCtl p) → bitOf 1 v = false → Does (.topPStopall o p v) s (all true 2)) ∧
    (Reaches s.dev o (rTopPCtl p) → bitOf 0 v = false → Does (.topPResume o p v) s (all false 1))

/-- R230, R244: QUEUE_ENABLE of a closed queue with LOG2SIZE 6 to 16 and its ring and completion area in the partition's HBM
window or Gallery clears TAIL, HEAD and RETIRE and sets EN and STATE; QUEUE_DISABLE clears EN and sets CLOSING;
QUEUE_CLOSE_END, with nothing of the queue in flight, leaves it DISABLED. -/
def Obligations.QueueOpensAndCloses : Prop :=
  ∀ (s : State) (o : Origin) (q : Fin 65536) (v : Word),
    let old := s.dev.rd (rQmgQCfg q)
    let d := s.dev.wr (rQmgQCfg q) (setFld 5 1 (fld 5 1 v) (setFld 21 6 (fld 21 6 v) old))
    (Reaches s.dev o (rQmgQCfg q) → bitOf 0 old = false → s.dev.closing q = false → 6 ≤ fld 5 1 v → fld 5 1 v ≤ 16 →
      d.inHbmOrGallery (d.qPart q) (d.rd64 (rQmgQBaseLo q)) (64 * 2 ^ fld 5 1 v) = true →
      d.inHbmOrGallery (d.qPart q) (d.rd64 (rQmgQCplLo q)) (64 * 2 ^ fld 5 1 v) = true →
      Does (.queueEnable o q v) s
        ((({ ((d.wr (rQmgQTail q) 0).wr (rQmgQHead q) 0).wr (rQmgQRetire q) 0 with
            queue := { s.dev.queue with fetched := s.dev.queue.fetched.filter (fun f => f.q ≠ q.val),
                                        stuck := delNat q s.dev.queue.stuck,
                                        doneSlots := s.dev.queue.doneSlots.filter (fun f => f.1 ≠ q.val) } }).wr
          (rQmgQCfg q) (setBit 0 true (d.rd (rQmgQCfg q)))).wrFld (rQmgQStatus q) 1 0
            (if bitOf 0 (s.dev.rd (rQmgQCtl q)) then 2 else 1))) ∧
    (Reaches s.dev o (rQmgQCfg q) → bitOf 0 old = true →
      Runs (.queueDisable o q v) s (fun t =>
        bitOf 0 (t.rd (rQmgQCfg q)) = false ∧ bitOf 4 (t.rd (rQmgQStatus q)) = true ∧
        OnlyRegs s.dev t [rQmgQCfg q, rQmgQStatus q])) ∧
    (s.dev.closing q = true → s.dev.queue.infl.all (fun x => x.q ≠ q.val) = true →
      Does (.queueCloseEnd q) s { (s.dev.wr (rQmgQStatus q) 0) with
        queue := { s.dev.queue with fetched := s.dev.queue.fetched.filter (fun f => f.q ≠ q.val) } })

/-- R232, R233: RING_FETCH of a RUNNING queue, none of whose fetches failed, with one slot to fetch reads its 64 bytes at the slot's place in the ring;
COMMAND_DISPATCH takes the command at HEAD with its modes sampled, advances HEAD over its slots,
copies a KERNEL's structures and counts it. -/
def Obligations.FetchAndDispatchMoveTheQueue : Prop :=
  ∀ (s : State) (q : Fin 65536) (b e : List Byte),
    let h := s.dev.rd (rQmgQHead q)
    let r := s.dev.readMem ⟨some (s.dev.qPart q), qmSrc q⟩
      (s.dev.rd64 (rQmgQBaseLo q) + h.toNat % s.dev.ringSize q * 64) 64
    let x := s.dev.sample q b e
    (s.dev.running q = true → s.dev.queue.stuck.contains q.val = false → s.dev.queue.fetched.filter (fun f => f.q = q.val) = [] → s.dev.rd (rQmgQTail q) = h + 1 → r.1.bad = none →
      Does (.ringFetch q) s { r.2 with queue := { r.2.queue with fetched := r.2.queue.fetched ++ [⟨q, h, r.1.bytes⟩] } }) ∧
    (s.dev.head? q = some (b, e) → s.dev.ready q = true → s.dev.turn q = true → s.dev.foreign x.part b e = false →
      s.dev.depFault b e = false → s.dev.badCmd x.part b e = false → x.cls ≠ 1 → x.cls < 10 →
      s.dev.queue.infl.all (fun y => y.q ≠ q.val || y.i ≠ h) = true →
      let t : Dev := ({ s.dev with queue := { s.dev.queue with
            infl := s.dev.queue.infl ++ [x], nextOrd := s.dev.queue.nextOrd + 1,
            fetched := s.dev.queue.fetched.filter (fun f => !(f.q = q.val && (f.cnt = h || (x.slots = 2 && f.cnt = h + 1)))),
            rrLast := sset (fun _ => 65535) s.dev.queue.rrLast (q % 2) q } }.wr
          (rQmgQHead q) (h + BitVec.ofNat 32 x.slots)).add64 rQmgDispatchLo 1
      Does (.commandDispatch q) s (if x.cls = 0 then t.kernelCopy x else t))

/-- R239: WAIT and SIGNAL end as soon as they are dispatched, with nothing else done; MARK writes its 32-byte record at the
address of its first operand, with a Flowstone record of class MARK when FLW is 1, and ends DONE when the write is not
refused. R245: a MODE command begins its work. R246: the last acknowledgement sets TA 2 µs ahead and QMG_STATUS to 2; at TA
the new rounding, table source or power profile is in force, QMG_MODE_TA holds TA, the hold ends and the command ends DONE
with TA in its completion; 100 µs after H with acknowledgements missing the hold ends with the command ABORTED, cause 0x24,
and the old values stay. -/
def Obligations.ControlCommandsEndAndModesSwitchOrTimeOut : Prop :=
  (∀ (s : State) (c : CmdRef) (x : Inflight),
    let record : List Byte := leBytes 4 x.seq ++ leBytes 4 x.q ++ leBytes 8 x.ts ++ leBytes 8 (x.opd 1) ++ leBytes 8 0
    let w := s.dev.writeMem ⟨some x.part, qmSrc x.q⟩ (x.opd 0) (clean record)
    let done (d : Dev) : Dev := d.setCmd x.q x.i (fun y => { y with phase := .ended, res := Result.fresh })
    let begun : Dev := s.dev.setCmd x.q x.i (fun y => { y with phase := .working })
    (Dispatched s.dev c x 8 0 → Does (.wait c) s (done s.dev)) ∧
    (Dispatched s.dev c x 9 0 → Does (.signal c) s (done s.dev)) ∧
    (Dispatched s.dev c x 12 0 → w.1 = none →
      Does (.mark c) s (done (if (x.opd 2).testBit 0 then w.2.flw 8 0 (qmSrc x.q) (x.opd 1) else w.2))) ∧
    (Dispatched s.dev c x 10 0 → Does (.modeRound c) s begun) ∧
    (Dispatched s.dev c x 10 1 → Does (.modeTblsrc c) s begun) ∧
    (Dispatched s.dev c x 10 2 → Does (.modePower c) s begun)) ∧
  (∀ (s : State) (m : ModeSt) (x : Inflight) (u : ModeUnit) (ta : Nat),
    s.dev.queue.mode = some m →
    let x? := s.dev.queue.infl.find? (fun x => x.q = m.cmd.q.val && x.i = m.cmd.i)
    (m.ta = none → s.dev.now ≤ m.h + 100000 → s.dev.modeAsked m = true → (s.dev.modeUnits m.op).contains u = true → m.acked.contains u = false →
      s.dev.modeReady u = true → (s.dev.modeUnits m.op).all (m.acked ++ [u]).contains = true →
      Does (.modeAck u) s ({ s.dev with queue := { s.dev.queue with
        mode := some { m with acked := m.acked ++ [u], ta := some (s.dev.now + 2000) } } }.wr rQmgStatus 2)) ∧
    (m.ta = some ta → ta ≤ s.dev.now → x? = some x → m.op = 0 →
      Does .modeSwitch s (((({ s.dev with queue := { s.dev.queue with
          rnd := sset (fun _ => 1) s.dev.queue.rnd m.part m.value, mode := none } }).wr64 rQmgModeTaLo ta).wr rQmgStatus 0).setCmd
            x.q x.i (fun y => { y with phase := .ended, res := { Result.fresh with xa := ta } }))) ∧
    (m.ta = some ta → ta ≤ s.dev.now → x? = some x → m.op = 1 →
      Does .modeSwitch s ((({ ((s.dev.wrFld (rTrwPctl m.part) 1 1 m.value).wr64 rQmgModeTaLo ta) with
          queue := { s.dev.queue with mode := none } }).wr rQmgStatus 0).setCmd
            x.q x.i (fun y => { y with phase := .ended, res := { Result.fresh with xa := ta } }))) ∧
    (m.ta = none → m.h + 100000 ≤ s.dev.now → (s.dev.modeUnits m.op).all m.acked.contains = false → x? = some x →
      let late := ((s.dev.modeUnits m.op).filter (fun u => !m.acked.contains u)).map modeSrc
      let d := (((if x.opd 1 = 0 then s.dev else (s.dev.writeMem ⟨some x.part, qmSrc x.q⟩ (x.opd 1)
        (clean ((late.take 64).flatMap (leBytes 2)))).2).qmErr 4 x.q x.seq)).flw 3 4 (qmSrc x.q) 0
      d.queue.infl.find? (fun x => x.q = m.cmd.q.val && x.i = m.cmd.i) = some x →
      Does .modeTimeout s (({ d with queue := { d.queue with mode := none } }.wr rQmgStatus 0).setCmd x.q x.i (fun y =>
        { y with phase := .ended, res := { aborted 0x24 (late.headD 0xFFFF) with
          result := late.length, xb := ((late.take 4).zipIdx.map (fun (e : Nat × Nat) => e.1 * 65536 ^ e.2)).sum } }))))

/-- R241: a command that has ended and of which no Trowel engine holds a block completes, with its record, signals, message and
RETIRE, and is no longer in flight; of one that neither signals nor asks for a message, in a partition without gates, the
64-byte record is written in its completion slot and RETIRE goes past its slots. R247: a DMA engine that holds fewer than four
commands takes, of the COPY and FILL commands that wait for it, one of the highest queue priority, holds it and shows it in
DMA_STATUS. R248: a COPY is checked and moved; one without permutation or offsets between two uncompressed tensors of one
format that is no MX format, the source covering the destination, writes the code of the source element of the same indices to
every destination element; a FILL of such a tensor writes its pattern to every element; each counts the bytes it wrote and ends its command DONE when
nothing was refused or poisoned. R310: the reply to a PULL is written at its local address and ends the command. -/
def Obligations.DmaCommandsStartMoveAndComplete : Prop :=
  (∀ (s : State) (c : CmdRef) (x : Inflight),
    let a := s.dev.rd64 (rQmgQCplLo x.q) + x.i.toNat % s.dev.ringSize x.q * 64
    let w := (s.dev.writeMem ⟨some x.part, qmSrc x.q⟩ a (clean (cplRecord x x.ts s.dev.now))).2
    s.dev.cmd? c = some x → x.phase = .ended → s.dev.trwHolds (.cmd x.q x.i) = false →
    (Does (.commandComplete c) s (s.dev.completeCmd x) ∧
      ∀ y ∈ (s.dev.completeCmd x).queue.infl, ¬(y.q = x.q ∧ y.i = x.i)) ∧
    (x.part < 8 → x.q < 65536 → x.held = false → x.eng = 127 → x.cls < 8 →
      (sigsOf x.slot x.ext).filter (fun g => s.dev.cntPart g.cnt = some x.part) = [] → x.ctrl.testBit 10 = false →
      s.dev.rd (rColEpCtl x.part) = 0 → bitOf 9 (s.dev.rd (rQmgQCfg x.q)) = false → s.dev.rd (rQmgQRetire x.q) = x.i →
      s.dev.queue.doneSlots.filter (fun e => e.1 = x.q) = [] →
      Does (.commandComplete c) s ({ w with queue := { w.queue with
        infl := s.dev.queue.infl.filter (fun y => !(y.q = x.q && y.i = x.i)) } }.wr (rQmgQRetire x.q)
          (x.i + BitVec.ofNat 32 x.slots)))) ∧
  (∀ (s : State) (e : Fin 96),
    let waiting := s.dev.queue.infl.filter (fun y => y.eng = e.val && !y.held && y.phase = .dispatched)
    let prio (y : Inflight) : Nat := s.dev.rdFld (rQmgQCfg y.q) 8 6
    let n := s.dev.queue.nextOrd + 1
    waiting ≠ [] → (∀ y ∈ waiting, y.op ≠ 2) → (s.dev.dmaHeld e).length < 4 →
    ∃ x ∈ waiting, (∀ y ∈ waiting, prio y ≤ prio x) ∧
      Does (.dmaEngineStart e) s ({ (s.dev.setCmd x.q x.i (fun y => { y with heldAt := n })) with
        queue := { (s.dev.setCmd x.q x.i (fun y => { y with heldAt := n })).queue with
          nextOrd := n, rrLast := sset (fun _ => 65535) s.dev.queue.rrLast (16 + e) x.q } }.dmaStat e)) ∧
  (∀ (s : State) (c : CmdRef) (x : Inflight) (src dst : Desc),
    let acc : Acc := ⟨some x.part, dmaSrc x.eng⟩
    let rnd : RndCtx := ⟨x.seed, BitVec.ofNat 32 x.seq, 0xFFFFFFFFFFFFFFFF, x.rnd⟩
    let idxs := (List.range dst.count).map dst.idxOf
    let a := s.dev.loadDesc acc (x.opd 0)
    let b := a.2.loadDesc acc (x.opd 1)
    let rd := b.2.readElems acc 4096 src (src.org x.epoch) (idxs.map src.siOf)
    let w := rd.2.writeElems acc 4096 dst (dst.org x.epoch) rnd
      ((idxs.zip rd.1.els).map (fun e => ⟨e.1, .raw e.2.code, e.2.bad⟩))
    let t := s.dev.loadDesc acc (x.opd 1)
    let v := x.opd 2 % 2 ^ 32
    let f := t.2.writeElems acc 4096 dst (dst.org x.epoch) rnd (idxs.map (fun i => ⟨i, .raw v, false⟩))
    let done (d : Dev) (n : Nat) : Dev :=
      ((d.add64 (rDmaBytesLo x.eng) n).finish x { Result.fresh with progress := dst.progress }).dmaStat x.eng
    (Dispatched s.dev c x 1 0 → s.dev.dmaTurn x = true → Does (.copy c) s (s.dev.moveBegin x (x.opd 0) (x.opd 1))) ∧
    (Dispatched s.dev c x 1 0 → s.dev.dmaTurn x = true → (x.opd 2).testBit 18 = false → (x.opd 2).testBit 19 = false →
      a.1 = some src → b.1 = some dst → src.cls = 0 → dst.cls = 0 → src.fmt = dst.fmt → dst.fmt.isMx = false →
      idxs.all (fun i => i.length = 6 && inSizes src.size (i.map Int.ofNat)) = true → descMeets x.epoch src dst = false → rd.1.bad = none → rd.1.refused = false →
      rd.1.poison = false → w.1.bad = none →
      Does (.copy c) s (done (w.2.trwDrop (.cmd x.q x.i)) w.1.done)) ∧
    (Dispatched s.dev c x 1 1 → s.dev.dmaTurn x = true → t.1 = some dst → dst.cls = 0 → dst.fmt.isMx = false →
      patternBad dst.fmt v = false → f.1.bad = none → Does (.fill c) s (done f.2 f.1.done))) ∧
  (∀ (s : State) (c : CmdRef) (x : Inflight) (p : Fin 24) (f : FlitHdr) (bytes : List Byte),
    let n := x.opd 3 % 2 ^ 32
    let got := taken s.dev p f (max 1 (cdiv bytes.length 240))
    Dispatched s.dev c x 1 2 → s.dev.dmaTurn x = true → FlitOk s.dev p f .traffic → bytes.length = n → f.poison = false →
      f.src.toNat = x.opd 0 % 65536 → regOff (x.opd 2) = none →
      Does (.pull c ⟨p, f⟩ ⟨bytes, []⟩) s (got.accept p f .traffic bytes.length none (fun d =>
        let w := d.writeBytes (x.acc (dmaSrc x.eng)) 4096 (bytes.zipIdx.map (fun e => (x.opd 2 + e.2, (e.1, false))))
        let ended (d : Dev) (r : Result) : Dev := ((d.add64 (rDmaBytesLo x.eng) w.1.2).finish x r).dmaStat x.eng
        match w.1.1 with
        | none => ended w.2 { Result.fresh with progress := n }
        | some a => ended (w.2.dmaErr x.eng 1 a) { Result.fresh with status := .poisoned, progress := n, addr := a })))

/-- R310, R311: a PULL that its engine has taken goes out on VC 3 over a port of the engine's hub that has the least traffic, and
the command stays in flight. A peer's PULL read inside an enabled export window, whose granules the partition reaches, is
answered with the bytes on VC 3 and counted in COL_EXP_BYTES; one outside the window is answered with poison and counted in
COL_EXP_REFUSED. EN = 1 opens the window exactly when the partition's own windows hold it. -/
def Obligations.PullReadsAreServedInTheWindow : Prop :=
  (∀ (s : State) (e : Fin 96) (x : Inflight),
    let n := s.dev.queue.nextOrd + 1
    let took : Dev := { (s.dev.setCmd x.q x.i (fun y => { y with heldAt := n })) with
      queue := { (s.dev.setCmd x.q x.i (fun y => { y with heldAt := n })).queue with
        nextOrd := n, rrLast := sset (fun _ => 65535) s.dev.queue.rrLast (16 + e) x.q } }
    s.dev.queue.infl.filter (fun y => y.eng = e.val && !y.held && y.phase = .dispatched) = [x] → x.op = 2 →
      (s.dev.dmaHeld e).length < 4 → x.opd 3 % 2 ^ 32 ≠ 0 → x.opd 3 % 2 ^ 32 % 64 = 0 →
      (s.dev.partner (x.opd 0 % 65536)).state ≠ 2 →
      Does (.dmaEngineStart e) s ((took.sendTo ⟨3, x.opd 0 % 65536, e / 32 % 2, false,
        .pullRequest (x.opd 0 / 65536 % 16) (x.opd 1) (x.opd 3 % 2 ^ 32)⟩).dmaStat e)) ∧
  (∀ (d : Dev) (o : OutMsg) (p a n : Nat), o.kind = .pullRequest p a n →
    let load (q : Nat) : Nat := ((d.port q).wait.map (fun e => e.1.flits - e.2)).sum + (d.port q).unacked.length
    d.routes o.hub o.dest ≠ [] → ∃ q ∈ d.routes o.hub o.dest, d.sendTo o = d.portSend q o ∧ ∀ r ∈ d.routes o.hub o.dest, load q ≤ load r) ∧
  (∀ (s : State) (o : Origin) (p : Fin 24) (f : FlitHdr) (q : Fin 8) (v : Word) (a : BitVec 48) (n : Nat),
    let base := s.dev.rd64 (rColExpBaseLo q)
    let size := s.dev.rd64 (rColExpSizeLo q)
    let hub := p.val / 12
    let acc : Acc := ⟨some q, srcNo (16 + hub) 0x040⟩
    let inside : Prop := bitOf 0 (s.dev.rd (rColExpCtl q)) = true ∧ base ≤ a.toNat ∧ a.toNat + n ≤ base + size
    let marks (l : Marked) : List Nat := sortNat (l.zipIdx.filterMap (fun e => if e.1.2 then some (e.2 / 64) else none))
    let reply (bs : List Byte) (ps : List Nat) : OutMsg :=
      { vc := 3, dest := f.src.toNat, hub := hub, poison := !ps.isEmpty, kind := .pullReply bs ps }
    (FlitOk s.dev p f .traffic →
      (inside → (granules a.toNat n).all (fun g => s.dev.reaches acc false g.1) = true →
        Known s.dev f.src.toNat →
        Does (.pullServe ⟨p, f⟩ q a n) s ((taken s.dev p f 1).accept p f .traffic 240 none (fun d =>
          let r := d.readMem acc a.toNat n
          (r.2.add64 (rColExpBytesLo q) n).sendTo (reply r.1.bytes (marks r.1.data))))) ∧
      (¬inside → Does (.pullServe ⟨p, f⟩ q a n) s ((taken s.dev p f 1).accept p f .traffic 240 none (fun d =>
        (d.addSat (rColExpRefused q) 1).sendTo (reply (List.replicate n 0) (List.range (cdiv n 64))))))) ∧
    (Reaches s.dev o (rColExpCtl q) → bitOf 0 (s.dev.rd (rColExpCtl q)) = false →
      (s.dev.windowHolds q base size = true → Does (.colExpEnable o q v) s (s.dev.wr (rColExpCtl q) 1)) ∧
      (s.dev.windowHolds q base size = false → Does (.colExpEnable o q v) s s.dev)))

/-- R123, R125, R240, R251: the structures of a KERNEL are copied as it is dispatched, once; a KERNEL whose copied structures passed
their checks opens a launch slot with its cores and wakes them, and one whose structures failed a check ends ABORTED with the
cause; one at the head of its queue with EARLY, that names no other partition's counter, is opened before its dispatch,
without cores. -/
def Obligations.KernelsOpenLaunches : Prop :=
  ∀ (s : State) (c : CmdRef) (q : Fin 65536) (x : Inflight) (k : Nat) (i : LaunchIn) (b e : List Byte) (err : Nat),
    let cores := s.dev.kernelCores x.part (x.opd 4)
    let r := s.dev.readLaunch (s.dev.launchHub x.part * 256) x.part (x.opd 2)
    let g := s.dev.readLaunch k (s.dev.qPart q) ((s.dev.sample q b e).opd 2)
    let y := { g.2.sample q b e with phase := .early, copied := some (.inr i) }
    let z : Dev := { g.2 with queue := { g.2.queue with infl := g.2.queue.infl ++ [y] } }
    (x.copied = none → r.1 = .inr i → x.opd 3 = 0 →
      s.dev.kernelCopy x = r.2.setCmd x.q x.i (fun y => { y with copied := some (.inr i) })) ∧
    (x.copied = some (.inr i) → x.opd 3 = 0 →
      s.dev.kernelCopy x = s.dev.setCmd x.q x.i (fun y => { y with copied := some (.inr i) })) ∧
    (Dispatched s.dev c x 0 0 → (s.dev.diesOf x.part).all s.dev.fenced = false →
      s.dev.launches.find? (fun l => l.2.early && l.2.q = x.q && l.2.i = x.i) = none →
      (x.copied = some (.inr i) → s.dev.freeLaunchSlot (s.dev.launchHub x.part) = some k →
        Does (.kernel c) s ((((s.dev.openLaunch k x i false cores).setCmd x.q x.i (fun y => { y with phase := .working })).wakeCores
          cores (s.dev.rdFld (rQmgQCfg x.q) 8 6)).launchDone k)) ∧
      (x.copied = some (.inl (err, none)) →
        Does (.kernel c) s ((s.dev.dropEarly x.q x.i).finish x (aborted err (tsqSrc (s.dev.launchHub x.part * 256)))))) ∧
    (s.dev.head? q = some (b, e) → s.dev.running q = true → s.dev.closing q = false → leAt b 0 1 = 0 →
      (leAt b 0 4).testBit 11 = true →
      s.dev.queue.infl.any (fun x => x.q = q.val && x.i = s.dev.rd (rQmgQHead q)) = false →
      ((waitsOf b e).filter (·.kind)).all (s.dev.waitMet q) = true → s.dev.badCmd (s.dev.qPart q) b e = false →
      s.dev.foreign (s.dev.qPart q) b e = false →
      s.dev.freeLaunchSlot (s.dev.launchHub (s.dev.qPart q)) = some k → g.1 = .inr i →
      Does (.kernelEarlyAccept q) s ((z.openLaunch k y i true []).wakeCores (z.kernelCores (s.dev.qPart q) (y.opd 4)) (z.rdFld (rQmgQCfg q) 8 6)))

/-! ## The host interface (01) and register conventions (17) -/

/-- R29, R30, R35, R36, R338, Tables 1-10 to 1-15: a PCIe link that goes down clears PCI_STATUS and sets PCI_ERR.LINKDOWN (that
PCI_ERR_ADDR then captures 0 is the model's choice, log 69); one that comes up, once the boot rails are on, shows its speed,
width, flit mode and LINK, with nothing else changed while no MSI-X message is pending; a function-level reset empties the
port's configuration space with its BARs, its MSI-X table and pending bits, PCI_BULK_BASE and PCI_BULK_PTR and nothing else.
Unmasking a vector whose message is pending sends it with the entry's address and data and clears its pending bit, but with
EP the write is discarded and flagged at its BAR offset; a host read that times out marks its granule and sets
PCI_ERR.TIMEOUT; an unsupported request sets PCI_ERR.UR. A configuration request is answered with retry status before READY
or FAIL, with data after: a BAR word reads back as written down to its size, the bits below showing a 64-bit non-prefetchable BAR. -/
def Obligations.PciePortsResetSendAndFlagErrors : Prop :=
  (∀ (s : State) (p : Fin 2) (gen : Fin 6) (lanes : PciLanes) (flit : Bool),
    (s.dev.linkUp p = true → s.dev.rd (rPciErr p) = 0 →
      Does (.pcieLinkDown p) s (((s.dev.wr (rPciStatus p) 0).wr (rPciErr p) (setBit 1 true 0)).wr64 (rPciErrAddrLo p) 0)) ∧
    (s.dev.linkUp p = false → s.dev.pins.railsEn = true → s.dev.pins.resetN = true → s.dev.pins.bootStop = false →
      s.dev.rdFld rPwrStatus 1 0 ≠ 2 → s.dev.host.pba.filter (fun k => k / 2048 = p.val) = [] →
      Does (.pcieLinkUp p gen lanes flit) s (s.dev.wr (rPciStatus p)
        (BitVec.ofNat 32 (gen.val + 1 + 2 ^ 4 * lanesNo lanes + 2 ^ 9 + (if flit || gen.val = 5 then 2 ^ 10 else 0))))) ∧
    Does (.pcieFunctionReset p) s
      (({ s.dev with host := { s.dev.host with
          msix := s.dev.host.msix.filter (fun e => e.1 / 8192 ≠ p.val),
          pba := s.dev.host.pba.filter (fun k => k / 2048 ≠ p.val),
          bars := s.dev.host.bars.filter (fun e => e.1 / 6 ≠ p.val) } }.wr64 (rPciBulkBaseLo p) 0).wr64 (rPciBulkPtrLo p) 0)) ∧
  (∀ (s : State) (p : Fin 2) (vec : Fin 2048) (addr : DWord) (data v : Word) (a : BitVec 48) (reg : BitVec 12) (k : Fin 6),
    let bar : BitVec 12 := BitVec.ofNat 12 (0x10 + 4 * k.val)
    let read (w : Word) : Prop := Does (.configurationRequest p bar none) s { s.dev with resp := .config w }
    let ready : Prop := s.dev.linkUp p = true ∧ (s.dev.bootState = 5 ∨ s.dev.bootState = 6)
    (s.dev.may (.host p) = true → s.dev.host.pba.contains (p.val * 2048 + vec.val) = true →
      Runs (.msixUnmask p vec addr ⟨data, false⟩) s (fun t =>
        t.sent = s.dev.sent ++ [.msix p.val vec.val addr.toNat data] ∧ t.host.pba.contains (p.val * 2048 + vec.val) = false ∧
        OnlyRegs { s.dev with host := t.host, sent := t.sent } t [])) ∧
    (s.dev.may (.host p) = true → s.dev.rd (rPciErr p) = 0 →
      Does (.msixUnmask p vec addr ⟨data, true⟩) s
        ((s.dev.wr (rPciErr p) (setBit 0 true 0)).wr64 (rPciErrAddrLo p) (0x20000 + 16 * vec.val))) ∧
    (s.dev.linkUp p = true → hostPort a.toNat = some p.val → s.dev.rd (rPciErr p) = 0 →
      Does (.hostReadTimeout p a) s
        ((({ s.dev with host := { s.dev.host with
            timeouts := insNat (s.dev.hostKey p a.toNat / 64) s.dev.host.timeouts } }.wr (rPciErr p) (setBit 3 true 0)).wr64
          (rPciErrAddrLo p) a.toNat))) ∧
    (s.dev.linkUp p = true → s.dev.rd (rPciErr p) = 0 →
      Does (.unsupportedRequest p addr) s ((s.dev.wr (rPciErr p) (setBit 4 true 0)).wr64 (rPciErrAddrLo p) addr.toNat)) ∧
    (s.dev.linkUp p = true → s.dev.bootState ≠ 5 → s.dev.bootState ≠ 6 →
      Does (.configurationRequest p reg none) s { s.dev with resp := .retryStatus }) ∧
    (ready →
      (reg.toNat < 0x10 ∨ 0x28 ≤ reg.toNat → ∃ w, Does (.configurationRequest p reg none) s
        { s.dev with free := s.dev.free + 1, resp := .config w }) ∧
      (s.dev.host.bars = [] → k.val % 2 = 0 → read 4) ∧ (s.dev.host.bars = [] → k.val % 2 = 1 → read 0) ∧
      Runs (.configurationRequest p bar (some v)) s (fun t =>
        t.barWord p k = (if k.val % 2 = 0 then setFld (barBits k - 1) 0 4 v else v) ∧
        (∀ j < 6, j ≠ k.val → t.barWord p j = s.dev.barWord p j) ∧ OnlyRegs { s.dev with host := t.host } t [])))

/-- R31, R32, R33, R371, R380, Tables 1-11, 1-12: a BAR2 access that is no doorbell returns 0 where it reads, and is logged with bit
BAR2 and the offset where it writes; a bulk access of whole words at the data port acts at PCI_BULK_PTR, which advances by
its length; one through the aperture acts at PCI_BULK_BASE plus its offset in it. Below the aperture BAR4 shows the mailbox
channels, the MSI-X table, out of reset masked, and its pending bits; elsewhere it reads 0 and discards writes. A BAR2 access
that no host can form does not run: it ends with the fault illFormed. -/
def Obligations.BulkPathsActAtTheirAddress : Prop :=
  ∀ (s : State) (p : Fin 2) (off : BitVec 22) (at_ : BitVec 26) (width : BitVec 8) (x : BulkOp) (n vec : Nat) (bs : List Byte)
      (b : BarOp),
    let ptr := s.dev.rd64 (rPciBulkPtrLo p)
    let zeros (n : Nat) : Dev := { s.dev with resp := .data (List.replicate n 0) false }
    (WellFormed.bar2 off width (.write false) = true → s.dev.may (.host p) = true →
      Does (.bar2OtherWrite p off width (.write false)) s (s.dev.accessErr 2 (srcOf (.host p)) width.toNat off.toNat)) ∧
    (WellFormed.bar2 off width .read = true → s.dev.may (.host p) = true →
      Does (.bar2OtherWrite p off width .read) s (zeros width.toNat)) ∧
    (WellFormed.bar2 off width b = false → exec (.bar2OtherWrite p off width b) s = .fault .illFormed) ∧
    (s.dev.may (.host p) = true → bulkLen x % 4 = 0 →
      Does (.bulkDataPortAccess p x) s
        ((s.dev.bulk p ptr x).wr64 (rPciBulkPtrLo p) ((ptr + bulkLen x) % 2 ^ 64))) ∧
    (s.dev.may (.host p) = true → 0x2000000 ≤ at_.toNat →
      Does (.bulkApertureAccess p at_ x) s (s.dev.bulk p (s.dev.rd64 (rPciBulkBaseLo p) + (at_.toNat - 0x2000000)) x)) ∧
    (s.dev.may (.host p) = true → at_.toNat < 0x10000 →
      Does (.bulkApertureAccess p at_ x) s (s.dev.bulk p (0x3F0012000000 + at_.toNat) x)) ∧
    (s.dev.may (.host p) = true → 0x28100 ≤ at_.toNat → at_.toNat < 0x2000000 →
      Does (.bulkApertureAccess p at_ (.read n)) s (zeros n) ∧ Does (.bulkApertureAccess p at_ (.write bs false)) s s.dev) ∧
    (s.dev.may (.host p) = true → vec < 2048 → at_.toNat = 0x20000 + 16 * vec → s.dev.host.msix = [] →
      Does (.bulkApertureAccess p at_ (.read 16)) s { s.dev with
        resp := .data (List.replicate 12 0 ++ [1, 0, 0, 0]) false }) ∧
    (s.dev.may (.host p) = true → vec < 2048 → at_.toNat = 0x28000 + vec / 8 →
      Does (.bulkApertureAccess p at_ (.read 1)) s { s.dev with resp := .data [BitVec.ofNat 8 ((List.range 8).map (fun b =>
        if s.dev.host.pba.contains (p.val * 2048 + vec / 8 * 8 + b) then 2 ^ b else 0)).sum] false })

/-- R369, R371: an aligned 32-bit write to a plain register (one of the queue pages' ERR registers) clears the W1C bits written 1;
an aligned read answers the word and clears its RC fields; an unaligned access does nothing but answer ones, be logged as
UNALIGNED and be counted. R372: a long read answers the results of its words in order, and a long write performs them in order. R373, R379: a read of the low word of a counter pair answers it and keeps the high word in its
origin's latch, which the next read of the high word by that origin answers and clears; a write to TOP_SEED_LO is held and
takes effect with the write to TOP_SEED_HI. -/
def Obligations.RegistersFollowTheirCodesAndPairs : Prop :=
  (∀ (s : State) (o : Origin) (q : Fin 65536) (off : BitVec 32) (width : BitVec 8) (v : Word) (r : RegRow),
    (Reaches s.dev o (rQmgQErr q) →
      Does (.registerWrite o (BitVec.ofNat 32 (rQmgQErr q)) .b4 (.one (v.setWidth 64)) false) s
        (s.dev.wr (rQmgQErr q) (s.dev.rd (rQmgQErr q) &&& ~~~(v &&& 7)))) ∧
    (s.dev.may o = true → barReach o off.toNat = true → off.toNat % 4 = 0 → s.dev.regReach o false off.toNat = true →
      off.toNat < 0x12000000 → s.dev.failHides off.toNat = false → s.dev.pageHidden off.toNat = false →
      findRow off.toNat = some r → r.pair = .single → r.rc ≠ 0 →
      Does (.rcRead o off (.one .b4)) s { (s.dev.wr off.toNat (s.dev.peek off.toNat &&& ~~~(BitVec.ofNat 32 r.rc))) with
        resp := .data (leBytes 4 (s.dev.peek off.toNat).toNat) false }) ∧
    (∀ ws : List Word, s.dev.may o = true → barReach o off.toNat = true → off.toNat % 4 = 0 →
      Does (.registerWrite o off .b4 (.burst (ws.map some)) false) s
        (s.dev.each ws.zipIdx (fun d e => d.regWrite o (off.toNat + 4 * e.2) 4 e.1.toNat))) ∧
    (s.dev.may o = true → barReach o off.toNat = true → off.toNat % 4 = 0 → s.dev.regReach o false off.toNat = true →
      off.toNat < 0x12000000 → s.dev.failHides off.toNat = false → s.dev.pageHidden off.toNat = false →
      findRow off.toNat = some r → r.pair = .single → r.rc ≠ 0 →
      Does (.rcRead o off (.burst 1)) s { (s.dev.wr off.toNat (s.dev.peek off.toNat &&& ~~~(BitVec.ofNat 32 r.rc))) with
        resp := .data (leBytes 4 (s.dev.peek off.toNat).toNat) false }) ∧
    (WellFormed.unaligned off width = true → s.dev.may o = true → barReach o off.toNat = true → (∀ c, o ≠ .core c) →
      Does (.unalignedAccess o off width false) s { (s.dev.accessErr 1 (srcOf o) width.toNat (0x3F0000000000 + off.toNat)) with
        resp := .data (List.replicate width.toNat 0xFF) false }) ∧
    (WellFormed.unaligned off width = false → exec (.unalignedAccess o off width false) s = .fault .illFormed)) ∧
  (∀ (s : State) (o : Origin) (off : BitVec 32) (k : Nat) (p : Fin 8) (v : Word),
    let n := off.toNat
    (s.dev.may o = true → barReach o n = true → latchOf o = some k → n % 4 = 0 → n < 0x12000000 → s.dev.failHides n = false →
      s.dev.pageHidden n = false →
      (∀ r, findRow n = some r → r.pair = .counterLo → r.rc = 0 →
        Does (.pairLoRead o off) s { (s.dev.setLatch n k (some (s.dev.peek (n + 4)))) with
          resp := .data (leBytes 4 (s.dev.peek n).toNat) false }) ∧
      (∀ r w, findRow n = some r → r.pair = .counterHi → r.rc = 0 → s.dev.latchAt n k = some w →
        Does (.pairHiRead o off) s { (s.dev.setLatch n k none) with resp := .data (leBytes 4 w.toNat) false }) ∧
      (∀ r, findRow n = some r → r.pair = .counterHi → r.rc = 0 → s.dev.latchAt n k = none →
        Does (.pairHiRead o off) s { s.dev with resp := .data (leBytes 4 (s.dev.peek n).toNat) false })) ∧
    (Reaches s.dev o (rTopSeedLo p) →
      Does (.topSeedLoWrite o p v) s { s.dev with seedHeld := sset (fun _ => 0) s.dev.seedHeld p.val v }) ∧
    (Reaches s.dev o (rTopSeedHi p) →
      Does (.topSeedHiWrite o p v) s
        ((s.dev.wr (rTopSeedLo p) (sget (fun _ => 0) s.dev.seedHeld p.val)).wr (rTopSeedHi p) v)))

/-! ## Media (02) -/

/-- R41, R42, R43: a CODEC command ends ABORTED with cause 0x27 and does nothing else to its context: from another queue while one
of the context is in flight (VCD_ERR.XQUEUE), of a context that is not the partition's or not enabled, on a HALTED context
except INIT and CLOSE, and on a CLOSED one except INIT (VCD_ERR.DESC). A command whose turn has not come waits. -/
def Obligations.CodecCommandsAreTurnedAway : Prop :=
  ∀ (s : State) (c : CmdRef) (x : Inflight) (op : Nat) (i : Instr),
    (op, i) ∈ [(0, Instr.init c), (1, .decode c), (2, .encode c), (3, .flush c), (4, .close c)] → Dispatched s.dev c x 3 op →
    let k := x.opd 0 % 2048
    let own := s.dev.rd (ctxOwn k)
    let mine : Prop := bitOf 4 own = true ∧ fld 3 0 own = x.part
    let abort := s.dev.codecAbort x 0x27
    (s.dev.ctxForeign x = true → Does i s (abort.vcdErr k 4)) ∧
    (s.dev.ctxForeign x = false → s.dev.ctxTurn x = false → Does i s s.dev) ∧
    (s.dev.ctxForeign x = false → s.dev.ctxTurn x = true →
      (¬mine → Does i s abort) ∧
      (mine → s.dev.ctxState k = 3 → op ≠ 0 → op ≠ 4 → Does i s abort) ∧
      (mine → s.dev.ctxState k = 0 → op ≠ 0 → Does i s (abort.vcdErr k 0)))

/-- R41: INIT with a descriptor that keeps Table 2-3 puts the context in IDLE with an empty pool; with one that breaks it, it ends
ABORTED with VCD_ERR.DESC; DECODE appends its bitstream to what the context holds and makes it ACTIVE; ENCODE queues its
frames; FLUSH outputs every held frame; CLOSE puts the context in CLOSED and drops its frames; that DECODE on an
encoder and ENCODE on a decoder end ABORTED is the model's choice (log 74). -/
def Obligations.CodecCommandsRunOnTheirContext : Prop :=
  ∀ (s : State) (c : CmdRef) (x : Inflight) (v : CtxSt) (n : Nat),
    let k := x.opd 0 % 2048
    let own := s.dev.rd (ctxOwn k)
    let st := s.dev.ctxState k
    let bits := s.dev.fresh.2.readMem (x.acc (srcNo (18 + k / 1024) (Config.entropyEngine s.dev.fresh.1).val)) (x.opd 1) (x.opd 2)
    let desc := s.dev.readStruct (x.acc (ctxSrc (k / 1024))) 1 (x.opd 1) 64
    let ended (t : Dev) (r : Result) : Prop := ∀ y ∈ t.queue.infl, y.q = x.q → y.i = x.i → y.phase = .ended ∧ y.res = r
    s.dev.ctxForeign x = false → s.dev.ctxTurn x = true → bitOf 4 own = true → fld 3 0 own = x.part →
    (Dispatched s.dev c x 3 0 → ∀ l, desc.1 = some l → streamOk l = true →
      RunsOrWaits (.init c) s (fun t => t.ctx k = some (CtxSt.init (StreamDesc.ofBytes l)) ∧ t.ctxState k = 1 ∧ t.parsedOf k = 0 ∧
        ended t Result.fresh)) ∧
    (Dispatched s.dev c x 3 0 → (desc.1 = none ∨ ∃ l, desc.1 = some l ∧ streamOk l = false) →
      Does (.init c) s ((desc.2.codecAbort x 3).vcdErr k 0)) ∧
    (Dispatched s.dev c x 3 4 → Runs (.close c) s (fun t =>
      t.ctx k = none ∧ t.ctxState k = 0 ∧ t.parsedOf k = 0 ∧ ended t Result.fresh ∧ t.mem = s.dev.mem)) ∧
    ((st = 1 ∨ st = 2) → s.dev.ctx k = some v →
      (Dispatched s.dev c x 3 1 → v.desc.enc = true → Does (.decode c) s ((s.dev.codecAbort x 0x27).vcdErr k 0)) ∧
      (Dispatched s.dev c x 3 1 → v.desc.enc = false → s.dev.ctxCmd k = none → s.dev.parsedOf k = 0 →
        Config.frameLen v.desc.std ((v.input ++ bits.1.data).map (·.1)) = some n → 0 < n → n ≤ (v.input ++ bits.1.data).length →
        RunsOrWaits (.decode c) s (fun t => t.ctxState k = 2 ∧ t.mem = bits.2.mem ∧ ∃ z, t.ctx k = some z ∧
          z.input = v.input ++ bits.1.data ∧ z.desc = v.desc ∧ z.hist = v.hist ∧ z.pool = v.pool ∧ z.held = v.held ∧ z.taken = 0)) ∧
      (Dispatched s.dev c x 3 2 → v.desc.enc = false → Does (.encode c) s ((s.dev.codecAbort x 0x27).vcdErr k 0)) ∧
      (Dispatched s.dev c x 3 2 → v.desc.enc = true → x.opd 0 / 2 ^ 32 = n → 0 < n → s.dev.parsedOf k = 0 →
        RunsOrWaits (.encode c) s (fun t => t.parsedOf k = n ∧ t.ctxState k = 2 ∧ ∃ z, t.ctx k = some z ∧ z.src = v.src ∧ z.written = 0)) ∧
      (Dispatched s.dev c x 3 3 → (v.held.map (·.no)).Nodup →
        Runs (.flush c) s (fun t => ∃ z, t.ctx k = some z ∧ z.held = [] ∧ z.done = v.held.length ∧ z.pool = v.pool ∧
          z.hist = v.hist ∧ z.input = v.input ∧ ∀ y ∈ t.queue.infl, y.q = x.q → y.i = x.i → y.phase = .ended)))

/-- R44, R45, R49, R307: an entropy engine parses a frame only while 6 MiB of the syntax buffer is free and the context holds
fewer than four parsed frames; a pixel engine's frame end frees its chunks and leaves the frame decoded or coded in its
context; a write of VCD_KEYREQ asks for a key picture of a context of its die; a frame outside Table 2-2 halts its context; a media die fault halts the die's 1,024
contexts and no others. -/
def Obligations.FramesAreParsedAndReconstructed : Prop :=
  ∀ (s : State) (m : Fin 2) (e : Fin 4) (l : Fin 1024) (x : Inflight) (v : CtxSt) (n : Nat) (j : MediaJob) (o : Origin) (w : Word),
    let k := 1024 * m.val + l.val
    let limit := x.opd 4 % 2 ^ 32
    let inf := Config.decodeInfo v.desc.std (v.hist ++ [j.bytes])
    let src := v.src ++ [(j.bytes.map (·.1), j.key)]
    let code := Config.encodeBits v.desc.std src
    (s.dev.ctxCmd k = some x → x.op = 1 → s.dev.ctx k = some v → s.dev.chunksUsed m + 96 ≤ 512 → s.dev.parsedOf k < 4 →
      (limit = 0 ∨ v.taken < limit) → Config.frameLen v.desc.std (v.input.map (·.1)) = some n → 0 < n → n ≤ v.input.length →
      Runs (.entropyParseFrame m e l) s (fun t => t.parsedOf k = s.dev.parsedOf k + 1 ∧
        t.rd (rVcdSynbufUse m) = BitVec.ofNat 32 (t.chunksUsed m) ∧ ∃ z, t.ctx k = some z ∧ z.input = v.input.drop n ∧
        z.offset = v.offset + n ∧ z.taken = v.taken + 1 ∧ z.hist = v.hist)) ∧
    (512 < s.dev.chunksUsed m + 96 → Runs (.entropyParseFrame m e l) s (fun t => t.media.wait = s.dev.media.wait ∧
      t.media.pix = s.dev.media.pix)) ∧
    (s.dev.pixJob (4 * m + e) = some j → j.ctx / 1024 = m → s.dev.ctxCmd j.ctx = some x → s.dev.ctx j.ctx = some v →
      (v.desc.enc = false → frameUnsupported v.desc inf = false → v.freeBuf.isSome = true →
        RunsOrWaits (.pixelFrameEnd m e) s (fun t => t.chunksUsed m + j.chunks = s.dev.chunksUsed m ∧
          ∃ z, t.ctx j.ctx = some z ∧ z.hist = v.hist ++ [j.bytes] ∧ z.pool.length = v.pool.length)) ∧
      (v.desc.enc = false → frameUnsupported v.desc inf = true →
        RunsOrWaits (.pixelFrameEnd m e) s (fun t => t.ctxState j.ctx = 3 ∧
          ∀ y ∈ t.queue.infl, y.q = x.q → y.i = x.i → y.phase = .ended)) ∧
      (v.desc.enc = true → v.written + code.length ≤ x.opd 2 →
        RunsOrWaits (.pixelFrameEnd m e) s (fun t => t.chunksUsed m + j.chunks = s.dev.chunksUsed m ∧
          ∃ z, t.ctx j.ctx = some z ∧ z.src = src ∧ z.written = v.written + code.length ∧ z.done = v.done + 1))) ∧
    (Reaches s.dev o (rVcdKeyreq m) → fld 10 0 w / 1024 = m → (s.dev.ctx (fld 10 0 w)).isSome = true →
      Does (.vcdKeyreq o m w) s
        { s.dev with media := { s.dev.media with keyReq := insNat (fld 10 0 w) s.dev.media.keyReq } }) ∧
    Runs (.mediaDieFault m) s (fun t => (∀ i < 1024, t.ctxState (1024 * m + i) = 3 ∧ t.parsedOf (1024 * m + i) = 0) ∧
      ∀ i < 1024, t.ctxState (1024 * (1 - m) + i) = s.dev.ctxState (1024 * (1 - m) + i) ∧
        t.ctx (1024 * (1 - m) + i) = s.dev.ctx (1024 * (1 - m) + i))

/-- R56, R59, R61, R62, R63: a WARP or SCAN whose descriptor breaks its rules writes nothing, ends ABORTED with cause 3 and sets
INP_ERR.DESC. A good WARP with no cache operation, none of whose bytes are poisoned or refused, writes the pixels computed
from its taps into the rows of its output, counts them and ends DONE; such a SCAN writes its voxel table, its occupancy list, the
kept points where it asks for them, and its record with the counts of the scan, counts its return words and ends DONE. One
that read poison or was refused an access ends POISONED. -/
def Obligations.WarpAndScanWriteTheirOutput : Prop :=
  ∀ (s : State) (c : CmdRef) (x : Inflight) (t : WarpDesc) (par : List Byte) (p : ScanPar),
    let k := s.dev.pickUnit true
    let g := s.dev.pickUnit false
    let wacc := x.acc k.1.2
    let sacc := x.acc g.1.2
    let wd := k.2.warpDesc wacc (x.opd 0)
    let sd := g.2.scanDesc sacc (x.opd 0)
    let mesh : Rd × Dev := if t.geom = 2 then wd.2.readMem wacc t.mesh (leAt par 0x54 2 * leAt par 0x56 2 * 8)
      else (⟨[], none, false, false⟩, wd.2)
    let taps := ((List.range t.dh).flatMap (fun v => (List.range t.dw).map (fun u => (warpCoord t par mesh.1.data u v).1))).flatMap
      (fun e => t.tapBytes e.1 e.2)
    let rd := mesh.2.readBytes wacc 4096 taps
    let out := t.outBytes par mesh.1.data rd.1.1
    let w := rd.2.writeParts wacc t.rows out
    let tb := sd.2.readMem sacc (p.frame + leAt p.head 0x20 4) (8 * p.beams)
    let ws := tb.2.readMem sacc (p.frame + leAt p.head 0x24 4) (4 * p.count)
    let v := (bytesToWords p.count ws.1.bytes).zipIdx.foldl (fun (v : ScanSt) e => v.ret p tb.1.bytes e.2 e.1.toNat)
      ⟨[], [], [], 0, 0, 0, 0⟩
    let f := ws.2.fresh
    let w1 := f.2.writeMem sacc p.table
      (clean ((List.range p.size).flatMap (fun k => voxelBytes f.1 k (sget (fun _ => none) v.vox k))))
    let w2 := w1.2.writeMem sacc p.list (clean (v.occ.flatMap (leBytes 4)))
    let w3 : Option Nat × Dev := if p.points = 0 then (none, w2.2) else w2.2.writeMem sacc p.points (clean v.pts)
    let w4 := w3.2.writeMem sacc p.record (clean (leBytes 4 p.count ++ leBytes 4 v.kept ++ leBytes 4 v.dropR ++ leBytes 4 v.dropG
      ++ leBytes 4 v.dropO ++ leBytes 4 v.occ.length ++ List.replicate 40 0))
    let poisoned (u : Dev) : Prop := ∀ y ∈ u.queue.infl, y.q = x.q → y.i = x.i → y.phase = .ended ∧ y.res.status = .poisoned
    (Dispatched s.dev c x 4 0 → x.cacheOp = 0 →
      (wd.1 = none → Does (.warp c) s ((wd.2.inpErr k.1.1 0 k.1.2 (x.opd 0)).finish x (aborted 3 k.1.2))) ∧
      (wd.1 = some (t, par) → mesh.1.bad = none → taps.all (fun a => !(rd.1.1.at a).2) = true → out.any (·.2) = false →
        w.1 = none → Does (.warp c) s ((w.2.add64 (rInpWarpPixelsLo k.1.1) (t.dw * t.dh)).finish x Result.fresh)) ∧
      (wd.1 = some (t, par) → (mesh.1.bad.isSome = true ∨ out.any (·.2) = true ∨ w.1.isSome = true) →
        RunsOrWaits (.warp c) s poisoned)) ∧
    (Dispatched s.dev c x 5 0 → x.cacheOp = 0 →
      (sd.1 = none → Does (.scan c) s ((sd.2.inpErr g.1.1 0 g.1.2 (x.opd 0)).finish x (aborted 3 g.1.2))) ∧
      (sd.1 = some p → tb.1.bad = none → ws.1.bad = none → w1.1 = none → w2.1 = none → w3.1 = none → w4.1 = none →
        Does (.scan c) s ((w4.2.add64 (rInpScanReturnsLo g.1.1) p.count).finish x Result.fresh)) ∧
      (sd.1 = some p → (tb.1.bad.isSome = true ∨ ws.1.bad.isSome = true) → RunsOrWaits (.scan c) s poisoned))

/-- R65, R66: with the cache on and its slot as R208 needs it, a STORE that fits makes a valid entry of its key; with the cache
off a STORE does nothing; a LOAD of an absent key counts a miss and ends NOT_STARTED, one of a valid key counts a hit and
writes the entry's bytes; EN is set for a ring and index that keep R64, a clear waits for operations in flight, and its end
leaves no entry. -/
def Obligations.SampleCacheStoresLoadsAndCloses : Prop :=
  ∀ (s : State) (c : CmdRef) (x : Inflight) (p : Fin 8) (bf : Bool) (out : List Byte)
      (parts : List (Nat × Nat)) (en : CacheEntry) (o : Origin) (v : Word),
    let mine (e : Nat × Word × Bool × List Byte) : Bool := e.1 = x.q && e.2.1 = x.i
    let d := { s.dev with media := { s.dev.media with stores := s.dev.media.stores.filter (fun e => !mine e) } }
    let ok := d.cacheSlotOk x.part
    let n := if bf then out.length / 2 else out.length
    let t := cacheDesc (ok.2.rdFld (rInpCacheCtl x.part) 8 6) 0 bf n
    let pos := ok.2.rd64 (rInpCacheBaseLo x.part) + sget (fun _ => 0) ok.2.media.ringPos x.part
    let found := s.dev.media.cache.find? (fun e => e.part = x.part && e.key = x.opd 2)
    let total := match found with
      | some e => if e.bf16 then 2 * e.count else e.count
      | none => 0
    let k := s.dev.pickUnit (x.cls = 4)
    let notStarted : Result := { Result.fresh with status := .notStarted }
    let r := rInpCacheCtl p
    (s.dev.cmd? c = some x → (x.cls = 4 ∨ x.cls = 5) → x.phase = .working → x.cacheOp = 1 →
      s.dev.media.stores.find? mine = some (x.q, x.i, bf, out) →
      (s.dev.cacheOn x.part = false → Does (.cacheStore c) s (d.finish x x.res)) ∧
      (s.dev.cacheOn x.part = true → ok.1 = false →
        Does (.cacheStore c) s (ok.2.finish x (aborted 0x27 (trwSrc (d.trwHubEngine x.part))))) ∧
      (s.dev.cacheOn x.part = true → ok.1 = true →
        t.hdrBytes + t.lossyArea + (ok.2.cacheEncode x pos bf (clean out)).1 ≤ ok.2.ringBytes x.part →
        RunsOrWaits (.cacheStore c) s (fun u => (∃ e ∈ u.media.cache, e.part = x.part ∧ e.key = x.opd 2 ∧ e.bf16 = bf ∧ e.count = n ∧
            e.set = d.cacheSet x.part (x.opd 2)) ∧
          ∀ y ∈ u.queue.infl, y.q = x.q → y.i = x.i → y.phase = .ended))) ∧
    (s.dev.cmd? c = some x → (x.cls = 4 ∨ x.cls = 5) → x.phase = .dispatched → x.cacheOp = 2 →
      (k.2.outParts x (trwSrc (s.dev.trwHubEngine x.part)) total).1 = some parts →
      (s.dev.cacheOn x.part = false → RunsOrWaits (.cacheLoad c) s (fun u => u.media.cache = s.dev.media.cache ∧
        ∀ y ∈ u.queue.infl, y.q = x.q → y.i = x.i → y.phase = .ended ∧ y.res = notStarted)) ∧
      (s.dev.cacheOn x.part = true → x.part < 8 → found = none → RunsOrWaits (.cacheLoad c) s (fun u =>
        u.rd (rInpCacheMisses x.part) = satAdd32 (s.dev.rd (rInpCacheMisses x.part)) 1 ∧
        ∀ y ∈ u.queue.infl, y.q = x.q → y.i = x.i → y.phase = .ended ∧ y.res = notStarted)) ∧
      (s.dev.cacheOn x.part = true → x.part < 8 → found = some en → RunsOrWaits (.cacheLoad c) s (fun u =>
        u.rd (rInpCacheHits x.part) = satAdd32 (s.dev.rd (rInpCacheHits x.part)) 1 ∧ u.media.cache = s.dev.media.cache ∧
        ∀ y ∈ u.queue.infl, y.q = x.q → y.i = x.i → y.phase = .ended ∧ (y.res.status = .done ∨ y.res.status = .poisoned)))) ∧
    (Reaches s.dev o r → bitOf 0 (s.dev.rd r) = false → s.dev.cacheCfgOk p (fld 5 1 v) = true →
      s.dev.media.cacheClosing.contains p.val = false →
      Does (.inpCacheEnable o p v) s (((s.dev.wrFld r 8 6 (fld 8 6 v)).wrFld r 5 1 (fld 5 1 v)).wrFld r 0 0 1)) ∧
    (Reaches s.dev o r → bitOf 0 (s.dev.rd r) = true →
      Does (.inpCacheDisable o p v) s { ((s.dev.wrFld r 8 6 (fld 8 6 v)).wrFld r 0 0 0) with
        media := { s.dev.media with cacheClosing := insNat p s.dev.media.cacheClosing } }) ∧
    (s.dev.media.cacheClosing.contains p.val = true →
      s.dev.queue.infl.all (fun y => !(y.part = p && (y.cls = 4 || y.cls = 5) && y.cacheOp = 1 && y.phase = .working)) = true →
      RunsOrWaits (.inpCacheInvalidate p) s (fun u => (∀ e ∈ u.media.cache, e.part ≠ p) ∧
        u.media.cacheClosing.contains p.val = false ∧ sget (fun _ => 0) u.media.ringPos p = 0))

/-! ## Cores (04) -/

/-- R89: an issuing core's aligned scalar load whose granule no instruction of the scoreboard writes sets `rd` to the bytes read,
widened, and advances; one that meets poison raises SCALAR_POISON, a misaligned one SCALAR, and one that conflicts stalls. A
store writes its bytes. An atomic acts on the core's own Pocket and on Gallery alone, elsewhere it raises SCALAR; a
store-conditional writes only under its reservation. -/
def Obligations.ScalarAccessesReadAndWrite : Prop :=
  ∀ (s : State) (c : Fin 1536) (rd : Fin 32) (a v : DWord) (z : MemSize) (sg dbl : Bool) (op : AmoOp),
    let n := z.bytes
    let m := if dbl then 8 else 4
    let r := s.dev.scalarRead c a.toNat n
    let g := s.dev.readMem (s.dev.accOf (.core c)) a.toNat m
    let old := ofLe g.1.bytes
    let w := v.toNat % 2 ^ (8 * m)
    let put (d : Dev) (x : DWord) : Dev := (d.updCore c (fun k => k.wx rd x)).advance c 4
    let exc := s.dev.scalarExc c 0x10
    let own : Prop := pocketAddr c 0 ≤ a.toNat ∧ a.toNat < pocketAddr c 0x180000
    let free := s.dev.updCore c (fun k => { k with resv := none })
    s.dev.issuing c = true →
    (a.toNat % n ≠ 0 → Does (.scalarLoad c rd a z sg) s exc ∧ Does (.scalarStore c a z v) s exc) ∧
    (a.toNat % n = 0 → s.dev.scalarStalls c a.toNat false = true → Does (.scalarLoad c rd a z sg) s s.dev) ∧
    (a.toNat % n = 0 → s.dev.scalarStalls c a.toNat true = true → Does (.scalarStore c a z v) s s.dev) ∧
    (a.toNat % n = 0 → s.dev.scalarStalls c a.toNat false = false →
      (r.1.any (·.2) = false → Does (.scalarLoad c rd a z sg) s (put r.2 (widen n (ofLe (r.1.map (·.1))) sg))) ∧
      (r.1.any (·.2) = true → Does (.scalarLoad c rd a z sg) s (r.2.scalarPoison c a.toNat))) ∧
    (a.toNat % n = 0 → s.dev.scalarStalls c a.toNat true = false → inRegs a.toNat = false →
      Does (.scalarStore c a z v) s ((s.dev.scalarWrite c a.toNat (leBytes n v.toNat)).advance c 4)) ∧
    ((a.toNat % m ≠ 0 ∨ (¬own ∧ isGallery a.toNat = false)) → Does (.atomic c op rd a dbl v) s exc) ∧
    (a.toNat % m = 0 → (own ∨ isGallery a.toNat = true) → s.dev.scalarStalls c a.toNat true = false →
      ((s.dev.core c).resv = some a.toNat →
        Does (.atomic c .sc rd a dbl v) s (put (free.scalarWrite c a.toNat (leBytes m w)) 0)) ∧
      ((s.dev.core c).resv ≠ some a.toNat → Does (.atomic c .sc rd a dbl v) s (put free 1)) ∧
      (g.1.bad = none →
        Does (.atomic c .lr rd a dbl v) s (put (g.2.updCore c (fun k => { k with resv := some a.toNat })) (widen m old true)) ∧
        (op ≠ .lr → op ≠ .sc → Does (.atomic c op rd a dbl v) s
          (put (g.2.scalarWrite c a.toNat (leBytes m (amo op (8 * m) old w))) (widen m old true)))) ∧
      (g.1.bad.isSome = true → op ≠ .sc → Does (.atomic c op rd a dbl v) s (g.2.scalarPoison c a.toNat)))

/-- R89: INSTRUCTION_FETCH reads one parcel or two at the pc; a poisoned or refused one raises SCALAR_POISON, one outside the
mapped memories SCALAR, and a clean instruction is executed. R95, R96: a word to which Table 4-3 gives an instruction of a
pipe issues it, TDLD, TDBASE, TDSIZE and TSYNC act as their fields say, and an encoding that the table does not list, or a
field that must be 0 and is not, raises ILLEGAL. R90: a CSR instruction reads the CSR; a write of a read-only one raises
SCALAR. The base instructions do what the RISC-V manual says (the model's choice of source, log 14): these clauses state LUI,
JAL, ADDI, ADD, SUB, MUL, DIV by 0, BEQ, LD and SD, and that a word of no instruction raises SCALAR. -/
def Obligations.FetchedInstructionsAreExecuted : Prop :=
  ∀ (s : State) (c : Fin 1536) (d : Dev) (w len : Nat),
    let s0 := s.dev.core c
    let lo := s.dev.fetchParcel c s0.pc
    let hi := lo.2.fetchParcel c (s0.pc + 2)
    let k := d.core c
    let does (t : Dev) : Prop := Does (.instructionFetch c) s t
    let rd := nfld 11 7 w
    let r1 := nfld 19 15 w
    let r2 := nfld 24 20 w
    let f3 := nfld 14 12 w
    let f7 := nfld 31 25 w
    let a := k.rx r1
    let b := k.rx r2
    let pc := BitVec.ofNat 64 k.pc
    let put (v : DWord) : Dev := (d.updCore c (fun k => k.wx rd v)).advance c len
    let ill (n : Nat) : Dev := d.raiseExc c 1 0 n true k.pc
    s.dev.issuing c = true →
    (lo.1.1 = 0x11 → does (lo.2.scalarPoison c s0.pc)) ∧ (lo.1.1 = 0x10 → does (lo.2.scalarExc c 0x10)) ∧
    (lo.1.1 = 0 → lo.1.2 % 4 = 3 → (hi.1.1 = 0x11 → does (hi.2.scalarPoison c s0.pc)) ∧
      (hi.1.1 = 0x10 → does (hi.2.scalarExc c 0x10))) ∧
    (lo.1.1 = 0 → lo.1.2 % 4 ≠ 3 → rvcExpand lo.1.2 = none → does (lo.2.scalarExc c 0x10)) ∧
    ((lo.1.1 = 0 ∧ lo.1.2 % 4 = 3 ∧ hi.1.1 = 0 ∧ w = lo.1.2 + hi.1.2 * 65536 ∧ len = 4 ∧ d = hi.2) ∨
      (lo.1.1 = 0 ∧ lo.1.2 % 4 ≠ 3 ∧ rvcExpand lo.1.2 = some w ∧ len = 2 ∧ d = lo.2) →
    (w % 128 = 0x37 → does (put (rvImmU w))) ∧
    (w % 128 = 0x6F → does ((d.updCore c (fun k => k.wx rd (pc + BitVec.ofNat 64 len))).jumpTo c (pc + rvImmJ w))) ∧
    (w % 128 = 0x13 → f3 = 0 → does (put (a + rvImmI w))) ∧
    (w % 128 = 0x33 → f3 = 0 → (f7 = 0 → does (put (a + b))) ∧ (f7 = 0x20 → does (put (a - b))) ∧ (f7 = 1 → does (put (a * b)))) ∧
    (w % 128 = 0x33 → f3 = 4 → f7 = 1 → b = 0 → does (put (BitVec.allOnes 64))) ∧
    (w % 128 = 0x63 → f3 = 0 → (a = b → does (d.jumpTo c (pc + rvImmB w))) ∧ (a ≠ b → does (d.advance c len))) ∧
    (w % 128 = 0x03 → f3 = 3 → does (d.scalarLoad c rd (a + rvImmI w).toNat 8 true len)) ∧
    (w % 128 = 0x23 → f3 = 3 → does (d.scalarStore c (a + rvImmS w).toNat 8 b.toNat len)) ∧
    (w % 128 ∉ [0x03, 0x0B, 0x0F, 0x13, 0x17, 0x1B, 0x23, 0x2B, 0x2F, 0x33, 0x37, 0x3B, 0x5B, 0x63, 0x67, 0x6F, 0x73, 0x7B] →
      does (d.scalarExc c 0x10)) ∧
    (len = 4 → w % 128 = 0x73 → f3 = 2 → r1 = 0 → ∀ v, d.csrRead c (nfld 31 20 w) = some v → does (put v)) ∧
    (len = 4 → w % 128 = 0x73 → f3 = 1 → 0xCC0 ≤ nfld 31 20 w → nfld 31 20 w ≤ 0xCC3 → does (d.scalarExc c 0x10)) ∧
    (∀ op, tensorOp (w % 128) f3 = some op → does (d.issue c op (rType w))) ∧
    (w % 128 ∈ [0x2B, 0x5B, 0x7B] → tensorOp (w % 128) f3 = none → does (ill 0)) ∧
    (w % 128 = 0x0B → (4 ≤ f3 → does (ill 0)) ∧
      (f3 = 2 → r2 = 0 → f7 = 0 → does (d.doTdld c rd a.toNat)) ∧ (f3 = 2 → r2 = 0 → f7 = 8 → does (d.doTdbase c rd a.toNat)) ∧
      (f3 = 2 → r2 = 0 → f7 / 8 = 2 → does (d.doTdsize c rd (f7 % 8) a.toNat)) ∧
      (f3 = 2 → (r2 ≠ 0 ∨ 24 ≤ f7) → does (ill rd)) ∧
      (f3 = 3 → r2 = 0 → f7 = 0 → r1 < 8 → does (d.tsync c (.pipes r1))) ∧ (f3 = 3 → r2 = 0 → f7 = 1 → r1 = 0 → does (d.tsync c .mem)) ∧
      (f3 = 3 → r2 = 0 → f7 = 2 → r1 = 0 → does (d.tsyncTile c rd)) ∧ (f3 = 3 → r2 = 0 → f7 = 3 → r1 = 0 → does (d.tsync c .ending)) ∧
      (f3 = 3 → (r2 ≠ 0 ∨ 3 < f7) → does (ill 0))))

/-- R88, R89, R90: ECALL raises SCALAR, precise, at its pc, and stops its launch's handing of tiles, and so does EBREAK while the
access lock is closed (open, the core halts into debug); FENCE.I drops the instruction cache; a CSR write sets TARG, TFLAGS or
TRTILE, and of any other CSR raises SCALAR. R87, R114, R240: an idle core with no KERNEL before it that it would join first starts the
one launch that names it at its entry with x10, x11 and x12 set, every other register, the TARGs, flags and descriptors clear, and TSEQ and TEPOCH of the command; a stopped
core whose instructions have completed records its exception in CORE_EXC, unless one is recorded there, and ends its part. -/
def Obligations.CoresRunSystemInstructionsLaunchesAndExceptions : Prop :=
  (∀ (s : State) (c : Fin 1536) (csr : BitVec 12) (v : DWord),
    let k := s.dev.core c
    let stopped (t : Dev) : Prop := (t.core c).wait = .stopped ⟨0x10, 0, 0, true, k.pc, s.dev.now⟩ ∧ (t.core c).pc = k.pc ∧
      (t.core c).x = k.x ∧ (t.core c).ents = k.ents ∧ t.mem = s.dev.mem ∧
      ∀ n, k.launch = some n → ∀ l, s.dev.launch? n = some l → ∃ l', t.launch? n = some l' ∧ l'.stop = true
    let put (f : CoreSt → CoreSt) : Dev := (s.dev.updCore c f).advance c 4
    s.dev.issuing c = true →
    Runs (.ecall c) s stopped ∧
    (s.dev.debugOpen = false → Runs (.ebreak c) s stopped) ∧
    (s.dev.debugOpen = true → Does (.ebreak c) s (s.dev.updCore c (fun k => { k with wait := .debug }))) ∧
    Does (.fenceI c) s (put (fun k => { k with icache := [] })) ∧
    (0x800 ≤ csr.toNat → csr.toNat ≤ 0x803 → Does (.csrWrite c csr v) s
      (put (fun k => { k with targ := sset (fun _ => 0) k.targ (csr.toNat - 0x800) v }))) ∧
    (csr = 0x804 → Does (.csrWrite c csr v) s (put (fun k => { k with tflags := v.setWidth 32 &&& 0x1F }))) ∧
    (csr = 0x805 → Does (.csrWrite c csr v) s (put (fun k => { k with trtile := v }))) ∧
    ((csr.toNat < 0x800 ∨ 0x805 < csr.toNat) → Runs (.csrWrite c csr v) s stopped)) ∧
  (∀ (s : State) (c : Fin 1536) (k : Nat) (l : LaunchSt) (x : Inflight) (e : Exc),
    (s.dev.coreState c = 1 → (s.dev.core c).launch = none →
      s.dev.launches.filter (fun m => !m.2.early && m.2.cores.contains c.val && !m.2.started.contains c.val) = [(k, l)] →
      s.dev.launch? k = some l → s.dev.queue.infl.find? (fun y => y.q = l.q && y.i = l.i) = some x →
      s.dev.joinsFirst c x.ord = false → Runs (.coreLaunchStart c) s (fun t =>
        let n := t.core c
        t.coreState c = 2 ∧ n.launch = some k ∧ n.pc = l.entry ∧ n.rx 10 = BitVec.ofNat 64 l.arg ∧ n.rx 11 = BitVec.ofNat 64 c ∧
        n.rx 12 = BitVec.ofNat 64 l.cores.length ∧ (∀ r, r ≠ 10 → r ≠ 11 → r ≠ 12 → n.rx r = 0) ∧ n.targ = [] ∧ n.td = [] ∧
        n.tflags = 0 ∧ n.tseq = BitVec.ofNat 32 x.seq ∧ n.tepoch = x.epoch ∧ n.ents = [] ∧ n.held = [] ∧
        ∃ l', t.launch? k = some l' ∧ c.val ∈ l'.started)) ∧
    ((s.dev.core c).wait = .stopped e → (s.dev.core c).ents = [] → (s.dev.core c).launch = some k →
      Runs (.coreExceptionEnd c) s (fun t =>
        (bitOf 31 (s.dev.rd (rCoreExc c)) = false → t.rd64 (rCoreExcPcLo c) = e.pc % 2 ^ 64 ∧
          t.rd (rCoreExc c) = BitVec.ofNat 32 (e.cause + 2 ^ 8 * e.pipe + 2 ^ 10 * e.dreg + (if e.precise then 2 ^ 15 else 0) + 2 ^ 31)) ∧
        (bitOf 31 (s.dev.rd (rCoreExc c)) = true → t.rd (rCoreExc c) = s.dev.rd (rCoreExc c) ∧
          t.rd64 (rCoreExcPcLo c) = s.dev.rd64 (rCoreExcPcLo c)) ∧
        t.rd (rCoreFlags c) = s.dev.rd (rCoreFlags c) ||| (s.dev.core c).tflags ∧
        (t.core c).launch = none ∧ (t.core c).wait = .run ∧ t.coreState c = (if s.dev.coreState c = 2 then 1 else s.dev.coreState c))))

/-- R91, R92, R97, R113: each of the twelve tensor instructions, on an issuing core, raises ILLEGAL, DESC_EMPTY or the lowest of
its other causes before any effect; otherwise it enters its pipe's queue with copies of its descriptors and TARGs and the core
goes on, and while that queue or the scoreboard is full the core waits, unchanged. R91: TDLD loads the descriptor at an
aligned address outside register space that passes its checks, TDBASE and TDSIZE change one field of a register's descriptor
and check it again; the register holds the result and the core goes on. A failed check raises DESC_INVALID, an empty register
DESC_EMPTY, and a dimension above 5 ILLEGAL, with the register as it was. -/
def Obligations.TensorInstructionsIssueSetOrRaise : Prop :=
  (∀ (s : State) (c : Fin 1536) (f : RType) (op : TOp) (i : Instr) (n : Nat) (x : Nat × Nat) (d : Dev),
    (op, i) ∈ [(TOp.load, Instr.tload c f), (.store, .tstore c f), (.mma, .tmma c f), (.conv, .tconv c f), (.vec, .tvec c f),
      (.red, .tred c f), (.soft, .tsoft c f), (.seg, .tseg c f), (.sort, .tsort c f), (.gather, .tgather c f),
      (.scatter, .tscatter c f), (.scatterAdd, .tscatteradd c f)] →
    s.dev.issuing c = true →
    let k := s.dev.core c
    let targ (m : Nat) : DWord := sget (fun _ => 0) k.targ m
    let r := opRegs op f
    let os := r.map (fun m => (k.td.find? (·.1 = m)).map (·.2))
    let ds := os.filterMap id
    let iv (l : List Nat) : List (Nat × Nat) := l.filterMap (fun m => (ds[m]?).bind (pocketIv c k.tepoch))
    let e : TEntry := { id := k.nextId, op := op, f := f, ops := ds, targ := [targ 0, targ 1, targ 2, targ 3], tile := k.trtile,
                        pc := k.pc, reads := iv (opSrcs op f), writes := iv (opDests op), started := false }
    let cs := opCauses op f r ds ++ regionCauses op c r ds ++ overlapCauses op f k.tepoch r ds
    let bad := opIllegal op f (targ 0).toNat (targ 1).toNat
    (bad = true → Does i s (s.dev.raiseExc c 1 (op.pipe + 1) 0 true k.pc)) ∧
    (bad = false → (r.zip os).find? (fun m => m.2.isNone) = some (n, none) →
      Does i s (s.dev.raiseExc c 2 (op.pipe + 1) n true k.pc)) ∧
    (bad = false → os.all (·.isSome) = true → lowestCause cs = some x →
      Does i s (s.dev.raiseExc c x.1 (op.pipe + 1) x.2 true k.pc)) ∧
    (bad = false → os.all (·.isSome) = true → cs = [] → s.dev.classCauses c e r = ([], d) →
      (k.room op.pipe = true → Does i s
        ((d.updCore c (fun k => { k with ents := k.ents ++ [e], nextId := k.nextId + 1 })).advance c 4)) ∧
      (k.room op.pipe = false → Does i s s.dev)) ∧
    (bad = false → os.all (·.isSome) = true → cs = [] → s.dev.classCauses c e r = ([x], d) →
      Does i s (d.raiseExc c x.1 (op.pipe + 1) x.2 true k.pc))) ∧
  (∀ (s : State) (c : Fin 1536) (td : Fin 32) (a v : DWord) (k : Fin 8) (t u : Desc),
    let acc := (s.dev.ctxOf c 0).acc
    let pc := (s.dev.core c).pc
    let r := s.dev.readMem acc a.toNat 64
    let x := r.2.checkDesc acc r.1.bytes
    let held := ((s.dev.core c).td.find? (·.1 = td.val)).map (·.2)
    let b := s.dev.withMask acc { t with base := v.toNat % 2 ^ 48 }
    let z := s.dev.withMask acc { t with size := t.size.set k v.toNat }
    let put (d : Dev) (t : Desc) : Dev := (d.updCore c (fun m => { m with td := sput td.val (some t) m.td })).advance c 4
    let invalid (d : Dev) : Dev := d.raiseExc c 3 0 td true (d.core c).pc
    s.dev.issuing c = true →
    (s.dev.scalarStalls c a.toNat false = false → a.toNat % 64 = 0 → regOff a.toNat = none → r.1.bad = none →
      (x.1 = some u → Does (.tdld c td a) s (put x.2 u)) ∧ (x.1 = none → Does (.tdld c td a) s (invalid x.2))) ∧
    (s.dev.scalarStalls c a.toNat false = false → (a.toNat % 64 ≠ 0 ∨ (regOff a.toNat).isSome = true) →
      Does (.tdld c td a) s (invalid s.dev)) ∧
    (held = some t →
      (b.1.check = true → Does (.tdbase c td v) s (put b.2 b.1)) ∧ (b.1.check = false → Does (.tdbase c td v) s (invalid b.2)) ∧
      (k.val < 6 → z.1.check = true → Does (.tdsize c td k v) s (put z.2 z.1)) ∧
      (k.val < 6 → z.1.check = false → Does (.tdsize c td k v) s (invalid z.2))) ∧
    (held = none → Does (.tdbase c td v) s (s.dev.raiseExc c 2 0 td true pc) ∧
      (k.val < 6 → Does (.tdsize c td k v) s (s.dev.raiseExc c 2 0 td true pc))) ∧
    (6 ≤ k.val → Does (.tdsize c td k v) s (s.dev.raiseExc c 1 0 td true pc)))

/-- R93, R110, R112: the first unstarted entry of a pipe, once nothing earlier on the scoreboard conflicts with it, starts (a KV
fill by its own command); a started one whose work is performed completes, leaves the scoreboard and is counted. TSYNC.PIPE
and MEM go on at once when the instructions that they wait for have completed, MEM with an empty data cache, and wait
otherwise; TSYNC.END then ends the core's part. -/
def Obligations.PipesStartCompleteAndSynchronise : Prop :=
  ∀ (s : State) (c : Fin 1536) (p : Pipe) (e : TEntry) (m : BitVec 3),
    let k := s.dev.core c
    let go (d : Dev) : Dev := (d.updCore c (fun n => { n with
      ents := mapIf (fun y => y.id = e.id) (fun y => { y with started := true }) n.ents })).runEntry c e
    let gone := s.dev.updCore c (fun n => { n with ents := n.ents.filter (fun y => y.id ≠ e.id) })
    let waits (w : CoreWait) : Dev := s.dev.updCore c (fun n => { n with wait := w })
    let on (w : CoreWait) (f : CoreSt → CoreSt) : Dev := (waits w).updCore c (fun n => { (f n) with wait := .run, pc := (n.pc + 4) % 2 ^ 64 })
    let clear : Prop := ∀ y ∈ k.ents, k.nextId ≤ y.id
    let clearOf : Prop := ∀ y ∈ k.ents, k.nextId ≤ y.id ∨ m.toNat.testBit y.op.pipe = false
    (s.dev.coreState c = 2 → k.startable (pipeNo p) = some e →
      (e.isFill = false → Does (.tensorInstructionStart c p) s (go s.dev)) ∧
      (e.isFill = true → Does (.tensorInstructionStart c p) s s.dev)) ∧
    (s.dev.coreState c = 2 → k.startable 0 = some e → e.isFill = true → Does (.kvFill c) s (go s.dev)) ∧
    (k.ents.find? (fun y => y.op.pipe = pipeNo p && y.started) = some e → s.dev.trwHolds (.core c e.id) = false →
      s.dev.trw.bad.find? (·.1 = .core c e.id) = none → k.wait = .run →
      (e.isFill = false → Does (.tensorInstructionComplete c p) s (gone.add64 (rCoreTinstrLo c) 1)) ∧
      (e.isFill = true → Does (.tensorInstructionComplete c p) s gone)) ∧
    (s.dev.issuing c = true →
      (clearOf → Does (.tsyncPipe c m) s (on (.pipes m.toNat k.nextId) id)) ∧
      (¬clearOf → Does (.tsyncPipe c m) s (waits (.pipes m.toNat k.nextId))) ∧
      (clear → Does (.tsyncMem c) s (on (.mem k.nextId) (fun n => { n with dcache := [] }))) ∧
      (¬clear → Does (.tsyncMem c) s (waits (.mem k.nextId))) ∧
      (clear → Runs (.tsyncEnd c) s (fun t => (t.core c).launch = none ∧ (t.core c).held = [] ∧ (t.core c).wait = .run ∧
        t.coreState c = 1 ∧ t.rd (rCoreFlags c) = s.dev.rd (rCoreFlags c) ||| k.tflags)) ∧
      (¬clear → Does (.tsyncEnd c) s (waits (.ending k.nextId))))

/-! ## Tile sequencers and fences (05, 13) -/

/-- R126, R128, R129, R131, R132, R134, R141, R142: TSYNC.TILE hands the core the next index, in rd, TTILE and TRTILE, and counts
it, or −1 when none remains; a tile that may retire is held no more and is counted; an open multicast closes, and a closed one
performs and is counted; a stripe whose turn has come is staged, and its end makes it ready and counts its bytes; a launch
with reissued indices and ended cores restarts them. -/
def Obligations.TilesAreHandedRetiredMulticastAndStaged : Prop :=
  ∀ (s : State) (c : Fin 1536) (rd : Fin 32) (hub : Fin 2) (slot : Fin 256) (g n k i : Nat) (l : LaunchSt) (t : LaunchDesc)
      (sd : Desc) (m : Mcast) (h : HeldTile) (re : Bool) (d : Dev),
    let b := s.dev.core c
    let q := slotNo hub slot
    let up (r v : Nat) (u : Dev) : Prop := u.rd64 r = (s.dev.rd64 r + v) % 2 ^ 64
    let at_ (u : Dev) (f : LaunchSt → Prop) : Prop := ∃ z, u.launch? q = some z ∧ f z
    (s.dev.issuing c = true → b.launch = some k → s.dev.launch? k = some l → l.tile = some t →
      (s.dev.takeIdx k l = some (i, re, d) → t.wbase = 0 → t.trec = 0xFFFFFFFF → t.stage = false → l.kv = none →
        Runs (.tsyncTile c rd) s (fun u => up (rTsqTilesLo (hubOf k)) 1 u ∧
          let z := u.core c
          z.rx rd = (if rd.val = 0 then 0 else BitVec.ofNat 64 i) ∧ z.ttile = BitVec.ofNat 64 i ∧ z.trtile = BitVec.ofNat 64 i ∧
          z.wait = .run ∧ z.pc = (b.pc + 4) % 2 ^ 64 ∧ z.count = b.count + 1 ∧ (∃ y ∈ z.held, y.idx = i) ∧ z.ents = b.ents)) ∧
      (s.dev.takeIdx k l = none → Runs (.tsyncTile c rd) s (fun u =>
        let z := u.core c
        z.rx rd = (if rd.val = 0 then 0 else 0xFFFFFFFFFFFFFFFF) ∧ z.ttile = 0xFFFFFFFFFFFFFFFF ∧ z.trtile = b.trtile ∧
        z.held = b.held ∧ z.wait = .run ∧ z.pc = (b.pc + 4) % 2 ^ 64))) ∧
    (b.held.find? (fun y => match y.upTo with
        | some n => b.ents.all (fun e => n ≤ e.id)
        | none => false) = some h → s.dev.coreState c = 2 → b.launch = some k →
      Runs (.tileRetire c) s (fun u => up (slotReg k 0x18) 1 u ∧ ∀ y ∈ (u.core c).held, y.idx ≠ h.idx)) ∧
    (s.dev.launch? q = some l → Runs (.multicastClose hub slot g) s (fun u => at_ u (fun z =>
      (∀ y ∈ z.mcasts, y.group = g → y.closed = true) ∧ z.mcasts.map (·.joined) = l.mcasts.map (·.joined)))) ∧
    (s.dev.launch? q = some l → l.tile = some t → l.mcasts.find? (fun y => y.group = g && y.closed) = some m →
      RunsOrWaits (.multicastComplete hub slot g) s (fun u => up (rTsqMcastLo hub) 1 u ∧ at_ u (fun z => z.mcasts = l.mcasts.erase m))) ∧
    (s.dev.launch? q = some l → l.tile = some t → l.sdesc = some sd → s.dev.nextStripe q l t = some n →
      Does (.stripeStageStart hub slot) s
        ((s.dev.setLaunch q { l with staging := some n }).xferBegin (s.dev.stageXfer q l t sd n))) ∧
    (s.dev.launch? q = some l → l.tile = some t → l.sdesc = some sd → l.staging = some n → s.dev.trwDecoding (.stage q) = false →
      RunsOrWaits (.stripeStageDone hub slot) s (fun u => up (rTsqStageBytesLo hub) (s.dev.stageXfer q l t sd n).dst.footprint u ∧
        at_ u (fun z => z.staged = l.staged ++ [n] ∧ z.staging = none))) ∧
    (s.dev.launch? q = some l → l.early = false → l.stop = false → l.reissue ≠ [] → l.live s.dev ≠ [] →
      (∀ y ∈ l.live s.dev, y ∈ l.ended) →
      Runs (.coreRestart hub slot) s (fun u => bitOf 4 (u.rd (slotReg q 0)) = true ∧
        u.rd (rTsqRestart hub) = satAdd32 (s.dev.rd (rTsqRestart hub)) (l.live s.dev).length))

/-- R118, R120, R134, R303, R304: a core fault fences its core, and its launch, which other cores go on with, reissues every tile
that it held when REISSUE is 1; a fenced core of a die in service with no KERNEL in flight becomes a spare's, in IDLE, or
ABSENT when no spare is left; where a trigger of Table 13-2 holds, a die fence
fences its cores and takes its Gallery out of service; its drain's end leaves no
core of it in a launch. -/
def Obligations.FaultsFenceCoresAndDies : Prop :=
  ∀ (s : State) (c : Fin 1536) (n : Fin 8) (why : FenceCause) (k j : Nat) (l : LaunchSt) (t : LaunchDesc),
    let die := c.val / 192
    (s.dev.coreState c ≠ 0 → s.dev.coreState c ≠ 5 → RunsOrWaits (.coreHwFault c) s (fun u =>
      u.coreState c = 5 ∧ (∀ b : Fin 1536, b ≠ c → u.coreState b = s.dev.coreState b) ∧
      ((s.dev.core c).launch = some k → s.dev.launch? k = some l → l.tile = some t → t.reissue = true →
        (∃ b ∈ l.cores, b ≠ c.val ∧ b ∉ l.ended ∧ s.dev.coreState b = 2) →
        ∃ z, u.launch? k = some z ∧ ∀ h ∈ (s.dev.core c).held, h.idx ∈ z.reissue ∧ h.idx ∈ z.reissued))) ∧
    (s.dev.coreState c = 5 → s.dev.fenced die = false →
      s.dev.queue.infl.any (fun x => x.cls = 0 && x.part = s.dev.partOfDie die) = false →
      (s.dev.freeSpare die = none → Runs (.coreRetire c) s (fun u => u.coreState c = 0)) ∧
      (s.dev.freeSpare die = some j → Runs (.coreRetire c) s (fun u => u.coreState c = 1 ∧ u.core c = CoreSt.reset ∧
        bitOf 8 (u.rd (rCoreSpareSlot die j)) = true ∧ fld 7 0 (u.rd (rCoreSpareSlot die j)) = c.val % 192 ∧
        fld 7 0 (u.rd (rCorePhys c)) = fld 23 16 (s.dev.rd (rCoreSpareSlot die j))))) ∧
    (s.dev.fenced n = false → s.dev.fenceDue n why = true → RunsOrWaits (.dieFence ⟨n, why⟩) s (fun u => u.fenced n = true ∧
      (∀ b : Fin 1536, b.val / 192 = n → s.dev.coreState b ≠ 0 → u.coreState b = 5) ∧
      (∀ b : Fin 1536, b.val / 192 ≠ n → u.coreState b = s.dev.coreState b) ∧
      bitOf 2 (u.rd (rGalStatus n)) = true ∧ bitOf 0 (u.rd (rGalStatus n)) = false ∧
      (s.dev.parts = 1 → (∃ b : Fin 8, s.dev.fenced b = true) → bitOf 6 (u.rd rTopStatus) = true))) ∧
    ((s.dev.fenced n = true ∨ s.dev.fenceDue n why = false) → Does (.dieFence ⟨n, why⟩) s s.dev) ∧
    (s.dev.fenced n = true → RunsOrWaits (.routerDrainEnd n) s (fun u =>
      (∀ b : Fin 1536, b.val / 192 = n → (u.core b).launch = none) ∧ u.fenced n = true)) ∧
    (s.dev.fenced n = false → Does (.routerDrainEnd n) s s.dev)

/-! ## The KV store (06) -/

/-- R151, R152: KVOPEN of a closed slot opens it with LEN 0; KVAPPEND to one slot that fills no page only grows LEN, and one that
fills the page of a single stream first flushes it to its backing page; KVTRIM that cuts no page on its backing sets LEN,
once no earlier launch reads the frames that it releases, and waits before; KVCLOSE closes the slot; each ends DONE. An entry that breaks a rule ends the command PARTIAL with its error bit; a close of
frames that an earlier launch reads waits, and KV_FRAME_RELEASE lets it go on. -/
def Obligations.KvCommandsWorkOnTheirSlots : Prop :=
  ∀ (s : State) (c : CmdRef) (x : Inflight) (b page : Nat),
    let acc := x.acc (qmSrc x.q)
    let p := x.part
    let geo := s.dev.kvGeom p
    let done (d : Dev) : Dev := d.finish x { Result.fresh with progress := 1 }
    let fail (d : Dev) (bit : Nat) : Dev := (d.kvErr p bit b).finish x { Result.fresh with status := .partial_ }
    let e := s.dev.kvEntry acc p b
    let opened := rDmaKvOpen p
    let n := x.opd 1 % 2 ^ 32
    let list := s.dev.readMem acc (x.opd 0) 4
    let f := list.2.kvEntry acc p b
    let adv := x.opd 2 % 256
    let grown := { f.1 with len := f.1.len + adv }
    let pg := f.2.kvPage acc geo f.1 0 (f.1.len / geo.p)
    let fl := pg.2.kvFlush acc p b geo 0 (f.1.len / geo.p) page
    let closed (d : Dev) : Dev := done (d.wr opened (d.rd opened - 1))
    let frames := List.range geo.frames
    let released := if n / geo.p < e.1.len / geo.p then rangeFrom (e.1.len / geo.p) geo.frames else []
    s.dev.kvTurn x = true → s.dev.kvOn p = true → b < (s.dev.rd (rDmaKvSlots p)).toNat →
    (Dispatched s.dev c x 1 8 → x.opd 0 % 4096 = b →
      let u := e.2.setKvEntry acc p b ⟨0, n, nfld 47 0 (x.opd 2), 1⟩
      (e.1.state % 2 = 0 → 1 ≤ n → n ≤ 2 ^ 20 → Does (.kvopen c) s (done (u.wr opened (u.rd opened + 1)))) ∧
      ((e.1.state % 2 = 1 ∨ n < 1 ∨ 2 ^ 20 < n) → Does (.kvopen c) s (fail e.2 1))) ∧
    (Dispatched s.dev c x 1 9 → n = 1 → 1 ≤ adv → adv ≤ 64 → list.1.bad = none → leAt list.1.bytes 0 4 = b → 0 < geo.frames →
      list.2.kvGeom p = geo → b < (list.2.rd (rDmaKvSlots p)).toNat →
      (f.1.state % 2 = 0 → Does (.kvappend c) s (fail f.2 1)) ∧
      (f.1.state % 2 = 1 → f.1.maxlen < f.1.len + adv → Does (.kvappend c) s (fail f.2 2)) ∧
      (f.1.state % 2 = 1 → f.1.len + adv ≤ f.1.maxlen → (f.1.len + adv) / geo.p = f.1.len / geo.p →
        Does (.kvappend c) s (done (f.2.setKvEntry acc p b grown))) ∧
      (f.1.state % 2 = 1 → f.1.len + adv ≤ f.1.maxlen → geo.nstr = 1 → (f.1.len + adv) / geo.p = f.1.len / geo.p + 1 →
        list.2.kvHeld p x.ord b geo [f.1.len / geo.p] = false →
        (pg.1 = none → Does (.kvappend c) s (fail pg.2 4)) ∧
        (pg.1 = some page → fl.1 = (none, false) → Does (.kvappend c) s (done (fl.2.setKvEntry acc p b grown))))) ∧
    (Dispatched s.dev c x 1 10 → x.opd 0 % 4096 = b →
      ((e.1.state % 2 = 0 ∨ e.1.len < n) → Does (.kvtrim c) s (fail e.2 1)) ∧
      (e.1.state % 2 = 1 → n = e.1.len → Does (.kvtrim c) s (done e.2)) ∧
      (e.1.state % 2 = 1 → n < e.1.len → (n % geo.p = 0 ∨ e.1.len / geo.p ≤ n / geo.p) →
        (s.dev.kvHeld p x.ord b geo released = false →
          Does (.kvtrim c) s (done (e.2.setKvEntry acc p b { e.1 with len := n }))) ∧
        (s.dev.kvHeld p x.ord b geo released = true → Runs (.kvtrim c) s (fun t => t.mem = s.dev.mem ∧
          ∀ y ∈ t.queue.infl, y.q = x.q → y.i = x.i → y.phase = .working)))) ∧
    (Dispatched s.dev c x 1 11 → x.opd 0 % 4096 = b →
      (e.1.state % 2 = 0 → Does (.kvclose c) s (fail e.2 1)) ∧
      (e.1.state % 2 = 1 → s.dev.kvHeld p x.ord b geo frames = false →
        Does (.kvclose c) s (closed (e.2.setKvEntry acc p b { e.1 with state := 0 }))) ∧
      (e.1.state % 2 = 1 → s.dev.kvHeld p x.ord b geo frames = true → Runs (.kvclose c) s (fun t => t.mem = s.dev.mem ∧
        ∀ y ∈ t.queue.infl, y.q = x.q → y.i = x.i → y.phase = .working))) ∧
    (s.dev.cmd? c = some x → x.cls = 1 → x.op = 11 → x.phase = .working → x.opd 0 % 4096 = b → x.res.progress = 0 →
      x.res.result = 0 → e.1.state % 2 = 1 → s.dev.kvHeld p x.ord b geo frames = false →
      Does (.kvFrameRelease c) s (closed (e.2.setKvEntry acc p b { e.1 with state := 0 })))

/-- R158: EN is set where the geometry, the table and the frames keep their rules, and otherwise DMA_KV_ERR.CFG is; a clear takes
effect on new commands at once and ends, once no KV work is in flight, with every slot's STATE 0 and none open. R209: a write
of EN = 1 enables Trowel where the slot area lies in the partition's HBM window and no clear is pending, and otherwise sets
TRW_PERR.CFG; a clear ends, once nothing of the partition is in flight, with every slot FREE and none open. SAMPLE is written
either way. -/
def Obligations.KvStoreAndTrowelAreEnabledAndDisabled : Prop :=
  (∀ (s : State) (o : Origin) (p : Fin 8) (v : Word),
    let r := rDmaKvCtl p
    let n := (s.dev.rd (rDmaKvSlots p)).toNat
    let ok : Prop := (s.dev.kvGeom p).ok = true ∧ n ≠ 0 ∧ n ≤ 4096 ∧ s.dev.kvClosing.any (·.1 = p.val) = false ∧
      s.dev.inHbmWin p (s.dev.rd64 (rDmaKvTblLo p)) (32 * n) = true ∧
      s.dev.inGallery p (s.dev.rd64 (rDmaKvHodLo p)) (0x40000 * n) = true
    (Reaches s.dev o r → bitOf 0 (s.dev.rd r) = false → ok → Does (.dmaKvEnable o p v) s (s.dev.wr r 1)) ∧
    (Reaches s.dev o r → bitOf 0 (s.dev.rd r) = false → ¬ok → Does (.dmaKvEnable o p v) s (s.dev.kvErr p 0 0)) ∧
    (Reaches s.dev o r → bitOf 0 (s.dev.rd r) = true → Does (.dmaKvEnable o p v) s s.dev ∧
      Does (.dmaKvDisable o p v) s { (s.dev.wr r 0) with kvClosing := s.dev.kvClosing ++ [(p.val, s.dev.queue.nextOrd)] }) ∧
    (s.dev.kvClosing.any (·.1 = p.val) = true →
      s.dev.queue.infl.all (fun x => x.part ≠ p || x.phase = .ended || (!x.isKv && (x.phase = .early || x.walk = none))) = true →
      s.dev.inHbmWin p (s.dev.rd64 (rDmaKvTblLo p)) (32 * n) = true →
      Runs (.dmaKvDisableEnd p) s (fun t => t.rd (rDmaKvOpen p) = 0 ∧ t.kvClosing.any (·.1 = p.val) = false ∧
        ∀ b < n, ∀ i < 4, t.mem.byte (s.dev.kvAddr p b + 16 + i) = 0))) ∧
  (∀ (s : State) (o : Origin) (p : Fin 8) (v : Word),
    let r := rTrwPctl p
    let d := s.dev.wrFld r 7 4 (fld 7 4 v)
    let ok : Prop := s.dev.trw.closing.any (·.1 = p.val) = false ∧
      s.dev.inHbmWin p (s.dev.rd64 (rTrwSlotBaseLo p)) 0x800000 = true
    (Reaches s.dev o r → s.dev.trwOn p = false → ok → Does (.trwEnable o p v) s (d.wrFld r 0 0 1)) ∧
    (Reaches s.dev o r → s.dev.trwOn p = false → ¬ok →
      Does (.trwEnable o p v) s (d.wr (rTrwPerr p) (setBit 0 true (d.rd (rTrwPerr p))))) ∧
    (Reaches s.dev o r → s.dev.trwOn p = true → Does (.trwEnable o p v) s d ∧
      Does (.trwDisable o p v) s { (d.wrFld r 0 0 0) with trw := { s.dev.trw with
        closing := s.dev.trw.closing ++ [(p.val, s.dev.queue.nextOrd)] } }) ∧
    (s.dev.trw.closing.any (·.1 = p.val) = true → s.dev.trwInUse p = false →
      s.dev.inHbmWin p (s.dev.rd64 (rTrwSlotBaseLo p)) 0x800000 = true → s.dev.mem.damage = [] →
      Runs (.trwDisableEnd p) s (fun t => t.rd (rTrwSlotsOpen p) = 0 ∧ t.trw.closing.any (·.1 = p.val) = false ∧
        ∀ k < 4096, (t.mem.byte (s.dev.slotAddr p k)).toNat % 4 = 0)))

/-! ## Gallery and HBM errors (07) -/

/-- R161, R167, R171, R172, R175: a scrubber that runs reads its next granule: one with no damage stays as it is; of one damaged
symbol the damage is corrected and counted; two damaged symbols poison the granule and count as uncorrectable; and its
position moves on by one, past the last to the first. A bank placed into retention keeps its contents, and the step is
deferred where the rail has no room for it in this microsecond (R324). R173 to R177: RANGE_GO
starts a range scrub of the granules between RANGE_BASE and RANGE_LIMIT unless one runs, an empty range ends with RANGE_FOUND
0; each range read takes the next granule, and after the last RANGE_BUSY clears and RANGE_FOUND holds the count. A write of
CE_THRESH and the end of a window start a new window. With the lock open and INJ_ADDR in the page, INJ_CTL damages symbols or
sets the mark, else it is discarded. -/
def Obligations.ScrubbersPatrolRangesAndInject : Prop :=
  (∀ (s : State) (u : Scrubber) (sym sym2 : Nat) (n : Fin 8) (col : Fin 192) (bank : Fin 8),
    let k := scrubNo u
    let pos := s.dev.scrubAt k
    let a := scrubAddr k pos
    let pg := scrubPage k
    let moved (t : Dev) : Prop := t.scrubAt k = (pos + 1) % scrubSpan k ∧ ∀ b, t.mem.byte b = s.dev.mem.byte b
    (s.dev.scrubOn k = true → pos < scrubSpan k → s.dev.mem.isPoison (a / 64) = false →
      (s.dev.mem.dmg (a / 64) = none → Runs (.scrubPatrolRead u) s (fun t => moved t ∧ t.mem.poison = s.dev.mem.poison ∧
        t.mem.damage = s.dev.mem.damage)) ∧
      (s.dev.mem.dmg (a / 64) = some (.one sym) → Runs (.scrubPatrolRead u) s (fun t => moved t ∧
        t.mem.isPoison (a / 64) = false ∧ t.mem.dmg (a / 64) = none ∧
        t.rd (pgReg pg 0x30) = satAdd32 (s.dev.rd (pgReg pg 0x30)) 1 ∧ bitOf 0 (t.rd (pgReg pg 0x10)) = true)) ∧
      (s.dev.mem.dmg (a / 64) = some (.two sym sym2) → Runs (.scrubPatrolRead u) s (fun t => moved t ∧
        t.mem.isPoison (a / 64) = true ∧ t.mem.dmg (a / 64) = none ∧
        t.rd (pgReg pg 0x34) = satAdd32 (s.dev.rd (pgReg pg 0x34)) 1 ∧ bitOf 1 (t.rd (pgReg pg 0x10)) = true))) ∧
    (s.dev.scrubOn k = false → Does (.scrubPatrolRead u) s s.dev) ∧
    (let b := (n.val * 192 + col.val) * 8 + bank.val
     let step := s.dev.gateStep (8 + n.val) 1
     (s.dev.mem.retained.contains b = true → Does (.galleryBankRetain n col bank) s s.dev) ∧
     (s.dev.mem.retained.contains b = false →
       (∀ d, step = some d → Does (.galleryBankRetain n col bank) s { d with mem := { d.mem with
         retained := insNat b d.mem.retained } }) ∧
       (step = none → Does (.galleryBankRetain n col bank) s s.dev)))) ∧
  (∀ (s : State) (o : Origin) (g : EccPage) (v : Word) (r : RangeScrub) (x : Damage),
    let pg := pageNo g
    let span := s.dev.rangeOf pg
    let run (t : Dev) : Option RangeScrub := sget (fun _ => none) t.mem.range pg
    let count (d : Dev) : Dev := { d with mem := { d.mem with ceCount := sset (fun _ => 0) d.mem.ceCount pg 0 } }
    let a := s.dev.rd64 (pgReg pg 0xF0)
    let inj : Prop := Reaches s.dev o (pgReg pg 0xF8) ∧ s.dev.debugOpen = true ∧ errPage a = some pg
    (Reaches s.dev o (pgReg pg 0x50) → bitOf 2 (s.dev.rd (pgReg pg 0)) = false →
      (run s.dev = none → span.1 < span.2 → Runs (.rangeGo o g v) s (fun t => run t = some ⟨span.1, span.2, 0⟩ ∧
        bitOf 1 (t.rd (pgReg pg 0)) = true ∧ bitOf 0 (t.rd (pgReg pg 0x50)) = bitOf 0 v)) ∧
      (run s.dev = none → span.2 ≤ span.1 → Runs (.rangeGo o g v) s (fun t => run t = none ∧ t.rd (pgReg pg 0x70) = 0)) ∧
      (run s.dev = some r → Runs (.rangeGo o g v) s (fun t => run t = some r))) ∧
    (run s.dev = some r → r.next + 1 < r.stop → Runs (.scrubRangeRead g) s (fun t => ∃ f, run t = some ⟨r.next + 1, r.stop, f⟩ ∧
      (f = r.found ∨ f = r.found + 1) ∧ (s.dev.mem.isPoison (rangeAddr pg r.next / 64) = true → f = r.found))) ∧
    (run s.dev = some r → r.stop ≤ r.next + 1 → Runs (.scrubRangeRead g) s (fun t => run t = none ∧
      bitOf 1 (t.rd (pgReg pg 0)) = false ∧
      (s.dev.mem.isPoison (rangeAddr pg r.next / 64) = true → t.rd (pgReg pg 0x70) = BitVec.ofNat 32 r.found))) ∧
    (s.dev.rdFld (pgReg pg 0x44) 31 16 ≠ 0 → Does (.ceWindowExpire g) s (count s.dev)) ∧
    (Reaches s.dev o (pgReg pg 0x44) → Does (.ceThreshWrite o g v) s (count (s.dev.wr (pgReg pg 0x44) v))) ∧
    (inj → fld 1 0 v = 3 → Does (.injCtl o g v) s { s.dev with mem := s.dev.mem.setPoison (a / 64) true }) ∧
    (inj → fld 1 0 v ≠ 3 → injDamage pg v (s.dev.mem.dmg (a / 64)) = some x →
      Does (.injCtl o g v) s { s.dev with mem := s.dev.mem.setDmg (a / 64) (some x) }) ∧
    (Reaches s.dev o (pgReg pg 0xF8) → s.dev.debugOpen = false →
      Does (.injCtl o g v) s (s.dev.accessErr 4 (srcOf o) 4 (0x3F0000000000 + pgReg pg 0xF8))) ∧
    (Reaches s.dev o (pgReg pg 0xF8) → s.dev.debugOpen = true → errPage a ≠ some pg →
      Does (.injCtl o g v) s (s.dev.accessErr 5 (srcOf o) 4 (0x3F0000000000 + pgReg pg 0xF8))))

/-! ## Trowel (08) -/

/-- R202, R205, R206, R207: a TROWEL command waits while an engine holds blocks of its slot, and TROWEL_OP_EFFECT lets it go on;
with Trowel disabled before it was dispatched it ends ABORTED, and so does any but SINIT and FREE on a slot that is not OPEN; SINIT, OPEN, LOAD, SAVE,
KEY and FREE have their effect on the slot's record and end; CONVERT moves between two tensors of one size. -/
def Obligations.TrowelCommandsWorkOnTheirSlots : Prop :=
  ∀ (s : State) (c : CmdRef) (x : Inflight) (op : Nat) (i : Instr) (a b : Desc),
    let p := x.part
    let src := trwSrc (s.dev.trwHubEngine p)
    let slot := x.opd 0 % 4096
    let r := s.dev.readSlot src p slot
    let n := r.1.fld 0x64 4
    let ok (d : Dev) : Dev := d.finish x Result.fresh
    let no (d : Dev) (cause : Nat) : Dev := d.finish x (aborted cause src)
    let free : Prop := s.dev.trwOnFor x = true ∧ s.dev.trwHoldsSlot p slot = false
    let init := r.2.sinit x (s.dev.trwHubEngine p) slot
    let load := r.2.tblLoad x (s.dev.trwHubEngine p) slot r.1
    let save := r.2.writeMem (x.acc src) (x.opd 1) (clean r.1.image)
    let d1 := s.dev.loadDesc (x.acc src) (x.opd 1)
    let d2 := d1.2.loadDesc (x.acc src) (x.opd 2)
    ((op, i) ∈ [(0, Instr.sinit c), (1, .trowelOpen c), (2, .trowelLoad c), (3, .save c), (4, .trowelKey c), (6, .trowelFree c)] →
      Dispatched s.dev c x 7 op →
      (s.dev.trwOnFor x = false → Does i s (no s.dev 0x27)) ∧
      (s.dev.trwOnFor x = true → s.dev.trwHoldsSlot p slot = true →
        Does i s (s.dev.setCmd x.q x.i (fun y => { y with phase := .working }))) ∧
      (free → r.1.isOpen = false → op ≠ 0 → op ≠ 6 → Does i s (no r.2 0x27)) ∧
      (free → op = 0 → (init.1 = none → Does i s (ok init.2)) ∧ (∀ e, init.1 = some e → Does i s (no init.2 e))) ∧
      (free → op = 6 → Does i s (ok (r.2.slotOpen src p slot r.1.isOpen false (r.1.fld 0 4 / 4 * 4)))) ∧
      (free → r.1.isOpen = true →
        (op = 1 → Does i s (ok ((r.2.slotClear src p slot x.epoch).slotOpen src p slot true true (r.1.fld 0 4 / 4 * 4 + 1)))) ∧
        (op = 2 → (load.1 = none → Does i s (ok load.2)) ∧ (∀ e, load.1 = some e → Does i s (no load.2 e))) ∧
        (op = 3 → r.1.tbl = false → Does i s (no r.2 0x27)) ∧
        (op = 3 → r.1.tbl = true → save.1 = none → Does i s (ok save.2)) ∧
        (op = 4 → 16 ≤ n → Does i s (no r.2 0x27)) ∧
        (op = 4 → n < 16 → Does i s (ok ((r.2.pokeSlot src p slot (0x80 + 4 * n) 4 (r.1.fld 0x60 4 + 1)).pokeSlot src p slot 0x64 4
          (n + 1)))))) ∧
    (s.dev.cmd? c = some x → x.cls = 7 → x.op ≠ 5 → x.phase = .working →
      (s.dev.trwHoldsSlot p slot = true → Does (.trowelOpEffect c) s s.dev) ∧
      (s.dev.trwHoldsSlot p slot = false → x.op = 6 →
        Does (.trowelOpEffect c) s (ok (r.2.slotOpen src p slot r.1.isOpen false (r.1.fld 0 4 / 4 * 4))))) ∧
    (Dispatched s.dev c x 7 5 → s.dev.trwOnFor x = false → Does (.convert c) s (no s.dev 0x27)) ∧
    (Dispatched s.dev c x 7 5 → s.dev.trwOnFor x = true → d1.1 = some a → d2.1 = some b → a.cls = 0 → b.cls = 0 → a.size = b.size →
      descMeets x.epoch a b = false →
      Does (.convert c) s (d2.2.moveRun x a b) ∧
      ∀ y ∈ (d2.2.moveRun x a b).queue.infl, y.q = x.q → y.i = x.i → y.phase = .ended)

/-- R185, R200, R203: the block at the front of an engine's queue is coded when its slot has tables or builds none, and otherwise
joins the sample of the slot's one build; a block to decode is decoded for its requester; a build starts when its sample is
full, or at the timeout with the blocks that came, and its end installs the tables with the next generation and codes the
sample. -/
def Obligations.TrowelEnginesCodeDecodeAndBuild : Prop :=
  ∀ (s : State) (e : Fin 10) (j : TrwJob) (t : List TrwJob) (b : TrwBuild),
    let src := trwSrc e
    let r := s.dev.readSlot src j.part j.slot
    let q := r.2.setTrwQueue e t
    let q1 := s.dev.setTrwQueue e t
    let z := s.dev.readSlot src b.part b.slot
    let dec := (s.dev.setTrwQueue e t).decodeBlock e j.part j.slot j.src j.desc j.blk
    let marked := (z.2.pokeSlot src b.part b.slot 0 4 (z.1.fld 0 4 ||| 16)).setTrwBuild e (some { b with started := true })
    (s.dev.trwQueue e = j :: t → j.enc = true →
      ((r.1.tbl = true ∨ j.build = false) → Does (.blockEncode e) s ((q.encodeJob e j).trwStat e)) ∧
      (r.1.tbl = false → j.build = true →
        (s.dev.trwBuild e = none → s.dev.building j.part j.slot = false →
          Does (.blockEncode e) s (q1.setTrwBuild e (some ⟨j.part, j.slot, [j], false⟩))) ∧
        (s.dev.trwBuild e = none → s.dev.building j.part j.slot = true → Does (.blockEncode e) s s.dev) ∧
        (s.dev.trwBuild e = some b → b.part = j.part → b.slot = j.slot → b.started = false →
          b.sample.length < s.dev.sampleSize j.part j.desc r.1.bpf →
          Does (.blockEncode e) s (q1.setTrwBuild e (some { b with sample := b.sample ++ [j] }))))) ∧
    (s.dev.trwQueue e = j :: t → j.enc = false →
      Does (.blockDecode e) s (({ dec.2 with trw := { dec.2.trw with
        out := dec.2.trw.out ++ [(⟨j.req, j.part, j.slot, j.blk, dec.1⟩ : TrwOut)] } }).trwDeliver j.req)) ∧
    (s.dev.trwBuild e = some b → b.started = false → b.sample = j :: t →
      (z.2.sampleSize b.part j.desc z.1.bpf ≤ b.sample.length → Does (.tableBuildStart e) s marked) ∧
      (b.sample.length < z.2.sampleSize b.part j.desc z.1.bpf → Does (.tableBuildStart e) s s.dev) ∧
      Does (.tableBuildTimeout e) s marked) ∧
    (s.dev.trwBuild e = some b → b.started = true → b.sample = j :: t → Does (.tableBuildDone e) s
      (((b.sample.foldl (fun d k => d.encodeJob e k)
        (z.2.setTables src b.part b.slot (z.1.gen % 15 + 1) false (buildTables j.desc b.sample)))).setTrwBuild e none))

/-! ## Tiers (09) -/

/-- R224: a TIER operation on a handle that names no live allocation ends with result 1 and DONE; on one of another queue or
partition, ABORTED with result 2; a range outside the handle, ABORTED with result 4; each with
a record that holds the handle; and on a T0 handle every operation but
FREE does nothing and ends DONE. R222, R225, R226: ALLOC of managed pages at a given place, within its quotas and its window
and over none allocated, makes them ZERO pages of the partition and stores their handle; over its quota it ends ABORTED with
result 3, outside with 4, over allocated pages with 5. FREE of a handle frees its pages and advances their generations. -/
def Obligations.TierHandlesAreCheckedAllocatedAndFreed : Prop :=
  (∀ (s : State) (c : CmdRef) (x : Inflight) (op : Nat) (i : Instr) (q p : Nat),
    (op, i) ∈ [(1, Instr.tierFree c), (2, .pin c), (3, .unpin c), (4, .prefetch c), (5, .demote c), (6, .clean c), (7, .discard c)] →
    Dispatched s.dev c x 6 op →
    let h := Handle.ofWords (x.opd 0) (x.opd 1)
    let a := x.opd 2 % 2 ^ 32
    let n := x.opd 2 / 2 ^ 32
    (s.dev.handleHeld h = none → Does i s (s.dev.handleNo x 1 h.addr)) ∧
    (s.dev.handleHeld h = some (q, p) → (q ≠ x.q ∨ p ≠ x.part ∨ h.queue ≠ x.q ∨ h.part ≠ x.part) →
      Does i s (s.dev.handleNo x 2 h.addr)) ∧
    (s.dev.handleHeld h = some (x.q, x.part) → h.queue = x.q → h.part = x.part →
      (h.t0 = true → op ≠ 1 → Does i s (s.dev.tierEnd x 0 .done 0)) ∧
      (h.t0 = false → 4 ≤ op → (n = 0 ∨ a < h.first ∨ h.first + h.count < a + n) → Does i s (s.dev.handleNo x 4 h.addr)))) ∧
  (∀ (s : State) (c : CmdRef) (x : Inflight),
    let p := x.part
    let n := x.opd 0 / 2 ^ 32
    let want := x.opd 1
    let addr := 0x80000000000 + want * 0x200000
    let above : Prop := (s.dev.rd (rSmpQt1 p)).toNat + (s.dev.rd (rSmpQt2 p)).toNat < (s.dev.pagesOf p).length + n
    let bad : Prop := n = 0 ∨ 2097151 < n ∨ s.dev.pagesIn p want n = false
    let h := Handle.ofWords (x.opd 0) (x.opd 1)
    (Dispatched s.dev c x 6 0 → (x.opd 0).testBit 0 = false → want ≠ 0xFFFFFFFF →
      (above → Does (.alloc c) s (s.dev.tierNo x 3 addr 0)) ∧
      (¬above → bad → Does (.alloc c) s (s.dev.tierNo x 4 addr 0)) ∧
      (¬above → ¬bad → s.dev.runMeets want n = true → Does (.alloc c) s (s.dev.tierNo x 5 addr 0)) ∧
      (¬above → ¬bad → s.dev.runMeets want n = false → s.dev.inHbmWin p (x.opd 2) 16 = true →
        Runs (.alloc c) s (fun t =>
          (∀ k, want ≤ k → k < want + n → (t.page k).state = .zero ∧ (t.page k).part = p ∧ (t.page k).pin = false ∧
            (t.page k).gen = (s.dev.page k).gen) ∧
          (∀ k, (k < want ∨ want + n ≤ k) → t.page k = s.dev.page k) ∧
          t.mem.bytes (x.opd 2) 16 = (Handle.mk want n false x.q p (s.dev.page want).gen).bytes ∧
          ∀ y ∈ t.queue.infl, y.q = x.q → y.i = x.i → y.phase = .ended ∧ y.res.status = .done ∧ y.res.result = 0))) ∧
    (Dispatched s.dev c x 6 1 → s.dev.handleHeld h = some (x.q, x.part) → h.queue = x.q → h.part = x.part → h.t0 = false →
      Runs (.tierFree c) s (fun t =>
        (∀ k, h.first ≤ k → k < h.first + h.count → (t.page k).state = .free ∧ (t.page k).gen = (s.dev.page k).gen + 1) ∧
        (∀ k, (k < h.first ∨ h.first + h.count ≤ k) → t.page k = s.dev.page k) ∧ t.mem = s.dev.mem ∧
        ∀ y ∈ t.queue.infl, y.q = x.q → y.i = x.i → y.phase = .ended)) ∧
    (Dispatched s.dev c x 6 1 → s.dev.handleHeld h = some (x.q, x.part) → h.queue = x.q → h.part = x.part → h.t0 = true →
      Runs (.tierFree c) s (fun t => (∀ u, h.first ≤ u → u < h.first + h.count → t.t0Gen u = s.dev.t0Gen u + 1) ∧
        (∀ a ∈ t.tier.t0, a.first ≠ h.first ∨ a.count ≠ h.count) ∧ t.mem = s.dev.mem)))

/-- R222, R223: PIN pins the handle's pages that are not in T2, within the quota of pins, and UNPIN clears them; PREFETCH of a
page in T2 promotes it or waits; DEMOTE drops a clean BOTH page and leaves a pinned one; CLEAN writes a dirty page back;
DISCARD makes its pages ZERO; QUERY stores eight bytes for each page. Each ends its command. -/
def Obligations.TierOperationsActOnTheirPages : Prop :=
  ∀ (s : State) (c : CmdRef) (x : Inflight) (e : Dev),
    let h := Handle.ofWords (x.opd 0) (x.opd 1)
    let a := x.opd 2 % 2 ^ 32
    let n := x.opd 2 / 2 ^ 32
    let mine : Prop := s.dev.handleHeld h = some (x.q, x.part) ∧ h.queue = x.q ∧ h.part = x.part ∧ h.t0 = false
    let all : Prop := mine ∧ n ≠ 0 ∧ h.first ≤ a ∧ a + n ≤ h.first + h.count
    let one : Prop := all ∧ n = 1
    let r := s.dev.page a
    let ended (t : Dev) (k : Nat) : Prop := ∀ y ∈ t.queue.infl, y.q = x.q → y.i = x.i → y.phase = .ended ∧ y.res.status = .done ∧
      y.res.result = 0 ∧ y.res.progress = k
    let others (t : Dev) (f m : Nat) : Prop := ∀ k, (k < f ∨ f + m ≤ k) → t.page k = s.dev.page k
    (Dispatched s.dev c x 6 2 → mine → (∀ k, h.first ≤ k → k < h.first + h.count → (s.dev.page k).state ≠ .t2) →
      s.dev.pinned x.part + h.count ≤ (s.dev.rd (rSmpQt1 x.part)).toNat →
      Runs (.pin c) s (fun t => (∀ k, h.first ≤ k → k < h.first + h.count → t.page k = { s.dev.page k with pin := true }) ∧
        others t h.first h.count ∧ ended t h.count ∧ t.mem = s.dev.mem)) ∧
    (Dispatched s.dev c x 6 3 → mine → Runs (.unpin c) s (fun t =>
      (∀ k, h.first ≤ k → k < h.first + h.count → t.page k = { s.dev.page k with pin := false }) ∧
      others t h.first h.count ∧ ended t 0 ∧ t.mem = s.dev.mem)) ∧
    (Dispatched s.dev c x 6 4 → one → r.state ≠ .t2 → Does (.prefetch c) s (s.dev.tierEnd x 0 .done 0)) ∧
    (Dispatched s.dev c x 6 4 → one → r.state = .t2 → s.dev.promotePage a = (true, e) →
      Does (.prefetch c) s ((e.endWait (smpSrc x.q) a).tierEnd x 0 .done 0)) ∧
    (Dispatched s.dev c x 6 4 → one → r.state = .t2 → s.dev.promotePage a = (false, e) →
      Does (.prefetch c) s (e.tierWait x a 0)) ∧
    (Dispatched s.dev c x 6 5 → one → r.pin = true → Does (.demote c) s (s.dev.tierEnd x 0 .done 0)) ∧
    (Dispatched s.dev c x 6 5 → one → r.pin = false → r.state = .both → r.dirty = 0 → Runs (.demote c) s (fun t =>
      t.page a = { r with state := .t2, frame := 0 } ∧ others t a 1 ∧ ended t 0 ∧ t.mem = s.dev.mem)) ∧
    (Dispatched s.dev c x 6 6 → one → r.hasFrame = true → r.dirty ≠ 0 → s.dev.writeBackPage a = some e →
      Does (.clean c) s (e.tierEnd x 0 .done 0) ∧ (e.page a).state = .both ∧ (e.page a).dirty = 0) ∧
    (Dispatched s.dev c x 6 7 → all → Runs (.discard c) s (fun t =>
      (∀ k, a ≤ k → k < a + n → (t.page k).state = .zero ∧ (t.page k).dirty = 0 ∧ (t.page k).pin = (s.dev.page k).pin ∧
        (t.page k).gen = (s.dev.page k).gen) ∧ others t a n ∧ ended t 0 ∧ t.mem = s.dev.mem)) ∧
    (Dispatched s.dev c x 6 8 → s.dev.pagesIn x.part a n = false → Does (.query c) s (s.dev.tierNo x 4 0 0)) ∧
    (Dispatched s.dev c x 6 8 → s.dev.pagesIn x.part a n = true → s.dev.inHbmWin x.part (x.opd 3) (8 * n) = true →
      Runs (.query c) s (fun t => t.mem.bytes (x.opd 3) (8 * n) = (rangeFrom a n).flatMap s.dev.queryEntry ∧
        (∀ k, t.page k = s.dev.page k) ∧ ended t 0))

/-- R215, R221, R227: a promotion of a page in T2 that finds a frame makes it BOTH with a clear dirty mask, a write-back that
finds an extent makes a dirty page a clean BOTH, a drop moves a clean, unpinned BOTH page to T2, a compaction moves its extent; each
counts. An access that has waited SMP_STALL_LIMIT for a frame and finds none is refused with SMP_ERR.STARVED; before that, and
with no such access, nothing happens. A quota write sets the quota, and OVERQ exactly when use still lies
above it. -/
def Obligations.PagesMoveBetweenTiers : Prop :=
  ∀ (s : State) (o : Origin) (pg : Fin 2097152) (p : Fin 8) (k : Fin 3) (v : Word) (src : BitVec 16) (a : BitVec 48) (f : Nat)
      (d : Dev) (w : Stall),
    let r := s.dev.page pg
    let n := (a.toNat - 0x80000000000) / 0x200000
    let waiting := s.dev.tier.waits.find? (fun v => v.src = src.toNat && v.page = n && !v.refused)
    let limit (v : Stall) : Nat := v.since + (s.dev.rd rSmpStallLimit).toNat * 1000
    (r.state = .t2 → s.dev.takeFrame r.part = (some f, d) → Runs (.promotion pg) s (fun t =>
      (t.page pg).state = .both ∧ (t.page pg).dirty = 0 ∧ (t.page pg).frame = f ∧ (t.page pg).pin = r.pin ∧
      (t.page pg).gen = r.gen)) ∧
    (r.dirty ≠ 0 → s.dev.writeBackPage pg = some d → Does (.writeBack pg) s (d.tierCount r.part) ∧
      (d.page pg).state = .both ∧ (d.page pg).dirty = 0 ∧ (d.page pg).frame = r.frame ∧
      d.rd64 rSmpWritebackLo = (s.dev.rd64 rSmpWritebackLo + 1) % 2 ^ 64) ∧
    (r.state = .both → r.dirty = 0 → r.pin = false → Runs (.drop pg) s (fun t => t.page pg = { r with state := .t2, frame := 0 } ∧
      (∀ m, m ≠ pg.val → t.page m = s.dev.page m) ∧ t.mem = s.dev.mem)) ∧
    ((r.state ≠ .both ∨ r.dirty ≠ 0 ∨ r.pin = true) → Does (.drop pg) s (s.dev.tierCount r.part)) ∧
    (r.hasExt = true → s.dev.findRun r.part r.sectors = some f → f < r.ext → Runs (.compaction pg) s (fun t =>
      t.page pg = { r with ext := f } ∧ ∀ m, m ≠ pg.val → t.page m = s.dev.page m)) ∧
    (waiting = none → Does (.tierStallTimeout p src a none) s s.dev) ∧
    (waiting = some w → s.dev.now < limit w → Does (.tierStallTimeout p src a none) s s.dev) ∧
    (waiting = some w → isManaged a.toNat = true → (s.dev.page n).part = p → limit w ≤ s.dev.now → (s.dev.takeFrame p).1 = none →
      let e := (s.dev.smpErr 4 src.toNat 0 0 a.toNat a.toNat).refuse p src.toNat a.toNat
      Does (.tierStallTimeout p src a none) s { e with tier := { e.tier with
        waits := mapIf (fun v => v.src = src.toNat && v.page = n) (fun v => { v with refused := true }) e.tier.waits } }) ∧
    (Reaches s.dev o (rQuota p k) → Runs (.smpQuotaWrite o p k v) s (fun t => t.rd (rQuota p k) = v ∧
      (k = 0 → bitOf 0 (t.rd (rSmpPStatus p)) = decide (v.toNat < t.use0 p)) ∧
      (k = 1 → bitOf 1 (t.rd (rSmpPStatus p)) = decide (v.toNat < t.use1 p)) ∧
      (k = 2 → bitOf 2 (t.rd (rSmpPStatus p)) = decide (v.toNat * 513 < t.use2 p))))

/-! ## The training step (11) -/

/-- R259, R260, R263: an EPOCH whose descriptor meets Table 11-2 and names an enabled group completes its record with its rank and
begins to gather; one whose descriptor does not ends ABORTED, DESC_INVALID. Another member's record that a port takes joins those
that have arrived, and is dropped once the epoch is LOST. Once every rank's is there the result is their reduction, shown in COL_EP_LAST with LATE
set where its time has passed; at D + TIMEOUT, still gathering, the epoch is LOST and its command ends ABORTED with cause
UNIT, and earlier nothing happens. -/
def Obligations.EpochsGatherTheirRecords : Prop :=
  ∀ (s : State) (c : CmdRef) (x : Inflight) (z : EpochSt) (l : List Byte) (p : Fin 8) (port : Fin 24)
      (f : FlitHdr) (r : EpochRecord),
    let src := colSrc (x.q % 2)
    let rd := s.dev.readStruct (x.acc src) 64 (x.opd 0) 64
    let e := epochDesc l
    let n := (s.dev.levels p z.desc.group).n
    let rs := z.local_ :: (s.dev.col.epochRecs.filter (·.1 = p.val)).map (·.2)
    let all : Prop := (List.range n).all (fun k => rs.any (·.rank = k)) = true
    (Dispatched s.dev c x 11 0 → x.part = p → s.dev.epochSt p = some z → z.phase = .held →
      (rd.1 = some l → epochDescOk l = true → rd.2.groupOn p e.group = true → bitOf 1 (rd.2.rd (rColGState p e.group)) = false →
        (leAt l 4 4).testBit 1 = false →
        Runs (.epoch c) s (fun t => t.epochSt p = some { z with
            desc := e, phase := .gathering, local_ := { z.local_ with rank := (rd.2.levels p e.group).own rd.2.coord p } } ∧
          ∀ y ∈ t.queue.infl, y.q = x.q → y.i = x.i → y.phase = .working)) ∧
      ((rd.1 = none ∨ (rd.1 = some l ∧ (epochDescOk l = false ∨ rd.2.groupOn p e.group = false))) →
        Does (.epoch c) s (rd.2.finish x
          { aborted 3 src with progress := (rd.2.rd (rColEpoch p)).toNat }))) ∧
    (FlitOk s.dev port f .traffic →
      Does (.epochRecordReceive ⟨port, f⟩ (p, r)) s
        ((taken s.dev port f 1).accept port f .traffic 240 none (fun d => d.epochRec p r)) ∧
      ((s.dev.epochSt p).any (·.phase = .lost) = false → sget (fun _ => 0) s.dev.col.gaveUp p.val = 0 →
        RunsOrWaits (.epochRecordReceive ⟨port, f⟩ (p, r)) s (fun t => t.col.epochRecs =
          s.dev.col.epochRecs.filter (fun e => !(e.1 = p.val && e.2.rank = r.rank)) ++ [(p.val, r)])) ∧
      ((s.dev.epochSt p).any (·.phase = .lost) = true →
        RunsOrWaits (.epochRecordReceive ⟨port, f⟩ (p, r)) s (fun t => t.col.epochRecs = s.dev.col.epochRecs))) ∧
    (s.dev.epochSt p = some z → z.phase = .gathering →
      (all → Runs (.epochResult p) s (fun t =>
        t.epochSt p = some { z with phase := .result (epochReduce n rs) } ∧
        bitOf 7 (t.rd (rColEpLast p)) = decide ((epochReduce n rs).tc < s.dev.now) ∧
        (∀ k, k ≠ 7 → bitOf k (t.rd (rColEpLast p)) = bitOf k (epochReduce n rs).status) ∧
        OnlyRegs { s.dev with col := t.col, queue := t.queue } t [rColEpLast p])) ∧
      (¬all → Does (.epochResult p) s s.dev) ∧
      (s.dev.now < z.d + z.desc.timeout * 1000 → Does (.epochTimeout p) s s.dev) ∧
      (z.d + z.desc.timeout * 1000 ≤ s.dev.now → Does (.epochTimeout p) s (s.dev.epochLost p)) ∧
      (z.d + z.desc.timeout * 1000 ≤ s.dev.now → z.desc.out = 0 → s.dev.epochCmd z = some x →
        Runs (.epochTimeout p) s (fun t =>
          t.epochSt p = some { z with phase := .lost } ∧ bitOf 5 (t.rd (rColEpFlags p)) = true ∧
          t.rd (rColEpoch p) = s.dev.rd (rColEpoch p) ∧ t.mem = s.dev.mem ∧
          ∀ y ∈ t.queue.infl, y.q = x.q → y.i = x.i →
            y.phase = .ended ∧ y.res.status = .aborted ∧ y.res.cause = 0x27 ∧ y.res.progress = (s.dev.rd (rColEpoch p)).toNat)))

/-- R261, R262: at TC a result with a clean status advances COL_EPOCH by 1, shows its TC and counts in COL_EP_COMMITS; any other
leaves COL_EPOCH; either way the flags and the norm accumulators are cleared, and nothing happens
before TC. From TC + 0.5 µs on the command ends, DONE or ABORTED with cause UNIT, with COL_EPOCH as its progress.
The completion of an EPOCH that did not commit counts in COL_EP_ABORTS and clears the flags and the accumulators. -/
def Obligations.EpochsCommitAtTheirTime : Prop :=
  ∀ (s : State) (p : Fin 8) (z : EpochSt) (r : EpochRes) (ok : Bool) (st : Option EpochStat) (x : Inflight) (c : CmdRef),
    let now := s.dev.rd (rColEpoch p)
    let cleared (t : Dev) : Prop := t.rd (rColEpFlags p) = 0 ∧ t.rd (rColNsSl p) = 0 ∧ t.rd (rColNsSg p) = 0 ∧ t.mem = s.dev.mem ∧
      ∃ y, t.epochSt p = some { z with phase := .switched r (cleanStatus r.status) y }
    (s.dev.epochSt p = some z → z.phase = .result r →
      (s.dev.now < r.tc → Does (.epochCommit p) s s.dev) ∧
      (r.tc ≤ s.dev.now → cleanStatus r.status = true → Runs (.epochCommit p) s (fun t =>
        t.rd (rColEpoch p) = now + 1 ∧ t.rd64 (rColEpTcLo p) = r.tc % 2 ^ 64 ∧
        t.rd (rColEpCommits p) = satAdd32 (s.dev.rd (rColEpCommits p)) 1 ∧ t.rd (rColEpAborts p) = s.dev.rd (rColEpAborts p) ∧ cleared t)) ∧
      (r.tc ≤ s.dev.now → cleanStatus r.status = false → Runs (.epochCommit p) s (fun t =>
        t.rd (rColEpoch p) = now ∧ t.rd64 (rColEpTcLo p) = s.dev.rd64 (rColEpTcLo p) ∧
        t.rd (rColEpAborts p) = s.dev.rd (rColEpAborts p) ∧ t.rd (rColEpCommits p) = s.dev.rd (rColEpCommits p) ∧ cleared t))) ∧
    (s.dev.cmd? c = some x → x.phase = .ended → s.dev.trwHolds (.cmd x.q x.i) = false → x.cls = 11 → x.part = p → x.q < 65536 →
      x.held = false → x.eng = 127 → x.res.status ≠ .done → RunsOrWaits (.commandComplete c) s (fun t =>
        t.rd (rColEpAborts p) = satAdd32 (s.dev.rd (rColEpAborts p)) 1 ∧ t.rd (rColEpFlags p) = 0 ∧ t.rd (rColNsSl p) = 0 ∧
        t.rd (rColNsSg p) = 0)) ∧
    (s.dev.epochSt p = some z → z.phase = .switched r ok st → s.dev.epochCmd z = some x → x.phase = .working →
      (s.dev.now < r.tc + 500 → Does (.epochComplete p) s s.dev) ∧
      (r.tc + 500 ≤ s.dev.now → z.desc.out = 0 → Does (.epochComplete p) s (s.dev.finish x
        (if ok then { Result.fresh with progress := now.toNat }
          else { aborted 0x27 (colSrc (z.cmd.q.val % 2)) with progress := now.toNat, result := r.status.toNat % 65536 }))) ∧
      (r.tc + 500 ≤ s.dev.now → z.desc.out ≠ 0 →
        let d := s.dev.stepRecord p z (s.dev.rd (rColEpLast p)) (if ok then r.tc else 0) r.members (some (r.sl, r.sg)) st
        let e := (d.rd (rColEpoch p)).toNat
        Does (.epochComplete p) s (d.epochFinish z (if ok then { Result.fresh with progress := e }
          else { aborted 0x27 (colSrc (z.cmd.q.val % 2)) with progress := e, result := r.status.toNat % 65536 }))))

/-- R258, R264, R271: a write to COL_EPOCH_SET by a host or the management controller, with no command of the partition in flight,
sets COL_EPOCH, clears the flags and writes a record; by anyone else, or with a command in flight, it is refused and logged.
VETO sets its flag; CLEAR clears the flags only while no command of the partition is in flight; the gates wait for an EPOCH in
flight; RESET empties the EMA and the suggestion. -/
def Obligations.EpochPageWritesAct : Prop :=
  ∀ (s : State) (o : Origin) (p : Fin 8) (v : Word),
    let busy := s.dev.partBusy p
    let old := (s.dev.rd (rColEpoch p)).toNat
    let trusted : Prop := o = .mgmt ∨ ∃ k, o = .host k
    let gated : Dev := if s.dev.epochBusyOf p then
        { s.dev with col := { s.dev.col with gates := sset (fun _ => none) s.dev.col.gates p.val (some (fld 15 0 v)) } }
      else s.dev.wrFld (rColEpCtl p) 15 0 (fld 15 0 v)
    (Reaches s.dev o (rColEpochSet p) → trusted → busy = false → Does (.colEpochSet o p v) s
      (((s.dev.wr (rColEpoch p) v).wr (rColEpFlags p) 0).flw 3 0x40 (srcOf o) (old + 2 ^ 32 * v.toNat))) ∧
    (Reaches s.dev o (rColEpochSet p) → (¬trusted ∨ busy = true) →
      Does (.colEpochSet o p v) s (s.dev.accessErr 6 (srcOf o) 4 (0x3F0000000000 + rColEpochSet p))) ∧
    (Reaches s.dev o (rColEpCtl p) → bitOf 17 v = false →
      Does (.colEpCtlVeto o p v) s (gated.wr (rColEpFlags p) (setBit 2 true (s.dev.rd (rColEpFlags p))))) ∧
    (Reaches s.dev o (rColEpCtl p) → bitOf 16 v = false → busy = false → Does (.colEpCtlClear o p v) s
      ((gated.wr (rColEpFlags p) 0).flw 3 0x40 (srcOf o) (s.dev.rd (rColEpFlags p)).toNat)) ∧
    (Reaches s.dev o (rColEpCtl p) → bitOf 16 v = false → busy = true → Does (.colEpCtlClear o p v) s
      (gated.accessErr 6 (srcOf o) 4 (0x3F0000000000 + rColEpCtl p))) ∧
    (Reaches s.dev o (rColNsCtl p) → Does (.colNsReset o p v) s ((s.dev.wr (rColNsEma p) 0x7FC00000).wr (rColNsSuggest p) 0))

/-! ## Collectives and groups (12) -/

/-- R273 to R275, R278, R295: a collective waits for the ones of its partition that were dispatched before it. Its descriptor
unreadable, it ends ABORTED, DESC_INVALID; its group disabled, ABORTED, UNIT, with COL_ERR; its group with a lost member, the
same, its number taken. While its group is neither
READY nor LOST it waits and takes no number; members that disagree end it ABORTED; with every stage of both halves done, and
every other member at the same collective, it writes its result and its command ends. A PERMUTE ends once everything has been
placed and sent. -/
def Obligations.CollectivesCheckRunAndEnd : Prop :=
  ∀ (s : State) (c : CmdRef) (x : Inflight) (op : Nat) (i : Instr) (l : List Byte) (k : CollSt) (z : PermSt),
    (op, i) ∈ [(0, Instr.allreduce c), (1, .allgather c), (2, .reducescatter c), (3, .broadcast c), (4, .permute c)] →
    let p := x.part
    let src := colSrc (x.q % 2)
    let r := s.dev.readStruct (x.acc src) 64 (x.opd 0) 64
    let g := leAt l 0 4
    let counted := r.2.wr (rColGColls p g) (r.2.rd (rColGColls p g) + 1)
    let first_ : Prop := s.dev.queue.infl.any (fun y => y.cls = 2 && y.part = p && y.ord < x.ord && y.phase = .dispatched) = false
    let lv := s.dev.levels k.part k.group
    let me := s.dev.collRank k
    let passed := s.dev.col.arrivals.all (fun a => !(a.part = k.part && a.group = k.group && a.number = k.number)
      || (a.stage = 15 && a.bytes.head?.any (·.1.toNat = 1)))
    let agreed (d : Dev) : Prop := d.col.arrivals.any (fun a => a.part = k.part && a.group = k.group && a.number = k.number
      && (a.op ≠ k.op || a.flags ≠ k.flags || a.n ≠ k.n)) = false
    let isReady : Prop := bitOf 0 (s.dev.rd (rColGState k.part k.group)) = true
    let ended (d : Dev) : Prop := ∀ y ∈ d.queue.infl, y.q = x.q → y.i = x.i → y.phase = .ended
    (Dispatched s.dev c x 2 op →
      (¬first_ → Does i s s.dev) ∧
      (first_ → r.1 = none → r.2.coll? x.q x.i = none → Does i s (r.2.finish x (aborted 3 src))) ∧
      (first_ → r.1 = some l → g < 64 → r.2.groupOn p g = false → r.2.coll? x.q x.i = none →
        Does i s ((r.2.finish x (aborted 0x27 src)).colErr 0 p g r.2.coord)) ∧
      (first_ → r.1 = some l → g < 64 → r.2.groupOn p g = true → bitOf 1 (r.2.rd (rColGState p g)) = true →
        r.2.coll? x.q x.i = none →
        Does i s ((counted.finish x (aborted 0x27 src)).colErr 1 p g (fld 31 16 (r.2.rd (rColGState p g))))) ∧
      (first_ → r.1 = some l → g < 64 → r.2.groupOn p g = true → fld 1 0 (r.2.rd (rColGState p g)) = 0 →
        s.dev.coll? x.q x.i = none → Does i s s.dev)) ∧
    (s.dev.cmd? c = some x → x.cls = 2 → x.op = op → x.phase = .working → s.dev.coll? x.q x.i = some k →
      (agreed s.dev → ¬isReady → Does i s s.dev) ∧
      (¬agreed s.dev → Does i s ((s.dev.collFail k).colErr 0 k.part k.group s.dev.coord) ∧ ended (s.dev.collFail k)) ∧
      (agreed s.dev → isReady → k.perm = none → k.begun = true → (k.plan lv me 0 k.half0).isNone = true →
        (k.plan lv me 1 k.half1).isNone = true → s.dev.collPaired k lv me = true →
        Does i s (s.dev.collFinish x k lv me) ∧ ended (s.dev.collFinish x k lv me)) ∧
      (agreed s.dev → isReady → k.perm = some z → z.moving = true → passed = true →
        (z.got.map (·.2)).sum = (z.ins.map (·.len)).sum → z.bufs = [] → z.outs.all (s.dev.moveSent k lv) = true →
        Does i s (s.dev.collEnd k { Result.fresh with
          status := if k.bad.isSome then .poisoned else .done, progress := k.progress, addr := k.bad.getD 0 })))

/-- R283: a staging buffer of a PERMUTE that holds data, all of whose conflicting moves have been sent, is copied into the tensor
and is free again; with none such nothing changes. R295: a group of which a member has not been heard 1 ms after EN = 1 loses
it; before, or with all of them heard, nothing changes. R277: EN = 1 of a group whose registers meet R277 enables it: its
number of members and its rank are shown, its collectives count from 0, and it is READY at once exactly when it has no remote
device; with registers that do not, COL_ERR.CFG is set and it stays disabled; while EN = 1 another EN = 1 changes nothing, and
EN = 0 disables it, clears READY and forgets what has arrived for it. -/
def Obligations.GroupsEnableDisableAndLoseMembers : Prop :=
  (∀ (s : State) (c : CmdRef) (x : Inflight) (k : CollSt) (z : PermSt) (p : Fin 8) (g : Fin 64) (st : GroupSt) (m : Nat),
    let lv := s.dev.levels k.part k.group
    let held (b : Nat) : List (Nat × Nat × Nat) := z.bufs.filter (fun e => e.1 / z.size = b)
    let gone (b : Nat) : Prop := held b ≠ [] ∧ ∀ e ∈ held b, ∀ o ∈ z.outs, meets o.off o.len e.2.1 e.2.2 = true →
      s.dev.moveSent k lv o = true
    let key := p.val * 64 + g.val
    let w := s.dev.rd (rColGState p g)
    (s.dev.cmd? c = some x → x.cls = 2 → x.op = 4 → x.phase = .working → s.dev.coll? x.q x.i = some k → k.perm = some z →
      (∀ b, (b = 0 ∨ (b = 1 ∧ ¬gone 0)) → gone b → RunsOrWaits (.permuteBufferCopy c) s (fun t => ∃ y,
        t.coll? x.q x.i = some { k with bad := y, perm := some { z with bufs := z.bufs.filter (fun e => e.1 / z.size ≠ b) } })) ∧
      (¬gone 0 → ¬gone 1 → Does (.permuteBufferCopy c) s s.dev)) ∧
    (sget (fun _ => none) s.dev.col.groups key = some st →
      (s.dev.now < st.enAt + 1000000 → Does (.groupMemberTimeout p g) s s.dev) ∧
      ((∀ m ∈ s.dev.remotes p g, m ∈ st.heard) → Does (.groupMemberTimeout p g) s s.dev) ∧
      (st.enAt + 1000000 ≤ s.dev.now → (s.dev.remotes p g).find? (fun c => !st.heard.contains c) = some m →
        Does (.groupMemberTimeout p g) s (s.dev.groupLose p g m)) ∧
      (st.enAt + 1000000 ≤ s.dev.now → (s.dev.remotes p g).find? (fun c => !st.heard.contains c) = some m → bitOf 1 w = false →
        s.dev.epochSt p = none → RunsOrWaits (.groupMemberTimeout p g) s (fun t =>
          bitOf 1 (t.rd (rColGState p g)) = true ∧ fld 31 16 (t.rd (rColGState p g)) = m % 65536 ∧
          (s.dev.col.colls.all (fun k => !(k.part = p.val && k.group = g.val)) = true → t.mem = s.dev.mem) ∧
          ∀ k ∈ t.col.colls, ¬(k.part = p.val ∧ k.group = g.val))))) ∧
  (∀ (s : State) (o : Origin) (p : Fin 8) (g : Fin 64) (v : Word), Reaches s.dev o (rColGCtl p g) →
    let d := s.dev.wr (rColGCtl p g) (BitVec.ofNat 32 (fld 15 8 v * 256 + fld 18 16 v * 65536))
    let l := d.levels p g
    let key := p.val * 64 + g.val
    let off (w : Word) : Word := setBit 0 false w
    (s.dev.groupOn p g = false → d.groupOk p g = true → Runs (.groupEnable o p g v) s (fun t =>
      t.groupOn p g = true ∧ t.rd (rColGColls p g) = 0 ∧
      t.rd (rColGInfo p g) = BitVec.ofNat 32 (l.n - 1 + 65536 * l.own d.coord p) ∧
      bitOf 0 (t.rd (rColGState p g)) = (d.remotes p g).isEmpty ∧ bitOf 1 (t.rd (rColGState p g)) = false ∧
      sget (fun _ => none) t.col.groups key = some ⟨[], s.dev.now⟩ ∧
      OnlyRegs { s.dev with col := t.col } t
        [rColGCtl p g, rColGInfo p g, rColGSig p g, rColGState p g, rColGColls p g])) ∧
    (s.dev.groupOn p g = false → d.groupOk p g = false → Does (.groupEnable o p g v) s (d.colErr 2 p g d.coord)) ∧
    (s.dev.groupOn p g = false → Does (.groupDisable o p g v) s d) ∧
    (s.dev.groupOn p g = true → Does (.groupEnable o p g v) s s.dev ∧
      Does (.groupDisable o p g v) s { ((s.dev.wr (rColGCtl p g) (off (s.dev.rd (rColGCtl p g)))).wr (rColGState p g)
        (off (s.dev.rd (rColGState p g)))) with
        col := { s.dev.col with
          groups := sset (fun _ => none) s.dev.col.groups key none,
          arrivals := s.dev.col.arrivals.filter (fun a => !(a.part = p.val && a.group = g.val)) } }))

/-! ## Links (12) -/

/-- R285, R286, R289, R292: a trained port enters HELLO and greets; a port in HELLO greets again, unless the device has withdrawn;
a HELLO that is taken is shown as the partner's; one that COL does not expect makes the port MISWIRED, and one that it expects
brings it UP once the partner has received the port's own HELLO, and until then leaves it in HELLO; eight RETRYs in a row of one
SEQ retrain the port, any other sends the unacknowledged flits again from SEQ; retraining that fails, and a port that goes down,
leave it DOWN with LNK_ERR.DOWN. -/
def Obligations.PortsTrainGreetAndGoDown : Prop :=
  ∀ (s : State) (p : Fin 24) (f : FlitHdr) (h : Hello),
    let d := s.dev
    let u := d.port p
    let st := d.portState p
    let w : Word := BitVec.ofNat 32 (h.coord.toNat + 65536 * h.port.toNat)
    let expected : Prop := w = d.rd (rLnkExpect p)
    let greeted : Dev := (d.setPort p { u with helloSent := true }).portSend p {
      vc := 5, dest := d.rdFld (rLnkExpect p) 15 0, hub := p.val / 12, poison := false,
      kind := .hello ⟨BitVec.ofNat 64 (d.rd64 rLockSerialLo), BitVec.ofNat 16 d.coord, BitVec.ofNat 5 p, false, 1⟩ }
    let left := u.unacked.filter (fun e => !seqLe e.1 f.ack.toNat)
    let again := left.filter (fun e => seqLe f.seq.toNat e.1)
    let bare : Prop := d.portEth p = false ∧ d.takes p .bare = true ∧ f.crcOk = true ∧ f.fec ≠ .bad
    let down : Prop := RunsOrWaits (.portDown p) s (fun t => t.portState p = 0 ∧ bitOf 3 (t.rd (rLnkErr p)) = true ∧
      t.port p = { PortSt.reset with paused := u.paused, silent := u.silent })
    (d.portOn p = true → st ≤ 1 → Does (.portTrained p) s ((d.setPortState p 2).sayHello p)) ∧
    ((d.portOn p = false ∨ 2 ≤ st) → Does (.portTrained p) s d) ∧
    (st = 2 → d.withdrawn = false → Does (.helloRepeat p) s greeted) ∧
    ((st ≠ 2 ∨ d.withdrawn = true) → Does (.helloRepeat p) s d) ∧
    (FlitOk d p f .hello →
      Does (.hello p f h) s ((taken d p f 1).accept p f .hello 16 none (fun d => d.helloIn p h)) ∧
      RunsOrWaits (.hello p f h) s (fun t =>
        t.rd (rLnkPartner p) = w ∧ t.rd64 (rLnkPartnerSerLo p) = h.serial.toNat ∧ t.portSwitch p = h.switch ∧
        (¬expected → t.portState p = 4) ∧ (expected → st = 3 → t.portState p = 3) ∧
        (expected → st ≠ 3 → t.portState p = 3 ∨
          (t.portState p = 2 ∧ (t.port p).helloGot = true ∧ (t.port p).greeted = false)) ∧
        (expected → d.portEth p = false → u.helloSent = true → u.wait = [] → (∀ e ∈ left, e.2.2.isHello = false) →
          t.portState p = 3))) ∧
    (st ≤ 1 → Does (.hello p f h) s d) ∧
    (bare → Does (.retry p f) s (d.accept p f .bare 0 none (fun d => d.replay p f.seq.toNat))) ∧
    (bare → d.portUp p = true → u.retryNo = 7 → u.retrySeq = f.seq.toNat → RunsOrWaits (.retry p f) s (fun t =>
      t.portState p = 1 ∧ t.rd (rLnkRetrain p) = satAdd32 (d.rd (rLnkRetrain p)) 1 ∧ bitOf 2 (t.rd (rLnkErr p)) = true)) ∧
    (bare → d.portUp p = true → (u.retryNo ≠ 7 ∨ u.retrySeq ≠ f.seq.toNat) → u.wait = [] →
      (f.src.toNat = d.coord ∨ Known d f.src.toNat) → Runs (.retry p f) s (fun t =>
        (∃ l : List Sent, t.sent = d.sent ++ l ∧ l.map (fun m => match m with
            | .flit q h o k => some (q, h.seq, o, k)
            | _ => none) = again.map (fun e => some (p.val, e.1, some e.2.2, e.2.1))) ∧
        (t.port p).unacked = left ∧ (t.port p).retrySeq = f.seq.toNat ∧ t.portState p = 3 ∧ t.mem = d.mem)) ∧
    ((d.portEth p = true ∨ d.takes p .bare = false) → Does (.retry p f) s d) ∧
    (st = 1 → RunsOrWaits (.retrainTimeout p) s (fun t => t.portState p = 0 ∧ bitOf 3 (t.rd (rLnkErr p)) = true)) ∧
    (st ≠ 1 → Does (.retrainTimeout p) s d) ∧ (st ≠ 0 → down) ∧ (st = 0 → Does (.portDown p) s d)

/-- R280, R287 to R290: a port takes flits in the states that carry them, and no others. On a Dreuri port an IDLE frees what it
acknowledges and returns its credits; a flit whose CRC fails is asked for again, once, and one in an uncorrectable codeword is
counted and asked for again. On an Ethernet port a CTRL frees its message, one not acknowledged is sent again until its eighth
resend, after which its destination is silent on the port and the port holds none of its messages, and a pause frame pauses or
resumes the priorities of its mask. A DATA message that is wanted enters its stage, each byte with the poison of the flit that
brought it, any other enters none; an Ethernet port acknowledges it. -/
def Obligations.FlitsAreTakenAndSentAgain : Prop :=
  ∀ (s : State) (p : Fin 24) (f : FlitHdr) (m : MsgHdr) (bytes : List Byte) (bad : List Nat) (msg : Nat) (e : Nat × Nat × OutMsg)
      (prios : BitVec 8) (pause : Bool),
    let d := s.dev
    let u := d.port p
    let up := d.portUp p = true
    let eth := d.portEth p
    let n := 16 + bytes.length
    let a : Arrival := {
      part := m.part, group := m.group, number := m.number, op := m.op.toNat, flags := m.flags, n := m.n, stage := m.stage.toNat,
      half := m.half.toNat, rank := m.rank, off := m.off.toNat, bytes := flitMarks f bytes bad }
    let crc : Dev := (d.lnkErr p 1).flw 4 1 (portSrc p) 0
    let lost : Dev := ((d.lnkErr p 0).flw 4 0 (portSrc p) 0).addSat (rLnkFecUncorr p) 1
    let asked (d : Dev) : Dev := ((d.setPort p { u with discarding := true }).addSat (rLnkRetry p) 1).emit p 6 0 true 0 u.rxSeq false
      (d.portPartner p) none 0
    (d.takes p .bare = false → Does (.idle p f) s d ∧ Does (.ctrl p f msg) s d) ∧
    (d.takes p .traffic = false → Does (.data p f m ⟨bytes, bad⟩) s d) ∧
    (up → eth = false → f.crcOk = true → f.fec ≠ .bad → u.discarding = false → u.wait = [] →
      (f.src.toNat = d.coord ∨ Known d f.src.toNat) → Runs (.idle p f) s (fun t =>
        (t.port p).unacked = u.unacked.filter (fun e => !seqLe e.1 f.ack.toNat) ∧
        (t.port p).credits = u.credits.modify f.cvc (fun n => min 64 (n + f.credits.toNat)) ∧
        (t.port p).rxSeq = u.rxSeq ∧ t.mem = d.mem)) ∧
    (up → eth = false → f.crcOk = false → f.fec ≠ .bad →
      (u.discarding = false → Does (.data p f m ⟨bytes, bad⟩) s (asked crc)) ∧
      (u.discarding = true → Does (.data p f m ⟨bytes, bad⟩) s crc)) ∧
    (up → eth = false → f.crcOk = true → f.fec = .bad →
      (u.discarding = false → Does (.data p f m ⟨bytes, bad⟩) s (asked lost)) ∧
      (u.discarding = true → Does (.data p f m ⟨bytes, bad⟩) s lost)) ∧
    (up → eth = true → f.crcOk = true → f.fec ≠ .bad → RunsOrWaits (.ctrl p f msg) s (fun t =>
      (t.port p).unacked = u.unacked.filter (·.1 ≠ msg) ∧ (t.port p).wait = u.wait)) ∧
    (up → eth = true → u.unacked.find? (·.1 = msg) = some e →
      (e.2.1 < 8 → Does (.resendTimeout p msg) s
        ((((d.setPort p { u with unacked := u.unacked.map (fun v => if v.1 = msg then (v.1, v.2.1 + 1, v.2.2) else v) }).lnkErr p 6).flw
          4 6 (portSrc p) 0).sendFrames p msg e.2.2)) ∧
      (8 ≤ e.2.1 → Runs (.resendTimeout p msg) s (fun t => e.2.2.dest ∈ (t.port p).silent ∧
        (∀ v ∈ (t.port p).unacked, v.2.2.dest ≠ e.2.2.dest) ∧ (∀ v ∈ (t.port p).wait, v.1.dest ≠ e.2.2.dest) ∧ t.mem = d.mem))) ∧
    (up → eth = true → Runs (.priorityFlowControl p prios pause) s (fun t =>
      (∀ k < 8, (t.port p).paused.testBit k = if prios.toNat.testBit k then pause else u.paused.testBit k) ∧ t.mem = d.mem)) ∧
    (FlitOk d p f .traffic →
      Does (.data p f m ⟨bytes, bad⟩) s ((taken d p f (cdiv n 240)).accept p f .traffic n none (fun d => d.dataIn m (flitMarks f bytes bad))) ∧
      (d.wanted m.part m.group m.number = true → RunsOrWaits (.data p f m ⟨bytes, bad⟩) s (fun t => a ∈ t.col.arrivals)) ∧
      (d.wanted m.part m.group m.number = false → RunsOrWaits (.data p f m ⟨bytes, bad⟩) s (fun t => t.col.arrivals = d.col.arrivals)) ∧
      (eth = true → RunsOrWaits (.data p f m ⟨bytes, bad⟩) s (fun t =>
        (∃ o ∈ (t.port p).wait, o.1.kind = .ctrl f.seq.toNat) ∨ ∃ x hs o, Sent.frame p x hs o ∈ t.sent ∧ o.kind = .ctrl f.seq.toNat)))

/-- R277, R293, R295: a heartbeat from another device shows it ALIVE with its serial number, heard now; the device's own go out on
the port of every direct partner that is UP, unless it has withdrawn; an ALIVE device not heard for COL_HB_MISS becomes LOST,
counted once, and every enabled group of which it is a remote member has lost it. -/
def Obligations.HeartbeatsKeepPartnersAlive : Prop :=
  ∀ (s : State) (p : Fin 24) (f : FlitHdr) (serial : DWord) (sigs : List (Fin 8 × Fin 64 × Word)) (co : BitVec 16),
    let d := s.dev
    let c := co.toNat
    let e := d.partner c
    (FlitOk d p f .traffic → Does (.heartbeat p f serial sigs) s
      ((taken d p f 1).accept p f .traffic 240 (some serial.toNat) (fun d => d.heartbeatIn f.src.toNat sigs))) ∧
    (FlitOk d p f .traffic → f.src.toNat ≠ d.coord → RunsOrWaits (.heartbeat p f serial sigs) s (fun t =>
      (t.partner f.src.toNat).state = 1 ∧ (t.partner f.src.toNat).serial = serial.toNat ∧ (t.partner f.src.toNat).heardAt = d.now)) ∧
    (d.withdrawn = true → Does .heartbeatSend s d) ∧
    (d.withdrawn = false → Runs .heartbeatSend s (fun t =>
      (∀ q : Fin 24, d.portUp q = true → d.portSwitch q = false → ∃ sg, let o : OutMsg := {
          vc := 5, dest := d.portPartner q, hub := q.val / 12, poison := false, kind := .heartbeat (d.rd64 rLockSerialLo) sg }
        (∃ j, (o, j) ∈ (t.port q).wait) ∨ (∃ h, Sent.flit q h (some o) 0 ∈ t.sent) ∨ ∃ x hs, Sent.frame q x hs o ∈ t.sent) ∧
      t.mem = d.mem)) ∧
    (e.state = 1 → e.heardAt + d.hbLimit ≤ d.now → RunsOrWaits (.partnerLoss co) s (fun t => (t.partner c).state = 2 ∧
      t.rd rColLossCount = satAdd32 (d.rd rColLossCount) 1 ∧
      ∀ g ∈ d.groupsOn, g.1 < 8 → c ∈ d.remotes g.1 g.2 → bitOf 1 (t.rd (rColGState g.1 g.2)) = true)) ∧
    ((e.state ≠ 1 ∨ d.now < e.heardAt + d.hbLimit) → Does (.partnerLoss co) s d)

/-! ## Time (12), withdrawal (13) and holdover (14) -/

/-- R296: on a device that is not its rack's master, a TIME flit of the master that is taken shows its offset, sets TLOCK, steps the
timestamp at the first lock and is slewed away afterwards; one of any other device changes none of this, and a master answers
one and changes none of it. Such a device's own exchange goes to the master. A master with PTP follows its grandmaster; without
lock the timestamp runs free, with COL_ERR.TIME. The master's coordinate is the image's (the model's choice, log 17). -/
def Obligations.TheTimestampFollowsItsReference : Prop :=
  ∀ (s : State) (p : Fin 24) (f : FlitHdr) (ofs : Int) (q : Nat),
    let d := s.dev
    let master := bitOf 0 (d.rd rColTsyncCfg)
    let follows : Prop := d.rdFld rColTsyncCfg 1 0 = 3 ∧ d.portUp p = true ∧ d.portRole p = 2 ∧ d.portEth p = true
    let off := { d with regs := (d.setTlock false).regs, col := { d.col with time := { d.col.time with slew := 0 } } }
    let o : OutMsg := { vc := 5, dest := d.timeMaster, hub := 0, poison := false, kind := .time }
    (FlitOk d p f .traffic →
      Does (.time p f ofs) s ((taken d p f 1).accept p f .traffic 240 none (fun d => d.timeIn p f.src.toNat ofs)) ∧
      (master = false → f.src.toNat = d.timeMaster → RunsOrWaits (.time p f ofs) s (fun t =>
        t.rd rColTsyncOfs = BitVec.ofInt 32 ofs ∧ bitOf 11 (t.rd rColStatus) = true ∧ bitOf 1 (t.rd rTsStatus) = true ∧
        (d.col.time.locked = false → t.now = ((d.now : Int) + ofs).toNat % 2 ^ 64 ∧ t.col.time.locked = true) ∧
        (d.col.time.locked = true → t.now = d.now ∧ t.col.time.slew = ofs))) ∧
      ((master = true ∨ f.src.toNat ≠ d.timeMaster) → RunsOrWaits (.time p f ofs) s (fun t =>
        t.now = d.now ∧ t.col.time = d.col.time ∧ t.rd rColTsyncOfs = d.rd rColTsyncOfs))) ∧
    (master = true → Does .timeSend s d) ∧
    (master = false → (d.routes 0 d.timeMaster).head? = none →
      Does .timeSend s { d with col := { d.col with unsent := d.col.unsent ++ [o] } }) ∧
    (master = false → (d.routes 0 d.timeMaster).head? = some q → Does .timeSend s (d.portSend q o) ∧
      Runs .timeSend s (fun t => t.mem = d.mem ∧
        ((∃ j, (o, j) ∈ (t.port q).wait) ∨ (∃ h, Sent.flit q h (some o) 0 ∈ t.sent) ∨ ∃ x hs, Sent.frame q x hs o ∈ t.sent))) ∧
    (follows → Does (.ptpMessage p ofs) s (d.align ofs)) ∧ (¬follows → Does (.ptpMessage p ofs) s d) ∧
    (bitOf 11 (d.rd rColStatus) = true → Does .timeLockLoss s (off.colErr 5 0 0 d.coord)) ∧
    (bitOf 11 (d.rd rColStatus) = false → Does .timeLockLoss s d)

/-- R306: a withdrawal sets its flag and its cause, completes every command that waits in an enabled queue as not started, writes
a record in Flowstone and one in the ledger; a device that has withdrawn stays as it is. R174: a withdrawal for an HBM
controller also fences it: its scrubber stops. R317, R319: the end of a holdover makes the reference LOST; SYSSEL is SYSREF0
while it is healthy, stays on a reference whose holdover runs, else is SYSREF1 while it is healthy, and the internal oscillator
when there is none; a PCIe reference takes its port's link down, and a link reference its hub's ports. -/
def Obligations.DevicesWithdrawAndHoldoversEnd : Prop :=
  ∀ (s : State) (k : Fin 9) (ctrl : Option (Fin 24)) (c : Fin 24) (n : Fin 6),
    let d := match ctrl with
      | some c => if k.val = 1 then (s.dev.fenceCtrl c).scrubStat (8 + (ctrlStack c).1) else s.dev
      | none => s.dev
    let w := s.dev.rd rTopStatus
    let v := { (d.wr rTopStatus (setFld 10 7 k (setBit 6 true w))) with mgmt := { d.mgmt with wd := some (d.mgmt.enable, k.val) } }
    let cur := s.dev.rdFld rClkStatus 1 0
    let x := (s.dev.wr rClkStatus (setBit (8 + n.val) true (setBit (2 + n.val) false (s.dev.rd rClkStatus)))).sysSel
    (bitOf 6 w = false → Does (.deviceWithdraw ⟨k, ctrl⟩) s
      ((((v.enabledQueues.foldl (fun d q => d.flush q 0) v).flw 5 0x31 (srcOf .mgmt) k).ledger 10 (srcOf .mgmt) 0 4 0))) ∧
    (bitOf 6 w = true → Does (.deviceWithdraw ⟨k, ctrl⟩) s d) ∧
    (bitOf 6 w = false → v.enabledQueues = [] → Runs (.deviceWithdraw ⟨k, ctrl⟩) s (fun t =>
      t.withdrawn = true ∧ t.rdFld rTopStatus 10 7 = k.val ∧ t.mem = d.mem ∧ t.queue = d.queue)) ∧
    (k.val = 1 → ctrl = some c → RunsOrWaits (.deviceWithdraw ⟨k, ctrl⟩) s (fun t =>
      t.scrubOn (8 + c) = false ∧ bitOf 2 (t.rd (pgReg (8 + (ctrlStack c).1) 0)) = true)) ∧
    (s.dev.refHold n = false → Does (.clkHoldoverEnd n) s s.dev) ∧
    (s.dev.refHold n = true → (n.val < 2 ∧ x.rdFld rClkStatus 1 0 = 2) →
      Does (.clkHoldoverEnd n) s (((x.wr rClkErr (setBit 2 true (x.rd rClkErr))).flw 5 2 (clkSrc n) 0).withdraw 4)) ∧
    (s.dev.refHold n = true → (2 ≤ n.val ∨ x.rdFld rClkStatus 1 0 ≠ 2) → RunsOrWaits (.clkHoldoverEnd n) s (fun t =>
      t.refLost n = true ∧ t.refHold n = false ∧ (∀ m, m ≠ n.val → m < 6 → t.refLost m = s.dev.refLost m) ∧
      t.rdFld rClkStatus 1 0 = (if t.refOk 0 = true then 0 else if cur < 2 ∧ t.refHold cur = true then cur
        else if t.refOk 1 = true then 1 else 2) ∧
      (∀ q < 2, n.val = 2 + q → t.linkUp q = false) ∧ ∀ q < 24, n.val = 4 + q / 12 → t.portState q = 0))

/-! ## Clocks, power and sequencing (14, 18) -/

/-- R318, R319: a monitor window counts its glitches, shows the offset, and returns a reference within 500 ppm to service; an
offset beyond it, or an edge that does not come, makes the reference's PLLs hold. R320, R323, R327: an idle core's clock is
gated, then its power; a die naps; R324: a gating step that would put more than PWR_SLEW units of a rail to sleep in one
microsecond does not run; credits refill up to the rail's cap; a grant takes its cost from them; a unit that is awake
again runs; a wake sequence on a port ends IDLE, and in STANDBY begins a wake. -/
def Obligations.ClocksAndWakesFollowTheirRules : Prop :=
  ∀ (s : State) (n : Fin 6) (w : ClkWindow) (c : Fin 1536) (e : Fin 8) (col : Fin 192) (b : Fin 8) (r : Fin 16) (q : WakeReq) (p : Fin 24) (g : Dev),
    let d := s.dev
    let k := d.core c
    let idle : Prop := d.coreState c = 1 ∧ k.ents = [] ∧ k.held = [] ∧ k.launch = none
    let cs := (rangeFrom (192 * e) 192).filter (fun c => d.coreState c ≠ 0 && d.coreState c ≠ 5)
    let naps : Prop := d.inNap e = false ∧ (∀ c ∈ cs, d.coreState c = 4) ∧ d.kernelNear (d.partOfDie e) = false ∧ d.fenced e = false
    let waiting := bestBy (fun (v : WakeReq) => v.prio) (d.pwr.wakes.filter (fun v => wakeRail v.unit = r.val && d.wakeWaits v))
    let woken (u : WakeUnit) : Dev := { d with pwr := { d.pwr with wakes := d.pwr.wakes.filter (fun v => v.unit ≠ u) } }
    let found (u : WakeUnit) : Prop := d.pwr.wakes.find? (fun v => v.unit = u) = some q ∧ q.granted = true
    let risen := (woken (.die e)).wr rPwrStatus (setBit (8 + e.val) false (d.rd rPwrStatus))
    let asleep := d.rdFld rPwrStatus 1 0
    Runs (.clkMonitorWindow n w) s (fun t => t.rd (rClkPpm n) = BitVec.ofInt 32 w.ppm ∧
      (w.glitches ≠ 0 → bitOf 3 (t.rd rClkErr) = true) ∧
      (d.refHold n = false → t.rd (rClkGlitch n) = satAdd32 (d.rd (rClkGlitch n)) w.glitches) ∧
      (w.ppm.natAbs ≤ 500 → t.refHold n = false ∧ t.refLost n = false ∧
        t.rdFld rClkStatus 1 0 = (if t.refOk 0 = true then 0 else if d.rdFld rClkStatus 1 0 < 2 ∧ t.refHold (d.rdFld rClkStatus 1 0) = true
          then d.rdFld rClkStatus 1 0 else if t.refOk 1 = true then 1 else 2)) ∧
      (500 < w.ppm.natAbs → d.refLost n = false → t.refHold n = true ∧ bitOf 1 (t.rd rClkErr) = true) ∧
      t.mem = d.mem) ∧
    (d.refLost n = false → Does (.clkEdgeTimeout n) s
      ((d.wr rClkErr (setBit 1 true (d.rd rClkErr))).wr rClkStatus (setBit (2 + n.val) true (d.rd rClkStatus)))) ∧
    (d.refLost n = true → Does (.clkEdgeTimeout n) s d) ∧
    (idle → Does (.clockGate c) s (d.wrFld (rCoreStatus c) 2 0 3)) ∧ (¬idle → Does (.clockGate c) s d) ∧
    (d.coreState c = 3 → d.gateStep (c / 192) 8 = some g → Does (.powerGate c) s (g.wrFld (rCoreStatus c) 2 0 4)) ∧
    ((d.coreState c ≠ 3 ∨ d.gateStep (c / 192) 8 = none) → Does (.powerGate c) s d) ∧
    (naps → d.gateStep e 32 = some g → Does (.nap e) s (g.wr rPwrStatus (setBit (8 + e.val) true (d.rd rPwrStatus)))) ∧
    ((¬naps ∨ d.gateStep e 32 = none) → Does (.nap e) s d) ∧
    (∀ r m, d.gateStep r m = (if (if (sget (fun _ => (0, 0)) d.pwr.falls r).1 = d.now / 1000 then (sget (fun _ => (0, 0)) d.pwr.falls r).2
      else 0) + m ≤ d.slew r then some { d with pwr := { d.pwr with falls := sset (fun _ => (0, 0)) d.pwr.falls r (d.now / 1000,
        (if (sget (fun _ => (0, 0)) d.pwr.falls r).1 = d.now / 1000 then (sget (fun _ => (0, 0)) d.pwr.falls r).2 else 0) + m) } }
      else none)) ∧
    Runs (.wakeCreditRefill r) s (fun t => t.credit r = min (d.slew r) (d.credit r + d.slew r) ∧ t.mem = d.mem ∧
      ∀ m, m ≠ r.val → t.credit m = d.credit m) ∧
    (waiting = some q → wakeCost q.unit ≤ d.credit r → Does (.wakeGrant r) s
      ({ d with pwr := { d.pwr with
          wakes := mapIf (fun (v : WakeReq) => v.unit = q.unit) (fun v => { v with granted := true }) d.pwr.wakes
          credits := sset (fun _ => 256) d.pwr.credits r.val (d.credit r - wakeCost q.unit) } }.add64 rPwrWakeWaitLo (d.now - q.since))) ∧
    ((waiting = none ∨ (waiting = some q ∧ d.credit r < wakeCost q.unit)) → Does (.wakeGrant r) s d) ∧
    (found (.core c) → (d.coreState c = 3 ∨ d.coreState c = 4) →
      Does (.wakeComplete (.core c)) s ((woken (.core c)).wrFld (rCoreStatus c) 2 0 1)) ∧
    (found (.die e) → Does (.wakeComplete (.die e)) s (if asleep = 1 then (risen.wrFld rPwrStatus 1 0 0) else risen)) ∧
    (found (.bank e col b) → Does (.wakeComplete (.bank e col b)) s { (woken (.bank e col b)) with
      mem := { d.mem with retained := delNat ((e.val * 192 + col.val) * 8 + b.val) d.mem.retained } }) ∧
    (d.pwr.wakes.find? (fun v => v.unit = .die e) = none → Does (.wakeComplete (.die e)) s d) ∧
    (asleep = 2 → d.mgmt.wake = none → Does (.portWake p) s { d with mgmt := { d.mgmt with wake := some ⟨[p.val], 0⟩ } }) ∧
    (asleep = 1 → Does (.portWake p) s ((d.wrFld rPwrStatus 1 0 0).trainPort p)) ∧
    (asleep ≠ 1 → asleep ≠ 2 → Does (.portWake p) s (d.trainPort p))

/-- R325, R388: above PCAP every compute die's clock falls by 50 MHz and PWR_ERR.CAP is set, at 97 % of it or below it rises by 50
MHz up to the profile's ceiling; a hot die's clock falls by 50 MHz, a cool one's rises. R328: a poll shows a rail's telemetry;
a fault or a silent regulator sets PWR_ERR, is recorded, and acts on what the rail feeds. R329: a re-plan shows its time and,
for each cluster whose guard band is within AGE_LIMIT, its measurement. -/
def Obligations.CapsRailsAndAgeingAct : Prop :=
  ∀ (s : State) (o : Origin) (mw v hours : Word) (die : Fin 20) (r : Fin 34) (mv cur : BitVec 16) (rails : List (Fin 34 × RailState))
    (ages : List (Fin 96 × BitVec 16 × BitVec 8)),
    let d := s.dev
    let pf := profile d.profileNo
    let lim := fld 15 8 (d.rd rAgeCtl)
    let tele := d.wr (rPwrRail r) (BitVec.ofNat 32 (mv.toNat + 65536 * cur.toNat))
    let flag (d : Dev) (k : Nat) : Dev := d.wr rPwrErr (setBit k true (d.rd rPwrErr))
    let act (d : Dev) : Dev := if r.val < 16 then d.fenceDie (r.val % 8) else d.withdraw 6
    let shown (t : Dev) : Prop := t.rd rAgeLast = hours ∧ ∀ e ∈ ages,
      t.rd (rAgeCluster e.1) = BitVec.ofNat 32 (e.2.1.toNat + 65536 * e.2.2.toNat)
    let fits (lim : Nat) : Prop := (ages.map (·.1)).Nodup ∧ ∀ e ∈ ages, e.2.2.toNat ≤ lim
    Runs (.powerCapAdjust mw) s (fun t => t.rd rPwrPkgMw = mw ∧ t.mem = d.mem ∧ ∀ n < 8,
      (pf.1 * 1000 < mw.toNat → t.capClk n = max 50 (d.capClk n - 50) ∧ bitOf 2 (t.rd rPwrErr) = true) ∧
      (mw.toNat * 100 ≤ pf.1 * 1000 * 97 → t.capClk n = min pf.2 (d.capClk n + 50)) ∧
      (pf.1 * 1000 * 97 < mw.toNat * 100 → mw.toNat ≤ pf.1 * 1000 → t.capClk n = d.capClk n)) ∧
    Does (.thermalThrottle die) s (flag { d with pwr := { d.pwr with
      thrClk := sset (fun _ => 2000) d.pwr.thrClk die.val (max 50 (d.thrClk die - 50)) } } 2) ∧
    Does (.throttleRelease die) s { d with pwr := { d.pwr with
      thrClk := sset (fun _ => 2000) d.pwr.thrClk die.val (min 2000 (d.thrClk die + 50)) } } ∧
    Does (.pmbusPoll [(r, .ok mv cur)]) s tele ∧
    Does (.pmbusPoll [(r, .fault mv cur)]) s (act ((flag tele 0).flw 5 0 (srcOf .mgmt) r)) ∧
    Does (.pmbusPoll [(r, .noReply)]) s (act ((flag d 1).flw 5 1 (srcOf .mgmt) r)) ∧
    Does (.pmbusPoll rails) s (rails.foldl (fun d e => d.railPoll e.1 e.2) d) ∧
    (fits lim → Runs (.ageReplanTimer hours ages) s shown) ∧
    (Reaches d o rAgeCtl → fits (fld 15 8 v) → Runs (.replan o v hours ages) s (fun t => shown t ∧
      fld 15 8 (t.rd rAgeCtl) = fld 15 8 v))

/-- R332, R384, R385, R388: RESET_N or a low supply leaves the reset state but for fuses, flash and the fault ledger; its release
begins a power cycle, counted, with what flash and fuses keep. The rails come up step by step; a boot rail that fails stops
the boot in ROM, another is a rail fault. At 115 °C THERMTRIP_N falls, the rails go off and memory is lost. -/
def Obligations.PowerCyclesAndRailsSequence : Prop :=
  ∀ (s : State) (die : Fin 20) (r : Fin 34) (y : WakeTo),
    let d := s.dev
    let f := d.mgmt.flash
    let cycle (i : Instr) : Prop := ∃ u, Does i s u ∧ u.tier.stall = none ∧ (fun (t : Dev) =>
      t.bootState = 0 ∧ t.now = 0 ∧ t.pins.resetN = false ∧ t.pins.railsEn = false ∧ t.mem = MemSt.reset ∧ t.queue = QueueSt.reset ∧
      t.cores = [] ∧ t.launches = [] ∧ t.col = ColSt.reset ∧ t.mgmt.fuse = d.mgmt.fuse ∧ t.mgmt.flash = f ∧
      t.rcd.ledger = d.rcd.ledger ∧ ∀ off, isCopy off = false → t.rd off = Dev.reset.rd off) u.refresh
    let up := { d with pins := { d.pins with step := d.pins.step + 1 } }
    let ready : Prop := (d.bootState = 3 ∨ d.mgmt.wake ≠ none) ∧ d.pins.railsEn = true ∧ d.pins.step < 4
    let stops : Prop := d.bootState = 0 ∧ d.pins.railsEn = true ∧ bootRail r = true
    let act (d : Dev) : Dev := if r.val < 16 then d.fenceDie (r.val % 8) else d.withdraw 6
    cycle .resetNAssert ∧ cycle .vaonLow ∧
    (d.pins.resetN = true → Does .resetNRelease s d) ∧
    (d.pins.resetN = false → Runs .resetNRelease s (fun t => t.pins.resetN = true ∧ t.pins.railsEn = true ∧ t.now = 0 ∧
      t.rd rBootCycles = f.cycles + 1 ∧ t.mgmt.flash = { f with cycles := f.cycles + 1 } ∧ t.rd rBootOpsec = f.opsec ∧
      t.rd64 rBootRseqLo = f.rseq % 2 ^ 64 ∧ fld 31 16 (t.rd rBootSecver) = d.mgmt.fuse.floor % 65536 ∧
      t.rd64 rLockSerialLo = d.mgmt.fuse.serial % 2 ^ 64 ∧ fld 9 8 (t.rd rTopId) = d.mgmt.fuse.lid % 4 ∧ t.rd rFlwSeq = f.nextSeq)) ∧
    Runs (.thermtrip die) s (fun t => t.pins.thermtripN = false ∧ t.pins.railsEn = false ∧ t.pins.step = 0 ∧ t.mem.cells = [] ∧
      t.mem.poison = []) ∧
    (¬ready → Does .railPowerGood s d) ∧
    (ready → (d.mgmt.wake = none ∨ d.pins.step < 3) → Does .railPowerGood s up) ∧
    (ready → d.mgmt.wake = some y → d.pins.step = 3 → Does .railPowerGood s
      (y.ports.foldl (fun d p => d.trainPort p) ({ up with mgmt := { d.mgmt with wake := none } }.wrFld rPwrStatus 1 0 y.state))) ∧
    (stops → Does (.railTimeout r) s { d with pins := { d.pins with bootStop := true } }) ∧
    (¬stops → ready → railStep r = d.pins.step + 1 → Does (.railTimeout r) s
      (act ((d.wr rPwrErr (setBit 0 true (d.rd rPwrErr))).flw 5 0 (srcOf .mgmt) r))) ∧
    (¬stops → (¬ready ∨ railStep r ≠ d.pins.step + 1) → Does (.railTimeout r) s d)

/-! ## Boot and management (15) -/

/-- R331 to R337: the ROM ends in the READ state unless a boot rail failed, READ ends in VERIFY; a copy that passes every check is
shown with its length, version and digest and its registers are loaded; one that fails gives way to the fallback, and the
fallback's failure to FAIL, each with its cause; CONFIG ends, once the rails are on, with the sections in effect and in
training, and fences the dies that the enable map leaves out; the end of training makes the device READY, with every core of
the enable map that passed its self-test in service and those outside it ABSENT. R343: the twin takes over once, and the
request in progress, where one is, completes with TAKEOVER and has no effect. -/
def Obligations.BootRunsToReadyOrFail : Prop :=
  ∀ (s : State) (answers : Bool) (c : Nat) (t0 : TrainResult) (lo hi len cap : Word) (rest : List Word),
    let d := s.dev
    let b := d.bootState
    let k := d.bootCopy
    let img := d.mgmt.flash.image k
    let run := d.mgmt.flash.image (d.rdFld rBootState 4 4)
    let twin := ((d.wrFld rBootState 6 6 1).wrFld rFlwStatus 0 0 1).flw 0 0x10 (srcNo 17 0x070) 0
    let go : Prop := d.pins.resetN = true ∧ d.pins.railsEn = true ∧ d.pins.bootStop = false
    (b = 0 → go → Runs .bootRomDone s (fun t => t.bootState = 1 ∧ t.mem = d.mem ∧ (bitOf 2 (d.rd rLockStatus) = false →
      ∀ i < 8, t.rd (rLockNonce i) = Config.nonceWord (d.free + i)))) ∧
    ((b ≠ 0 ∨ ¬go) → Does .bootRomDone s d) ∧
    (b = 1 → Does .bootReadDone s ((d.wrFld rBootState 3 0 2).flw 0 2 (srcOf .mgmt) 0)) ∧ (b ≠ 1 → Does .bootReadDone s d) ∧
    (b ≠ 2 → Does (.bootVerifyDone answers) s d) ∧
    (b = 2 → d.bootCheck answers k = 0 → Runs (.bootVerifyDone answers) s (fun t => t.bootState = 3 ∧
      t.rdFld rBootState 4 4 = k ∧ t.rd rBootImglen = BitVec.ofNat 32 (imgLen img) ∧ fld 15 0 (t.rd rBootSecver) = imgSecver img % 65536 ∧
      (∀ i < 12, t.rd (rBootDigest i) = BitVec.ofNat 32 (leAt (Config.sha384 img) (4 * i) 4)) ∧ t.mem = d.mem)) ∧
    (b = 2 → d.bootCheck answers k = c → c ≠ 0 → k = 0 → Runs (.bootVerifyDone answers) s (fun t => t.bootState = 1 ∧
      t.bootCopy = 1 ∧ t.rdFld rBootState 15 8 = c ∧ t.mem = d.mem)) ∧
    (b = 2 → d.bootCheck answers k = c → c ≠ 0 → k = 1 → Runs (.bootVerifyDone answers) s (fun t => t.bootState = 6 ∧
      t.rdFld rBootState 23 16 = c ∧ t.mem = d.mem)) ∧
    ((b ≠ 3 ∨ d.pins.step ≠ 4) → Does .bootConfigDone s d) ∧
    (b = 3 → d.pins.step = 4 → RunsOrWaits .bootConfigDone s (fun t => t.bootState = 4 ∧
      ∀ n < 8, n ∈ (Config.enableInfo (imgSection run 2)).diesOff → d.mgmt.wd = none → t.fenced n = true)) ∧
    (b = 3 → d.pins.step = 4 → d.mgmt.wd = none → Runs .bootConfigDone s (fun t => t.bootState = 4 ∧
      t.mgmt = { d.mgmt with lock := imgSection run 9, enable := imgSection run 2, ports := imgSection run 4 } ∧
      t.rdFld rSmpStatus 18 17 = Config.sumpSize (imgSection run 6) % 4)) ∧
    (b ≠ 4 → Does (.bootTrainDone t0) s d) ∧
    (b = 4 → t0.hbmFailed = [] → t0.noRepair = false → t0.ages = [] → t0.sumpFailed = [] → Runs (.bootTrainDone t0) s (fun t =>
      t.bootState = 5 ∧ t.rd rBootTReady = BitVec.ofNat 32 (d.now / 1000) ∧
      t.rd rSmpStatus = BitVec.ofNat 32 (0xFFFF + (if d.rdFld rSmpStatus 18 17 = 0 then 0 else 65536) +
        2 ^ 17 * d.rdFld rSmpStatus 18 17) ∧
      (∀ k : Fin 1536, k ∉ t0.coreFailed → d.fenced (k.val / 192) = false →
        k.val ∉ (Config.enableInfo d.mgmt.enable).coresOff → t.coreState k = 1) ∧
      (∀ k : Fin 1536, (k.val ∈ (Config.enableInfo d.mgmt.enable).coresOff ∨ d.fenced (k.val / 192) = true) → t.coreState k = 0) ∧
      t.mem = d.mem)) ∧
    (bitOf 6 (d.rd rBootState) = true → Does .twinTakeover s d) ∧
    (bitOf 6 (d.rd rBootState) = false → Config.requestTaken twin.free = false → Does .twinTakeover s twin.fresh.2) ∧
    (bitOf 6 (d.rd rBootState) = false → Config.requestTaken twin.free = true → descriptor (twin.mbxWords 0 0) = some ((lo, hi, len, cap), rest) →
      (b = 5 ∨ b = 6) → let r := twin.fresh.2.readReqAt lo hi len cap
      Does .twinTakeover s ((((r.2.setMbx 0 0 rest).mbxClear 0 0x40000000).reqLog r.1 6).reqReply r.1 6 []))

/-- R339 to R342, R352: in READY and FAIL the request whose descriptor stands first in channel 0's queue 0 is taken. One that is refused, or that
cannot be performed, is logged with its result code, which is its reply; one that is performed is logged before it takes
effect, a signed one saves its RSEQ, and its reply follows. A request of another kind waits. R20, R23, R304, R308, R326, R341:
what each request does. LAYOUT puts a legal layout into effect, and refuses one over partitions in use; FENCE_DIE fences its
die; RECOORD gives the device a new coordinate while every queue is empty; POWER_STATE reaches ON, or a deeper state that can
be entered; IMAGE_WRITE writes a good image into its copy; SECVER raises the fused floor to the running image's and never
lowers it; REGLIST refuses an entry that is not in Table 15-4's sections; the reads answer their records. Words without START
are dropped, and four words of which only the first has bit 0 set are a descriptor. -/
def Obligations.ManagementRequestsAreServedWithTheirEffects : Prop :=
  (∀ (s : State) (code : Nat) (i : Instr) (f : MgmtReq → Dev → Performed) (lo hi len cap : Word) (rest : List Word) (e : Nat) (d2 d4 : Dev)
    (out : List Byte),
    (code, i, f) ∈ [(1, Instr.layout, doLayout), (2, .fenceDie, doFenceDie), (3, .recoord, doRecoord), (4, .powerState, doPowerState),
      (5, .imageWrite, doImageWrite), (6, .secver, doSecver), (7, .reglist, doReglist), (0x10, .ledgerRead, doLedgerRead),
      (0x11, .logRead, doLogRead), (0x12, .status, doStatus)] →
    (s.dev.bootState = 5 ∨ s.dev.bootState = 6) → descriptor (s.dev.mbxWords 0 0) = some ((lo, hi, len, cap), rest) →
    let r := s.dev.readReqAt lo hi len cap
    let q := r.1
    let d := (r.2.setMbx 0 0 rest).mbxClear 0 0x40000000
    let key := if reqSigned q.code then d.credential q.pub else 0
    let log (d : Dev) (result : Nat) : Dev := d.changeLog q.src (q.code % 256) result key q.rseq (Config.sha384 q.body)
    let saved : Dev := if reqSigned q.code then ({ d with mgmt := { d.mgmt with
        flash := { d.mgmt.flash with rseq := q.rseq } } }).wr64 rBootRseqLo q.rseq else d
    (q.ok = true → reqCode q.code = true → q.code ≠ code → Does i s s.dev) ∧
    ((q.ok = false ∨ reqCode q.code = false) → Does i s ((log d 5).reqReply q 5 [])) ∧
    (q.ok = true → q.code = code → d.reqRefused q = e → e ≠ 0 → Does i s ((log d e).reqReply q e [])) ∧
    (q.ok = true → q.code = code → d.reqRefused q = 0 → f q d = .error e → Does i s ((log d e).reqReply q e [])) ∧
    (q.ok = true → q.code = code → d.reqRefused q = 0 → f q d = .ok (d2, out) → out.length ≤ q.cap →
      f q (log saved 0) = .ok (d4, out) → Does i s (d4.reqReply q 0 out))) ∧
  (∀ (lo hi len cap : Word) (t : List Word),
    (bitOf 0 lo = false → descriptor (lo :: t) = descriptor t) ∧
    (bitOf 0 lo = true → bitOf 0 hi = false → bitOf 0 len = false → bitOf 0 cap = false →
      descriptor (lo :: hi :: len :: cap :: t) = some ((lo, hi, len, cap), t))) ∧
  (∀ (d n : Dev) (r : MgmtReq) (v : Nat),
    let l := loadList r.payload
    let word : Prop := r.payload.length = 4 ∧ leAt r.payload 0 4 = v
    let copy := leAt r.payload 0 4
    let img := r.payload.drop 4
    (r.payload.length % 16 = 0 → l.all entryOk = true → d.loadLayout l = some n →
      (d.partsQuiet (d.affected n l) = true → doLayout r d = .ok (n, [])) ∧
      (d.partsQuiet (d.affected n l) = false → doLayout r d = .error 4)) ∧
    (d.loadLayout l = none → doLayout r d = .error 5) ∧
    (word → v < 8 → doFenceDie r d = .ok (d.fenceDie v, [])) ∧ (word → 8 ≤ v → doFenceDie r d = .error 5) ∧
    (word → v < 65536 → d.enabledQueues.all d.queueEmpty = true → doRecoord r d = .ok (d.recoord v, [])) ∧
    (word → v < 65536 → d.enabledQueues.all d.queueEmpty = false → doRecoord r d = .error 4) ∧
    (word → v = 0 → d.mgmt.wake = none → d.rdFld rPwrStatus 1 0 = 1 → doPowerState r d = .ok (d.wrFld rPwrStatus 1 0 0, [])) ∧
    (word → v = 1 → d.mgmt.wake = none → d.rdFld rPwrStatus 1 0 = 0 → d.canSleep false = true →
      ∃ t, doPowerState r d = .ok (t, []) ∧ t.rdFld rPwrStatus 1 0 = 1 ∧ t.mem = d.mem) ∧
    (word → v = 2 → d.mgmt.wake = none → d.rdFld rPwrStatus 1 0 < 2 → d.canSleep true = false → doPowerState r d = .error 4) ∧
    (word → 3 ≤ v → doPowerState r d = .error 5) ∧
    (4 ≤ r.payload.length → copy < 2 → img.length = imgLen img → imgCheck d.mgmt.fuse (d.rd rTopId) img = 0 → d.bootState ≠ 5 →
      ∃ t, doImageWrite r d = .ok (t, []) ∧ t.mgmt.flash.copy0 = (if copy = 0 then img else d.mgmt.flash.copy0) ∧
        t.mgmt.flash.copy1 = (if copy = 0 then d.mgmt.flash.copy1 else img) ∧ t.regs = d.regs) ∧
    (4 ≤ r.payload.length → copy < 2 → imgCheck d.mgmt.fuse (d.rd rTopId) img ≠ 0 → doImageWrite r d = .error 1) ∧
    (r.payload = [] → ∃ t, doSecver r d = .ok (t, []) ∧ t.mgmt.fuse.floor = max d.mgmt.fuse.floor (d.rdFld rBootSecver 15 0) ∧
      fld 31 16 (t.rd rBootSecver) = t.mgmt.fuse.floor % 65536 ∧ d.mgmt.fuse.floor ≤ t.mgmt.fuse.floor) ∧
    (4 ≤ r.payload.length → (leAt r.payload 0 4 < 6 ∨ 8 < leAt r.payload 0 4 ∨ (loadList img).all entryOk = false) →
      doReglist r d = .error 5) ∧
    (r.payload.length = 8 → doLedgerRead r d = .ok (d, (((d.rcd.ledger.map ledgerBytes).drop (leAt r.payload 0 4)).take
        (leAt r.payload 4 4)).flatten) ∧
      doLogRead r d = .ok (d, ((d.mgmt.flash.log.drop (leAt r.payload 0 4)).take (leAt r.payload 4 4)).flatten)) ∧
    (r.payload = [] → doStatus r d = .ok (d, wordsToBytes
      (d.rd rBootState :: (List.range 12).map (fun i => d.rd (rBootDigest i)) ++ [d.rd rLockStatus]))))

/-! ## The access lock (15), mailboxes, Flowstone and the sideband port (16) -/

/-- R346: a PASSWORD, OWNER or VENDOR command whose credential is enabled, with no attempt running and no lockout, starts an
attempt with copies of LOCK_DATA and LOCK_NONCE and sets VERIFYING, and changes nothing else; a command in VERIFYING or
LOCKOUT is discarded and sets LOCK_ERR.BUSY; one whose credential is disabled sets DISABLED. R346: CLOSE closes both scopes
and clears BY in every state, VERIFYING and LOCKOUT included, and abandons a running attempt; neither VERIFYING, LOCKOUT nor
FAILS changes. -/
def Obligations.LockCommandsStartAttemptsAndCloseCloses : Prop :=
  (∀ (s : State) (o : Origin) (v : Word),
    let n := fld 10 4 v
    let start (cmd : Nat) : Dev :=
      ({ s.dev with mgmt := { s.dev.mgmt with attempt := some {
          src := srcOf o, cmd := cmd, len := n, data := (List.range 48).map (fun i => s.dev.rd (rLockData i)),
          nonce := (List.range 8).map (fun i => s.dev.rd (rLockNonce i)), abandoned := false } } }).wrFld rLockStatus 3 3 1
    let err (bit : Nat) : Dev := s.dev.wr rLockErr (setBit bit true (s.dev.rd rLockErr))
    let free : Prop := bitOf 2 (s.dev.rd rLockStatus) = false ∧ bitOf 3 (s.dev.rd rLockStatus) = false
    Reaches s.dev o rLockCmd →
      (free → 8 ≤ n → n ≤ 64 → s.dev.lockEnabled 1 = true → Does (.password o v) s (start 1)) ∧
      (free → s.dev.lockEnabled 2 = true → Does (.owner o v) s (start 2)) ∧
      (free → s.dev.lockEnabled 3 = true → Does (.vendor o v) s (start 3)) ∧
      (¬free → Does (.password o v) s (err 2) ∧ Does (.owner o v) s (err 2) ∧ Does (.vendor o v) s (err 2)) ∧
      (free → (n < 8 ∨ 64 < n) → Does (.password o v) s (err 4)) ∧
      (free → s.dev.lockEnabled 2 = false → Does (.owner o v) s (err 3)) ∧
      (free → s.dev.lockEnabled 3 = false → Does (.vendor o v) s (err 3))) ∧
  (∀ (s : State) (o : Origin) (v : Word), Reaches s.dev o rLockCmd →
    Runs (.lockClose o v) s (fun t =>
      bitOf 0 (t.rd rLockStatus) = false ∧ bitOf 1 (t.rd rLockStatus) = false ∧ t.rdFld rLockStatus 9 8 = 0 ∧
      t.rdFld rLockStatus 7 2 = s.dev.rdFld rLockStatus 7 2 ∧
      t.mgmt.attempt = s.dev.mgmt.attempt.map (fun a => { a with abandoned := true }) ∧ t.mem = s.dev.mem ∧
      bitOf 11 (t.rd rTopStatus) = false))

/-- R345, R346: 10 ms after its command an attempt ends and VERIFYING clears, whatever its outcome. A successful one opens DEBUG,
and TEST too for the vendor key, sets BY and closes nothing; a failed one adds 1 to FAILS and sets LOCK_ERR.FAIL, the eighth
sets LOCKOUT, and an open lock stays open; an abandoned one does neither. -/
def Obligations.LockAttemptsEnd : Prop :=
  ∀ (s : State) (a : Attempt), s.dev.mgmt.attempt = some a →
    let w := s.dev.rd rLockStatus
    Runs .lockAttemptEnd s (fun t =>
      let u := t.rd rLockStatus
      t.mgmt.attempt = none ∧ bitOf 3 u = false ∧
      (a.abandoned = true → bitOf 0 u = bitOf 0 w ∧ bitOf 1 u = bitOf 1 w ∧ bitOf 2 u = bitOf 2 w ∧
        fld 7 4 u = fld 7 4 w ∧ fld 9 8 u = fld 9 8 w) ∧
      (a.abandoned = false → s.dev.attemptOk a = true →
        bitOf 0 u = true ∧ bitOf 1 u = (bitOf 1 w || a.cmd = 3) ∧ bitOf 2 u = bitOf 2 w ∧ fld 7 4 u = fld 7 4 w ∧
        fld 9 8 u = a.cmd % 4) ∧
      (a.abandoned = false → s.dev.attemptOk a = false →
        bitOf 0 u = bitOf 0 w ∧ bitOf 1 u = bitOf 1 w ∧ fld 7 4 u = (fld 7 4 w + 1) % 16 ∧ fld 9 8 u = fld 9 8 w ∧
        bitOf 2 u = (bitOf 2 w || 8 ≤ fld 7 4 w + 1) ∧ bitOf 0 (t.rd rLockErr) = true))

/-- R349: a push on a queue that is not full appends the word and sets doorbell bit 30 or 31; a pop answers the oldest word and
removes it. On a full queue the push, and on an empty one the pop, leaves the queue as it is and sets FULL or EMPTY (the pop
answers 0). -/
def Obligations.MailboxQueuesHoldWordsInOrder : Prop :=
  ∀ (s : State) (o : Origin) (ch : Fin 64) (n : Fin 2) (v w : Word) (l : List Word),
    s.dev.mbxWords ch n = l →
    (Reaches s.dev o (mbx ch (0x10 * n)) → l.length < 16 →
      Runs (.mbxQPush o ch n v false) s (fun t =>
        t.mbxWords ch n = l ++ [v] ∧ bitOf (30 + n) (t.rd (rMbxDb ch)) = true)) ∧
    (Reaches s.dev o (mbx ch (0x10 * n)) → 16 ≤ l.length →
      Does (.mbxQPush o ch n v false) s (s.dev.mbxErr ch 0 (srcOf o))) ∧
    (s.dev.may o = true → s.dev.regReach o false (mbx ch (0x10 * n + 4)) = true →
      s.dev.pageHidden (mbx ch (0x10 * n + 4)) = false →
      (∀ t, l = w :: t → Does (.mbxQPop o ch n) s { (s.dev.setMbx ch n t) with resp := .data (leBytes 4 w.toNat) false }) ∧
      (l = [] → Does (.mbxQPop o ch n) s
        { (s.dev.mbxErr ch 1 (srcOf o)) with resp := .data (leBytes 4 0) false }))

/-- R350: a write to MBX_DB clears the bits written 1 and notifies nobody; a write to MBX_DB_SET sets bits, one to a mask sets the
mask (bit 30 of channel 0's mask 0 stays set, R352), and each tells a target once for each of its masked bits that rises; a
target that is a counter of the channel's partition, or no counter, is taken, and any other is refused with MBX_ERR.CFG. R351:
a read of a free MBX_LOCK answers 0 and makes the reader its owner; a read of a held one answers HELD and the owner's source
number; a write by the owner frees it, a write by any other source is discarded and sets MBX_ERR.LOCK; MBX_LOCK_FORCE by the
host, the sideband port or the management controller frees it and writes a record. -/
def Obligations.MailboxDoorbellsNotifyAndLocksAreHeld : Prop :=
  (∀ (s : State) (o : Origin) (ch : Fin 64) (n : Fin 2) (v : Word),
    let db := s.dev.rd (rMbxDb ch)
    let m0 := db &&& s.dev.rd (rMbxDbMask0 ch)
    let m1 := db &&& s.dev.rd (rMbxDbMask1 ch)
    let ours : Prop := fld 1 0 v = 3 → s.dev.cntPart (fld 20 3 v) = some (s.dev.rdFld (rMbxOwn ch) 3 0)
    (Reaches s.dev o (rMbxDb ch) → Does (.mbxDb o ch v) s (s.dev.wr (rMbxDb ch) (db &&& ~~~v))) ∧
    (Reaches s.dev o (rMbxDbSet ch) →
      Does (.mbxDbSet o ch v) s ((s.dev.wr (rMbxDb ch) (db ||| v)).mbxRise ch m0 m1)) ∧
    (Reaches s.dev o (mbx ch (0x28 + 4 * n)) → (ch.val ≠ 0 ∨ n.val ≠ 0) →
      Does (.mbxDbMask o ch n v) s ((s.dev.wr (mbx ch (0x28 + 4 * n)) v).mbxRise ch m0 m1)) ∧
    (Reaches s.dev o (mbx 0 0x28) →
      Does (.mbxDbMask o 0 0 v) s ((s.dev.wr (mbx 0 0x28) (setBit 30 true v)).mbxRise 0
        (s.dev.rd (rMbxDb 0) &&& s.dev.rd (rMbxDbMask0 0)) (s.dev.rd (rMbxDb 0) &&& s.dev.rd (rMbxDbMask1 0)))) ∧
    (Reaches s.dev o (mbx ch (0x30 + 4 * n)) → (ch.val ≠ 0 ∨ n.val ≠ 0) → ours →
      Does (.mbxNotify o ch n v) s (s.dev.wr (mbx ch (0x30 + 4 * n)) (BitVec.ofNat 32 (fld 20 0 v)))) ∧
    (Reaches s.dev o (mbx ch (0x30 + 4 * n)) → (ch.val ≠ 0 ∨ n.val ≠ 0) → ¬ours →
      Does (.mbxNotify o ch n v) s (s.dev.mbxErr ch 3 (srcOf o)))) ∧
  (∀ (s : State) (o : Origin) (ch : Fin 64) (w : Nat) (v : Word),
    (s.dev.may o = true → s.dev.regReach o false (rMbxLock ch) = true → s.dev.pageHidden (rMbxLock ch) = false →
      (s.dev.lockOwner ch = none →
        Does (.mbxLockRead o ch) s { (s.dev.setLock ch (some (srcOf o))) with resp := .data (leBytes 4 0) false }) ∧
      (s.dev.lockOwner ch = some w →
        Does (.mbxLockRead o ch) s { s.dev with resp := .data (leBytes 4 (0x10000 + w % 65536)) false })) ∧
    (Reaches s.dev o (rMbxLock ch) →
      (s.dev.lockOwner ch = some (srcOf o) → Does (.mbxLockWrite o ch v) s (s.dev.setLock ch none)) ∧
      (s.dev.lockOwner ch ≠ some (srcOf o) → Does (.mbxLockWrite o ch v) s (s.dev.mbxErr ch 2 (srcOf o)))) ∧
    (Reaches s.dev o (rMbxLockForce ch) → (∀ c, o ≠ .core c) → (∀ e, o ≠ .dma e) →
      Does (.mbxLockForce o ch v) s ((s.dev.setLock ch none).flw 3 0x41 (srcOf o) 0)))

/-- R355, R356: arming with a tick at least 1 µs ahead pends the snapshot (a later arming replaces it), an earlier tick is refused
with TS_ERR.PAST and leaves what was pending; at the tick every counter of a unit in service is copied, and at the end
TS_SNAP_SEQ counts. R357 to R360, R363: the oldest queued record is programmed in slot SEQNO mod 262,144 once its sector is
erased; an erase drops the records of the sector that the record begins and no other; a fetch ends with FOUND and the record's
32 words, or with zeros; the operating seconds are saved. -/
def Obligations.SnapshotsCopyAndFlowstoneRecordsReachTheirSlots : Prop :=
  (∀ (s : State) (o : Origin) (v : Word) (at_ : Nat),
    let tick := (s.dev.rd rTsSnapAtLo).toNat + 2 ^ 32 * v.toNat
    let d := s.dev.wr rTsSnapAtHi v
    (Reaches s.dev o rTsSnapAtHi → s.dev.now + 1000 ≤ tick →
      Does (.snapshotArm o v) s
        ({ d with rcd := { d.rcd with snapArmed := some tick } }.wr rTsStatus (setBit 0 true (s.dev.rd rTsStatus)))) ∧
    (Reaches s.dev o rTsSnapAtHi → tick < s.dev.now + 1000 →
      Does (.snapshotArm o v) s (d.wr rTsErr (setBit 0 true (s.dev.rd rTsErr)))) ∧
    (s.dev.rcd.snapArmed = some at_ → at_ ≤ s.dev.now →
      Runs .snapshotTick s (fun t => t.rcd.snapArmed = none ∧ t.rcd.snapCopied = true ∧
        ∀ off w, (off, w) ∈ s.dev.regs → keysRise s.dev.regs = true → s.dev.noCopy off = false →
          sget (fun _ => 0) t.shadow off = w &&& counterMask off)) ∧
    (s.dev.rcd.snapCopied = true →
      Does .snapshotDone s (({ s.dev with rcd := { s.dev.rcd with snapCopied := false } }.wr rTsSnapSeq
        (s.dev.rd rTsSnapSeq + 1)).wr rTsStatus (setBit 0 s.dev.rcd.snapArmed.isSome (s.dev.rd rTsStatus))))) ∧
  (∀ (s : State) (o : Origin) (v : Word) (r : FlwRec) (l : List FlwRec),
    let slot := r.seq.toNat % 262144
    let found := sget (fun _ => []) s.dev.mgmt.flash.ring (v.toNat % 262144)
    (s.dev.rcd.queue = r :: l → s.dev.sectorReady slot = true →
      Does .flowstoneProgram s ({ s.dev with
        rcd := { s.dev.rcd with queue := l, lost := false, erased := none },
        mgmt := { s.dev.mgmt with flash := { s.dev.mgmt.flash with
          ring := sput slot (some (flwBytes r s.dev.rcd.lost)) s.dev.mgmt.flash.ring } } }.wrFld rFlwStatus 12 2 l.length)) ∧
    (s.dev.rcd.queue = r :: l → s.dev.sectorReady slot = false →
      Does .flowstoneErase s { s.dev with
        rcd := { s.dev.rcd with erased := some (slot / 512) },
        mgmt := { s.dev.mgmt with flash := { s.dev.mgmt.flash with
          ring := s.dev.mgmt.flash.ring.filter (fun e => e.1 / 512 ≠ slot / 512) } } }) ∧
    Does .opsecSave s { s.dev with mgmt := { s.dev.mgmt with flash := { s.dev.mgmt.flash with opsec := s.dev.rd rBootOpsec } } } ∧
    (Reaches s.dev o rFlwRdSeq → s.dev.rcd.fetch = none →
      Does (.flwRdSeq o v) s (({ s.dev with rcd := { s.dev.rcd with fetch := some v } }.wr rFlwRdSeq v).wr rFlwRdStatus 1)) ∧
    (s.dev.rcd.fetch = some v → found.length = 128 → leAt found 0x18 4 = v.toNat →
      Runs .flowstoneFetchDone s (fun t => t.rcd.fetch = none ∧ t.rd rFlwRdStatus = 2 ∧
        ∀ k < 32, t.rd (rFlwRdData k) = BitVec.ofNat 32 (leAt found (4 * k) 4))) ∧
    (s.dev.rcd.fetch = some v → (found.length ≠ 128 ∨ leAt found 0x18 4 ≠ v.toNat) →
      Runs .flowstoneFetchDone s (fun t => t.rcd.fetch = none ∧ t.rd rFlwRdStatus = 0 ∧ ∀ k < 32, t.rd (rFlwRdData k) = 0)))

/-- R364 to R367: outside a frame, SETADDR sets SB_ADDR (bits [1:0] 0) with its second word and counts complete words beyond it in
EXTRA; WRITE writes each word at SB_ADDR, which then advances by 4 when SB_CFG.INC is 1: to memory, to a register, or, at an
unmapped or hidden address, to nothing but SB_ERR.ADDR. READ answers the words from SB_ADDR on, 0xFFFFFFFF where nothing is
mapped, and reads the word after the last too; a word that comes too late and all after it are 0xFFFFFFFF, one UNDERRUN is
counted, and SB_ADDR rests at it. STATUS answers SB_STATUS without clearing it; an unknown opcode counts in BADOP and does
nothing; the release of a frame clears FRAME and counts an incomplete word in PARTWORD. A frame within a frame is nothing: the
model's choice (log 4). -/
def Obligations.SidebandFramesActWordByWord : Prop :=
  ∀ (s : State) (lo hi w : Word) (rest ws : List Word) (n k : Nat) (late : Option Nat) (mid : Bool),
    let begun (bad : Bool) : Dev := { (s.dev.wrFld rSbStatus 28 28 1) with rcd := { s.dev.rcd with sbBad := bad } }
    let d := begun false
    let a := d.rd64 rSbAddrLo
    let inc := if bitOf 0 (d.rd rSbCfg) then 4 else 0
    let next (e : Dev) : Dev := if bitOf 0 (e.rd rSbCfg) then e.wr64 rSbAddrLo ((e.rd64 rSbAddrLo + 4) % 2 ^ 64) else e
    let wrong (e : Dev) (a : Nat) : Dev := e.raise rSbErr 0 (fun e => e.wr64 rSbErrAddrLo a)
    let hidden : Prop := d.bulkReach a = false ∨ (inRegs a = true ∧ d.failHides (a - 0x3F0000000000) = true)
    let burst (m : Nat) := d.sbReads a inc (m + 1)
    let rest_ (m : Nat) : Dev := (burst m).2.wr64 rSbAddrLo ((a + inc * m) % 2 ^ 64)
    (s.dev.sbFrame = false →
      Does (.setaddr (lo :: hi :: rest)) s (((d.wr rSbAddrLo (setFld 1 0 0 lo)).wr rSbAddrHi hi).sbCount 15 8 rest.length) ∧
      (ws.length < 2 → Does (.setaddr ws) s d) ∧
      Does (.write ws) s (ws.foldl Dev.sbWrite1 d) ∧
      (hidden → Does (.write [w]) s (next (wrong d a))) ∧
      (¬hidden → inRegs a = false →
        Does (.write [w]) s (next (d.writeMem ⟨none, srcOf .sideband⟩ a (clean (leBytes 4 w.toNat))).2)) ∧
      (¬hidden → inRegs a = true → a % 4 = 0 → Does (.write [w]) s (next (d.write32 .sideband (a - 0x3F0000000000) w))) ∧
      Does (.read n none) s { rest_ n with resp := .data ((burst n).1.take (4 * n)) false } ∧
      (k < n → Does (.read n (some k)) s
        ({ rest_ k with resp := .data ((burst k).1.take (4 * k) ++ List.replicate (4 * (n - k)) 0xFF) false }.sbCount 23 16 1)) ∧
      (n ≤ k → exec (.read n (some k)) s = exec (.read n none) s) ∧
      ((∀ j ≤ n, isHbm ((a + inc * j) % 2 ^ 64) = true) → a % 4 = 0 → s.dev.bootState ≠ 6 → s.dev.mem.damage = [] →
        Runs (.read n none) s (fun t => t.mem = s.dev.mem ∧ t.rd64 rSbAddrLo = (a + inc * n) % 2 ^ 64 ∧
          t.resp = .data ((List.range n).flatMap (fun j => s.dev.mem.bytes ((a + inc * j) % 2 ^ 64) 4)) false)) ∧
      (hidden → inc = 0 → Runs (.read 1 none) s (fun t => t.resp = .data [0xFF, 0xFF, 0xFF, 0xFF] false ∧ bitOf 0 (t.rd rSbErr) = true ∧
        (s.dev.rd rSbErr = 0 → t.rd64 rSbErrAddrLo = a))) ∧
      Does (.sidebandStatus n) s ({ d with resp := .data (leBytes 4 (d.rd rSbStatus).toNat) false }.sbCount 15 8 n) ∧
      Does .badop s ((begun true).sbCount 27 24 1)) ∧
    (s.dev.sbFrame = true → s.dev.rcd.sbBad = false →
      Does (.sbCsRelease mid) s { ((if mid then s.dev.sbCount 7 0 1 else s.dev).wrFld rSbStatus 28 28 0) with
        rcd := { s.dev.rcd with sbBad := false } }) ∧
    (s.dev.sbFrame = true → s.dev.rcd.sbBad = true →
      Does (.sbCsRelease mid) s { (s.dev.wrFld rSbStatus 28 28 0) with rcd := { s.dev.rcd with sbBad := false } }) ∧
    (s.dev.sbFrame = false → Does (.sbCsRelease mid) s s.dev) ∧
    (s.dev.sbFrame = true → Does (.setaddr ws) s s.dev ∧ Does (.write ws) s s.dev ∧ Does (.read n late) s s.dev ∧
      Does (.sidebandStatus n) s s.dev ∧ Does .badop s s.dev)

/-! ## The whole block -/

/-- A step takes the command at the front of the queue and runs it with the queue's rest. With no command waiting, one
nanosecond passes: the timestamp counts one tick, and what needs no command goes on. That is the model's choice (log 3). -/
def Obligations.StepRunsTheFrontCommand : Prop :=
  ∀ (s : State) (c : Instr) (l : List Instr),
    (s.pending = c :: l → step s = exec c { s with pending := l }) ∧ (s.pending = [] → step s = .next { s with dev := s.dev.idle }) ∧
    (∀ t, exec c s = .next t → t.pending = s.pending) ∧ (s.pending = [] → s.dev.idle.now = s.dev.tick.now)

/-- After reset no command waits, the copies agree and memory is canonical, and registers hold the values that the spec's register
tables give them: TOP_ID, QMG_Q_CFG, the scrubbers, the stall limit, COL_HB_MISS, the epoch page, LNK_BACKOFF and ports, the
sample cache, PWR_SLEW, AGE_CTL and SB_CFG among them. -/
def Obligations.ResetHoldsItsValues : Prop :=
  let d := State.reset.dev
  State.reset.pending = [] ∧ Good State.reset ∧ d.now = 0 ∧ d.mem.cells = [] ∧ d.bootState = 0 ∧
  (∀ (off : Nat) (v : Word), (off, v) ∈ [(rTopId, 0x812000B1), (rTopPStatus 0, 0x10000), (rTopPStatus 7, 0x10000),
    (rQmgQCfg 0, 0xC), (rQmgQCfg 65535, 0xC), (pgReg 0 0x50, 0x1801), (pgReg 19 0x50, 0x1801), (pgReg 0 0x44, 0xE100100),
    (pgReg 19 0x44, 0xE100100), (rTrwPctl 7, 0x62), (rColEpCtl 0, 0xC787), (rColEpLead 7, 0x32), (rColNsEma 0, 0x7FC00000),
    (rColEpoch 7, 0), (rInpCacheCtl 0, 0x100), (rPwrGate, 0x3201), (rPwrSlew 15, 0x100), (rAgeCtl, 0x2800), (rSbCfg, 1),
    (rLockStatus, 0)] → d.rd off = v)

/-- R378, R379: whatever the state, after every step that answers a next state TOP_STATUS shows STATE, TWIN and LOCKOPEN as
BOOT_STATE and LOCK_STATUS hold them, and every TOP_P_STATUS shows QUIET exactly while nothing of its partition is in flight,
and its fenced dies: the copies agree, if they did before, over commands and ticks alike. R221: no access is held between two steps, if none was
before: what a command noted of one that waits is in the list of waits. -/
def Obligations.EveryStepKeepsTheCopies : Prop :=
  ∀ s t : State, step s = .next t → ((CopiesAgree s ∨ s.pending ≠ []) → CopiesAgree t) ∧ (Settled s → Settled t)

/-- R162, R163: the HBM hash takes every HBM address to one of 768 pseudo-channels and an offset below 2^30, the inverse map takes
that back to the address, and every location is that of its address; 512-byte granules of one row that follow each other lie
on pseudo-channels that follow each other. -/
def Obligations.HbmHashIsOneToOne : Prop :=
  (∀ a, isHbm a = true → hbmPc a < 768 ∧ hbmOff a < 2 ^ 30 ∧ hbmAddr (hbmPc a) (hbmOff a) = a) ∧
  (∀ pc off, pc < 768 → off < 2 ^ 30 → isHbm (hbmAddr pc off) = true ∧ hbmPc (hbmAddr pc off) = pc ∧ hbmOff (hbmAddr pc off) = off) ∧
  (∀ a, a / 512 / 768 = (a + 512) / 512 / 768 → hbmPc (a + 512) = (hbmPc a + 1) % 768 ∧ hbmOff (a + 512) = hbmOff a)

/-- R169, R170: a write to physical memory without damage changes the bytes it writes and no other, and clears or keeps poison by
granule: clean whole granules read back as written, and nothing outside the granules that it touches is marked. Every write
and read keeps memory in its canonical form. -/
def Obligations.WritesChangeOnlyTheirBytes : Prop :=
  ∀ (d : Dev) (src a n : Nat) (bs : Marked),
    let t := d.writePhys src a bs
    (d.mem.wf = true → t.mem.wf = true ∧ (d.readPhys src a n).2.mem.wf = true) ∧
    (d.mem.damage = [] →
      (∀ j, t.mem.byte j = if a ≤ j ∧ j < a + bs.length then (bs.getD (j - a) (0, false)).1 else d.mem.byte j) ∧
      (∀ g, (g * 64 + 64 ≤ a ∨ a + bs.length ≤ g * 64) → t.mem.isPoison g = d.mem.isPoison g) ∧
      (∀ g, a ≤ g * 64 → g * 64 + 64 ≤ a + bs.length →
        t.mem.isPoison g = ((List.range 64).any fun k => (bs.getD (g * 64 - a + k) (0, false)).2)) ∧
      (d.mem.sumpBad = [] → a % 64 = 0 → bs.length % 64 = 0 → (∀ b ∈ bs, b.2 = false) → (t.readPhys src a bs.length).1 = bs))

/-- R22: accesses of a host through the BARs are not subject to partition windows: whatever any window register holds, a host
reaches the same addresses of memory and the same registers. -/
def Obligations.HostAccessesKnowNoWindows : Prop :=
  ∀ (d : Dev) (p : Fin 2) (q : Fin 8) (r : Nat) (v : Word) (wr : Bool) (a off : Nat),
    r ∈ [rTopPHbmwin q, rTopPSumpwin q, rTopPMgdwin q] →
    (d.wr r v).reaches ((d.wr r v).accOf (.host p)) wr a = d.reaches (d.accOf (.host p)) wr a ∧
    (d.wr r v).bulkReach a = d.bulkReach a ∧ (d.wr r v).regReach (.host p) wr off = true

/-- R43: a halted context (VCD_CTX_OWN.STATE = HALTED) completes every command except INIT and CLOSE as ABORTED: a DECODE, ENCODE
or FLUSH of it whose turn has come ends so, and the context is as it was. -/
def Obligations.HaltedContextsAbortTheirCommands : Prop :=
  ∀ (s : State) (c : CmdRef) (x : Inflight) (op : Nat) (i : Instr),
    (op, i) ∈ [(1, Instr.decode c), (2, .encode c), (3, .flush c)] → Dispatched s.dev c x 3 op →
    let k := x.opd 0 % 2048
    s.dev.ctxState k = 3 → s.dev.ctxTurn x = true →
    Runs i s (fun t => (∀ y ∈ t.queue.infl, y.q = x.q → y.i = x.i → y.phase = .ended ∧ y.res.status = .aborted) ∧
      t.ctx k = s.dev.ctx k ∧ t.ctxState k = 3 ∧ t.mem = s.dev.mem)

/-- R305: a fenced die's units are none of the units that a MODE waits for, so none of them is late; a KERNEL of a partition whose
every compute die is fenced ends ABORTED with cause UNIT (0x27), and no core starts. -/
def Obligations.FencedDiesTakeNoModeAndNoKernel : Prop :=
  ∀ (s : State) (c : CmdRef) (x : Inflight) (op n : Nat),
    (n < 8 → s.dev.fenced n = true → ∀ u ∈ s.dev.modeUnits op, (∀ e : Fin 10, u = .trowel e → e.val ≠ n) ∧
      ∀ k : Fin 20, u = .monitor k → k.val ≠ n) ∧
    (Dispatched s.dev c x 0 0 → (s.dev.diesOf x.part).all s.dev.fenced = true →
      Runs (.kernel c) s (fun t =>
        (∀ y ∈ t.queue.infl, y.q = x.q → y.i = x.i → y.phase = .ended ∧ y.res.status = .aborted ∧ y.res.cause = 0x27) ∧
        ∀ k < 1536, t.coreState k = s.dev.coreState k ∧
          ((t.core k).launch = (s.dev.core k).launch ∨ (t.core k).launch = none)))
end

