-- ==== Sys2Proof/Laws/Map.lean ====
section
/-! SUPPORT. Laws of the sparse maps and of bit fields: what a key reads as after a write, that every write keeps the canonical form, and
what a field reads as after it is set. -/

namespace Sys2Proof.Machine

variable {β : Type}

/-! ### Reads after writes -/

theorem sget_sdel_same (d : Nat → β) (m : List (Nat × β)) (k : Nat) : sget d (sdel k m) k = d k := by
  induction m with
  | nil => rfl
  | cons e t ih =>
    obtain ⟨j, v⟩ := e
    by_cases h : j = k <;> simp_all [sdel, sget]
    intro h2; omega

theorem sget_sdel_ne (d : Nat → β) (m : List (Nat × β)) {j k : Nat} (h : j ≠ k) : sget d (sdel k m) j = sget d m j := by
  induction m with
  | nil => rfl
  | cons e t ih =>
    obtain ⟨i, v⟩ := e
    by_cases h1 : i = k
    · have h2 : j ≠ i := by omega
      simp_all [sdel, sget]
    · simp_all [sdel, sget]

theorem sget_sins_ne (d : Nat → β) (m : List (Nat × β)) {j k : Nat} (v : β) (h : j ≠ k) : sget d (sins k v m) j = sget d m j := by
  induction m with
  | nil => simp [sins, sget, h]
  | cons e t ih =>
    obtain ⟨i, w⟩ := e
    by_cases h1 : k < i <;> simp [sins, sget, h1, h, ih]

theorem sget_sins_same (d : Nat → β) (m : List (Nat × β)) (k : Nat) (v : β) (h : ∀ e ∈ m, e.1 ≠ k) :
    sget d (sins k v m) k = v := by
  induction m with
  | nil => simp [sins, sget]
  | cons e t ih =>
    obtain ⟨i, w⟩ := e
    have h2 : k ≠ i := fun h3 => h (i, w) (by simp) (by simp [h3])
    by_cases h1 : k < i
    · simp [sins, sget, h1]
    · simp [sins, sget, h1, h2, ih (fun e he => h e (by simp [he]))]

/-- A key reads as the value last written to it. -/
@[simp] theorem sget_sset_same [DecidableEq β] (d : Nat → β) (m : List (Nat × β)) (k : Nat) (v : β) :
    sget d (sset d m k v) k = v := by
  unfold sset sput
  by_cases h : v = d k
  · simp [h, sget_sdel_same]
  · simp only [h, if_false]
    exact sget_sins_same d _ k v (fun e he => by simpa [sdel] using (List.mem_filter.mp he).2)

/-- A write leaves every other key alone. -/
theorem sget_sset_ne [DecidableEq β] (d : Nat → β) (m : List (Nat × β)) {j k : Nat} (v : β) (h : j ≠ k) :
    sget d (sset d m k v) j = sget d m j := by
  unfold sset sput
  by_cases h2 : v = d k
  · simp [h2, sget_sdel_ne d m h]
  · simp [h2, sget_sins_ne d _ v h, sget_sdel_ne d m h]

/-- What a key reads as after a write. -/
theorem sget_sset [DecidableEq β] (d : Nat → β) (m : List (Nat × β)) (j k : Nat) (v : β) :
    sget d (sset d m k v) j = if j = k then v else sget d m j := by
  by_cases h : j = k
  · simp [h]
  · simp [h, sget_sset_ne d m v h]

/-! ### The canonical form -/

theorem keysRise_iff (m : List (Nat × β)) : keysRise m = true ↔ (m.map (·.1)).Pairwise (· < ·) := by
  induction m with
  | nil => simp [keysRise]
  | cons a t ih =>
    cases t with
    | nil => simp [keysRise]
    | cons b t =>
      simp only [keysRise, Bool.and_eq_true, decide_eq_true_eq, ih]
      constructor
      · rintro ⟨h1, h2⟩
        refine List.pairwise_cons.mpr ⟨?_, h2⟩
        intro k hk
        rcases List.mem_cons.mp hk with h | h
        · simpa [h] using h1
        · exact lt_trans h1 ((List.pairwise_cons.mp h2).1 k h)
      · intro h
        obtain ⟨h1, h2⟩ := List.pairwise_cons.mp h
        exact ⟨h1 b.1 (by simp), h2⟩

theorem keysRise_filter (p : Nat × β → Bool) (m : List (Nat × β)) (h : keysRise m = true) : keysRise (m.filter p) = true := by
  rw [keysRise_iff] at *
  exact h.sublist (List.filter_sublist.map _)

theorem mem_sins {k : Nat} {v : β} {m : List (Nat × β)} {e : Nat × β} : e ∈ sins k v m ↔ e = (k, v) ∨ e ∈ m := by
  induction m with
  | nil => simp [sins]
  | cons a t ih =>
    obtain ⟨j, w⟩ := a
    by_cases h : k < j
    · simp [sins, h]
    · simp only [sins, h, if_false, List.mem_cons, ih]; tauto

theorem keysRise_sins (k : Nat) (v : β) (m : List (Nat × β)) (h : keysRise m = true) (hk : ∀ e ∈ m, e.1 ≠ k) :
    keysRise (sins k v m) = true := by
  rw [keysRise_iff] at *
  induction m with
  | nil => simp [sins]
  | cons a t ih =>
    obtain ⟨j, w⟩ := a
    obtain ⟨h1, h2⟩ := List.pairwise_cons.mp h
    by_cases hj : k < j
    · simp only [sins, hj, if_true]
      refine List.pairwise_cons.mpr ⟨?_, h⟩
      intro i hi
      rcases List.mem_cons.mp hi with h3 | h3
      · simpa [h3] using hj
      · exact lt_trans hj (h1 i h3)
    · simp only [sins, hj, if_false]
      refine List.pairwise_cons.mpr ⟨?_, ih h2 (fun e he => hk e (by simp [he]))⟩
      intro i hi
      obtain ⟨e, he, rfl⟩ := List.mem_map.mp hi
      rcases mem_sins.mp he with h3 | h3
      · have := hk (j, w) (by simp); subst h3; simp at *; omega
      · exact h1 _ (List.mem_map.mpr ⟨e, h3, rfl⟩)

/-- A write keeps the canonical form. -/
theorem smapWf_sset [DecidableEq β] (d : Nat → β) (m : List (Nat × β)) (k : Nat) (v : β) (h : smapWf d m = true) :
    smapWf d (sset d m k v) = true := by
  simp only [smapWf, Bool.and_eq_true, List.all_eq_true, decide_eq_true_eq] at h ⊢
  obtain ⟨h1, h2⟩ := h
  have hd : keysRise (sdel k m) = true := keysRise_filter _ _ h1
  have hk : ∀ e ∈ sdel k m, e.1 ≠ k := fun e he => by simpa [sdel] using (List.mem_filter.mp he).2
  have ha : ∀ e ∈ sdel k m, e.2 ≠ d e.1 := fun e he => h2 e (List.mem_of_mem_filter he)
  unfold sset sput
  by_cases hv : v = d k
  · simp only [hv, if_true]; exact ⟨hd, ha⟩
  · simp only [hv, if_false]
    refine ⟨keysRise_sins k v _ hd hk, fun e he => ?_⟩
    rcases mem_sins.mp he with h3 | h3
    · subst h3; exact hv
    · exact ha e h3

/-- Dropping entries keeps the canonical form. -/
theorem smapWf_filter [DecidableEq β] (d : Nat → β) (p : Nat × β → Bool) (m : List (Nat × β)) (h : smapWf d m = true) :
    smapWf d (m.filter p) = true := by
  simp only [smapWf, Bool.and_eq_true, List.all_eq_true, decide_eq_true_eq] at h ⊢
  exact ⟨keysRise_filter _ _ h.1, fun e he => h.2 e (List.mem_of_mem_filter he)⟩

/-! ### Bit fields -/

theorem getLsbD_setFld (hi lo v : Nat) (w : Word) (k : Nat) :
    (setFld hi lo v w).getLsbD k =
      if k < 32 ∧ lo ≤ k ∧ k < hi + 1 then v.testBit (k - lo) else w.getLsbD k := by
  unfold setFld
  simp only [BitVec.getLsbD_or, BitVec.getLsbD_and, BitVec.getLsbD_not, BitVec.getLsbD_ofNat,
    Nat.testBit_mul_two_pow]
  by_cases h1 : k < 32
  · by_cases h2 : lo ≤ k <;> by_cases h3 : k < hi + 1 <;> simp [h1, h2, h3]
    · have h4 : k - lo < hi + 1 - lo := by omega
      simp [h4]
    · have h4 : ¬ k - lo < hi + 1 - lo := by omega
      simp [h4]
  · simp [h1, BitVec.getLsbD_of_ge w k (by omega)]

theorem testBit_fld (hi lo : Nat) (w : Word) (k : Nat) :
    (fld hi lo w).testBit k = (decide (k < hi + 1 - lo) && w.getLsbD (lo + k)) := by
  unfold fld
  rw [Nat.testBit_mod_two_pow, Nat.testBit_div_two_pow, BitVec.getLsbD, Nat.add_comm k lo]

/-- A field reads as the value it was set to, cut to its width. -/
theorem fld_setFld_same (hi lo v : Nat) (w : Word) (h : hi < 32) : fld hi lo (setFld hi lo v w) = v % 2 ^ (hi + 1 - lo) := by
  apply Nat.eq_of_testBit_eq
  intro k
  rw [testBit_fld, getLsbD_setFld, Nat.testBit_mod_two_pow]
  by_cases h1 : k < hi + 1 - lo
  · have : lo + k < 32 ∧ lo ≤ lo + k ∧ lo + k < hi + 1 := by omega
    simp [h1, this]
  · simp [h1]

/-- Setting a field leaves a field apart from it as it was. -/
theorem fld_setFld_ne (hi lo v : Nat) (w : Word) (hi2 lo2 : Nat) (h : hi2 < lo ∨ hi < lo2) :
    fld hi2 lo2 (setFld hi lo v w) = fld hi2 lo2 w := by
  apply Nat.eq_of_testBit_eq
  intro k
  rw [testBit_fld, testBit_fld, getLsbD_setFld]
  by_cases h1 : k < hi2 + 1 - lo2
  · rw [if_neg (by omega)]
  · simp [h1]

/-- A bit reads as it was set. -/
theorem bitOf_setBit_same (n : Nat) (b : Bool) (w : Word) (h : n < 32) : bitOf n (setBit n b w) = b := by
  unfold bitOf setBit
  rw [getLsbD_setFld]
  cases b <;> simp [h]

/-- Setting a field leaves a bit outside it as it was. -/
theorem bitOf_setFld_ne (hi lo v : Nat) (w : Word) (n : Nat) (h : n < lo ∨ hi < n) : bitOf n (setFld hi lo v w) = bitOf n w := by
  unfold bitOf
  rw [getLsbD_setFld]
  exact if_neg (by omega)

/-- Setting a bit leaves every other bit as it was. -/
theorem bitOf_setBit_ne (k : Nat) (b : Bool) (w : Word) (n : Nat) (h : n ≠ k) : bitOf n (setBit k b w) = bitOf n w :=
  bitOf_setFld_ne k k _ w n (by omega)

/-- Setting a bit leaves a field that does not hold it as it was. -/
theorem fld_setBit_ne (k : Nat) (b : Bool) (w : Word) (hi lo : Nat) (h : hi < k ∨ k < lo) :
    fld hi lo (setBit k b w) = fld hi lo w := fld_setFld_ne k k _ w hi lo h

end Sys2Proof.Machine
end

