-- ==== Sys2Proof/Laws/Mem.lean ====
section
/-! SUPPORT. Laws of memory: a byte reads as last written, a write leaves every other byte alone, and every memory operation keeps
the canonical form that reset's memory has. -/

namespace Sys2Proof.Machine

/-! ### Rising lists -/

theorem mem_insNat {k j : Nat} {l : List Nat} : j ∈ insNat k l ↔ j = k ∨ j ∈ l := by
  induction l with
  | nil => simp [insNat]
  | cons i t ih =>
    unfold insNat
    by_cases h1 : k = i
    · simp only [h1, if_true, List.mem_cons]; tauto
    · by_cases h2 : k < i
      · simp [h1, h2]
      · simp only [h1, h2, if_false, List.mem_cons, ih]; tauto

theorem insNat_rises (k : Nat) (l : List Nat) (h : l.Pairwise (· < ·)) : (insNat k l).Pairwise (· < ·) := by
  induction l with
  | nil => simp [insNat]
  | cons i t ih =>
    unfold insNat
    obtain ⟨h1, h2⟩ := List.pairwise_cons.mp h
    by_cases hk : k = i
    · simpa [hk] using h
    · by_cases hl : k < i
      · simp only [hk, hl, if_false, if_true]
        refine List.pairwise_cons.mpr ⟨fun j hj => ?_, h⟩
        rcases List.mem_cons.mp hj with h3 | h3
        · omega
        · have := h1 j h3; omega
      · simp only [hk, hl, if_false]
        refine List.pairwise_cons.mpr ⟨fun j hj => ?_, ih h2⟩
        rcases mem_insNat.mp hj with h3 | h3
        · omega
        · exact h1 j h3

theorem putNat_rises (k : Nat) (b : Bool) (l : List Nat) (h : l.Pairwise (· < ·)) : (putNat k b l).Pairwise (· < ·) := by
  cases b
  · exact h.filter _
  · exact insNat_rises k l h

theorem contains_putNat_same (k : Nat) (b : Bool) (l : List Nat) : (putNat k b l).contains k = b := by
  cases b
  · simp [putNat, delNat]
  · simp [putNat, mem_insNat]

theorem contains_putNat_ne (k : Nat) (b : Bool) (l : List Nat) {j : Nat} (h : j ≠ k) :
    (putNat k b l).contains j = l.contains j := by
  cases b
  · simp [putNat, delNat, h]
  · rw [Bool.eq_iff_iff]; simp [putNat, mem_insNat, h]

theorem keysRise_sput {β : Type} (k : Nat) (v : Option β) (m : List (Nat × β)) (h : keysRise m = true) :
    keysRise (sput k v m) = true := by
  have hd : keysRise (sdel k m) = true := keysRise_filter _ _ h
  cases v with
  | none => exact hd
  | some v => exact keysRise_sins k v _ hd (fun e he => by simpa [sdel] using (List.mem_filter.mp he).2)

/-! ### Bytes -/

theorem MemSt.byte_setByte (m : MemSt) (a b : Nat) (v : Byte) :
    (m.setByte a v).byte b = if b = a then v else m.byte b := sget_sset _ _ _ _ _

@[simp] theorem MemSt.byte_setPoison (m : MemSt) (g : Nat) (p : Bool) (b : Nat) : (m.setPoison g p).byte b = m.byte b := rfl
@[simp] theorem MemSt.byte_setDmg (m : MemSt) (g : Nat) (x : Option Damage) (b : Nat) : (m.setDmg g x).byte b = m.byte b := rfl
@[simp] theorem MemSt.poison_setByte (m : MemSt) (a : Nat) (v : Byte) : (m.setByte a v).poison = m.poison := rfl
@[simp] theorem MemSt.poison_setDmg (m : MemSt) (g : Nat) (x : Option Damage) : (m.setDmg g x).poison = m.poison := rfl

/-- Bytes stored from `a` on: byte `b` is one of them when it lies in their range, and is unchanged elsewhere. -/
theorem MemSt.byte_setBytes (m : MemSt) (a b : Nat) (l : List Byte) :
    (m.setBytes a l).byte b = if a ≤ b ∧ b < a + l.length then l.getD (b - a) 0 else m.byte b := by
  induction l generalizing m a with
  | nil => simp [MemSt.setBytes]
  | cons v t ih =>
    rw [MemSt.setBytes, ih, MemSt.byte_setByte]
    by_cases h1 : b = a
    · subst h1
      simp
    · by_cases h2 : a + 1 ≤ b ∧ b < a + 1 + t.length
      · have h3 : a ≤ b ∧ b < a + (v :: t).length := by simp; omega
        rw [if_pos h2, if_pos h3]
        obtain ⟨k, rfl⟩ : ∃ k, b = a + 1 + k := ⟨b - (a + 1), by omega⟩
        have : a + 1 + k - a = k + 1 := by omega
        simp [this]
      · have h3 : ¬(a ≤ b ∧ b < a + (v :: t).length) := by simp; omega
        rw [if_neg h2, if_neg h3, if_neg h1]

theorem MemSt.isPoison_setPoison (m : MemSt) (g k : Nat) (p : Bool) :
    (m.setPoison g p).isPoison k = if k = g then p else m.isPoison k := by
  unfold MemSt.isPoison MemSt.setPoison
  by_cases h : k = g
  · subst h; simpa using contains_putNat_same k p m.poison
  · simpa [h] using contains_putNat_ne g p m.poison h

@[simp] theorem MemSt.poison_setBytes (m : MemSt) (a : Nat) (l : List Byte) : (m.setBytes a l).poison = m.poison := by
  induction l generalizing m a with
  | nil => rfl
  | cons v t ih => rw [MemSt.setBytes, ih]; rfl

/-! ### The canonical form -/

theorem MemSt.wf_iff (m : MemSt) : m.wf = true ↔ smapWf memDefault m.cells = true ∧ m.poison.Pairwise (· < ·)
    ∧ keysRise m.damage = true ∧ m.retained.Pairwise (· < ·) := by
  simp [MemSt.wf, and_assoc]

theorem MemSt.setByte_wf (m : MemSt) (a : Nat) (v : Byte) (h : m.wf = true) : (m.setByte a v).wf = true := by
  rw [MemSt.wf_iff] at *
  exact ⟨smapWf_sset _ _ _ _ h.1, h.2⟩

theorem MemSt.setBytes_wf (m : MemSt) (a : Nat) (l : List Byte) (h : m.wf = true) : (m.setBytes a l).wf = true := by
  induction l generalizing m a with
  | nil => exact h
  | cons v t ih => exact ih _ _ (m.setByte_wf a v h)

theorem MemSt.setPoison_wf (m : MemSt) (g : Nat) (b : Bool) (h : m.wf = true) : (m.setPoison g b).wf = true := by
  rw [MemSt.wf_iff] at *
  exact ⟨h.1, putNat_rises _ _ _ h.2.1, h.2.2⟩

theorem MemSt.setDmg_wf (m : MemSt) (g : Nat) (x : Option Damage) (h : m.wf = true) : (m.setDmg g x).wf = true := by
  rw [MemSt.wf_iff] at *
  exact ⟨h.1, h.2.1, keysRise_sput _ _ _ h.2.2.1, h.2.2.2⟩

/-- Reset's memory is in its canonical form. -/
theorem MemSt.reset_wf : MemSt.reset.wf = true := by decide

end Sys2Proof.Machine
end

