-- ==== Sys2Proof/Laws/State.lean ====
section
/-! SUPPORT. One lemma per field of the device for each of its plainest updates: which fields an update leaves as they were. -/

namespace Sys2Proof.Machine

variable (d : Dev)

/-! ### wr: only `regs` changes -/

@[simp] theorem Dev.wr_shadow (off : Nat) (v : Word) : (d.wr off v).shadow = d.shadow := rfl
@[simp] theorem Dev.wr_latch (off : Nat) (v : Word) : (d.wr off v).latch = d.latch := rfl
@[simp] theorem Dev.wr_seedHeld (off : Nat) (v : Word) : (d.wr off v).seedHeld = d.seedHeld := rfl
@[simp] theorem Dev.wr_mem (off : Nat) (v : Word) : (d.wr off v).mem = d.mem := rfl
@[simp] theorem Dev.wr_host (off : Nat) (v : Word) : (d.wr off v).host = d.host := rfl
@[simp] theorem Dev.wr_queue (off : Nat) (v : Word) : (d.wr off v).queue = d.queue := rfl
@[simp] theorem Dev.wr_tier (off : Nat) (v : Word) : (d.wr off v).tier = d.tier := rfl
@[simp] theorem Dev.wr_rcd (off : Nat) (v : Word) : (d.wr off v).rcd = d.rcd := rfl
@[simp] theorem Dev.wr_cores (off : Nat) (v : Word) : (d.wr off v).cores = d.cores := rfl
@[simp] theorem Dev.wr_launches (off : Nat) (v : Word) : (d.wr off v).launches = d.launches := rfl
@[simp] theorem Dev.wr_kvClosing (off : Nat) (v : Word) : (d.wr off v).kvClosing = d.kvClosing := rfl
@[simp] theorem Dev.wr_trw (off : Nat) (v : Word) : (d.wr off v).trw = d.trw := rfl
@[simp] theorem Dev.wr_pwr (off : Nat) (v : Word) : (d.wr off v).pwr = d.pwr := rfl
@[simp] theorem Dev.wr_pins (off : Nat) (v : Word) : (d.wr off v).pins = d.pins := rfl
@[simp] theorem Dev.wr_col (off : Nat) (v : Word) : (d.wr off v).col = d.col := rfl
@[simp] theorem Dev.wr_mgmt (off : Nat) (v : Word) : (d.wr off v).mgmt = d.mgmt := rfl
@[simp] theorem Dev.wr_media (off : Nat) (v : Word) : (d.wr off v).media = d.media := rfl
@[simp] theorem Dev.wr_now (off : Nat) (v : Word) : (d.wr off v).now = d.now := rfl
@[simp] theorem Dev.wr_resp (off : Nat) (v : Word) : (d.wr off v).resp = d.resp := rfl
@[simp] theorem Dev.wr_sent (off : Nat) (v : Word) : (d.wr off v).sent = d.sent := rfl
@[simp] theorem Dev.wr_free (off : Nat) (v : Word) : (d.wr off v).free = d.free := rfl

/-! ### wrFld: only `regs` changes -/

@[simp] theorem Dev.wrFld_shadow (off hi lo v : Nat) : (d.wrFld off hi lo v).shadow = d.shadow := rfl
@[simp] theorem Dev.wrFld_latch (off hi lo v : Nat) : (d.wrFld off hi lo v).latch = d.latch := rfl
@[simp] theorem Dev.wrFld_seedHeld (off hi lo v : Nat) : (d.wrFld off hi lo v).seedHeld = d.seedHeld := rfl
@[simp] theorem Dev.wrFld_mem (off hi lo v : Nat) : (d.wrFld off hi lo v).mem = d.mem := rfl
@[simp] theorem Dev.wrFld_host (off hi lo v : Nat) : (d.wrFld off hi lo v).host = d.host := rfl
@[simp] theorem Dev.wrFld_queue (off hi lo v : Nat) : (d.wrFld off hi lo v).queue = d.queue := rfl
@[simp] theorem Dev.wrFld_tier (off hi lo v : Nat) : (d.wrFld off hi lo v).tier = d.tier := rfl
@[simp] theorem Dev.wrFld_rcd (off hi lo v : Nat) : (d.wrFld off hi lo v).rcd = d.rcd := rfl
@[simp] theorem Dev.wrFld_cores (off hi lo v : Nat) : (d.wrFld off hi lo v).cores = d.cores := rfl
@[simp] theorem Dev.wrFld_launches (off hi lo v : Nat) : (d.wrFld off hi lo v).launches = d.launches := rfl
@[simp] theorem Dev.wrFld_kvClosing (off hi lo v : Nat) : (d.wrFld off hi lo v).kvClosing = d.kvClosing := rfl
@[simp] theorem Dev.wrFld_trw (off hi lo v : Nat) : (d.wrFld off hi lo v).trw = d.trw := rfl
@[simp] theorem Dev.wrFld_pwr (off hi lo v : Nat) : (d.wrFld off hi lo v).pwr = d.pwr := rfl
@[simp] theorem Dev.wrFld_pins (off hi lo v : Nat) : (d.wrFld off hi lo v).pins = d.pins := rfl
@[simp] theorem Dev.wrFld_col (off hi lo v : Nat) : (d.wrFld off hi lo v).col = d.col := rfl
@[simp] theorem Dev.wrFld_mgmt (off hi lo v : Nat) : (d.wrFld off hi lo v).mgmt = d.mgmt := rfl
@[simp] theorem Dev.wrFld_media (off hi lo v : Nat) : (d.wrFld off hi lo v).media = d.media := rfl
@[simp] theorem Dev.wrFld_now (off hi lo v : Nat) : (d.wrFld off hi lo v).now = d.now := rfl
@[simp] theorem Dev.wrFld_resp (off hi lo v : Nat) : (d.wrFld off hi lo v).resp = d.resp := rfl
@[simp] theorem Dev.wrFld_sent (off hi lo v : Nat) : (d.wrFld off hi lo v).sent = d.sent := rfl
@[simp] theorem Dev.wrFld_free (off hi lo v : Nat) : (d.wrFld off hi lo v).free = d.free := rfl

/-! ### wr64: only `regs` changes -/

@[simp] theorem Dev.wr64_shadow (off v : Nat) : (d.wr64 off v).shadow = d.shadow := rfl
@[simp] theorem Dev.wr64_latch (off v : Nat) : (d.wr64 off v).latch = d.latch := rfl
@[simp] theorem Dev.wr64_seedHeld (off v : Nat) : (d.wr64 off v).seedHeld = d.seedHeld := rfl
@[simp] theorem Dev.wr64_mem (off v : Nat) : (d.wr64 off v).mem = d.mem := rfl
@[simp] theorem Dev.wr64_host (off v : Nat) : (d.wr64 off v).host = d.host := rfl
@[simp] theorem Dev.wr64_queue (off v : Nat) : (d.wr64 off v).queue = d.queue := rfl
@[simp] theorem Dev.wr64_tier (off v : Nat) : (d.wr64 off v).tier = d.tier := rfl
@[simp] theorem Dev.wr64_rcd (off v : Nat) : (d.wr64 off v).rcd = d.rcd := rfl
@[simp] theorem Dev.wr64_cores (off v : Nat) : (d.wr64 off v).cores = d.cores := rfl
@[simp] theorem Dev.wr64_launches (off v : Nat) : (d.wr64 off v).launches = d.launches := rfl
@[simp] theorem Dev.wr64_kvClosing (off v : Nat) : (d.wr64 off v).kvClosing = d.kvClosing := rfl
@[simp] theorem Dev.wr64_trw (off v : Nat) : (d.wr64 off v).trw = d.trw := rfl
@[simp] theorem Dev.wr64_pwr (off v : Nat) : (d.wr64 off v).pwr = d.pwr := rfl
@[simp] theorem Dev.wr64_pins (off v : Nat) : (d.wr64 off v).pins = d.pins := rfl
@[simp] theorem Dev.wr64_col (off v : Nat) : (d.wr64 off v).col = d.col := rfl
@[simp] theorem Dev.wr64_mgmt (off v : Nat) : (d.wr64 off v).mgmt = d.mgmt := rfl
@[simp] theorem Dev.wr64_media (off v : Nat) : (d.wr64 off v).media = d.media := rfl
@[simp] theorem Dev.wr64_now (off v : Nat) : (d.wr64 off v).now = d.now := rfl
@[simp] theorem Dev.wr64_resp (off v : Nat) : (d.wr64 off v).resp = d.resp := rfl
@[simp] theorem Dev.wr64_sent (off v : Nat) : (d.wr64 off v).sent = d.sent := rfl
@[simp] theorem Dev.wr64_free (off v : Nat) : (d.wr64 off v).free = d.free := rfl

/-! ### refresh: only `regs` changes -/

@[simp] theorem Dev.refresh_shadow : (d.refresh).shadow = d.shadow := rfl
@[simp] theorem Dev.refresh_latch : (d.refresh).latch = d.latch := rfl
@[simp] theorem Dev.refresh_seedHeld : (d.refresh).seedHeld = d.seedHeld := rfl
@[simp] theorem Dev.refresh_mem : (d.refresh).mem = d.mem := rfl
@[simp] theorem Dev.refresh_host : (d.refresh).host = d.host := rfl
@[simp] theorem Dev.refresh_queue : (d.refresh).queue = d.queue := rfl
@[simp] theorem Dev.refresh_tier : (d.refresh).tier = d.tier := rfl
@[simp] theorem Dev.refresh_rcd : (d.refresh).rcd = d.rcd := rfl
@[simp] theorem Dev.refresh_cores : (d.refresh).cores = d.cores := rfl
@[simp] theorem Dev.refresh_launches : (d.refresh).launches = d.launches := rfl
@[simp] theorem Dev.refresh_kvClosing : (d.refresh).kvClosing = d.kvClosing := rfl
@[simp] theorem Dev.refresh_trw : (d.refresh).trw = d.trw := rfl
@[simp] theorem Dev.refresh_pwr : (d.refresh).pwr = d.pwr := rfl
@[simp] theorem Dev.refresh_pins : (d.refresh).pins = d.pins := rfl
@[simp] theorem Dev.refresh_col : (d.refresh).col = d.col := rfl
@[simp] theorem Dev.refresh_mgmt : (d.refresh).mgmt = d.mgmt := rfl
@[simp] theorem Dev.refresh_media : (d.refresh).media = d.media := rfl
@[simp] theorem Dev.refresh_now : (d.refresh).now = d.now := rfl
@[simp] theorem Dev.refresh_resp : (d.refresh).resp = d.resp := rfl
@[simp] theorem Dev.refresh_sent : (d.refresh).sent = d.sent := rfl
@[simp] theorem Dev.refresh_free : (d.refresh).free = d.free := rfl

/-! ### send: only `sent` changes -/

@[simp] theorem Dev.send_regs (m : Sent) : (d.send m).regs = d.regs := rfl
@[simp] theorem Dev.send_shadow (m : Sent) : (d.send m).shadow = d.shadow := rfl
@[simp] theorem Dev.send_latch (m : Sent) : (d.send m).latch = d.latch := rfl
@[simp] theorem Dev.send_seedHeld (m : Sent) : (d.send m).seedHeld = d.seedHeld := rfl
@[simp] theorem Dev.send_mem (m : Sent) : (d.send m).mem = d.mem := rfl
@[simp] theorem Dev.send_host (m : Sent) : (d.send m).host = d.host := rfl
@[simp] theorem Dev.send_queue (m : Sent) : (d.send m).queue = d.queue := rfl
@[simp] theorem Dev.send_tier (m : Sent) : (d.send m).tier = d.tier := rfl
@[simp] theorem Dev.send_rcd (m : Sent) : (d.send m).rcd = d.rcd := rfl
@[simp] theorem Dev.send_cores (m : Sent) : (d.send m).cores = d.cores := rfl
@[simp] theorem Dev.send_launches (m : Sent) : (d.send m).launches = d.launches := rfl
@[simp] theorem Dev.send_kvClosing (m : Sent) : (d.send m).kvClosing = d.kvClosing := rfl
@[simp] theorem Dev.send_trw (m : Sent) : (d.send m).trw = d.trw := rfl
@[simp] theorem Dev.send_pwr (m : Sent) : (d.send m).pwr = d.pwr := rfl
@[simp] theorem Dev.send_pins (m : Sent) : (d.send m).pins = d.pins := rfl
@[simp] theorem Dev.send_col (m : Sent) : (d.send m).col = d.col := rfl
@[simp] theorem Dev.send_mgmt (m : Sent) : (d.send m).mgmt = d.mgmt := rfl
@[simp] theorem Dev.send_media (m : Sent) : (d.send m).media = d.media := rfl
@[simp] theorem Dev.send_now (m : Sent) : (d.send m).now = d.now := rfl
@[simp] theorem Dev.send_resp (m : Sent) : (d.send m).resp = d.resp := rfl
@[simp] theorem Dev.send_free (m : Sent) : (d.send m).free = d.free := rfl

/-! ### setCmd: only `queue` changes -/

@[simp] theorem Dev.setCmd_regs (q : Nat) (i : Word) (f : Inflight → Inflight) : (d.setCmd q i f).regs = d.regs := rfl
@[simp] theorem Dev.setCmd_shadow (q : Nat) (i : Word) (f : Inflight → Inflight) : (d.setCmd q i f).shadow = d.shadow := rfl
@[simp] theorem Dev.setCmd_latch (q : Nat) (i : Word) (f : Inflight → Inflight) : (d.setCmd q i f).latch = d.latch := rfl
@[simp] theorem Dev.setCmd_seedHeld (q : Nat) (i : Word) (f : Inflight → Inflight) : (d.setCmd q i f).seedHeld = d.seedHeld := rfl
@[simp] theorem Dev.setCmd_mem (q : Nat) (i : Word) (f : Inflight → Inflight) : (d.setCmd q i f).mem = d.mem := rfl
@[simp] theorem Dev.setCmd_host (q : Nat) (i : Word) (f : Inflight → Inflight) : (d.setCmd q i f).host = d.host := rfl
@[simp] theorem Dev.setCmd_tier (q : Nat) (i : Word) (f : Inflight → Inflight) : (d.setCmd q i f).tier = d.tier := rfl
@[simp] theorem Dev.setCmd_rcd (q : Nat) (i : Word) (f : Inflight → Inflight) : (d.setCmd q i f).rcd = d.rcd := rfl
@[simp] theorem Dev.setCmd_cores (q : Nat) (i : Word) (f : Inflight → Inflight) : (d.setCmd q i f).cores = d.cores := rfl
@[simp] theorem Dev.setCmd_launches (q : Nat) (i : Word) (f : Inflight → Inflight) : (d.setCmd q i f).launches = d.launches := rfl
@[simp] theorem Dev.setCmd_kvClosing (q : Nat) (i : Word) (f : Inflight → Inflight) : (d.setCmd q i f).kvClosing = d.kvClosing := rfl
@[simp] theorem Dev.setCmd_trw (q : Nat) (i : Word) (f : Inflight → Inflight) : (d.setCmd q i f).trw = d.trw := rfl
@[simp] theorem Dev.setCmd_pwr (q : Nat) (i : Word) (f : Inflight → Inflight) : (d.setCmd q i f).pwr = d.pwr := rfl
@[simp] theorem Dev.setCmd_pins (q : Nat) (i : Word) (f : Inflight → Inflight) : (d.setCmd q i f).pins = d.pins := rfl
@[simp] theorem Dev.setCmd_col (q : Nat) (i : Word) (f : Inflight → Inflight) : (d.setCmd q i f).col = d.col := rfl
@[simp] theorem Dev.setCmd_mgmt (q : Nat) (i : Word) (f : Inflight → Inflight) : (d.setCmd q i f).mgmt = d.mgmt := rfl
@[simp] theorem Dev.setCmd_media (q : Nat) (i : Word) (f : Inflight → Inflight) : (d.setCmd q i f).media = d.media := rfl
@[simp] theorem Dev.setCmd_now (q : Nat) (i : Word) (f : Inflight → Inflight) : (d.setCmd q i f).now = d.now := rfl
@[simp] theorem Dev.setCmd_resp (q : Nat) (i : Word) (f : Inflight → Inflight) : (d.setCmd q i f).resp = d.resp := rfl
@[simp] theorem Dev.setCmd_sent (q : Nat) (i : Word) (f : Inflight → Inflight) : (d.setCmd q i f).sent = d.sent := rfl
@[simp] theorem Dev.setCmd_free (q : Nat) (i : Word) (f : Inflight → Inflight) : (d.setCmd q i f).free = d.free := rfl

/-! ### `fresh`: only the counter moves -/

@[simp] theorem Dev.fresh_fst : d.fresh.1 = d.free := rfl
@[simp] theorem Dev.fresh_free : d.fresh.2.free = d.free + 1 := rfl
@[simp] theorem Dev.fresh_regs : d.fresh.2.regs = d.regs := rfl
@[simp] theorem Dev.fresh_shadow : d.fresh.2.shadow = d.shadow := rfl
@[simp] theorem Dev.fresh_latch : d.fresh.2.latch = d.latch := rfl
@[simp] theorem Dev.fresh_seedHeld : d.fresh.2.seedHeld = d.seedHeld := rfl
@[simp] theorem Dev.fresh_mem : d.fresh.2.mem = d.mem := rfl
@[simp] theorem Dev.fresh_host : d.fresh.2.host = d.host := rfl
@[simp] theorem Dev.fresh_queue : d.fresh.2.queue = d.queue := rfl
@[simp] theorem Dev.fresh_tier : d.fresh.2.tier = d.tier := rfl
@[simp] theorem Dev.fresh_rcd : d.fresh.2.rcd = d.rcd := rfl
@[simp] theorem Dev.fresh_cores : d.fresh.2.cores = d.cores := rfl
@[simp] theorem Dev.fresh_launches : d.fresh.2.launches = d.launches := rfl
@[simp] theorem Dev.fresh_kvClosing : d.fresh.2.kvClosing = d.kvClosing := rfl
@[simp] theorem Dev.fresh_trw : d.fresh.2.trw = d.trw := rfl
@[simp] theorem Dev.fresh_pwr : d.fresh.2.pwr = d.pwr := rfl
@[simp] theorem Dev.fresh_pins : d.fresh.2.pins = d.pins := rfl
@[simp] theorem Dev.fresh_col : d.fresh.2.col = d.col := rfl
@[simp] theorem Dev.fresh_mgmt : d.fresh.2.mgmt = d.mgmt := rfl
@[simp] theorem Dev.fresh_media : d.fresh.2.media = d.media := rfl
@[simp] theorem Dev.fresh_now : d.fresh.2.now = d.now := rfl
@[simp] theorem Dev.fresh_resp : d.fresh.2.resp = d.resp := rfl
@[simp] theorem Dev.fresh_sent : d.fresh.2.sent = d.sent := rfl

/-! ### A device is its fields -/

/-- Two devices that agree in every field are equal. -/
theorem Dev.ext_fields {d e : Dev} (h0 : d.regs = e.regs) (h1 : d.shadow = e.shadow) (h2 : d.latch = e.latch) (h3 : d.seedHeld = e.seedHeld) (h4 : d.mem = e.mem) (h5 : d.host = e.host) (h6 : d.queue = e.queue) (h7 : d.tier = e.tier) (h8 : d.rcd = e.rcd) (h9 : d.cores = e.cores) (h10 : d.launches = e.launches) (h11 : d.kvClosing = e.kvClosing) (h12 : d.trw = e.trw) (h13 : d.pwr = e.pwr) (h14 : d.pins = e.pins) (h15 : d.col = e.col) (h16 : d.mgmt = e.mgmt) (h17 : d.media = e.media) (h18 : d.now = e.now) (h19 : d.resp = e.resp) (h20 : d.sent = e.sent) (h21 : d.free = e.free) : d = e := by
  cases d; cases e; simp_all

end Sys2Proof.Machine
end

