-- ==== Sys2Proof/Laws/Regs.lean ====
section
/-! SUPPORT. Laws of the register file: reads after writes, and what `refresh` (the copies in the status words, R378, R379) can do. -/

namespace Sys2Proof.Machine

variable (d : Dev)

/-! ### Reads after writes -/

theorem Dev.rd_wr (off j : Nat) (v : Word) : (d.wr off v).rd j = if j = off then v else d.rd j := sget_sset _ _ _ _ _

@[simp] theorem Dev.rd_wr_same (off : Nat) (v : Word) : (d.wr off v).rd off = v := sget_sset_same _ _ _ _

theorem Dev.rd_wr_ne {off j : Nat} (v : Word) (h : j ≠ off) : (d.wr off v).rd j = d.rd j := sget_sset_ne _ _ _ h

theorem Dev.rd_wrFld (off hi lo v j : Nat) :
    (d.wrFld off hi lo v).rd j = if j = off then setFld hi lo v (d.rd off) else d.rd j := d.rd_wr _ _ _

theorem Dev.rd_wr64 (off v j : Nat) : (d.wr64 off v).rd j =
    if j = off + 4 then BitVec.ofNat 32 (v / 2 ^ 32) else if j = off then BitVec.ofNat 32 v else d.rd j := by
  unfold Dev.wr64
  rw [Dev.rd_wr, Dev.rd_wr]

/-- A pair reads as it was set. -/
theorem Dev.rd64_wr64 (off v : Nat) : (d.wr64 off v).rd64 off = v % 2 ^ 64 := by
  unfold Dev.rd64
  rw [Dev.rd_wr64, Dev.rd_wr64]
  simp
  omega

@[simp] theorem Dev.rd_send (m : Sent) (j : Nat) : (d.send m).rd j = d.rd j := rfl
@[simp] theorem Dev.rd_setCmd (q : Nat) (i : Word) (f : Inflight → Inflight) (j : Nat) : (d.setCmd q i f).rd j = d.rd j := rfl
@[simp] theorem Dev.rd_fresh (j : Nat) : d.fresh.2.rd j = d.rd j := rfl

/-! ### Refresh -/

/-- The word that refresh puts in TOP_STATUS. -/
def Dev.topWord : Word :=
  setFld 3 0 (fld 3 0 (d.rd rBootState)) (setBit 12 (bitOf 6 (d.rd rBootState))
    (setBit 11 (bitOf 0 (d.rd rLockStatus) || bitOf 1 (d.rd rLockStatus)) (d.rd rTopStatus)))

/-- The word that refresh puts in TOP_P_STATUS of partition `p`. -/
def Dev.partWord (p : Nat) : Word :=
  setBit 16 (d.queue.infl.all (fun x => x.part ≠ p || x.phase = .early))
    (setFld 15 8 (fld 23 16 d.topWord &&& fld 7 0 (d.rd (rTopPStatus p))) (d.rd (rTopPStatus p)))

/-- Refresh as nine register writes. -/
theorem Dev.refresh_eq : d.refresh = (((((((((d.wr rTopStatus d.topWord).wr (rTopPStatus 0) (d.partWord 0)).wr (rTopPStatus 1)
    (d.partWord 1)).wr (rTopPStatus 2) (d.partWord 2)).wr (rTopPStatus 3) (d.partWord 3)).wr (rTopPStatus 4) (d.partWord 4)).wr
    (rTopPStatus 5) (d.partWord 5)).wr (rTopPStatus 6) (d.partWord 6)).wr (rTopPStatus 7) (d.partWord 7)) := by
  have h (p : Nat) : rTopPStatus p ≠ rTopStatus := by unfold rTopPStatus rTopStatus; omega
  have h1 (p q : Nat) : (rTopPStatus p = rTopPStatus q) ↔ p = q := by unfold rTopPStatus; omega
  simp only [Dev.refresh, Dev.each, List.range, List.range.loop, List.foldl, Dev.rd_wr, h, h1, if_false, Dev.wr_queue,
    Dev.partWord, Dev.topWord]
  simp

/-- Refresh leaves every register but the copies alone. -/
theorem Dev.rd_refresh {off : Nat} (h : off ≠ rTopStatus) (hp : ∀ p < 8, off ≠ rTopPStatus p) : d.refresh.rd off = d.rd off := by
  rw [Dev.refresh_eq]
  simp only [Dev.rd_wr, h, if_false, hp 0 (by omega), hp 1 (by omega), hp 2 (by omega), hp 3 (by omega), hp 4 (by omega),
    hp 5 (by omega), hp 6 (by omega), hp 7 (by omega)]

/-- Every register that refresh does not touch lies elsewhere: above the TOP block, or in it with another offset. -/
theorem Dev.rd_refresh_far {off : Nat} (h : 0x808000 ≤ off) : d.refresh.rd off = d.rd off :=
  d.rd_refresh (by unfold rTopStatus; omega) (fun p hp => by unfold rTopPStatus; omega)

theorem Dev.rd_refresh_top : d.refresh.rd rTopStatus = d.topWord := by
  rw [Dev.refresh_eq]
  have h (p : Nat) : rTopStatus ≠ rTopPStatus p := by unfold rTopPStatus rTopStatus; omega
  simp only [Dev.rd_wr, h, if_false]
  simp

theorem Dev.rd_refresh_part {p : Nat} (hp : p < 8) : d.refresh.rd (rTopPStatus p) = d.partWord p := by
  rw [Dev.refresh_eq]
  have h1 (p q : Nat) : (rTopPStatus p = rTopPStatus q) ↔ p = q := by unfold rTopPStatus; omega
  interval_cases p <;> simp [Dev.rd_wr, h1]

end Sys2Proof.Machine
end

