-- ==== Sys2Proof/Laws/Access.lean ====
section
/-! SUPPORT. What every access to memory can do, said once: it changes registers of the access log, of the memory, tier, Flowstone and
PCIe blocks and the EPOCH flags, the memories, the recorder, page records, wakes and reservations, and keeps memory in its
canonical form; everything else stays. -/

namespace Sys2Proof.Machine

/-- The registers that an access to memory may change: the access log, GAL, HBM and SMP, the byte counts of TRW engines 8 and 9
(R211), the epoch pages (POISON), FLW and PCI. -/
def memReg (off : Nat) : Bool :=
  (0x10 ≤ off && off < 0x28) || (0x5000000 ≤ off && off < 0x8000000) || (0x8800030 ≤ off && off < 0x8800040)
    || (0x8900030 ≤ off && off < 0x8900040) || (0x9800000 ≤ off && off < 0x9808000 && off % 4096 = 0xC)
    || (0x13000000 ≤ off && off < 0x14000000) || 0x16000000 ≤ off

/-- The parts of the device that no access to memory changes. -/
def Dev.still (d : Dev) := (d.shadow, d.latch, d.seedHeld, d.queue, d.launches, d.kvClosing, d.trw, d.pins, d.col, d.mgmt, d.media,
  d.now, d.resp, d.sent)

/-- From `d` to `t` nothing changes but what an access to memory may change, and canonical memory stays canonical. -/
structure MemOnly (d t : Dev) : Prop where
  still : t.still = d.still
  rd : ∀ off, memReg off = false → t.rd off = d.rd off
  wf : d.mem.wf = true → t.mem.wf = true

theorem MemOnly.refl (d : Dev) : MemOnly d d := ⟨rfl, fun _ _ => rfl, id⟩

theorem MemOnly.trans {a b c : Dev} (h : MemOnly a b) (k : MemOnly b c) : MemOnly a c :=
  ⟨k.still.trans h.still, fun off ho => (k.rd off ho).trans (h.rd off ho), fun w => k.wf (h.wf w)⟩

/-- A fold of steps, each of which relates its result to what it starts from, relates its end to its beginning. -/
theorem foldl_rel {α β : Type} (R : β → β → Prop) (hr : ∀ b, R b b) (ht : ∀ a b c, R a b → R b c → R a c) (f : β → α → β)
    (hf : ∀ b a, R b (f b a)) (l : List α) (b : β) : R b (l.foldl f b) := by
  induction l generalizing b with
  | nil => exact hr b
  | cons a t ih => exact ht _ _ _ (hf b a) (ih _)

theorem memOnly_each {α : Type} (d : Dev) (l : List α) (f : Dev → α → Dev) (h : ∀ d a, MemOnly d (f d a)) : MemOnly d (d.each l f) :=
  foldl_rel MemOnly MemOnly.refl (fun _ _ _ => MemOnly.trans) f h l d

/-- The same for a fold that carries a value beside the device. -/
theorem memOnly_fold {α γ : Type} (l : List α) (f : γ × Dev → α → γ × Dev) (h : ∀ r a, MemOnly r.2 (f r a).2) (r : γ × Dev) :
    MemOnly r.2 (l.foldl f r).2 :=
  foldl_rel (fun a b => MemOnly a.2 b.2) (fun _ => MemOnly.refl _) (fun _ _ _ => MemOnly.trans) f h l r

/-! ### Registers and records -/

theorem memOnly_wr {off : Nat} (h : memReg off = true) (d : Dev) (v : Word) : MemOnly d (d.wr off v) :=
  ⟨rfl, fun k hk => d.rd_wr_ne v (by rintro rfl; simp [h] at hk), id⟩

theorem memOnly_wrFld {off : Nat} (h : memReg off = true) (d : Dev) (a b v : Nat) : MemOnly d (d.wrFld off a b v) := memOnly_wr h d _

theorem memOnly_wr64 {off : Nat} (h : memReg off = true) (h4 : memReg (off + 4) = true) (d : Dev) (v : Nat) : MemOnly d (d.wr64 off v) :=
  (memOnly_wr h d _).trans (memOnly_wr h4 _ _)

theorem memOnly_add64 {off : Nat} (h : memReg off = true) (h4 : memReg (off + 4) = true) (d : Dev) (n : Nat) : MemOnly d (d.add64 off n) := by
  unfold Dev.add64; split
  · exact .refl d
  · exact memOnly_wr64 h h4 d _

theorem memOnly_addSat {off : Nat} (h : memReg off = true) (d : Dev) (n : Nat) : MemOnly d (d.addSat off n) := by
  unfold Dev.addSat; split
  · exact .refl d
  · exact memOnly_wr h d _

theorem memOnly_raise {off : Nat} (h : memReg off = true) (d : Dev) (b : Nat) (f : Dev → Dev) (hf : ∀ d, MemOnly d (f d)) :
    MemOnly d (d.raise off b f) := by
  unfold Dev.raise; dsimp only; split
  · exact (memOnly_wr h d _).trans (hf _)
  · exact memOnly_wr h d _

/-- A change of the recorder alone. -/
theorem memOnly_rcd (d : Dev) (r : RecSt) : MemOnly d { d with rcd := r } := ⟨rfl, fun _ _ => rfl, id⟩

theorem memOnly_flwWith (d : Dev) (l : List Word) (a b c e : Nat) : MemOnly d (d.flwWith l a b c e) := by
  unfold Dev.flwWith
  split
  · exact .refl d
  · split
    · exact (memOnly_addSat (off := rFlwDrop) (by decide) d 1).trans ⟨rfl, fun _ _ => rfl, id⟩
    · dsimp only
      exact ((memOnly_rcd d _).trans (memOnly_wr (off := rFlwSeq) (by decide) _ _)).trans
        (memOnly_wrFld (off := rFlwStatus) (by decide) _ _ _ _)

theorem memOnly_flw (d : Dev) (a b c e : Nat) : MemOnly d (d.flw a b c e) := memOnly_flwWith d [] a b c e

theorem memOnly_ledger (d : Dev) (a b c e : Nat) (w : Word) : MemOnly d (d.ledger a b c e w) := by
  unfold Dev.ledger
  dsimp only
  split
  · exact ⟨rfl, fun _ _ => rfl, id⟩
  · split
    · exact ⟨rfl, fun _ _ => rfl, id⟩
    · split
      · exact ⟨rfl, fun _ _ => rfl, id⟩
      · exact .refl d

theorem memOnly_accessErr (d : Dev) (a b c e : Nat) : MemOnly d (d.accessErr a b c e) :=
  ((memOnly_raise (off := rTopAccessErr) (by decide) d _ _ fun _ => (memOnly_wr (off := rTopAccessSrc) (by decide) _ _).trans
    (memOnly_wr64 (off := rTopAccessAddrLo) (by decide) (by decide) _ _)).trans
    (memOnly_addSat (off := rTopAccessCount) (by decide) _ _)).trans (memOnly_flw _ _ _ _ _)

/-- The POISON flag of a partition. -/
theorem memOnly_epFlag {p : Nat} (hp : p < 8) (d : Dev) (b : Nat) : MemOnly d (d.epFlag p b) :=
  memOnly_wr (by unfold memReg rColEpFlags; simp; omega) d _

theorem memOnly_refuse {p : Nat} (hp : p < 8) (d : Dev) (a b : Nat) : MemOnly d (d.refuse p a b) :=
  (memOnly_epFlag hp d 0).trans (memOnly_flw _ _ _ _ _)

theorem memOnly_wake (d : Dev) (u : WakeUnit) (n : Nat) : MemOnly d (d.requestWake u n) := by
  unfold Dev.requestWake; split
  · exact .refl d
  · exact ⟨rfl, fun _ _ => rfl, id⟩

/-! ### Granules (07) -/

theorem hbmPc_lt (a : Nat) : hbmPc a < 768 := Nat.mod_lt _ (by decide)

theorem errPage_lt {a pg : Nat} (h : errPage a = some pg) : pg < 20 := by
  unfold errPage at h
  split at h
  · have := hbmPc_lt a; simp at h; omega
  · split at h
    · simp only [Option.some.injEq] at h
      subst h
      rename_i hg
      unfold isGallery at hg; unfold galDie
      simp at hg; omega
    · cases h

theorem memReg_pg {pg off : Nat} (h : pg < 20) (ho : off < 0x100000) : memReg (pgReg pg off) = true := by
  unfold pgReg memReg
  split <;> simp <;> omega

theorem memOnly_memErr {pg : Nat} (h : pg < 20) (d : Dev) (b s y k a : Nat) : MemOnly d (d.memErr pg b s y k a) := by
  have m (off : Nat) (ho : off < 0x100000 := by decide) := memReg_pg h ho
  have m4 : memReg (pgReg pg 0x18 + 4) = true := by
    have : pgReg pg 0x18 + 4 = pgReg pg 0x1C := by unfold pgReg; split <;> omega
    rw [this]; exact m 0x1C
  refine memOnly_raise (m 0x10) d _ _ fun d => ?_
  dsimp only
  split
  · exact (memOnly_wr64 (m 0x18) m4 d _).trans (memOnly_wr (m 0x20) _ _)
  · exact ((memOnly_wr64 (m 0x18) m4 d _).trans (memOnly_wr (m 0x20) _ _)).trans
      ((memOnly_wr (m 0x24) _ _).trans (memOnly_wr (m 0x28) _ _))

/-- A change of memory alone. -/
theorem memOnly_mem (d : Dev) (m : MemSt) (h : d.mem.wf = true → m.wf = true) : MemOnly d { d with mem := m } := ⟨rfl, fun _ _ => rfl, h⟩

theorem memOnly_memCe {pg : Nat} (h : pg < 20) (d : Dev) (s y a : Nat) : MemOnly d (d.memCe pg s y a) := by
  unfold Dev.memCe
  dsimp only
  have h0 := (memOnly_memErr h d 0 s y 0 a).trans (memOnly_addSat (memReg_pg h (by decide : 0x30 < 0x100000)) _ 1)
  split
  · exact h0
  · have h1 := h0.trans (memOnly_mem _ { (((d.memErr pg 0 s y 0 a).addSat (pgReg pg 0x30) 1)).mem with
      ceCount := sset (fun _ => 0) ((d.memErr pg 0 s y 0 a).addSat (pgReg pg 0x30) 1).mem.ceCount pg
        (sget (fun _ => 0) ((d.memErr pg 0 s y 0 a).addSat (pgReg pg 0x30) 1).mem.ceCount pg + 1) } id)
    split
    · exact h1.trans (((memOnly_memErr h _ _ _ _ _ _).trans (memOnly_flwWith _ _ _ _ _ _)).trans (memOnly_ledger _ _ _ _ _ _))
    · exact h1

theorem memOnly_fresh (d : Dev) : MemOnly d d.fresh.2 := ⟨rfl, fun _ _ => rfl, id⟩

theorem memOnly_found (d : Dev) (a : Nat) : MemOnly d (d.found a).2 := by
  unfold Dev.found
  dsimp only
  split
  · split
    · exact memOnly_mem _ _ id
    · exact memOnly_mem _ _ fun w => MemSt.setDmg_wf _ _ _ w
  · split
    · split
      · exact memOnly_fresh d
      · split <;> exact memOnly_fresh d
    · dsimp only
      split
      · rename_i hp
        exact memOnly_addSat (memReg_pg (errPage_lt hp) (by decide)) d 1
      · exact .refl d
    · exact .refl d

theorem memOnly_ueLedger (d : Dev) (pg src a : Nat) : MemOnly d (d.ueLedger pg src a) := by
  refine MemOnly.trans ?_ (memOnly_ledger _ _ _ _ _ _)
  unfold Dev.ueSeen
  split
  · exact memOnly_mem _ _ id
  · exact .refl d

theorem memOnly_corrected (d : Dev) (src sym a : Nat) : MemOnly d (d.corrected src sym a) := by
  unfold Dev.corrected
  split
  · rename_i hp; exact memOnly_memCe (errPage_lt hp) _ _ _ _
  · exact .refl d

theorem memOnly_uncorrectable (d : Dev) (src : Nat) (scrub : Bool) (a : Nat) : MemOnly d (d.uncorrectable src scrub a) := by
  unfold Dev.uncorrectable
  split
  · rename_i hp
    have hp := errPage_lt hp
    have h1 (k : Nat) := (memOnly_memErr hp d 1 src 0x7F k a).trans (memOnly_addSat (memReg_pg hp (off := 0x34) (by decide)) _ 1)
    have h2 (d : Dev) (pg k : Nat) : MemOnly d ((d.memFlw pg k src).ueLedger pg src a) :=
      (memOnly_flwWith _ _ _ _ _ _).trans (memOnly_ueLedger _ _ _ _)
    cases scrub
    · exact (h1 1).trans (h2 _ _ 1)
    · exact ((h1 3).trans (memOnly_memErr hp _ _ _ _ _ _)).trans (h2 _ _ 3)
  · split
    · exact memOnly_flw _ _ _ _ _
    · exact .refl d

theorem memOnly_poisonRead (d : Dev) (src : Nat) (scrub : Bool) (a : Nat) : MemOnly d (d.poisonRead src scrub a) := by
  unfold Dev.poisonRead
  split
  · rename_i hp
    have hp := errPage_lt hp
    split
    · exact .refl d
    · exact (memOnly_memErr hp _ _ _ _ _ _).trans (memOnly_addSat (memReg_pg hp (by decide)) _ _)
  · exact .refl d

theorem memOnly_readGran (d : Dev) (src : Nat) (scrub : Bool) (a : Nat) : MemOnly d (d.readGran src scrub a).2 := by
  unfold Dev.readGran
  dsimp only
  have hf := memOnly_found d a
  split
  · exact memOnly_poisonRead _ _ _ _
  · split
    · exact hf
    · refine hf.trans (MemOnly.trans (memOnly_mem _ _ fun w => ?_) (memOnly_corrected _ _ _ _))
      exact MemSt.setDmg_wf _ _ _ (MemSt.setBytes_wf _ _ _ w)
    · refine hf.trans (MemOnly.trans ?_ (memOnly_uncorrectable _ _ _ _))
      split
      · exact .refl _
      · exact memOnly_mem _ _ fun w => MemSt.setPoison_wf _ _ _ (MemSt.setDmg_wf _ _ _ w)

theorem memOnly_partPoisoned (d : Dev) (src a : Nat) : MemOnly d (d.partPoisoned src a) := by
  unfold Dev.partPoisoned
  split
  · rename_i hp
    have hp := errPage_lt hp
    exact ((memOnly_memErr hp _ _ _ _ _ _).trans (memOnly_addSat (memReg_pg hp (off := 0x38) (by decide)) _ _)).trans
      ((memOnly_flwWith _ _ _ _ _ _).trans (memOnly_ueLedger _ _ _ _))
  · split
    · exact memOnly_flw _ _ _ _ _
    · exact .refl d

theorem memOnly_rmwGran (d : Dev) (src a : Nat) (f : List Byte → List Byte) (mark : Bool) : MemOnly d (d.rmwGran src a f mark) := by
  unfold Dev.rmwGran
  dsimp only
  have hput (d : Dev) (bs : List Byte) (p : Bool) :
      MemOnly d { d with mem := ((d.mem.setBytes a (f bs)).setPoison (a / 64) p).setDmg (a / 64) none } :=
    memOnly_mem _ _ fun w => MemSt.setDmg_wf _ _ _ (MemSt.setPoison_wf _ _ _ (MemSt.setBytes_wf _ _ _ w))
  have hf := memOnly_found d a
  split
  · exact hput _ _ _
  · split
    · exact hf.trans (hput _ _ _)
    · exact hf.trans ((hput _ _ _).trans (memOnly_corrected _ _ _ _))
    · exact hf.trans ((hput _ _ _).trans (memOnly_partPoisoned _ _ _))

theorem memOnly_writeGran (d : Dev) (src a : Nat) (bs : List Byte) (mark : Bool) : MemOnly d (d.writeGran src a bs mark) := by
  unfold Dev.writeGran
  split
  · exact memOnly_mem _ _ fun w => MemSt.setDmg_wf _ _ _ (MemSt.setPoison_wf _ _ _ (MemSt.setBytes_wf _ _ _ w))
  · exact memOnly_rmwGran _ _ _ _ _

/-! ### Physical ranges -/

theorem memReg_charged {s : Nat} (h : s < 12) : memReg (rHbmChargedLo s) = true ∧ memReg (rHbmChargedLo s + 4) = true := by
  constructor <;> (unfold memReg rHbmChargedLo; simp; omega)

theorem memOnly_charge (d : Dev) (a n : Nat) (wr : Bool) : MemOnly d (d.charge a n wr) := by
  unfold Dev.charge
  split
  · exact .refl d
  · dsimp only
    have hst (x : Nat) : hbmPc x / 64 < 12 := by have := hbmPc_lt x; omega
    have hc (d : Dev) (x k : Nat) : MemOnly d (d.add64 (rHbmChargedLo (hbmPc x / 64)) k) :=
      memOnly_add64 (memReg_charged (hst x)).1 (memReg_charged (hst x)).2 d k
    have h12 : ∀ (l : List Nat), (∀ s ∈ l, s < 12) → ∀ (g : Nat → Nat) (d : Dev),
        MemOnly d (d.each l (fun d s => d.add64 (rHbmChargedLo s) (g s))) := by
      intro l
      induction l with
      | nil => intro _ g d; exact .refl d
      | cons s t ih =>
        intro hs g d
        exact (memOnly_add64 (memReg_charged (hs s (by simp))).1 (memReg_charged (hs s (by simp))).2 d _).trans
          (ih (fun x hx => hs x (by simp [hx])) g _)
    have h0 (g : Nat → Nat) (k : Nat) : MemOnly d ((d.each (List.range 12) (fun d s => d.add64 (rHbmChargedLo s) (g s))).add64
        (rHbmChargedLo (hbmPc a / 64)) k) := (h12 (List.range 12) (fun s hs => List.mem_range.mp hs) g d).trans (hc _ a k)
    split
    · exact (h0 _ _).trans (memOnly_each _ _ _ fun d e => hc d e.1 768)
    · exact h0 _ _

theorem memOnly_countBytes (d : Dev) (reg a n : Nat) (h : reg + 4 < 0x100000) : MemOnly d (d.countBytes reg a n) := by
  unfold Dev.countBytes
  split
  · rename_i pg hp
    have hp := errPage_lt hp
    refine memOnly_add64 (memReg_pg hp (by omega)) ?_ d n
    have : pgReg pg reg + 4 = pgReg pg (reg + 4) := by unfold pgReg; split <;> omega
    rw [this]; exact memReg_pg hp h
  · exact .refl d

theorem memOnly_wakeBank (d : Dev) (a : Nat) : MemOnly d (d.wakeBank a) := by
  unfold Dev.wakeBank
  split
  · dsimp only
    split
    · exact memOnly_wake _ _ _
    · exact .refl d
  · exact .refl d

theorem memOnly_breakResv (d : Dev) (a n : Nat) : MemOnly d (d.breakResv a n) := by
  unfold Dev.breakResv
  dsimp only
  split
  · exact ⟨rfl, fun _ _ => rfl, id⟩
  · exact .refl d

/-- A read of physical memory. -/
theorem memOnly_readPhys (d : Dev) (src a n : Nat) : MemOnly d (d.readPhys src a n).2 := by
  unfold Dev.readPhys
  refine (memOnly_charge d a n false).trans (memOnly_fold _ _ (fun r e => ?_) ([], d.charge a n false))
  exact ((memOnly_wakeBank _ _).trans (memOnly_countBytes _ _ _ _ (by decide))).trans (memOnly_readGran _ _ _ _)

/-- A write of physical memory. -/
theorem memOnly_writePhys (d : Dev) (src a : Nat) (bs : Marked) : MemOnly d (d.writePhys src a bs) := by
  unfold Dev.writePhys
  refine ((memOnly_charge d a _ true).trans (memOnly_breakResv _ _ _)).trans (foldl_rel MemOnly MemOnly.refl (fun _ _ _ => MemOnly.trans) _ (fun d e => ?_) _ _)
  exact ((memOnly_wakeBank _ _).trans (memOnly_countBytes _ _ _ _ (by decide))).trans (memOnly_writeGran _ _ _ _ _)

/-! ### Managed pages (09) -/

theorem memOnly_setPage (d : Dev) (n : Nat) (r : PageRec) : MemOnly d (d.setPage n r) := ⟨rfl, fun _ _ => rfl, id⟩

theorem memOnly_touchPage (d : Dev) (n : Nat) : MemOnly d (d.touchPage n) := ⟨rfl, fun _ _ => rfl, id⟩

theorem memReg_smp {off : Nat} (h : 0x7000000 ≤ off) (h2 : off < 0x8000000) : memReg off = true := by
  unfold memReg; simp; omega

theorem memOnly_tierCount (d : Dev) (p : Nat) : MemOnly d (d.tierCount p) := by
  have hk : p % 8 < 8 := Nat.mod_lt _ (by decide)
  unfold Dev.tierCount
  dsimp only
  refine ((((((memOnly_wr ?_ d _).trans (memOnly_wr ?_ _ _)).trans (memOnly_wr ?_ _ _)).trans (memOnly_wr ?_ _ _)).trans
    (memOnly_wr ?_ _ _)).trans (memOnly_wr ?_ _ _)) <;>
  apply memReg_smp <;> simp only [rSmpPUse0, rSmpPUse1, rSmpPUse2, rSmpPAlloc, rSmpPPinned, rSmpPStatus] <;> omega

theorem memOnly_moveExtent (d : Dev) (n a : Nat) : MemOnly d (d.moveExtent n a) := by
  unfold Dev.moveExtent
  dsimp only
  split
  · exact ((memOnly_readPhys _ _ _ _).trans (memOnly_writePhys _ _ _ _)).trans (memOnly_setPage _ _ _)
  · exact .refl d

theorem memOnly_compactPool (d : Dev) (p : Nat) : MemOnly d (d.compactPool p) := by
  unfold Dev.compactPool
  refine foldl_rel (fun (a b : Dev × Nat) => MemOnly a.1 b.1) (fun _ => .refl _) (fun _ _ _ => MemOnly.trans) _ (fun r e => ?_) _
    (d, d.rd64 (rSmpT2poolLo p))
  dsimp only
  split
  · exact .refl _
  · exact memOnly_moveExtent _ _ _

theorem memOnly_takeExtent (d : Dev) (p n : Nat) : MemOnly d (d.takeExtent p n).2 := by
  unfold Dev.takeExtent
  dsimp only
  split
  · exact .refl d
  · split
    · exact .refl d
    · exact memOnly_compactPool d p

theorem memOnly_extChunk (d : Dev) (n c : Nat) : MemOnly d (d.extChunk n c).2 := by
  unfold Dev.extChunk
  extract_lets r e l k len off b bad
  have he : MemOnly d e.2 := memOnly_readPhys _ _ _ _
  split
  · exact he
  · exact he.trans (memOnly_readPhys _ _ _ _)

theorem memOnly_chunkCount (d : Dev) (n len : Nat) : MemOnly d (d.chunkCount n len) := by
  have h : n % 2 = 0 ∨ n % 2 = 1 := Nat.mod_two_eq_zero_or_one n
  unfold Dev.chunkCount
  rcases h with h | h <;> rw [h] <;> exact (memOnly_add64 (by decide) (by decide) _ _).trans (memOnly_add64 (by decide) (by decide) _ _)

theorem memOnly_pageChunks (d : Dev) (n : Nat) : MemOnly d (d.pageChunks n).2 := by
  unfold Dev.pageChunks
  refine memOnly_fold _ _ (fun r c => ?_) (([] : List Chunk), d)
  have hf : MemOnly r.2 (r.2.frameChunk n c).2 := memOnly_readPhys _ _ _ _
  have h (q : Prop) [Decidable q] (k : Nat) :
      MemOnly r.2 (if q then (r.2.frameChunk n c).2.chunkCount n k else (r.2.frameChunk n c).2) := by
    split
    · exact hf.trans (memOnly_chunkCount _ _ _)
    · exact hf
  dsimp only
  split
  · exact memOnly_extChunk _ _ _
  · exact h _ _

theorem memOnly_writeBackPage {d t : Dev} {n : Nat} (h : d.writeBackPage n = some t) : MemOnly d t := by
  unfold Dev.writeBackPage at h
  dsimp only at h
  split at h
  · cases h
  · split at h
    · cases h
    · rename_i a d1 he
      have h2 := congrArg Prod.snd he ▸ memOnly_takeExtent (d.pageChunks n).2 (d.page n).part ((streamOf (d.pageChunks n).1).length / 4096)
      cases h
      exact (((memOnly_pageChunks d n).trans h2).trans (memOnly_writePhys _ _ _ _)).trans ((memOnly_setPage _ _ _).trans
        (memOnly_add64 (memReg_smp (by decide) (by decide)) (memReg_smp (by decide) (by decide)) _ _))

theorem memOnly_dropPage (d : Dev) (n : Nat) : MemOnly d (d.dropPage n) := by
  unfold Dev.dropPage
  dsimp only
  split
  · exact memOnly_setPage _ _ _
  · exact .refl d

theorem memOnly_demotePage {d t : Dev} {n : Nat} (h : d.demotePage n = some t) : MemOnly d t := by
  unfold Dev.demotePage at h
  dsimp only at h
  split at h
  · cases h
  · split at h
    · cases h; exact memOnly_dropPage d n
    · obtain ⟨e, he, rfl⟩ := Option.map_eq_some_iff.mp h
      exact (memOnly_writeBackPage he).trans (memOnly_dropPage _ _)

theorem memOnly_evict {d t : Dev} {p : Nat} (h : d.evict p = some t) : MemOnly d t := by
  obtain ⟨n, _, hn⟩ := List.exists_of_findSome?_eq_some h
  exact memOnly_demotePage hn

theorem memOnly_evictBelow (p lim k : Nat) (d : Dev) : MemOnly d (d.evictBelow p lim k) := by
  induction k generalizing d with
  | zero => exact .refl d
  | succ k ih =>
    unfold Dev.evictBelow
    split
    · exact .refl d
    · split
      · rename_i he
        exact (memOnly_evict he).trans (ih _)
      · exact .refl d

theorem memOnly_takeFrame (d : Dev) (p : Nat) : MemOnly d (d.takeFrame p).2 := by
  have h (lim k : Nat) : MemOnly d (if lim = 0 then d else d.evictBelow p lim k) := by
    split
    · exact .refl d
    · exact memOnly_evictBelow _ _ _ _
  have h2 (c : Prop) [Decidable c] (x : Option Nat) (t : Dev) (k : MemOnly d t) :
      MemOnly d (if c then (x, t) else ((none, t) : Option Nat × Dev)).2 := by
    split <;> exact k
  unfold Dev.takeFrame
  exact h2 _ _ _ (h _ _)

theorem memOnly_smpErr (d : Dev) (a b c e f g : Nat) : MemOnly d (d.smpErr a b c e f g) :=
  (memOnly_raise (off := rSmpErr) (by decide) d _ _ fun _ => (memOnly_wr64 (off := rSmpErrAddrLo) (by decide) (by decide) _ _).trans
    (memOnly_wr (off := rSmpErrInfo) (by decide) _ _)).trans (memOnly_flw _ _ _ _ _)

theorem memOnly_promoteChunk (d : Dev) (n f c : Nat) : MemOnly d (d.promoteChunk n f c) := by
  have h (q : Prop) [Decidable q] (a k : Nat) (t : Dev) (ht : MemOnly d t) :
      MemOnly d (if q then t.readPhys (tierSrc n) a k else (([], t) : Marked × Dev)).2 := by
    split
    · exact ht.trans (memOnly_readPhys _ _ _ _)
    · exact ht
  have good (q : Prop) [Decidable q] (t : Dev) (k a : Nat) (bs : Marked) (ht : MemOnly d t) :
      MemOnly d ((if q then t.chunkCount n k else t).writePhys (tierSrc n) a bs) := by
    split
    · exact (ht.trans (memOnly_chunkCount _ _ _)).trans (memOnly_writePhys _ _ _ _)
    · exact ht.trans (memOnly_writePhys _ _ _ _)
  have bad (t : Dev) (a va : Nat) (bs : Marked) (ht : MemOnly d t) :
      MemOnly d ((((t.writePhys (tierSrc n) a bs).smpErr 3 (tierSrc n) c 0 va va).addSat rSmpDamageCount 1).ledger 6 (tierSrc n) va 0 0) :=
    (ht.trans (memOnly_writePhys _ _ _ _)).trans (((memOnly_smpErr _ _ _ _ _ _ _).trans
      (memOnly_addSat (off := rSmpDamageCount) (by decide) _ _)).trans (memOnly_ledger _ _ _ _ _ _))
  unfold Dev.promoteChunk
  extract_lets r e l kind pm len off fits b body crcOk out t a
  have ht : MemOnly d t := h _ _ _ _ (memOnly_readPhys _ _ _ _)
  clear_value t out b kind
  split
  · exact good _ _ _ _ _ ht
  · exact bad _ _ _ _ ht

/-- A promotion. -/
theorem memOnly_promotePage (d : Dev) (n : Nat) : MemOnly d (d.promotePage n).2 := by
  unfold Dev.promotePage
  dsimp only
  split
  · exact .refl d
  · have h := memOnly_takeFrame d (d.page n).part
    split
    · rename_i he; rw [he] at h; exact h.trans (memOnly_tierCount _ _)
    · rename_i he; rw [he] at h
      exact (h.trans (memOnly_each _ _ _ fun d c => memOnly_promoteChunk d n _ c)).trans ((((memOnly_setPage _ _ _).trans
        (memOnly_touchPage _ _)).trans (memOnly_add64 (off := rSmpPromoteLo) (by decide) (by decide) _ _)).trans (memOnly_tierCount _ _))

theorem memOnly_managedTarget (d : Dev) (a : Nat) (wr : Bool) : MemOnly d (d.managedTarget a wr).2 := by
  have land (t : Dev) (n o : Nat) (ht : MemOnly d t) : MemOnly d
      (if wr then (t.touchPage n).setPage n { (t.touchPage n).page n with dirty := setBit (o / 65536) true ((t.touchPage n).page n).dirty }
        else t.touchPage n) := by
    split
    · exact ht.trans ((memOnly_touchPage _ _).trans (memOnly_setPage _ _ _))
    · exact ht.trans (memOnly_touchPage _ _)
  unfold Dev.managedTarget
  dsimp only
  split
  · exact .refl d
  · exact land d _ _ (.refl d)
  · exact land d _ _ (.refl d)
  · split
    · exact .refl d
    · have h := memOnly_takeFrame d (d.page ((a - 0x80000000000) / 0x200000)).part
      split
      · rename_i he; rw [he] at h; exact h.trans (memOnly_tierCount _ _)
      · rename_i he; rw [he] at h
        exact land _ _ _ (h.trans ((memOnly_writePhys _ _ _ _).trans ((memOnly_setPage _ _ _).trans (memOnly_tierCount _ _))))
  · have h := memOnly_promotePage d ((a - 0x80000000000) / 0x200000)
    split
    · rename_i he; rw [he] at h; exact h
    · rename_i he; rw [he] at h
      refine land _ _ _ (h.trans (memOnly_add64 ?_ ?_ _ _)) <;>
      (apply memReg_smp <;> unfold rSmpPFaultsLo <;> omega)

/-! ### Host memory (01) -/

theorem memReg_pci {off : Nat} (h : 0x16000000 ≤ off) : memReg off = true := by unfold memReg; simp; omega

theorem memOnly_pciErr (d : Dev) (p b a : Nat) : MemOnly d (d.pciErr p b a) := by
  refine memOnly_raise (memReg_pci ?_) d _ _ fun _ => memOnly_wr64 (memReg_pci ?_) (memReg_pci ?_) _ _
  all_goals simp only [rPciErr, rPciErrAddrLo]; omega

/-- A change of host memory alone. -/
theorem memOnly_host (d : Dev) (h : HostSt) : MemOnly d { d with host := h } := ⟨rfl, fun _ _ => rfl, id⟩

theorem memOnly_readHost (d : Dev) (p a n : Nat) : MemOnly d (d.readHost p a n).2 := by
  unfold Dev.readHost
  dsimp only
  split
  · exact .refl d
  · split
    · exact (memOnly_host d _).trans (memOnly_pciErr _ _ _ _)
    · exact ⟨rfl, fun _ _ => rfl, id⟩

theorem memOnly_writeHost (d : Dev) (p a : Nat) (bs : Marked) : MemOnly d (d.writeHost p a bs) := by
  unfold Dev.writeHost
  dsimp only
  split
  · exact (memOnly_addSat (memReg_pci (by simp only [rPciDropCount]; omega)) _ _).trans (memOnly_pciErr _ _ _ _)
  · split
    · exact (memOnly_host d _).trans (memOnly_pciErr _ _ _ _)
    · exact ⟨rfl, fun _ _ => rfl, id⟩

/-! ### Accesses by device address -/

/-- An access by a partition that exists, or by none. -/
def Acc.ok (acc : Acc) : Prop := ∀ p, acc.part = some p → p < 8

theorem memOnly_stallAt (d : Dev) (src n : Nat) : MemOnly d (d.stallAt src n) := by
  unfold Dev.stallAt
  split
  · exact .refl d
  · exact ⟨rfl, fun _ _ => rfl, id⟩

theorem memOnly_endWait (d : Dev) (src n : Nat) : MemOnly d (d.endWait src n) := by
  unfold Dev.endWait
  split
  · exact ⟨rfl, fun _ _ => rfl, id⟩
  · exact .refl d

theorem memOnly_resolve {acc : Acc} (h : acc.ok) (d : Dev) (wr : Bool) (a : Nat) : MemOnly d (d.resolve acc wr a).2 := by
  have no (t : Dev) (ht : MemOnly d t) : MemOnly d (match acc.part with
      | some p => ((Target.refused, t.refuse p acc.src a) : Target × Dev)
      | none => (.refused, t)).2 := by
    split
    · rename_i p hp; exact ht.trans (memOnly_refuse (h p hp) _ _ _)
    · exact ht
  unfold Dev.resolve
  dsimp only
  split
  · split
    · rename_i p _ hp _; exact (memOnly_epFlag (h p hp) _ _).trans (memOnly_accessErr _ _ _ _ _)
    · exact no d (.refl d)
  · split
    · split
      · exact memOnly_endWait _ _ _
      · have hm := memOnly_managedTarget d a wr
        split
        · rename_i he; rw [he] at hm; exact hm.trans (memOnly_endWait _ _ _)
        · rename_i he; rw [he] at hm; exact hm.trans (memOnly_endWait _ _ _)
        · rename_i he; rw [he] at hm; exact no _ (hm.trans (memOnly_endWait _ _ _))
        · rename_i he; rw [he] at hm; exact hm.trans (memOnly_stallAt _ _ _)
    · split <;> exact .refl d

/-- A read by device address. -/
theorem memOnly_readReq {acc : Acc} (h : acc.ok) (d : Dev) (req a n : Nat) : MemOnly d (d.readReq acc req a n).2 := by
  unfold Dev.readReq
  refine memOnly_fold _ _ (fun r e => ?_) ((⟨[], none, false, false⟩ : Rd), d)
  have hr := memOnly_resolve h r.2 false e.1
  dsimp only
  split
  · rename_i he; rw [he] at hr; exact hr
  · rename_i he; rw [he] at hr; exact hr
  · rename_i he; rw [he] at hr; exact hr.trans (memOnly_readPhys _ _ _ _)
  · rename_i he; rw [he] at hr; exact hr.trans (memOnly_readHost _ _ _ _)

/-- A write by device address. -/
theorem memOnly_writeReq {acc : Acc} (h : acc.ok) (d : Dev) (req a : Nat) (bs : Marked) : MemOnly d (d.writeReq acc req a bs).2 := by
  unfold Dev.writeReq
  refine memOnly_fold _ _ (fun r e => ?_) ((none : Option Nat), d)
  have hr := memOnly_resolve h r.2 true e.1
  dsimp only
  split
  · rename_i he; rw [he] at hr; exact hr
  · rename_i he; rw [he] at hr; exact hr
  · rename_i he; rw [he] at hr; exact hr.trans (memOnly_writePhys _ _ _ _)
  · rename_i he; rw [he] at hr; exact hr.trans (memOnly_writeHost _ _ _ _)

theorem memOnly_readMem {acc : Acc} (h : acc.ok) (d : Dev) (a n : Nat) : MemOnly d (d.readMem acc a n).2 := memOnly_readReq h d _ a n

theorem memOnly_writeMem {acc : Acc} (h : acc.ok) (d : Dev) (a : Nat) (bs : Marked) : MemOnly d (d.writeMem acc a bs).2 :=
  memOnly_writeReq h d _ a bs

theorem memOnly_refuseAt {acc : Acc} (h : acc.ok) (d : Dev) (a : Nat) : MemOnly d (d.refuseAt acc a) := by
  unfold Dev.refuseAt
  split
  · rename_i p hp; exact memOnly_refuse (h p hp) _ _ _
  · exact .refl d

theorem memOnly_readReqIn {acc : Acc} (h : acc.ok) (d : Dev) (ok : Nat → Bool) (req a n : Nat) :
    MemOnly d (d.readReqIn ok acc req a n).2 := by
  unfold Dev.readReqIn
  refine memOnly_fold _ _ (fun r e => ?_) ((⟨[], none, false, false⟩ : Rd), d)
  dsimp only
  split
  · exact memOnly_readReq h _ _ _ _
  · exact memOnly_refuseAt h _ _

theorem memOnly_writeMemIn {acc : Acc} (h : acc.ok) (d : Dev) (ok : Nat → Bool) (a : Nat) (bs : Marked) :
    MemOnly d (d.writeMemIn ok acc a bs).2 := by
  unfold Dev.writeMemIn
  refine memOnly_fold _ _ (fun r e => ?_) ((none : Option Nat), d)
  dsimp only
  split
  · exact memOnly_writeReq h _ _ _ _
  · exact memOnly_refuseAt h _ _

theorem memOnly_readStruct {acc : Acc} (h : acc.ok) (d : Dev) (al a n : Nat) : MemOnly d (d.readStruct acc al a n).2 := by
  unfold Dev.readStruct
  dsimp only
  split
  · exact .refl d
  · exact memOnly_readMem h d a n

/-- Every access keeps memory in its canonical form. -/
theorem writeMem_wf {acc : Acc} (h : acc.ok) (d : Dev) (a : Nat) (bs : Marked) (w : d.mem.wf = true) : (d.writeMem acc a bs).2.mem.wf = true :=
  (memOnly_writeMem h d a bs).wf w

end Sys2Proof.Machine
end

