-- ==== Sys2Proof/Laws/Frames.lean ====
section
/-! SUPPORT. Laws of the words that claims are made with (Safety.lean): how `Does`, `Runs` and `OnlyRegs` follow from what a meaning does. -/

namespace Sys2Proof.Safety

open Sys2Proof.Machine

/-! ### From a meaning to a claim -/

/-- A command whose meaning runs `f` does what `f` does. -/
theorem does_of_run {i : Instr} {s : State} {f : Dev → Dev} {u : Dev} (h : exec i s = State.run f s) (hu : f s.dev = u) :
    Does i s u := by
  rw [Does, h, State.run, hu]

/-- What holds of the device that a command leaves. -/
theorem runs_of_does {i : Instr} {s : State} {u : Dev} {P : Dev → Prop} (h : Does i s u) (hw : u.tier.stall = s.dev.tier.stall)
    (hp : P u.refresh) : Runs i s P := ⟨_, h, hw, hp⟩

/-- A command that no access holds up leaves the device it makes, with the copies set again. -/
theorem settle_of_none {s : State} {u : Dev} (h : u.tier.stall = none) : s.settle u = { s with dev := u.refresh } := by
  rw [State.settle, h]

/-- A command with an access that waits leaves the device as it was, but for the wait. -/
theorem settle_of_some {s : State} {u : Dev} {src n : Nat} (h : u.tier.stall = some (src, n)) :
    s.settle u = { s with dev := (s.dev.waitFrame src n).refresh } := by
  rw [State.settle, h]

theorem settle_pending (s : State) (u : Dev) : (s.settle u).pending = s.pending := by
  unfold State.settle
  split <;> rfl

theorem refresh_tier (d : Dev) : d.refresh.tier = d.tier := rfl

theorem waitFrame_stall (d : Dev) (src n : Nat) : (d.waitFrame src n).tier.stall = d.tier.stall := by
  unfold Dev.waitFrame
  split <;> rfl

/-- A command leaves a settled state settled. -/
theorem settled_settle {s : State} (h : Settled s) (u : Dev) : Settled (s.settle u) := by
  unfold State.settle
  split
  · rename_i hu
    exact (congrArg TierSt.stall (refresh_tier u)).trans hu
  · exact (waitFrame_stall _ _ _).trans h

/-- A taken message is accepted. -/
theorem flitIn_ok {d : Dev} {p : Nat} {f : FlitHdr} {k : FlitKind} (h : FlitOk d p f k) (m n : Nat) (sn : Option Nat) (act : Dev → Dev) :
    d.flitIn p f k m n sn act = (taken d p f m).accept p f k n sn act := by
  obtain ⟨h1, h2, h3, h4⟩ := h
  unfold Dev.flitIn taken
  cases he : d.portEth p
  · obtain ⟨h5, h6⟩ := h4 he
    rw [List.getD_eq_getElem?_getD] at h6
    have : ¬ 64 ≤ (d.port p).used[f.vc.val]?.getD 0 := by omega
    simp [h1, h2, h3, h5, this]
  · simp [h1, h2, h3]

/-! ### Registers alone -/

theorem onlyRegs_refl (d : Dev) (l : List Nat) : OnlyRegs d d l := ⟨fun _ _ _ => rfl, fun _ => rfl, rfl⟩

theorem onlyRegs_wr {d t : Dev} {l : List Nat} (h : OnlyRegs d t l) {off : Nat} (v : Word) (ho : off ∈ l) :
    OnlyRegs d (t.wr off v) l := by
  obtain ⟨h1, h2, h3⟩ := h
  refine ⟨fun k hk hc => ?_, h2, ?_⟩
  · rw [Dev.rd_wr_ne]
    · exact h1 k hk hc
    · rintro rfl; exact hk ho
  · rw [h3]; rfl

theorem onlyRegs_wrFld {d t : Dev} {l : List Nat} (h : OnlyRegs d t l) {off : Nat} (hi lo v : Nat) (ho : off ∈ l) :
    OnlyRegs d (t.wrFld off hi lo v) l := onlyRegs_wr h _ ho

theorem onlyRegs_wr64 {d t : Dev} {l : List Nat} (h : OnlyRegs d t l) {off : Nat} (v : Nat) (ho : off ∈ l) (h4 : off + 4 ∈ l) :
    OnlyRegs d (t.wr64 off v) l := onlyRegs_wr (onlyRegs_wr h _ ho) _ h4

theorem rd_refresh_of_not_copy {off : Nat} (h : isCopy off = false) (d : Dev) : d.refresh.rd off = d.rd off := by
  simp only [isCopy, Bool.or_eq_false_iff, decide_eq_false_iff_not, List.any_eq_false, List.mem_range, decide_eq_true_eq] at h
  exact d.rd_refresh h.1 h.2

/-- Setting the copies again changes registers alone. -/
theorem onlyRegs_refresh {d t : Dev} {l : List Nat} (h : OnlyRegs d t l) : OnlyRegs d t.refresh l := by
  obtain ⟨h1, h2, h3⟩ := h
  refine ⟨fun k hk hc => ?_, h2, ?_⟩
  · rw [rd_refresh_of_not_copy hc, h1 k hk hc]
  · have : t.refresh = { t with regs := t.refresh.regs } := by
      apply Dev.ext_fields <;> rfl
    rw [this, h3]

/-- No register outside the TOP block is a copy. -/
theorem isCopy_far {off : Nat} (h : 0x808000 ≤ off) : isCopy off = false := by
  simp only [isCopy, Bool.or_eq_false_iff, decide_eq_false_iff_not, List.any_eq_false, List.mem_range, decide_eq_true_eq]
  exact ⟨by unfold rTopStatus; omega, fun p hp => by unfold rTopPStatus; omega⟩

end Sys2Proof.Safety
end

