-- ==== Sys2Proof/Laws/Rows.lean ====
section
/-! SUPPORT. What an aligned write that reaches its register does, one lemma for each register that a row of the table writes
(R28, R369, R371). -/

namespace Sys2Proof.Machine

open Sys2Proof.Safety

theorem findRow_block {b off : Nat} (hb : off / 0x1000000 = b) : findRow off = (blockRows b).find? (fun r => r.hit off) := by
  rw [findRow, hb]

/-- An aligned write that reaches a register that can be written does what the register's block says. -/
theorem rowWr_eq (d : Dev) (o : Origin) (off : Nat) (v : Word) (ha : off % 4 = 0) (hw : writable off = true)
    (h : Reaches d o off) : d.rowWr o off v = d.writeBlock o off v := by
  obtain ⟨h1, h2, h3, h4⟩ := h
  unfold Dev.rowWr Dev.hostWrite
  simp only [h1, Bool.not_true, Bool.false_eq_true, if_false]
  split
  · next h => exact absurd h (by simp)
  · simp [Dev.regWrite, ha, h2, Dev.write32, h3, h4, hw]

theorem writable_rQmgQCfg {q : Nat} (hq : q < 65536) : writable (rQmgQCfg q) = true := by
  unfold writable rQmgQCfg
  rw [findRow_block (b := 1) (by omega)]
  simp only [blockRows, rowsQmg, rowsQmg0, rowsQmg1, rowsQmg2, List.cons_append, List.nil_append]
  repeat rw [List.find?_cons_of_neg (by simp only [RegRow.hit, dimsHit, Bool.and_eq_true, decide_eq_true_eq, beq_iff_eq]; omega)]
  rw [List.find?_cons_of_pos (by simp only [RegRow.hit, dimsHit, Bool.and_eq_true, decide_eq_true_eq, beq_iff_eq]; omega)]
  simp

/-- A write that reaches rQmgQCfg. -/
theorem rowWr_rQmgQCfg (d : Dev) (o : Origin) (v : Word) {q : Nat} (hq : q < 65536) (h : Reaches d o (rQmgQCfg q)) :
    d.rowWr o (rQmgQCfg q) v = d.queueCfg q v := by
  rw [rowWr_eq d o _ v (by unfold rQmgQCfg; omega) (writable_rQmgQCfg hq) h]
  have hb : (rQmgQCfg q) / 0x1000000 = 1 := by unfold rQmgQCfg; omega
  have h0 : ¬ 0x1800000 ≤ (rQmgQCfg q) := by unfold rQmgQCfg; omega
  have h1 : 0x1400000 ≤ (rQmgQCfg q) := by unfold rQmgQCfg; omega
  have h2 : (rQmgQCfg q) % 0x40 = 8 := by unfold rQmgQCfg; omega
  have h3 : ((rQmgQCfg q) - 0x1400000) / 0x40 = q := by unfold rQmgQCfg; omega
  simp [Dev.writeBlock, Dev.writeQueue, hb, h0, h1, h2, h3]

theorem writable_rQmgQCtl {q : Nat} (hq : q < 65536) : writable (rQmgQCtl q) = true := by
  unfold writable rQmgQCtl
  rw [findRow_block (b := 1) (by omega)]
  simp only [blockRows, rowsQmg, rowsQmg0, rowsQmg1, rowsQmg2, List.cons_append, List.nil_append]
  repeat rw [List.find?_cons_of_neg (by simp only [RegRow.hit, dimsHit, Bool.and_eq_true, decide_eq_true_eq, beq_iff_eq]; omega)]
  rw [List.find?_cons_of_pos (by simp only [RegRow.hit, dimsHit, Bool.and_eq_true, decide_eq_true_eq, beq_iff_eq]; omega)]
  simp

/-- A write that reaches rQmgQCtl. -/
theorem rowWr_rQmgQCtl (d : Dev) (o : Origin) (v : Word) {q : Nat} (hq : q < 65536) (h : Reaches d o (rQmgQCtl q)) :
    d.rowWr o (rQmgQCtl q) v = d.queueCtl q v := by
  rw [rowWr_eq d o _ v (by unfold rQmgQCtl; omega) (writable_rQmgQCtl hq) h]
  have hb : (rQmgQCtl q) / 0x1000000 = 1 := by unfold rQmgQCtl; omega
  have h0 : ¬ 0x1800000 ≤ (rQmgQCtl q) := by unfold rQmgQCtl; omega
  have h1 : 0x1400000 ≤ (rQmgQCtl q) := by unfold rQmgQCtl; omega
  have h2 : (rQmgQCtl q) % 0x40 = 40 := by unfold rQmgQCtl; omega
  have h3 : ((rQmgQCtl q) - 0x1400000) / 0x40 = q := by unfold rQmgQCtl; omega
  simp [Dev.writeBlock, Dev.writeQueue, hb, h0, h1, h2, h3]

theorem writable_rQmgQDb {q : Nat} (hq : q < 65536) : writable (rQmgQDb q) = true := by
  unfold writable rQmgQDb
  rw [findRow_block (b := 1) (by omega)]
  simp only [blockRows, rowsQmg, rowsQmg0, rowsQmg1, rowsQmg2, List.cons_append, List.nil_append]
  repeat rw [List.find?_cons_of_neg (by simp only [RegRow.hit, dimsHit, Bool.and_eq_true, decide_eq_true_eq, beq_iff_eq]; omega)]
  rw [List.find?_cons_of_pos (by simp only [RegRow.hit, dimsHit, Bool.and_eq_true, decide_eq_true_eq, beq_iff_eq]; omega)]
  simp

/-- A write that reaches rQmgQDb. -/
theorem rowWr_rQmgQDb (d : Dev) (o : Origin) (v : Word) {q : Nat} (hq : q < 65536) (h : Reaches d o (rQmgQDb q)) :
    d.rowWr o (rQmgQDb q) v = d.doorbell q v := by
  rw [rowWr_eq d o _ v (by unfold rQmgQDb; omega) (writable_rQmgQDb hq) h]
  have hb : (rQmgQDb q) / 0x1000000 = 1 := by unfold rQmgQDb; omega
  have h0 : ¬ 0x1800000 ≤ (rQmgQDb q) := by unfold rQmgQDb; omega
  have h1 : 0x1400000 ≤ (rQmgQDb q) := by unfold rQmgQDb; omega
  have h2 : (rQmgQDb q) % 0x40 = 28 := by unfold rQmgQDb; omega
  have h3 : ((rQmgQDb q) - 0x1400000) / 0x40 = q := by unfold rQmgQDb; omega
  simp [Dev.writeBlock, Dev.writeQueue, hb, h0, h1, h2, h3]

theorem writable_rQmgCntVal {c : Nat} (hc : c < 262144) : writable (rQmgCntVal c) = true := by
  unfold writable rQmgCntVal
  rw [findRow_block (b := 1) (by omega)]
  simp only [blockRows, rowsQmg, rowsQmg0, rowsQmg1, rowsQmg2, List.cons_append, List.nil_append]
  repeat rw [List.find?_cons_of_neg (by simp only [RegRow.hit, dimsHit, Bool.and_eq_true, decide_eq_true_eq, beq_iff_eq]; omega)]
  rw [List.find?_cons_of_pos (by simp only [RegRow.hit, dimsHit, Bool.and_eq_true, decide_eq_true_eq, beq_iff_eq]; omega)]
  simp

/-- A write that reaches rQmgCntVal. -/
theorem rowWr_rQmgCntVal (d : Dev) (o : Origin) (v : Word) {c : Nat} (hc : c < 262144) (h : Reaches d o (rQmgCntVal c)) :
    d.rowWr o (rQmgCntVal c) v = (d.wr (rQmgCntVal c) v).cntFault c false := by
  rw [rowWr_eq d o _ v (by unfold rQmgCntVal; omega) (writable_rQmgCntVal hc) h]
  have hb : (rQmgCntVal c) / 0x1000000 = 1 := by unfold rQmgCntVal; omega
  have h0 : 0x1800000 ≤ (rQmgCntVal c) := by unfold rQmgCntVal; omega
  have h1 : ((rQmgCntVal c) - 0x1800000) / 8 = c := by unfold rQmgCntVal; omega
  have h2 : (rQmgCntVal c) % 8 = 0 := by unfold rQmgCntVal; omega
  simp [Dev.writeBlock, Dev.writeCnt, hb, h0, h1, h2]

theorem writable_rQmgCntAdd {c : Nat} (hc : c < 262144) : writable (rQmgCntAdd c) = true := by
  unfold writable rQmgCntAdd
  rw [findRow_block (b := 1) (by omega)]
  simp only [blockRows, rowsQmg, rowsQmg0, rowsQmg1, rowsQmg2, List.cons_append, List.nil_append]
  repeat rw [List.find?_cons_of_neg (by simp only [RegRow.hit, dimsHit, Bool.and_eq_true, decide_eq_true_eq, beq_iff_eq]; omega)]
  rw [List.find?_cons_of_pos (by simp only [RegRow.hit, dimsHit, Bool.and_eq_true, decide_eq_true_eq, beq_iff_eq]; omega)]
  simp

/-- A write that reaches rQmgCntAdd. -/
theorem rowWr_rQmgCntAdd (d : Dev) (o : Origin) (v : Word) {c : Nat} (hc : c < 262144) (h : Reaches d o (rQmgCntAdd c)) :
    d.rowWr o (rQmgCntAdd c) v = d.cntAdd c v := by
  rw [rowWr_eq d o _ v (by unfold rQmgCntAdd; omega) (writable_rQmgCntAdd hc) h]
  have hb : (rQmgCntAdd c) / 0x1000000 = 1 := by unfold rQmgCntAdd; omega
  have h0 : 0x1800000 ≤ (rQmgCntAdd c) := by unfold rQmgCntAdd; omega
  have h1 : ((rQmgCntAdd c) - 0x1800000) / 8 = c := by unfold rQmgCntAdd; omega
  have h2 : ¬ (rQmgCntAdd c) % 8 = 0 := by unfold rQmgCntAdd; omega
  simp [Dev.writeBlock, Dev.writeCnt, hb, h0, h1, h2]

theorem writable_rTopPCtl {p : Nat} (hp : p < 8) : writable (rTopPCtl p) = true := by
  unfold writable rTopPCtl
  rw [findRow_block (b := 0) (by omega)]
  simp only [blockRows, rowsTop, rowsTop0, rowsTop1, List.cons_append, List.nil_append]
  repeat rw [List.find?_cons_of_neg (by simp only [RegRow.hit, dimsHit, Bool.and_eq_true, decide_eq_true_eq, beq_iff_eq]; omega)]
  rw [List.find?_cons_of_pos (by simp only [RegRow.hit, dimsHit, Bool.and_eq_true, decide_eq_true_eq, beq_iff_eq]; omega)]
  simp

/-- A write that reaches rTopPCtl. -/
theorem rowWr_rTopPCtl (d : Dev) (o : Origin) (v : Word) {p : Nat} (hp : p < 8) (h : Reaches d o (rTopPCtl p)) :
    d.rowWr o (rTopPCtl p) v = d.partCtl p v := by
  rw [rowWr_eq d o _ v (by unfold rTopPCtl; omega) (writable_rTopPCtl hp) h]
  have hb : (rTopPCtl p) / 0x1000000 = 0 := by unfold rTopPCtl; omega
  have h0 : ¬ (rTopPCtl p) < 0x800000 := by unfold rTopPCtl; omega
  have h1 : (rTopPCtl p) % 0x1000 = 0 := by unfold rTopPCtl; omega
  have h2 : ((rTopPCtl p) - 0x800000) / 0x1000 = p := by unfold rTopPCtl; omega
  simp [Dev.writeBlock, hb, h0, h1, h2]

theorem writable_rTopSeedLo {p : Nat} (hp : p < 8) : writable (rTopSeedLo p) = true := by
  unfold writable rTopSeedLo
  rw [findRow_block (b := 0) (by omega)]
  simp only [blockRows, rowsTop, rowsTop0, rowsTop1, List.cons_append, List.nil_append]
  repeat rw [List.find?_cons_of_neg (by simp only [RegRow.hit, dimsHit, Bool.and_eq_true, decide_eq_true_eq, beq_iff_eq]; omega)]
  rw [List.find?_cons_of_pos (by simp only [RegRow.hit, dimsHit, Bool.and_eq_true, decide_eq_true_eq, beq_iff_eq]; omega)]
  simp

/-- A write that reaches rTopSeedLo. -/
theorem rowWr_rTopSeedLo (d : Dev) (o : Origin) (v : Word) {p : Nat} (hp : p < 8) (h : Reaches d o (rTopSeedLo p)) :
    d.rowWr o (rTopSeedLo p) v = d.seedLo p v := by
  rw [rowWr_eq d o _ v (by unfold rTopSeedLo; omega) (writable_rTopSeedLo hp) h]
  have hb : (rTopSeedLo p) / 0x1000000 = 0 := by unfold rTopSeedLo; omega
  have h0 : ¬ (rTopSeedLo p) < 0x800000 := by unfold rTopSeedLo; omega
  have h1 : (rTopSeedLo p) % 0x1000 = 32 := by unfold rTopSeedLo; omega
  have h2 : ((rTopSeedLo p) - 0x800000) / 0x1000 = p := by unfold rTopSeedLo; omega
  simp [Dev.writeBlock, hb, h0, h1, h2]

theorem writable_rTopSeedHi {p : Nat} (hp : p < 8) : writable (rTopSeedHi p) = true := by
  unfold writable rTopSeedHi
  rw [findRow_block (b := 0) (by omega)]
  simp only [blockRows, rowsTop, rowsTop0, rowsTop1, List.cons_append, List.nil_append]
  repeat rw [List.find?_cons_of_neg (by simp only [RegRow.hit, dimsHit, Bool.and_eq_true, decide_eq_true_eq, beq_iff_eq]; omega)]
  rw [List.find?_cons_of_pos (by simp only [RegRow.hit, dimsHit, Bool.and_eq_true, decide_eq_true_eq, beq_iff_eq]; omega)]
  simp

/-- A write that reaches rTopSeedHi. -/
theorem rowWr_rTopSeedHi (d : Dev) (o : Origin) (v : Word) {p : Nat} (hp : p < 8) (h : Reaches d o (rTopSeedHi p)) :
    d.rowWr o (rTopSeedHi p) v = d.seedHi p v := by
  rw [rowWr_eq d o _ v (by unfold rTopSeedHi; omega) (writable_rTopSeedHi hp) h]
  have hb : (rTopSeedHi p) / 0x1000000 = 0 := by unfold rTopSeedHi; omega
  have h0 : ¬ (rTopSeedHi p) < 0x800000 := by unfold rTopSeedHi; omega
  have h1 : (rTopSeedHi p) % 0x1000 = 36 := by unfold rTopSeedHi; omega
  have h2 : ((rTopSeedHi p) - 0x800000) / 0x1000 = p := by unfold rTopSeedHi; omega
  simp [Dev.writeBlock, hb, h0, h1, h2]

theorem writable_rVcdKeyreq {m : Nat} (hm : m < 2) : writable (rVcdKeyreq m) = true := by
  unfold writable rVcdKeyreq
  rw [findRow_block (b := 11) (by omega)]
  simp only [blockRows, rowsVcd, rowsVcd0, List.cons_append, List.nil_append]
  repeat rw [List.find?_cons_of_neg (by simp only [RegRow.hit, dimsHit, Bool.and_eq_true, decide_eq_true_eq, beq_iff_eq]; omega)]
  rw [List.find?_cons_of_pos (by simp only [RegRow.hit, dimsHit, Bool.and_eq_true, decide_eq_true_eq, beq_iff_eq]; omega)]
  simp

/-- A write that reaches rVcdKeyreq. -/
theorem rowWr_rVcdKeyreq (d : Dev) (o : Origin) (v : Word) {m : Nat} (hm : m < 2) (h : Reaches d o (rVcdKeyreq m)) :
    d.rowWr o (rVcdKeyreq m) v = d.keyRequest m v := by
  rw [rowWr_eq d o _ v (by unfold rVcdKeyreq; omega) (writable_rVcdKeyreq hm) h]
  have hb : (rVcdKeyreq m) / 0x1000000 = 11 := by unfold rVcdKeyreq; omega
  have h0 : (rVcdKeyreq m) % 0x100000 = 0x40 := by unfold rVcdKeyreq; omega
  have h1 : ((rVcdKeyreq m) - 0xB000000) / 0x100000 = m := by unfold rVcdKeyreq; omega
  simp [Dev.writeBlock, hb, h0, h1]

theorem writable_rInpCacheCtl {p : Nat} (hp : p < 8) : writable (rInpCacheCtl p) = true := by
  unfold writable rInpCacheCtl
  rw [findRow_block (b := 12) (by omega)]
  simp only [blockRows, rowsInp, rowsInp0, rowsInp1, List.cons_append, List.nil_append]
  repeat rw [List.find?_cons_of_neg (by simp only [RegRow.hit, dimsHit, Bool.and_eq_true, decide_eq_true_eq, beq_iff_eq]; omega)]
  rw [List.find?_cons_of_pos (by simp only [RegRow.hit, dimsHit, Bool.and_eq_true, decide_eq_true_eq, beq_iff_eq]; omega)]
  simp

/-- A write that reaches rInpCacheCtl. -/
theorem rowWr_rInpCacheCtl (d : Dev) (o : Origin) (v : Word) {p : Nat} (hp : p < 8) (h : Reaches d o (rInpCacheCtl p)) :
    d.rowWr o (rInpCacheCtl p) v = d.cacheCtl p v := by
  rw [rowWr_eq d o _ v (by unfold rInpCacheCtl; omega) (writable_rInpCacheCtl hp) h]
  have hb : (rInpCacheCtl p) / 0x1000000 = 12 := by unfold rInpCacheCtl; omega
  have h0 : ¬ (rInpCacheCtl p) < 0xC800000 := by unfold rInpCacheCtl; omega
  have h1 : (rInpCacheCtl p) % 0x10000 = 0x18 := by unfold rInpCacheCtl; omega
  have h2 : ((rInpCacheCtl p) - 0xC800000) / 0x10000 = p := by unfold rInpCacheCtl; omega
  simp [Dev.writeBlock, hb, h0, h1, h2]

theorem writable_rDmaKvCtl {p : Nat} (hp : p < 8) : writable (rDmaKvCtl p) = true := by
  unfold writable rDmaKvCtl
  rw [findRow_block (b := 2) (by omega)]
  simp only [blockRows, rowsDma, rowsDma0, rowsDma1, rowsDma2, List.cons_append, List.nil_append]
  repeat rw [List.find?_cons_of_neg (by simp only [RegRow.hit, dimsHit, Bool.and_eq_true, decide_eq_true_eq, beq_iff_eq]; omega)]
  rw [List.find?_cons_of_pos (by simp only [RegRow.hit, dimsHit, Bool.and_eq_true, decide_eq_true_eq, beq_iff_eq]; omega)]
  simp

/-- A write that reaches rDmaKvCtl. -/
theorem rowWr_rDmaKvCtl (d : Dev) (o : Origin) (v : Word) {p : Nat} (hp : p < 8) (h : Reaches d o (rDmaKvCtl p)) :
    d.rowWr o (rDmaKvCtl p) v = d.kvCtl p v := by
  rw [rowWr_eq d o _ v (by unfold rDmaKvCtl; omega) (writable_rDmaKvCtl hp) h]
  have hb : (rDmaKvCtl p) / 0x1000000 = 2 := by unfold rDmaKvCtl; omega
  have h0 : ¬ (rDmaKvCtl p) < 0x2800000 := by unfold rDmaKvCtl; omega
  have h1 : (rDmaKvCtl p) % 0x1000 = 0 := by unfold rDmaKvCtl; omega
  have h2 : ((rDmaKvCtl p) - 0x2800000) / 0x1000 = p := by unfold rDmaKvCtl; omega
  simp [Dev.writeBlock, hb, h0, h1, h2]

theorem writable_rTrwPctl {p : Nat} (hp : p < 8) : writable (rTrwPctl p) = true := by
  unfold writable rTrwPctl
  rw [findRow_block (b := 8) (by omega)]
  simp only [blockRows, rowsTrw, rowsTrw0, rowsTrw1, rowsTrw2, List.cons_append, List.nil_append]
  repeat rw [List.find?_cons_of_neg (by simp only [RegRow.hit, dimsHit, Bool.and_eq_true, decide_eq_true_eq, beq_iff_eq]; omega)]
  rw [List.find?_cons_of_pos (by simp only [RegRow.hit, dimsHit, Bool.and_eq_true, decide_eq_true_eq, beq_iff_eq]; omega)]
  simp

/-- A write that reaches rTrwPctl. -/
theorem rowWr_rTrwPctl (d : Dev) (o : Origin) (v : Word) {p : Nat} (hp : p < 8) (h : Reaches d o (rTrwPctl p)) :
    d.rowWr o (rTrwPctl p) v = d.trwCtl p v := by
  rw [rowWr_eq d o _ v (by unfold rTrwPctl; omega) (writable_rTrwPctl hp) h]
  have hb : (rTrwPctl p) / 0x1000000 = 8 := by unfold rTrwPctl; omega
  have h0 : ¬ (rTrwPctl p) < 0x8C00000 := by unfold rTrwPctl; omega
  have h1 : (rTrwPctl p) % 0x1000 = 0 := by unfold rTrwPctl; omega
  have h2 : ((rTrwPctl p) - 0x8C00000) / 0x1000 = p := by unfold rTrwPctl; omega
  simp [Dev.writeBlock, hb, h0, h1, h2]

theorem writable_rColEpochSet {p : Nat} (hp : p < 8) : writable (rColEpochSet p) = true := by
  unfold writable rColEpochSet
  rw [findRow_block (b := 9) (by omega)]
  simp only [blockRows, rowsCol, rowsCol0, rowsCol1, rowsCol2, rowsCol3, rowsCol4, rowsCol5, List.cons_append, List.nil_append]
  repeat rw [List.find?_cons_of_neg (by simp only [RegRow.hit, dimsHit, Bool.and_eq_true, decide_eq_true_eq, beq_iff_eq]; omega)]
  rw [List.find?_cons_of_pos (by simp only [RegRow.hit, dimsHit, Bool.and_eq_true, decide_eq_true_eq, beq_iff_eq]; omega)]
  simp

/-- A write that reaches rColEpochSet. -/
theorem rowWr_rColEpochSet (d : Dev) (o : Origin) (v : Word) {p : Nat} (hp : p < 8) (h : Reaches d o (rColEpochSet p)) :
    d.rowWr o (rColEpochSet p) v = d.epochSet o p v := by
  rw [rowWr_eq d o _ v (by unfold rColEpochSet; omega) (writable_rColEpochSet hp) h]
  have hb : (rColEpochSet p) / 0x1000000 = 9 := by unfold rColEpochSet; omega
  have h0 : ¬ (rColEpochSet p) < 0x9480000 := by unfold rColEpochSet; omega
  have h1 : 0x9800000 ≤ (rColEpochSet p) := by unfold rColEpochSet; omega
  have h2 : (rColEpochSet p) < 0x9808000 := by unfold rColEpochSet; omega
  have h3 : (rColEpochSet p) % 0x1000 = 4 := by unfold rColEpochSet; omega
  have h4 : ((rColEpochSet p) - 0x9800000) / 0x1000 = p := by unfold rColEpochSet; omega
  simp [Dev.writeBlock, Dev.writeCol, hb, h0, h1, h2, h3, h4]

theorem writable_rColEpCtl {p : Nat} (hp : p < 8) : writable (rColEpCtl p) = true := by
  unfold writable rColEpCtl
  rw [findRow_block (b := 9) (by omega)]
  simp only [blockRows, rowsCol, rowsCol0, rowsCol1, rowsCol2, rowsCol3, rowsCol4, rowsCol5, List.cons_append, List.nil_append]
  repeat rw [List.find?_cons_of_neg (by simp only [RegRow.hit, dimsHit, Bool.and_eq_true, decide_eq_true_eq, beq_iff_eq]; omega)]
  rw [List.find?_cons_of_pos (by simp only [RegRow.hit, dimsHit, Bool.and_eq_true, decide_eq_true_eq, beq_iff_eq]; omega)]
  simp

/-- A write that reaches rColEpCtl. -/
theorem rowWr_rColEpCtl (d : Dev) (o : Origin) (v : Word) {p : Nat} (hp : p < 8) (h : Reaches d o (rColEpCtl p)) :
    d.rowWr o (rColEpCtl p) v = d.epCtl (srcOf o) p v := by
  rw [rowWr_eq d o _ v (by unfold rColEpCtl; omega) (writable_rColEpCtl hp) h]
  have hb : (rColEpCtl p) / 0x1000000 = 9 := by unfold rColEpCtl; omega
  have h0 : ¬ (rColEpCtl p) < 0x9480000 := by unfold rColEpCtl; omega
  have h1 : 0x9800000 ≤ (rColEpCtl p) := by unfold rColEpCtl; omega
  have h2 : (rColEpCtl p) < 0x9808000 := by unfold rColEpCtl; omega
  have h3 : (rColEpCtl p) % 0x1000 = 8 := by unfold rColEpCtl; omega
  have h4 : ((rColEpCtl p) - 0x9800000) / 0x1000 = p := by unfold rColEpCtl; omega
  simp [Dev.writeBlock, Dev.writeCol, hb, h0, h1, h2, h3, h4]

theorem writable_rColNsCtl {p : Nat} (hp : p < 8) : writable (rColNsCtl p) = true := by
  unfold writable rColNsCtl
  rw [findRow_block (b := 9) (by omega)]
  simp only [blockRows, rowsCol, rowsCol0, rowsCol1, rowsCol2, rowsCol3, rowsCol4, rowsCol5, List.cons_append, List.nil_append]
  repeat rw [List.find?_cons_of_neg (by simp only [RegRow.hit, dimsHit, Bool.and_eq_true, decide_eq_true_eq, beq_iff_eq]; omega)]
  rw [List.find?_cons_of_pos (by simp only [RegRow.hit, dimsHit, Bool.and_eq_true, decide_eq_true_eq, beq_iff_eq]; omega)]
  simp

/-- A write that reaches rColNsCtl. -/
theorem rowWr_rColNsCtl (d : Dev) (o : Origin) (v : Word) {p : Nat} (hp : p < 8) (h : Reaches d o (rColNsCtl p)) :
    d.rowWr o (rColNsCtl p) v = d.nsCtl p v := by
  rw [rowWr_eq d o _ v (by unfold rColNsCtl; omega) (writable_rColNsCtl hp) h]
  have hb : (rColNsCtl p) / 0x1000000 = 9 := by unfold rColNsCtl; omega
  have h0 : ¬ (rColNsCtl p) < 0x9480000 := by unfold rColNsCtl; omega
  have h1 : 0x9800000 ≤ (rColNsCtl p) := by unfold rColNsCtl; omega
  have h2 : (rColNsCtl p) < 0x9808000 := by unfold rColNsCtl; omega
  have h3 : (rColNsCtl p) % 0x1000 = 68 := by unfold rColNsCtl; omega
  have h4 : ((rColNsCtl p) - 0x9800000) / 0x1000 = p := by unfold rColNsCtl; omega
  simp [Dev.writeBlock, Dev.writeCol, hb, h0, h1, h2, h3, h4]

theorem writable_rColExpCtl {p : Nat} (hp : p < 8) : writable (rColExpCtl p) = true := by
  unfold writable rColExpCtl
  rw [findRow_block (b := 9) (by omega)]
  simp only [blockRows, rowsCol, rowsCol0, rowsCol1, rowsCol2, rowsCol3, rowsCol4, rowsCol5, List.cons_append, List.nil_append]
  repeat rw [List.find?_cons_of_neg (by simp only [RegRow.hit, dimsHit, Bool.and_eq_true, decide_eq_true_eq, beq_iff_eq]; omega)]
  rw [List.find?_cons_of_pos (by simp only [RegRow.hit, dimsHit, Bool.and_eq_true, decide_eq_true_eq, beq_iff_eq]; omega)]
  simp

/-- A write that reaches rColExpCtl. -/
theorem rowWr_rColExpCtl (d : Dev) (o : Origin) (v : Word) {p : Nat} (hp : p < 8) (h : Reaches d o (rColExpCtl p)) :
    d.rowWr o (rColExpCtl p) v = d.expCtl p v := by
  rw [rowWr_eq d o _ v (by unfold rColExpCtl; omega) (writable_rColExpCtl hp) h]
  have hb : (rColExpCtl p) / 0x1000000 = 9 := by unfold rColExpCtl; omega
  have h0 : ¬ (rColExpCtl p) < 0x9480000 := by unfold rColExpCtl; omega
  have h1 : 0x9800000 ≤ (rColExpCtl p) := by unfold rColExpCtl; omega
  have h2 : (rColExpCtl p) < 0x9808000 := by unfold rColExpCtl; omega
  have h3 : (rColExpCtl p) % 0x1000 = 144 := by unfold rColExpCtl; omega
  have h4 : ((rColExpCtl p) - 0x9800000) / 0x1000 = p := by unfold rColExpCtl; omega
  simp [Dev.writeBlock, Dev.writeCol, hb, h0, h1, h2, h3, h4]

theorem writable_rColGCtl {p : Nat} (hp : p < 8) {g : Nat} (hg : g < 64) : writable (rColGCtl p g) = true := by
  unfold writable rColGCtl
  rw [findRow_block (b := 9) (by omega)]
  simp only [blockRows, rowsCol, rowsCol0, rowsCol1, rowsCol2, rowsCol3, rowsCol4, rowsCol5, List.cons_append, List.nil_append]
  repeat rw [List.find?_cons_of_neg (by simp only [RegRow.hit, dimsHit, Bool.and_eq_true, decide_eq_true_eq, beq_iff_eq]; omega)]
  rw [List.find?_cons_of_pos (by simp only [RegRow.hit, dimsHit, Bool.and_eq_true, decide_eq_true_eq, beq_iff_eq]; omega)]
  simp

/-- A write that reaches rColGCtl. -/
theorem rowWr_rColGCtl (d : Dev) (o : Origin) (v : Word) {p : Nat} (hp : p < 8) {g : Nat} (hg : g < 64) (h : Reaches d o (rColGCtl p g)) :
    d.rowWr o (rColGCtl p g) v = d.groupCtl p g v := by
  rw [rowWr_eq d o _ v (by unfold rColGCtl; omega) (writable_rColGCtl hp hg) h]
  have hb : (rColGCtl p g) / 0x1000000 = 9 := by unfold rColGCtl; omega
  have h0 : 0x9400000 ≤ (rColGCtl p g) := by unfold rColGCtl; omega
  have h1 : (rColGCtl p g) < 0x9480000 := by unfold rColGCtl; omega
  have h2 : ((rColGCtl p g) - 0x9400000) / 0x10000 = p := by unfold rColGCtl; omega
  have h3 : (rColGCtl p g) % 0x10000 / 0x40 = g := by unfold rColGCtl; omega
  have h4 : (rColGCtl p g) % 0x40 = 0 := by unfold rColGCtl; omega
  simp [Dev.writeBlock, Dev.writeCol, hb, h0, h1, h2, h3, h4]

theorem writable_rLockCmd : writable rLockCmd = true := by
  decide

/-- A write that reaches rLockCmd. -/
theorem rowWr_rLockCmd (d : Dev) (o : Origin) (v : Word) (h : Reaches d o rLockCmd) :
    d.rowWr o rLockCmd v = d.lockCmd (srcOf o) v := by
  rw [rowWr_eq d o _ v (by unfold rLockCmd; omega) (writable_rLockCmd) h]
  rfl

theorem writable_rMbxDb {c : Nat} (hc : c < 64) : writable (rMbxDb c) = true := by
  unfold writable rMbxDb
  rw [findRow_block (b := 18) (by omega)]
  simp only [blockRows, rowsMbx, rowsMbx0, rowsMbx1, List.cons_append, List.nil_append]
  repeat rw [List.find?_cons_of_neg (by simp only [RegRow.hit, dimsHit, Bool.and_eq_true, decide_eq_true_eq, beq_iff_eq]; omega)]
  rw [List.find?_cons_of_pos (by simp only [RegRow.hit, dimsHit, Bool.and_eq_true, decide_eq_true_eq, beq_iff_eq]; omega)]
  simp

/-- A write that reaches rMbxDb. -/
theorem rowWr_rMbxDb (d : Dev) (o : Origin) (v : Word) {c : Nat} (hc : c < 64) (h : Reaches d o (rMbxDb c)) :
    d.rowWr o (rMbxDb c) v = d.mbxClear c v := by
  rw [rowWr_eq d o _ v (by unfold rMbxDb; omega) (writable_rMbxDb hc) h]
  have hb : (rMbxDb c) / 0x1000000 = 18 := by unfold rMbxDb; omega
  have h0 : (rMbxDb c) % 0x400 = 32 := by unfold rMbxDb; omega
  have h1 : ((rMbxDb c) - 0x12000000) / 0x400 = c := by unfold rMbxDb; omega
  simp [Dev.writeBlock, Dev.writeMbx, hb, h0, h1]

theorem writable_rMbxDbSet {c : Nat} (hc : c < 64) : writable (rMbxDbSet c) = true := by
  unfold writable rMbxDbSet
  rw [findRow_block (b := 18) (by omega)]
  simp only [blockRows, rowsMbx, rowsMbx0, rowsMbx1, List.cons_append, List.nil_append]
  repeat rw [List.find?_cons_of_neg (by simp only [RegRow.hit, dimsHit, Bool.and_eq_true, decide_eq_true_eq, beq_iff_eq]; omega)]
  rw [List.find?_cons_of_pos (by simp only [RegRow.hit, dimsHit, Bool.and_eq_true, decide_eq_true_eq, beq_iff_eq]; omega)]
  simp

/-- A write that reaches rMbxDbSet. -/
theorem rowWr_rMbxDbSet (d : Dev) (o : Origin) (v : Word) {c : Nat} (hc : c < 64) (h : Reaches d o (rMbxDbSet c)) :
    d.rowWr o (rMbxDbSet c) v = d.mbxSet c v := by
  rw [rowWr_eq d o _ v (by unfold rMbxDbSet; omega) (writable_rMbxDbSet hc) h]
  have hb : (rMbxDbSet c) / 0x1000000 = 18 := by unfold rMbxDbSet; omega
  have h0 : (rMbxDbSet c) % 0x400 = 36 := by unfold rMbxDbSet; omega
  have h1 : ((rMbxDbSet c) - 0x12000000) / 0x400 = c := by unfold rMbxDbSet; omega
  simp [Dev.writeBlock, Dev.writeMbx, hb, h0, h1]

theorem writable_rMbxLock {c : Nat} (hc : c < 64) : writable (rMbxLock c) = true := by
  unfold writable rMbxLock
  simp only [Bool.or_eq_true, Bool.and_eq_true, decide_eq_true_eq]
  omega

/-- A write that reaches rMbxLock. -/
theorem rowWr_rMbxLock (d : Dev) (o : Origin) (v : Word) {c : Nat} (hc : c < 64) (h : Reaches d o (rMbxLock c)) :
    d.rowWr o (rMbxLock c) v = d.lockWrite (srcOf o) c := by
  rw [rowWr_eq d o _ v (by unfold rMbxLock; omega) (writable_rMbxLock hc) h]
  have hb : (rMbxLock c) / 0x1000000 = 18 := by unfold rMbxLock; omega
  have h0 : (rMbxLock c) % 0x400 = 64 := by unfold rMbxLock; omega
  have h1 : ((rMbxLock c) - 0x12000000) / 0x400 = c := by unfold rMbxLock; omega
  simp [Dev.writeBlock, Dev.writeMbx, hb, h0, h1]

theorem writable_rMbxLockForce {c : Nat} (hc : c < 64) : writable (rMbxLockForce c) = true := by
  unfold writable rMbxLockForce
  rw [findRow_block (b := 18) (by omega)]
  simp only [blockRows, rowsMbx, rowsMbx0, rowsMbx1, List.cons_append, List.nil_append]
  repeat rw [List.find?_cons_of_neg (by simp only [RegRow.hit, dimsHit, Bool.and_eq_true, decide_eq_true_eq, beq_iff_eq]; omega)]
  rw [List.find?_cons_of_pos (by simp only [RegRow.hit, dimsHit, Bool.and_eq_true, decide_eq_true_eq, beq_iff_eq]; omega)]
  simp

/-- A write that reaches rMbxLockForce. -/
theorem rowWr_rMbxLockForce (d : Dev) (o : Origin) (v : Word) {c : Nat} (hc : c < 64) (h : Reaches d o (rMbxLockForce c)) :
    d.rowWr o (rMbxLockForce c) v = d.lockForce o c v := by
  rw [rowWr_eq d o _ v (by unfold rMbxLockForce; omega) (writable_rMbxLockForce hc) h]
  have hb : (rMbxLockForce c) / 0x1000000 = 18 := by unfold rMbxLockForce; omega
  have h0 : (rMbxLockForce c) % 0x400 = 68 := by unfold rMbxLockForce; omega
  have h1 : ((rMbxLockForce c) - 0x12000000) / 0x400 = c := by unfold rMbxLockForce; omega
  simp [Dev.writeBlock, Dev.writeMbx, hb, h0, h1]

theorem writable_rTsSnapAtHi : writable rTsSnapAtHi = true := by
  decide

/-- A write that reaches rTsSnapAtHi. -/
theorem rowWr_rTsSnapAtHi (d : Dev) (o : Origin) (v : Word) (h : Reaches d o rTsSnapAtHi) :
    d.rowWr o rTsSnapAtHi v = d.snapArm v := by
  rw [rowWr_eq d o _ v (by unfold rTsSnapAtHi; omega) (writable_rTsSnapAtHi) h]
  rfl

theorem writable_rFlwRdSeq : writable rFlwRdSeq = true := by
  decide

/-- A write that reaches rFlwRdSeq. -/
theorem rowWr_rFlwRdSeq (d : Dev) (o : Origin) (v : Word) (h : Reaches d o rFlwRdSeq) :
    d.rowWr o rFlwRdSeq v = d.flwFetch v := by
  rw [rowWr_eq d o _ v (by unfold rFlwRdSeq; omega) (writable_rFlwRdSeq) h]
  rfl

theorem writable_rMbxDbMask0 {c : Nat} (hc : c < 64) : writable (rMbxDbMask0 c) = true := by
  unfold writable rMbxDbMask0
  rw [findRow_block (b := 18) (by omega)]
  simp only [blockRows, rowsMbx, rowsMbx0, rowsMbx1, List.cons_append, List.nil_append]
  repeat rw [List.find?_cons_of_neg (by simp only [RegRow.hit, dimsHit, Bool.and_eq_true, decide_eq_true_eq, beq_iff_eq]; omega)]
  rw [List.find?_cons_of_pos (by simp only [RegRow.hit, dimsHit, Bool.and_eq_true, decide_eq_true_eq, beq_iff_eq]; omega)]
  simp

/-- A write that reaches rMbxDbMask0. -/
theorem rowWr_rMbxDbMask0 (d : Dev) (o : Origin) (v : Word) {c : Nat} (hc : c < 64) (h : Reaches d o (rMbxDbMask0 c)) :
    d.rowWr o (rMbxDbMask0 c) v = d.mbxMask c 0 v := by
  rw [rowWr_eq d o _ v (by unfold rMbxDbMask0; omega) (writable_rMbxDbMask0 hc) h]
  have hb : (rMbxDbMask0 c) / 0x1000000 = 18 := by unfold rMbxDbMask0; omega
  have h0 : (rMbxDbMask0 c) % 0x400 = 40 := by unfold rMbxDbMask0; omega
  have h1 : ((rMbxDbMask0 c) - 0x12000000) / 0x400 = c := by unfold rMbxDbMask0; omega
  simp [Dev.writeBlock, Dev.writeMbx, hb, h0, h1]

theorem writable_rMbxDbMask1 {c : Nat} (hc : c < 64) : writable (rMbxDbMask1 c) = true := by
  unfold writable rMbxDbMask1
  rw [findRow_block (b := 18) (by omega)]
  simp only [blockRows, rowsMbx, rowsMbx0, rowsMbx1, List.cons_append, List.nil_append]
  repeat rw [List.find?_cons_of_neg (by simp only [RegRow.hit, dimsHit, Bool.and_eq_true, decide_eq_true_eq, beq_iff_eq]; omega)]
  rw [List.find?_cons_of_pos (by simp only [RegRow.hit, dimsHit, Bool.and_eq_true, decide_eq_true_eq, beq_iff_eq]; omega)]
  simp

/-- A write that reaches rMbxDbMask1. -/
theorem rowWr_rMbxDbMask1 (d : Dev) (o : Origin) (v : Word) {c : Nat} (hc : c < 64) (h : Reaches d o (rMbxDbMask1 c)) :
    d.rowWr o (rMbxDbMask1 c) v = d.mbxMask c 1 v := by
  rw [rowWr_eq d o _ v (by unfold rMbxDbMask1; omega) (writable_rMbxDbMask1 hc) h]
  have hb : (rMbxDbMask1 c) / 0x1000000 = 18 := by unfold rMbxDbMask1; omega
  have h0 : (rMbxDbMask1 c) % 0x400 = 44 := by unfold rMbxDbMask1; omega
  have h1 : ((rMbxDbMask1 c) - 0x12000000) / 0x400 = c := by unfold rMbxDbMask1; omega
  simp [Dev.writeBlock, Dev.writeMbx, hb, h0, h1]

theorem writable_rMbxNotify0 {c : Nat} (hc : c < 64) : writable (rMbxNotify0 c) = true := by
  unfold writable rMbxNotify0
  rw [findRow_block (b := 18) (by omega)]
  simp only [blockRows, rowsMbx, rowsMbx0, rowsMbx1, List.cons_append, List.nil_append]
  repeat rw [List.find?_cons_of_neg (by simp only [RegRow.hit, dimsHit, Bool.and_eq_true, decide_eq_true_eq, beq_iff_eq]; omega)]
  rw [List.find?_cons_of_pos (by simp only [RegRow.hit, dimsHit, Bool.and_eq_true, decide_eq_true_eq, beq_iff_eq]; omega)]
  simp

/-- A write that reaches rMbxNotify0. -/
theorem rowWr_rMbxNotify0 (d : Dev) (o : Origin) (v : Word) {c : Nat} (hc : c < 64) (h : Reaches d o (rMbxNotify0 c)) :
    d.rowWr o (rMbxNotify0 c) v = d.mbxTarget (srcOf o) c 0 v := by
  rw [rowWr_eq d o _ v (by unfold rMbxNotify0; omega) (writable_rMbxNotify0 hc) h]
  have hb : (rMbxNotify0 c) / 0x1000000 = 18 := by unfold rMbxNotify0; omega
  have h0 : (rMbxNotify0 c) % 0x400 = 48 := by unfold rMbxNotify0; omega
  have h1 : ((rMbxNotify0 c) - 0x12000000) / 0x400 = c := by unfold rMbxNotify0; omega
  simp [Dev.writeBlock, Dev.writeMbx, hb, h0, h1]

theorem writable_rMbxNotify1 {c : Nat} (hc : c < 64) : writable (rMbxNotify1 c) = true := by
  unfold writable rMbxNotify1
  rw [findRow_block (b := 18) (by omega)]
  simp only [blockRows, rowsMbx, rowsMbx0, rowsMbx1, List.cons_append, List.nil_append]
  repeat rw [List.find?_cons_of_neg (by simp only [RegRow.hit, dimsHit, Bool.and_eq_true, decide_eq_true_eq, beq_iff_eq]; omega)]
  rw [List.find?_cons_of_pos (by simp only [RegRow.hit, dimsHit, Bool.and_eq_true, decide_eq_true_eq, beq_iff_eq]; omega)]
  simp

/-- A write that reaches rMbxNotify1. -/
theorem rowWr_rMbxNotify1 (d : Dev) (o : Origin) (v : Word) {c : Nat} (hc : c < 64) (h : Reaches d o (rMbxNotify1 c)) :
    d.rowWr o (rMbxNotify1 c) v = d.mbxTarget (srcOf o) c 1 v := by
  rw [rowWr_eq d o _ v (by unfold rMbxNotify1; omega) (writable_rMbxNotify1 hc) h]
  have hb : (rMbxNotify1 c) / 0x1000000 = 18 := by unfold rMbxNotify1; omega
  have h0 : (rMbxNotify1 c) % 0x400 = 52 := by unfold rMbxNotify1; omega
  have h1 : ((rMbxNotify1 c) - 0x12000000) / 0x400 = c := by unfold rMbxNotify1; omega
  simp [Dev.writeBlock, Dev.writeMbx, hb, h0, h1]

theorem writable_rMbxQ0Push {c : Nat} (hc : c < 64) : writable (rMbxQ0Push c) = true := by
  unfold writable rMbxQ0Push
  rw [findRow_block (b := 18) (by omega)]
  simp only [blockRows, rowsMbx, rowsMbx0, rowsMbx1, List.cons_append, List.nil_append]
  repeat rw [List.find?_cons_of_neg (by simp only [RegRow.hit, dimsHit, Bool.and_eq_true, decide_eq_true_eq, beq_iff_eq]; omega)]
  rw [List.find?_cons_of_pos (by simp only [RegRow.hit, dimsHit, Bool.and_eq_true, decide_eq_true_eq, beq_iff_eq]; omega)]
  simp

/-- A write that reaches rMbxQ0Push. -/
theorem rowWr_rMbxQ0Push (d : Dev) (o : Origin) (v : Word) {c : Nat} (hc : c < 64) (h : Reaches d o (rMbxQ0Push c)) :
    d.rowWr o (rMbxQ0Push c) v = d.mbxPush (srcOf o) c 0 v := by
  rw [rowWr_eq d o _ v (by unfold rMbxQ0Push; omega) (writable_rMbxQ0Push hc) h]
  have hb : (rMbxQ0Push c) / 0x1000000 = 18 := by unfold rMbxQ0Push; omega
  have h0 : (rMbxQ0Push c) % 0x400 = 0 := by unfold rMbxQ0Push; omega
  have h1 : ((rMbxQ0Push c) - 0x12000000) / 0x400 = c := by unfold rMbxQ0Push; omega
  simp [Dev.writeBlock, Dev.writeMbx, hb, h0, h1]

theorem writable_rMbxQ1Push {c : Nat} (hc : c < 64) : writable (rMbxQ1Push c) = true := by
  unfold writable rMbxQ1Push
  rw [findRow_block (b := 18) (by omega)]
  simp only [blockRows, rowsMbx, rowsMbx0, rowsMbx1, List.cons_append, List.nil_append]
  repeat rw [List.find?_cons_of_neg (by simp only [RegRow.hit, dimsHit, Bool.and_eq_true, decide_eq_true_eq, beq_iff_eq]; omega)]
  rw [List.find?_cons_of_pos (by simp only [RegRow.hit, dimsHit, Bool.and_eq_true, decide_eq_true_eq, beq_iff_eq]; omega)]
  simp

/-- A write that reaches rMbxQ1Push. -/
theorem rowWr_rMbxQ1Push (d : Dev) (o : Origin) (v : Word) {c : Nat} (hc : c < 64) (h : Reaches d o (rMbxQ1Push c)) :
    d.rowWr o (rMbxQ1Push c) v = d.mbxPush (srcOf o) c 1 v := by
  rw [rowWr_eq d o _ v (by unfold rMbxQ1Push; omega) (writable_rMbxQ1Push hc) h]
  have hb : (rMbxQ1Push c) / 0x1000000 = 18 := by unfold rMbxQ1Push; omega
  have h0 : (rMbxQ1Push c) % 0x400 = 16 := by unfold rMbxQ1Push; omega
  have h1 : ((rMbxQ1Push c) - 0x12000000) / 0x400 = c := by unfold rMbxQ1Push; omega
  simp [Dev.writeBlock, Dev.writeMbx, hb, h0, h1]

theorem writable_rSmpQt0 {p : Nat} (hp : p < 8) : writable (rSmpQt0 p) = true := by
  unfold writable rSmpQt0
  rw [findRow_block (b := 7) (by omega)]
  simp only [blockRows, rowsSmp, rowsSmp0, rowsSmp1, rowsSmp2, List.cons_append, List.nil_append]
  repeat rw [List.find?_cons_of_neg (by simp only [RegRow.hit, dimsHit, Bool.and_eq_true, decide_eq_true_eq, beq_iff_eq]; omega)]
  rw [List.find?_cons_of_pos (by simp only [RegRow.hit, dimsHit, Bool.and_eq_true, decide_eq_true_eq, beq_iff_eq]; omega)]
  simp

/-- A write that reaches rSmpQt0. -/
theorem rowWr_rSmpQt0 (d : Dev) (o : Origin) (v : Word) {p : Nat} (hp : p < 8) (h : Reaches d o (rSmpQt0 p)) :
    d.rowWr o (rSmpQt0 p) v = d.quotaSet (srcOf o) p 0 v := by
  rw [rowWr_eq d o _ v (by unfold rSmpQt0; omega) (writable_rSmpQt0 hp) h]
  have hb : (rSmpQt0 p) / 0x1000000 = 7 := by unfold rSmpQt0; omega
  have hf : (List.range 24).find? (fun k => decide ((rSmpQt0 p) = rQuota (k / 3) (k % 3))) = some (3 * p + 0) := by
    unfold  rQuota rSmpQt0 rSmpQt1 rSmpQt2
    interval_cases p <;> decide
  have h1 : (3 * p + 0) / 3 = p := by omega
  have h2 : (3 * p + 0) % 3 = 0 := by omega
  simp only [Dev.writeBlock, hb, hf, h1, h2]

theorem writable_rSmpQt1 {p : Nat} (hp : p < 8) : writable (rSmpQt1 p) = true := by
  unfold writable rSmpQt1
  rw [findRow_block (b := 7) (by omega)]
  simp only [blockRows, rowsSmp, rowsSmp0, rowsSmp1, rowsSmp2, List.cons_append, List.nil_append]
  repeat rw [List.find?_cons_of_neg (by simp only [RegRow.hit, dimsHit, Bool.and_eq_true, decide_eq_true_eq, beq_iff_eq]; omega)]
  rw [List.find?_cons_of_pos (by simp only [RegRow.hit, dimsHit, Bool.and_eq_true, decide_eq_true_eq, beq_iff_eq]; omega)]
  simp

/-- A write that reaches rSmpQt1. -/
theorem rowWr_rSmpQt1 (d : Dev) (o : Origin) (v : Word) {p : Nat} (hp : p < 8) (h : Reaches d o (rSmpQt1 p)) :
    d.rowWr o (rSmpQt1 p) v = d.quotaSet (srcOf o) p 1 v := by
  rw [rowWr_eq d o _ v (by unfold rSmpQt1; omega) (writable_rSmpQt1 hp) h]
  have hb : (rSmpQt1 p) / 0x1000000 = 7 := by unfold rSmpQt1; omega
  have hf : (List.range 24).find? (fun k => decide ((rSmpQt1 p) = rQuota (k / 3) (k % 3))) = some (3 * p + 1) := by
    unfold  rQuota rSmpQt0 rSmpQt1 rSmpQt2
    interval_cases p <;> decide
  have h1 : (3 * p + 1) / 3 = p := by omega
  have h2 : (3 * p + 1) % 3 = 1 := by omega
  simp only [Dev.writeBlock, hb, hf, h1, h2]

theorem writable_rSmpQt2 {p : Nat} (hp : p < 8) : writable (rSmpQt2 p) = true := by
  unfold writable rSmpQt2
  rw [findRow_block (b := 7) (by omega)]
  simp only [blockRows, rowsSmp, rowsSmp0, rowsSmp1, rowsSmp2, List.cons_append, List.nil_append]
  repeat rw [List.find?_cons_of_neg (by simp only [RegRow.hit, dimsHit, Bool.and_eq_true, decide_eq_true_eq, beq_iff_eq]; omega)]
  rw [List.find?_cons_of_pos (by simp only [RegRow.hit, dimsHit, Bool.and_eq_true, decide_eq_true_eq, beq_iff_eq]; omega)]
  simp

/-- A write that reaches rSmpQt2. -/
theorem rowWr_rSmpQt2 (d : Dev) (o : Origin) (v : Word) {p : Nat} (hp : p < 8) (h : Reaches d o (rSmpQt2 p)) :
    d.rowWr o (rSmpQt2 p) v = d.quotaSet (srcOf o) p 2 v := by
  rw [rowWr_eq d o _ v (by unfold rSmpQt2; omega) (writable_rSmpQt2 hp) h]
  have hb : (rSmpQt2 p) / 0x1000000 = 7 := by unfold rSmpQt2; omega
  have hf : (List.range 24).find? (fun k => decide ((rSmpQt2 p) = rQuota (k / 3) (k % 3))) = some (3 * p + 2) := by
    unfold  rQuota rSmpQt0 rSmpQt1 rSmpQt2
    interval_cases p <;> decide
  have h1 : (3 * p + 2) / 3 = p := by omega
  have h2 : (3 * p + 2) % 3 = 2 := by omega
  simp only [Dev.writeBlock, hb, hf, h1, h2]

theorem writable_rGalCeThresh {n : Nat} (hn : n < 8) : writable (rGalCeThresh n) = true := by
  unfold writable rGalCeThresh
  rw [findRow_block (b := 5) (by omega)]
  simp only [blockRows, rowsGal, rowsGal0, rowsGal1, rowsGal2, List.cons_append, List.nil_append]
  repeat rw [List.find?_cons_of_neg (by simp only [RegRow.hit, dimsHit, Bool.and_eq_true, decide_eq_true_eq, beq_iff_eq]; omega)]
  rw [List.find?_cons_of_pos (by simp only [RegRow.hit, dimsHit, Bool.and_eq_true, decide_eq_true_eq, beq_iff_eq]; omega)]
  simp

/-- A write that reaches rGalCeThresh. -/
theorem rowWr_rGalCeThresh (d : Dev) (o : Origin) (v : Word) {n : Nat} (hn : n < 8) (h : Reaches d o (rGalCeThresh n)) :
    d.rowWr o (rGalCeThresh n) v = d.ceThresh n v := by
  rw [rowWr_eq d o _ v (by unfold rGalCeThresh; omega) (writable_rGalCeThresh hn) h]
  have hb : (rGalCeThresh n) / 0x1000000 = 5 := by unfold rGalCeThresh; omega
  have h0 : (rGalCeThresh n) < 0x6000000 := by unfold rGalCeThresh; omega
  have h1 : (rGalCeThresh n) % 0x100000 = 68 := by unfold rGalCeThresh; omega
  have h2 : ((rGalCeThresh n) - 0x5000000) / 0x100000 = n := by unfold rGalCeThresh; omega
  simp [Dev.writeBlock, Dev.writeEcc, hb, h0, h1, h2]

theorem writable_rHbmCeThresh {n : Nat} (hn : n < 12) : writable (rHbmCeThresh n) = true := by
  unfold writable rHbmCeThresh
  rw [findRow_block (b := 6) (by omega)]
  simp only [blockRows, rowsHbm, rowsHbm0, rowsHbm1, rowsHbm2, List.cons_append, List.nil_append]
  repeat rw [List.find?_cons_of_neg (by simp only [RegRow.hit, dimsHit, Bool.and_eq_true, decide_eq_true_eq, beq_iff_eq]; omega)]
  rw [List.find?_cons_of_pos (by simp only [RegRow.hit, dimsHit, Bool.and_eq_true, decide_eq_true_eq, beq_iff_eq]; omega)]
  simp

/-- A write that reaches rHbmCeThresh. -/
theorem rowWr_rHbmCeThresh (d : Dev) (o : Origin) (v : Word) {n : Nat} (hn : n < 12) (h : Reaches d o (rHbmCeThresh n)) :
    d.rowWr o (rHbmCeThresh n) v = d.ceThresh (8 + n) v := by
  rw [rowWr_eq d o _ v (by unfold rHbmCeThresh; omega) (writable_rHbmCeThresh hn) h]
  have hb : (rHbmCeThresh n) / 0x1000000 = 6 := by unfold rHbmCeThresh; omega
  have h0 : ¬ (rHbmCeThresh n) < 0x6000000 := by unfold rHbmCeThresh; omega
  have h1 : (rHbmCeThresh n) % 0x100000 = 68 := by unfold rHbmCeThresh; omega
  have h2 : ((rHbmCeThresh n) - 0x6000000) / 0x100000 = n := by unfold rHbmCeThresh; omega
  simp [Dev.writeBlock, Dev.writeEcc, hb, h0, h1, h2]

theorem writable_rGalScrubCtl {n : Nat} (hn : n < 8) : writable (rGalScrubCtl n) = true := by
  unfold writable rGalScrubCtl
  rw [findRow_block (b := 5) (by omega)]
  simp only [blockRows, rowsGal, rowsGal0, rowsGal1, rowsGal2, List.cons_append, List.nil_append]
  repeat rw [List.find?_cons_of_neg (by simp only [RegRow.hit, dimsHit, Bool.and_eq_true, decide_eq_true_eq, beq_iff_eq]; omega)]
  rw [List.find?_cons_of_pos (by simp only [RegRow.hit, dimsHit, Bool.and_eq_true, decide_eq_true_eq, beq_iff_eq]; omega)]
  simp

/-- A write that reaches rGalScrubCtl. -/
theorem rowWr_rGalScrubCtl (d : Dev) (o : Origin) (v : Word) {n : Nat} (hn : n < 8) (h : Reaches d o (rGalScrubCtl n)) :
    d.rowWr o (rGalScrubCtl n) v = d.scrubCtl n v := by
  rw [rowWr_eq d o _ v (by unfold rGalScrubCtl; omega) (writable_rGalScrubCtl hn) h]
  have hb : (rGalScrubCtl n) / 0x1000000 = 5 := by unfold rGalScrubCtl; omega
  have h0 : (rGalScrubCtl n) < 0x6000000 := by unfold rGalScrubCtl; omega
  have h1 : (rGalScrubCtl n) % 0x100000 = 80 := by unfold rGalScrubCtl; omega
  have h2 : ((rGalScrubCtl n) - 0x5000000) / 0x100000 = n := by unfold rGalScrubCtl; omega
  simp [Dev.writeBlock, Dev.writeEcc, hb, h0, h1, h2]

theorem writable_rHbmScrubCtl {n : Nat} (hn : n < 12) : writable (rHbmScrubCtl n) = true := by
  unfold writable rHbmScrubCtl
  rw [findRow_block (b := 6) (by omega)]
  simp only [blockRows, rowsHbm, rowsHbm0, rowsHbm1, rowsHbm2, List.cons_append, List.nil_append]
  repeat rw [List.find?_cons_of_neg (by simp only [RegRow.hit, dimsHit, Bool.and_eq_true, decide_eq_true_eq, beq_iff_eq]; omega)]
  rw [List.find?_cons_of_pos (by simp only [RegRow.hit, dimsHit, Bool.and_eq_true, decide_eq_true_eq, beq_iff_eq]; omega)]
  simp

/-- A write that reaches rHbmScrubCtl. -/
theorem rowWr_rHbmScrubCtl (d : Dev) (o : Origin) (v : Word) {n : Nat} (hn : n < 12) (h : Reaches d o (rHbmScrubCtl n)) :
    d.rowWr o (rHbmScrubCtl n) v = d.scrubCtl (8 + n) v := by
  rw [rowWr_eq d o _ v (by unfold rHbmScrubCtl; omega) (writable_rHbmScrubCtl hn) h]
  have hb : (rHbmScrubCtl n) / 0x1000000 = 6 := by unfold rHbmScrubCtl; omega
  have h0 : ¬ (rHbmScrubCtl n) < 0x6000000 := by unfold rHbmScrubCtl; omega
  have h1 : (rHbmScrubCtl n) % 0x100000 = 80 := by unfold rHbmScrubCtl; omega
  have h2 : ((rHbmScrubCtl n) - 0x6000000) / 0x100000 = n := by unfold rHbmScrubCtl; omega
  simp [Dev.writeBlock, Dev.writeEcc, hb, h0, h1, h2]

theorem writable_rGalInjCtl {n : Nat} (hn : n < 8) : writable (rGalInjCtl n) = true := by
  unfold writable rGalInjCtl
  rw [findRow_block (b := 5) (by omega)]
  simp only [blockRows, rowsGal, rowsGal0, rowsGal1, rowsGal2, List.cons_append, List.nil_append]
  repeat rw [List.find?_cons_of_neg (by simp only [RegRow.hit, dimsHit, Bool.and_eq_true, decide_eq_true_eq, beq_iff_eq]; omega)]
  rw [List.find?_cons_of_pos (by simp only [RegRow.hit, dimsHit, Bool.and_eq_true, decide_eq_true_eq, beq_iff_eq]; omega)]
  simp

/-- A write that reaches rGalInjCtl. -/
theorem rowWr_rGalInjCtl (d : Dev) (o : Origin) (v : Word) {n : Nat} (hn : n < 8) (h : Reaches d o (rGalInjCtl n)) :
    d.rowWr o (rGalInjCtl n) v = d.injCtl (srcOf o) n v := by
  rw [rowWr_eq d o _ v (by unfold rGalInjCtl; omega) (writable_rGalInjCtl hn) h]
  have hb : (rGalInjCtl n) / 0x1000000 = 5 := by unfold rGalInjCtl; omega
  have h0 : (rGalInjCtl n) < 0x6000000 := by unfold rGalInjCtl; omega
  have h1 : (rGalInjCtl n) % 0x100000 = 248 := by unfold rGalInjCtl; omega
  have h2 : ((rGalInjCtl n) - 0x5000000) / 0x100000 = n := by unfold rGalInjCtl; omega
  simp [Dev.writeBlock, Dev.writeEcc, hb, h0, h1, h2]

theorem writable_rHbmInjCtl {n : Nat} (hn : n < 12) : writable (rHbmInjCtl n) = true := by
  unfold writable rHbmInjCtl
  rw [findRow_block (b := 6) (by omega)]
  simp only [blockRows, rowsHbm, rowsHbm0, rowsHbm1, rowsHbm2, List.cons_append, List.nil_append]
  repeat rw [List.find?_cons_of_neg (by simp only [RegRow.hit, dimsHit, Bool.and_eq_true, decide_eq_true_eq, beq_iff_eq]; omega)]
  rw [List.find?_cons_of_pos (by simp only [RegRow.hit, dimsHit, Bool.and_eq_true, decide_eq_true_eq, beq_iff_eq]; omega)]
  simp

/-- A write that reaches rHbmInjCtl. -/
theorem rowWr_rHbmInjCtl (d : Dev) (o : Origin) (v : Word) {n : Nat} (hn : n < 12) (h : Reaches d o (rHbmInjCtl n)) :
    d.rowWr o (rHbmInjCtl n) v = d.injCtl (srcOf o) (8 + n) v := by
  rw [rowWr_eq d o _ v (by unfold rHbmInjCtl; omega) (writable_rHbmInjCtl hn) h]
  have hb : (rHbmInjCtl n) / 0x1000000 = 6 := by unfold rHbmInjCtl; omega
  have h0 : ¬ (rHbmInjCtl n) < 0x6000000 := by unfold rHbmInjCtl; omega
  have h1 : (rHbmInjCtl n) % 0x100000 = 248 := by unfold rHbmInjCtl; omega
  have h2 : ((rHbmInjCtl n) - 0x6000000) / 0x100000 = n := by unfold rHbmInjCtl; omega
  simp [Dev.writeBlock, Dev.writeEcc, hb, h0, h1, h2]

end Sys2Proof.Machine
end

