-- ==== Sys2Proof/Laws/Ops.lean ====
section
/-! SUPPORT. What the shared operations of queues, commands, the access log and the configuration log do, each said once. -/

namespace Sys2Proof.Machine

/-! ### Queues (03) -/

/-- A doorbell write that no check turns away sets the tail. -/
theorem Dev.doorbell_ok (d : Dev) (q : Nat) (v : Word) (h1 : bitOf 0 (d.rd (rQmgQCfg q)) = true)
    (h2 : bitOf 4 (d.rd (rQmgQStatus q)) = false) (h3 : reached32 v (d.rd (rQmgQTail q)) = true)
    (h4 : (v - d.rd (rQmgQRetire q)).toNat ≤ 2 ^ fld 5 1 (d.rd (rQmgQCfg q))) : d.doorbell q v = d.wr (rQmgQTail q) v := by
  have : ¬ d.ringSize q < (v - d.rd (rQmgQRetire q)).toNat := by unfold Dev.ringSize Dev.rdFld; omega
  simp only [Dev.doorbell, h1, h2, h3, Dev.closing, this, Bool.not_true, Bool.or_false, decide_false, Bool.false_eq_true, if_false]

/-- A write of STOP: the control bit, and STATE of a queue that is open. -/
theorem Dev.queueStopWrite_eq (d : Dev) (q : Nat) (b : Bool) : d.queueStopWrite q b =
    if d.rdFld (rQmgQStatus q) 1 0 = 0 then d.wr (rQmgQCtl q) (setBit 0 b (d.rd (rQmgQCtl q)))
    else (d.wr (rQmgQCtl q) (setBit 0 b (d.rd (rQmgQCtl q)))).wrFld (rQmgQStatus q) 1 0 (if b then 2 else 1) := by
  have h : rQmgQStatus q ≠ rQmgQCtl q := by unfold rQmgQStatus rQmgQCtl; omega
  unfold Dev.queueStopWrite Dev.qState
  simp only [Dev.rdFld, Dev.rd_wr_ne _ _ h]
  split <;> cases b <;> simp_all

/-- The two lowest bits of a word as a number. -/
theorem fld_one_zero (w : Word) : fld 1 0 w = (bitOf 0 w).toNat + 2 * (bitOf 1 w).toNat := by
  simp only [fld, bitOf]
  have : ∀ x : BitVec 32, x.toNat % 4 = (x.getLsbD 0).toNat + 2 * (x.getLsbD 1).toNat := by
    intro x
    simp only [BitVec.getLsbD, Nat.testBit, Nat.shiftRight_eq_div_pow]
    rw [show (4 : Nat) = 2 * 2 from rfl, Nat.mod_mul]
    cases Nat.mod_two_eq_zero_or_one x.toNat <;> cases Nat.mod_two_eq_zero_or_one (x.toNat / 2) <;> simp_all
  simpa using this w

/-! ### Commands in flight -/

theorem Dev.mem_setCmd {d : Dev} {q : Nat} {i : Word} {f : Inflight → Inflight} {y : Inflight} :
    y ∈ (d.setCmd q i f).queue.infl ↔ ∃ z ∈ d.queue.infl, y = if z.q = q ∧ z.i = i then f z else z := by
  unfold Dev.setCmd mapIf
  simp only [List.mem_map, Bool.and_eq_true, decide_eq_true_eq]
  constructor <;>
  · rintro ⟨z, hz, rfl⟩
    exact ⟨z, hz, rfl⟩

/-- A command that has been given its result stands ended with it. -/
theorem Dev.finish_ended {d : Dev} {x : Inflight} {r : Result} {y : Inflight} (hy : y ∈ (d.finish x r).queue.infl) (h1 : y.q = x.q)
    (h2 : y.i = x.i) : y.phase = .ended ∧ y.res = r := by
  obtain ⟨z, hz, he⟩ := Dev.mem_setCmd.mp hy
  split at he
  · subst he; simp
  · next h => exact absurd (by subst he; exact ⟨h1, h2⟩) h

/-- The work of a dispatched command of the right kind is done on it. -/
theorem Dev.work_eq (d : Dev) (c : CmdRef) (x : Inflight) (p : Inflight → Bool) (f : Inflight → Dev → Dev) (h : d.cmd? c = some x)
    (hp : x.phase = .dispatched) (hq : p x = true) : d.work c p f = f x d := by
  simp [Dev.work, h, hp, hq]

theorem Dev.dmaStat_queue (d : Dev) (e : Nat) : (d.dmaStat e).queue = d.queue := by
  unfold Dev.dmaStat
  split <;> rfl

/-! ### The recorder and the change log -/

/-- A page record changes registers of FLW alone. -/
theorem Dev.rd_flw (d : Dev) (a b c e : Nat) {off : Nat} (h : off ≠ rFlwSeq) (h2 : off ≠ rFlwStatus) (h3 : off ≠ rFlwDrop) :
    (d.flw a b c e).rd off = d.rd off := by
  unfold Dev.flw Dev.flwWith
  split
  · rfl
  · split
    · show ((d.addSat rFlwDrop 1)).rd off = d.rd off
      simp [Dev.addSat, Dev.rd_wr_ne _ _ h3]
    · simp only [Dev.rd_wrFld, h2, if_false, Dev.rd_wr_ne _ _ h]; rfl

/-- A page record changes registers and the recorder. -/
theorem Dev.flw_eq (d : Dev) (a b c e : Nat) : d.flw a b c e = { d with regs := (d.flw a b c e).regs, rcd := (d.flw a b c e).rcd } := by
  unfold Dev.flw Dev.flwWith
  split
  · rfl
  · split <;> rfl

theorem Dev.rd_changeLog (d : Dev) (a b c e f : Nat) (g : List Byte) {off : Nat} (h : off ≠ rBootLogCount) :
    (d.changeLog a b c e f g).rd off = d.rd off := by
  unfold Dev.changeLog
  simp [Dev.rd_wr_ne _ _ h]
  rfl

/-! ### Core caches (04) -/

/-- A read through a cache that does not hold the line reads it from memory. -/
theorem Dev.cacheRead_miss (d : Dev) (acc : Acc) (lines : List (Nat × List Byte)) (cap a n : Nat) (h : lineOf lines a = none) :
    d.cacheRead acc lines cap a n =
      let r := d.fresh.2.readMem acc (a / 64 * 64) 64
      let rest := lines.filter (·.1 ≠ a / 64 * 64)
      (((r.1.data.drop (a % 64)).take n, if r.1.bad.isSome then rest else ((a / 64 * 64, r.1.bytes) :: rest).take cap), r.2) := by
  unfold Dev.cacheRead
  simp only [h, ite_self]

/-- A fetch of a parcel whose line the instruction cache does not hold. -/
theorem Dev.fetchParcel_miss (d : Dev) (c a : Nat) (h : lineOf (d.core c).icache a = none) :
    d.fetchParcel c a =
      if a % 2 ≠ 0 || inRegs a || !d.mapped a then ((0x10, 0), d)
      else
        let m := d.fresh.2.readMem (d.accOf (.core (Fin.ofNat 1536 c))) (a / 64 * 64) 64
        let l := (m.1.data.drop (a % 64)).take 2
        let rest := (d.core c).icache.filter (·.1 ≠ a / 64 * 64)
        let t := m.2.updCore c (fun s => { s with
          icache := if m.1.bad.isSome then rest else ((a / 64 * 64, m.1.bytes) :: rest).take 512 })
        if l.any (·.2) then ((0x11, 0), t) else ((0, ofLe (l.map (·.1))), t) := by
  unfold Dev.fetchParcel
  rw [Dev.cacheRead_miss _ _ _ _ _ _ h]

end Sys2Proof.Machine
end

