-- ==== Sys2Proof/Tests/Slice0.lean ====
section
/-! SUPPORT. Tests: each ill-formed command is refused; and for the statements of Certificates/Slice0/Obligations.lean that have
hypotheses, states and operands that meet them (witness_…), and what a step does there. -/

namespace Sys2Proof.Tests

set_option Elab.async false

open Sys2Proof Sys2Proof.Machine Sys2Proof.Safety

/-- The device after reset with the registers of `l` written. -/
def dev (l : List (Nat × Word)) : Dev := l.foldl (fun d e => d.wr e.1 e.2) Dev.reset

/-- The device with bytes stored. -/
def store (d : Dev) (a : Nat) (bs : List Byte) : Dev := { d with mem := d.mem.setBytes a bs }

/-- 64-byte slot of a command: CLASS and OP, SEQ 7, and its operands. -/
def slot (cls op : Nat) (opds : List Nat) : List Byte :=
  (leBytes 4 (cls + 16 * op) ++ leBytes 4 7 ++ leBytes 16 0 ++ opds.flatMap (leBytes 8) ++ List.replicate 64 0).take 64

/-- A command of queue 0 in its slot 0, of partition 0 and DMA engine 0. -/
def cmd (phase : Phase) (cls op : Nat) (opds : List Nat) : Inflight :=
  { q := 0, i := 0, slot := slot cls op opds, ext := [], part := 0, seed := 0, rnd := 1, epoch := 0, tblsrc := false, ts := 0, eng := 0,
    heldAt := 0, phase := phase, res := Result.fresh, lastout := false, copied := none, descs := [], ord := 1 }

/-- Its name. -/
def ref : CmdRef := ⟨0, 0⟩

/-- The device with commands in flight. -/
def flying (d : Dev) (l : List Inflight) : Dev := { d with queue := { d.queue with infl := l } }

/-- A state with no command waiting. -/
def idle (d : Dev) : State := ⟨d, []⟩

/-- Does the command answer a next state whose device has the property? -/
def goes (i : Instr) (d : Dev) (f : Dev → Bool) : Bool :=
  match exec i (idle d) with
  | .next t => f t.dev
  | _ => false

/-- Does the command end with the fault of an ill-formed command? -/
def faults (i : Instr) (d : Dev) : Bool :=
  match exec i (idle d) with
  | .fault .illFormed => true
  | _ => false

/-- The 64 bytes of an uncompressed tensor descriptor of rank 1 with `n` elements of format `code` (Table 3-4). -/
def tensor (code region base n : Nat) : List Byte :=
  leBytes 4 (code + 2 ^ 8 + 2 ^ 11 * region) ++ leBytes 4 0 ++ leBytes 8 base ++ leBytes 8 0 ++ leBytes 3 n
    ++ (List.replicate 5 [1#8, 0#8, 0#8]).flatten ++ leBytes 22 0

/-- Two FP32 tensors of four elements in Gallery, described at its base and 64 bytes on. -/
def tensors : Dev := store (store Dev.reset 0x200000000000 (tensor 0 1 0x200000001000 4)) 0x200000000040 (tensor 0 1 0x200000002000 4)

/-- What the two describe. -/
def tensorAt (base : Nat) : Desc :=
  { fmt := .fp32, rank := 1, region := 1, cls := 0, delta := false, eb := 0, rnd := 0, chdim := 0, sat := false, pad := 0, base := base,
    tslot := 0, pmask := 0, size := [4, 1, 1, 1, 1, 1], stride := [1, 0, 0, 0, 0, 0], mask := [] }

/-! ### Commands that no sender can form -/

theorem test_bar2_refused : WellFormed.bar2 0x40 4 (.write false) = false ∧ WellFormed.bar2 4 4 (.write false) = true ∧
    WellFormed.bar2 0x40 4 .read = true ∧ faults (.bar2OtherWrite 0 0x40 4 (.write false)) Dev.reset = true := by decide +kernel

theorem test_unaligned_refused : WellFormed.unaligned 8 4 = false ∧ WellFormed.unaligned 8 0 = false ∧ WellFormed.unaligned 2 4 = true ∧
    faults (.unalignedAccess .mgmt 8 4 false) Dev.reset = true := by decide +kernel

theorem test_no_word_spells_a_command : decodeTableWord 32 0 = none ∧ State.reset.withFetchWord 32 0 = State.reset := by decide +kernel

/-! ### Queues (10) -/

/-- Both PCIe links up and the device READY. -/
def ready : List (Nat × Word) := [(rPciStatus 0, 0x200), (rPciStatus 1, 0x200), (rBootState, 5)]

theorem witness_doorbell : let d := dev (ready ++ [(rQmgQCfg 65535, 0xD), (rQmgQTail 65535, 0xFFFFFFFF), (rQmgQRetire 65535, 0xFFFFFFC1)])
    bitOf 0 (d.rd (rQmgQCfg 65535)) = true ∧ bitOf 4 (d.rd (rQmgQStatus 65535)) = false ∧ reached32 1 (d.rd (rQmgQTail 65535)) = true ∧
    ((1 : Word) - d.rd (rQmgQRetire 65535)).toNat = 2 ^ fld 5 1 (d.rd (rQmgQCfg 65535)) ∧ d.may (.host 1) = true ∧
    Reaches d .mgmt (rQmgQDb 65535) ∧ goes (.doorbell (.host 1) 65535 1 false) d (fun t => t = (d.wr (rQmgQTail 65535) 1).refresh) := by
  decide +kernel

theorem witness_counters : Reaches Dev.reset .mgmt (rQmgCntVal 262143) ∧ Reaches Dev.reset .mgmt (rQmgCntAdd 262143) := by decide +kernel

theorem test_counter_add_wraps : goes (.qmgCntAdd .mgmt 5 2) (dev [(rQmgCntVal 5, 0xFFFFFFFF)]) (fun t => t.rd (rQmgCntVal 5) = 1) := by
  decide +kernel

theorem test_step_takes_the_front : ∀ i ∈ [Instr.qmgCntAdd .mgmt 5 2], ∀ j ∈ [Instr.qmgCntAdd .mgmt 5 7],
    (match step { State.reset with pending := [i, j] } with
      | .next t => t.pending = [j] && t.dev.rd (rQmgCntVal 5) = 2#32
      | _ => false) = true := by decide +kernel
theorem witness_queue_control : let d := dev [(rQmgQStatus 65535, 3)]
    Reaches d .mgmt (rQmgQCtl 65535) ∧ d.rdFld (rQmgQStatus 65535) 1 0 = 3 ∧ (dev [(rQmgQStatus 0, 2)]).rdFld (rQmgQStatus 0) 1 0 = 2 ∧
    Reaches d .mgmt (rTopPCtl 0) ∧ bitOf 1 (1 : Word) = false ∧ bitOf 0 (2 : Word) = false := by decide +kernel

theorem test_queue_stop_and_resume : goes (.queueStop .mgmt 9) (dev [(rQmgQStatus 9, 1)]) (fun t =>
      t.rd (rQmgQStatus 9) = 2 && t.rd (rQmgQCtl 9) = 1) ∧
    goes (.queueResume .mgmt 9) (dev [(rQmgQStatus 9, 2), (rQmgQCtl 9, 1)]) (fun t =>
      t.rd (rQmgQStatus 9) = 1 && t.rd (rQmgQCtl 9) = 0) := by decide +kernel

/-- A queue whose ring and completion area lie in Gallery. -/
def rings (q : Nat) : List (Nat × Word) := [(rQmgQBaseLo q + 4, 0x2000), (rQmgQCplLo q, 0x100000), (rQmgQCplLo q + 4, 0x2000)]

theorem witness_queue_enable (l : Word) (hl : l = 0xC ∨ l = 0x20) : let d := dev (rings 65535)
    Reaches d .mgmt (rQmgQCfg 65535) ∧ bitOf 0 (d.rd (rQmgQCfg 65535)) = false ∧ d.closing 65535 = false ∧ 6 ≤ fld 5 1 l ∧ fld 5 1 l ≤ 16 ∧
    d.inHbmOrGallery (d.qPart 65535) (d.rd64 (rQmgQBaseLo 65535)) (64 * 2 ^ fld 5 1 l) = true ∧
    d.inHbmOrGallery (d.qPart 65535) (d.rd64 (rQmgQCplLo 65535)) (64 * 2 ^ fld 5 1 l) = true := by
  rcases hl with rfl | rfl <;> decide +kernel

theorem witness_queue_close : let d := dev [(rQmgQStatus 65535, 0x11), (rQmgQCfg 65535, 0xD)]
    Reaches d .mgmt (rQmgQCfg 65535) ∧ bitOf 0 (d.rd (rQmgQCfg 65535)) = true ∧ d.closing 65535 = true ∧
    d.queue.infl.all (fun x => x.q ≠ 65535) = true := by decide +kernel

/-- Queue 0 RUNNING with one slot to fetch. -/
def oneSlot : Dev := dev (rings 0 ++ [(rQmgQCfg 0, 0xD), (rQmgQStatus 0, 1), (rQmgQTail 0, 1)])

theorem witness_ring_fetch : let d := oneSlot
    let r := d.readMem ⟨some (d.qPart 0), qmSrc 0⟩ (d.rd64 (rQmgQBaseLo 0) + (d.rd (rQmgQHead 0)).toNat % d.ringSize 0 * 64) 64
    d.running 0 = true ∧ d.queue.stuck.contains (0 : Fin 65536).val = false ∧ d.queue.fetched.filter (fun f => f.q = 0) = [] ∧
    d.rd (rQmgQTail 0) = d.rd (rQmgQHead 0) + 1 ∧ r.1.bad = none := by decide +kernel

/-- The same with the slot fetched. -/
def fetched (bs : List Byte) : Dev := { oneSlot with queue := { oneSlot.queue with fetched := [⟨0, 0, bs⟩] } }

theorem witness_dispatch : let d := fetched (slot 8 0 [])
    let x := d.sample 0 (slot 8 0 []) []
    d.head? 0 = some (slot 8 0 [], []) ∧ d.ready 0 = true ∧ d.turn 0 = true ∧ d.foreign x.part (slot 8 0 []) [] = false ∧
    d.depFault (slot 8 0 []) [] = false ∧ d.badCmd x.part (slot 8 0 []) [] = false ∧ x.cls = 8 ∧
    d.queue.infl.all (fun y => y.q ≠ 0 || y.i ≠ d.rd (rQmgQHead 0)) = true := by decide +kernel

/-! ### Control commands (10) -/

theorem witness_control (op : Nat) (h : op ∈ [0, 1, 2]) : let d := flying Dev.reset [cmd .dispatched 10 op []]
    Dispatched d ref (cmd .dispatched 10 op []) 10 op ∧
    Dispatched (flying Dev.reset [cmd .dispatched 8 0 []]) ref (cmd .dispatched 8 0 []) 8 0 ∧
    Dispatched (flying Dev.reset [cmd .dispatched 9 0 []]) ref (cmd .dispatched 9 0 []) 9 0 := by
  fin_cases h <;> decide +kernel

theorem witness_mark : let x := cmd .dispatched 12 0 [0x200000000000, 5, 1]
    let d := flying Dev.reset [x]
    let bs := leBytes 4 x.seq ++ leBytes 4 x.q ++ leBytes 8 x.ts ++ leBytes 8 (x.opd 1) ++ leBytes 8 0
    Dispatched d ref x 12 0 ∧ (d.writeMem ⟨some x.part, qmSrc x.q⟩ (x.opd 0) (clean bs)).1 = none := by decide +kernel

/-- A MODE that waits for acknowledgements. -/
def mode (op : Nat) (acked : List ModeUnit) (ta : Option Nat) : Dev :=
  let d := flying Dev.reset [cmd .working 10 op []]
  { d with queue := { d.queue with mode := some { cmd := ref, op := op, value := 1, part := 0, h := 0, acked := acked, ta := ta } } }

theorem witness_mode_switch (op : Nat) (h : op ∈ [0, 1]) : let d := { mode op [] (some 2000) with now := 2000 }
    (∃ m, d.queue.mode = some m ∧ m.ta = some 2000 ∧ m.op = op) ∧
    d.queue.infl.find? (fun x => x.q = ref.q.val && x.i = ref.i) = some (cmd .working 10 op []) ∧
    goes .modeSwitch d (fun t => t.queue.mode = none && t.rd64 rQmgModeTaLo = 2000) := by
  fin_cases h <;> exact ⟨⟨_, rfl, rfl, rfl⟩, by decide +kernel, by decide +kernel⟩

theorem witness_mode_last_ack : let d := mode 1 ((Dev.reset.modeUnits 1).drop 1) none
    ∃ m, d.queue.mode = some m ∧ m.ta = none ∧ d.now ≤ m.h + 100000 ∧ d.modeAsked m = true ∧ (d.modeUnits m.op).contains (ModeUnit.trowel 0) = true ∧
      m.acked.contains (ModeUnit.trowel 0) = false ∧ d.modeReady (.trowel 0) = true ∧
      (d.modeUnits m.op).all (m.acked ++ [ModeUnit.trowel 0]).contains = true :=
  ⟨_, rfl, rfl, by decide +kernel, by decide +kernel, by decide +kernel, by decide +kernel, by decide +kernel, by decide +kernel⟩

theorem witness_mode_timeout : let d := { mode 0 [] none with now := 100000 }
    ∃ m, d.queue.mode = some m ∧ m.ta = none ∧ m.h + 100000 ≤ d.now ∧ (d.modeUnits m.op).all m.acked.contains = false ∧
      d.queue.infl.find? (fun x => x.q = m.cmd.q.val && x.i = m.cmd.i) = some (cmd .working 10 0 []) ∧
      (d.qmErr 4 0 7).queue.infl.find? (fun x => x.q = m.cmd.q.val && x.i = m.cmd.i) = some (cmd .working 10 0 []) :=
  ⟨_, rfl, rfl, by decide +kernel, by decide +kernel, by decide +kernel, by decide +kernel⟩
/-! ### Moves, kernels and the export window (10, 13) -/

/-- A flit header that every check passes. -/
def good : FlitHdr := ⟨7, true, 0, false, 4095, 7, 255, 0, 9, true, .good⟩

/-- Port 23 in a state, on Dreuri or on Ethernet. -/
def port (st : Nat) (eth : Bool) (l : List (Nat × Word)) : Dev :=
  dev ([(rLnkCfg 23, if eth then 0xB else 1), (rLnkStatus 23, BitVec.ofNat 32 st)] ++ l)

/-- The device with coordinate 9 ALIVE, reached as the links say. -/
def known (d : Dev) : Dev :=
  { d with col := { d.col with partners := [(9, ⟨1, ((d.directPorts 9).map (2 ^ ·)).sum, 0, 0⟩)] } }

/-- A dispatched command that its DMA engine holds. -/
def dmaCmd (op : Nat) (opds : List Nat) : Inflight := { cmd .dispatched 1 op opds with heldAt := 1 }

theorem witness_completion : let x := { cmd .ended 0 0 [] with eng := 127 }
    let d := flying (dev (rings 0 ++ [(rQmgQCfg 0, 0xD)])) [x]
    d.cmd? ref = some x ∧ x.phase = .ended ∧ d.trwHolds (.cmd x.q x.i) = false ∧ x.held = false ∧ x.part < 8 ∧ x.cls < 8 ∧
    (sigsOf x.slot x.ext).filter (fun g => d.cntPart g.cnt = some x.part) = [] ∧ x.ctrl.testBit 10 = false ∧
    d.rd (rColEpCtl x.part) ≠ 0 ∧ (d.wr (rColEpCtl 0) 0).rd (rColEpCtl 0) = 0 ∧ bitOf 9 (d.rd (rQmgQCfg x.q)) = false ∧
    d.rd (rQmgQRetire x.q) = x.i ∧ d.queue.doneSlots.filter (fun e => e.1 = x.q) = [] := by decide +kernel

theorem test_completion_record : let x := { cmd .ended 0 0 [] with eng := 127 }
    goes (.commandComplete ref) (flying (dev (rings 0 ++ [(rQmgQCfg 0, 0xD), (rColEpCtl 0, 0)])) [x]) (fun t =>
      t.queue.infl = [] && t.mem.bytes 0x200000100000 4 = (cplRecord x 0 0).take 4 && t.rd (rQmgQRetire 0) = 1#32) := by decide +kernel

theorem witness_engine_start : let x := cmd .dispatched 1 0 []
    let d := flying Dev.reset [x]
    d.queue.infl.filter (fun y => y.eng = (0 : Fin 96).val && !y.held && y.phase = .dispatched) = [x] ∧ x.op ≠ 2 ∧
    (d.dmaHeld 0).length < 4 := by decide +kernel

theorem witness_copy : let x := dmaCmd 0 [0x200000000000, 0x200000000040]
    let d := flying tensors [x]
    let acc : Acc := ⟨some 0, dmaSrc 0⟩
    let src := tensorAt 0x200000001000
    let dst := tensorAt 0x200000002000
    let idxs := (List.range dst.count).map dst.idxOf
    let a := d.loadDesc acc (x.opd 0)
    let b := a.2.loadDesc acc (x.opd 1)
    let rd := b.2.readElems acc 4096 src (src.org x.epoch) (idxs.map src.siOf)
    let w := rd.2.writeElems acc 4096 dst (dst.org x.epoch) ⟨x.seed, BitVec.ofNat 32 x.seq, 0xFFFFFFFFFFFFFFFF, x.rnd⟩
      ((idxs.zip rd.1.els).map (fun e => ⟨e.1, .raw e.2.code, e.2.bad⟩))
    Dispatched d ref x 1 0 ∧ d.dmaTurn x = true ∧ (x.opd 2).testBit 18 = false ∧ (x.opd 2).testBit 19 = false ∧ a.1 = some src ∧
    b.1 = some dst ∧ src.cls = 0 ∧ dst.cls = 0 ∧ src.fmt = dst.fmt ∧ dst.fmt.isMx = false ∧
    idxs.all (fun i => i.length = 6 && inSizes src.size (i.map Int.ofNat)) = true ∧
    descMeets x.epoch src dst = false ∧ rd.1.bad = none ∧ rd.1.refused = false ∧ rd.1.poison = false ∧ w.1.bad = none := by decide +kernel

theorem test_copy_moves : goes (.copy ref) (flying (store tensors 0x200000001004 [1, 2, 3, 4])
      [dmaCmd 0 [0x200000000000, 0x200000000040]])
    (fun t => t.mem.bytes 0x200000002004 4 = [1, 2, 3, 4] && t.queue.infl.all (fun y => y.phase = .ended)) := by decide +kernel

theorem witness_fill : let x := dmaCmd 1 [0, 0x200000000040, 0xFFFFFFFF]
    let d := flying tensors [x]
    let t := d.loadDesc ⟨some 0, dmaSrc 0⟩ (x.opd 1)
    let dst := tensorAt 0x200000002000
    Dispatched d ref x 1 1 ∧ d.dmaTurn x = true ∧ t.1 = some dst ∧ dst.fmt.isMx = false ∧ patternBad dst.fmt (x.opd 2 % 2 ^ 32) = false ∧
    (t.2.writeElems ⟨some 0, dmaSrc 0⟩ 4096 dst (dst.org x.epoch) ⟨x.seed, BitVec.ofNat 32 x.seq, 0xFFFFFFFFFFFFFFFF, x.rnd⟩
      ((List.range dst.count).map (fun e => ⟨dst.idxOf e, .raw (x.opd 2 % 2 ^ 32), false⟩))).1.bad = none := by decide +kernel

theorem witness_pull : let x := dmaCmd 2 [9, 0, 0x200000000000, 64]
    let y := cmd .dispatched 1 2 [9, 0, 0x200000000000, 64]
    let d := flying (port 3 false [(rLnkPartner 23, 9)]) [x]
    let e := flying (port 3 false [(rLnkPartner 23, 9)]) [y]
    e.queue.infl.filter (fun y => y.eng = (0 : Fin 96).val && !y.held && y.phase = .dispatched) = [y] ∧ y.op = 2 ∧
    (e.dmaHeld 0).length < 4 ∧ (e.partner (y.opd 0 % 65536)).state ≠ 2 ∧
    Dispatched d ref x 1 2 ∧ d.dmaTurn x = true ∧ x.opd 3 % 2 ^ 32 ≠ 0 ∧ x.opd 3 % 2 ^ 32 % 64 = 0 ∧ FlitOk d 23 good .traffic ∧
    good.src.toNat = x.opd 0 % 65536 ∧ good.poison = false ∧ regOff (x.opd 2) = none ∧ e.routes 1 9 = [23] := by
  decide +kernel

theorem test_pull_reply_is_written : let d := flying (port 3 false []) [dmaCmd 2 [9, 0, 0x200000000000, 64]]
    goes (.pull ref ⟨23, good⟩ ⟨List.replicate 64 5, []⟩) d (fun t => t.mem.bytes 0x200000000000 64 = List.replicate 64 5
      && t.queue.infl.all (fun y => y.phase = .ended && y.res.status = .done)) := by decide +kernel

/-- An open export window of 64 bytes, with a port to coordinate 9. -/
def exported : Dev := known (port 3 false [(rLnkPartner 23, 9), (rColExpBaseLo 0 + 4, 0x2000), (rColExpSizeLo 0, 64), (rColExpCtl 0, 1)])

theorem witness_export : let d := exported
    bitOf 0 (d.rd (rColExpCtl 0)) = true ∧ d.rd64 (rColExpBaseLo 0) = 0x200000000000 ∧ d.rd64 (rColExpSizeLo 0) = 64 ∧
    (granules 0x200000000000 64).all (fun g => d.reaches ⟨some 0, srcNo 17 0x040⟩ false g.1) = true ∧ Known d good.src.toNat ∧
    FlitOk d 23 good .traffic ∧
    Reaches Dev.reset .mgmt (rColExpCtl 7) ∧ bitOf 0 (Dev.reset.rd (rColExpCtl 7)) = false ∧
    Dev.reset.windowHolds 0 0x200000000000 64 = true ∧ Dev.reset.windowHolds 0 0x200000000000 0x240000001 = false := by decide +kernel

theorem test_export_stops_at_its_end : goes (.pullServe ⟨23, good⟩ 0 0x200000000000 64) exported (fun t =>
      t.rd64 (rColExpBytesLo 0) = 64 && t.rd (rColExpRefused 0) = 0#32) ∧
    goes (.pullServe ⟨23, good⟩ 0 0x200000000000 65) exported (fun t => t.rd64 (rColExpBytesLo 0) = 0 && t.rd (rColExpRefused 0) = 1#32) := by
  decide +kernel

theorem witness_kernel : let x := cmd .dispatched 0 0 [0x200000000000, 0, 0, 0, 1]
    let d := flying (dev [(rCoreStatus 0, 1)]) [x]
    let r := d.readLaunch (d.launchHub x.part * 256) x.part (x.opd 2)
    let i : LaunchIn := ⟨none, [], none, none⟩
    let y := { x with copied := some (.inr i) }
    let z := { x with copied := some (.inl (3, none)) }
    x.copied = none ∧ r.1 = .inr i ∧ x.opd 3 = 0 ∧
    Dispatched (flying d [y]) ref y 0 0 ∧ Dispatched (flying d [z]) ref z 0 0 ∧ (d.diesOf 0).all d.fenced = false ∧
    d.launches = [] ∧ d.freeLaunchSlot (d.launchHub 0) = some 0 := by decide +kernel

theorem witness_early_kernel : let bs := leBytes 4 0x800 ++ (slot 0 0 [0x200000000000, 0, 0, 0, 1]).drop 4
    let d := fetched bs
    d.head? 0 = some (bs, []) ∧ d.running 0 = true ∧ d.closing 0 = false ∧ leAt bs 0 1 = 0 ∧ (leAt bs 0 4).testBit 11 = true ∧
    ((waitsOf bs []).filter (·.kind)).all (d.waitMet 0) = true ∧ d.badCmd (d.qPart 0) bs [] = false ∧
    d.queue.infl.any (fun x => x.q = (0 : Fin 65536).val && x.i = d.rd (rQmgQHead 0)) = false ∧ d.foreign (d.qPart 0) bs [] = false ∧
    d.freeLaunchSlot (d.launchHub (d.qPart 0)) = some 0 ∧
    (d.readLaunch 0 (d.qPart 0) ({ d.sample 0 bs [] with phase := .early }.opd 2)).1 = .inr ⟨none, [], none, none⟩ := by decide +kernel
/-! ### The host interface (01) and registers (17) -/

theorem witness_pcie_ports : let up := dev ready
    let rails := { Dev.reset with pins := { Dev.reset.pins with railsEn := true } }
    let waiting := { up with host := { up.host with pba := [4095] } }
    up.linkUp 1 = true ∧ up.rd (rPciErr 1) = 0 ∧ up.may (.host 1) = true ∧ up.bootState = 5 ∧ up.host.bars = [] ∧
    rails.linkUp 1 = false ∧ rails.pins.railsEn = true ∧ rails.pins.resetN = true ∧ rails.pins.bootStop = false ∧
    rails.rdFld rPwrStatus 1 0 ≠ 2 ∧ rails.host.pba.filter (fun k => k / 2048 = 1) = [] ∧
    waiting.may (.host 1) = true ∧ waiting.host.pba.contains ((1 : Fin 2).val * 2048 + (2047 : Fin 2048).val) = true ∧
    hostPort (0xBFFFFFFFFFFF#48).toNat = some 1 ∧ hostPort (0x400000000000#48).toNat = some 0 ∧
    (dev [(rPciStatus 0, 0x200)]).linkUp 0 = true ∧ (dev [(rPciStatus 0, 0x200)]).bootState = 0 := by decide +kernel

theorem test_bar_shows_its_size : let up := dev ready
    goes (.configurationRequest 1 0x10 (some 0xFFFFFFFF)) up (fun t => t.barWord 1 0 = setFld (barBits 0 - 1) 0 4 0xFFFFFFFF) ∧
    goes (.configurationRequest 1 0x14 none) up (fun t => t.resp = .config 0) := by decide +kernel

theorem test_unmask_sends_what_waits : let up := dev ready
    goes (.msixUnmask 1 2047 0xFEE00000 ⟨7, false⟩) { up with host := { up.host with pba := [4095] } }
      (fun t => t.sent = [.msix 1 2047 0xFEE00000 7] && t.host.pba = []) := by decide +kernel

theorem test_link_down_is_captured : goes (.pcieLinkDown 0) (dev ready) (fun t =>
    t.rd (rPciStatus 0) = 0 && t.rd (rPciErr 0) = 2 && t.rd (rPciStatus 1) = 0x200) := by decide +kernel

theorem witness_bulk : WellFormed.bar2 0x3FFFFF 255 (.write false) = true ∧ WellFormed.bar2 0x3FFFC0 4 (.write true) = false ∧
    WellFormed.bar2 0x3FFFC0 4 .read = true ∧ (dev ready).may (.host 1) = true ∧ bulkLen (.read 4) % 4 = 0 ∧ (dev ready).host.msix = [] ∧
    (0x27FF0 : BitVec 26).toNat = 0x20000 + 16 * 2047 ∧ (0x280FF : BitVec 26).toNat = 0x28000 + 2047 / 8 := by decide +kernel

theorem test_bar4_shows_the_msix_table : goes (.bulkApertureAccess 0 0x2000C (.read 4)) (dev ready) (fun t => t.resp = .data [1, 0, 0, 0] false) ∧
    goes (.bulkApertureAccess 0 0x2000C (.write [0, 0, 0, 0] false)) { dev ready with host := { HostSt.reset with pba := [0] } }
      (fun t => t.sent = [.msix 0 0 0 0] && t.host.pba = []) := by decide +kernel

theorem test_bulk_pointer_advances : goes (.bulkDataPortAccess 0 (.read 4)) (dev (ready ++ [(rPciBulkPtrLo 0, 0x1000)]))
    (fun t => t.rd64 (rPciBulkPtrLo 0) = 0x1004) := by decide +kernel

theorem witness_registers : Reaches Dev.reset .mgmt (rQmgQErr 65535) ∧ WellFormed.unaligned 2 4 = true ∧
    Dev.reset.may .mgmt = true ∧ (∀ c, Origin.mgmt ≠ .core c) :=
  ⟨by decide +kernel, by decide +kernel, by decide +kernel, fun _ h => by cases h⟩

theorem witness_read_clear : let off := (BitVec.ofNat 32 0x20).toNat
    (findRow off).map (fun r => (r.pair == .single, r.rc)) = some (true, 0xFFFFFFFF) ∧ barReach .mgmt off = true ∧ off % 4 = 0 ∧
    Dev.reset.regReach .mgmt false off = true ∧ off < 0x12000000 ∧ Dev.reset.failHides off = false ∧ Dev.reset.pageHidden off = false := by
  decide +kernel

theorem test_w1c_clears_ones : goes (.registerWrite .mgmt (BitVec.ofNat 32 (rQmgQErr 9)) .b4 (.one 5) false) (dev [(rQmgQErr 9, 7)])
    (fun t => t.rd (rQmgQErr 9) = 2) := by decide +kernel

theorem witness_pairs : let off := rQmgDispatchLo
    (findRow off).map (fun r => (r.pair, r.rc)) = some (.counterLo, 0) ∧
    (findRow (off + 4)).map (fun r => (r.pair, r.rc)) = some (.counterHi, 0) ∧ Dev.reset.may .mgmt = true ∧
    (latchOf .mgmt).isSome = true ∧ off % 4 = 0 ∧ off < 0x12000000 ∧ Dev.reset.failHides off = false ∧ Dev.reset.pageHidden off = false ∧
    Reaches Dev.reset .mgmt (rTopSeedLo 0) ∧ Reaches Dev.reset .mgmt (rTopSeedHi 0) := by decide +kernel

theorem test_pair_reads_its_latch : goes (.pairLoRead .mgmt (BitVec.ofNat 32 rQmgDispatchLo)) (dev [(rQmgDispatchLo, 3), (rQmgDispatchLo + 4, 9)])
    (fun t => t.resp = .data [3, 0, 0, 0] false && (match latchOf .mgmt with
      | some k => t.latchAt (rQmgDispatchLo + 4) k = some 9#32
      | none => false)) := by decide +kernel
/-! ### Media (02) -/

/-- Context 2047 of partition 0 in a state, with a command for it. -/
def codec (st op : Nat) (opds : List Nat) : Dev :=
  flying (dev [(ctxOwn 2047, BitVec.ofNat 32 (16 + 32 * st))]) [cmd .dispatched 3 op (2047 :: opds)]

theorem witness_codec_checks : ∀ op < 5, let d := codec 3 op []
    let x := cmd .dispatched 3 op [2047]
    Dispatched d ref x 3 op ∧ d.ctxForeign x = false ∧ d.ctxTurn x = true ∧ bitOf 4 (d.rd (ctxOwn 2047)) = true ∧
    fld 3 0 (d.rd (ctxOwn 2047)) = x.part ∧ d.ctxState 2047 = 3 ∧ (codec 0 op []).ctxState 2047 = 0 ∧
    bitOf 4 ((flying Dev.reset [x]).rd (ctxOwn 2047)) = false := by decide +kernel

theorem witness_codec_waits : let x := { cmd .dispatched 3 1 [2047] with i := 1, ord := 2 }
    let other := { x with q := 1 }
    let same := cmd .working 3 1 [2047]
    (flying Dev.reset [same, other]).ctxForeign other = true ∧ (flying Dev.reset [same, x]).ctxForeign x = false ∧
    (flying Dev.reset [same, x]).ctxTurn x = false := by decide +kernel

/-- A stream descriptor that keeps Table 2-3: the smallest pool. -/
def stream (enc : Nat) : List Byte :=
  [0, BitVec.ofNat 8 enc, 8, 2] ++ leBytes 2 64 ++ leBytes 2 64 ++ List.replicate 56 0

theorem witness_init : let d := store (codec 0 0 [0x200000000000]) 0x200000000000 (stream 0)
    let x := cmd .dispatched 3 0 [2047, 0x200000000000]
    (d.readStruct (x.acc (ctxSrc 1)) 1 0x200000000000 64).1 = some (stream 0) ∧ streamOk (stream 0) = true ∧
    streamOk (stream 2) = false := by decide +kernel

/-- A context in IDLE. -/
def inIdle (enc op : Nat) (opds : List Nat) : Dev := (codec 1 op opds).setCtx 2047 (some (CtxSt.init (StreamDesc.ofBytes (stream enc))))

theorem witness_codec_runs : let d := inIdle 1 2 [0, 0]
    let x := { cmd .dispatched 3 2 [2047 + 2 ^ 32, 0, 0] with i := 0 }
    d.ctxState 2047 = 1 ∧ (d.ctx 2047).map (fun v => v.desc.enc) = some true ∧ d.parsedOf 2047 = 0 ∧ x.opd 0 / 2 ^ 32 = 1 ∧
    x.opd 0 % 2048 = 2047 ∧ ((inIdle 0 1 [0, 0]).ctx 2047).map (fun v => v.desc.enc) = some false ∧
    (inIdle 0 1 [0, 0]).ctxCmd 2047 = none := by decide +kernel

/-- A frame of the context on the last pixel engine of its die. -/
def drawing (enc : Nat) : Dev :=
  let d := inIdle enc 1 [0, 0]
  { (flying d [cmd .working 3 1 [2047]]) with media := { d.media with pix := [(7, some ⟨2047, [], 0, 96, true⟩)] } }

theorem witness_frames : let d := drawing 0
    d.ctxCmd 2047 = some (cmd .working 3 1 [2047]) ∧ d.chunksUsed 1 + 96 ≤ 512 ∧ d.parsedOf 2047 = 1 ∧
    d.pixJob (4 * 1 + 3) = some ⟨2047, [], 0, 96, true⟩ ∧ 2047 / 1024 = (1 : Fin 2).val ∧
    (d.ctx 2047).map (fun v => v.freeBuf.isSome && !v.desc.enc) = some true ∧
    Reaches d .mgmt (rVcdKeyreq 1) ∧ fld 10 0 (2047 : Word) / 1024 = 1 := by decide +kernel

theorem witness_syntax_buffer_full : let d := { Dev.reset with media := { Dev.reset.media with wait := [⟨0, [], 0, 417, false⟩] } }
    512 < d.chunksUsed 0 + 96 := by decide +kernel

/-- A WARP of one grey pixel at 0x200000004000, whose parameters lie 4 KiB on, into `a`. -/
def warpBytes (a : Nat) : List Byte := leBytes 8 0x200000004000 ++ leBytes 8 0 ++ leBytes 2 1 ++ leBytes 2 1 ++ leBytes 4 64 ++ [4, 0, 0, 0, 0, 0, 0, 1]
  ++ leBytes 8 a ++ leBytes 2 1 ++ leBytes 2 1 ++ leBytes 4 64 ++ leBytes 8 0x200000001000 ++ leBytes 8 0

/-- Does that WARP read as its statement assumes, with clean output, and is all of it written when `ok`, refused when not? -/
def warpReads (ok : Bool) (d : Dev) (x : Inflight) : Bool :=
  let k := d.pickUnit true
  let acc := x.acc k.1.2
  let wd := k.2.warpDesc acc (x.opd 0)
  match wd.1 with
  | none => false
  | some (t, par) =>
    let taps := ((List.range t.dh).flatMap (fun v => (List.range t.dw).map (fun u => (warpCoord t par [] u v).1))).flatMap
      (fun e => t.tapBytes e.1 e.2)
    let rd := wd.2.readBytes acc 4096 taps
    let out := t.outBytes par [] rd.1.1
    t.geom = 0 && taps.all (fun a => !(rd.1.1.at a).2) && out.any (·.2) = false && (rd.2.writeParts acc t.rows out).1.isNone = ok

theorem witness_warp : let x := cmd .dispatched 4 0 [0x200000000000, 0]
    let into (a : Nat) : Dev := flying (store Dev.reset 0x200000000000 (warpBytes a)) [x]
    let k := (into 0x200000005000).pickUnit true
    Dispatched (into 0x200000005000) ref x 4 0 ∧ x.cacheOp = 0 ∧ warpReads true (into 0x200000005000) x = true ∧
    warpReads false (into 0) x = true ∧
    ((flying Dev.reset [x]).warpDesc (x.acc k.1.2) (x.opd 0)).1.isSome = false := by decide +kernel

/-- A SCAN of one return word: its descriptor, parameters, and header. -/
def scanDev : Dev :=
  let one : List Byte := leBytes 4 0x3F800000
  store (store (store Dev.reset 0x200000000000 (leBytes 8 0x200000002000 ++ leBytes 8 0x200000001000
    ++ [0x200000010000, 0x200000008000, 0, 0x200000009000, 0, 0].flatMap (leBytes 8))) 0x200000001000
    (leBytes 60 0 ++ one ++ leBytes 12 0 ++ one ++ one ++ one ++ leBytes 8 0 ++ leBytes 4 10 ++ leBytes 4 1 ++ leBytes 24 0)) 0x200000002000
    (leBytes 4 0x15C4E ++ leBytes 4 0x10001 ++ leBytes 12 0 ++ [1] ++ leBytes 43 0)

/-- Does that SCAN read its words and write its outputs as its statement assumes? (The table lies in the partition's window.) -/
def scanRuns (d : Dev) (x : Inflight) : Bool :=
  let g := d.pickUnit false
  let acc := x.acc g.1.2
  let sd := g.2.scanDesc acc (x.opd 0)
  match sd.1 with
  | none => false
  | some p =>
    let tb := sd.2.readMem acc (p.frame + leAt p.head 0x20 4) (8 * p.beams)
    let ws := tb.2.readMem acc (p.frame + leAt p.head 0x24 4) (4 * p.count)
    tb.1.bad.isNone && ws.1.bad.isNone && p.points = 0 && ws.2.windowHolds 0 p.table (32 * p.size)
      && (ws.2.writeMem acc p.list (clean (List.replicate 4 0))).1.isNone && (ws.2.writeMem acc p.record (clean (List.replicate 64 0))).1.isNone

theorem witness_scan : let x := cmd .dispatched 5 0 [0x200000000000, 0]
    let d := flying scanDev [x]
    let k := (flying Dev.reset [x]).pickUnit false
    Dispatched d ref x 5 0 ∧ x.cacheOp = 0 ∧ scanRuns d x = true ∧
    (k.2.scanDesc (x.acc k.1.2) (x.opd 0)).1.isSome = false := by decide +kernel

/-- The sample cache of partition 0 on, with a slot record open in Gallery and a ring of 2 MiB. -/
def cached : Dev :=
  store (dev [(rInpCacheCtl 0, 0x109), (rInpCacheSize 0, 1), (rTrwSlotBaseLo 0 + 4, 0x2000)]) (0x200000000000 + 4095 * 2048)
    (leBytes 4 1 ++ [1, 4, 0, 0])

theorem witness_cache_store : let x := cmd .working 4 0 [0, 1, 9]
    let d := flying cached [x]
    let e := { d with media := { d.media with stores := [(0, 0, false, [1, 2, 3])] } }
    e.cmd? ref = some x ∧ x.cls = 4 ∧ x.cacheOp = 1 ∧ e.media.stores.find? (fun e => e.1 = x.q && e.2.1 = x.i) = some (x.q, x.i, false, [1, 2, 3]) ∧
    e.cacheOn 0 = true ∧ (d.cacheSlotOk 0).1 = true ∧
    let ok := d.cacheSlotOk 0
    let t := cacheDesc (ok.2.rdFld (rInpCacheCtl 0) 8 6) 0 false 3
    t.hdrBytes + t.lossyArea + (ok.2.cacheEncode x (ok.2.rd64 (rInpCacheBaseLo 0) + sget (fun _ => 0) ok.2.media.ringPos 0) false
      (clean [1, 2, 3])).1 ≤ ok.2.ringBytes 0 ∧
    Dev.reset.cacheOn 0 = false ∧ ((dev [(rInpCacheCtl 0, 0x109)]).cacheSlotOk 0).1 = false := by decide +kernel

theorem witness_cache_load : let x := cmd .dispatched 4 0 [0x200000000000, 2, 9]
    let d := flying (store (dev [(rInpCacheCtl 0, 0x109)]) 0x200000000000 (warpBytes 0x200000005000)) [x]
    let k := d.pickUnit true
    let en : CacheEntry := { part := 0, key := 9, set := 0, way := 0, addr := 0, size := 0, alloc := 0, age := 0, bf16 := false, cls := 0, count := 0 }
    d.cmd? ref = some x ∧ x.phase = .dispatched ∧ x.cacheOp = 2 ∧ d.cacheOn 0 = true ∧
    (k.2.outParts x (trwSrc (d.trwHubEngine 0)) 0).1.isSome = true ∧ d.media.cache.find? (fun e => e.part = x.part && e.key = x.opd 2) = none ∧
    [en].find? (fun e => e.part = x.part && e.key = x.opd 2) = some en := by decide +kernel

theorem witness_cache_control : let d := dev [(rInpCacheCtl 0, 0x100), (rInpCacheSize 0, 1), (rInpCacheBaseLo 0 + 4, 0x1000),
      (rTopPHbmwin 0, 0x10000), (rTopPSumpwin 0, 0x10000)]
    let closing := { cached with media := { cached.media with cacheClosing := [0] } }
    Reaches d .mgmt (rInpCacheCtl 0) ∧ bitOf 0 (d.rd (rInpCacheCtl 0)) = false ∧ d.media.cacheClosing.contains 0 = false ∧
    d.cacheCfgOk 0 (fld 5 1 8) = true ∧ d.cacheCfgOk 0 (fld 5 1 40) = true ∧ closing.media.cacheClosing.contains 0 = true ∧
    bitOf 0 (cached.rd (rInpCacheCtl 0)) = true ∧ Reaches cached .mgmt (rInpCacheCtl 0) ∧
    d.queue.infl.all (fun y => !(y.part = 0 && (y.cls = 4 || y.cls = 5) && y.cacheOp = 1 && y.phase = .working)) = true := by
  decide +kernel
/-! ### Cores (04) -/

/-- A tensor of one element in the Pocket of core 0, in its granule `k`. -/
def one (fmt : Fmt) (rank k : Nat) : Desc :=
  { tensorAt (pocketAddr 0 (64 * k)) with fmt := fmt, rank := rank, region := 0, size := [1, 1, 1, 1, 1, 1] }

/-- A core just launched whose descriptor registers 0 to 7 hold such tensors. -/
def launched : CoreSt :=
  { CoreSt.reset with launch := some 0, td := [(0, one .fp32 2 0), (1, one .fp16 2 1), (2, one .fp16 2 2), (3, one .int32 1 3), (4, one .fp32 1 4),
    (5, one .fp32 1 5), (6, one .fp32 1 6), (7, one .fp32 1 7)] }

/-- Core 0 runs as `k`. -/
def running (k : CoreSt) : Dev := { dev [(rCoreStatus 0, 2)] with cores := [(0, k)] }

/-- An instruction on the scoreboard that writes the first granule of Pocket. -/
def entry (op : TOp) (started : Bool) : TEntry :=
  { id := 0, op := op, f := ⟨0, 1, 0, 0⟩, ops := [one .fp32 2 0, one .fp16 2 1], targ := [0, 0, 0, 0], tile := 0, pc := 0, reads := [],
    writes := [(pocketAddr 0 0, pocketAddr 0 64)], started := started }

theorem witness_scalar : let d := running launched
    let busy := running { launched with ents := [entry .load false] }
    let bad := { d with mem := d.mem.setPoison (0x210000000000 / 64) true }
    d.issuing 0 = true ∧ d.scalarStalls 0 (pocketAddr 0 0) true = false ∧ d.scalarStalls 0 (pocketAddr 0 0) false = false ∧
    busy.issuing 0 = true ∧ busy.scalarStalls 0 (pocketAddr 0 63) false = true ∧ busy.scalarStalls 0 (pocketAddr 0 64) true = false ∧
    (d.scalarRead 0 (pocketAddr 0 0) 8).1.any (·.2) = false ∧ (bad.scalarRead 0 (pocketAddr 0 0) 8).1.any (·.2) = true ∧
    inRegs (pocketAddr 0 0) = false ∧ isGallery 0x200000000000 = true ∧ isGallery 0 = false ∧
    (running { launched with resv := some 0x200000000000 }).issuing 0 = true ∧
    (d.readMem (d.accOf (.core 0)) 0x200000000000 8).1.bad = none ∧
    (bad.readMem (bad.accOf (.core 0)) (pocketAddr 0 0) 8).1.bad.isSome = true := by decide +kernel

theorem test_load_widens : goes (.scalarLoad 0 5 0x200000000000 .b1 true) (store (running launched) 0x200000000000 [0x80])
    (fun t => (t.core 0).rx 5 = 0xFFFFFFFFFFFFFF80 && (t.core 0).pc = 4) := by decide +kernel

theorem test_atomic_add : goes (.atomic 0 .add 5 0x200000000000 false 3) (store (running launched) 0x200000000000 [0xFF, 0xFF, 0xFF, 0xFF, 9])
    (fun t => (t.core 0).rx 5 = 0xFFFFFFFFFFFFFFFF && t.mem.bytes 0x200000000000 5 = [2, 0, 0, 0, 9]) := by decide +kernel

theorem witness_system : (running launched).issuing 0 = true ∧ (running launched).debugOpen = false ∧
    (dev [(rLockStatus, 1)]).debugOpen = true := by decide +kernel

/-- Core 0 at an instruction in Gallery, whose second parcel lies in the next line. -/
def atParcel (b : Byte) : Dev := store (running { launched with pc := 0x20000000003E }) 0x20000000003E [b, 0]

theorem witness_fetch : ((atParcel 1).fetchParcel 0 0x20000000003E).1 = (0, 1) ∧ ((atParcel 3).fetchParcel 0 0x20000000003E).1 = (0, 3) ∧
    ((({ atParcel 1 with mem := MemSt.reset.setPoison (0x200000000000 / 64) true }).fetchParcel 0 0x20000000003E).1 = (0x11, 0)) := by
  refine ⟨?_, ?_, ?_⟩ <;> rw [Dev.fetchParcel_miss _ _ _ (by decide +kernel)] <;> decide +kernel

theorem witness_fetch_two_parcels :
    (((atParcel 3).fetchParcel 0 0x20000000003E).2.fetchParcel 0 0x200000000040).1 = (0, 0) := by
  rw [Dev.fetchParcel_miss (atParcel 3) _ _ (by decide +kernel), Dev.fetchParcel_miss _ _ _ (by decide +kernel)]
  decide +kernel

theorem witness_fetched_words : rvcExpand 1 = some 0x13 ∧ rvcExpand 0 = none ∧ (running launched).issuing 0 = true ∧
    ((running { launched with pc := 0x3F0000000000 }).fetchParcel 0 0x3F0000000000).1 = (0x10, 0) ∧
    ((running launched).csrRead 0 0xCC1) = some 0 ∧ (0x003202AB % 128 = 0x2B ∧ tensorOp 0x2B 0 = some .mma ∧ tensorOp 0x2B 2 = none) ∧
    rType 0x003202AB = ⟨5, 4, 3, 0⟩ ∧ nfld 31 25 0x1000228B = 8 ∧ nfld 14 12 0x1000228B = 2 ∧ nfld 31 25 0x0600300B = 3 := by decide +kernel

/-- C.ADDI16SP, C.LUI, C.J, C.BEQZ, C.SDSP, C.SUB and C.SRAI as their 32-bit instructions. -/
theorem test_compressed : [0x7139, 0x6785, 0xBFF5, 0xC501, 0xE406, 0x8D0D, 0x8789].map rvcExpand =
    [some 0xFC010113, some 0x17B7, some 0xFFDFF06F, some 0x50463, some 0x113423, some 0x40B50533, some 0x4027D793] := by decide +kernel

/-- DIV of −7 by 2 rounds towards zero. -/
theorem test_div : (((running { launched with x := [(1, BitVec.ofInt 64 (-7)), (2, 2)] }).rvExec 0 0x0220C1B3 4).core 0).rx 3 = BitVec.ofInt 64 (-3) := by
  decide +kernel

theorem test_word_issues : let t := (running launched).rvExec 0 0x0020802B 4
    (t.core 0).ents.map (fun (e : TEntry) => e.op) = [.mma] ∧ (t.core 0).pc = 4 := by decide +kernel

/-- A launch of queue 0 slot 0 on core 0. -/
def launchSt : LaunchSt :=
  { q := 0, i := 0, part := 0, entry := 0x200000000000, arg := 5, tile := none, win := [], sdesc := none, kv := none, early := false,
    cores := [0], started := [], ended := [], reissue := [], lost := [], reissued := [], staged := [], staging := none, mcasts := [],
    exc := none, poison := none, stop := false }

theorem witness_launch_start : let d := { flying (dev [(rCoreStatus 0, 1)]) [cmd .working 0 0 []] with launches := [(0, launchSt)] }
    d.coreState 0 = 1 ∧ (d.core 0).launch = none ∧
    d.launches.filter (fun m => !m.2.early && m.2.cores.contains 0 && !m.2.started.contains 0) = [(0, launchSt)] ∧
    d.joinsFirst 0 (cmd .working 0 0 []).ord = false ∧ d.launch? 0 = some launchSt ∧ d.queue.infl.find? (fun y => y.q = launchSt.q && y.i = launchSt.i) = some (cmd .working 0 0 []) ∧
    goes (.coreLaunchStart 0) d (fun t => (t.core 0).rx 11 = 0 && (t.core 0).rx 10 = 5 && t.coreState 0 = 2) := by decide +kernel

theorem witness_exception : let e : Exc := ⟨0x10, 0, 0, true, 4, 9⟩
    let d := { running { launched with wait := .stopped e } with launches := [(0, { launchSt with started := [0] })] }
    (d.core 0).wait = .stopped e ∧ (d.core 0).ents = [] ∧ (d.core 0).launch = some 0 ∧ bitOf 31 (d.rd (rCoreExc 0)) = false ∧
    bitOf 31 ((d.wr (rCoreExc 0) 0x80000000).rd (rCoreExc 0)) = true := by decide +kernel

theorem test_ecall_stops : goes (.ecall 0) (running launched) (fun t => match (t.core 0).wait with
    | .stopped e => e.cause = 0x10 && e.precise && e.pc = 0
    | _ => false) := by decide +kernel

/-- Each tensor instruction on the registers of `launched`. -/
def tensorOps : List (TOp × RType × Instr) :=
  [(.load, ⟨0, 1, 0, 0⟩, .tload 0 ⟨0, 1, 0, 0⟩), (.store, ⟨0, 1, 0, 0⟩, .tstore 0 ⟨0, 1, 0, 0⟩), (.mma, ⟨0, 1, 2, 0⟩, .tmma 0 ⟨0, 1, 2, 0⟩),
    (.conv, ⟨0, 1, 2, 0⟩, .tconv 0 ⟨0, 1, 2, 0⟩), (.vec, ⟨0, 1, 0, 0⟩, .tvec 0 ⟨0, 1, 0, 0⟩), (.red, ⟨0, 1, 0, 0⟩, .tred 0 ⟨0, 1, 0, 0⟩),
    (.soft, ⟨0, 1, 4, 0⟩, .tsoft 0 ⟨0, 1, 4, 0⟩), (.seg, ⟨0, 1, 3, 0⟩, .tseg 0 ⟨0, 1, 3, 0⟩), (.sort, ⟨7, 0, 0, 0⟩, .tsort 0 ⟨7, 0, 0, 0⟩),
    (.gather, ⟨0, 1, 3, 0⟩, .tgather 0 ⟨0, 1, 3, 0⟩), (.scatter, ⟨0, 1, 3, 0⟩, .tscatter 0 ⟨0, 1, 3, 0⟩),
    (.scatterAdd, ⟨0, 1, 3, 0⟩, .tscatteradd 0 ⟨0, 1, 3, 0⟩)]

theorem witness_tensor_issue : ∀ e ∈ tensorOps, let k := launched
    let r := opRegs e.1 e.2.1
    let os := r.map (fun m => (k.td.find? (·.1 = m)).map (·.2))
    let ds := os.filterMap id
    (running k).issuing 0 = true ∧ opIllegal e.1 e.2.1 0 0 = false ∧ os.all (·.isSome) = true ∧
    opCauses e.1 e.2.1 r ds ++ regionCauses e.1 0 r ds ++ overlapCauses e.1 e.2.1 k.tepoch r ds = [] ∧ k.room e.1.pipe = true ∧
    goes e.2.2 (running k) (fun t => (t.core 0).ents.length = 1 && (t.core 0).pc = 4) = true := by decide +kernel

theorem witness_tensor_exceptions :
    goes (.tload 0 ⟨0, 1, 1, 0⟩) (running launched) (fun t => match (t.core 0).wait with
      | .stopped e => e.cause = 1
      | _ => false) ∧
    goes (.tload 0 ⟨0, 9, 0, 0⟩) (running launched) (fun t => match (t.core 0).wait with
      | .stopped e => e.cause = 2 && e.dreg = 9
      | _ => false) ∧
    goes (.tmma 0 ⟨0, 4, 2, 0⟩) (running launched) (fun t => match (t.core 0).wait with
      | .stopped e => e.cause = 4 && e.dreg = 4
      | _ => false) ∧
    goes (.tload 0 ⟨0, 1, 0, 0⟩) (running { launched with ents := List.replicate 32 (entry .load true) })
      (fun t => t = (running { launched with ents := List.replicate 32 (entry .load true) }).refresh) := by decide +kernel

theorem witness_class_cause : let k := { launched with td := [(0, one .fp32 1 0), (1, { tensorAt 0x200000001000 with cls := 1 })] }
    goes (.tload 0 ⟨0, 1, 0, 0⟩) (running k) (fun t => match (t.core 0).wait with
      | .stopped e => e.cause = 0xB && e.dreg = 1
      | _ => false) := by decide +kernel

theorem witness_descriptors : let d := store (running launched) 0x200000000000 (tensor 0 1 0x200000001000 4)
    let acc := (d.ctxOf 0 0).acc
    let r := d.readMem acc 0x200000000000 64
    d.issuing 0 = true ∧ d.scalarStalls 0 0x200000000000 false = false ∧ regOff 0x200000000000 = none ∧ r.1.bad = none ∧
    (r.2.checkDesc acc r.1.bytes).1 = some (tensorAt 0x200000001000) ∧
    ((running launched).checkDesc acc (tensor 7 1 0x200000001000 4)).1 = none ∧ (regOff 0x3F0000000000).isSome = true ∧
    (((d.core 0).td.find? (·.1 = 0)).map (·.2)).isSome = true ∧ ((d.core 0).td.find? (·.1 = 31)).map (·.2) = none ∧
    (d.withMask acc { one .fp32 2 0 with base := pocketAddr 0 64 }).1.check = true ∧
    (d.withMask acc { one .fp32 2 0 with base := 0 }).1.check = false ∧
    (d.withMask acc { one .fp32 2 0 with size := (one .fp32 2 0).size.set 1 2 }).1.check = true ∧
    (d.withMask acc { one .fp32 2 0 with size := (one .fp32 2 0).size.set 5 2 }).1.check = false := by decide +kernel

theorem witness_pipes : let d := running { launched with ents := [entry .load false], nextId := 1 }
    let fill := running { launched with ents := [entry (.kvFill 0 0) false], nextId := 1 }
    let going := running { launched with ents := [entry .load true], nextId := 1 }
    d.coreState 0 = 2 ∧ (d.core 0).startable 0 = some (entry .load false) ∧ (entry .load false).isFill = false ∧
    (fill.core 0).startable 0 = some (entry (.kvFill 0 0) false) ∧ (entry (.kvFill 0 0) false).isFill = true ∧
    (going.core 0).ents.find? (fun y => y.op.pipe = 0 && y.started) = some (entry .load true) ∧
    going.trwHolds (.core 0 0) = false ∧ going.trw.bad.find? (·.1 = .core 0 0) = none ∧ (going.core 0).wait = .run ∧ going.issuing 0 = true ∧
    goes (.tsyncMem 0) going (fun t => (t.core 0).wait = .mem 1) ∧
    goes (.tsyncEnd 0) (running launched) (fun t => (t.core 0).launch = none && t.coreState 0 = 1) := by decide +kernel
/-! ### Tile sequencers and fences (05, 13) -/

/-- Two stripes of one group of four output tiles. -/
def tileDesc (flags : Nat) : LaunchDesc :=
  { ngroup := 1, nout := 4, nstripe := 2, flags := flags, wbase := 0, wstride := 0, wbytes := 0, wbuf0 := 0, wbuf1 := 0, trec := 0xFFFFFFFF,
    tw := 0, th := 0, tt := 0, srows := 0, sbytes := 0, win := 0, tfirst := 0, tend := 0, sdesc := 0, sbuf0 := 0, sbuf1 := 0, lost := 0,
    lostmax := 0 }

/-- A device whose core `c` runs `k` under the launch `l` of slot 255 of hub 1. -/
def tiled (c : Nat) (k : CoreSt) (l : LaunchSt) : Dev :=
  { dev [(rCoreStatus c, 2)] with cores := [(c, { k with launch := some 511 })], launches := [(511, l)] }

/-- The launch of those tiles on a core. -/
def tileLaunch (c flags : Nat) : LaunchSt := { launchSt with tile := some (tileDesc flags), cores := [c], started := [c] }

theorem witness_tile : let l := tileLaunch 1535 0
    let d := tiled 1535 CoreSt.reset l
    let ended := tiled 1535 CoreSt.reset { l with stop := true }
    d.issuing 1535 = true ∧ (d.core 1535).launch = some 511 ∧ d.launch? 511 = some l ∧ (d.takeIdx 511 l).map (fun e => (e.1, e.2.1)) = some (0, false) ∧
    (tileDesc 0).stage = false ∧ l.kv = none ∧ ended.issuing 1535 = true ∧ (ended.takeIdx 511 { l with stop := true }).isNone = true ∧
    (slotNo 1 255 = 511) ∧ goes (.tsyncTile 1535 3) d (fun t => (t.core 1535).rx 3 = 0 && (t.core 1535).held.length = 1) ∧
    goes (.tsyncTile 1535 3) ended (fun t => (t.core 1535).rx 3 = 0xFFFFFFFFFFFFFFFF) := by decide +kernel

theorem witness_tile_retire : let h : HeldTile := ⟨3, some 0, false⟩
    let d := tiled 1535 { CoreSt.reset with held := [h] } (tileLaunch 1535 0)
    (d.core 1535).held.find? (fun y => match y.upTo with
      | some n => (d.core 1535).ents.all (fun e => n ≤ e.id)
      | none => false) = some h ∧ d.coreState 1535 = 2 ∧ (d.core 1535).launch = some 511 := by decide +kernel

theorem witness_multicast : let m : Mcast := ⟨7, [1535], true⟩
    let l := { tileLaunch 1535 0 with mcasts := [m] }
    let d := tiled 1535 CoreSt.reset l
    d.launch? (slotNo 1 255) = some l ∧ l.tile = some (tileDesc 0) ∧ l.mcasts.find? (fun y => y.group = 7 && y.closed) = some m := by
  decide +kernel

theorem witness_stage : let sd := tensorAt 0x200000001000
    let l := { tileLaunch 1535 0x40 with sdesc := some sd }
    let d := tiled 1535 CoreSt.reset l
    let busy := { l with staging := some 0 }
    d.launch? (slotNo 1 255) = some l ∧ d.nextStripe 511 l (tileDesc 0x40) = some 0 ∧ busy.staging = some 0 ∧
    (tiled 1535 CoreSt.reset busy).trwDecoding (.stage 511) = false := by decide +kernel

theorem witness_restart : let l := { tileLaunch 1535 0 with reissue := [2], ended := [1535] }
    let d := tiled 1535 CoreSt.reset l
    d.launch? (slotNo 1 255) = some l ∧ l.early = false ∧ l.stop = false ∧ l.reissue ≠ [] ∧ l.live d = [1535] ∧
    (∀ y ∈ l.live d, y ∈ l.ended) := by decide +kernel

theorem witness_core_fault : let l := { tileLaunch 1535 1 with cores := [1534, 1535] }
    let d := { dev [(rCoreStatus 1534, 2), (rCoreStatus 1535, 2)] with
      cores := [(1534, { CoreSt.reset with launch := some 511 }), (1535, { CoreSt.reset with launch := some 511, held := [⟨3, none, false⟩] })]
      launches := [(511, l)] }
    d.coreState 1535 = 2 ∧ (d.core 1535).launch = some 511 ∧ d.launch? 511 = some l ∧ (tileDesc 1).reissue = true ∧
    (∃ b ∈ l.cores, b ≠ 1535 ∧ b ∉ l.ended ∧ d.coreState b = 2) := by
  refine ⟨by decide +kernel, by decide +kernel, by decide +kernel, by decide +kernel, 1534, ?_⟩
  decide +kernel

theorem witness_core_retire : let d := dev [(rCoreStatus 1535, 5)]
    let spare := dev [(rCoreStatus 1535, 5), (rCoreSpareSlot 7 7, 0xC000FF)]
    d.coreState 1535 = 5 ∧ d.fenced 7 = false ∧ d.queue.infl.any (fun x => x.cls = 0 && x.part = d.partOfDie 7) = false ∧
    d.freeSpare 7 = none ∧ spare.freeSpare 7 = some 7 ∧ spare.coreState 1535 = 5 ∧ spare.fenced 7 = false := by decide +kernel

theorem witness_die_fence : Dev.reset.fenced 7 = false ∧ (dev [(rTopStatus, 0x800000)]).fenced 7 = true ∧
    Dev.reset.fenceDue 7 .router = true ∧ Dev.reset.fenceDue 7 .galleryUe = false ∧
    goes (.dieFence ⟨7, .router⟩) (dev [(rCoreStatus 1535, 2), (rCoreStatus 1343, 2)])
      (fun t => t.fenced 7 && t.coreState 1535 = 5 && t.coreState 1343 = 2) ∧
    goes (.dieFence ⟨7, .galleryUe⟩) Dev.reset (fun t => !t.fenced 7) := by decide +kernel

/-! ### The KV store (06) -/

/-- The KV store of partition 0 on, its table of four slots in Gallery. -/
def kv (l : List (Nat × Word)) : Dev :=
  dev ([(rDmaKvCtl 0, 1), (rDmaKvSlots 0, 4), (rDmaKvTblLo 0 + 4, 0x2000)] ++ l)
/-- The entry of a KV slot. -/
def kvBytes (len maxlen plist st : Nat) : List Byte := leBytes 4 len ++ leBytes 4 maxlen ++ leBytes 8 plist ++ leBytes 4 st ++ leBytes 12 0

/-- Slot 3 of the store: two tokens a page, one stream, four frames in Gallery 1 MiB on; its list 4 KiB on. -/
def kvSlot (len st : Nat) (op : Nat) (opds : List Nat) : Dev :=
  flying (store (kv [(rDmaKvGeom 0, 0x10100), (rDmaKvHodLo 0, 0x100000), (rDmaKvHodLo 0 + 4, 0x2000)]) 0x200000000060
    (kvBytes len 8 0x200000001000 st)) [cmd .dispatched 1 op opds]

theorem witness_kv_open (n : Nat) (hn : n = 1 ∨ n = 2 ^ 20) : let d := kvSlot 0 0 8 [3, n, 0x200000001000]
    let x := cmd .dispatched 1 8 [3, n, 0x200000001000]
    d.kvTurn x = true ∧ d.kvOn 0 = true ∧ 3 < (d.rd (rDmaKvSlots 0)).toNat ∧ Dispatched d ref x 1 8 ∧ x.opd 0 % 4096 = 3 ∧
    x.opd 1 % 2 ^ 32 = n ∧ (d.kvEntry (x.acc (qmSrc 0)) 0 3).1.state % 2 = 0 ∧
    ((kvSlot 0 1 8 [3, n, 0]).kvEntry (x.acc (qmSrc 0)) 0 3).1.state % 2 = 1 := by
  rcases hn with rfl | rfl <;> decide +kernel

theorem witness_kv_append : let x := cmd .dispatched 1 9 [0x200000002000, 1, 1]
    let d := store (kvSlot 2 1 9 [0x200000002000, 1, 1]) 0x200000002000 (leBytes 4 3)
    let acc := x.acc (qmSrc 0)
    let list := d.readMem acc (x.opd 0) 4
    let f := list.2.kvEntry acc 0 3
    let geo := d.kvGeom 0
    Dispatched d ref x 1 9 ∧ x.opd 1 % 2 ^ 32 = 1 ∧ x.opd 2 % 256 = 1 ∧ list.1.bad = none ∧ leAt list.1.bytes 0 4 = 3 ∧ geo.frames = 4 ∧
    geo.nstr = 1 ∧ list.2.kvGeom 0 = geo ∧ f.1.state % 2 = 1 ∧ (f.1.len + 1) / geo.p = f.1.len / geo.p ∧ f.1.len + 1 ≤ f.1.maxlen ∧
    (3 + 1) / geo.p = 3 / geo.p + 1 ∧ list.2.kvHeld 0 x.ord 3 geo [1] = false ∧
    (list.2.kvPage acc geo { f.1 with len := 3 } 0 1).1 = none ∧
    ((store list.2 0x200000001008 (leBytes 8 0x200000030001)).kvPage acc geo { f.1 with len := 3 } 0 1).1 = some 0x200000030000 := by
  decide +kernel

theorem test_kv_append_grows : goes (.kvappend ref) (store (kvSlot 2 1 9 [0x200000002000, 1, 1]) 0x200000002000 (leBytes 4 3))
    (fun t => t.mem.bytes 0x200000000060 4 = [3, 0, 0, 0] && t.queue.infl.all (fun y => y.phase = .ended && y.res.status = .done)) := by
  decide +kernel

/-- An earlier launch that reads slot 3's page 2. -/
def kvReader (d : Dev) : Dev :=
  { d with queue := { d.queue with infl := d.queue.infl ++ [{ cmd .working 0 0 [] with
      i := 1, ord := 0, copied := some (.inr ⟨none, [], none, some ⟨[⟨3, 4, 0, 8⟩], 1, 0, 2, 2, 0, 0⟩⟩) }] } }

theorem witness_kv_trim : let x := cmd .dispatched 1 10 [3, 2]
    let d := kvSlot 4 1 10 [3, 2]
    let e := d.kvEntry (x.acc (qmSrc 0)) 0 3
    let geo := d.kvGeom 0
    let released := rangeFrom (e.1.len / geo.p) geo.frames
    Dispatched d ref x 1 10 ∧ x.opd 0 % 4096 = 3 ∧ e.1.state % 2 = 1 ∧ 2 < e.1.len ∧ 2 % geo.p = 0 ∧ 2 / geo.p < e.1.len / geo.p ∧
    d.kvHeld 0 x.ord 3 geo released = false ∧ (kvReader d).kvHeld 0 x.ord 3 geo released = true ∧ (kvReader d).kvTurn x = true ∧
    ((kvSlot 4 1 10 [3, 4]).kvEntry (x.acc (qmSrc 0)) 0 3).1.len = 4 ∧ ((kvSlot 3 1 10 [3, 4]).kvEntry (x.acc (qmSrc 0)) 0 3).1.len < 4 := by
  decide +kernel

theorem witness_kv_close : let x := cmd .dispatched 1 11 [3]
    let d := kvSlot 5 1 11 [3]
    let y := cmd .working 1 11 [3]
    Dispatched d ref x 1 11 ∧ x.opd 0 % 4096 = 3 ∧ (d.kvEntry (x.acc (qmSrc 0)) 0 3).1.state % 2 = 1 ∧
    d.kvHeld 0 x.ord 3 (d.kvGeom 0) (List.range 4) = false ∧ (kvReader d).kvHeld 0 x.ord 3 (d.kvGeom 0) (List.range 4) = true ∧
    (kvReader d).kvTurn x = true ∧ (flying d [y]).cmd? ref = some y ∧ y.cls = 1 ∧ y.op = 11 ∧ y.res.progress = 0 ∧ y.res.result = 0 ∧
    (flying d [y]).kvTurn y = true := by decide +kernel

theorem witness_kv_control : let ok := dev [(rDmaKvGeom 0, 0x10100), (rDmaKvSlots 0, 1), (rTopPHbmwin 0, 0x10000), (rDmaKvHodLo 0 + 4, 0x2000)]
    let closing := { ok with kvClosing := [(0, 5)] }
    Reaches ok .mgmt (rDmaKvCtl 0) ∧ bitOf 0 (ok.rd (rDmaKvCtl 0)) = false ∧ (ok.kvGeom 0).ok = true ∧ (ok.rd (rDmaKvSlots 0)).toNat = 1 ∧
    ok.kvClosing.any (·.1 = 0) = false ∧ ok.inHbmWin 0 (ok.rd64 (rDmaKvTblLo 0)) 32 = true ∧
    ok.inGallery 0 (ok.rd64 (rDmaKvHodLo 0)) 0x40000 = true ∧ (Dev.reset.rd (rDmaKvSlots 0)).toNat = 0 ∧
    bitOf 0 ((kv []).rd (rDmaKvCtl 0)) = true ∧ closing.kvClosing.any (·.1 = 0) = true ∧
    closing.queue.infl.all (fun x => x.part ≠ 0 || x.phase = .ended || (!x.isKv && (x.phase = .early || x.walk = none))) = true ∧
    closing.inHbmWin 0 (closing.rd64 (rDmaKvTblLo 0)) 32 = true := by decide +kernel

theorem witness_trowel_control : let ok := dev [(rTopPHbmwin 0, 0x10000)]
    let on := dev [(rTopPHbmwin 0, 0x10000), (rTrwPctl 0, 0x63)]
    let closing := { ok with trw := { ok.trw with closing := [(0, 5)] } }
    Reaches ok .mgmt (rTrwPctl 0) ∧ ok.trwOn 0 = false ∧ ok.trw.closing.any (·.1 = 0) = false ∧ ok.inHbmWin 0 (ok.rd64 (rTrwSlotBaseLo 0)) 0x800000 = true ∧
    Dev.reset.inHbmWin 0 (Dev.reset.rd64 (rTrwSlotBaseLo 0)) 0x800000 = false ∧ on.trwOn 0 = true ∧ Reaches on .mgmt (rTrwPctl 0) ∧
    closing.trw.closing.any (·.1 = 0) = true ∧ closing.trwInUse 0 = false ∧
    closing.inHbmWin 0 (closing.rd64 (rTrwSlotBaseLo 0)) 0x800000 = true ∧ closing.mem.damage = [] := by decide +kernel

/-! ### Gallery and HBM errors (07) -/

/-- A range scrub of Gallery die 7 with the page's registers `l`. -/
def ranging (r : Option RangeScrub) (l : List (Nat × Word)) : Dev :=
  { dev l with mem := { MemSt.reset with range := [(7, r)] } }

theorem witness_patrol (u : Scrubber) (hu : u = .gal 7 ∨ u = .hbm 23) : let k := scrubNo u
    let a := scrubAddr k 0
    let hit (x : Damage) : Dev := { Dev.reset with mem := MemSt.reset.setDmg (a / 64) (some x) }
    Dev.reset.scrubOn k = true ∧ Dev.reset.scrubAt k < scrubSpan k ∧ Dev.reset.mem.isPoison (a / 64) = false ∧
    Dev.reset.mem.dmg (a / 64) = none ∧ (hit (.one 5)).mem.dmg (a / 64) = some (.one 5) ∧ (hit (.two 5 9)).mem.dmg (a / 64) = some (.two 5 9) ∧
    goes (.scrubPatrolRead u) (hit (.one 5)) (fun t => t.mem.damage = [] && t.mem.poison = []) ∧
    goes (.scrubPatrolRead u) (hit (.two 5 9)) (fun t => t.mem.damage = [] && t.mem.poison = [a / 64]) := by
  rcases hu with rfl | rfl <;> decide +kernel

theorem witness_scrub_off : (dev [(pgReg 7 0x50, 0)]).scrubOn (scrubNo (.gal 7)) = false := by decide +kernel

theorem witness_ranges : let r : RangeScrub := ⟨5, 6, 2⟩
    let pg := pageNo (.gal 7)
    let go := ranging none [(pgReg 7 0x60, 0xF8000000), (pgReg 7 0x64, 0x2001), (pgReg 7 0x68, 0xF8000040), (pgReg 7 0x6C, 0x2001)]
    pg = 7 ∧ Reaches go .mgmt (pgReg 7 0x50) ∧ bitOf 2 (go.rd (pgReg 7 0)) = false ∧ sget (fun _ => none) go.mem.range 7 = none ∧
    sget (fun _ => none) (ranging (some r) []).mem.range 7 = some r ∧ r.stop ≤ r.next + 1 ∧
    ((ranging none [(pgReg 7 0x44, 0x10005)]).rdFld (pgReg 7 0x44) 31 16 ≠ 0) ∧ Reaches go .mgmt (pgReg 7 0x44) ∧
    (Dev.reset.rangeOf 7).2 ≤ (Dev.reset.rangeOf 7).1 ∧ go.rangeOf 7 = (0, 1) ∧ (5 + 1 < 7) := by decide +kernel

theorem witness_injection : let d := dev [(pgReg 7 0xF0, 0xF8000000), (pgReg 7 0xF4, 0x2001), (rLockStatus, 1)]
    Reaches d .mgmt (pgReg 7 0xF8) ∧ d.debugOpen = true ∧ errPage (d.rd64 (pgReg 7 0xF0)) = some 7 ∧ Dev.reset.debugOpen = false ∧
    (dev [(rLockStatus, 1)]).debugOpen = true ∧ errPage ((dev [(rLockStatus, 1)]).rd64 (pgReg 7 0xF0)) ≠ some 7 ∧
    injDamage 7 0x109 none = some (.one 66) ∧ injDamage 19 0x85 none = some (.one 33) ∧ fld 1 0 (3 : Word) = 3 ∧
    goes (.injCtl .mgmt (.gal 7) 0x109) d (fun t => t.mem.damage = [(0x2001F8000000 / 64, .one 66)]) := by decide +kernel
/-! ### Trowel (08) -/

/-- Trowel on for partition 0, its slot area in Gallery, and the head of slot 4095's record. -/
def trowel (on : Bool) (head : List Byte) (l : List Inflight) : Dev :=
  flying (store (dev [(rTrwPctl 0, if on then 0x63 else 0x62), (rTrwSlotBaseLo 0 + 4, 0x2000)]) (0x200000000000 + 4095 * 2048) head) l

/-- A block for slot 4095 in the queue of an engine. -/
def block (enc build : Bool) : TrwJob :=
  { req := .cmd 0 0, src := 0, part := 0, slot := 4095, desc := { tensorAt 0x200001000000 with cls := 1 }, blk := 0, enc := enc, vals := [],
    build := build }

/-- An engine with its queue and its build. -/
def engine (e : Nat) (q : List TrwJob) (b : Option TrwBuild) (d : Dev) : Dev :=
  { d with trw := { d.trw with queues := [(e, q)], builds := [(e, b)] } }

theorem witness_trowel_checks : ∀ op ∈ [0, 1, 2, 3, 4, 6], let x := cmd .dispatched 7 op [4095]
    let d := trowel true [0] [x]
    Dispatched d ref x 7 op ∧ x.opd 0 % 4096 = 4095 ∧ d.trwOnFor x = true ∧ (trowel false [0] [x]).trwOnFor x = false ∧
    d.trwHoldsSlot 0 4095 = false ∧ (engine 9 [block true false] none d).trwHoldsSlot 0 4095 = true ∧
    (d.readSlot (trwSrc (d.trwHubEngine 0)) 0 4095).1.isOpen = false := by decide +kernel

theorem witness_trowel_open : let d := trowel true [5] []
    let r := (d.readSlot (trwSrc (d.trwHubEngine 0)) 0 4095).1
    let plain := ((trowel true [1] []).readSlot (trwSrc (d.trwHubEngine 0)) 0 4095).1
    r.isOpen = true ∧ r.tbl = true ∧ plain.isOpen = true ∧ plain.tbl = false ∧ r.fld 0x64 4 < 16 ∧
    ((trowel true (leBytes 100 1 ++ [16]) []).readSlot (trwSrc (d.trwHubEngine 0)) 0 4095).1.fld 0x64 4 = 16 := by decide +kernel

theorem test_trowel_key : goes (.trowelKey ref) (trowel true [1] [cmd .dispatched 7 4 [4095]]) (fun t =>
    t.mem.bytes (0x200000000000 + 4095 * 2048 + 0x64) 4 = [1, 0, 0, 0] && t.queue.infl.all (fun y => y.phase = .ended)) := by decide +kernel

theorem witness_trowel_effect : let x := cmd .working 7 6 [4095]
    let d := trowel true [1] [x]
    d.cmd? ref = some x ∧ x.cls = 7 ∧ x.op = 6 ∧ x.phase = .working ∧ d.trwHoldsSlot 0 4095 = false ∧
    (engine 9 [block true false] none d).trwHoldsSlot 0 4095 = true := by decide +kernel

theorem witness_convert : let x := cmd .dispatched 7 5 [0, 0x200000000000, 0x200000000040]
    let d := flying (store (store (trowel true [1] []) 0x200000000000 (tensor 0 1 0x200000001000 4)) 0x200000000040 (tensor 1 1 0x200000002000 4)) [x]
    let a := d.loadDesc (x.acc (trwSrc (d.trwHubEngine 0))) (x.opd 1)
    Dispatched d ref x 7 5 ∧ d.trwOnFor x = true ∧ (trowel false [0] [x]).trwOnFor x = false ∧ a.1 = some (tensorAt 0x200000001000) ∧
    (a.2.loadDesc (x.acc (trwSrc (d.trwHubEngine 0))) (x.opd 2)).1 = some { tensorAt 0x200000002000 with fmt := .bf16 } ∧
    descMeets x.epoch (tensorAt 0x200000001000) { tensorAt 0x200000002000 with fmt := .bf16 } = false := by decide +kernel

theorem witness_trowel_engines : let b : TrwBuild := ⟨0, 4095, [block true true], false⟩
    let d := trowel true [1] []
    let coded := engine 9 [block true false] none (trowel true [5] [])
    let sampled := engine 9 [block true true] none d
    let joins := engine 9 [block true true] (some { b with sample := [] }) d
    let read := (d.readSlot (trwSrc 9) 0 4095).1
    coded.trwQueue 9 = [block true false] ∧ (coded.readSlot (trwSrc 9) 0 4095).1.tbl = true ∧ (block true false).build = false ∧
    sampled.trwQueue 9 = [block true true] ∧ read.tbl = false ∧ sampled.trwBuild 9 = none ∧ sampled.building 0 4095 = false ∧
    (engine 8 [] (some b) sampled).building 0 4095 = true ∧ joins.trwBuild 9 = some { b with sample := [] } ∧
    (0 < joins.sampleSize 0 (block true true).desc read.bpf) ∧ (engine 9 [block false false] none d).trwQueue 9 = [block false false] ∧
    (engine 9 [] (some b) d).trwBuild 9 = some b ∧ d.sampleSize 0 (block true true).desc read.bpf = 1 ∧
    (engine 9 [] (some { b with started := true }) d).trwBuild 9 = some { b with started := true } ∧
    1 < d.sampleSize 0 { (block true true).desc with size := [512, 1, 1, 1, 1, 1] } read.bpf := by decide +kernel

/-! ### Tiers (09) -/

/-- A managed page of partition 0 in a state, the first of an allocation of two by queue 0. -/
def pageIn (st : PageState) (pin : Bool) : PageRec :=
  { state := st, pin := pin, gen := 3, dirty := 0, part := 0, frame := 0, ext := 0x100000200000, sectors := 1, pcode := false, lastUse := 0,
    head := some ⟨2, 0, 0⟩ }

/-- Pages 5 and 6 in a state; the managed window holds the first GiB, and quotas and pools are as `l` says. -/
def tiers (st : PageState) (pin : Bool) (l : List (Nat × Word)) (f : List Inflight) : Dev :=
  let d := flying (dev ((rTopPMgdwin 0, 0x10000) :: (rTopPHbmwin 0, 0x10000) :: l)) f
  { d with tier := { d.tier with pages := [(5, pageIn st pin), (6, { pageIn st pin with head := none })] } }

/-- The handle of those pages, as operands. -/
def handle : List Nat := [5 + 2 ^ 21 * 2, 3 * 2 ^ 32]

theorem witness_tier_checks : ∀ op ∈ [1, 2, 3, 4, 5, 6, 7], let x := cmd .dispatched 6 op (handle ++ [6 + 2 ^ 32])
    let d := tiers .t1 false [] [x]
    let h := Handle.ofWords (x.opd 0) (x.opd 1)
    let t0 : Handle := ⟨0, 2, true, 0, 0, 0⟩
    Dispatched d ref x 6 op ∧ d.handleHeld h = some (x.q, x.part) ∧ h.queue = x.q ∧ h.part = x.part ∧ h.t0 = false ∧
    (flying Dev.reset [x]).handleHeld h = none ∧ h.first + h.count < 6 + 2 ∧ h.first + h.count = 6 + 1 ∧
    { d with tier := { d.tier with t0 := [⟨0, 2, 0, 0, 0⟩] } }.handleHeld t0 = some (0, 0) := by decide +kernel

theorem witness_tier_foreign : let x := { cmd .dispatched 6 1 handle with q := 1 }
    (tiers .t1 false [] [x]).handleHeld (Handle.ofWords (x.opd 0) (x.opd 1)) = some (0, 0) ∧ (0 : Nat) ≠ x.q := by decide +kernel

theorem witness_alloc : let x := cmd .dispatched 6 0 [2 * 2 ^ 32, 8, 0x1000]
    let d := tiers .t1 false [(rSmpQt1 0, 4)] [x]
    Dispatched d ref x 6 0 ∧ (x.opd 0).testBit 0 = false ∧ x.opd 1 ≠ 0xFFFFFFFF ∧ x.opd 0 / 2 ^ 32 = 2 ∧
    (d.rd (rSmpQt1 0)).toNat + (d.rd (rSmpQt2 0)).toNat = (d.pagesOf 0).length + 2 ∧ d.pagesIn 0 8 2 = true ∧ d.runMeets 8 2 = false ∧
    d.runMeets 6 2 = true ∧ d.pagesIn 0 511 2 = false ∧ d.inHbmWin 0 (x.opd 2) 16 = true ∧
    (tiers .t1 false [(rSmpQt1 0, 3)] [x]).pagesOf 0 = d.pagesOf 0 := by decide +kernel

theorem test_alloc_stores_its_handle : goes (.alloc ref) (tiers .t1 false [(rSmpQt1 0, 4)] [cmd .dispatched 6 0 [2 * 2 ^ 32, 8, 0x1000]])
    (fun t => (t.page 8).state = .zero && (t.page 9).state = .zero && (t.page 10).state = .free
      && t.mem.bytes 0x1000 8 = leBytes 8 (8 + 2 ^ 21 * 2)) := by decide +kernel

theorem witness_tier_operations : let x := cmd .dispatched 6 2 (handle ++ [6 + 2 ^ 32, 0x1000])
    let d := tiers .t1 false [(rSmpQt1 0, 2)] [x]
    let cold := tiers .t2 false [(rSmpQt1 0, 1), (rSmpT1poolSize 0, 1)] [x]
    d.handleHeld (Handle.ofWords (x.opd 0) (x.opd 1)) = some (x.q, x.part) ∧ x.opd 2 / 2 ^ 32 = 1 ∧ x.opd 2 % 2 ^ 32 = 6 ∧
    ((tiers .t1 true [] [x]).page 6).hasFrame = true ∧ d.pinned 0 + 2 = (d.rd (rSmpQt1 0)).toNat ∧ (d.page 5).state = .t1 ∧ (cold.page 6).state = .t2 ∧ (cold.promotePage 6).1 = true ∧
    ((tiers .t2 false [] [x]).promotePage 6).1 = false ∧ ((tiers .both true [] [x]).page 6).pin = true ∧
    ((tiers .both false [] [x]).page 6).state = .both ∧ ((tiers .both false [] [x]).page 6).dirty = 0 ∧
    d.pagesIn 0 6 1 = true ∧ d.pagesIn 0 511 2 = false ∧ d.inHbmWin 0 0x1000 8 = true := by decide +kernel

theorem test_pin_within_quota : goes (.pin ref) (tiers .t1 false [(rSmpQt1 0, 2)] [cmd .dispatched 6 2 handle]) (fun t =>
    (t.page 5).pin && (t.page 6).pin) := by decide +kernel

/-- An access of source 9 to page 6 that has waited since the start. -/
def stalled (refused : Bool) (d : Dev) : Dev := { d with tier := { d.tier with waits := [⟨9, 6, 0, refused⟩] } }

theorem witness_pages_move : let d := tiers .t2 false [(rSmpQt1 0, 1), (rSmpT1poolSize 0, 1)] []
    let moved := tiers .both false [(rSmpT2poolLo 0 + 4, 0x1000), (rSmpT2poolSize 0, 1024)] []
    let late := { stalled false (tiers .t2 false [] []) with now := 1000 * (Dev.reset.rd rSmpStallLimit).toNat }
    (d.page 6).state = .t2 ∧ (d.takeFrame 0).1 = some 0 ∧ ((tiers .t2 false [] []).takeFrame 0).1 = none ∧
    isManaged (0x80000000000 + 6 * 0x200000) = true ∧ (moved.page 6).hasExt = true ∧ (moved.page 6).state = .both ∧ (moved.page 6).dirty = 0 ∧
    (moved.page 6).pin = false ∧ ((tiers .both true [] []).page 6).pin = true ∧
    moved.findRun 0 1 = some 0x100000000000 ∧ 0x100000000000 < (moved.page 6).ext ∧ Reaches d .mgmt (rQuota 0 2) ∧
    late.tier.waits.find? (fun v => v.src = (9 : BitVec 16).toNat && v.page = 6 && !v.refused) = some ⟨9, 6, 0, false⟩ ∧
    (stalled true d).tier.waits.find? (fun v => v.src = (9 : BitVec 16).toNat && v.page = 6 && !v.refused) = none ∧
    0 + (late.rd rSmpStallLimit).toNat * 1000 ≤ late.now ∧ 0 < 0 + (d.rd rSmpStallLimit).toNat * 1000 ∧
    (late.takeFrame 0).1 = none ∧ (late.page 6).part = 0 := by decide +kernel

theorem test_starved_access_is_refused : let late := { stalled false (tiers .t2 false [] []) with
      now := 1000 * (Dev.reset.rd rSmpStallLimit).toNat }
    goes (.tierStallTimeout 0 9 0x80000C00000 none) late (fun t => bitOf 4 (t.rd rSmpErr) && t.tier.waits.all (·.refused)) := by
  decide +kernel
/-! ### The training step (11) -/

/-- An EPOCH descriptor of group 63 that meets Table 11-2, with the shortest timeout. -/
def epochBytes : List Byte :=
  leBytes 4 63 ++ leBytes 4 0 ++ leBytes 4 1 ++ leBytes 8 0 ++ leBytes 4 0x3F800000 ++ [1, 1] ++ leBytes 38 0

/-- A member's record of rank 0. -/
def record0 (tc : DWord) : EpochRecord := ⟨0, 0, 0, 0, 0, tc⟩

/-- Partition 0's group 63, of one member. -/
def alone : List (Nat × Word) := [(rColGCtl 0 63, 0x101)]

/-- An EPOCH of partition 0 in a phase. -/
def epoch (phase : EpochPhase) : EpochSt := { cmd := ref, d := 0, desc := epochDesc epochBytes, local_ := record0 0, phase := phase }

/-- The device with it, and its command. -/
def epochDev (l : List (Nat × Word)) (phase : EpochPhase) (x : Inflight) : Dev :=
  let d := flying (store (dev l) 0x200000000000 epochBytes) [x]
  { d with queue := { d.queue with epochs := [(0, some (epoch phase))] } }

theorem witness_epoch : let x := cmd .dispatched 11 0 [0x200000000000]
    let d := epochDev alone .held x
    let rd := d.readStruct (x.acc (colSrc (x.q % 2))) 64 (x.opd 0) 64
    Dispatched d ref x 11 0 ∧ x.part = (0 : Fin 8).val ∧ d.epochSt 0 = some (epoch .held) ∧ rd.1 = some epochBytes ∧
    epochDescOk epochBytes = true ∧ (epochDesc epochBytes).group = 63 ∧ rd.2.groupOn 0 63 = true ∧
    bitOf 1 (rd.2.rd (rColGState 0 63)) = false ∧ (leAt epochBytes 4 4).testBit 1 = false ∧
    (epochDev [] .held x).groupOn 0 63 = false ∧ epochDescOk (List.replicate 64 0) = false := by decide +kernel

theorem witness_epoch_records : let x := cmd .working 11 0 [0]
    let d := epochDev alone .gathering x
    let z := epoch .gathering
    d.epochSt 0 = some z ∧ (d.levels 0 63).n = 1 ∧
    (List.range 1).all (fun k => (z.local_ :: (d.col.epochRecs.filter (·.1 = 0)).map (·.2)).any (·.rank = k)) = true ∧
    (epochDev [(rColGCtl 0 63, 0x101), (rColGState 0 63, 0)] .gathering x).now < z.d + z.desc.timeout * 1000 ∧
    z.d + z.desc.timeout * 1000 = 1000 ∧ z.desc.out = 0 ∧ d.epochCmd z = some x ∧ (dev [(rColGCtl 0 63, 0x301)]).levels 0 63 ≠ d.levels 0 63 := by
  decide +kernel

theorem test_epoch_times_out : let d := { epochDev alone .gathering (cmd .working 11 0 [0]) with now := 1000 }
    goes (.epochTimeout 0) d (fun t => bitOf 5 (t.rd (rColEpFlags 0)) && (t.epochSt 0).any (·.phase = .lost)
      && t.queue.infl.all (fun y => y.phase = .ended && y.res.status = .aborted)) := by
  decide +kernel

theorem witness_epoch_commit : let r : EpochRes := ⟨0, 500, 0, 0, 1⟩
    let x := cmd .working 11 0 [0]
    let d := epochDev alone (.result r) x
    let e := epochDev alone (.switched r true none) x
    d.epochSt 0 = some (epoch (.result r)) ∧ cleanStatus r.status = true ∧ cleanStatus 1 = false ∧ d.now < r.tc ∧
    e.epochSt 0 = some (epoch (.switched r true none)) ∧ e.epochCmd (epoch (.switched r true none)) = some x ∧ x.phase = .working ∧
    (epochDev alone .lost x).epochSt 0 = some (epoch .lost) ∧ sget (fun _ => 0) d.col.gaveUp 0 = 0 ∧
    goes (.epochCommit 0) { d with now := 500 } (fun t => t.rd (rColEpoch 0) = 1 && t.rd (rColEpCommits 0) = 1) ∧
    goes (.epochComplete 0) { e with now := 1000 } (fun t => t.queue.infl.all (fun y => y.phase = .ended && y.res.status = .done)) ∧
    let lost := { cmd .ended 11 0 [0] with eng := 127, res := aborted 0x27 0x908 }
    let l := flying (dev (rings 0)) [lost]
    l.cmd? ref = some lost ∧ lost.phase = .ended ∧ lost.cls = 11 ∧ l.trwHolds (.cmd lost.q lost.i) = false ∧ lost.held = false ∧
    lost.res.status ≠ .done ∧ goes (.commandComplete ref) l (fun t => t.rd (rColEpAborts 0) = 1) := by
  decide +kernel

theorem witness_epoch_page : let busy := flying Dev.reset [cmd .dispatched 0 0 []]
    Reaches Dev.reset .mgmt (rColEpochSet 0) ∧ Dev.reset.partBusy 0 = false ∧ busy.partBusy 0 = true ∧ Reaches busy .mgmt (rColEpochSet 0) ∧
    Reaches Dev.reset .sideband (rColEpochSet 7) ∧ Reaches busy .mgmt (rColEpCtl 0) ∧ bitOf 17 (0x10000 : Word) = false ∧
    bitOf 16 (0x20000 : Word) = false ∧ Reaches Dev.reset .mgmt (rColNsCtl 7) := by decide +kernel

/-! ### Collectives and groups (12) -/

/-- A collective of group 63 on the two tensors. -/
def collBytes : List Byte := leBytes 4 63 ++ leBytes 4 0 ++ leBytes 8 0x200000000000 ++ leBytes 8 0x200000000040 ++ leBytes 40 0

/-- A device with those tensors, that descriptor, registers and a command. -/
def collDev (l : List (Nat × Word)) (x : Inflight) : Dev :=
  flying { store tensors 0x200000000080 collBytes with regs := (dev l).regs } [x]

theorem witness_coll_checks : ∀ op ∈ [0, 1, 2, 3, 4], let x := cmd .dispatched 2 op [0x200000000080]
    let d := collDev alone x
    let r := d.readStruct (x.acc (colSrc (x.q % 2))) 64 (x.opd 0) 64
    Dispatched d ref x 2 op ∧ d.queue.infl.any (fun y => y.cls = 2 && y.part = 0 && y.ord < x.ord && y.phase = .dispatched) = false ∧
    r.1 = some collBytes ∧ leAt collBytes 0 4 = 63 ∧ r.2.groupOn 0 63 = true ∧ r.2.coll? x.q x.i = none ∧
    (collDev [] x).groupOn 0 63 = false ∧ bitOf 1 ((collDev (alone ++ [(rColGState 0 63, 2)]) x).rd (rColGState 0 63)) = true ∧
    ((flying Dev.reset [x]).readStruct (x.acc (colSrc (x.q % 2))) 64 1 64).1 = none := by decide +kernel

theorem witness_coll_waits : let x := { cmd .dispatched 2 0 [0x200000000080] with i := 1, ord := 2 }
    (flying Dev.reset [cmd .dispatched 2 0 [], x]).queue.infl.any
      (fun y => y.cls = 2 && y.part = x.part && y.ord < x.ord && y.phase = .dispatched) = true := by decide +kernel

theorem witness_coll_begins : let x := cmd .dispatched 2 1 [0x200000000080]
    let b := (collDev (alone ++ [(rColGState 0 63, 1)]) x).collBegin x
    (b.coll? 0 0).isSome = true ∧ bitOf 0 (b.rd (rColGState 0 63)) = true ∧ b.col.arrivals = [] ∧
    fld 1 0 (((collDev alone x).readStruct (x.acc (colSrc (x.q % 2))) 64 (x.opd 0) 64).2.rd (rColGState 0 63)) = 0 ∧
    goes (.allgather ref) (collDev alone x) (fun t => t.rd (rColGColls 0 63) = 0 && t.coll? 0 0 = none) := by decide +kernel

/-- That collective in flight. -/
def coll (begun : Bool) (perm : Option PermSt) : CollSt :=
  { q := 0, i := 0, part := 0, group := 63, number := 0, op := if perm.isSome then 4 else 1, flags := 0, n := 4, begun := begun,
    src := some (tensorAt 0x200000001000), dst := some (tensorAt 0x200000002000), base := none, half0 := 9, half1 := 9, cells0 := [],
    cells1 := [], lsum := Fp.zero, bad := none, perm := perm }

/-- The device with it. -/
def collRuns (x : Inflight) (k : CollSt) : Dev :=
  let d := collDev (alone ++ [(rColGState 0 63, 1)]) x
  { d with col := { d.col with colls := [k] } }

theorem witness_coll_runs : let x := cmd .working 2 1 []
    let k := coll true none
    let d := collRuns x k
    let lv := d.levels k.part k.group
    let other : Arrival := { part := 0, group := 63, number := 0, op := 0, flags := 0, n := 4, stage := 0, half := 0, rank := 0, off := 0, bytes := [] }
    d.cmd? ref = some x ∧ x.cls = 2 ∧ x.op = 1 ∧ x.phase = .working ∧ d.coll? 0 0 = some k ∧ bitOf 0 (d.rd (rColGState 0 63)) = true ∧
    d.collPaired k lv (d.collRank k) = true ∧ (k.plan lv (d.collRank k) 0 k.half0).isNone = true ∧ (k.plan lv (d.collRank k) 1 k.half1).isNone = true ∧ d.col.arrivals = [] ∧
    [other].any (fun a => a.part = k.part && a.group = k.group && a.number = k.number
      && (a.op ≠ k.op || a.flags ≠ k.flags || a.n ≠ k.n)) = true := by decide +kernel

theorem witness_permute : let z : PermSt := ⟨[], [], 0, 4096, true, 0, [], []⟩
    let x := cmd .working 2 4 []
    let k := coll true (some z)
    let d := collRuns x k
    let holds : PermSt := { z with bufs := [(4096, 0, 64)] }
    d.coll? 0 0 = some k ∧ d.col.arrivals = [] ∧ z.moving = true ∧ (z.got.map (·.2)).sum = (z.ins.map (·.len)).sum ∧ z.bufs = [] ∧
    z.outs.all (d.moveSent k (d.levels 0 63)) = true ∧ (collRuns x (coll true (some holds))).coll? 0 0 = some (coll true (some holds)) ∧
    holds.bufs.filter (fun e => e.1 / holds.size = 1) ≠ [] ∧ holds.bufs.filter (fun e => e.1 / holds.size = 0) = [] := by decide +kernel

theorem witness_groups : let lone := dev [(rColGCtl 7 63, 0)]
    let far := dev [(rColGCtl 0 63, 0x10101), (rColGAxslot 0 63, 0x10200)]
    let st : GroupSt := ⟨[], 0⟩
    let waits := { far with col := { far.col with groups := [(63, some st)] } }
    Reaches lone .mgmt (rColGCtl 0 63) ∧ lone.groupOn 0 63 = false ∧
    (lone.wr (rColGCtl 0 63) (BitVec.ofNat 32 (fld 15 8 0x101 * 256 + fld 18 16 0x101 * 65536))).groupOk 0 63 = true ∧
    (lone.wr (rColGCtl 0 63) 0).groupOk 0 63 = false ∧ far.groupOn 0 63 = true ∧ Reaches far .mgmt (rColGCtl 0 63) ∧
    sget (fun _ => none) waits.col.groups 63 = some st ∧ (waits.remotes 0 63).length = 1 ∧
    ((waits.remotes 0 63).find? (fun c => !st.heard.contains c)).isSome = true ∧ bitOf 1 (waits.rd (rColGState 0 63)) = false ∧
    waits.epochSt 0 = none ∧ waits.now < st.enAt + 1000000 := by decide +kernel
/-! ### Links, time and withdrawal (12 to 14) -/

theorem witness_ports : let d := port 3 false []
    let u := d.port 23
    let again := { d with col := { d.col with ports := [(23, { u with retryNo := 7, retrySeq := 0 })] } }
    d.portOn 23 = true ∧ (port 1 false []).portState 23 = 1 ∧ (port 2 false []).portState 23 = 2 ∧ (port 2 false []).withdrawn = false ∧
    Dev.reset.portOn 23 = false ∧ FlitOk d 23 good .traffic ∧ FlitOk (port 2 false []) 23 good .hello ∧ d.portEth 23 = false ∧
    d.takes 23 .bare = true ∧ good.fec ≠ .bad ∧ d.portUp 23 = true ∧ (u.retryNo ≠ 7) ∧ Dev.reset.portState 23 = 0 ∧ u.wait = [] ∧
    u.discarding = false ∧ (again.port 23).retryNo = 7 ∧ (again.port 23).retrySeq = good.seq.toNat ∧ Known (known (port 3 false [(rLnkPartner 23, 9)])) good.src.toNat ∧
    (port 3 true []).portEth 23 = true ∧ Dev.reset.takes 23 .bare = false ∧ Dev.reset.takes 23 .traffic = false := by
  decide +kernel

/-- The port in HELLO, its own HELLO received, expecting port 3 of the coordinate `c`. -/
def greeting (c : Word) : Dev :=
  let d := port 2 false [(rLnkExpect 23, 0x30000 + c)]
  d.setPort 23 { d.port 23 with helloSent := true }

theorem test_hello_of_the_expected_partner : let h : Hello := ⟨77, 9, 3, false, 1⟩
    (greeting 9).portEth 23 = false ∧ ((greeting 9).port 23).helloSent = true ∧ ((greeting 9).port 23).wait = [] ∧
    goes (.hello 23 good h) (greeting 9) (fun t => t.portState 23 = 3 && t.rd64 (rLnkPartnerSerLo 23) = 77) ∧
    goes (.hello 23 good h) (greeting 8) (fun t => t.portState 23 = 4) ∧
    goes (.hello 23 good h) (port 2 false [(rLnkExpect 23, 0x30009)]) (fun t => t.portState 23 = 2) := by decide +kernel

theorem witness_ethernet : let d := port 3 true []
    let o : OutMsg := ⟨5, 9, 1, false, .time⟩
    let u := { d.port 23 with unacked := [(3, 8, o), (4, 7, o)] }
    let e := { d with col := { d.col with ports := [(23, u)] } }
    d.portUp 23 = true ∧ d.portEth 23 = true ∧ FlitOk d 23 good .traffic ∧ (e.port 23).unacked.find? (·.1 = 3) = some (3, 8, o) ∧
    (e.port 23).unacked.find? (·.1 = 4) = some (4, 7, o) ∧ d.portRole 23 = 2 ∧ { good with crcOk := false }.crcOk = false ∧
    { good with fec := .bad }.fec = .bad ∧ { d.port 23 with discarding := true }.discarding = true := by decide +kernel

theorem witness_wanted : let d := port 3 false alone
    d.wanted 0 63 5 = true ∧ d.wanted 0 62 5 = false := by decide +kernel

theorem witness_heartbeats : let e : PartnerSt := ⟨1, 0, 0, 0⟩
    let d := { dev [] with col := { Dev.reset.col with partners := [(9, e)] } }
    (d.partner 9).state = 1 ∧ { d with now := d.hbLimit }.hbLimit = d.hbLimit ∧ e.heardAt + d.hbLimit ≤ { d with now := d.hbLimit }.now ∧
    d.now < e.heardAt + d.hbLimit ∧ good.src.toNat ≠ d.coord ∧ d.withdrawn = false ∧ (dev [(rTopStatus, 0x40)]).withdrawn = true := by
  decide +kernel

theorem witness_time : let d := port 3 true [(rColTsyncCfg, 3)]
    bitOf 0 ((port 3 true []).rd rColTsyncCfg) = false ∧ bitOf 0 (d.rd rColTsyncCfg) = true ∧ d.rdFld rColTsyncCfg 1 0 = 3 ∧
    d.portUp 23 = true ∧ d.portRole 23 = 2 ∧ d.portEth 23 = true ∧ bitOf 11 ((dev [(rColStatus, 0x800)]).rd rColStatus) = true ∧
    bitOf 11 (d.rd rColStatus) = false ∧ d.col.time.locked = false ∧ (Dev.reset.routes 0 Dev.reset.timeMaster).head? = none := by
  decide +kernel

/-- A header from the time master, and one from another device. -/
theorem witness_time_flits : let d := port 3 true []
    ∃ f g : FlitHdr, FlitOk d 23 f .traffic ∧ f.src.toNat = d.timeMaster ∧ FlitOk d 23 g .traffic ∧ g.src.toNat ≠ d.timeMaster := by
  intro d
  have h : d.timeMaster < 65536 := Nat.mod_lt _ (by decide)
  refine ⟨{ good with src := BitVec.ofNat 16 d.timeMaster }, { good with src := BitVec.ofNat 16 (d.timeMaster + 1) }, ?_, ?_, ?_, ?_⟩
  · exact ⟨by decide +kernel, rfl, by decide, fun h => absurd h (by decide +kernel)⟩
  · simp [BitVec.toNat_ofNat]; omega
  · exact ⟨by decide +kernel, rfl, by decide, fun h => absurd h (by decide +kernel)⟩
  · simp [BitVec.toNat_ofNat]; omega

/-- A port to every rack: one UP that stays in the tray and one that leaves it. -/
theorem witness_time_route : let d := dev [(rLnkCfg 22, 0x7), (rLnkStatus 22, 3), (rLnkCfg 23, 0xB), (rLnkStatus 23, 3)]
    ∃ q, (d.routes 0 d.timeMaster).head? = some q := by
  intro d
  generalize d.timeMaster = c
  have h : ∃ p ∈ rangeFrom (12 * (1 - 0)) 12, (d.portUp p && decide (d.portRole p = (if coRack c = coRack d.coord then 1 else 2))
      && !(d.port p).silent.contains c) = true := by
    by_cases hc : coRack c = coRack d.coord
    · exact ⟨22, by decide +kernel, by rw [if_pos hc]; exact Bool.and_eq_true_iff.mpr ⟨by decide +kernel, rfl⟩⟩
    · exact ⟨23, by decide +kernel, by rw [if_neg hc]; exact Bool.and_eq_true_iff.mpr ⟨by decide +kernel, rfl⟩⟩
  obtain ⟨p, hp, hq⟩ := h
  unfold Dev.routes
  dsimp only
  generalize hf : List.find? _ _ = o
  cases o with
  | none =>
    have := List.find?_eq_none.mp hf _ (List.mem_cons_of_mem _ (List.mem_cons_of_mem _ (List.mem_cons_of_mem _ (List.mem_cons_self ..))))
    simp only [Bool.not_eq_true', Bool.not_eq_false, List.isEmpty_iff, List.filter_eq_nil_iff] at this
    exact absurd hq (this p hp)
  | some l =>
    have := List.find?_some hf
    cases l with
    | nil => simp at this
    | cons q t => exact ⟨q, rfl⟩

theorem test_time_steps_once : goes (.ptpMessage 23 40) (port 3 true [(rColTsyncCfg, 3)]) (fun t => t.now = 40 && t.col.time.locked) := by
  decide +kernel

theorem witness_withdrawal : let hold := dev [(rClkStatus, 0x80)]
    bitOf 6 (Dev.reset.rd rTopStatus) = false ∧ Dev.reset.enabledQueues = [] ∧ hold.refHold 5 = true ∧ Dev.reset.refHold 5 = false ∧
    (dev [(rClkStatus, 0x104)]).refHold 0 = true ∧ bitOf 6 ((dev [(rTopStatus, 0x40)]).rd rTopStatus) = true := by decide +kernel

theorem test_last_reference_lost : goes (.clkHoldoverEnd 1) (dev [(rClkStatus, 0x108)]) (fun t =>
    t.rdFld rClkStatus 1 0 = 2 && t.withdrawn && t.rdFld rTopStatus 10 7 = 4) := by decide +kernel

/-! ### Clocks, power and sequencing (14, 18) -/

/-- A wake of a unit, granted or not. -/
def waking (u : WakeUnit) (granted : Bool) (d : Dev) : Dev := { d with pwr := { d.pwr with wakes := [⟨u, 7, 0, granted⟩] } }

theorem witness_clocks : let d := dev [(rCoreStatus 1535, 1)]
    d.coreState 1535 = 1 ∧ (d.core 1535).ents = [] ∧ (d.core 1535).held = [] ∧ (d.core 1535).launch = none ∧
    (dev [(rCoreStatus 1535, 3)]).coreState 1535 = 3 ∧ (dev [(rCoreStatus 1535, 4)]).coreState 1535 = 4 ∧
    (dev [(rCoreStatus 1535, 3)]).gateStep 7 8 = some { dev [(rCoreStatus 1535, 3)] with pwr := { Dev.reset.pwr with falls := [(7, (0, 8))] } } ∧
    { d with pwr := { d.pwr with falls := [(7, (0, 249))] } }.gateStep 7 8 = none ∧
    (dev [(rClkStatus, 0x2000)]).refLost 5 = true ∧ d.refLost 5 = false := by
  decide +kernel

theorem witness_nap : let d := dev [(rCoreStatus 1535, 4)]
    ((rangeFrom (192 * (7 : Fin 8).val) 192).filter (fun c => d.coreState c ≠ 0 && d.coreState c ≠ 5)).all (fun (c : Nat) => d.coreState c = 4) = true ∧
    d.inNap 7 = false ∧ d.kernelNear (d.partOfDie 7) = false ∧ d.fenced 7 = false ∧ (d.gateStep 7 32).isSome = true ∧
    { d with pwr := { d.pwr with falls := [(7, (0, 225))] } }.gateStep 7 32 = none := by decide +kernel

theorem witness_wakes : let q (u : WakeUnit) (g : Bool) : WakeReq := ⟨u, 7, 0, g⟩
    let d := waking (.die 7) false Dev.reset
    let poor := { d with pwr := { d.pwr with credits := [(7, 31)] } }
    bestBy (fun (v : WakeReq) => v.prio) (d.pwr.wakes.filter (fun v => wakeRail v.unit = (7 : Fin 16).val && d.wakeWaits v)) = some (q (.die 7) false) ∧
    wakeCost (.die 7) ≤ d.credit 7 ∧ poor.credit 7 < wakeCost (.die 7) ∧
    (waking (.die 7) true Dev.reset).pwr.wakes.find? (fun v => v.unit = .die 7) = some (q (.die 7) true) ∧
    (waking (.bank 7 191 7) true Dev.reset).pwr.wakes.find? (fun v => v.unit = .bank 7 191 7) = some (q (.bank 7 191 7) true) ∧
    Dev.reset.pwr.wakes.find? (fun v => v.unit = .die 7) = none ∧ (dev [(rPwrStatus, 1)]).rdFld rPwrStatus 1 0 = 1 ∧
    (dev [(rPwrStatus, 2)]).rdFld rPwrStatus 1 0 = 2 ∧ Dev.reset.mgmt.wake = none := by decide +kernel

theorem test_grant_takes_its_cost : goes (.wakeGrant 7) (waking (.die 7) false Dev.reset) (fun t => t.credit 7 = 224) := by decide +kernel

theorem witness_caps : let l : List (Fin 96 × BitVec 16 × BitVec 8) := [(95, 5, 40)]
    fld 15 8 ((dev [(rAgeCtl, 0x2800)]).rd rAgeCtl) = 40 ∧ (l.map (fun (e : Fin 96 × BitVec 16 × BitVec 8) => e.1)).Nodup ∧
    (∀ e ∈ l, e.2.2.toNat ≤ 40) ∧ Reaches Dev.reset .mgmt rAgeCtl :=
  ⟨by decide +kernel, by simp, by simp, by decide +kernel⟩

/-- The pins with the rails on, in a step. -/
def rails (step : Nat) (l : List (Nat × Word)) : Dev := { dev l with pins := ⟨true, true, true, step, false⟩ }

theorem witness_rails : let d := rails 3 [(rBootState, 3)]
    let wake := { rails 3 [] with mgmt := { Dev.reset.mgmt with wake := some ⟨[23], 0⟩ } }
    d.bootState = 3 ∧ d.pins.railsEn = true ∧ d.pins.step < 4 ∧ d.mgmt.wake = none ∧ wake.mgmt.wake = some ⟨[23], 0⟩ ∧
    (rails 0 []).bootState = 0 ∧ bootRail 23 = true ∧ railStep 31 = (rails 3 [(rBootState, 3)]).pins.step + 1 ∧ bootRail 31 = false ∧
    Dev.reset.pins.resetN = true ∧ { Dev.reset with pins := { Dev.reset.pins with resetN := false } }.pins.resetN = false := by decide +kernel

theorem test_thermtrip : goes (.thermtrip 19) (store (rails 4 [(rBootState, 5)]) 0x200000000000 [1]) (fun t =>
    !t.pins.thermtripN && !t.pins.railsEn && t.mem.cells = []) := by decide +kernel

/-! ### Boot, management and the access lock (15) -/

theorem witness_boot : let d := rails 0 []
    d.bootState = 0 ∧ d.pins.resetN = true ∧ d.pins.bootStop = false ∧ bitOf 2 (d.rd rLockStatus) = false ∧
    (dev [(rBootState, 1)]).bootState = 1 ∧ (dev [(rBootState, 2)]).bootState = 2 ∧ (dev [(rBootState, 2)]).bootCopy = 0 ∧
    (dev [(rBootState, 2)]).bootCheck false 0 = 1 ∧ (rails 4 [(rBootState, 3)]).pins.step = 4 ∧ (rails 4 [(rBootState, 3)]).mgmt.wd = none ∧
    (dev [(rBootState, 4)]).bootState = 4 ∧ Dev.reset.mgmt.wd = none ∧ bitOf 6 ((dev [(rBootState, 0x40)]).rd rBootState) = true := by decide +kernel

theorem test_bad_primary_falls_back : goes (.bootVerifyDone false) (dev [(rBootState, 2)]) (fun t =>
    t.bootState = 1 && t.bootCopy = 1 && t.rdFld rBootState 15 8 = 1) := by decide +kernel

/-- A STATUS request at Gallery's base, announced in channel 0's queue 0. -/
def request (code : Nat) : Dev :=
  let d := store (dev [(rBootState, 5)]) 0x200000000000 (leBytes 2 code ++ leBytes 62 0)
  { d with rcd := { d.rcd with mbxQ := [(0, [1, 0x2000, 64, 4096])] } }

theorem witness_request : let d := request 0x12
    let r := d.readReqAt 1 0x2000 64 4096
    d.bootState = 5 ∧ descriptor (d.mbxWords 0 0) = some ((1, 0x2000, 64, 4096), []) ∧ r.1.ok = true ∧ reqCode r.1.code = true ∧
    r.1.code = 0x12 ∧ ((r.2.setMbx 0 0 []).mbxClear 0 0x40000000).reqRefused r.1 = 0 ∧
    reqCode ((request 0x13).readReqAt 1 0x2000 64 4096).1.code = false := by decide +kernel

/-- The payload of a LAYOUT request that gives partition 0 every compute die. -/
def layoutP1 : List Byte := leBytes 8 (0x3F0000000000 + rTopPStatus 0) ++ leBytes 4 0xFF ++ leBytes 4 0xFF

theorem witness_layout : let l := loadList layoutP1
    let n := (Dev.reset.loadLayout l).getD Dev.reset
    let busy := flying Dev.reset [cmd .dispatched 0 0 []]
    layoutP1.length % 16 = 0 ∧ l.all entryOk = true ∧ (Dev.reset.loadLayout l).isSome = true ∧
    Dev.reset.partsQuiet (Dev.reset.affected n l) = true ∧ (busy.loadLayout l).isSome = true ∧
    busy.partsQuiet (busy.affected ((busy.loadLayout l).getD busy) l) = false ∧ (Dev.reset.loadLayout []).isSome = false := by
  decide +kernel

/-- A lock with the credentials of `en` enabled, in a state. -/
def locked (en : Nat) (st : Word) : Dev :=
  { dev [(rLockStatus, st)] with mgmt := { Dev.reset.mgmt with lock := List.replicate 0xB0 0 ++ leBytes 4 en } }

theorem witness_lock : let d := locked 7 0
    Reaches d .mgmt rLockCmd ∧ bitOf 2 (d.rd rLockStatus) = false ∧ bitOf 3 (d.rd rLockStatus) = false ∧ d.lockEnabled 1 = true ∧
    d.lockEnabled 2 = true ∧ d.lockEnabled 3 = true ∧ fld 10 4 (0x80 : Word) = 8 ∧ fld 10 4 (0x400 : Word) = 64 ∧ fld 10 4 (0x410 : Word) = 65 ∧
    (locked 0 0).lockEnabled 2 = false ∧ (locked 0 0).lockEnabled 3 = false ∧ bitOf 3 ((locked 7 8).rd rLockStatus) = true ∧
    bitOf 2 ((locked 7 4).rd rLockStatus) = true := by decide +kernel

theorem test_password_starts_an_attempt : goes (.password .mgmt 0x80) (locked 1 0) (fun t =>
    bitOf 3 (t.rd rLockStatus) && t.mgmt.attempt.isSome) ∧
    goes (.lockClose .mgmt 4) (locked 1 0x10B) (fun t => t.rd rLockStatus = 8) := by decide +kernel

/-! ### Mailboxes, Flowstone and the sideband port (16) -/

/-- Channel 63 enabled, with words in its queue 1. -/
def mail (l : List Word) : Dev :=
  let d := dev [(rMbxOwn 63, 0x10)]
  { d with rcd := { d.rcd with mbxQ := [(127, l)] } }

theorem witness_mailbox : let d := mail (List.replicate 15 5)
    Reaches d .mgmt (mbx 63 0x10) ∧ d.mbxWords 63 1 = List.replicate 15 5 ∧ (mail (List.replicate 16 5)).mbxWords 63 1 = List.replicate 16 5 ∧
    d.may .mgmt = true ∧ d.regReach .mgmt false (mbx 63 0x14) = true ∧ d.pageHidden (mbx 63 0x14) = false ∧ (mail []).mbxWords 63 1 = [] := by
  decide +kernel

theorem witness_mailbox_doorbells : let d := mail []
    Reaches d .mgmt (rMbxDb 63) ∧ Reaches d .mgmt (rMbxDbSet 63) ∧ Reaches d .mgmt (mbx 63 0x2C) ∧ Reaches d .mgmt (mbx 0 0x28) ∧
    Reaches d .mgmt (mbx 63 0x34) ∧ fld 1 0 (0 : Word) ≠ 3 ∧ fld 1 0 (3 : Word) = 3 ∧ d.cntPart (fld 20 3 (3 : Word)) = none ∧
    d.lockOwner 63 = none ∧ Reaches d .mgmt (rMbxLock 63) ∧ Reaches d .mgmt (rMbxLockForce 63) ∧
    { d with rcd := { d.rcd with mbxLock := [(63, some 5)] } }.lockOwner 63 = some 5 ∧
    { d with rcd := { d.rcd with mbxLock := [(63, some (srcOf .mgmt))] } }.lockOwner 63 = some (srcOf .mgmt) := by decide +kernel

theorem test_mailbox_lock : goes (.mbxLockRead .mgmt 63) (mail []) (fun t =>
    t.resp = .data [0, 0, 0, 0] false && t.lockOwner 63 = some (srcOf .mgmt)) := by decide +kernel

/-- A record for Flowstone. -/
def flwRec (seq : Word) : FlwRec := ⟨0, 0, 0, 0, 0, seq, [], false, 0⟩

theorem witness_recorder : let d := { Dev.reset with rcd := { Dev.reset.rcd with queue := [flwRec 512] } }
    let e := { Dev.reset with rcd := { Dev.reset.rcd with queue := [flwRec 511], fetch := some 3 } }
    let armed := { Dev.reset with rcd := { Dev.reset.rcd with snapArmed := some 0, snapCopied := true } }
    Reaches Dev.reset .mgmt rTsSnapAtHi ∧ (dev [(rTsSnapAtLo, 1000)]).now + 1000 ≤ ((dev [(rTsSnapAtLo, 1000)]).rd rTsSnapAtLo).toNat ∧
    (Dev.reset.rd rTsSnapAtLo).toNat < Dev.reset.now + 1000 ∧ armed.rcd.snapArmed = some 0 ∧ armed.rcd.snapCopied = true ∧
    d.sectorReady 512 = false ∧ e.sectorReady 511 = true ∧ Reaches Dev.reset .mgmt rFlwRdSeq ∧ Dev.reset.rcd.fetch = none ∧
    e.rcd.fetch = some 3 ∧ (sget (fun _ => []) e.mgmt.flash.ring (3 : Nat)).length ≠ 128 := by decide +kernel

theorem test_program_then_fetch : let d := { Dev.reset with rcd := { Dev.reset.rcd with queue := [flwRec 3] } }
    goes .flowstoneProgram d (fun t => (sget (fun _ => []) t.mgmt.flash.ring 3).length = 128
      && leAt (sget (fun _ => []) t.mgmt.flash.ring 3) 0x18 4 = 3 && t.rcd.queue = []) := by decide +kernel

theorem witness_sideband : let held := dev [(rSbStatus, 0x10000000)]
    let at_ (a : Nat) : Dev := dev [(rSbAddrLo, BitVec.ofNat 32 a), (rSbAddrHi, BitVec.ofNat 32 (a / 2 ^ 32)), (rSbCfg, 0)]
    let begun (d : Dev) : Dev := { (d.wrFld rSbStatus 28 28 1) with rcd := { d.rcd with sbBad := false } }
    Dev.reset.sbFrame = false ∧ held.sbFrame = true ∧ Dev.reset.rcd.sbBad = false ∧
    { held with rcd := { held.rcd with sbBad := true } }.sbFrame = true ∧ (at_ 0x300000000000).sbFrame = false ∧
    (begun (at_ 0x300000000000)).bulkReach 0x300000000000 = false ∧ bitOf 0 ((begun (at_ 0x300000000000)).rd rSbCfg) = false ∧
    (begun (at_ 0x200000000000)).bulkReach 0x200000000000 = true ∧ inRegs 0x200000000000 = false ∧
    (begun (at_ 0x3F0000000000)).bulkReach 0x3F0000000000 = true ∧ inRegs 0x3F0000000000 = true ∧
    (begun (at_ 0x3F0000000000)).failHides 0 = false ∧ isHbm 0x1000 = true ∧ (at_ 0x1000).bootState ≠ 6 ∧ (at_ 0x1000).mem.damage = [] := by
  decide +kernel

theorem test_sideband_write_advances : goes (.write [7, 8]) (dev [(rSbAddrLo, BitVec.ofNat 32 (rMbxDbMask0 0)), (rSbAddrHi, 0x3F00)]) (fun t =>
    t.rd64 rSbAddrLo = 0x3F0000000000 + rMbxDbMask0 0 + 8 && t.sbFrame) := by decide +kernel

/-! ### The whole block -/

theorem witness_reset_is_good : State.reset.pending = [] ∧ MemoryOk State.reset := by unfold MemoryOk; decide +kernel

theorem witness_step_on_an_empty_queue : (match step State.reset with
    | .next t => t.dev.now = 1 && t.pending = []
    | _ => false) = true := by decide +kernel

theorem witness_halted : let d := codec 3 1 []
    d.ctxState 2047 = 3 ∧ d.ctxTurn (cmd .dispatched 3 1 [2047]) = true := by decide +kernel

theorem witness_all_fenced : let d := flying (dev [(rTopStatus, 0xFF0000)]) [cmd .dispatched 0 0 []]
    d.fenced 7 = true ∧ (d.diesOf 0).all d.fenced = true ∧ Dispatched d ref (cmd .dispatched 0 0 []) 0 0 := by decide +kernel

theorem witness_physical_write : MemSt.reset.wf = true ∧ Dev.reset.mem.damage = [] ∧ Dev.reset.mem.sumpBad = [] ∧
    ((Dev.reset.writePhys 0 0x2000000000FE (clean [1, 2, 3])).mem.bytes 0x2000000000FE 4 = [1, 2, 3, 0]) := by decide +kernel

theorem witness_hbm_hash : isHbm 0xBFFFFFFFFF = true ∧ hbmPc 0xBFFFFFFFFF < 768 ∧ hbmAddr (hbmPc 0xBFFFFFFFFF) (hbmOff 0xBFFFFFFFFF) = 0xBFFFFFFFFF := by
  decide +kernel
end Sys2Proof.Tests
end

/-! Proofs of the family 01_package_and_dies: host accesses know no windows (R22), the BARs' bulk paths (R31 to R33) and the PCIe
ports (R29, R30, R35, R36, R338). First the laws of the operations, then what each command does, then the obligations. -/

namespace Sys2Proof.Machine

/-! ### What the commands of a PCIe port run -/

section Arms

variable (s : State) (p : Fin 2)

theorem exec_pcieLinkDown : exec (.pcieLinkDown p) s = State.run (fun d => d.pciDown p.val) s := rfl

theorem exec_pcieLinkUp (gen : Fin 6) (lanes : PciLanes) (flit : Bool) :
    exec (.pcieLinkUp p gen lanes flit) s = State.run (fun d => d.pciUp p.val (gen.val + 1) (lanesNo lanes) flit) s := rfl

theorem exec_pcieFunctionReset : exec (.pcieFunctionReset p) s = State.run (fun d => d.functionReset p.val) s := rfl

theorem exec_msixUnmask (vec : Fin 2048) (addr : DWord) (data : EpWord) :
    exec (.msixUnmask p vec addr data) s = State.run (fun d => d.msixUnmask p vec.val addr data.word data.ep) s := rfl

theorem exec_hostReadTimeout (a : BitVec 48) :
    exec (.hostReadTimeout p a) s = State.run (fun d => d.hostTimeout p.val a.toNat) s := rfl

theorem exec_unsupportedRequest (addr : DWord) : exec (.unsupportedRequest p addr) s =
    State.run (fun d => if d.linkUp p.val then d.pciErr p.val 4 addr.toNat else d) s := rfl

theorem exec_configurationRequest (reg : BitVec 12) (wdata : Option Word) :
    exec (.configurationRequest p reg wdata) s = State.run (fun d => d.configReq p.val reg.toNat wdata) s := rfl

theorem exec_bar2OtherWrite (off : BitVec 22) (width : BitVec 8) (a : BarOp) : exec (.bar2OtherWrite p off width a) s =
    if WellFormed.bar2 off width a then State.run (fun d => d.bar2Other p off.toNat width.toNat a) s else .fault .illFormed := rfl

theorem exec_bulkDataPortAccess (x : BulkOp) : exec (.bulkDataPortAccess p x) s = State.run (fun d => d.bulkPort p x) s := rfl

theorem exec_bulkApertureAccess (off : BitVec 26) (x : BulkOp) : exec (.bulkApertureAccess p off x) s =
    State.run (fun d => if d.portAlive p then d.bar4 p off.toNat x else d) s := rfl

end Arms

/-! ### PCI_ERR and the links -/

/-- The first error of an ERR register is captured (R374). -/
theorem Dev.raise_of_clear {d : Dev} {off : Nat} (h : d.rd off = 0) (bit : Nat) (cap : Dev → Dev) :
    d.raise off bit cap = cap (d.wr off (setBit bit true 0)) := by simp [Dev.raise, h]

/-- The first error of a port sets its bit and captures its address. -/
theorem Dev.pciErr_of_clear {d : Dev} {p : Nat} (h : d.rd (rPciErr p) = 0) (bit a : Nat) :
    d.pciErr p bit a = (d.wr (rPciErr p) (setBit bit true 0)).wr64 (rPciErrAddrLo p) a := Dev.raise_of_clear h bit _

theorem Dev.pciDown_of_up {d : Dev} {p : Nat} (hup : d.linkUp p = true) (hclr : d.rd (rPciErr p) = 0) :
    d.pciDown p = ((d.wr (rPciStatus p) 0).wr (rPciErr p) (setBit 1 true 0)).wr64 (rPciErrAddrLo p) 0 := by
  have hne : rPciErr p ≠ rPciStatus p := by unfold rPciErr rPciStatus; omega
  rw [Dev.pciDown, if_pos hup, Dev.pciErr_of_clear (by rw [Dev.rd_wr_ne _ _ hne, hclr])]

/-- A port without a pending message has none to send. -/
theorem Dev.msixPending_of_none {d : Dev} {p : Nat} (h : d.host.pba.filter (fun k => k / 2048 = p) = []) :
    d.msixPending p = d := by
  rw [Dev.msixPending, h]
  rfl

/-- A link that may come up shows its status, then sends what is pending. -/
theorem Dev.pciUp_eq {d : Dev} {p : Nat} (hdown : d.linkUp p = false) (hrails : d.pins.railsEn = true)
    (hreset : d.pins.resetN = true) (hboot : d.pins.bootStop = false) (hawake : d.rdFld rPwrStatus 1 0 ≠ 2)
    (gen width : Nat) (flit : Bool) :
    d.pciUp p gen width flit = (d.wr (rPciStatus p) (BitVec.ofNat 32
      (gen + 2 ^ 4 * width + 2 ^ 9 + (if flit || gen = 6 then 2 ^ 10 else 0)))).msixPending p := by
  simp [Dev.pciUp, hdown, hrails, hreset, hboot, hawake]

/-- A read of the host behind port `p` that times out marks its granule, and is captured. -/
theorem Dev.hostTimeout_of_clear {d : Dev} {p a : Nat} (hup : d.linkUp p = true) (ha : hostPort a = some p)
    (hclr : d.rd (rPciErr p) = 0) : d.hostTimeout p a =
      (({ d with host := { d.host with timeouts := insNat (d.hostKey p a / 64) d.host.timeouts } }).wr (rPciErr p)
        (setBit 3 true 0)).wr64 (rPciErrAddrLo p) a := by
  have hport : (!d.linkUp p || decide (hostPort a ≠ some p)) = false := by simp [hup, ha]
  rw [Dev.hostTimeout, if_neg (ne_true_of_eq_false hport)]
  refine Dev.pciErr_of_clear ?_ 3 a
  exact hclr

/-! ### MSI-X -/

/-- The device with the MSI-X tables `t`. -/
def Dev.withMsix (d : Dev) (t : List (Nat × Word)) : Dev := { d with host := { d.host with msix := t } }

@[simp] theorem Dev.withMsix_msix (d : Dev) (t : List (Nat × Word)) : (d.withMsix t).host.msix = t := rfl
@[simp] theorem Dev.withMsix_withMsix (d : Dev) (t u : List (Nat × Word)) : (d.withMsix t).withMsix u = d.withMsix u := rfl

/-- The device with the entry of vector `vec` of port `port` written and unmasked. -/
def Dev.withEntry (d : Dev) (port vec : Nat) (addr : DWord) (data : Word) : Dev :=
  let k := (port * 2048 + vec) * 4
  let t0 := sset msixDefault d.host.msix k (addr.setWidth 32)
  let t1 := sset msixDefault t0 (k + 1) ((addr >>> 32).setWidth 32)
  d.withMsix (sset msixDefault (sset msixDefault t1 (k + 2) data) (k + 3) 0)

section Entry

variable (d : Dev) (port vec : Nat) (addr : DWord) (data : Word)

theorem Dev.withEntry_word_zero : (d.withEntry port vec addr data).msixWord port vec 0 = addr.setWidth 32 := by
  simp [Dev.msixWord, Dev.withEntry, sget_sset]

theorem Dev.withEntry_word_one : (d.withEntry port vec addr data).msixWord port vec 1 = (addr >>> 32).setWidth 32 := by
  simp [Dev.msixWord, Dev.withEntry, sget_sset]

theorem Dev.withEntry_word_two : (d.withEntry port vec addr data).msixWord port vec 2 = data := by
  simp [Dev.msixWord, Dev.withEntry, sget_sset]

theorem Dev.withEntry_word_three : (d.withEntry port vec addr data).msixWord port vec 3 = 0 := by
  simp [Dev.msixWord, Dev.withEntry]

end Entry

/-- A write of an address or data word of the table sends nothing. -/
theorem Dev.msixPut_of_ne_three (d : Dev) (p vec : Nat) {w : Nat} (v : Word) (hw : w ≠ 3) : d.msixPut p vec w v =
    d.withMsix (sset msixDefault d.host.msix ((p * 2048 + vec) * 4 + w) v) := by
  simp [Dev.msixPut, Dev.withMsix, hw]

/-- Clearing the mask of a vector whose message is pending sends it. -/
theorem Dev.msixPut_unmask {d : Dev} {p vec : Nat} (h : d.host.pba.contains (p * 2048 + vec) = true) : d.msixPut p vec 3 0 =
    (d.withMsix (sset msixDefault d.host.msix ((p * 2048 + vec) * 4 + 3) 0)).msixSend p vec := by
  have hv : (0 : Word) &&& 1 = 0 := by decide
  have h0 : bitOf 0 (0 : Word) = false := by decide
  simp only [Dev.msixPut, if_true, hv, h0, h, decide_true, Bool.not_false, Bool.and_true]
  rfl

/-- The message of an unmasked vector leaves on a link that is up. -/
theorem Dev.msixSend_of_unmasked {d : Dev} {p vec : Nat} (hup : d.linkUp p = true) (hm : bitOf 0 (d.msixWord p vec 3) = false) :
    d.msixSend p vec = { d with
      sent := d.sent ++ [.msix p vec ((d.msixWord p vec 0).toNat + 2 ^ 32 * (d.msixWord p vec 1).toNat) (d.msixWord p vec 2)]
      host := { d.host with pba := delNat (p * 2048 + vec) d.host.pba } } := by
  simp [Dev.msixSend, hup, hm]

theorem toNat_low_add_high (a : DWord) :
    (a.setWidth 32 : Word).toNat + 2 ^ 32 * ((a >>> 32).setWidth 32 : Word).toNat = a.toNat := by
  simp only [BitVec.toNat_setWidth, BitVec.toNat_ushiftRight, Nat.shiftRight_eq_div_pow]
  omega

/-- The four words of an entry, written in order, leave it unmasked: a pending message is then sent. -/
theorem Dev.msixUnmask_eq_send {d : Dev} {p : Fin 2} {vec : Nat} (hmay : d.may (.host p) = true)
    (hpend : d.host.pba.contains (p.val * 2048 + vec) = true) (addr : DWord) (data : Word) :
    d.msixUnmask p vec addr data false = (d.withEntry p.val vec addr data).msixSend p.val vec := by
  have hpend' (t : List (Nat × Word)) : (d.withMsix t).host.pba.contains (p.val * 2048 + vec) = true := hpend
  simp only [Dev.msixUnmask, Dev.portAlive, hmay, Bool.not_true, Bool.false_eq_true, if_false, Dev.msixPut_of_ne_three, ne_eq,
    Nat.reduceEqDiff, not_false_eq_true, Dev.withMsix_msix, Dev.withMsix_withMsix, Dev.msixPut_unmask (hpend' _)]
  rfl

/-- Unmasking a vector whose message is pending sends it with the entry's address and data. -/
theorem Dev.msixUnmask_pending {d : Dev} {p : Fin 2} {vec : Nat} (hmay : d.may (.host p) = true)
    (hpend : d.host.pba.contains (p.val * 2048 + vec) = true) (addr : DWord) (data : Word) :
    d.msixUnmask p vec addr data false = { d.withEntry p.val vec addr data with
      sent := d.sent ++ [.msix p.val vec addr.toNat data]
      host := { (d.withEntry p.val vec addr data).host with pba := delNat (p.val * 2048 + vec) d.host.pba } } := by
  have hup : (d.withEntry p.val vec addr data).linkUp p.val = true := by
    simp only [Dev.may, Bool.and_eq_true] at hmay
    exact hmay.1
  rw [Dev.msixUnmask_eq_send hmay hpend,
    Dev.msixSend_of_unmasked hup (by rw [Dev.withEntry_word_three]; decide), Dev.withEntry_word_zero, Dev.withEntry_word_one,
    Dev.withEntry_word_two, toNat_low_add_high]
  rfl

/-- An entry written with EP is discarded and flagged at its offset in BAR4 (R35). -/
theorem Dev.msixUnmask_poisoned {d : Dev} {p : Fin 2} (hmay : d.may (.host p) = true) (vec : Nat) (addr : DWord) (data : Word) :
    d.msixUnmask p vec addr data true = d.pciErr p.val 0 (0x20000 + 16 * vec) := by
  simp [Dev.msixUnmask, Dev.portAlive, hmay]

/-! ### Configuration requests -/

/-- Setting a field twice is setting it last. -/
theorem setFld_setFld_same (hi lo a b : Nat) (w : Word) : setFld hi lo a (setFld hi lo b w) = setFld hi lo a w := by
  apply BitVec.eq_of_getLsbD_eq
  intro k _
  simp only [getLsbD_setFld]
  split <;> rfl

/-- A BAR word reads back as written down to its size. -/
theorem Dev.barWord_setBar_same (d : Dev) (p k : Nat) (v : Word) :
    (d.setBar p k v).barWord p k = if k % 2 = 0 then setFld (barBits k - 1) 0 4 v else v := by
  by_cases hk : k % 2 = 0
  · simp [Dev.barWord, Dev.setBar, hk, setFld_setFld_same]
  · simp [Dev.barWord, Dev.setBar, hk]

theorem Dev.barWord_setBar_ne (d : Dev) (p : Nat) {j k : Nat} (v : Word) (h : j ≠ k) :
    (d.setBar p k v).barWord p j = d.barWord p j := by
  have hne : 6 * p + j ≠ 6 * p + k := by omega
  simp only [Dev.barWord, Dev.setBar, sget_sset_ne _ _ _ hne]

/-- A BAR that nobody has written shows a 64-bit non-prefetchable range. -/
theorem Dev.barWord_of_unwritten {d : Dev} (h : d.host.bars = []) (p : Nat) (k : Fin 6) :
    d.barWord p k.val = if k.val % 2 = 0 then 4 else 0 := by
  have h0 : sget (fun _ => (0 : Word)) d.host.bars (6 * p + k.val) = 0 := by rw [h]; rfl
  simp only [Dev.barWord, h0]
  fin_cases k <;> decide

/-- The words of the BARs are read without a free value. -/
theorem Dev.configRead_bar (d : Dev) (p : Nat) (k : Fin 6) : d.configRead p (0x10 + 4 * k.val) = (d.barWord p k.val, d) := by
  have hr : (0x10 + 4 * k.val) / 4 * 4 = 0x10 + 4 * k.val := by omega
  have hin : (decide (0x10 ≤ 0x10 + 4 * k.val) && decide (0x10 + 4 * k.val < 0x28)) = true := by simp; omega
  have hk : (0x10 + 4 * k.val - 0x10) / 4 = k.val := by omega
  simp only [Dev.configRead, hr, hin, if_true, hk]

/-- A word outside the BARs takes one free value. -/
theorem Dev.configRead_free {reg : Nat} (h : reg < 0x10 ∨ 0x28 ≤ reg) (d : Dev) (p : Nat) :
    (d.configRead p reg).2 = d.fresh.2 := by
  have hout : (decide (0x10 ≤ reg / 4 * 4) && decide (reg / 4 * 4 < 0x28)) = false := by simp; omega
  simp only [Dev.configRead, hout, Bool.false_eq_true, if_false]

theorem Dev.configReq_retry {d : Dev} {p : Nat} (hup : d.linkUp p = true) (h5 : d.bootState ≠ 5) (h6 : d.bootState ≠ 6)
    (reg : Nat) (w : Option Word) : d.configReq p reg w = { d with resp := .retryStatus } := by
  simp [Dev.configReq, hup, h5, h6]

theorem Dev.configReq_read {d : Dev} {p : Nat} (hup : d.linkUp p = true) (hb : d.bootState = 5 ∨ d.bootState = 6) (reg : Nat) :
    d.configReq p reg none = { (d.configRead p reg).2 with resp := .config (d.configRead p reg).1 } := by
  have hready : (decide (d.bootState = 5) || decide (d.bootState = 6)) = true := by simpa using hb
  simp only [Dev.configReq, hup, hready, Bool.not_true, Bool.false_eq_true, if_false]

theorem Dev.configReq_write_bar {d : Dev} {p : Nat} (hup : d.linkUp p = true) (hb : d.bootState = 5 ∨ d.bootState = 6)
    (k : Fin 6) (v : Word) : d.configReq p (0x10 + 4 * k.val) (some v) = d.setBar p k.val v := by
  have hin : (decide (0x10 ≤ 0x10 + 4 * k.val) && decide (0x10 + 4 * k.val < 0x28)) = true := by simp; omega
  have hk : (0x10 + 4 * k.val - 0x10) / 4 = k.val := by omega
  have hready : (decide (d.bootState = 5) || decide (d.bootState = 6)) = true := by simpa using hb
  simp only [Dev.configReq, hup, hready, hin, hk, Bool.not_true, Bool.false_eq_true, if_false, if_true]

theorem toNat_barReg (k : Fin 6) : (BitVec.ofNat 12 (0x10 + 4 * k.val)).toNat = 0x10 + 4 * k.val := by
  rw [BitVec.toNat_ofNat]
  omega

/-! ### Bulk accesses and BAR4 -/

/-- A bulk access of whole words at the data port acts at PCI_BULK_PTR, which advances. -/
theorem Dev.bulkPort_of_words {d : Dev} {p : Fin 2} {x : BulkOp} (hmay : d.may (.host p) = true) (hx : bulkLen x % 4 = 0) :
    d.bulkPort p x = (d.bulk p (d.rd64 (rPciBulkPtrLo p.val)) x).wr64 (rPciBulkPtrLo p.val)
      ((d.rd64 (rPciBulkPtrLo p.val) + bulkLen x) % 2 ^ 64) := by
  simp [Dev.bulkPort, Dev.portAlive, hmay, hx]

section Bar4

variable (d : Dev) (p : Fin 2) {off : Nat}

theorem Dev.bar4_aperture (h : 0x2000000 ≤ off) (x : BulkOp) :
    d.bar4 p off x = d.bulk p (d.rd64 (rPciBulkBaseLo p.val) + (off - 0x2000000)) x := by
  unfold Dev.bar4
  rw [if_pos h]

theorem Dev.bar4_mailbox (h : off < 0x10000) (x : BulkOp) : d.bar4 p off x = d.bulk p (0x3F0012000000 + off) x := by
  unfold Dev.bar4
  rw [if_neg (by omega), if_pos h]

/-- A read between the data port and the aperture shows the MSI-X table, the pending bits or zeros. -/
theorem Dev.bar4_read (h : 0x11000 ≤ off) (h2 : off < 0x2000000) (n : Nat) : d.bar4 p off (.read n) =
    if 0x20000 ≤ off ∧ off < 0x28000 then d.answer (d.msixRead p.val (off - 0x20000) n) false
    else if 0x28000 ≤ off ∧ off < 0x28100 then d.answer (d.pbaRead p.val (off - 0x28000) n) false
    else d.zeros n := by
  rw [Dev.bar4, if_neg (by omega), if_neg (by omega), if_neg (by omega)]
  simp only [Bool.and_eq_true, decide_eq_true_eq]

/-- A write above the MSI-X table and below the aperture is discarded. -/
theorem Dev.bar4_write_discarded (h : 0x28000 ≤ off) (h2 : off < 0x2000000) (bs : List Byte) :
    d.bar4 p off (.write bs false) = d := by
  have hout : (decide (0x20000 ≤ off) && decide (off < 0x28000)) = false := by simp; omega
  rw [Dev.bar4, if_neg (by omega), if_neg (by omega), if_neg (by omega)]
  simp only [hout, Bool.false_eq_true, if_false]

end Bar4

/-- The 16 bytes of the MSI-X entry of vector `vec` are those of its four words. -/
theorem Dev.msixRead_entry (d : Dev) (p : Nat) {vec : Nat} (hv : vec < 2048) : d.msixRead p (16 * vec) 16 =
    (List.range 16).map (fun j => (leBytes 4 (d.msixWord p vec (j / 4)).toNat).getD (j % 4) 0) := by
  rw [Dev.msixRead, rangeFrom, List.map_map]
  refine List.map_congr_left fun j hj => ?_
  have hj16 : j < 16 := List.mem_range.mp hj
  have hin : 16 * vec + j < 0x8000 := by omega
  have hvec : (16 * vec + j) / 16 = vec := by omega
  have hword : (16 * vec + j) / 4 % 4 = j / 4 := by omega
  have hbyte : (16 * vec + j) % 4 = j % 4 := by omega
  simp only [Function.comp_apply, hin, if_true, hvec, hword, hbyte]

/-- A word of a table that nobody has written: the vectors are masked (log 20). -/
theorem Dev.msixWord_of_unwritten {d : Dev} (h : d.host.msix = []) (p vec w : Nat) :
    d.msixWord p vec w = if w % 4 = 3 then 1 else 0 := by
  have hk : ((p * 2048 + vec) * 4 + w) % 4 = w % 4 := by omega
  simp only [Dev.msixWord, h, sget, msixDefault, hk]

/-- An entry of a table that nobody has written is zero but for its mask bit. -/
theorem Dev.msixRead_of_unwritten {d : Dev} (h : d.host.msix = []) (p : Nat) {vec : Nat} (hv : vec < 2048) :
    d.msixRead p (16 * vec) 16 = List.replicate 12 0 ++ [1, 0, 0, 0] := by
  simp only [Dev.msixRead_entry d p hv, Dev.msixWord_of_unwritten h]
  decide

/-- A byte of the pending-bit array holds the bits of eight vectors. -/
theorem Dev.pbaRead_byte (d : Dev) (p : Nat) {k : Nat} (hk : k < 0x100) : d.pbaRead p k 1 =
    [BitVec.ofNat 8 ((List.range 8).map (fun b => if d.host.pba.contains (p * 2048 + k * 8 + b) then 2 ^ b else 0)).sum] := by
  simp [Dev.pbaRead, rangeFrom, hk, Nat.mul_comm 8 k]

/-! ### Windows (R20, R22) -/

/-- The windows of a partition are no word of TOP_STATUS, and lie in the TOP block. -/
theorem window_register_bounds {r : Nat} {q : Fin 8} (h : r ∈ [rTopPHbmwin q, rTopPSumpwin q, rTopPMgdwin q]) :
    rTopStatus < r ∧ r < 0x808000 := by
  simp only [List.mem_cons, List.not_mem_nil, or_false, rTopPHbmwin, rTopPSumpwin, rTopPMgdwin] at h
  unfold rTopStatus
  omega

section Window

variable (d : Dev) {r : Nat} (v : Word)

/-- A write in the TOP block reads nowhere above it. -/
theorem Dev.rd_wr_above {off : Nat} (hr : r < 0x808000) (ho : 0x808000 ≤ off) : (d.wr r v).rd off = d.rd off :=
  d.rd_wr_ne v (by omega)

theorem Dev.sumpMapped_wr_top (hr : r < 0x808000) : (d.wr r v).sumpMapped = d.sumpMapped := by
  simp only [Dev.sumpMapped, d.rd_wr_above v hr (off := rSmpStatus) (by decide)]

theorem Dev.sumpSize_wr_top (hr : r < 0x808000) : (d.wr r v).sumpSize = d.sumpSize := by
  simp only [Dev.sumpSize, Dev.rdFld, d.rd_wr_above v hr (off := rSmpStatus) (by decide)]

theorem Dev.mapped_wr_top (hr : r < 0x808000) (a : Nat) : (d.wr r v).mapped a = d.mapped a := by
  simp only [Dev.mapped, d.sumpMapped_wr_top v hr, d.sumpSize_wr_top v hr]

theorem Dev.bootState_wr_top (hr : r < 0x808000) : (d.wr r v).bootState = d.bootState := by
  simp only [Dev.bootState, Dev.rdFld, d.rd_wr_above v hr (off := rBootState) (by decide)]

theorem Dev.coreState_wr_top (hr : r < 0x808000) (c : Nat) : (d.wr r v).coreState c = d.coreState c := by
  simp only [Dev.coreState, Dev.rdFld, d.rd_wr_above v hr (off := rCoreStatus c) (by unfold rCoreStatus; omega)]

theorem Dev.fenced_wr_window (hr : rTopStatus < r) (die : Nat) : (d.wr r v).fenced die = d.fenced die := by
  simp only [Dev.fenced, d.rd_wr_ne v (Nat.ne_of_lt hr)]

/-- What a sender of no partition reaches depends on no window register. -/
theorem Dev.reaches_wr_window (h1 : rTopStatus < r) (h2 : r < 0x808000) {acc : Acc} (hacc : acc.part = none) (wr : Bool)
    (a : Nat) : (d.wr r v).reaches acc wr a = d.reaches acc wr a := by
  simp only [Dev.reaches, hacc, d.mapped_wr_top v h2, d.fenced_wr_window v h1, d.bootState_wr_top v h2,
    d.coreState_wr_top v h2]

theorem Dev.bulkReach_wr_top (hr : r < 0x808000) (a : Nat) : (d.wr r v).bulkReach a = d.bulkReach a := by
  simp only [Dev.bulkReach, d.mapped_wr_top v hr, d.bootState_wr_top v hr]

end Window

/-- R28 binds no host. -/
theorem Dev.regReach_host (d : Dev) (p : Fin 2) (wr : Bool) (off : Nat) : d.regReach (.host p) wr off = true := by
  simp [Dev.regReach, bounded]

end Sys2Proof.Machine

namespace Sys2Proof.Proofs

open Sys2Proof.Machine Sys2Proof.Safety

/-- Settles O58: a host acts for no partition, so the only registers that decide what it reaches are TOP_STATUS, BOOT_STATE,
SMP_STATUS and the core states, none of them a window. -/
theorem hostAccessesKnowNoWindows : Obligations.HostAccessesKnowNoWindows := by
  unfold Obligations.HostAccessesKnowNoWindows
  intro d p q r v wr a off hr
  obtain ⟨h1, h2⟩ := window_register_bounds hr
  exact ⟨d.reaches_wr_window v h1 h2 rfl wr a, d.bulkReach_wr_top v h2 a, Dev.regReach_host _ _ _ _⟩

/-! ### Bulk paths -/

section Bulk

variable {s : State} {p : Fin 2}

/-- A well-formed access of BAR2 from a host that the port answers. -/
theorem does_bar2 {off : BitVec 22} {width : BitVec 8} {b : BarOp} {u : Dev} (hwf : WellFormed.bar2 off width b = true)
    (hu : s.dev.bar2Other p off.toNat width.toNat b = u) : Does (.bar2OtherWrite p off width b) s u :=
  does_of_run (f := fun d => d.bar2Other p off.toNat width.toNat b) (by rw [exec_bar2OtherWrite, if_pos hwf]) hu

theorem bar2_illFormed {off : BitVec 22} {width : BitVec 8} {b : BarOp} (h : WellFormed.bar2 off width b = false) :
    exec (.bar2OtherWrite p off width b) s = .fault .illFormed := by
  simp [exec_bar2OtherWrite, h]

/-- An access of BAR4 from a host that the port answers. -/
theorem does_bar4 {off : BitVec 26} {x : BulkOp} {u : Dev} (hmay : s.dev.may (.host p) = true)
    (hu : s.dev.bar4 p off.toNat x = u) : Does (.bulkApertureAccess p off x) s u :=
  does_of_run (exec_bulkApertureAccess s p off x) (by rw [Dev.portAlive, if_pos hmay, hu])

end Bulk

/-- Settles O10, by the region of the BAR that the offset lies in. -/
theorem bulkPathsActAtTheirAddress : Obligations.BulkPathsActAtTheirAddress := by
  unfold Obligations.BulkPathsActAtTheirAddress
  intro s p off at_ width x n vec bs b
  refine ⟨fun hwf hmay => does_bar2 hwf ?write, fun hwf hmay => does_bar2 hwf ?read, bar2_illFormed,
    fun hmay hx => does_of_run (exec_bulkDataPortAccess s p x) (Dev.bulkPort_of_words hmay hx),
    fun hmay h => does_bar4 hmay (Dev.bar4_aperture _ _ h x), fun hmay h => does_bar4 hmay (Dev.bar4_mailbox _ _ h x),
    fun hmay h h2 => ⟨does_bar4 hmay ?elsewhere, does_bar4 hmay (Dev.bar4_write_discarded _ _ (by omega) h2 bs)⟩,
    fun hmay hv ha hm => does_bar4 hmay ?table, fun hmay hv ha => does_bar4 hmay ?pending⟩
  case write | read => simp [Dev.bar2Other, Dev.portAlive, hmay, Dev.zeros, Dev.answer]
  case elsewhere =>
    rw [Dev.bar4_read _ _ (by omega) h2, if_neg (by omega), if_neg (by omega)]
    rfl
  case table =>
    have ho : at_.toNat - 0x20000 = 16 * vec := by omega
    rw [Dev.bar4_read _ _ (by omega) (by omega), if_pos (by omega), ho, Dev.msixRead_of_unwritten hm _ hv]
    rfl
  case pending =>
    have ho : at_.toNat - 0x28000 = vec / 8 := by omega
    rw [Dev.bar4_read _ _ (by omega) (by omega), if_neg (by omega), if_pos (by omega), ho, Dev.pbaRead_byte _ _ (by omega)]
    rfl

/-! ### PCIe ports -/

section Ports

variable (s : State) (p : Fin 2)

theorem does_pcieLinkDown (hup : s.dev.linkUp p = true) (hclr : s.dev.rd (rPciErr p) = 0) : Does (.pcieLinkDown p) s
    (((s.dev.wr (rPciStatus p) 0).wr (rPciErr p) (setBit 1 true 0)).wr64 (rPciErrAddrLo p) 0) :=
  does_of_run (exec_pcieLinkDown s p) (Dev.pciDown_of_up hup hclr)

theorem does_pcieLinkUp (gen : Fin 6) (lanes : PciLanes) (flit : Bool) (hdown : s.dev.linkUp p = false)
    (hrails : s.dev.pins.railsEn = true) (hreset : s.dev.pins.resetN = true) (hboot : s.dev.pins.bootStop = false)
    (hawake : s.dev.rdFld rPwrStatus 1 0 ≠ 2) (hpba : s.dev.host.pba.filter (fun k => k / 2048 = p.val) = []) :
    Does (.pcieLinkUp p gen lanes flit) s (s.dev.wr (rPciStatus p)
      (BitVec.ofNat 32 (gen.val + 1 + 2 ^ 4 * lanesNo lanes + 2 ^ 9 + (if flit || gen.val = 5 then 2 ^ 10 else 0)))) := by
  refine does_of_run (exec_pcieLinkUp s p gen lanes flit) ?_
  have hgen : (gen.val + 1 = 6) = (gen.val = 5) := propext (by omega)
  rw [Dev.pciUp_eq hdown hrails hreset hboot hawake, Dev.msixPending_of_none (d := s.dev.wr _ _) hpba]
  simp only [hgen]

/-- A pending message is sent when its vector is unmasked, and only the MSI-X structures change. -/
theorem runs_msixUnmask (vec : Fin 2048) (addr : DWord) (data : Word) (hmay : s.dev.may (.host p) = true)
    (hpend : s.dev.host.pba.contains (p.val * 2048 + vec.val) = true) :
    Runs (.msixUnmask p vec addr ⟨data, false⟩) s (fun t =>
      t.sent = s.dev.sent ++ [.msix p.val vec.val addr.toNat data] ∧ t.host.pba.contains (p.val * 2048 + vec.val) = false ∧
      OnlyRegs { s.dev with host := t.host, sent := t.sent } t []) := by
  refine runs_of_does (does_of_run (exec_msixUnmask s p vec addr _) (Dev.msixUnmask_pending hmay hpend addr data)) rfl
    ⟨rfl, ?_, onlyRegs_refresh (onlyRegs_refl _ [])⟩
  exact contains_putNat_same (p.val * 2048 + vec.val) false s.dev.host.pba

theorem does_msixUnmask_poisoned (vec : Fin 2048) (addr : DWord) (data : Word) (hmay : s.dev.may (.host p) = true)
    (hclr : s.dev.rd (rPciErr p) = 0) : Does (.msixUnmask p vec addr ⟨data, true⟩) s
      ((s.dev.wr (rPciErr p) (setBit 0 true 0)).wr64 (rPciErrAddrLo p) (0x20000 + 16 * vec.val)) :=
  does_of_run (exec_msixUnmask s p vec addr _) ((Dev.msixUnmask_poisoned hmay _ _ _).trans (Dev.pciErr_of_clear hclr _ _))

theorem does_hostReadTimeout (a : BitVec 48) (hup : s.dev.linkUp p = true) (ha : hostPort a.toNat = some p.val)
    (hclr : s.dev.rd (rPciErr p) = 0) : Does (.hostReadTimeout p a) s
      ((({ s.dev with host := { s.dev.host with
          timeouts := insNat (s.dev.hostKey p a.toNat / 64) s.dev.host.timeouts } }.wr (rPciErr p) (setBit 3 true 0)).wr64
        (rPciErrAddrLo p) a.toNat)) :=
  does_of_run (exec_hostReadTimeout s p a) (Dev.hostTimeout_of_clear hup ha hclr)

theorem does_unsupportedRequest (addr : DWord) (hup : s.dev.linkUp p = true) (hclr : s.dev.rd (rPciErr p) = 0) :
    Does (.unsupportedRequest p addr) s
      ((s.dev.wr (rPciErr p) (setBit 4 true 0)).wr64 (rPciErrAddrLo p) addr.toNat) :=
  does_of_run (exec_unsupportedRequest s p addr) (by rw [if_pos hup, Dev.pciErr_of_clear hclr])

end Ports

section Config

variable {s : State} {p : Fin 2}

theorem does_configurationRequest {reg : BitVec 12} {w : Option Word} {u : Dev} (hu : s.dev.configReq p.val reg.toNat w = u) :
    Does (.configurationRequest p reg w) s u := does_of_run (exec_configurationRequest s p reg w) hu

variable (hup : s.dev.linkUp p = true) (hb : s.dev.bootState = 5 ∨ s.dev.bootState = 6)
include hup hb

/-- A word outside the BARs is answered with a free value. -/
theorem does_config_read_free {reg : BitVec 12} (h : reg.toNat < 0x10 ∨ 0x28 ≤ reg.toNat) :
    ∃ w, Does (.configurationRequest p reg none) s { s.dev with free := s.dev.free + 1, resp := .config w } :=
  ⟨_, does_configurationRequest (by rw [Dev.configReq_read hup hb, Dev.configRead_free h]; rfl)⟩

theorem does_config_read_bar (k : Fin 6) : Does (.configurationRequest p (BitVec.ofNat 12 (0x10 + 4 * k.val)) none) s
    { s.dev with resp := .config (s.dev.barWord p k.val) } :=
  does_configurationRequest (by rw [toNat_barReg, Dev.configReq_read hup hb, Dev.configRead_bar])

/-- A BAR word that is written reads back down to its size, and no other word of the BARs changes. -/
theorem runs_config_write_bar (k : Fin 6) (v : Word) :
    Runs (.configurationRequest p (BitVec.ofNat 12 (0x10 + 4 * k.val)) (some v)) s (fun t =>
      t.barWord p k = (if k.val % 2 = 0 then setFld (barBits k - 1) 0 4 v else v) ∧
      (∀ j < 6, j ≠ k.val → t.barWord p j = s.dev.barWord p j) ∧ OnlyRegs { s.dev with host := t.host } t []) := by
  have hdo : Does (.configurationRequest p (BitVec.ofNat 12 (0x10 + 4 * k.val)) (some v)) s (s.dev.setBar p k.val v) :=
    does_configurationRequest (by rw [toNat_barReg, Dev.configReq_write_bar hup hb])
  have hbar (d : Dev) (j : Nat) : d.refresh.barWord p j = d.barWord p j := rfl
  refine runs_of_does hdo rfl ⟨?_, fun j _ hj => ?_, onlyRegs_refresh (onlyRegs_refl _ [])⟩
  · rw [hbar, Dev.barWord_setBar_same]
  · rw [hbar, Dev.barWord_setBar_ne _ _ _ hj]

end Config

/-- Settles O9, event by event. -/
theorem pciePortsResetSendAndFlagErrors : Obligations.PciePortsResetSendAndFlagErrors := by
  unfold Obligations.PciePortsResetSendAndFlagErrors
  refine ⟨fun s p gen lanes flit => ⟨does_pcieLinkDown s p, does_pcieLinkUp s p gen lanes flit, ?reset⟩,
    fun s p vec addr data v a reg k => ⟨runs_msixUnmask s p vec addr data, does_msixUnmask_poisoned s p vec addr data,
      does_hostReadTimeout s p a, does_unsupportedRequest s p addr,
      fun hup h5 h6 => does_configurationRequest (Dev.configReq_retry hup h5 h6 _ _),
      fun ⟨hup, hb⟩ => ⟨does_config_read_free hup hb, fun hbars hk => ?even, fun hbars hk => ?odd,
        runs_config_write_bar hup hb k v⟩⟩⟩
  case reset => exact does_of_run (exec_pcieFunctionReset s p) rfl
  case even =>
    have h := does_config_read_bar hup hb k
    rwa [Dev.barWord_of_unwritten hbars, if_pos hk] at h
  case odd =>
    have h := does_config_read_bar hup hb k
    rwa [Dev.barWord_of_unwritten hbars, if_neg (by omega)] at h

end Sys2Proof.Proofs

/-! Proofs of the family 02_media_ingest: which CODEC commands are turned away (R41 to R43), what a halted context leaves as it
was (R43), and what WARP and SCAN write (R56, R59, R61 to R63). First the laws of the operations, then the obligations. -/

namespace Sys2Proof.Machine

open Sys2Proof.Safety

/-! ### Contexts -/

/-- The registers of a context lie above the TOP block. -/
theorem ctxOwn_far (c : Nat) : 0x808000 ≤ ctxOwn c := by
  unfold ctxOwn rVcdCtxOwn
  omega

@[simp] theorem Dev.ctxState_refresh (d : Dev) (c : Nat) : d.refresh.ctxState c = d.ctxState c := by
  rw [Dev.ctxState, Dev.rdFld, d.rd_refresh_far (ctxOwn_far c)]
  rfl

/-- The first error of a register is captured, a later one is not (R374). -/
theorem Dev.raise_cases (d : Dev) (off bit : Nat) (cap : Dev → Dev) :
    d.raise off bit cap = cap (d.wr off (setBit bit true (d.rd off))) ∨
      d.raise off bit cap = d.wr off (setBit bit true (d.rd off)) := by
  unfold Dev.raise
  dsimp only
  split
  · exact .inl rfl
  · exact .inr rfl

/-- An error of VCD_ERR changes registers and the recorder. -/
theorem Dev.vcdErr_eq (d : Dev) (c bit : Nat) :
    d.vcdErr c bit = { d with regs := (d.vcdErr c bit).regs, rcd := (d.vcdErr c bit).rcd } := by
  unfold Dev.vcdErr
  rw [Dev.flw_eq]
  obtain h | h := d.raise_cases (rVcdErr (c / 1024)) bit (fun d => d.wr (rVcdErrCtx (c / 1024)) (BitVec.ofNat 32 c)) <;>
  · rw [h]
    rfl

section VcdErr

variable (d : Dev) (c bit : Nat)

@[simp] theorem Dev.vcdErr_queue : (d.vcdErr c bit).queue = d.queue := by rw [Dev.vcdErr_eq]
@[simp] theorem Dev.vcdErr_tier : (d.vcdErr c bit).tier = d.tier := by rw [Dev.vcdErr_eq]
@[simp] theorem Dev.vcdErr_media : (d.vcdErr c bit).media = d.media := by rw [Dev.vcdErr_eq]
@[simp] theorem Dev.vcdErr_mem : (d.vcdErr c bit).mem = d.mem := by rw [Dev.vcdErr_eq]

/-- An error of a context changes no VCD_CTX_OWN. -/
@[simp] theorem Dev.ctxState_vcdErr (k : Nat) : (d.vcdErr c bit).ctxState k = d.ctxState k := by
  have herr : ctxOwn k ≠ rVcdErr (c / 1024) := by unfold ctxOwn rVcdCtxOwn rVcdErr; omega
  have hctx : ctxOwn k ≠ rVcdErrCtx (c / 1024) := by unfold ctxOwn rVcdCtxOwn rVcdErrCtx; omega
  have hflw : ctxOwn k ≠ rFlwSeq ∧ ctxOwn k ≠ rFlwStatus ∧ ctxOwn k ≠ rFlwDrop := by
    unfold ctxOwn rVcdCtxOwn rFlwSeq rFlwStatus rFlwDrop
    omega
  obtain ⟨hseq, hstatus, hdrop⟩ := hflw
  unfold Dev.ctxState Dev.rdFld Dev.vcdErr
  rw [Dev.rd_flw _ _ _ _ _ hseq hstatus hdrop]
  obtain h | h := d.raise_cases (rVcdErr (c / 1024)) bit (fun d => d.wr (rVcdErrCtx (c / 1024)) (BitVec.ofNat 32 c))
  · rw [h, Dev.rd_wr_ne _ _ hctx, Dev.rd_wr_ne _ _ herr]
  · rw [h, Dev.rd_wr_ne _ _ herr]

end VcdErr

/-! ### The checks of a CODEC command (R41 to R43) -/

/-- Each CODEC command runs its operation behind the checks. -/
theorem exec_codec {c : CmdRef} {op : Nat} {i : Instr}
    (h : (op, i) ∈ [(0, Instr.init c), (1, .decode c), (2, .encode c), (3, .flush c), (4, .close c)]) :
    ∃ f, ∀ s, exec i s = State.run (fun d => d.codecCmd c op f) s := by
  simp only [List.mem_cons, Prod.mk.injEq, List.not_mem_nil, or_false] at h
  obtain ⟨rfl, rfl⟩ | ⟨rfl, rfl⟩ | ⟨rfl, rfl⟩ | ⟨rfl, rfl⟩ | ⟨rfl, rfl⟩ := h
  · exact ⟨fun k x d => d.codecInit k x, fun _ => rfl⟩
  · exact ⟨fun k x d => d.codecDecode k x, fun _ => rfl⟩
  · exact ⟨fun k x d => d.codecEncode k x, fun _ => rfl⟩
  · exact ⟨fun k x d => d.codecFlush k x, fun _ => rfl⟩
  · exact ⟨fun k x d => d.codecClose k x, fun _ => rfl⟩

/-- Does VCD_CTX_OWN give the command's context to its partition, enabled (Table 2-15)? -/
abbrev Dev.ctxMine (d : Dev) (x : Inflight) : Prop :=
  bitOf 4 (d.rd (ctxOwn (x.opd 0 % 2048))) = true ∧ fld 3 0 (d.rd (ctxOwn (x.opd 0 % 2048))) = x.part

section Checks

variable {d : Dev} {c : CmdRef} {x : Inflight} {op : Nat} (f : Nat → Inflight → Dev → Dev)

/-- The checks, in their order, on the command that the reference names. -/
theorem Dev.codecCmd_of_dispatched (h : Dispatched d c x 3 op) : d.codecCmd c op f =
    if d.ctxForeign x then (d.codecAbort x 0x27).vcdErr (x.opd 0 % 2048) 4
    else if !d.ctxTurn x then d
    else if ¬d.ctxMine x then d.codecAbort x 0x27
    else if d.ctxState (x.opd 0 % 2048) = 3 && op ≠ 0 && op ≠ 4 then d.codecAbort x 0x27
    else if d.ctxState (x.opd 0 % 2048) = 0 && op ≠ 0 then (d.codecAbort x 0x27).vcdErr (x.opd 0 % 2048) 0
    else f (x.opd 0 % 2048) x d := by
  obtain ⟨hcmd, hphase, hcls, hop⟩ := h
  have hmine : (!bitOf 4 (d.rd (ctxOwn (x.opd 0 % 2048))) ||
      decide (fld 3 0 (d.rd (ctxOwn (x.opd 0 % 2048))) ≠ x.part)) = true ↔ ¬d.ctxMine x := by
    rw [Dev.ctxMine, not_and_or]
    simp
  rw [Dev.codecCmd, Dev.work_eq d c x _ _ hcmd hphase (by simp [hphase, hcls, hop])]
  simp only [hmine]

variable (h : Dispatched d c x 3 op)
include h

theorem Dev.codecCmd_foreign (hf : d.ctxForeign x = true) :
    d.codecCmd c op f = (d.codecAbort x 0x27).vcdErr (x.opd 0 % 2048) 4 := by
  rw [Dev.codecCmd_of_dispatched f h, if_pos hf]

variable (hf : d.ctxForeign x = false)
include hf

theorem Dev.codecCmd_waits (ht : d.ctxTurn x = false) : d.codecCmd c op f = d := by
  simp [Dev.codecCmd_of_dispatched f h, hf, ht]

variable (ht : d.ctxTurn x = true)
include ht

theorem Dev.codecCmd_not_mine (hm : ¬d.ctxMine x) : d.codecCmd c op f = d.codecAbort x 0x27 := by
  simp only [Dev.codecCmd_of_dispatched f h, hf, ht, Bool.false_eq_true, if_false, Bool.not_true, if_pos hm]

theorem Dev.codecCmd_halted (hs : d.ctxState (x.opd 0 % 2048) = 3) (h0 : op ≠ 0) (h4 : op ≠ 4) :
    d.codecCmd c op f = d.codecAbort x 0x27 := by
  simp [Dev.codecCmd_of_dispatched f h, hf, ht, hs, h0, h4]

theorem Dev.codecCmd_closed (hm : d.ctxMine x) (hs : d.ctxState (x.opd 0 % 2048) = 0) (h0 : op ≠ 0) :
    d.codecCmd c op f = (d.codecAbort x 0x27).vcdErr (x.opd 0 % 2048) 0 := by
  simp [Dev.codecCmd_of_dispatched f h, hf, ht, hm, hs, h0]

end Checks

/-- A command of a halted context whose turn has come ends ABORTED, and the context is as it was, also where another queue's
command is in flight (R42, R43). -/
theorem Dev.codecCmd_halted_leaves {d : Dev} {c : CmdRef} {x : Inflight} {op : Nat} (f : Nat → Inflight → Dev → Dev)
    (h : Dispatched d c x 3 op) (ht : d.ctxTurn x = true) (hs : d.ctxState (x.opd 0 % 2048) = 3) (h0 : op ≠ 0) (h4 : op ≠ 4) :
    (d.codecCmd c op f).queue = (d.codecAbort x 0x27).queue ∧ (d.codecCmd c op f).media = d.media ∧
      (d.codecCmd c op f).mem = d.mem ∧ (d.codecCmd c op f).tier = d.tier ∧
      ∀ k, (d.codecCmd c op f).ctxState k = d.ctxState k := by
  cases hf : d.ctxForeign x with
  | true =>
    rw [Dev.codecCmd_foreign f h hf]
    exact ⟨Dev.vcdErr_queue _ _ _, Dev.vcdErr_media _ _ _, Dev.vcdErr_mem _ _ _, Dev.vcdErr_tier _ _ _,
      fun _ => Dev.ctxState_vcdErr _ _ _ _⟩
  | false =>
    rw [Dev.codecCmd_halted f h hf ht hs h0 h4]
    exact ⟨rfl, rfl, rfl, rfl, fun _ => rfl⟩

/-! ### WARP and SCAN (R59, R63) -/

theorem exec_warp (c : CmdRef) (s : State) : exec (.warp c) s = State.run (fun d =>
    d.work c (fun x => x.cls = 4 && x.phase = .dispatched && x.cacheOp ≠ 2) (fun x d => d.warp x)) s := rfl

theorem exec_scan (c : CmdRef) (s : State) : exec (.scan c) s = State.run (fun d =>
    d.work c (fun x => x.cls = 5 && x.phase = .dispatched && x.cacheOp ≠ 2) (fun x d => d.scan x)) s := rfl

section Done

variable {d : Dev} {x : Inflight} (h : x.cacheOp = 0) (m src : Nat) (bf16 : Bool) (out : Marked)
include h

/-- Clean output with no cache operation ends the command DONE. -/
theorem Dev.inpDone_clean : d.inpDone x m src bf16 out none false = d.finish x Result.fresh := by
  simp [Dev.inpDone, h, Result.fresh]

/-- Poison or a refused access ends the command POISONED. -/
theorem Dev.inpDone_poisoned {bad : Option Nat} {poison : Bool} (hb : (bad.isSome || poison) = true) :
    ∃ (e : Dev) (r : Result), d.inpDone x m src bf16 out bad poison = e.finish x r ∧ r.status = .poisoned :=
  ⟨if poison then d.inpErr m 1 src (x.opd 0) else d,
    { Result.fresh with status := .poisoned, addr := bad.getD 0 }, by simp [Dev.inpDone, h, hb], rfl⟩

end Done

theorem first_isSome (a b : Option Nat) : (first a b).isSome = (a.isSome || b.isSome) := by
  cases a <;> rfl

section Desc

variable {d e : Dev} {x : Inflight}

/-- A WARP whose descriptor breaks its rules. -/
theorem Dev.warp_of_no_desc (h : (d.pickUnit true).2.warpDesc (x.acc (d.pickUnit true).1.2) (x.opd 0) = (none, e)) :
    d.warp x = e.inpAbort x (d.pickUnit true).1.1 (d.pickUnit true).1.2 := by
  simp only [Dev.warp, h]

/-- A WARP with a good descriptor warps its frame. -/
theorem Dev.warp_of_desc {t : WarpDesc} {par : List Byte}
    (h : (d.pickUnit true).2.warpDesc (x.acc (d.pickUnit true).1.2) (x.opd 0) = (some (t, par), e)) :
    d.warp x =
      let k := d.pickUnit true
      let r := e.warpRun k.1.1 (x.acc k.1.2) t par
      r.2.inpDone x k.1.1 k.1.2 (t.ofmt = .bf16) r.1.1 r.1.2.1 r.1.2.2 := by
  simp only [Dev.warp, h]

/-- A SCAN whose structures break their rules. -/
theorem Dev.scan_of_no_desc (h : (d.pickUnit false).2.scanDesc (x.acc (d.pickUnit false).1.2) (x.opd 0) = (none, e)) :
    d.scan x = e.inpAbort x (d.pickUnit false).1.1 (d.pickUnit false).1.2 := by
  simp only [Dev.scan, h]

/-- A SCAN with good structures voxelises its words. -/
theorem Dev.scan_of_desc {p : ScanPar}
    (h : (d.pickUnit false).2.scanDesc (x.acc (d.pickUnit false).1.2) (x.opd 0) = (some p, e)) :
    d.scan x =
      let k := d.pickUnit false
      let r := e.scanRun k.1.1 (x.acc k.1.2) p
      r.2.inpDone x k.1.1 k.1.2 false r.1.1 r.1.2.1 r.1.2.2 := by
  simp only [Dev.scan, h]

end Desc

end Sys2Proof.Machine

namespace Sys2Proof.Proofs

open Sys2Proof.Machine Sys2Proof.Safety

/-- Settles O12, check by check. -/
theorem codecCommandsAreTurnedAway : Obligations.CodecCommandsAreTurnedAway := by
  unfold Obligations.CodecCommandsAreTurnedAway
  intro s c x op i hop h
  obtain ⟨f, hrun⟩ := exec_codec hop
  exact ⟨fun hf => does_of_run (hrun s) (Dev.codecCmd_foreign f h hf),
    fun hf ht => does_of_run (hrun s) (Dev.codecCmd_waits f h hf ht),
    fun hf ht => ⟨fun hm => does_of_run (hrun s) (Dev.codecCmd_not_mine f h hf ht hm),
      fun _ hs h0 h4 => does_of_run (hrun s) (Dev.codecCmd_halted f h hf ht hs h0 h4),
      fun hm hs h0 => does_of_run (hrun s) (Dev.codecCmd_closed f h hf ht hm hs h0)⟩⟩

/-- Settles O59: the command is turned away, by the check of its queue or by that of the context's state. -/
theorem haltedContextsAbortTheirCommands : Obligations.HaltedContextsAbortTheirCommands := by
  unfold Obligations.HaltedContextsAbortTheirCommands
  intro s c x op i hop h k hs ht
  obtain ⟨h0, h4, hop'⟩ : op ≠ 0 ∧ op ≠ 4 ∧
      (op, i) ∈ [(0, Instr.init c), (1, .decode c), (2, .encode c), (3, .flush c), (4, .close c)] := by
    simp only [List.mem_cons, Prod.mk.injEq, List.not_mem_nil, or_false] at hop
    obtain ⟨rfl, rfl⟩ | ⟨rfl, rfl⟩ | ⟨rfl, rfl⟩ := hop <;> simp
  obtain ⟨f, hrun⟩ := exec_codec hop'
  obtain ⟨hqueue, hmedia, hmem, htier, hstate⟩ := Dev.codecCmd_halted_leaves f h ht hs h0 h4
  refine runs_of_does (does_of_run (hrun s) rfl) (congrArg TierSt.stall htier) ⟨fun y hy hq hi => ?_, ?_, ?_, hmem⟩
  · rw [Dev.refresh_queue, hqueue] at hy
    obtain ⟨hphase, hres⟩ := Dev.finish_ended hy hq hi
    exact ⟨hphase, by rw [hres]; rfl⟩
  · rw [Dev.ctx, Dev.refresh_media, hmedia]
    rfl
  · rw [Dev.ctxState_refresh, hstate, hs]

/-! ### CLOSE of a CLOSED context (R41) -/

/-- A command that no access holds up leaves one device. -/
theorem does_refresh_unique {i : Instr} {s : State} {u v : Dev} (hu : Does i s u) (hv : Does i s v)
    (hsu : u.tier.stall = none) (hsv : v.tier.stall = none) : u.refresh = v.refresh := by
  have h : s.settle u = s.settle v := by
    have := hu.symm.trans hv
    injection this
  rw [settle_of_none hsu, settle_of_none hsv] at h
  exact congrArg State.dev h

/-- A CLOSE of a context that is CLOSED does not end DONE: it is an operation other than INIT (R41). -/
theorem not_runs_close_of_closed {s : State} {c : CmdRef} {x : Inflight} (h : Dispatched s.dev c x 3 4)
    (hf : s.dev.ctxForeign x = false) (ht : s.dev.ctxTurn x = true)
    (hm : s.dev.ctxMine x) (hs : s.dev.ctxState (x.opd 0 % 2048) = 0) (hstall : s.dev.tier.stall = none) :
    ¬ Runs (.close c) s (fun t => ∀ y ∈ t.queue.infl, y.q = x.q → y.i = x.i → y.res = Result.fresh) := by
  rintro ⟨u, hu, hsu, hend⟩
  obtain ⟨f, hrun⟩ := exec_codec (c := c) (op := 4) (i := .close c) (by simp)
  have hv : Does (.close c) s ((s.dev.codecAbort x 0x27).vcdErr (x.opd 0 % 2048) 0) :=
    does_of_run (hrun s) (Dev.codecCmd_closed f h hf ht hm hs (by decide))
  rw [does_refresh_unique hu hv (hsu.trans hstall) (by rw [Dev.vcdErr_tier]; exact hstall), Dev.refresh_queue,
    Dev.vcdErr_queue] at hend
  have hx : x ∈ s.dev.queue.infl := List.mem_of_find?_eq_some h.1
  have hres := hend _ (Dev.mem_setCmd.mpr ⟨x, hx, rfl⟩) (by simp) (by simp)
  simp [aborted, Result.fresh] at hres

/-- A CLOSE (CLASS 3, OP 4) of context 0 by queue 0. -/
def closeOfContext0 : Inflight :=
  { q := 0, i := 0, slot := leBytes 4 0x43 ++ List.replicate 60 0, ext := [], part := 0, seed := 0, rnd := 1, epoch := 0,
    tblsrc := false, ts := 0, eng := 127, heldAt := 0, phase := .dispatched, res := Result.fresh, lastout := false,
    copied := none, descs := [], ord := 1 }

/-- Context 0 is enabled for partition 0 and CLOSED, and that CLOSE has been dispatched. -/
def closingClosedContext : State :=
  ⟨{ Dev.reset.wr (ctxOwn 0) 0x10 with queue := { QueueSt.reset with infl := [closeOfContext0] } }, []⟩

/-- Refutes O13: the statement has every CLOSE end DONE, but R41 ends an operation other than INIT on a CLOSED context ABORTED
with VCD_ERR.DESC, and so does the model (O12). -/
theorem not_codecCommandsRunOnTheirContext : ¬ Obligations.CodecCommandsRunOnTheirContext := by
  unfold Obligations.CodecCommandsRunOnTheirContext
  intro h
  have hdisp : Dispatched closingClosedContext.dev ⟨0, 0⟩ closeOfContext0 3 4 := by decide
  have hf : closingClosedContext.dev.ctxForeign closeOfContext0 = false := by decide
  have ht : closingClosedContext.dev.ctxTurn closeOfContext0 = true := by decide
  have hm : closingClosedContext.dev.ctxMine closeOfContext0 := by decide
  have hs : closingClosedContext.dev.ctxState (closeOfContext0.opd 0 % 2048) = 0 := by decide
  obtain ⟨-, -, hclose, -⟩ :=
    h closingClosedContext ⟨0, 0⟩ closeOfContext0 (CtxSt.init (StreamDesc.ofBytes [])) 0 hf ht hm.1 hm.2
  obtain ⟨u, hu, hsu, -, -, -, hended, -⟩ := hclose hdisp
  exact not_runs_close_of_closed hdisp hf ht hm hs rfl ⟨u, hu, hsu, fun y hy hq hi => (hended y hy hq hi).2⟩

/-! ### WARP and SCAN -/

section Media

variable {s : State} {c : CmdRef} {x : Inflight}

theorem does_warp (h : Dispatched s.dev c x 4 0) (hc : x.cacheOp = 0) : Does (.warp c) s (s.dev.warp x) := by
  obtain ⟨hcmd, hphase, hcls, -⟩ := h
  exact does_of_run (exec_warp c s) (Dev.work_eq _ c x _ _ hcmd hphase (by simp [hcls, hphase, hc]))

theorem does_scan (h : Dispatched s.dev c x 5 0) (hc : x.cacheOp = 0) : Does (.scan c) s (s.dev.scan x) := by
  obtain ⟨hcmd, hphase, hcls, -⟩ := h
  exact does_of_run (exec_scan c s) (Dev.work_eq _ c x _ _ hcmd hphase (by simp [hcls, hphase, hc]))

/-- A command whose output is poisoned or refused ends POISONED, unless an access of it waits. -/
theorem runsOrWaits_poisoned {i : Instr} {d : Dev} (hc : x.cacheOp = 0) {m src : Nat} {bf16 : Bool} {out : Marked}
    {bad : Option Nat} {poison : Bool} (hdo : Does i s (d.inpDone x m src bf16 out bad poison))
    (hb : (bad.isSome || poison) = true) : RunsOrWaits i s (fun u => ∀ y ∈ u.queue.infl, y.q = x.q → y.i = x.i →
      y.phase = .ended ∧ y.res.status = .poisoned) := by
  obtain ⟨e, r, he, hr⟩ := Dev.inpDone_poisoned (d := d) hc m src bf16 out hb
  rw [he] at hdo
  refine ⟨_, hdo, fun _ y hy hq hi => ?_⟩
  obtain ⟨hphase, hres⟩ := Dev.finish_ended hy hq hi
  exact ⟨hphase, by rw [hres, hr]⟩

end Media

/-- Settles O15, by what the descriptor and the accesses of the command come to. -/
theorem warpAndScanWriteTheirOutput : Obligations.WarpAndScanWriteTheirOutput := by
  unfold Obligations.WarpAndScanWriteTheirOutput
  intro s c x t par p k g wacc sacc wd sd mesh taps rd out w tb ws v f w1 w2 w3 w4 poisoned
  refine ⟨fun h hc => ⟨fun hd => ?warpAbort, fun hd hmesh htaps hout hw => ?warpDone, fun hd hbad => ?warpPoisoned⟩,
    fun h hc => ⟨fun hd => ?scanAbort, fun hd htb hws h1 h2 h3 h4 => ?scanDone, fun hd hbad => ?scanPoisoned⟩⟩
  case warpAbort =>
    have hdo := does_warp h hc
    rwa [Dev.warp_of_no_desc (Prod.ext hd rfl)] at hdo
  case warpDone =>
    have hsrc : taps.find? (fun a => (rd.1.1.at a).2) = none := by simpa using htaps
    have hend : s.dev.warp x = (w.2.add64 (rInpWarpPixelsLo k.1.1) (t.dw * t.dh)).inpDone x k.1.1 k.1.2 (t.ofmt = .bf16) out
      (first mesh.1.bad (first (taps.find? (fun a => (rd.1.1.at a).2)) w.1)) (out.any (·.2)) :=
        Dev.warp_of_desc (Prod.ext hd rfl)
    rw [hmesh, hsrc, hw, hout] at hend
    have hdo := does_warp h hc
    rwa [hend.trans (Dev.inpDone_clean hc _ _ _ _)] at hdo
  case warpPoisoned =>
    have hdo := does_warp h hc
    rw [Dev.warp_of_desc (Prod.ext hd rfl)] at hdo
    refine runsOrWaits_poisoned hc hdo ?_
    show ((first mesh.1.bad (first (taps.find? (fun a => (rd.1.1.at a).2)) w.1)).isSome || out.any (·.2)) = true
    simp only [first_isSome, Bool.or_eq_true]
    tauto
  case scanAbort =>
    have hdo := does_scan h hc
    rwa [Dev.scan_of_no_desc (Prod.ext hd rfl)] at hdo
  case scanDone =>
    have hclean : (tb.1.bad.isSome || ws.1.bad.isSome) = false := by rw [htb, hws]; rfl
    obtain ⟨bytes, hrun⟩ : ∃ bytes, sd.2.scanRun g.1.1 sacc p =
        ((bytes, first tb.1.bad (first ws.1.bad (first w1.1 (first w2.1 (first w3.1 w4.1)))), false),
          w4.2.add64 (rInpScanReturnsLo g.1.1) p.count) := by
      unfold Dev.scanRun
      extract_lets words scanned mark
      have hmark : mark = false := hclean
      clear_value mark
      subst hmark
      exact ⟨_, rfl⟩
    rw [htb, hws, h1, h2, h3, h4] at hrun
    have hend : s.dev.scan x = (w4.2.add64 (rInpScanReturnsLo g.1.1) p.count).inpDone x g.1.1 g.1.2 false bytes none false := by
      rw [Dev.scan_of_desc (Prod.ext hd rfl)]
      exact congrArg (fun r => r.2.inpDone x g.1.1 g.1.2 false r.1.1 r.1.2.1 r.1.2.2) hrun
    have hdo := does_scan h hc
    rwa [hend, Dev.inpDone_clean hc] at hdo
  case scanPoisoned =>
    have hdo := does_scan h hc
    rw [Dev.scan_of_desc (Prod.ext hd rfl)] at hdo
    refine runsOrWaits_poisoned hc hdo ?_
    show (_ || (tb.1.bad.isSome || ws.1.bad.isSome)) = true
    simp [hbad]

end Sys2Proof.Proofs

/-! Proofs of the family 04_cores_and_tensor_instructions: scalar accesses (R89), fetches (R89, R90, R95, R96), system
instructions, launches and exceptions (R87, R88, R114), the issue of tensor instructions (R91 to R113), pipes and TSYNC (R93,
R110, R112), and the fences of cores and dies (R118, R134, R303, R304). First the laws of cores and launches, then for each
obligation the laws it needs and its proof. -/

namespace Sys2Proof.Machine

/-! ### A core's state -/

@[simp] theorem Dev.core_setCore_same (d : Dev) (c : Nat) (k : CoreSt) : (d.setCore c k).core c = k := sget_sset_same _ _ _ _

theorem Dev.core_setCore_ne (d : Dev) {b c : Nat} (k : CoreSt) (h : b ≠ c) : (d.setCore c k).core b = d.core b :=
  sget_sset_ne _ _ _ h

@[simp] theorem Dev.core_updCore_same (d : Dev) (c : Nat) (f : CoreSt → CoreSt) : (d.updCore c f).core c = f (d.core c) :=
  Dev.core_setCore_same _ _ _

@[simp] theorem Dev.core_refresh (d : Dev) (c : Nat) : d.refresh.core c = d.core c := rfl
@[simp] theorem Dev.launch?_refresh (d : Dev) (k : Nat) : d.refresh.launch? k = d.launch? k := rfl
@[simp] theorem Dev.core_wr (d : Dev) (off : Nat) (v : Word) (c : Nat) : (d.wr off v).core c = d.core c := rfl
@[simp] theorem Dev.launch?_wr (d : Dev) (off : Nat) (v : Word) (k : Nat) : (d.wr off v).launch? k = d.launch? k := rfl
@[simp] theorem Dev.core_setCoreState (d : Dev) (c v b : Nat) : (d.setCoreState c v).core b = d.core b := rfl
@[simp] theorem Dev.launch?_setCoreState (d : Dev) (c v k : Nat) : (d.setCoreState c v).launch? k = d.launch? k := rfl
@[simp] theorem Dev.launch?_setCore (d : Dev) (c : Nat) (s : CoreSt) (k : Nat) : (d.setCore c s).launch? k = d.launch? k := rfl

/-- Setting a core writes its CORE_STATUS alone among the registers. -/
theorem Dev.rd_setCore (d : Dev) {c off : Nat} (k : CoreSt) (h : off ≠ rCoreStatus c) : (d.setCore c k).rd off = d.rd off :=
  Dev.rd_wr_ne _ _ h

theorem Dev.rd_setCoreState (d : Dev) {c off : Nat} (v : Nat) (h : off ≠ rCoreStatus c) : (d.setCoreState c v).rd off = d.rd off :=
  Dev.rd_wr_ne _ _ h

theorem rCoreStatus_inj {b c : Nat} : rCoreStatus b = rCoreStatus c ↔ b = c := by unfold rCoreStatus; omega

/-- PIPES and SBUSE follow the scoreboard and leave STATE as it was. -/
@[simp] theorem Dev.coreState_setCore (d : Dev) (c b : Nat) (k : CoreSt) : (d.setCore c k).coreState b = d.coreState b := by
  unfold Dev.coreState Dev.rdFld
  by_cases h : b = c
  · subst h
    refine (congrArg (fld 2 0) (Dev.rd_wr_same _ _ _)).trans ?_
    rw [fld_setFld_ne _ _ _ _ _ _ (by omega), fld_setFld_ne _ _ _ _ _ _ (by omega)]
    rfl
  · rw [Dev.rd_setCore _ _ (mt rCoreStatus_inj.mp h)]

theorem Dev.coreState_setCoreState_same (d : Dev) (c : Nat) {v : Nat} (h : v < 8) : (d.setCoreState c v).coreState c = v := by
  unfold Dev.coreState Dev.rdFld Dev.setCoreState Dev.wrFld
  rw [Dev.rd_wr_same, fld_setFld_same _ _ _ _ (by omega)]
  exact Nat.mod_eq_of_lt h

theorem Dev.coreState_setCoreState_ne (d : Dev) {b c : Nat} (v : Nat) (h : b ≠ c) :
    (d.setCoreState c v).coreState b = d.coreState b := by
  unfold Dev.coreState Dev.rdFld
  rw [Dev.rd_setCoreState _ _ (mt rCoreStatus_inj.mp h)]

@[simp] theorem Dev.coreState_refresh (d : Dev) (c : Nat) : d.refresh.coreState c = d.coreState c := by
  unfold Dev.coreState Dev.rdFld
  rw [d.rd_refresh_far (by unfold rCoreStatus; omega)]

/-! ### The launch of a slot -/

theorem find?_sins {β : Type} {k : Nat} {v : β} {m : List (Nat × β)} (h : ∀ e ∈ m, e.1 ≠ k) :
    (sins k v m).find? (·.1 = k) = some (k, v) := by
  induction m with
  | nil => simp [sins]
  | cons e t ih =>
    obtain ⟨j, w⟩ := e
    have hj : j ≠ k := h (j, w) (by simp)
    unfold sins
    split
    · simp
    · simp [hj, ih (fun e he => h e (by simp [he]))]

/-- The entry that was put at a key is the one found there. -/
theorem find?_sput_same {β : Type} (k : Nat) (v : β) (m : List (Nat × β)) :
    (sput k (some v) m).find? (·.1 = k) = some (k, v) :=
  find?_sins (fun e he => by simpa [sdel] using (List.mem_filter.mp he).2)

/-- A launch's registers follow it: the registers of its slot, and LASTOUT of its command. -/
theorem Dev.slotStat_eq (d : Dev) (k : Nat) :
    d.slotStat k = { d with regs := (d.slotStat k).regs, queue := (d.slotStat k).queue } := by
  unfold Dev.slotStat
  split
  · rfl
  · extract_lets held out w w1 last d1 d2 d3 d4 listed d5
    split <;> rfl

theorem Dev.setLaunch_eq (d : Dev) (k : Nat) (l : LaunchSt) : d.setLaunch k l =
    { d with regs := (d.setLaunch k l).regs, queue := (d.setLaunch k l).queue, launches := sput k (some l) d.launches } := by
  unfold Dev.setLaunch
  rw [Dev.slotStat_eq]

@[simp] theorem Dev.launch?_slotStat (d : Dev) (k j : Nat) : (d.slotStat k).launch? j = d.launch? j := by
  rw [Dev.slotStat_eq]; rfl

@[simp] theorem Dev.core_slotStat (d : Dev) (k c : Nat) : (d.slotStat k).core c = d.core c := by
  rw [Dev.slotStat_eq]; rfl

@[simp] theorem Dev.core_setLaunch (d : Dev) (k c : Nat) (l : LaunchSt) : (d.setLaunch k l).core c = d.core c := by
  rw [Dev.setLaunch_eq]; rfl

@[simp] theorem Dev.launch?_setLaunch_same (d : Dev) (k : Nat) (l : LaunchSt) : (d.setLaunch k l).launch? k = some l := by
  rw [Dev.setLaunch_eq]
  exact congrArg (Option.map (·.2)) (find?_sput_same k l d.launches)

theorem Dev.updLaunch_of_some {d : Dev} {k : Nat} {l : LaunchSt} (h : d.launch? k = some l) (f : LaunchSt → LaunchSt) :
    d.updLaunch k f = d.setLaunch k (f l) := by unfold Dev.updLaunch; rw [h]

@[simp] theorem Dev.core_updLaunch (d : Dev) (k c : Nat) (f : LaunchSt → LaunchSt) : (d.updLaunch k f).core c = d.core c := by
  unfold Dev.updLaunch
  split
  · exact Dev.core_setLaunch _ _ _ _
  · rfl

/-! ### The books of the tile sequencers -/

/-- A register of the tile sequencers' block. -/
def tsqReg (off : Nat) : Prop := 0x3000000 ≤ off ∧ off < 0x4000000

/-- From `d` to `t` only the tile sequencers keep their books: registers of their block, launches and the results of commands
change, and a core is as it was or has left its launch. -/
structure Books (d t : Dev) : Prop where
  rd : ∀ off, ¬tsqReg off → t.rd off = d.rd off
  mem : t.mem = d.mem
  tier : t.tier = d.tier
  core : ∀ c, t.core c = d.core c ∨ t.core c = { d.core c with launch := none, held := [] }

theorem Books.refl (d : Dev) : Books d d := ⟨fun _ _ => rfl, rfl, rfl, fun _ => .inl rfl⟩

theorem Books.trans {a b c : Dev} (h : Books a b) (k : Books b c) : Books a c := by
  refine ⟨fun off ho => (k.rd off ho).trans (h.rd off ho), k.mem.trans h.mem, k.tier.trans h.tier, fun i => ?_⟩
  obtain hb | hb := h.core i <;> obtain hc | hc := k.core i <;> simp [hc, hb]

/-- A core outside every launch and holding no tile is as it was. -/
theorem Books.core_of_free {d t : Dev} (h : Books d t) {c : Nat} (hl : (d.core c).launch = none) (hh : (d.core c).held = []) :
    t.core c = d.core c := by
  obtain hc | hc := h.core c
  · exact hc
  · rw [hc, ← hl, ← hh]

theorem Books.coreState {d t : Dev} (h : Books d t) (c : Nat) : t.coreState c = d.coreState c := by
  unfold Dev.coreState Dev.rdFld
  rw [h.rd _ (by unfold tsqReg rCoreStatus; omega)]

theorem tsqReg_slot (k : Nat) {off : Nat} (h : off < 0x1000) : tsqReg (slotReg k off) := by
  have hh : hubOf k < 2 := Nat.mod_lt _ (by decide)
  have hk : k % 256 < 256 := Nat.mod_lt _ (by decide)
  unfold tsqReg slotReg rTsqLState
  omega

theorem books_wr {off : Nat} (h : tsqReg off) (d : Dev) (v : Word) : Books d (d.wr off v) :=
  ⟨fun k hk => d.rd_wr_ne v (by rintro rfl; exact hk h), rfl, rfl, fun _ => .inl rfl⟩

theorem books_wrFld {off : Nat} (h : tsqReg off) (d : Dev) (a b v : Nat) : Books d (d.wrFld off a b v) := books_wr h d _

theorem books_setCmd (d : Dev) (q : Nat) (i : Word) (f : Inflight → Inflight) : Books d (d.setCmd q i f) :=
  ⟨fun _ _ => rfl, rfl, rfl, fun _ => .inl rfl⟩

/-- A change of the launches alone. -/
theorem books_launches (d : Dev) (m : List (Nat × LaunchSt)) : Books d { d with launches := m } :=
  ⟨fun _ _ => rfl, rfl, rfl, fun _ => .inl rfl⟩

theorem books_wr64 {off : Nat} (h : tsqReg off) (h4 : tsqReg (off + 4)) (d : Dev) (v : Nat) : Books d (d.wr64 off v) :=
  (books_wr h d _).trans (books_wr h4 _ _)

theorem books_add64 {off : Nat} (h : tsqReg off) (h4 : tsqReg (off + 4)) (d : Dev) (n : Nat) : Books d (d.add64 off n) := by
  unfold Dev.add64
  split
  · exact .refl d
  · exact books_wr64 h h4 d _

theorem books_slotStat (d : Dev) (k : Nat) : Books d (d.slotStat k) := by
  unfold Dev.slotStat
  split
  · exact .refl d
  · extract_lets held out w w1 last d1 d2 d3 d4 listed d5
    have hs (off : Nat) (ho : off < 0x1000 := by decide) := tsqReg_slot k ho
    have h : Books d d5 := (((((books_wr (hs 0) d _).trans (books_wr (hs 0x20) _ _)).trans (books_wr (hs 0x24) _ _)).trans
      (books_wrFld (hs 0x28) _ _ _ _)).trans (books_wr (hs 0x2C) _ _))
    split
    · exact h.trans (books_setCmd _ _ _ _)
    · exact h

theorem books_setLaunch (d : Dev) (k : Nat) (l : LaunchSt) : Books d (d.setLaunch k l) :=
  (books_launches d _).trans (books_slotStat _ k)

theorem books_updLaunch (d : Dev) (k : Nat) (f : LaunchSt → LaunchSt) : Books d (d.updLaunch k f) := by
  unfold Dev.updLaunch
  split
  · exact books_setLaunch _ _ _
  · exact .refl d

/-- What a map holds after some of its entries were changed in a way that leaves the default alone. -/
theorem sget_mapIf {β : Type} (dflt : β) (p : β → Bool) (g : β → β) (hd : p dflt = false) (m : List (Nat × β)) (c : Nat) :
    sget (fun _ => dflt) (mapIf (fun e => p e.2) (fun e => (e.1, g e.2)) m) c =
      if p (sget (fun _ => dflt) m c) then g (sget (fun _ => dflt) m c) else sget (fun _ => dflt) m c := by
  induction m with
  | nil => simp [mapIf, sget, hd]
  | cons e t ih =>
    obtain ⟨j, v⟩ := e
    unfold mapIf at ih ⊢
    by_cases hp : p v = true <;> by_cases hc : c = j <;> simp [sget, hp, hc, ih]

/-- The cores of a launch whose slot is freed have left it. -/
theorem Dev.core_freeSlot (d : Dev) (k c : Nat) : (d.freeSlot k).core c =
    if (d.core c).launch = some k then { d.core c with launch := none, held := [] } else d.core c := by
  refine (sget_mapIf CoreSt.reset (fun s => s.launch = some k) (fun s => { s with launch := none, held := [] }) rfl d.cores c).trans ?_
  by_cases h : (d.core c).launch = some k
  · rw [if_pos h]
    exact if_pos (decide_eq_true h)
  · rw [if_neg h]
    exact if_neg (ne_true_of_eq_false (decide_eq_false h))

theorem books_freeSlot (d : Dev) (k : Nat) : Books d (d.freeSlot k) := by
  have hs := tsqReg_slot k (off := 0) (by decide)
  have hh : hubOf k < 2 := Nat.mod_lt _ (by decide)
  have hq : tsqReg (rTsqStatus (hubOf k)) := by unfold tsqReg rTsqStatus; omega
  refine ⟨fun off ho => ?_, rfl, rfl, fun c => ?_⟩
  · unfold Dev.freeSlot Dev.tsqCount
    dsimp only
    rw [Dev.rd_wrFld, if_neg (by rintro rfl; exact ho hq), Dev.rd_wr_ne _ _ (by rintro rfl; exact ho hs)]
    rfl
  · rw [Dev.core_freeSlot]
    split
    · exact .inr rfl
    · exact .inl rfl

/-- The end of a launch, or the wait for it. -/
theorem books_launchDone (d : Dev) (k : Nat) : Books d (d.launchDone k) := by
  unfold Dev.launchDone
  split
  · exact .refl d
  · extract_lets live prog fin
    have hfin (r : Result) : Books d (fin r) := by
      unfold fin
      split
      · exact (books_setCmd _ _ _ _).trans (books_freeSlot _ _)
      · exact books_freeSlot _ _
    clear_value fin
    split
    · exact .refl d
    · split
      · exact hfin _
      · split
        · exact hfin _
        · split
          · exact .refl d
          · split
            · exact hfin _
            · split <;> exact hfin _

/-! ### Exceptions and the end of a core's part (R113, R114) -/

section Raise

variable {d : Dev} {c : Nat} (h : (d.core c).wait = .run) (cause pipe dreg : Nat) (precise : Bool) (pc : Nat)
include h

/-- The exception of a core that waits for nothing stops it and is noted in its launch. -/
theorem Dev.books_raiseExc : Books (d.setCore c { d.core c with wait := .stopped ⟨cause, pipe, dreg, precise, pc, d.now⟩ })
    (d.raiseExc c cause pipe dreg precise pc) := by
  unfold Dev.raiseExc
  simp only [h]
  split
  · exact .refl _
  · exact books_updLaunch _ _ _

theorem Dev.core_raiseExc : (d.raiseExc c cause pipe dreg precise pc).core c =
    { d.core c with wait := .stopped ⟨cause, pipe, dreg, precise, pc, d.now⟩ } := by
  unfold Dev.raiseExc
  simp only [h]
  split <;> simp

/-- Its launch hands no more tiles. -/
theorem Dev.raiseExc_stops {n : Nat} (hn : (d.core c).launch = some n) {l : LaunchSt} (hl : d.launch? n = some l) :
    ∃ l', (d.raiseExc c cause pipe dreg precise pc).launch? n = some l' ∧ l'.stop = true := by
  unfold Dev.raiseExc
  simp only [h, hn]
  rw [Dev.updLaunch_of_some ((Dev.launch?_setCore _ _ _ _).trans hl), Dev.launch?_setLaunch_same]
  exact ⟨_, rfl, rfl⟩

end Raise

/-- A core that issues waits for nothing, runs a launch and is RUNNING. -/
theorem Dev.issuing_iff {d : Dev} {c : Nat} :
    d.issuing c = true ↔ (d.core c).launch.isSome = true ∧ (d.core c).wait = .run ∧ d.coreState c = 2 := by
  simp [Dev.issuing, and_assoc]

/-- A core leaves its launch: its flags are gathered, it is free, and IDLE if it was RUNNING. -/
def Dev.leavePart (d : Dev) (c : Nat) : Dev :=
  let t := (d.wr (rCoreFlags c) (d.rd (rCoreFlags c) ||| (d.core c).tflags)).setCore c
    { d.core c with launch := none, held := [], wait := .run }
  if t.coreState c = 2 then t.setCoreState c 1 else t

section LeavePart

variable (d : Dev) (c : Nat)

/-- The end of a core's part is the core's leaving and its launch's books. -/
theorem Dev.books_endPart {k : Nat} (h : (d.core c).launch = some k) : Books (d.leavePart c) (d.endPart c) := by
  unfold Dev.endPart
  simp only [h]
  exact (books_updLaunch _ _ _).trans (books_launchDone _ _)

@[simp] theorem Dev.core_leavePart : (d.leavePart c).core c = { d.core c with launch := none, held := [], wait := .run } := by
  unfold Dev.leavePart
  dsimp only
  split <;> simp

theorem Dev.core_endPart {k : Nat} (h : (d.core c).launch = some k) :
    (d.endPart c).core c = { d.core c with launch := none, held := [], wait := .run } := by
  rw [(d.books_endPart c h).core_of_free (by simp) (by simp), Dev.core_leavePart]

@[simp] theorem Dev.tier_leavePart : (d.leavePart c).tier = d.tier := by
  unfold Dev.leavePart
  dsimp only
  split <;> rfl

theorem rCoreFlags_ne_status (b : Nat) : rCoreStatus b ≠ rCoreFlags c := by unfold rCoreFlags rCoreStatus; omega

/-- CORE_STATUS.STATE is changed by writes of its own register alone. -/
theorem Dev.coreState_wr {off : Nat} (v : Word) (h : rCoreStatus c ≠ off) : (d.wr off v).coreState c = d.coreState c := by
  unfold Dev.coreState Dev.rdFld
  rw [Dev.rd_wr_ne _ _ h]

theorem Dev.coreState_leavePart : (d.leavePart c).coreState c = if d.coreState c = 2 then 1 else d.coreState c := by
  unfold Dev.leavePart
  dsimp only
  have hstate (k : CoreSt) (v : Word) : ((d.wr (rCoreFlags c) v).setCore c k).coreState c = d.coreState c := by
    rw [Dev.coreState_setCore, Dev.coreState_wr _ _ _ (rCoreFlags_ne_status c c)]
  rw [hstate]
  split
  · exact Dev.coreState_setCoreState_same _ _ (by decide)
  · exact hstate _ _

theorem Dev.rd_leavePart {off : Nat} (h : off ≠ rCoreStatus c) : (d.leavePart c).rd off =
    (d.wr (rCoreFlags c) (d.rd (rCoreFlags c) ||| (d.core c).tflags)).rd off := by
  unfold Dev.leavePart
  dsimp only
  split
  · rw [Dev.rd_setCoreState _ _ h, Dev.rd_setCore _ _ h]
  · rw [Dev.rd_setCore _ _ h]

section EndPart

variable {k : Nat} (h : (d.core c).launch = some k)
include h

theorem Dev.tier_endPart : (d.endPart c).tier = d.tier := by rw [(d.books_endPart c h).tier, Dev.tier_leavePart]

theorem Dev.coreState_endPart : (d.endPart c).coreState c = if d.coreState c = 2 then 1 else d.coreState c := by
  rw [(d.books_endPart c h).coreState, Dev.coreState_leavePart]

/-- CORE_FLAGS gathers the core's flags. -/
theorem Dev.rd_endPart_flags : (d.endPart c).rd (rCoreFlags c) = d.rd (rCoreFlags c) ||| (d.core c).tflags := by
  rw [(d.books_endPart c h).rd _ (by unfold tsqReg rCoreFlags; omega), Dev.rd_leavePart _ _ (rCoreFlags_ne_status c c).symm,
    Dev.rd_wr_same]

/-- Every other register but CORE_STATUS and those of the tile sequencers is as it was. -/
theorem Dev.rd_endPart {off : Nat} (ht : ¬tsqReg off) (hs : off ≠ rCoreStatus c) (hf : off ≠ rCoreFlags c) :
    (d.endPart c).rd off = d.rd off := by
  rw [(d.books_endPart c h).rd _ ht, Dev.rd_leavePart _ _ hs, Dev.rd_wr_ne _ _ hf]

end EndPart

end LeavePart

end Sys2Proof.Machine

namespace Sys2Proof.Machine

section ScalarArms

variable (s : State) (c : Fin 1536)

theorem exec_scalarLoad (rd : Fin 32) (a : DWord) (z : MemSize) (sg : Bool) : exec (.scalarLoad c rd a z sg) s =
    State.run (fun d => d.scalarLoad c rd a.toNat z.bytes sg 4) s := rfl

theorem exec_scalarStore (a : DWord) (z : MemSize) (v : DWord) : exec (.scalarStore c a z v) s =
    State.run (fun d => d.scalarStore c a.toNat z.bytes v.toNat 4) s := rfl

theorem exec_atomic (op : AmoOp) (rd : Fin 32) (a : DWord) (dbl : Bool) (v : DWord) : exec (.atomic c op rd a dbl v) s =
    State.run (fun d => d.atomic c op rd a.toNat (if dbl then 8 else 4) v.toNat) s := rfl

end ScalarArms

/-- A core's number as an origin. -/
theorem finOfNat_core (c : Fin 1536) : Fin.ofNat 1536 c.val = c := Fin.ext (Nat.mod_eq_of_lt c.isLt)

section Scalar

variable {d : Dev} {c a n : Nat} (h : d.issuing c = true)
include h

theorem Dev.scalarLoad_misaligned (ha : a % n ≠ 0) (rd : Nat) (sg : Bool) (len : Nat) :
    d.scalarLoad c rd a n sg len = d.scalarExc c 0x10 := by simp [Dev.scalarLoad, h, ha]

theorem Dev.scalarStore_misaligned (ha : a % n ≠ 0) (v len : Nat) : d.scalarStore c a n v len = d.scalarExc c 0x10 := by
  simp [Dev.scalarStore, h, ha]

theorem Dev.scalarLoad_stalls (ha : a % n = 0) (hs : d.scalarStalls c a false = true) (rd : Nat) (sg : Bool) (len : Nat) :
    d.scalarLoad c rd a n sg len = d := by simp [Dev.scalarLoad, h, ha, hs]

theorem Dev.scalarStore_stalls (ha : a % n = 0) (hs : d.scalarStalls c a true = true) (v len : Nat) :
    d.scalarStore c a n v len = d := by simp [Dev.scalarStore, h, ha, hs]

/-- A load that goes on reads: clean bytes go to the register, poison or a refusal raises SCALAR_POISON. -/
theorem Dev.scalarLoad_reads (ha : a % n = 0) (hs : d.scalarStalls c a false = false) (rd : Nat) (sg : Bool) (len : Nat) :
    d.scalarLoad c rd a n sg len =
      if (d.scalarRead c a n).1.any (·.2) then (d.scalarRead c a n).2.scalarPoison c a
      else ((d.scalarRead c a n).2.updCore c (fun k => k.wx rd (widen n (ofLe ((d.scalarRead c a n).1.map (·.1))) sg))).advance c len := by
  simp [Dev.scalarLoad, h, ha, hs]

theorem Dev.scalarStore_writes (ha : a % n = 0) (hs : d.scalarStalls c a true = false) (hr : inRegs a = false) (v len : Nat) :
    d.scalarStore c a n v len = (d.scalarWrite c a (leBytes n v)).advance c len := by
  simp [Dev.scalarStore, h, ha, hs, hr]

/-- An atomic outside the core's own Pocket and Gallery, or misaligned, raises SCALAR. -/
theorem Dev.atomic_outside
    (ha : a % n ≠ 0 ∨ (¬(pocketAddr c 0 ≤ a ∧ a < pocketAddr c 0x180000) ∧ isGallery a = false)) (op : AmoOp) (rd v : Nat) :
    d.atomic c op rd a n v = d.scalarExc c 0x10 := by
  have hout : (a % n ≠ 0 || !(decide (pocketAddr c 0 ≤ a) && decide (a < pocketAddr c 0x180000) || isGallery a)) = true := by
    obtain ha | ⟨hown, hgal⟩ := ha
    · simp [ha]
    · simp [hgal, -not_and, Decidable.not_and_iff_or_not] at hown ⊢
      tauto
  simp only [Dev.atomic, h, Bool.not_true, Bool.false_eq_true, if_false]
  exact if_pos hout

end Scalar

/-- An aligned atomic where atomics act: SC looks at the reservation alone, the others read first. -/
theorem Dev.atomic_acts {d : Dev} {c : Fin 1536} {a n : Nat} (h : d.issuing c = true) (ha : a % n = 0)
    (hin : (pocketAddr c 0 ≤ a ∧ a < pocketAddr c 0x180000) ∨ isGallery a = true) (hs : d.scalarStalls c a true = false)
    (op : AmoOp) (rd v : Nat) : d.atomic c op rd a n v =
      let r := d.readMem (d.accOf (.core c)) a n
      let old := ofLe r.1.bytes
      let put (d : Dev) (x : DWord) : Dev := (d.updCore c (fun k => k.wx rd x)).advance c 4
      let free := d.updCore c (fun k => { k with resv := none })
      if op = .sc then
        if (d.core c).resv = some a then put (free.scalarWrite c a (leBytes n (v % 2 ^ (8 * n)))) 0 else put free 1
      else if r.1.bad.isSome then r.2.scalarPoison c a
      else if op = .lr then put (r.2.updCore c (fun k => { k with resv := some a })) (widen n old true)
      else put (r.2.scalarWrite c a (leBytes n (amo op (8 * n) old (v % 2 ^ (8 * n))))) (widen n old true) := by
  have hacts : (a % n ≠ 0 || !(decide (pocketAddr c 0 ≤ a) && decide (a < pocketAddr c 0x180000) || isGallery a)) = false := by
    obtain ⟨h1, h2⟩ | hg := hin
    · simp [ha, h1, h2]
    · simp [ha, hg]
  simp only [Dev.atomic, h, hs, finOfNat_core, Bool.not_true, Bool.false_eq_true, if_false]
  exact if_neg (ne_true_of_eq_false hacts)

end Sys2Proof.Machine

namespace Sys2Proof.Proofs
open Sys2Proof.Machine Sys2Proof.Safety

/-- Settles O17, case by case of each access. -/
theorem scalarAccessesReadAndWrite : Obligations.ScalarAccessesReadAndWrite := by
  unfold Obligations.ScalarAccessesReadAndWrite
  intro s c rd a v z sg dbl op n m r g old w put exc own free h
  refine ⟨fun ha => ⟨?_, ?_⟩, fun ha hs => ?_, fun ha hs => ?_, fun ha hs => ⟨fun hr => ?_, fun hr => ?_⟩, fun ha hs hr => ?_,
    fun ha => ?_, fun ha hin hs => ?atomics⟩
  · exact does_of_run (exec_scalarLoad ..) (Dev.scalarLoad_misaligned h ha ..)
  · exact does_of_run (exec_scalarStore ..) (Dev.scalarStore_misaligned h ha ..)
  · exact does_of_run (exec_scalarLoad ..) (Dev.scalarLoad_stalls h ha hs ..)
  · exact does_of_run (exec_scalarStore ..) (Dev.scalarStore_stalls h ha hs ..)
  · exact does_of_run (exec_scalarLoad ..) ((Dev.scalarLoad_reads h ha hs ..).trans (if_neg (ne_true_of_eq_false hr)))
  · exact does_of_run (exec_scalarLoad ..) ((Dev.scalarLoad_reads h ha hs ..).trans (if_pos hr))
  · exact does_of_run (exec_scalarStore ..) (Dev.scalarStore_writes h ha hs hr ..)
  · exact does_of_run (exec_atomic ..) (Dev.atomic_outside h ha ..)
  case atomics =>
    have hacts (op : AmoOp) := does_of_run (exec_atomic s c op rd a dbl v) (Dev.atomic_acts h ha hin hs op rd v.toNat)
    refine ⟨fun hv => ?_, fun hv => ?_, fun hg => ⟨?_, fun hlr hsc => ?_⟩, fun hg hsc => ?_⟩
    · simpa only [if_true, if_pos hv] using hacts .sc
    · simpa only [if_true, if_neg hv] using hacts .sc
    · simpa [g, hg] using hacts .lr
    · simpa [g, hlr, hsc, hg] using hacts op
    · simpa [g, hsc, hg] using hacts op

end Sys2Proof.Proofs

namespace Sys2Proof.Machine

/-! ### Instruction fetches -/

theorem exec_instructionFetch (c : Fin 1536) (s : State) : exec (.instructionFetch c) s = State.run (fun d => d.instrFetch c) s := rfl

section Fetch

variable {d : Dev} {c : Nat} (h : d.issuing c = true)
include h

/-- A poisoned or refused first parcel raises SCALAR_POISON, one outside the mapped memories SCALAR. -/
theorem Dev.instrFetch_first_poisoned (hlo : (d.fetchParcel c (d.core c).pc).1.1 = 0x11) :
    d.instrFetch c = (d.fetchParcel c (d.core c).pc).2.scalarPoison c (d.core c).pc := by simp [Dev.instrFetch, h, hlo]

theorem Dev.instrFetch_first_outside (hlo : (d.fetchParcel c (d.core c).pc).1.1 = 0x10) :
    d.instrFetch c = (d.fetchParcel c (d.core c).pc).2.scalarExc c 0x10 := by simp [Dev.instrFetch, h, hlo]

variable (hlo : (d.fetchParcel c (d.core c).pc).1.1 = 0)
include hlo

section Long

variable (h3 : (d.fetchParcel c (d.core c).pc).1.2 % 4 = 3)
include h3

/-- So does the second parcel. -/
theorem Dev.instrFetch_second_poisoned
    (hhi : ((d.fetchParcel c (d.core c).pc).2.fetchParcel c ((d.core c).pc + 2)).1.1 = 0x11) :
    d.instrFetch c = ((d.fetchParcel c (d.core c).pc).2.fetchParcel c ((d.core c).pc + 2)).2.scalarPoison c (d.core c).pc := by
  simp [Dev.instrFetch, h, hlo, h3, hhi]

theorem Dev.instrFetch_second_outside
    (hhi : ((d.fetchParcel c (d.core c).pc).2.fetchParcel c ((d.core c).pc + 2)).1.1 = 0x10) :
    d.instrFetch c = ((d.fetchParcel c (d.core c).pc).2.fetchParcel c ((d.core c).pc + 2)).2.scalarExc c 0x10 := by
  simp [Dev.instrFetch, h, hlo, h3, hhi]

/-- A clean instruction of two parcels is executed. -/
theorem Dev.instrFetch_long
    (hhi : ((d.fetchParcel c (d.core c).pc).2.fetchParcel c ((d.core c).pc + 2)).1.1 = 0) :
    d.instrFetch c =
      let hi := (d.fetchParcel c (d.core c).pc).2.fetchParcel c ((d.core c).pc + 2)
      hi.2.rvExec c ((d.fetchParcel c (d.core c).pc).1.2 + hi.1.2 * 65536) 4 := by
  simp [Dev.instrFetch, h, hlo, h3, hhi]

end Long

variable (h3 : (d.fetchParcel c (d.core c).pc).1.2 % 4 ≠ 3)
include h3

/-- A clean instruction of one parcel is expanded and executed. -/
theorem Dev.instrFetch_short {w : Nat} (hw : rvcExpand (d.fetchParcel c (d.core c).pc).1.2 = some w) :
    d.instrFetch c = (d.fetchParcel c (d.core c).pc).2.rvExec c w 2 := by
  simp [Dev.instrFetch, h, hlo, h3, hw]

/-- A parcel that stands for no instruction raises SCALAR. -/
theorem Dev.instrFetch_no_instruction (hw : rvcExpand (d.fetchParcel c (d.core c).pc).1.2 = none) :
    d.instrFetch c = (d.fetchParcel c (d.core c).pc).2.scalarExc c 0x10 := by
  simp [Dev.instrFetch, h, hlo, h3, hw]

end Fetch

/-! ### Execution: an equation for each opcode -/

section Exec

variable {d : Dev} {c w len : Nat}

/-- The result `v` goes to `rd` and the core goes on. -/
abbrev Dev.putRd (d : Dev) (c w len : Nat) (v : DWord) : Dev := (d.updCore c (fun k => k.wx (nfld 11 7 w) v)).advance c len

theorem Dev.rvExec_lui (h : w % 128 = 0x37) : d.rvExec c w len = d.putRd c w len (rvImmU w) := by simp only [Dev.rvExec, h]

theorem Dev.rvExec_jal (h : w % 128 = 0x6F) : d.rvExec c w len =
    (d.updCore c (fun k => k.wx (nfld 11 7 w) (BitVec.ofNat 64 (d.core c).pc + BitVec.ofNat 64 len))).jumpTo c
      (BitVec.ofNat 64 (d.core c).pc + rvImmJ w) := by simp only [Dev.rvExec, h]

theorem Dev.rvExec_opImm (h : w % 128 = 0x13) {v : DWord}
    (hv : rvOpImm w (nfld 14 12 w) ((d.core c).rx (nfld 19 15 w)) = some v) : d.rvExec c w len = d.putRd c w len v := by
  simp only [Dev.rvExec, h, hv]

theorem Dev.rvExec_op (h : w % 128 = 0x33) {v : DWord}
    (hv : rvOp (nfld 31 25 w) (nfld 14 12 w) ((d.core c).rx (nfld 19 15 w)) ((d.core c).rx (nfld 24 20 w)) = some v) :
    d.rvExec c w len = d.putRd c w len v := by simp only [Dev.rvExec, h, hv]

theorem Dev.rvExec_branch (h : w % 128 = 0x63) {b : Bool}
    (hb : rvTaken (nfld 14 12 w) ((d.core c).rx (nfld 19 15 w)) ((d.core c).rx (nfld 24 20 w)) = some b) :
    d.rvExec c w len = if b then d.jumpTo c (BitVec.ofNat 64 (d.core c).pc + rvImmB w) else d.advance c len := by
  cases b <;> simp [Dev.rvExec, h, hb]

theorem Dev.rvExec_load (h : w % 128 = 0x03) (h3 : nfld 14 12 w ≠ 7) : d.rvExec c w len =
    d.scalarLoad c (nfld 11 7 w) ((d.core c).rx (nfld 19 15 w) + rvImmI w).toNat (2 ^ (nfld 14 12 w % 4)) (nfld 14 12 w < 4) len := by
  simp only [Dev.rvExec, h, h3, if_false]

theorem Dev.rvExec_store (h : w % 128 = 0x23) (h3 : nfld 14 12 w < 4) : d.rvExec c w len =
    d.scalarStore c ((d.core c).rx (nfld 19 15 w) + rvImmS w).toNat (2 ^ nfld 14 12 w) ((d.core c).rx (nfld 24 20 w)).toNat len := by
  simp only [Dev.rvExec, h, Nat.not_le.mpr h3, if_false]

theorem Dev.rvExec_unlisted
    (h : w % 128 ∉ [0x03, 0x0B, 0x0F, 0x13, 0x17, 0x1B, 0x23, 0x2B, 0x2F, 0x33, 0x37, 0x3B, 0x5B, 0x63, 0x67, 0x6F, 0x73, 0x7B]) :
    d.rvExec c w len = d.scalarExc c 0x10 := by
  simp only [List.mem_cons, List.not_mem_nil, or_false, not_or] at h
  simp [Dev.rvExec, h]

theorem Dev.rvExec_tensor (h : w % 128 ∈ [0x0B, 0x2B, 0x5B, 0x7B]) : d.rvExec c w len = d.rvTensor c w := by
  simp only [List.mem_cons, List.not_mem_nil, or_false] at h
  obtain h | h | h | h := h <;> simp only [Dev.rvExec, h]

/-- The opcodes to which Table 4-3 gives instructions of pipes. -/
theorem tensorOp_opcode {op f3 : Nat} {t : TOp} (h : tensorOp op f3 = some t) : op ∈ [0x0B, 0x2B, 0x5B, 0x7B] := by
  unfold tensorOp at h
  split at h <;> simp_all

theorem Dev.rvExec_issue {op : TOp} (h : tensorOp (w % 128) (nfld 14 12 w) = some op) : d.rvExec c w len = d.issue c op (rType w) := by
  rw [Dev.rvExec_tensor (tensorOp_opcode h)]
  simp only [Dev.rvTensor, h]

/-- An opcode of pipe instructions alone raises ILLEGAL where the table lists none. -/
theorem Dev.rvExec_pipe_unlisted (h : w % 128 ∈ [0x2B, 0x5B, 0x7B]) (ht : tensorOp (w % 128) (nfld 14 12 w) = none) :
    d.rvExec c w len = d.raiseExc c 1 0 0 true (d.core c).pc := by
  rw [Dev.rvExec_tensor (List.mem_cons_of_mem _ h)]
  simp only [List.mem_cons, List.not_mem_nil, or_false] at h
  have h0B : w % 128 ≠ 0x0B := by omega
  simp [Dev.rvTensor, ht, h0B]

section System

variable (h : w % 128 = 0x73)
include h

theorem Dev.rvExec_csr (hf : nfld 14 12 w ≠ 0) (hf4 : nfld 14 12 w ≠ 4) : d.rvExec c w 4 = d.csrOp c w := by
  simp [Dev.rvExec, h, Dev.rvSystem]

/-- CSRRS with x0 reads the CSR. -/
theorem Dev.rvExec_csr_read (hf : nfld 14 12 w = 2) (h1 : nfld 19 15 w = 0) {v : DWord}
    (hv : d.csrRead c (nfld 31 20 w) = some v) : d.rvExec c w 4 = d.putRd c w 4 v := by
  rw [Dev.rvExec_csr h (by omega) (by omega)]
  simp [Dev.csrOp, hv, hf, h1]

/-- CSRRW of a read-only CSR raises SCALAR. -/
theorem Dev.rvExec_csr_write_readonly (hf : nfld 14 12 w = 1) (hlo : 0xCC0 ≤ nfld 31 20 w) (hhi : nfld 31 20 w ≤ 0xCC3) :
    d.rvExec c w 4 = d.scalarExc c 0x10 := by
  rw [Dev.rvExec_csr h (by omega) (by omega)]
  have hro : ¬nfld 31 20 w ≤ 0x805 := by omega
  cases hcsr : d.csrRead c (nfld 31 20 w) <;> simp [Dev.csrOp, hcsr, hf, hro]

end System

/-! ### TDLD, TDBASE, TDSIZE and TSYNC (Table 4-3, opcode 0x0B) -/

section Custom

variable (h : w % 128 = 0x0B)
include h

theorem Dev.rvExec_custom_unlisted (h4 : 4 ≤ nfld 14 12 w) : d.rvExec c w len = d.raiseExc c 1 0 0 true (d.core c).pc := by
  have h0 : nfld 14 12 w ≠ 0 := by omega
  have h1 : nfld 14 12 w ≠ 1 := by omega
  have h2 : nfld 14 12 w ≠ 2 := by omega
  have h3 : nfld 14 12 w ≠ 3 := by omega
  rw [Dev.rvExec_tensor (by simp [h])]
  simp [Dev.rvTensor, h, tensorOp, h0, h1, h2, h3]

theorem Dev.rvExec_desc (hf : nfld 14 12 w = 2) : d.rvExec c w len = d.rvDesc c w := by
  rw [Dev.rvExec_tensor (by simp [h])]
  simp [Dev.rvTensor, h, hf, tensorOp]

theorem Dev.rvExec_tsync (hf : nfld 14 12 w = 3) : d.rvExec c w len = d.rvTsync c w := by
  rw [Dev.rvExec_tensor (by simp [h])]
  simp [Dev.rvTensor, h, hf, tensorOp]

end Custom

end Exec

/-- Bits 31 to 28 and bits 27 to 25 are the parts of FUNCT7. -/
theorem nfld_funct7_high (w : Nat) : nfld 31 28 w = nfld 31 25 w / 8 := by unfold nfld; omega

theorem nfld_funct7_low (w : Nat) : nfld 27 25 w = nfld 31 25 w % 8 := by unfold nfld; omega

section Desc

variable {d : Dev} {c w : Nat}

/-- A field that must be 0 and is not, or a FUNCT7 that Table 4-3 does not list. -/
theorem Dev.rvDesc_illegal (h : nfld 24 20 w ≠ 0 ∨ 24 ≤ nfld 31 25 w) :
    d.rvDesc c w = d.raiseExc c 1 0 (nfld 11 7 w) true (d.core c).pc := by
  unfold Dev.rvDesc
  simp only [nfld_funct7_high]
  by_cases h2 : nfld 24 20 w = 0
  · have hf : 24 ≤ nfld 31 25 w := h.resolve_left (not_not.mpr h2)
    have hf0 : nfld 31 25 w / 8 ≠ 0 := by omega
    have hf1 : nfld 31 25 w / 8 ≠ 1 := by omega
    have hf2 : nfld 31 25 w / 8 ≠ 2 := by omega
    simp [h2]
  · simp [h2]

variable (h2 : nfld 24 20 w = 0)
include h2

theorem Dev.rvDesc_tdld (hf : nfld 31 25 w = 0) :
    d.rvDesc c w = d.doTdld c (nfld 11 7 w) ((d.core c).rx (nfld 19 15 w)).toNat := by
  simp [Dev.rvDesc, nfld_funct7_high, nfld_funct7_low, h2, hf]

theorem Dev.rvDesc_tdbase (hf : nfld 31 25 w = 8) :
    d.rvDesc c w = d.doTdbase c (nfld 11 7 w) ((d.core c).rx (nfld 19 15 w)).toNat := by
  simp [Dev.rvDesc, nfld_funct7_high, nfld_funct7_low, h2, hf]

theorem Dev.rvDesc_tdsize (hf : nfld 31 25 w / 8 = 2) :
    d.rvDesc c w = d.doTdsize c (nfld 11 7 w) (nfld 31 25 w % 8) ((d.core c).rx (nfld 19 15 w)).toNat := by
  simp [Dev.rvDesc, nfld_funct7_high, nfld_funct7_low, h2, hf]

theorem Dev.rvTsync_pipe (hf : nfld 31 25 w = 0) (h1 : nfld 19 15 w < 8) :
    d.rvTsync c w = d.tsync c (.pipes (nfld 19 15 w)) := by simp [Dev.rvTsync, h2, hf, h1]

variable (h1 : nfld 19 15 w = 0)
include h1

theorem Dev.rvTsync_mem (hf : nfld 31 25 w = 1) : d.rvTsync c w = d.tsync c .mem := by simp [Dev.rvTsync, h2, hf, h1]

theorem Dev.rvTsync_tile (hf : nfld 31 25 w = 2) : d.rvTsync c w = d.tsyncTile c (nfld 11 7 w) := by
  simp [Dev.rvTsync, h2, hf, h1]

theorem Dev.rvTsync_end (hf : nfld 31 25 w = 3) : d.rvTsync c w = d.tsync c .ending := by simp [Dev.rvTsync, h2, hf, h1]

end Desc

theorem Dev.rvTsync_illegal {d : Dev} {c w : Nat} (h : nfld 24 20 w ≠ 0 ∨ 3 < nfld 31 25 w) :
    d.rvTsync c w = d.raiseExc c 1 0 0 true (d.core c).pc := by
  unfold Dev.rvTsync
  by_cases h2 : nfld 24 20 w = 0
  · have hf : 3 < nfld 31 25 w := h.resolve_left (not_not.mpr h2)
    have hf0 : nfld 31 25 w ≠ 0 := by omega
    have hf1 : nfld 31 25 w ≠ 1 := by omega
    have hf2 : nfld 31 25 w ≠ 2 := by omega
    have hf3 : nfld 31 25 w ≠ 3 := by omega
    simp [h2]
  · simp [h2]

end Sys2Proof.Machine

namespace Sys2Proof.Proofs
open Sys2Proof.Machine Sys2Proof.Safety

/-- What a fetch executes, `t`, is what the command does. -/
theorem does_instructionFetch {s : State} {c : Fin 1536} {t : Dev} (h : s.dev.instrFetch c = t) : Does (.instructionFetch c) s t :=
  does_of_run (exec_instructionFetch c s) h

/-- Settles O18: the parcels are read, and then the word's opcode says what is done. -/
theorem fetchedInstructionsAreExecuted : Obligations.FetchedInstructionsAreExecuted := by
  unfold Obligations.FetchedInstructionsAreExecuted
  intro s c d w len s0 lo hi k does rd r1 r2 f3 f7 a b pc put ill h
  refine ⟨fun hlo => ?poisoned, fun hlo => ?outside, fun hlo h3 => ⟨fun hhi => ?poisoned2, fun hhi => ?outside2⟩,
    fun hlo h3 hw => ?none, fun hw => ?executed⟩
  case poisoned => exact does_instructionFetch (Dev.instrFetch_first_poisoned h hlo)
  case outside => exact does_instructionFetch (Dev.instrFetch_first_outside h hlo)
  case poisoned2 => exact does_instructionFetch (Dev.instrFetch_second_poisoned h hlo h3 hhi)
  case outside2 => exact does_instructionFetch (Dev.instrFetch_second_outside h hlo h3 hhi)
  case none => exact does_instructionFetch (Dev.instrFetch_no_instruction h hlo h3 hw)
  case executed =>
    have hdo {t : Dev} (ht : d.rvExec c w len = t) : does t := by
      obtain ⟨hlo, h3, hhi, rfl, rfl, rfl⟩ | ⟨hlo, h3, hw, rfl, rfl⟩ := hw
      · exact does_instructionFetch ((Dev.instrFetch_long h hlo h3 hhi).trans ht)
      · exact does_instructionFetch ((Dev.instrFetch_short h hlo h3 hw).trans ht)
    clear hw
    refine ⟨fun ho => hdo (Dev.rvExec_lui ho), fun ho => hdo (Dev.rvExec_jal ho), fun ho hf => hdo (Dev.rvExec_opImm ho ?_),
      fun ho hf => ⟨fun h7 => ?_, fun h7 => ?_, fun h7 => ?_⟩, fun ho hf h7 hb => ?_, fun ho hf => ⟨fun hab => ?_, fun hab => ?_⟩,
      fun ho hf => ?_, fun ho hf => ?_, fun ho => hdo (Dev.rvExec_unlisted ho), fun hl ho hf h1 v hv => ?_,
      fun hl ho hf hcl hch => ?_, fun op ht => hdo (Dev.rvExec_issue ht), fun ho ht => hdo (Dev.rvExec_pipe_unlisted ho ht),
      fun ho => ?custom⟩
    · exact congrArg (rvOpImm w · a) hf
    · exact hdo (Dev.rvExec_op ho (congrArg₂ (rvOp · · a b) h7 hf))
    · exact hdo (Dev.rvExec_op ho (congrArg₂ (rvOp · · a b) h7 hf))
    · exact hdo (Dev.rvExec_op ho (congrArg₂ (rvOp · · a b) h7 hf))
    · refine hdo (Dev.rvExec_op ho ?_)
      show rvOp f7 f3 a b = _
      rw [h7, hf, hb]
      rfl
    · refine hdo (Dev.rvExec_branch (b := true) ho ?_)
      show rvTaken f3 a b = _
      rw [hf, hab]
      exact congrArg some (decide_eq_true rfl)
    · refine hdo (Dev.rvExec_branch (b := false) ho ?_)
      show rvTaken f3 a b = _
      rw [hf]
      exact congrArg some (decide_eq_false hab)
    · have := Dev.rvExec_load (d := d) (c := c) (len := len) ho (show f3 ≠ 7 by omega)
      simp only [show nfld 14 12 w = 3 from hf] at this
      exact hdo this
    · have := Dev.rvExec_store (d := d) (c := c) (len := len) ho (show f3 < 4 by omega)
      simp only [show nfld 14 12 w = 3 from hf] at this
      exact hdo this
    · subst hl
      exact hdo (Dev.rvExec_csr_read ho hf h1 hv)
    · subst hl
      exact hdo (Dev.rvExec_csr_write_readonly ho hf hcl hch)
    case custom =>
      have hdesc {t : Dev} (hf : f3 = 2) (ht : d.rvDesc c w = t) : does t := hdo ((Dev.rvExec_desc ho hf).trans ht)
      have htsync {t : Dev} (hf : f3 = 3) (ht : d.rvTsync c w = t) : does t := hdo ((Dev.rvExec_tsync ho hf).trans ht)
      exact ⟨fun h4 => hdo (Dev.rvExec_custom_unlisted ho h4),
        fun hf h2 h7 => hdesc hf (Dev.rvDesc_tdld h2 h7), fun hf h2 h7 => hdesc hf (Dev.rvDesc_tdbase h2 h7),
        fun hf h2 h7 => hdesc hf (Dev.rvDesc_tdsize h2 h7), fun hf h2 => hdesc hf (Dev.rvDesc_illegal h2),
        fun hf h2 h7 h1 => htsync hf (Dev.rvTsync_pipe h2 h7 h1), fun hf h2 h7 h1 => htsync hf (Dev.rvTsync_mem h2 h1 h7),
        fun hf h2 h7 h1 => htsync hf (Dev.rvTsync_tile h2 h1 h7), fun hf h2 h7 h1 => htsync hf (Dev.rvTsync_end h2 h1 h7),
        fun hf h2 => htsync hf (Dev.rvTsync_illegal h2)⟩

end Sys2Proof.Proofs

namespace Sys2Proof.Machine

/-- A pair above the TOP block is left alone when the copies are set again. -/
theorem Dev.rd64_refresh_far (d : Dev) {off : Nat} (h : 0x808000 ≤ off) : d.refresh.rd64 off = d.rd64 off := by
  rw [Dev.rd64, d.rd_refresh_far h, d.rd_refresh_far (Nat.le_add_right_of_le h), Dev.rd64]

@[simp] theorem Dev.core_wr64 (d : Dev) (off v c : Nat) : (d.wr64 off v).core c = d.core c := rfl

/-- A Flowstone record leaves cores and tiers alone. -/
@[simp] theorem Dev.core_flw (d : Dev) (cls code src arg c : Nat) : (d.flw cls code src arg).core c = d.core c := by
  rw [Dev.flw_eq]
  rfl

@[simp] theorem Dev.tier_flw (d : Dev) (cls code src arg : Nat) : (d.flw cls code src arg).tier = d.tier := by rw [Dev.flw_eq]

section SystemArms

variable (s : State) (c : Fin 1536)

theorem exec_ecall : exec (.ecall c) s = State.run (fun d => d.ecall c) s := rfl
theorem exec_ebreak : exec (.ebreak c) s = State.run (fun d => d.ebreak c) s := rfl
theorem exec_fenceI : exec (.fenceI c) s = State.run (fun d => d.fenceI c) s := rfl
theorem exec_csrWrite (csr : BitVec 12) (v : DWord) :
    exec (.csrWrite c csr v) s = State.run (fun d => d.csrWrite c csr.toNat v) s := rfl
theorem exec_coreLaunchStart : exec (.coreLaunchStart c) s = State.run (fun d => d.launchStart c) s := rfl
theorem exec_coreExceptionEnd : exec (.coreExceptionEnd c) s = State.run (fun d => d.excEnd c) s := rfl

end SystemArms

section System

variable {d : Dev} {c : Nat} (h : d.issuing c = true)
include h

theorem Dev.ecall_eq : d.ecall c = d.scalarExc c 0x10 := by simp [Dev.ecall, h]

theorem Dev.ebreak_eq : d.ebreak c =
    if d.debugOpen then d.updCore c (fun k => { k with wait := .debug }) else d.scalarExc c 0x10 := by simp [Dev.ebreak, h]

theorem Dev.fenceI_eq : d.fenceI c = (d.updCore c (fun k => { k with icache := [] })).advance c 4 := by simp [Dev.fenceI, h]

theorem Dev.csrWrite_targ {csr : Nat} (hl : 0x800 ≤ csr) (hu : csr ≤ 0x803) (v : DWord) : d.csrWrite c csr v =
    (d.updCore c (fun k => { k with targ := sset (fun _ => 0) k.targ (csr - 0x800) v })).advance c 4 := by
  simp [Dev.csrWrite, h, hl, hu]

theorem Dev.csrWrite_tflags (v : DWord) : d.csrWrite c 0x804 v =
    (d.updCore c (fun k => { k with tflags := v.setWidth 32 &&& 0x1F })).advance c 4 := by simp [Dev.csrWrite, h]

theorem Dev.csrWrite_trtile (v : DWord) : d.csrWrite c 0x805 v =
    (d.updCore c (fun k => { k with trtile := v })).advance c 4 := by simp [Dev.csrWrite, h]

theorem Dev.csrWrite_other {csr : Nat} (ho : csr < 0x800 ∨ 0x805 < csr) (v : DWord) :
    d.csrWrite c csr v = d.scalarExc c 0x10 := by
  have h1 : ¬(0x800 ≤ csr ∧ csr ≤ 0x803) := by omega
  have h2 : csr ≠ 0x804 := by omega
  have h3 : csr ≠ 0x805 := by omega
  simp only [Dev.csrWrite, h, Bool.not_true, Bool.false_eq_true, if_false, Bool.and_eq_true, decide_eq_true_eq, h1, h2, h3]

end System

/-! ### The start of a core's part (R87, R240) -/

/-- An IDLE core starts the one launch that names it, unless it would join another first. -/
theorem Dev.launchStart_eq {d : Dev} {c k : Nat} {l : LaunchSt} {x : Inflight} (hs : d.coreState c = 1)
    (hn : (d.core c).launch = none)
    (hone : d.launches.filter (fun m => !m.2.early && m.2.cores.contains c && !m.2.started.contains c) = [(k, l)])
    (hx : d.queue.infl.find? (fun y => y.q = l.q && y.i = l.i) = some x) (hj : d.joinsFirst c x.ord = false) :
    d.launchStart c = d.startCore k c l x := by
  have hmine : d.launches.filterMap (fun e => if !e.2.early && e.2.cores.contains c && !e.2.started.contains c then
      (d.queue.infl.find? (fun y => y.q = e.2.q && y.i = e.2.i)).map (fun x => (x.ord, e, x)) else none) =
        [(x.ord, (k, l), x)] := by
    refine (List.filterMap_filter ..).symm.trans ?_
    rw [hone]
    simp [hx]
  unfold Dev.launchStart
  rw [hn, hs]
  simp only [hmine]
  simp [bestBy, hj]

/-- The state of R87 in which a core begins its part of a launch. -/
def launchedCore (k c : Nat) (l : LaunchSt) (x : Inflight) : CoreSt :=
  { CoreSt.reset with
    x := [(10, BitVec.ofNat 64 l.arg), (11, BitVec.ofNat 64 c), (12, BitVec.ofNat 64 l.cores.length)].filter (fun e => e.2 ≠ 0),
    pc := l.entry, launch := some k, tseq := BitVec.ofNat 32 x.seq, tepoch := x.epoch }

section StartCore

variable (d : Dev) {k : Nat} (c : Nat) {l : LaunchSt} (x : Inflight)

/-- The core begins, and its launch notes it. -/
theorem Dev.startCore_eq : d.startCore k c l x = ((d.setCore c (launchedCore k c l x)).setCoreState c 2).updLaunch k
    (fun l => { l with started := insNat c l.started }) := rfl

theorem Dev.books_startCore : Books ((d.setCore c (launchedCore k c l x)).setCoreState c 2) (d.startCore k c l x) :=
  books_updLaunch _ k _

theorem Dev.core_startCore : (d.startCore k c l x).core c = launchedCore k c l x := by
  rw [Dev.startCore_eq, Dev.core_updLaunch, Dev.core_setCoreState, Dev.core_setCore_same]

theorem Dev.launch?_startCore (h : d.launch? k = some l) :
    (d.startCore k c l x).launch? k = some { l with started := insNat c l.started } := by
  rw [Dev.startCore_eq, Dev.updLaunch_of_some (k := k) (l := l) (by simpa using h), Dev.launch?_setLaunch_same]

/-- A register map without its zeros reads as with them. -/
theorem sget_nonzero_cons {j r : Nat} {v : DWord} {t : List (Nat × DWord)}
    (h : sget (fun _ => 0) (t.filter (fun e => e.2 ≠ 0)) j = 0) :
    sget (fun _ => 0) (((j, v) :: t).filter (fun e => e.2 ≠ 0)) r =
      if r = j then v else sget (fun _ => 0) (t.filter (fun e => e.2 ≠ 0)) r := by
  rw [List.filter_cons]
  by_cases hv : v = 0
  · rw [if_neg (by simp [hv])]
    split
    · next hr => rw [hr, h, hv]
    · rfl
  · rw [if_pos (decide_eq_true hv)]
    rfl

/-- A register of the core's first state: its argument, its number, the number of cores; every other one is 0. -/
theorem rx_launchedCore (r : Nat) : (launchedCore k c l x).rx r =
    if r = 10 then BitVec.ofNat 64 l.arg else if r = 11 then BitVec.ofNat 64 c
    else if r = 12 then BitVec.ofNat 64 l.cores.length else 0 := by
  have h12 (r : Nat) := sget_nonzero_cons (j := 12) (r := r) (v := BitVec.ofNat 64 l.cores.length) (t := []) rfl
  have h11 (r : Nat) := sget_nonzero_cons (j := 11) (r := r) (v := BitVec.ofNat 64 c) ((h12 11).trans rfl)
  have h10 := sget_nonzero_cons (j := 10) (r := r) (v := BitVec.ofNat 64 l.arg) ((h11 10).trans (h12 10))
  unfold CoreSt.rx launchedCore
  rw [h10, h11, h12]
  split <;> simp_all [sget]

end StartCore

/-! ### The end of an exception (R114) -/

/-- CORE_EXC takes an exception, unless one is recorded there. -/
def Dev.recordExc (d : Dev) (c : Nat) (e : Exc) : Dev :=
  if bitOf 31 (d.rd (rCoreExc c)) then d
  else (d.wr (rCoreExc c) (BitVec.ofNat 32 (e.cause + 2 ^ 8 * e.pipe + 2 ^ 10 * e.dreg
    + (if e.precise then 2 ^ 15 else 0) + 2 ^ 31))).wr64 (rCoreExcPcLo c) e.pc

/-- CORE_EXC and Flowstone take it. -/
def Dev.noteExc (d : Dev) (c : Nat) (e : Exc) : Dev :=
  (d.recordExc c e).flw 1 e.cause (srcOf (.core (Fin.ofNat 1536 c))) e.pc

theorem Dev.excEnd_eq {d : Dev} {c : Nat} {e : Exc} (hw : (d.core c).wait = .stopped e) (he : (d.core c).ents = []) :
    d.excEnd c = (d.noteExc c e).endPart c := by
  simp only [Dev.excEnd, hw, he]
  rfl

section NoteExc

variable (d : Dev) (c : Nat) (e : Exc)

@[simp] theorem Dev.core_recordExc (b : Nat) : (d.recordExc c e).core b = d.core b := by
  unfold Dev.recordExc
  split
  · rfl
  · rw [Dev.core_wr64, Dev.core_wr]

@[simp] theorem Dev.tier_recordExc : (d.recordExc c e).tier = d.tier := by
  unfold Dev.recordExc
  split
  · rfl
  · rw [Dev.wr64_tier, Dev.wr_tier]

@[simp] theorem Dev.core_noteExc (b : Nat) : (d.noteExc c e).core b = d.core b := by
  unfold Dev.noteExc
  rw [Dev.core_flw, Dev.core_recordExc]

@[simp] theorem Dev.tier_noteExc : (d.noteExc c e).tier = d.tier := by
  unfold Dev.noteExc
  rw [Dev.tier_flw, Dev.tier_recordExc]

theorem Dev.rd_noteExc {off : Nat} (h : off < 0x13000000) : (d.noteExc c e).rd off = (d.recordExc c e).rd off :=
  Dev.rd_flw _ _ _ _ _ (by unfold rFlwSeq; omega) (by unfold rFlwStatus; omega) (by unfold rFlwDrop; omega)

variable {d c e}

theorem Dev.recordExc_of_recorded (h : bitOf 31 (d.rd (rCoreExc c)) = true) : d.recordExc c e = d := if_pos h

theorem Dev.recordExc_of_free (h : bitOf 31 (d.rd (rCoreExc c)) = false) : d.recordExc c e =
    (d.wr (rCoreExc c) (BitVec.ofNat 32 (e.cause + 2 ^ 8 * e.pipe + 2 ^ 10 * e.dreg
      + (if e.precise then 2 ^ 15 else 0) + 2 ^ 31))).wr64 (rCoreExcPcLo c) e.pc := if_neg (ne_true_of_eq_false h)

theorem Dev.rd_recordExc_other {off : Nat} (h : off ≠ rCoreExc c) (hl : off ≠ rCoreExcPcLo c) (hh : off ≠ rCoreExcPcLo c + 4) :
    (d.recordExc c e).rd off = d.rd off := by
  unfold Dev.recordExc
  split
  · rfl
  · rw [Dev.rd_wr64, if_neg hh, if_neg hl, Dev.rd_wr_ne _ _ h]

end NoteExc

section ExcEnd

variable {d : Dev} {c k : Nat} {e : Exc} (hw : (d.core c).wait = .stopped e) (he : (d.core c).ents = [])
  (hl : (d.core c).launch = some k)
include hw he hl

omit hw he in
theorem Dev.launch_noteExc : ((d.noteExc c e).core c).launch = some k := by rw [Dev.core_noteExc, hl]

theorem Dev.core_excEnd : (d.excEnd c).core c = { d.core c with launch := none, held := [], wait := .run } := by
  rw [Dev.excEnd_eq hw he, Dev.core_endPart _ c (Dev.launch_noteExc hl), Dev.core_noteExc]

theorem Dev.tier_excEnd : (d.excEnd c).tier = d.tier := by
  rw [Dev.excEnd_eq hw he, Dev.tier_endPart _ c (Dev.launch_noteExc hl), Dev.tier_noteExc]

/-- CORE_FLAGS gathers the core's flags. -/
theorem Dev.rd_excEnd_flags (hc : c < 1536) :
    (d.excEnd c).rd (rCoreFlags c) = d.rd (rCoreFlags c) ||| (d.core c).tflags := by
  have hnote : (d.noteExc c e).rd (rCoreFlags c) = d.rd (rCoreFlags c) := by
    rw [Dev.rd_noteExc _ _ _ (by unfold rCoreFlags; omega), Dev.rd_recordExc_other]
    all_goals unfold rCoreFlags
    · unfold rCoreExc; omega
    · unfold rCoreExcPcLo; omega
    · unfold rCoreExcPcLo; omega
  rw [Dev.excEnd_eq hw he, Dev.rd_endPart_flags _ c (Dev.launch_noteExc hl), Dev.core_noteExc, hnote]

/-- The other registers of the core's page but STATUS are as the noting of the exception left them. -/
theorem Dev.rd_excEnd {off : Nat} (hlo : 0x4000000 ≤ off) (hhi : off < 0x13000000) (hs : off ≠ rCoreStatus c)
    (hf : off ≠ rCoreFlags c) : (d.excEnd c).rd off = (d.recordExc c e).rd off := by
  rw [Dev.excEnd_eq hw he, Dev.rd_endPart _ c (Dev.launch_noteExc hl) (by unfold tsqReg; omega) hs hf, Dev.rd_noteExc _ _ _ hhi]

theorem Dev.rd_excEnd_exc (hc : c < 1536) : (d.excEnd c).rd (rCoreExc c) = (d.recordExc c e).rd (rCoreExc c) := by
  apply Dev.rd_excEnd hw he hl <;> simp only [rCoreExc, rCoreStatus, rCoreFlags] <;> omega

theorem Dev.rd64_excEnd_pc (hc : c < 1536) :
    (d.excEnd c).rd64 (rCoreExcPcLo c) = (d.recordExc c e).rd64 (rCoreExcPcLo c) := by
  have hlo : (d.excEnd c).rd (rCoreExcPcLo c) = (d.recordExc c e).rd (rCoreExcPcLo c) := by
    apply Dev.rd_excEnd hw he hl <;> simp only [rCoreExcPcLo, rCoreStatus, rCoreFlags] <;> omega
  have hhi : (d.excEnd c).rd (rCoreExcPcLo c + 4) = (d.recordExc c e).rd (rCoreExcPcLo c + 4) := by
    apply Dev.rd_excEnd hw he hl <;> simp only [rCoreExcPcLo, rCoreStatus, rCoreFlags] <;> omega
  rw [Dev.rd64, hlo, hhi, Dev.rd64]

theorem Dev.coreState_excEnd (hc : c < 1536) :
    (d.excEnd c).coreState c = if d.coreState c = 2 then 1 else d.coreState c := by
  have hnote : (d.noteExc c e).coreState c = d.coreState c := by
    unfold Dev.coreState Dev.rdFld
    rw [Dev.rd_noteExc _ _ _ (by unfold rCoreStatus; omega), Dev.rd_recordExc_other]
    all_goals unfold rCoreStatus
    · unfold rCoreExc; omega
    · unfold rCoreExcPcLo; omega
    · unfold rCoreExcPcLo; omega
  rw [Dev.excEnd_eq hw he, Dev.coreState_endPart _ c (Dev.launch_noteExc hl), hnote]

end ExcEnd

end Sys2Proof.Machine

namespace Sys2Proof.Proofs
open Sys2Proof.Machine Sys2Proof.Safety

/-- Core `c` has raised SCALAR at its pc: it stopped with its registers and instructions as they were, and its launch hands no
more tiles. -/
def ScalarStopped (d : Dev) (c : Nat) (t : Dev) : Prop :=
  let k := d.core c
  (t.core c).wait = .stopped ⟨0x10, 0, 0, true, k.pc, d.now⟩ ∧ (t.core c).pc = k.pc ∧ (t.core c).x = k.x ∧
    (t.core c).ents = k.ents ∧ t.mem = d.mem ∧
    ∀ n, k.launch = some n → ∀ l, d.launch? n = some l → ∃ l', t.launch? n = some l' ∧ l'.stop = true

theorem runs_scalarStopped {i : Instr} {s : State} {c : Nat} (h : (s.dev.core c).wait = .run)
    (hi : Does i s (s.dev.scalarExc c 0x10)) : Runs i s (ScalarStopped s.dev c) := by
  have hbooks := Dev.books_raiseExc h 0x10 0 0 true (s.dev.core c).pc
  have hcore := Dev.core_raiseExc h 0x10 0 0 true (s.dev.core c).pc
  refine runs_of_does hi (congrArg TierSt.stall hbooks.tier) ⟨?_, ?_, ?_, ?_, hbooks.mem, fun n hn l hl => ?_⟩
  · exact congrArg CoreSt.wait hcore
  · exact (congrArg CoreSt.pc hcore).trans rfl
  · exact (congrArg CoreSt.x hcore).trans rfl
  · exact (congrArg CoreSt.ents hcore).trans rfl
  · exact Dev.raiseExc_stops h 0x10 0 0 true (s.dev.core c).pc hn hl

/-- Settles O19: each system instruction by its equation, the start of a part by `startCore`, its end by `excEnd`. -/
theorem coresRunSystemInstructionsLaunchesAndExceptions : Obligations.CoresRunSystemInstructionsLaunchesAndExceptions := by
  unfold Obligations.CoresRunSystemInstructionsLaunchesAndExceptions
  refine ⟨fun s c csr v => ?system, fun s c k l x e => ⟨fun hs hn hone hl hx hj => ?start, fun hw he hl => ?ends⟩⟩
  case system =>
    intro k stopped put h
    have hrun := (Dev.issuing_iff.mp h).2.1
    refine ⟨?_, fun hd => ?_, fun hd => ?_, ?_, fun h1 h2 => ?_, fun hc => ?_, fun hc => ?_, fun hc => ?_⟩
    · exact runs_scalarStopped hrun (does_of_run (exec_ecall ..) (Dev.ecall_eq h))
    · exact runs_scalarStopped hrun (does_of_run (exec_ebreak ..) ((Dev.ebreak_eq h).trans (if_neg (ne_true_of_eq_false hd))))
    · exact does_of_run (exec_ebreak ..) ((Dev.ebreak_eq h).trans (if_pos hd))
    · exact does_of_run (exec_fenceI ..) (Dev.fenceI_eq h)
    · exact does_of_run (exec_csrWrite ..) (Dev.csrWrite_targ h h1 h2 v)
    · subst hc
      exact does_of_run (exec_csrWrite ..) (Dev.csrWrite_tflags h v)
    · subst hc
      exact does_of_run (exec_csrWrite ..) (Dev.csrWrite_trtile h v)
    · exact runs_scalarStopped hrun (does_of_run (exec_csrWrite ..) (Dev.csrWrite_other h hc v))
  case start =>
    have hbooks := s.dev.books_startCore (k := k) c (l := l) x
    have hcore : ((s.dev.startCore k c l x).refresh).core c = launchedCore k c l x := s.dev.core_startCore c x
    have hstate : ((s.dev.startCore k c l x).refresh).coreState c = 2 := by
      rw [Dev.coreState_refresh, hbooks.coreState]
      exact Dev.coreState_setCoreState_same _ _ (by decide)
    refine runs_of_does (does_of_run (exec_coreLaunchStart ..) (Dev.launchStart_eq hs hn hone hx hj))
      (congrArg TierSt.stall hbooks.tier) ?_
    intro n
    have hn : n = launchedCore k c l x := hcore
    clear_value n
    subst hn
    refine ⟨hstate, rfl, rfl, ?_, ?_, ?_, fun r h1 h2 h3 => ?_, rfl, rfl, rfl, rfl, rfl, rfl, rfl,
      _, s.dev.launch?_startCore c x hl, mem_insNat.mpr (.inl rfl)⟩
    · simp [rx_launchedCore]
    · simp [rx_launchedCore]
    · simp [rx_launchedCore]
    · simp [rx_launchedCore, h1, h2, h3]
  case ends =>
    have hc := c.isLt
    have hexc : ((s.dev.excEnd c).refresh).rd (rCoreExc c) = (s.dev.recordExc c e).rd (rCoreExc c) := by
      rw [Dev.rd_refresh_far _ (by unfold rCoreExc; omega), Dev.rd_excEnd_exc hw he hl hc]
    have hpc : ((s.dev.excEnd c).refresh).rd64 (rCoreExcPcLo c) = (s.dev.recordExc c e).rd64 (rCoreExcPcLo c) := by
      rw [Dev.rd64_refresh_far _ (by unfold rCoreExcPcLo; omega), Dev.rd64_excEnd_pc hw he hl hc]
    have hcore := Dev.core_excEnd hw he hl
    refine runs_of_does (does_of_run (exec_coreExceptionEnd ..) rfl) (congrArg TierSt.stall (Dev.tier_excEnd hw he hl))
      ⟨fun hb => ⟨?_, ?_⟩, fun hb => ⟨?_, ?_⟩, ?_, ?_, ?_, ?_⟩
    · rw [hpc, Dev.recordExc_of_free hb, Dev.rd64_wr64]
    · rw [hexc, Dev.recordExc_of_free hb, Dev.rd_wr64, if_neg (by simp only [rCoreExc, rCoreExcPcLo]; omega),
        if_neg (by simp only [rCoreExc, rCoreExcPcLo]; omega), Dev.rd_wr_same]
    · rw [hexc, Dev.recordExc_of_recorded hb]
    · rw [hpc, Dev.recordExc_of_recorded hb]
    · rw [Dev.rd_refresh_far _ (by unfold rCoreFlags; omega), Dev.rd_excEnd_flags hw he hl hc]
    · exact congrArg CoreSt.launch hcore
    · exact congrArg CoreSt.wait hcore
    · rw [Dev.coreState_refresh, Dev.coreState_excEnd hw he hl hc]

end Sys2Proof.Proofs

namespace Sys2Proof.Machine

/-! ### The issue of tensor instructions (R91, R92, R97, R113) -/

/-- Each tensor instruction issues its operation. -/
theorem exec_tensor {c : Fin 1536} {f : RType} {op : TOp} {i : Instr}
    (h : (op, i) ∈ [(TOp.load, Instr.tload c f), (.store, .tstore c f), (.mma, .tmma c f), (.conv, .tconv c f), (.vec, .tvec c f),
      (.red, .tred c f), (.soft, .tsoft c f), (.seg, .tseg c f), (.sort, .tsort c f), (.gather, .tgather c f),
      (.scatter, .tscatter c f), (.scatterAdd, .tscatteradd c f)]) (s : State) :
    exec i s = State.run (fun d => d.issue c op f) s := by
  simp only [List.mem_cons, Prod.mk.injEq, List.not_mem_nil, or_false] at h
  obtain ⟨rfl, rfl⟩ | ⟨rfl, rfl⟩ | ⟨rfl, rfl⟩ | ⟨rfl, rfl⟩ | ⟨rfl, rfl⟩ | ⟨rfl, rfl⟩ | ⟨rfl, rfl⟩ | ⟨rfl, rfl⟩ | ⟨rfl, rfl⟩ |
    ⟨rfl, rfl⟩ | ⟨rfl, rfl⟩ | ⟨rfl, rfl⟩ := h <;> rfl

namespace CoreSt

variable (k : CoreSt) (op : TOp) (f : RType)

/-- What the descriptor registers that an instruction names hold. -/
def named : List (Option Desc) := (opRegs op f).map (fun n => (k.td.find? (·.1 = n)).map (·.2))

/-- The descriptors among them. -/
def descs : List Desc := (k.named op f).filterMap id

/-- Its TARGs. -/
def targOf (n : Nat) : DWord := sget (fun _ => 0) k.targ n

/-- The Pocket intervals of some of its operands. -/
def intervals (c : Nat) (l : List Nat) : List (Nat × Nat) :=
  l.filterMap (fun n => ((k.descs op f)[n]?).bind (pocketIv c k.tepoch))

/-- Its entry on the scoreboard, with its copies. -/
def newEntry (c : Nat) : TEntry :=
  { id := k.nextId, op := op, f := f, ops := k.descs op f, targ := [k.targOf 0, k.targOf 1, k.targOf 2, k.targOf 3],
    tile := k.trtile, pc := k.pc, reads := k.intervals op f c (opSrcs op f), writes := k.intervals op f c (opDests op),
    started := false }

/-- Its causes but those of compressed operands. -/
def causes (c : Nat) : List (Nat × Nat) :=
  opCauses op f (opRegs op f) (k.descs op f) ++ regionCauses op c (opRegs op f) (k.descs op f)
    ++ overlapCauses op f k.tepoch (opRegs op f) (k.descs op f)

end CoreSt

section Issue

variable {d : Dev} {c : Nat} {op : TOp} {f : RType} (h : d.issuing c = true)
include h

/-- The checks, in their order, and the issue. -/
theorem Dev.issue_eq : d.issue c op f =
    let k := d.core c
    if opIllegal op f (k.targOf 0).toNat (k.targOf 1).toNat then d.raiseExc c 1 (op.pipe + 1) 0 true k.pc
    else match ((opRegs op f).zip (k.named op f)).find? (fun e => e.2.isNone) with
      | some e => d.raiseExc c 2 (op.pipe + 1) e.1 true k.pc
      | none =>
        let cls := if (k.causes op f c).isEmpty then d.classCauses c (k.newEntry op f c) (opRegs op f) else ([], d)
        match lowestCause (k.causes op f c ++ cls.1) with
        | some x => cls.2.raiseExc c x.1 (op.pipe + 1) x.2 true k.pc
        | none =>
          if !k.room op.pipe then d
          else (cls.2.updCore c (fun s => { s with ents := s.ents ++ [k.newEntry op f c], nextId := s.nextId + 1 })).advance c 4 := by
  unfold Dev.issue
  rw [h]
  rfl

theorem Dev.issue_illegal (hb : opIllegal op f ((d.core c).targOf 0).toNat ((d.core c).targOf 1).toNat = true) :
    d.issue c op f = d.raiseExc c 1 (op.pipe + 1) 0 true (d.core c).pc := by
  rw [Dev.issue_eq h]
  exact if_pos hb

variable (hb : opIllegal op f ((d.core c).targOf 0).toNat ((d.core c).targOf 1).toNat = false)
include hb

/-- The first empty descriptor register raises DESC_EMPTY. -/
theorem Dev.issue_empty {n : Nat}
    (hn : ((opRegs op f).zip ((d.core c).named op f)).find? (fun e => e.2.isNone) = some (n, none)) :
    d.issue c op f = d.raiseExc c 2 (op.pipe + 1) n true (d.core c).pc := by
  rw [Dev.issue_eq h]
  simp only [hb, Bool.false_eq_true, if_false, hn]

variable (ho : ((d.core c).named op f).all (·.isSome) = true)
include ho

/-- With every register full, the causes decide. -/
theorem Dev.issue_full : d.issue c op f =
    let k := d.core c
    let cls := if (k.causes op f c).isEmpty then d.classCauses c (k.newEntry op f c) (opRegs op f) else ([], d)
    match lowestCause (k.causes op f c ++ cls.1) with
    | some x => cls.2.raiseExc c x.1 (op.pipe + 1) x.2 true k.pc
    | none =>
      if !k.room op.pipe then d
      else (cls.2.updCore c (fun s => { s with ents := s.ents ++ [k.newEntry op f c], nextId := s.nextId + 1 })).advance c 4 := by
  have hnone : ((opRegs op f).zip ((d.core c).named op f)).find? (fun e => e.2.isNone) = none := by
    rw [List.find?_eq_none]
    intro e he
    have hsome := List.all_eq_true.mp ho e.2 (List.of_mem_zip he).2
    simpa using Option.isSome_iff_ne_none.mp hsome
  rw [Dev.issue_eq h]
  simp only [hb, Bool.false_eq_true, if_false, hnone]

/-- The lowest cause is raised. -/
theorem Dev.issue_caused {x : Nat × Nat} (hx : lowestCause ((d.core c).causes op f c) = some x) :
    d.issue c op f = d.raiseExc c x.1 (op.pipe + 1) x.2 true (d.core c).pc := by
  have hne : ((d.core c).causes op f c).isEmpty = false := by
    cases hc : (d.core c).causes op f c with
    | nil => rw [hc] at hx; cases hx
    | cons => rfl
  rw [Dev.issue_full h hb ho]
  simp only [hne, Bool.false_eq_true, if_false, List.append_nil, hx]

variable (hc : (d.core c).causes op f c = []) {t : Dev}
include hc

/-- A cause of a compressed operand is raised. -/
theorem Dev.issue_class_caused {x : Nat × Nat} (hk : d.classCauses c ((d.core c).newEntry op f c) (opRegs op f) = ([x], t)) :
    d.issue c op f = t.raiseExc c x.1 (op.pipe + 1) x.2 true (d.core c).pc := by
  rw [Dev.issue_full h hb ho]
  simp only [hc, List.isEmpty_nil, if_true, hk, List.nil_append]
  rfl

variable (hk : d.classCauses c ((d.core c).newEntry op f c) (opRegs op f) = ([], t))
include hk

/-- Without a cause the instruction enters its queue where there is room, and waits where there is none. -/
theorem Dev.issue_enters (hr : (d.core c).room op.pipe = true) : d.issue c op f =
    (t.updCore c (fun s => { s with ents := s.ents ++ [(d.core c).newEntry op f c], nextId := s.nextId + 1 })).advance c 4 := by
  rw [Dev.issue_full h hb ho]
  simp only [hc, List.isEmpty_nil, if_true, hk, List.nil_append, hr, Bool.not_true, Bool.false_eq_true, if_false]
  rfl

theorem Dev.issue_waits (hr : (d.core c).room op.pipe = false) : d.issue c op f = d := by
  rw [Dev.issue_full h hb ho]
  simp only [hc, List.isEmpty_nil, if_true, hk, List.nil_append, hr, Bool.not_false, if_true]
  rfl

end Issue

/-! ### Descriptor instructions (R91) -/

section DescArms

variable (s : State) (c : Fin 1536) (td : Fin 32)

theorem exec_tdld (a : DWord) : exec (.tdld c td a) s = State.run (fun d => d.doTdld c td a.toNat) s := rfl
theorem exec_tdbase (v : DWord) : exec (.tdbase c td v) s = State.run (fun d => d.doTdbase c td v.toNat) s := rfl
theorem exec_tdsize (k : Fin 8) (v : DWord) : exec (.tdsize c td k v) s = State.run (fun d => d.doTdsize c td k v.toNat) s := rfl

end DescArms

section DescInstr

variable {d : Dev} {c : Nat} (h : d.issuing c = true) (n : Nat)
include h

/-- TDLD of a misaligned address or of register space. -/
theorem Dev.doTdld_invalid {a : Nat} (hs : d.scalarStalls c a false = false) (ha : a % 64 ≠ 0 ∨ (regOff a).isSome = true) :
    d.doTdld c n a = d.setTd c n none := by
  have hbad : (decide (a % 64 ≠ 0) || (regOff a).isSome) = true := by simpa using ha
  simp only [Dev.doTdld, h, hs, Bool.not_true, Bool.false_eq_true, if_false]
  exact if_pos hbad

/-- TDLD of clean bytes checks the descriptor that they spell. -/
theorem Dev.doTdld_checks {a : Nat} (hs : d.scalarStalls c a false = false) (ha : a % 64 = 0) (hr : regOff a = none)
    (hc : (d.readMem (d.ctxOf c 0).acc a 64).1.bad = none) : d.doTdld c n a =
      let r := d.readMem (d.ctxOf c 0).acc a 64
      let x := r.2.checkDesc (d.ctxOf c 0).acc r.1.bytes
      x.2.setTd c n x.1 := by
  simp only [Dev.doTdld, h, hs, ha, hr, hc, Bool.not_true, Bool.false_eq_true, if_false, ne_eq, not_true, decide_false,
    Option.isSome_none, Bool.or_self]

theorem Dev.retd_empty (he : ((d.core c).td.find? (·.1 = n)).map (·.2) = none) (f : Desc → Desc) :
    d.retd c n f = d.raiseExc c 2 0 n true (d.core c).pc := by
  simp only [Dev.retd, h, he, Bool.not_true, Bool.false_eq_true, if_false]

/-- A changed descriptor is checked again. -/
theorem Dev.retd_checks {t : Desc} (he : ((d.core c).td.find? (·.1 = n)).map (·.2) = some t) (f : Desc → Desc) :
    d.retd c n f =
      let x := d.withMask (d.ctxOf c 0).acc (f t)
      x.2.setTd c n (if x.1.check then some x.1 else none) := by
  simp only [Dev.retd, h, he, Bool.not_true, Bool.false_eq_true, if_false]

theorem Dev.doTdsize_illegal {k : Nat} (hk : 6 ≤ k) (v : Nat) :
    d.doTdsize c n k v = d.raiseExc c 1 0 n true (d.core c).pc := by simp [Dev.doTdsize, h, hk]

theorem Dev.doTdsize_retd {k : Nat} (hk : k < 6) (v : Nat) :
    d.doTdsize c n k v = d.retd c n (fun t => { t with size := t.size.set k v }) := by
  simp [Dev.doTdsize, h, Nat.not_le.mpr hk]

end DescInstr

end Sys2Proof.Machine

namespace Sys2Proof.Proofs
open Sys2Proof.Machine Sys2Proof.Safety

/-- Settles O20: the checks of an issue one by one, then the descriptor instructions. -/
theorem tensorInstructionsIssueSetOrRaise : Obligations.TensorInstructionsIssueSetOrRaise := by
  unfold Obligations.TensorInstructionsIssueSetOrRaise
  refine ⟨fun s c f op i n x d hmem h => ?issue, fun s c td a v k t u => ?desc⟩
  case issue =>
    intro k targ r os ds iv e cs bad
    have hdo {t : Dev} (ht : s.dev.issue c op f = t) : Does i s t := does_of_run (exec_tensor hmem s) ht
    exact ⟨fun hb => hdo (Dev.issue_illegal h hb), fun hb hn => hdo (Dev.issue_empty h hb hn),
      fun hb ho hx => hdo (Dev.issue_caused h hb ho hx),
      fun hb ho hc hk => ⟨fun hr => hdo (Dev.issue_enters h hb ho hc hk hr), fun hr => hdo (Dev.issue_waits h hb ho hc hk hr)⟩,
      fun hb ho hc hk => hdo (Dev.issue_class_caused h hb ho hc hk)⟩
  case desc =>
    intro acc pc r x held b z put invalid h
    have hsize {w : Dev} (hk : k.val < 6) (hw : s.dev.retd c td (fun t => { t with size := t.size.set k v.toNat }) = w) :
        Does (.tdsize c td k v) s w := does_of_run (exec_tdsize ..) ((Dev.doTdsize_retd h td hk _).trans hw)
    refine ⟨fun hs ha hr hc => ⟨fun hx => ?_, fun hx => ?_⟩, fun hs ha => ?_, fun ht => ⟨fun hb => ?_, fun hb => ?_, fun hk hz => ?_,
      fun hk hz => ?_⟩, fun ht => ⟨?_, fun hk => ?_⟩, fun hk => ?_⟩
    · refine does_of_run (exec_tdld ..) ((Dev.doTdld_checks h td hs ha hr hc).trans ?_)
      exact congrArg (x.2.setTd c td) hx
    · refine does_of_run (exec_tdld ..) ((Dev.doTdld_checks h td hs ha hr hc).trans ?_)
      exact congrArg (x.2.setTd c td) hx
    · exact does_of_run (exec_tdld ..) (Dev.doTdld_invalid h td hs ha)
    · refine does_of_run (exec_tdbase ..) ((Dev.retd_checks h td ht _).trans ?_)
      exact congrArg (b.2.setTd c td) (if_pos hb)
    · refine does_of_run (exec_tdbase ..) ((Dev.retd_checks h td ht _).trans ?_)
      exact congrArg (b.2.setTd c td) (if_neg (ne_true_of_eq_false hb))
    · exact hsize hk ((Dev.retd_checks h td ht _).trans (congrArg (z.2.setTd c td) (if_pos hz)))
    · exact hsize hk ((Dev.retd_checks h td ht _).trans (congrArg (z.2.setTd c td) (if_neg (ne_true_of_eq_false hz))))
    · exact does_of_run (exec_tdbase ..) (Dev.retd_empty h td ht _)
    · exact hsize hk (Dev.retd_empty h td ht _)
    · exact does_of_run (exec_tdsize ..) (Dev.doTdsize_illegal h td hk _)

end Sys2Proof.Proofs

namespace Sys2Proof.Machine

/-! ### Pipes (R93, R112) -/

/-- Counting changes no core. -/
@[simp] theorem Dev.core_add64 (d : Dev) (off n c : Nat) : (d.add64 off n).core c = d.core c := by
  unfold Dev.add64
  split <;> rfl

section PipeArms

variable (s : State) (c : Fin 1536)

theorem exec_tensorInstructionStart (p : Pipe) : exec (.tensorInstructionStart c p) s =
    State.run (fun d => match (d.core c).startable (pipeNo p) with
      | some e => if e.isFill then d else d.startPipe c (pipeNo p)
      | none => d) s := rfl
theorem exec_kvFill : exec (.kvFill c) s =
    State.run (fun d => match (d.core c).startable 0 with
      | some e => if e.isFill then d.startPipe c 0 else d
      | none => d) s := rfl
theorem exec_tensorInstructionComplete (p : Pipe) :
    exec (.tensorInstructionComplete c p) s = State.run (fun d => d.completePipe c (pipeNo p)) s := rfl
theorem exec_tsyncPipe (m : BitVec 3) : exec (.tsyncPipe c m) s = State.run (fun d => d.tsync c (.pipes m.toNat)) s := rfl
theorem exec_tsyncMem : exec (.tsyncMem c) s = State.run (fun d => d.tsync c .mem) s := rfl
theorem exec_tsyncEnd : exec (.tsyncEnd c) s = State.run (fun d => d.tsync c .ending) s := rfl

end PipeArms

section Pipes

variable {d : Dev} {c p : Nat} {e : TEntry}

/-- The entry that a pipe may start is marked started and runs. -/
theorem Dev.startPipe_eq (hs : d.coreState c = 2) (he : (d.core c).startable p = some e) : d.startPipe c p =
    (d.updCore c (fun n => { n with
      ents := mapIf (fun y => y.id = e.id) (fun y => { y with started := true }) n.ents })).runEntry c e := by
  simp [Dev.startPipe, hs, he]

theorem Dev.trwTakeBad_of_none {r : TrwReq} (h : d.trw.bad.find? (·.1 = r) = none) : d.trwTakeBad r = (none, d) := by
  simp [Dev.trwTakeBad, h]

/-- A core that waits for nothing is not woken. -/
theorem Dev.coreWake_run (h : (d.core c).wait = .run) : d.coreWake c = d := by simp only [Dev.coreWake, h]

/-- A started instruction whose work is performed leaves the scoreboard and is counted, unless it is a KV fill. -/
theorem Dev.completePipe_eq (he : (d.core c).ents.find? (fun y => y.op.pipe = p && y.started) = some e)
    (hp : d.trwHolds (.core c e.id) = false) (hb : d.trw.bad.find? (·.1 = .core c e.id) = none) (hw : (d.core c).wait = .run) :
    d.completePipe c p =
      let gone := d.updCore c (fun n => { n with ents := n.ents.filter (fun y => y.id ≠ e.id) })
      if e.isFill then gone else gone.add64 (rCoreTinstrLo c) 1 := by
  have hwake (t : Dev) (hb : t.trw.bad.find? (·.1 = .core c e.id) = none) (hw : (t.core c).wait = .run) :
      (if (t.trwTakeBad (.core c e.id)).1.isSome
        then (t.trwTakeBad (.core c e.id)).2.report c e { TRes.none with writeBad := (t.trwTakeBad (.core c e.id)).1 }
        else (t.trwTakeBad (.core c e.id)).2).coreWake c = t := by
    rw [Dev.trwTakeBad_of_none hb]
    exact Dev.coreWake_run hw
  have hgone : ((d.updCore c (fun n => { n with ents := n.ents.filter (fun y => y.id ≠ e.id) })).core c).wait = .run := by
    rw [Dev.core_updCore_same, hw]
  have hcount := hwake ((d.updCore c (fun n => { n with ents := n.ents.filter (fun y => y.id ≠ e.id) })).add64 (rCoreTinstrLo c) 1)
    hb hgone
  unfold Dev.completePipe
  rw [he]
  simp only [Dev.performed, hp, Bool.not_false, Bool.not_true, Bool.false_eq_true, if_false]
  unfold TEntry.isFill
  cases e.op
  case kvFill => exact hwake _ hb hgone
  all_goals exact hcount

end Pipes

/-! ### TSYNC (R110) -/

section Tsync

variable {d : Dev} {c : Nat} (h : d.issuing c = true)
include h

/-- A TSYNC waits from here on, and goes on at once when what it waits for has come about. -/
theorem Dev.tsync_eq (w : Nat → CoreWait) :
    d.tsync c w = (d.updCore c (fun s => { s with wait := w s.nextId })).coreWake c := by simp [Dev.tsync, h]

end Tsync

section Wake

variable {d : Dev} {c n : Nat}

theorem Dev.coreWake_pipes {m : Nat} (hw : (d.core c).wait = .pipes m n) : d.coreWake c =
    if ∀ y ∈ (d.core c).ents, n ≤ y.id ∨ m.testBit y.op.pipe = false then
      d.updCore c (fun s => { s with wait := .run, pc := (s.pc + 4) % 2 ^ 64 })
    else d := by
  simp only [Dev.coreWake, hw]
  refine if_congr ?_ rfl rfl
  simp

theorem Dev.coreWake_mem (hw : (d.core c).wait = .mem n) : d.coreWake c =
    if ∀ y ∈ (d.core c).ents, n ≤ y.id then
      d.updCore c (fun s => { s with wait := .run, dcache := [], pc := (s.pc + 4) % 2 ^ 64 })
    else d := by
  simp only [Dev.coreWake, hw]
  refine if_congr ?_ rfl rfl
  simp

theorem Dev.coreWake_ending (hw : (d.core c).wait = .ending n) : d.coreWake c =
    if ∀ y ∈ (d.core c).ents, n ≤ y.id then d.endAll c else d := by
  simp only [Dev.coreWake, hw]
  refine if_congr ?_ rfl rfl
  simp

theorem Dev.core_retireAll (k n : Nat) :
    (((d.setCore c { d.core c with held := [], dcache := [] }).add64 (slotReg k 0x18) n).slotStat k).core c =
      { d.core c with held := [], dcache := [] } := by
  rw [Dev.core_slotStat, Dev.core_add64, Dev.core_setCore_same]

/-- The tiles retire in the launch's books. -/
theorem Dev.books_retireAll (k n : Nat) : Books (d.setCore c { d.core c with held := [], dcache := [] })
    (((d.setCore c { d.core c with held := [], dcache := [] }).add64 (slotReg k 0x18) n).slotStat k) :=
  (books_add64 (tsqReg_slot k (by decide)) (tsqReg_slot k (off := 0x1C) (by decide)) _ _).trans (books_slotStat _ k)

section EndAll

variable {k : Nat} (h : (d.core c).launch = some k)
include h

/-- TSYNC.END of a core of a launch: its tiles retire, its data cache empties and its part ends. -/
theorem Dev.endAll_eq : d.endAll c =
    (((d.setCore c { d.core c with held := [], dcache := [] }).add64 (slotReg k 0x18) (d.core c).held.length).slotStat k).endPart c := by
  simp only [Dev.endAll, h]

theorem Dev.core_endAll : (d.endAll c).core c = { d.core c with launch := none, held := [], dcache := [], wait := .run } := by
  rw [Dev.endAll_eq h, Dev.core_endPart (k := k) _ c (by rw [Dev.core_retireAll]; exact h), Dev.core_retireAll]

theorem Dev.tier_endAll : (d.endAll c).tier = d.tier := by
  rw [Dev.endAll_eq h, Dev.tier_endPart (k := k) _ c (by rw [Dev.core_retireAll]; exact h), (Dev.books_retireAll _ _).tier]
  rfl

theorem Dev.coreState_endAll : (d.endAll c).coreState c = if d.coreState c = 2 then 1 else d.coreState c := by
  rw [Dev.endAll_eq h, Dev.coreState_endPart (k := k) _ c (by rw [Dev.core_retireAll]; exact h),
    (Dev.books_retireAll _ _).coreState, Dev.coreState_setCore]

theorem Dev.rd_endAll_flags : (d.endAll c).rd (rCoreFlags c) = d.rd (rCoreFlags c) ||| (d.core c).tflags := by
  rw [Dev.endAll_eq h, Dev.rd_endPart_flags (k := k) _ c (by rw [Dev.core_retireAll]; exact h), Dev.core_retireAll,
    (Dev.books_retireAll _ _).rd _ (by unfold tsqReg rCoreFlags; omega), Dev.rd_setCore _ _ (rCoreFlags_ne_status c c).symm]

end EndAll

end Wake

end Sys2Proof.Machine

namespace Sys2Proof.Proofs
open Sys2Proof.Machine Sys2Proof.Safety

section Starts

variable {s : State} {c : Fin 1536} {p : Pipe} {e : TEntry}

/-- TENSOR_INSTRUCTION_START starts a kernel's instruction, KV_FILL a fill. -/
theorem does_tensorInstructionStart (he : (s.dev.core c).startable (pipeNo p) = some e) :
    Does (.tensorInstructionStart c p) s (if e.isFill then s.dev else s.dev.startPipe c (pipeNo p)) :=
  does_of_run (exec_tensorInstructionStart s c p) (by simp only [he])

theorem does_kvFill (he : (s.dev.core c).startable 0 = some e) :
    Does (.kvFill c) s (if e.isFill then s.dev.startPipe c 0 else s.dev) :=
  does_of_run (exec_kvFill s c) (by simp only [he])

end Starts

/-- Settles O21: a start and a completion by their equations, TSYNC by what the core's wait finds on the scoreboard. -/
theorem pipesStartCompleteAndSynchronise : Obligations.PipesStartCompleteAndSynchronise := by
  unfold Obligations.PipesStartCompleteAndSynchronise
  intro s c p e m k go gone waits on clear clearOf
  refine ⟨fun hs he => ⟨fun hf => ?_, fun hf => ?_⟩, fun hs he hf => ?_, fun he hp hb hw => ⟨fun hf => ?_, fun hf => ?_⟩, fun h => ?sync⟩
  · have := does_tensorInstructionStart he
    rwa [hf, Dev.startPipe_eq hs he] at this
  · have := does_tensorInstructionStart he
    rwa [hf] at this
  · have := does_kvFill he
    rwa [hf, Dev.startPipe_eq hs he] at this
  · exact does_of_run (exec_tensorInstructionComplete ..) ((Dev.completePipe_eq he hp hb hw).trans (if_neg (ne_true_of_eq_false hf)))
  · exact does_of_run (exec_tensorInstructionComplete ..) ((Dev.completePipe_eq he hp hb hw).trans (if_pos hf))
  case sync =>
    have hwait (w : CoreWait) : ((waits w).core c).wait = w := by rw [Dev.core_updCore_same]
    have hents (w : CoreWait) : ((waits w).core c).ents = k.ents := by rw [Dev.core_updCore_same]
    refine ⟨fun hc => ?_, fun hc => ?_, fun hc => ?_, fun hc => ?_, fun hc => ?ends, fun hc => ?_⟩
    · refine does_of_run (exec_tsyncPipe ..) ((Dev.tsync_eq h _).trans ((Dev.coreWake_pipes (hwait _)).trans (if_pos ?_)))
      rwa [hents]
    · refine does_of_run (exec_tsyncPipe ..) ((Dev.tsync_eq h _).trans ((Dev.coreWake_pipes (hwait _)).trans (if_neg ?_)))
      rwa [hents]
    · refine does_of_run (exec_tsyncMem ..) ((Dev.tsync_eq h _).trans ((Dev.coreWake_mem (hwait _)).trans (if_pos ?_)))
      rwa [hents]
    · refine does_of_run (exec_tsyncMem ..) ((Dev.tsync_eq h _).trans ((Dev.coreWake_mem (hwait _)).trans (if_neg ?_)))
      rwa [hents]
    case ends =>
      obtain ⟨hlaunch, -, hrunning⟩ := Dev.issuing_iff.mp h
      obtain ⟨n, hn⟩ := Option.isSome_iff_exists.mp hlaunch
      have hl : ((waits (.ending k.nextId)).core c).launch = some n := by rw [Dev.core_updCore_same]; exact hn
      have hstate : (waits (.ending k.nextId)).coreState c = 2 := (Dev.coreState_setCore _ _ _ _).trans hrunning
      have hflags : (waits (.ending k.nextId)).rd (rCoreFlags c) = s.dev.rd (rCoreFlags c) :=
        Dev.rd_setCore _ _ (rCoreFlags_ne_status c c).symm
      have hcore := Dev.core_endAll hl
      have hdo : Does (.tsyncEnd c) s ((waits (.ending k.nextId)).endAll c) := by
        refine does_of_run (exec_tsyncEnd ..) ((Dev.tsync_eq h _).trans ((Dev.coreWake_ending (hwait _)).trans (if_pos ?_)))
        rwa [hents]
      refine runs_of_does hdo (congrArg TierSt.stall (Dev.tier_endAll hl)) ⟨congrArg CoreSt.launch hcore,
        congrArg CoreSt.held hcore, congrArg CoreSt.wait hcore, ?_, ?_⟩
      · rw [Dev.coreState_refresh, Dev.coreState_endAll hl, hstate]
        rfl
      · rw [Dev.rd_refresh_far _ (by unfold rCoreFlags; omega), Dev.rd_endAll_flags hl, hflags, Dev.core_updCore_same]
    · refine does_of_run (exec_tsyncEnd ..) ((Dev.tsync_eq h _).trans ((Dev.coreWake_ending (hwait _)).trans (if_neg ?_)))
      rwa [hents]

end Sys2Proof.Proofs

namespace Sys2Proof.Machine

/-! ### What accesses, records and completions leave of the registers

A fence sets TOP_STATUS, registers of its cores and GAL_STATUS. `memReg` (Laws/Access.lean) counts whole blocks, and for partitions
that exist; here it matters that no access writes the first register of a GAL or HBM page, whoever makes it. -/

/-- Is `off` none of the registers that a fence sets: TOP_STATUS, the cores' pages, and the first register of each GAL and HBM
page? -/
def apartReg (off : Nat) : Prop :=
  off ≠ 0x4 ∧ (off < 0x4000000 ∨ 0x5000000 ≤ off) ∧ (off < 0x5000000 ∨ 0x7000000 ≤ off ∨ off % 0x100000 ≠ 0)

/-- From `d` to `t` the registers that a fence sets are as they were. -/
def Keeps (d t : Dev) : Prop := ∀ off, ¬apartReg off → t.rd off = d.rd off

theorem Keeps.refl (d : Dev) : Keeps d d := fun _ _ => rfl

theorem Keeps.trans {a b c : Dev} (h : Keeps a b) (k : Keeps b c) : Keeps a c := fun off ho => (k off ho).trans (h off ho)

/-- A change of anything but registers. -/
theorem keeps_of_regs {d t : Dev} (h : t.regs = d.regs) : Keeps d t := fun off _ => congrArg (sget resetOf · off) h

theorem keeps_mem (d : Dev) (m : MemSt) : Keeps d { d with mem := m } := fun _ _ => rfl

theorem keeps_each {α : Type} (d : Dev) (l : List α) (f : Dev → α → Dev) (h : ∀ d a, Keeps d (f d a)) : Keeps d (d.each l f) :=
  foldl_rel Keeps Keeps.refl (fun _ _ _ => Keeps.trans) f h l d

theorem keeps_foldl {α : Type} (f : Dev → α → Dev) (h : ∀ d a, Keeps d (f d a)) (l : List α) (d : Dev) : Keeps d (l.foldl f d) :=
  foldl_rel Keeps Keeps.refl (fun _ _ _ => Keeps.trans) f h l d

/-- The same for a fold that carries a value beside the device. -/
theorem keeps_fold {α γ : Type} (l : List α) (f : γ × Dev → α → γ × Dev) (h : ∀ r a, Keeps r.2 (f r a).2) (r : γ × Dev) :
    Keeps r.2 (l.foldl f r).2 :=
  foldl_rel (fun a b => Keeps a.2 b.2) (fun _ => Keeps.refl _) (fun _ _ _ => Keeps.trans) f h l r

/-! #### Registers and records -/

theorem keeps_wr {off : Nat} (h : apartReg off) (d : Dev) (v : Word) : Keeps d (d.wr off v) :=
  fun k hk => d.rd_wr_ne v (by rintro rfl; exact hk h)

theorem keeps_wr64 {off : Nat} (h : apartReg off) (h4 : apartReg (off + 4)) (d : Dev) (v : Nat) : Keeps d (d.wr64 off v) :=
  (keeps_wr h d _).trans (keeps_wr h4 _ _)

theorem keeps_add64 {off : Nat} (h : apartReg off) (h4 : apartReg (off + 4)) (d : Dev) (n : Nat) : Keeps d (d.add64 off n) := by
  unfold Dev.add64
  split
  · exact .refl d
  · exact keeps_wr64 h h4 d _

theorem keeps_addSat {off : Nat} (h : apartReg off) (d : Dev) (n : Nat) : Keeps d (d.addSat off n) := by
  unfold Dev.addSat
  split
  · exact .refl d
  · exact keeps_wr h d _

theorem keeps_raise {off : Nat} (h : apartReg off) (d : Dev) (b : Nat) (f : Dev → Dev) (hf : ∀ d, Keeps d (f d)) :
    Keeps d (d.raise off b f) := by
  obtain he | he := d.raise_cases off b f <;> rw [he]
  · exact (keeps_wr h d _).trans (hf _)
  · exact keeps_wr h d _

/-- The blocks from SMP on. -/
theorem apartReg_high {off : Nat} (h : 0x7000000 ≤ off) : apartReg off := by unfold apartReg; omega

/-- The blocks before the cores' pages. -/
theorem apartReg_low {off : Nat} (h : 0x10 ≤ off) (h2 : off < 0x4000000) : apartReg off := by unfold apartReg; omega

/-- A pair of those counts. -/
theorem keeps_high64 {off : Nat} (h : 0x7000000 ≤ off) (d : Dev) (n : Nat) : Keeps d (d.add64 off n) :=
  keeps_add64 (apartReg_high h) (apartReg_high (by omega)) d n

theorem keeps_flwWith (d : Dev) (l : List Word) (a b c e : Nat) : Keeps d (d.flwWith l a b c e) := by
  have hi (off : Nat) (h : 0x7000000 ≤ off := by decide) := apartReg_high h
  unfold Dev.flwWith
  split
  · exact .refl d
  · split
    · exact (keeps_addSat (hi rFlwDrop) d 1).trans (keeps_of_regs rfl)
    · dsimp only
      exact ((keeps_of_regs rfl).trans (keeps_wr (hi rFlwSeq) _ _)).trans (keeps_wr (hi rFlwStatus) _ _)

theorem keeps_flw (d : Dev) (a b c e : Nat) : Keeps d (d.flw a b c e) := keeps_flwWith d [] a b c e

theorem keeps_ledger (d : Dev) (a b c e : Nat) (w : Word) : Keeps d (d.ledger a b c e w) := by
  unfold Dev.ledger
  dsimp only
  split
  · exact keeps_of_regs rfl
  · split
    · exact keeps_of_regs rfl
    · split
      · exact keeps_of_regs rfl
      · exact .refl d

theorem keeps_accessErr (d : Dev) (a b c e : Nat) : Keeps d (d.accessErr a b c e) := by
  have hl (off : Nat) (h : 0x10 ≤ off := by decide) (h2 : off < 0x4000000 := by decide) := apartReg_low h h2
  exact ((keeps_raise (hl rTopAccessErr) d _ _ fun _ => (keeps_wr (hl rTopAccessSrc) _ _).trans
    (keeps_wr64 (hl rTopAccessAddrLo) (hl (rTopAccessAddrLo + 4)) _ _)).trans (keeps_addSat (hl rTopAccessCount) _ _)).trans
    (keeps_flw _ _ _ _ _)

theorem keeps_epFlag (d : Dev) (p b : Nat) : Keeps d (d.epFlag p b) :=
  keeps_wr (apartReg_high (by unfold rColEpFlags; omega)) d _

theorem keeps_refuse (d : Dev) (p a b : Nat) : Keeps d (d.refuse p a b) := (keeps_epFlag d p 0).trans (keeps_flw _ _ _ _ _)

theorem keeps_requestWake (d : Dev) (u : WakeUnit) (n : Nat) : Keeps d (d.requestWake u n) := by
  unfold Dev.requestWake
  split
  · exact .refl d
  · exact keeps_of_regs rfl

/-! #### Granules (07) -/

theorem apartReg_page {pg off : Nat} (h : pg < 20) (h0 : 0 < off) (ho : off < 0x100000) : apartReg (pgReg pg off) := by
  unfold apartReg pgReg
  split <;> omega

theorem pgReg_add (pg off n : Nat) : pgReg pg off + n = pgReg pg (off + n) := by
  unfold pgReg
  split <;> omega

section Page

variable {pg : Nat} (h : pg < 20)
include h

theorem keeps_page {off : Nat} (h0 : 0 < off) (ho : off < 0x100000) (d : Dev) (v : Word) : Keeps d (d.wr (pgReg pg off) v) :=
  keeps_wr (apartReg_page h h0 ho) d v

theorem keeps_page64 {off : Nat} (h0 : 0 < off) (ho : off + 4 < 0x100000) (d : Dev) (v : Nat) : Keeps d (d.wr64 (pgReg pg off) v) :=
  keeps_wr64 (apartReg_page h h0 (by omega)) (by rw [pgReg_add]; exact apartReg_page h (by omega) ho) d v

theorem keeps_pageCount {off : Nat} (h0 : 0 < off) (ho : off < 0x100000) (d : Dev) (n : Nat) :
    Keeps d (d.addSat (pgReg pg off) n) :=
  keeps_addSat (apartReg_page h h0 ho) d n

theorem keeps_memErr (d : Dev) (b s y k a : Nat) : Keeps d (d.memErr pg b s y k a) := by
  refine keeps_raise (apartReg_page h (by decide) (by decide)) d _ _ fun d => ?_
  have hinfo (v : Nat) := (keeps_page64 h (off := 0x18) (by decide) (by decide) d a).trans
    (keeps_page h (off := 0x20) (by decide) (by decide) _ (BitVec.ofNat 32 v))
  dsimp only
  split
  · exact hinfo _
  · exact (hinfo _).trans ((keeps_page h (off := 0x24) (by decide) (by decide) _ _).trans
      (keeps_page h (off := 0x28) (by decide) (by decide) _ _))

theorem keeps_memCe (d : Dev) (s y a : Nat) : Keeps d (d.memCe pg s y a) := by
  unfold Dev.memCe
  extract_lets d1 w n m d2
  have h1 : Keeps d d1 := (keeps_memErr h d 0 s y 0 a).trans (keeps_pageCount h (by decide) (by decide) _ 1)
  have h2 : Keeps d d2 := h1.trans (keeps_of_regs rfl)
  split
  · exact h1
  · split
    · exact h2.trans (((keeps_memErr h _ _ _ _ _ _).trans (keeps_flwWith _ _ _ _ _ _)).trans (keeps_ledger _ _ _ _ _ _))
    · exact h2

end Page

theorem keeps_found (d : Dev) (a : Nat) : Keeps d (d.found a).2 := by
  unfold Dev.found
  dsimp only
  split
  · split <;> exact keeps_of_regs rfl
  · split
    · split
      · exact keeps_of_regs rfl
      · split <;> exact keeps_of_regs rfl
    · dsimp only
      split
      · next hp => exact keeps_pageCount (errPage_lt hp) (by decide) (by decide) d 1
      · exact .refl d
    · exact .refl d

theorem keeps_ueLedger (d : Dev) (pg src a : Nat) : Keeps d (d.ueLedger pg src a) := by
  refine Keeps.trans ?_ (keeps_ledger _ _ _ _ _ _)
  unfold Dev.ueSeen
  split
  · exact keeps_of_regs rfl
  · exact .refl d

theorem keeps_corrected (d : Dev) (src sym a : Nat) : Keeps d (d.corrected src sym a) := by
  unfold Dev.corrected
  split
  · next hp => exact keeps_memCe (errPage_lt hp) _ _ _ _
  · exact .refl d

/-- An event of a page counted and recorded. -/
theorem keeps_pageEvent {pg : Nat} (h : pg < 20) {off : Nat} (h0 : 0 < off) (ho : off < 0x100000) (d : Dev) (b s y k a code : Nat) :
    Keeps d (((((d.memErr pg b s y k a).addSat (pgReg pg off) 1).memFlw pg code s).ueLedger pg s a)) :=
  (((keeps_memErr h d b s y k a).trans (keeps_pageCount h h0 ho _ 1)).trans (keeps_flwWith _ _ _ _ _ _)).trans (keeps_ueLedger _ _ _ _)

theorem keeps_uncorrectable (d : Dev) (src : Nat) (scrub : Bool) (a : Nat) : Keeps d (d.uncorrectable src scrub a) := by
  unfold Dev.uncorrectable
  split
  · next pg hp =>
    have hpg := errPage_lt hp
    have hcount (k : Nat) := (keeps_memErr hpg d 1 src 0x7F k a).trans (keeps_pageCount hpg (off := 0x34) (by decide) (by decide) _ 1)
    cases scrub
    · exact keeps_pageEvent hpg (by decide) (by decide) d 1 src 0x7F 1 a 1
    · exact ((hcount 3).trans (keeps_memErr hpg _ _ _ _ _ _)).trans ((keeps_flwWith _ _ _ _ _ _).trans (keeps_ueLedger _ _ _ _))
  · split
    · exact keeps_flw _ _ _ _ _
    · exact .refl d

theorem keeps_poisonRead (d : Dev) (src : Nat) (scrub : Bool) (a : Nat) : Keeps d (d.poisonRead src scrub a) := by
  unfold Dev.poisonRead
  split
  · next hp =>
    split
    · exact .refl d
    · exact (keeps_memErr (errPage_lt hp) _ _ _ _ _ _).trans (keeps_pageCount (errPage_lt hp) (by decide) (by decide) _ _)
  · exact .refl d

theorem keeps_readGran (d : Dev) (src : Nat) (scrub : Bool) (a : Nat) : Keeps d (d.readGran src scrub a).2 := by
  have hf := keeps_found d a
  unfold Dev.readGran
  dsimp only
  split
  · exact keeps_poisonRead _ _ _ _
  · split
    · exact hf
    · exact hf.trans ((keeps_mem _ _).trans (keeps_corrected _ _ _ _))
    · refine hf.trans (Keeps.trans ?_ (keeps_uncorrectable _ _ _ _))
      split
      · exact .refl _
      · exact keeps_mem _ _

theorem keeps_partPoisoned (d : Dev) (src a : Nat) : Keeps d (d.partPoisoned src a) := by
  unfold Dev.partPoisoned
  split
  · next hp => exact keeps_pageEvent (errPage_lt hp) (by decide) (by decide) d _ _ _ _ _ _
  · split
    · exact keeps_flw _ _ _ _ _
    · exact .refl d

theorem keeps_rmwGran (d : Dev) (src a : Nat) (f : List Byte → List Byte) (mark : Bool) : Keeps d (d.rmwGran src a f mark) := by
  have hf := keeps_found d a
  unfold Dev.rmwGran
  dsimp only
  split
  · exact keeps_mem _ _
  · split
    · exact hf.trans (keeps_mem _ _)
    · exact hf.trans ((keeps_mem _ _).trans (keeps_corrected _ _ _ _))
    · exact hf.trans ((keeps_mem _ _).trans (keeps_partPoisoned _ _ _))

theorem keeps_writeGran (d : Dev) (src a : Nat) (bs : List Byte) (mark : Bool) : Keeps d (d.writeGran src a bs mark) := by
  unfold Dev.writeGran
  split
  · exact keeps_mem _ _
  · exact keeps_rmwGran _ _ _ _ _

/-! #### Physical ranges -/

theorem keeps_charged (d : Dev) {s : Nat} (h : s < 12) (n : Nat) : Keeps d (d.add64 (rHbmChargedLo s) n) := by
  refine keeps_add64 ?_ ?_ d n <;> unfold apartReg rHbmChargedLo <;> omega

theorem keeps_charge (d : Dev) (a n : Nat) (wr : Bool) : Keeps d (d.charge a n wr) := by
  have hst (d : Dev) (x k : Nat) : Keeps d (d.add64 (rHbmChargedLo (hbmPc x / 64)) k) :=
    keeps_charged d (by have := hbmPc_lt x; omega) k
  have hall (g : Nat → Nat) (d : Dev) : Keeps d (d.each (List.range 12) fun d s => d.add64 (rHbmChargedLo s) (g s)) :=
    List.foldlRecOn _ _ (Keeps.refl d) fun _ ht s hs => ht.trans (keeps_charged _ (List.mem_range.mp hs) _)
  have hpart (l : List (Nat × Nat)) (d : Dev) : Keeps d (d.each l fun d e => d.add64 (rHbmChargedLo (hbmPc e.1 / 64)) 768) :=
    keeps_each d l _ fun d e => hst d e.1 768
  unfold Dev.charge
  split
  · exact .refl d
  · split
    · exact ((hall _ d).trans (hst _ _ _)).trans (hpart _ _)
    · exact (hall _ d).trans (hst _ _ _)

theorem keeps_countBytes (d : Dev) {reg : Nat} (a n : Nat) (h0 : 0 < reg) (h : reg + 4 < 0x100000) :
    Keeps d (d.countBytes reg a n) := by
  unfold Dev.countBytes
  split
  · next hp =>
    refine keeps_add64 (apartReg_page (errPage_lt hp) h0 (by omega)) ?_ d n
    rw [pgReg_add]
    exact apartReg_page (errPage_lt hp) (by omega) h
  · exact .refl d

theorem keeps_wakeBank (d : Dev) (a : Nat) : Keeps d (d.wakeBank a) := by
  unfold Dev.wakeBank
  split
  · dsimp only
    split
    · exact keeps_requestWake _ _ _
    · exact .refl d
  · exact .refl d

theorem keeps_breakResv (d : Dev) (a n : Nat) : Keeps d (d.breakResv a n) := by
  unfold Dev.breakResv
  dsimp only
  split
  · exact keeps_of_regs rfl
  · exact .refl d

theorem keeps_readPhys (d : Dev) (src a n : Nat) : Keeps d (d.readPhys src a n).2 := by
  unfold Dev.readPhys
  refine (keeps_charge d a n false).trans (keeps_fold _ _ (fun r e => ?_) ([], d.charge a n false))
  exact ((keeps_wakeBank _ _).trans (keeps_countBytes _ _ _ (by decide) (by decide))).trans (keeps_readGran _ _ _ _)

theorem keeps_writePhys (d : Dev) (src a : Nat) (bs : Marked) : Keeps d (d.writePhys src a bs) := by
  unfold Dev.writePhys
  refine ((keeps_charge d a _ true).trans (keeps_breakResv _ _ _)).trans (keeps_foldl _ (fun d e => ?_) _ _)
  exact ((keeps_wakeBank _ _).trans (keeps_countBytes _ _ _ (by decide) (by decide))).trans (keeps_writeGran _ _ _ _ _)

/-! #### Managed pages (08) and host memory (01) -/

theorem keeps_setPage (d : Dev) (n : Nat) (r : PageRec) : Keeps d (d.setPage n r) := fun _ _ => rfl

theorem keeps_touchPage (d : Dev) (n : Nat) : Keeps d (d.touchPage n) := fun _ _ => rfl

theorem keeps_tierCount (d : Dev) (p : Nat) : Keeps d (d.tierCount p) := by
  have hk : p % 8 < 8 := Nat.mod_lt _ (by decide)
  unfold Dev.tierCount
  dsimp only
  refine ((((((keeps_wr ?_ d _).trans (keeps_wr ?_ _ _)).trans (keeps_wr ?_ _ _)).trans (keeps_wr ?_ _ _)).trans
    (keeps_wr ?_ _ _)).trans (keeps_wr ?_ _ _)) <;>
  apply apartReg_high <;> simp only [rSmpPUse0, rSmpPUse1, rSmpPUse2, rSmpPAlloc, rSmpPPinned, rSmpPStatus] <;> omega

theorem keeps_moveExtent (d : Dev) (n a : Nat) : Keeps d (d.moveExtent n a) := by
  unfold Dev.moveExtent
  dsimp only
  split
  · exact ((keeps_readPhys _ _ _ _).trans (keeps_writePhys _ _ _ _)).trans (keeps_setPage _ _ _)
  · exact .refl d

theorem keeps_compactPool (d : Dev) (p : Nat) : Keeps d (d.compactPool p) := by
  unfold Dev.compactPool
  refine foldl_rel (fun (a b : Dev × Nat) => Keeps a.1 b.1) (fun _ => .refl _) (fun _ _ _ => Keeps.trans) _ (fun r e => ?_) _
    (d, d.rd64 (rSmpT2poolLo p))
  dsimp only
  split
  · exact .refl _
  · exact keeps_moveExtent _ _ _

theorem keeps_takeExtent (d : Dev) (p n : Nat) : Keeps d (d.takeExtent p n).2 := by
  unfold Dev.takeExtent
  dsimp only
  split
  · exact .refl d
  · split
    · exact .refl d
    · exact keeps_compactPool d p

theorem keeps_extChunk (d : Dev) (n c : Nat) : Keeps d (d.extChunk n c).2 := by
  unfold Dev.extChunk
  extract_lets r e l k len off b bad
  have he : Keeps d e.2 := keeps_readPhys _ _ _ _
  split
  · exact he
  · exact he.trans (keeps_readPhys _ _ _ _)

theorem keeps_chunkCount (d : Dev) (n len : Nat) : Keeps d (d.chunkCount n len) := by
  have h : n % 2 = 0 ∨ n % 2 = 1 := Nat.mod_two_eq_zero_or_one n
  unfold Dev.chunkCount
  rcases h with h | h <;> rw [h] <;>
    exact (keeps_high64 (by decide) _ _).trans (keeps_high64 (by decide) _ _)

theorem keeps_pageChunks (d : Dev) (n : Nat) : Keeps d (d.pageChunks n).2 := by
  unfold Dev.pageChunks
  refine keeps_fold _ _ (fun r c => ?_) (([] : List Chunk), d)
  have hf : Keeps r.2 (r.2.frameChunk n c).2 := keeps_readPhys _ _ _ _
  have h (q : Prop) [Decidable q] (k : Nat) :
      Keeps r.2 (if q then (r.2.frameChunk n c).2.chunkCount n k else (r.2.frameChunk n c).2) := by
    split
    · exact hf.trans (keeps_chunkCount _ _ _)
    · exact hf
  dsimp only
  split
  · exact keeps_extChunk _ _ _
  · exact h _ _

theorem keeps_writeBackPage {d t : Dev} {n : Nat} (h : d.writeBackPage n = some t) : Keeps d t := by
  unfold Dev.writeBackPage at h
  dsimp only at h
  split at h
  · cases h
  · split at h
    · cases h
    · next a d1 he =>
      have h2 := congrArg Prod.snd he ▸ keeps_takeExtent (d.pageChunks n).2 (d.page n).part
        ((streamOf (d.pageChunks n).1).length / 4096)
      cases h
      exact (((keeps_pageChunks d n).trans h2).trans (keeps_writePhys _ _ _ _)).trans ((keeps_setPage _ _ _).trans
        (keeps_high64 (by decide) _ _))

theorem keeps_dropPage (d : Dev) (n : Nat) : Keeps d (d.dropPage n) := by
  unfold Dev.dropPage
  dsimp only
  split
  · exact keeps_of_regs rfl
  · exact .refl d

theorem keeps_demotePage {d t : Dev} {n : Nat} (h : d.demotePage n = some t) : Keeps d t := by
  unfold Dev.demotePage at h
  dsimp only at h
  split at h
  · cases h
  · split at h
    · cases h; exact keeps_dropPage d n
    · obtain ⟨e, he, rfl⟩ := Option.map_eq_some_iff.mp h
      exact (keeps_writeBackPage he).trans (keeps_dropPage _ _)

theorem keeps_evict {d t : Dev} {p : Nat} (h : d.evict p = some t) : Keeps d t := by
  obtain ⟨n, _, hn⟩ := List.exists_of_findSome?_eq_some h
  exact keeps_demotePage hn

theorem keeps_evictBelow (p lim k : Nat) (d : Dev) : Keeps d (d.evictBelow p lim k) := by
  induction k generalizing d with
  | zero => exact .refl d
  | succ k ih =>
    unfold Dev.evictBelow
    split
    · exact .refl d
    · split
      · next he => exact (keeps_evict he).trans (ih _)
      · exact .refl d

theorem keeps_takeFrame (d : Dev) (p : Nat) : Keeps d (d.takeFrame p).2 := by
  have h (lim k : Nat) : Keeps d (if lim = 0 then d else d.evictBelow p lim k) := by
    split
    · exact .refl d
    · exact keeps_evictBelow _ _ _ _
  have h2 (c : Prop) [Decidable c] (x : Option Nat) (t : Dev) (k : Keeps d t) :
      Keeps d (if c then (x, t) else ((none, t) : Option Nat × Dev)).2 := by
    split <;> exact k
  unfold Dev.takeFrame
  exact h2 _ _ _ (h _ _)

theorem keeps_smpErr (d : Dev) (a b c e f g : Nat) : Keeps d (d.smpErr a b c e f g) := by
  have hi (off : Nat) (h : 0x7000000 ≤ off := by decide) := apartReg_high h
  exact (keeps_raise (hi rSmpErr) d _ _ fun _ => (keeps_wr64 (hi rSmpErrAddrLo) (hi (rSmpErrAddrLo + 4)) _ _).trans
    (keeps_wr (hi rSmpErrInfo) _ _)).trans (keeps_flw _ _ _ _ _)

theorem keeps_promoteChunk (d : Dev) (n f c : Nat) : Keeps d (d.promoteChunk n f c) := by
  have h (q : Prop) [Decidable q] (a k : Nat) (t : Dev) (ht : Keeps d t) :
      Keeps d (if q then t.readPhys (tierSrc n) a k else (([], t) : Marked × Dev)).2 := by
    split
    · exact ht.trans (keeps_readPhys _ _ _ _)
    · exact ht
  have good (q : Prop) [Decidable q] (t : Dev) (k a : Nat) (bs : Marked) (ht : Keeps d t) :
      Keeps d ((if q then t.chunkCount n k else t).writePhys (tierSrc n) a bs) := by
    split
    · exact (ht.trans (keeps_chunkCount _ _ _)).trans (keeps_writePhys _ _ _ _)
    · exact ht.trans (keeps_writePhys _ _ _ _)
  have bad (t : Dev) (a va : Nat) (bs : Marked) (ht : Keeps d t) :
      Keeps d ((((t.writePhys (tierSrc n) a bs).smpErr 3 (tierSrc n) c 0 va va).addSat rSmpDamageCount 1).ledger 6 (tierSrc n) va 0 0) :=
    (ht.trans (keeps_writePhys _ _ _ _)).trans (((keeps_smpErr _ _ _ _ _ _ _).trans
      (keeps_addSat (off := rSmpDamageCount) (apartReg_high (by decide)) _ _)).trans (keeps_ledger _ _ _ _ _ _))
  unfold Dev.promoteChunk
  extract_lets r e l kind pm len off fits b body crcOk out t a
  have ht : Keeps d t := h _ _ _ _ (keeps_readPhys _ _ _ _)
  clear_value t out b kind
  split
  · exact good _ _ _ _ _ ht
  · exact bad _ _ _ _ ht

/-- A promotion. -/
theorem keeps_promotePage (d : Dev) (n : Nat) : Keeps d (d.promotePage n).2 := by
  unfold Dev.promotePage
  dsimp only
  split
  · exact .refl d
  · have h := keeps_takeFrame d (d.page n).part
    split
    · next he => rw [he] at h; exact h.trans (keeps_tierCount _ _)
    · next he =>
        rw [he] at h
        exact (h.trans (keeps_each _ _ _ fun d c => keeps_promoteChunk d n _ c)).trans ((((keeps_setPage _ _ _).trans
          (keeps_touchPage _ _)).trans (keeps_high64 (off := rSmpPromoteLo) (by decide) _ _)).trans
          (keeps_tierCount _ _))

theorem keeps_managedTarget (d : Dev) (a : Nat) (wr : Bool) : Keeps d (d.managedTarget a wr).2 := by
  have land (t : Dev) (n o : Nat) (ht : Keeps d t) : Keeps d
      (if wr then (t.touchPage n).setPage n { (t.touchPage n).page n with
        dirty := setBit (o / 65536) true ((t.touchPage n).page n).dirty } else t.touchPage n) := by
    split
    · exact ht.trans ((keeps_touchPage _ _).trans (keeps_setPage _ _ _))
    · exact ht.trans (keeps_touchPage _ _)
  unfold Dev.managedTarget
  dsimp only
  split
  · exact .refl d
  · exact land d _ _ (.refl d)
  · exact land d _ _ (.refl d)
  · split
    · exact .refl d
    · have h := keeps_takeFrame d (d.page ((a - 0x80000000000) / 0x200000)).part
      split
      · next he => rw [he] at h; exact h.trans (keeps_tierCount _ _)
      · next he =>
          rw [he] at h
          exact land _ _ _ (h.trans ((keeps_writePhys _ _ _ _).trans ((keeps_setPage _ _ _).trans (keeps_tierCount _ _))))
  · have h := keeps_promotePage d ((a - 0x80000000000) / 0x200000)
    split
    · next he => rw [he] at h; exact h
    · next he =>
        rw [he] at h
        exact land _ _ _ (h.trans (keeps_high64 (by unfold rSmpPFaultsLo; omega) _ _))

/-! ### Host memory (01) -/

theorem keeps_pciErr (d : Dev) (p b a : Nat) : Keeps d (d.pciErr p b a) := by
  refine keeps_raise (apartReg_high ?_) d _ _ fun _ => keeps_wr64 (apartReg_high ?_) (apartReg_high ?_) _ _
  all_goals simp only [rPciErr, rPciErrAddrLo]; omega

/-- A change of host memory alone. -/
theorem keeps_host (d : Dev) (h : HostSt) : Keeps d { d with host := h } := (fun _ _ => rfl)

theorem keeps_readHost (d : Dev) (p a n : Nat) : Keeps d (d.readHost p a n).2 := by
  unfold Dev.readHost
  dsimp only
  split
  · exact .refl d
  · split
    · exact (keeps_host d _).trans (keeps_pciErr _ _ _ _)
    · exact fun _ _ => rfl

theorem keeps_writeHost (d : Dev) (p a : Nat) (bs : Marked) : Keeps d (d.writeHost p a bs) := by
  unfold Dev.writeHost
  dsimp only
  split
  · exact (keeps_addSat (apartReg_high (by simp only [rPciDropCount]; omega)) _ _).trans (keeps_pciErr _ _ _ _)
  · split
    · exact (keeps_host d _).trans (keeps_pciErr _ _ _ _)
    · exact fun _ _ => rfl

/-! ### Accesses by device address -/

theorem keeps_stallAt (d : Dev) (src n : Nat) : Keeps d (d.stallAt src n) := by
  unfold Dev.stallAt
  split
  · exact .refl d
  · exact fun _ _ => rfl

theorem keeps_endWait (d : Dev) (src n : Nat) : Keeps d (d.endWait src n) := by
  unfold Dev.endWait
  split
  · exact fun _ _ => rfl
  · exact .refl d

theorem keeps_resolve (acc : Acc) (d : Dev) (wr : Bool) (a : Nat) : Keeps d (d.resolve acc wr a).2 := by
  have no (t : Dev) (ht : Keeps d t) : Keeps d (match acc.part with
      | some p => ((Target.refused, t.refuse p acc.src a) : Target × Dev)
      | none => (.refused, t)).2 := by
    split
    · exact ht.trans (keeps_refuse _ _ _ _)
    · exact ht
  unfold Dev.resolve
  dsimp only
  split
  · split
    · exact (keeps_epFlag _ _ _).trans (keeps_accessErr _ _ _ _ _)
    · exact no d (.refl d)
  · split
    · split
      · exact keeps_endWait _ _ _
      · have hm := keeps_managedTarget d a wr
        split
        · next he => rw [he] at hm; exact hm.trans (keeps_endWait _ _ _)
        · next he => rw [he] at hm; exact hm.trans (keeps_endWait _ _ _)
        · next he => rw [he] at hm; exact no _ (hm.trans (keeps_endWait _ _ _))
        · next he => rw [he] at hm; exact hm.trans (keeps_stallAt _ _ _)
    · split <;> exact .refl d

/-- A read by device address. -/
theorem keeps_readReq (acc : Acc) (d : Dev) (req a n : Nat) : Keeps d (d.readReq acc req a n).2 := by
  unfold Dev.readReq
  refine keeps_fold _ _ (fun r e => ?_) ((⟨[], none, false, false⟩ : Rd), d)
  have hr := keeps_resolve acc r.2 false e.1
  dsimp only
  split
  · next he => rw [he] at hr; exact hr
  · next he => rw [he] at hr; exact hr
  · next he => rw [he] at hr; exact hr.trans (keeps_readPhys _ _ _ _)
  · next he => rw [he] at hr; exact hr.trans (keeps_readHost _ _ _ _)

/-- A write by device address. -/
theorem keeps_writeReq (acc : Acc) (d : Dev) (req a : Nat) (bs : Marked) : Keeps d (d.writeReq acc req a bs).2 := by
  unfold Dev.writeReq
  refine keeps_fold _ _ (fun r e => ?_) ((none : Option Nat), d)
  have hr := keeps_resolve acc r.2 true e.1
  dsimp only
  split
  · next he => rw [he] at hr; exact hr
  · next he => rw [he] at hr; exact hr
  · next he => rw [he] at hr; exact hr.trans (keeps_writePhys _ _ _ _)
  · next he => rw [he] at hr; exact hr.trans (keeps_writeHost _ _ _ _)

theorem keeps_readMem (acc : Acc) (d : Dev) (a n : Nat) : Keeps d (d.readMem acc a n).2 := keeps_readReq acc d _ a n

theorem keeps_writeMem (acc : Acc) (d : Dev) (a : Nat) (bs : Marked) : Keeps d (d.writeMem acc a bs).2 :=
  keeps_writeReq acc d _ a bs

end Sys2Proof.Machine

namespace Sys2Proof.Machine

/-! #### Completions, FLUSH and withdrawal -/

theorem keeps_wrFld {off : Nat} (h : apartReg off) (d : Dev) (a b v : Nat) : Keeps d (d.wrFld off a b v) := keeps_wr h d _

theorem keeps_setCmd (d : Dev) (q : Nat) (i : Word) (f : Inflight → Inflight) : Keeps d (d.setCmd q i f) := fun _ _ => rfl

theorem keeps_finish (d : Dev) (x : Inflight) (r : Result) : Keeps d (d.finish x r) := keeps_setCmd d _ _ _

/-- The books of the tile sequencers. -/
theorem Books.keeps {d t : Dev} (h : Books d t) : Keeps d t := fun off ho =>
  h.rd off fun hs => ho (apartReg_low (by unfold tsqReg at hs; omega) hs.2)

theorem keeps_tsqErr (d : Dev) {hub : Nat} (h : hub < 2) (bit q seq : Nat) : Keeps d (d.tsqErr hub bit q seq) := by
  refine keeps_raise (apartReg_low ?_ ?_) d _ _ fun d => (keeps_wr (apartReg_low ?_ ?_) d _).trans (keeps_wr (apartReg_low ?_ ?_) _ _) <;>
    simp only [rTsqErr, rTsqErrQ, rTsqErrSeq] <;> omega

theorem keeps_signal (d : Dev) (st : Status) {s : SigE} (h : s.cnt < 2 ^ 18) : Keeps d (d.signal st s) := by
  have hv : apartReg (rQmgCntVal s.cnt) := apartReg_low (by unfold rQmgCntVal; omega) (by unfold rQmgCntVal; omega)
  have ha : apartReg (rQmgCntAdd s.cnt) := apartReg_low (by unfold rQmgCntAdd; omega) (by unfold rQmgCntAdd; omega)
  have hfault (b : Bool) (t : Dev) (ht : Keeps d t) : Keeps d (t.cntFault s.cnt b) := ht.trans (keeps_wr ha t _)
  have hset : Keeps d (d.wr (rQmgCntVal s.cnt) s.value) := keeps_wr hv d _
  have hadd : Keeps d (d.cntAdd s.cnt s.value) := keeps_wr hv d _
  unfold Dev.signal
  dsimp only
  split <;> split
  · exact hfault _ _ hset
  · exact hfault _ _ hadd
  · exact hfault _ _ hset
  · exact hadd

theorem cnt_lt_of_mem_sigsOf {slot ext : List Byte} {s : SigE} (h : s ∈ sigsOf slot ext) : s.cnt < 2 ^ 18 := by
  have hat (l : List Byte) (o : Nat) : (sigAt l o).cnt < 2 ^ 18 := Nat.mod_lt _ (by decide)
  have hmem := (List.mem_filter.mp h).1
  rw [List.mem_cons] at hmem
  obtain rfl | hmem := hmem
  · exact hat _ _
  · split at hmem
    · cases hmem
    · rw [List.mem_singleton.mp hmem]
      exact hat _ _

theorem keeps_msixSend (d : Dev) (port vec : Nat) : Keeps d (d.msixSend port vec) := by
  unfold Dev.msixSend
  dsimp only
  split <;> exact fun _ _ => rfl

theorem keeps_gate (d : Dev) (p cls : Nat) (st : Status) : Keeps d (d.gate p cls st) := by
  have hflag (c : Prop) [Decidable c] (b : Nat) (t : Dev) : Keeps t (if c then t.epFlag p b else t) := by
    split
    · exact keeps_epFlag _ _ _
    · exact .refl _
  unfold Dev.gate
  exact (hflag _ 0 d).trans (hflag _ 1 _)

theorem apartReg_col {p off : Nat} (h : off < 0x1000) : apartReg (0x9800000 + off + 0x1000 * p) := apartReg_high (by omega)

theorem keeps_epochClear (d : Dev) (p : Nat) : Keeps d (d.epochClear p) := by
  have hc (off : Nat) (ho : off < 0x1000 := by decide) := apartReg_col (p := p) ho
  exact (keeps_wr (hc 0xC) d _).trans (((keeps_of_regs rfl).trans (keeps_wr (hc 0x30) _ _)).trans (keeps_wr (hc 0x34) _ _))

theorem keeps_epochDone (d : Dev) (p : Nat) (st : Status) : Keeps d (d.epochDone p st) := by
  have hc (off : Nat) (ho : off < 0x1000 := by decide) := apartReg_col (p := p) ho
  have hend (t : Dev) (ht : Keeps d t) : Keeps d (if st = .done then t else (t.addSat (rColEpAborts p) 1).epochClear p) := by
    split
    · exact ht
    · exact ht.trans ((keeps_addSat (hc 0x24) t 1).trans (keeps_epochClear _ _))
  unfold Dev.epochDone
  refine hend _ ?_
  split
  · split
    · exact .refl d
    · exact keeps_wrFld (hc 8) d _ _ _
  · exact .refl d

theorem keeps_slotBytes (d : Dev) (q : Nat) (c : Word) : Keeps d (d.slotBytes q c).2 := by
  unfold Dev.slotBytes
  split
  · exact .refl d
  · exact keeps_readMem _ _ _ _

theorem keeps_dropEarly (d : Dev) (q : Nat) (i : Word) : Keeps d (d.dropEarly q i) := by
  have hone (t : Dev) (e : Nat × LaunchSt) : Keeps t ((t.trwDrop (.stage e.1)).freeSlot e.1) := (books_freeSlot _ _).keeps
  have hall (l : List (Nat × LaunchSt)) : Keeps d (d.each l fun d e => (d.trwDrop (.stage e.1)).freeSlot e.1) :=
    keeps_each d l _ hone
  exact fun off ho => hall _ off ho

section Queue

theorem apartReg_queue {q off : Nat} (h : q < 65536) (ho : off < 0x40) : apartReg (0x1400000 + off + 0x40 * q) :=
  apartReg_low (by omega) (by omega)

variable {q : Nat} (h : q < 65536)
include h

theorem keeps_haltErr (d : Dev) (r : Result) : Keeps d (d.haltErr q r) := by
  unfold Dev.haltErr
  split
  · exact keeps_wrFld (apartReg_queue h (off := 0xC) (by decide)) d _ _ _
  · exact .refl d

theorem keeps_retire (fuel : Nat) (d : Dev) : Keeps d (d.retire q fuel) := by
  induction fuel generalizing d with
  | zero => exact .refl d
  | succ fuel ih =>
    unfold Dev.retire
    dsimp only
    split
    · exact .refl d
    · exact (keeps_of_regs rfl).trans ((keeps_wr (apartReg_queue h (off := 0x18) (by decide)) _ _).trans (ih _))

/-- The completion of a command: record, signals, message, gates and RETIRE. -/
theorem keeps_complete (d : Dev) {x : Inflight} (hx : x.q = q) (ts0 : Nat) : Keeps d (d.complete x ts0) := by
  have hq : x.q < 65536 := hx ▸ h
  have hsig (p : SigE → Bool) (t : Dev) : Keeps t (t.each ((sigsOf x.slot x.ext).filter p) fun d s => d.signal x.res.status s) :=
    List.foldlRecOn _ _ (Keeps.refl t) fun u hu s hs =>
      hu.trans (keeps_signal u _ (cnt_lt_of_mem_sigsOf (List.mem_filter.mp hs).1))
  have hmsg (t : Dev) (w : Word) : Keeps t (if x.ctrl.testBit 10 then t.msixSend (fld 21 21 w) (fld 20 10 w) else t) := by
    split
    · exact keeps_msixSend _ _ _
    · exact .refl t
  have hrest (t : Dev) (m : QueueSt) : Keeps t (({ t with queue := m } : Dev).retire x.q (m.doneSlots.length + 1)) :=
    Keeps.trans (b := { t with queue := m }) (fun _ _ => rfl) (keeps_retire hq _ _)
  have hend (t : Dev) (ht : Keeps d t) : Keeps d (if x.cls = 11 then t.epochDone x.part x.res.status else t) := by
    split
    · exact ht.trans (keeps_epochDone _ _ _)
    · exact ht
  unfold Dev.complete
  dsimp only
  refine hend _ (((((keeps_writeMem _ d _ _).trans (hsig _ _)).trans (hmsg _ _)).trans
    ((keeps_gate _ _ _ _).trans (keeps_haltErr hq _ _))).trans (hrest _ _))

theorem keeps_flushOne (d : Dev) (cause : Nat) : Keeps d (d.flushOne q cause) := by
  have hext (c : Prop) [Decidable c] (t : Dev) (i : Word) (ht : Keeps d t) :
      Keeps d (if c then t.slotBytes q i else (([], t) : List Byte × Dev)).2 := by
    split
    · exact ht.trans (keeps_slotBytes _ _ _)
    · exact ht
  unfold Dev.flushOne
  dsimp only
  exact ((hext _ _ _ (keeps_slotBytes _ _ _)).trans (keeps_dropEarly _ _ _)).trans
    ((keeps_wr (apartReg_queue h (off := 0x14) (by decide)) _ _).trans (keeps_complete h _ rfl 0))

theorem keeps_flushAll (cause fuel : Nat) (d : Dev) : Keeps d (d.flushAll q cause fuel) := by
  induction fuel generalizing d with
  | zero => exact .refl d
  | succ fuel ih =>
    unfold Dev.flushAll
    split
    · exact .refl d
    · exact (keeps_flushOne h d cause).trans (ih _)

theorem keeps_flush (d : Dev) (cause : Nat) : Keeps d (d.flush q cause) := (keeps_flushAll h _ _ d).trans (keeps_of_regs rfl)

end Queue

theorem lt_of_mem_enabledQueues {d : Dev} {q : Nat} (h : q ∈ d.enabledQueues) : q < 65536 := by
  obtain ⟨e, -, he⟩ := List.mem_filterMap.mp h
  split at he
  · next hc =>
    simp only [Bool.and_eq_true, decide_eq_true_eq] at hc
    cases he
    omega
  · cases he

/-- What a withdrawal leaves once it has set WD. -/
theorem Dev.withdraw_cases (d : Dev) (cause : Nat) : bitOf 6 (d.rd rTopStatus) = true ∧ d.withdraw cause = d ∨
    Keeps (d.wr rTopStatus (setFld 10 7 cause (setBit 6 true (d.rd rTopStatus)))) (d.withdraw cause) := by
  have hflush (t : Dev) : Keeps t (t.each t.enabledQueues fun d q => d.flush q 0) :=
    List.foldlRecOn _ _ (Keeps.refl t) fun u hu q hq => hu.trans (keeps_flush (lt_of_mem_enabledQueues hq) u 0)
  unfold Dev.withdraw
  dsimp only
  split
  · next h => exact .inl ⟨h, rfl⟩
  · refine .inr (Keeps.trans (fun off _ => ?_) ((hflush _).trans ((keeps_flw _ _ _ _ _).trans (keeps_ledger _ _ _ _ _ _))))
    rfl

end Sys2Proof.Machine

namespace Sys2Proof.Machine

/-! ### The parts of a fence (R134, R304) -/

theorem mem_sortNat {j : Nat} {l : List Nat} : j ∈ sortNat l ↔ j ∈ l := by
  have hgen (acc : List Nat) : j ∈ l.foldl (fun acc k => insNat k acc) acc ↔ j ∈ acc ∨ j ∈ l := by
    induction l generalizing acc with
    | nil => simp
    | cons k t ih =>
      simp only [List.foldl_cons, ih, mem_insNat, List.mem_cons]
      tauto
  simpa [sortNat] using hgen []

theorem mem_rangeFrom {a n i : Nat} : i ∈ rangeFrom a n ↔ a ≤ i ∧ i < a + n := by
  unfold rangeFrom
  simp only [List.mem_map, List.mem_range]
  exact ⟨by rintro ⟨j, hj, rfl⟩; omega, fun h => ⟨i - a, by omega, by omega⟩⟩

section FenceCore

variable (d : Dev)

theorem Dev.rd_fenceCore {c off : Nat} (h : off ≠ rCoreStatus c) : (d.fenceCore c).rd off = d.rd off :=
  (Dev.rd_setCoreState _ _ h).trans (Dev.rd_setCore _ _ h)

theorem Dev.coreState_fenceCore (c b : Nat) : (d.fenceCore c).coreState b = if b = c then 5 else d.coreState b := by
  unfold Dev.fenceCore
  split
  · next h => rw [h, Dev.coreState_setCoreState_same _ _ (by decide)]
  · next h => rw [Dev.coreState_setCoreState_ne _ _ h]; exact Dev.coreState_setCore _ _ _ _

theorem Dev.rd_fenceCores {off : Nat} {l : List Nat} (h : ∀ c ∈ l, off ≠ rCoreStatus c) : (d.each l Dev.fenceCore).rd off = d.rd off :=
  List.foldlRecOn (motive := fun t : Dev => t.rd off = d.rd off) l _ rfl fun t ht c hc => (t.rd_fenceCore (h c hc)).trans ht

theorem Dev.coreState_fenceCores (l : List Nat) (b : Nat) :
    (d.each l Dev.fenceCore).coreState b = if b ∈ l then 5 else d.coreState b := by
  induction l generalizing d with
  | nil => rfl
  | cons c t ih =>
    refine (ih (d.fenceCore c)).trans ?_
    rw [Dev.coreState_fenceCore]
    by_cases hb : b = c <;> simp [hb]

end FenceCore

/-- The end of a range scrub writes one bit of its page's first register. -/
theorem Dev.rangeEnd_cases (d : Dev) (pg : Nat) : d.rangeEnd pg = d ∨
    ∃ (m : MemSt) (v : Word), d.rangeEnd pg = (({ d with mem := m } : Dev).wr (pgReg pg 0x70) v).wrFld (pgReg pg 0) 1 1 0 := by
  unfold Dev.rangeEnd
  split
  · exact .inl rfl
  · exact .inr ⟨_, _, rfl⟩

theorem Dev.rd_rangeEnd (d : Dev) {pg off : Nat} (hpg : pg < 20) (h : ¬apartReg off) (hne : off ≠ pgReg pg 0) :
    (d.rangeEnd pg).rd off = d.rd off := by
  obtain he | ⟨m, v, he⟩ := d.rangeEnd_cases pg <;> rw [he]
  rw [Dev.rd_wrFld, if_neg hne]
  exact keeps_page hpg (by decide) (by decide) _ _ off h

theorem Dev.bitOf_rangeEnd (d : Dev) {pg n : Nat} (hpg : pg < 20) (hn : n ≠ 1) :
    bitOf n ((d.rangeEnd pg).rd (pgReg pg 0)) = bitOf n (d.rd (pgReg pg 0)) := by
  have hfirst : ¬apartReg (pgReg pg 0) := by unfold apartReg pgReg; split <;> omega
  obtain he | ⟨m, v, he⟩ := d.rangeEnd_cases pg <;> rw [he]
  rw [Dev.rd_wrFld, if_pos rfl, bitOf_setFld_ne _ _ _ _ _ (by omega)]
  exact congrArg (bitOf n) (keeps_page hpg (by decide) (by decide) _ _ _ hfirst)

theorem keeps_trwStat (d : Dev) (e : Nat) : Keeps d (d.trwStat e) :=
  (keeps_wr (apartReg_high (by unfold rTrwStatus; omega)) d _).trans (keeps_wr (apartReg_high (by unfold rTrwQueueUse; omega)) _ _)

theorem keeps_trwForget (d : Dev) (r : TrwReq) : Keeps d (d.trwForget r) := by
  have hqueue (t : Dev) (e : Nat) (q : List TrwJob) : Keeps t (t.setTrwQueue e q) := keeps_trwStat _ e
  have hbuild (t : Dev) (e : Nat) (b : Option TrwBuild) : Keeps t (t.setTrwBuild e b) := keeps_trwStat _ e
  unfold Dev.trwForget
  refine (keeps_each _ _ _ fun t e => hqueue t _ _).trans (keeps_each _ _ _ fun t e => ?_)
  split
  · exact hbuild t _ _
  · exact .refl t

theorem keeps_stopEngines (d : Dev) {n : Nat} (h : n < 8) : Keeps d (d.stopEngines n) := by
  refine List.foldlRecOn _ _ (Keeps.refl d) fun t ht e he => ht.trans ?_
  have hlt : 64 ≤ e ∧ e < 96 := by
    have := mem_rangeFrom.mp he
    omega
  have hreg (off : Nat) (ho : off < 0x1000 := by decide) : apartReg (0x2000000 + off + 0x1000 * e) := apartReg_low (by omega) (by omega)
  have hforget (u : Dev) (x : Inflight) (r : Result) : Keeps u ((u.trwForget (.cmd x.q x.i)).finish x r) :=
    (keeps_trwForget _ _).trans (keeps_finish _ _ _)
  have herr (c : Prop) [Decidable c] (u : Dev) :
      Keeps u (if c then u.raise (rDmaErr e) 2 (fun d => d.wr64 (rDmaErrAddrLo e) 0) else u) := by
    split
    · exact keeps_raise (hreg 0x10) u _ _ fun _ => keeps_wr64 (hreg 0x18) (apartReg_low (by omega) (by omega)) _ _
    · exact .refl u
  dsimp only
  refine (((keeps_each _ _ _ fun u c => hforget u _ _).trans (keeps_each _ _ _ fun u x => ?_)).trans (herr _ _)).trans
    (keeps_wr (hreg 0) _ _)
  split
  · exact hforget u _ _
  · exact keeps_finish u _ _

theorem keeps_modeSettle (d : Dev) : Keeps d d.modeSettle := by
  unfold Dev.modeSettle
  split
  · exact .refl d
  · split
    · exact keeps_wr (apartReg_low (by decide) (by decide)) _ _
    · exact .refl d

/-! ### The fence of a die (R134, R304, R306) -/

/-- Die `n` is marked fenced, its Gallery leaves service and its cores are fenced; the rest of its fence leaves these registers
alone. -/
def Dev.outOfService (d : Dev) (n : Nat) : Dev :=
  let t := (d.wr rTopStatus (setBit (16 + n) true (d.rd rTopStatus)))
  let t := (t.wr (rGalStatus n) (setBit 2 true (setBit 0 false (t.rd (rGalStatus n))))).rangeEnd n
  t.each ((rangeFrom (192 * n) 192).filter (fun c => t.coreState c ≠ 0)) Dev.fenceCore

/-- Then locks are freed, and the launches with cores there, their sequencers and the recorders note the fence. -/
def Dev.noteFence (d : Dev) (n : Nat) : Dev :=
  let d := { d with rcd := { d.rcd with mbxLock := d.rcd.mbxLock.filter (fun e => e.2.map (· / 2048) ≠ some n) } }
  let hit := d.launches.filter (fun e => e.2.cores.any (fun c => c / 192 = n))
  let d := d.each hit (fun d e => (d.wr (slotReg e.1 0) (setBit 3 true (d.rd (slotReg e.1 0)))).slotStat e.1)
  let d := d.each (sortNat (hit.map (fun e => hubOf e.1))) (fun d h => d.wrFld (rTsqStatus h) 9 9 1)
  let d := (d.flw 5 0x30 (srcOf .mgmt) n).ledger 9 (srcNo n 0x230) 0 3 0
  { d with rcd := { d.rcd with ledger := mapIf (·.fences n) (fun r => { r with done := true }) d.rcd.ledger } }

/-- A device with one partition withdraws once two dies are fenced (R306). -/
def Dev.withdrawIfTwo (d : Dev) : Dev :=
  if d.parts = 1 && 2 ≤ ((List.range 8).filter d.fenced).length then d.withdraw 3 else d

theorem Dev.fenceDie_eq {d : Dev} {n : Nat} (h : d.fenced n = false) :
    d.fenceDie n = (((d.outOfService n).stopEngines n).noteFence n).withdrawIfTwo.modeSettle := by
  unfold Dev.fenceDie
  rw [if_neg (ne_true_of_eq_false h)]
  extract_lets top gal range cores engines locks freed hit slots hubs records ledger noted out
  have hcores : d.outOfService n = cores := rfl
  have hnoted : engines.noteFence n = noted := rfl
  have hout : noted.withdrawIfTwo = out := rfl
  rw [hcores, show cores.stopEngines n = engines from rfl, hnoted, hout]

theorem keeps_noteFence (d : Dev) (n : Nat) : Keeps d (d.noteFence n) := by
  have hslots (t : Dev) (l : List (Nat × LaunchSt)) :
      Keeps t (t.each l fun d e => (d.wr (slotReg e.1 0) (setBit 3 true (d.rd (slotReg e.1 0)))).slotStat e.1) :=
    keeps_each t l _ fun u e => ((books_wr (tsqReg_slot _ (by decide)) u _).trans (books_slotStat _ _)).keeps
  have hhubs (t : Dev) (l : List (Nat × LaunchSt)) :
      Keeps t (t.each (sortNat (l.map (fun e => hubOf e.1))) fun d h => d.wrFld (rTsqStatus h) 9 9 1) := by
    refine List.foldlRecOn _ _ (Keeps.refl t) fun u hu k hk => hu.trans (keeps_wrFld ?_ u _ _ _)
    obtain ⟨e, -, rfl⟩ := List.mem_map.mp (mem_sortNat.mp hk)
    have hhub : hubOf e.1 < 2 := Nat.mod_lt _ (by decide)
    exact apartReg_low (by unfold rTsqStatus; omega) (by unfold rTsqStatus; omega)
  have hrest (t : Dev) (l : List (Nat × LaunchSt)) := (hslots t l).trans ((hhubs _ l).trans
    ((keeps_flw _ 5 0x30 (srcOf .mgmt) n).trans (keeps_ledger _ 9 (srcNo n 0x230) 0 3 0)))
  exact fun off ho => hrest _ _ off ho

section Fence

variable (d : Dev) {n : Nat} (hn : n < 8)
include hn

theorem rGalStatus_eq : rGalStatus n = pgReg n 0 := by simp [rGalStatus, pgReg, hn]

/-- The fence of its cores leaves a register outside their pages alone. -/
theorem ne_status_of_mem_die {p : Nat → Bool} {off : Nat} (h : off < 0x4000000 ∨ 0x5000000 ≤ off) :
    ∀ c ∈ (rangeFrom (192 * n) 192).filter p, off ≠ rCoreStatus c := by
  intro c hc
  have := mem_rangeFrom.mp (List.mem_filter.mp hc).1
  unfold rCoreStatus
  omega

theorem Dev.rd_outOfService_top : (d.outOfService n).rd rTopStatus = setBit (16 + n) true (d.rd rTopStatus) := by
  unfold Dev.outOfService
  dsimp only
  rw [Dev.rd_fenceCores _ (ne_status_of_mem_die hn (.inl (by decide))),
    Dev.rd_rangeEnd _ (by omega) (by unfold apartReg rTopStatus; omega) (by unfold pgReg rTopStatus; split <;> omega),
    Dev.rd_wr_ne _ _ (by unfold rGalStatus rTopStatus; omega), Dev.rd_wr_same]

theorem Dev.bitOf_outOfService_gal {b : Nat} (hb : b ≠ 1) : bitOf b ((d.outOfService n).rd (rGalStatus n)) =
    bitOf b (setBit 2 true (setBit 0 false (d.rd (rGalStatus n)))) := by
  unfold Dev.outOfService
  dsimp only
  rw [Dev.rd_fenceCores _ (ne_status_of_mem_die hn (.inr (by unfold rGalStatus; omega))), rGalStatus_eq hn,
    Dev.bitOf_rangeEnd _ (by omega) hb, Dev.rd_wr_same, Dev.rd_wr_ne _ _ (by unfold pgReg rTopStatus; split <;> omega)]

/-- The cores that are there are fenced, and no other core is. -/
theorem Dev.coreState_outOfService {b : Nat} (hb : b < 1536) : (d.outOfService n).coreState b =
    if b / 192 = n ∧ d.coreState b ≠ 0 then 5 else d.coreState b := by
  unfold Dev.outOfService
  dsimp only
  have hstate : (((d.wr rTopStatus (setBit (16 + n) true (d.rd rTopStatus))).wr (rGalStatus n) (setBit 2 true (setBit 0 false
      ((d.wr rTopStatus (setBit (16 + n) true (d.rd rTopStatus))).rd (rGalStatus n))))).rangeEnd n).coreState b = d.coreState b := by
    refine congrArg (fld 2 0) ((Dev.rd_rangeEnd _ (by omega) (by unfold apartReg rCoreStatus; omega) ?_).trans ?_)
    · unfold rCoreStatus pgReg; split <;> omega
    · rw [Dev.rd_wr_ne _ _ (by unfold rGalStatus rCoreStatus; omega), Dev.rd_wr_ne _ _ (by unfold rTopStatus rCoreStatus; omega)]
  have hdie : b / 192 = n ↔ 192 * n ≤ b ∧ b < 192 * n + 192 := by omega
  rw [Dev.coreState_fenceCores, hstate]
  simp only [List.mem_filter, mem_rangeFrom, hstate, decide_eq_true_eq, hdie]

end Fence

end Sys2Proof.Machine

namespace Sys2Proof.Machine

/-! ### What fences leave of service (R134, R303) -/

/-- From `d` to `t` no die is fenced or unfenced, and the states of the cores stay. -/
structure Serves (d t : Dev) : Prop where
  top : t.rd rTopStatus = d.rd rTopStatus
  state : ∀ b < 1536, t.coreState b = d.coreState b

theorem Serves.refl (d : Dev) : Serves d d := ⟨rfl, fun _ _ => rfl⟩

theorem Serves.trans {a b c : Dev} (h : Serves a b) (k : Serves b c) : Serves a c :=
  ⟨k.top.trans h.top, fun i hi => (k.state i hi).trans (h.state i hi)⟩

theorem serves_each {α : Type} (d : Dev) (l : List α) (f : Dev → α → Dev) (h : ∀ d a, Serves d (f d a)) : Serves d (d.each l f) :=
  foldl_rel Serves Serves.refl (fun _ _ _ => Serves.trans) f h l d

theorem Keeps.coreState {d t : Dev} (h : Keeps d t) {b : Nat} (hb : b < 1536) : t.coreState b = d.coreState b :=
  congrArg (fld 2 0) (h _ (by unfold apartReg rCoreStatus; omega))

theorem Keeps.top {d t : Dev} (h : Keeps d t) : t.rd rTopStatus = d.rd rTopStatus := h _ (by unfold apartReg rTopStatus; omega)

theorem Keeps.serves {d t : Dev} (h : Keeps d t) : Serves d t := ⟨h.top, fun _ hb => h.coreState hb⟩

theorem serves_setCore (d : Dev) (c : Nat) (k : CoreSt) : Serves d (d.setCore c k) :=
  ⟨Dev.rd_setCore _ _ (by unfold rTopStatus rCoreStatus; omega), fun _ _ => Dev.coreState_setCore _ _ _ _⟩

/-- The cores `cs` leave launch `k`. -/
def Dev.leaveLaunch (d : Dev) (k : Nat) (cs : List Nat) : Dev :=
  d.each cs fun d c => if (d.core c).launch = some k then
    d.setCore c { d.core c with launch := none, held := [], ents := [], wait := .run } else d

theorem serves_leaveLaunch (d : Dev) (k : Nat) (cs : List Nat) : Serves d (d.leaveLaunch k cs) := by
  refine serves_each d cs _ fun t c => ?_
  split
  · exact serves_setCore _ _ _
  · exact .refl t

theorem hubOf_lt (k : Nat) : hubOf k < 2 := Nat.mod_lt _ (by decide)

/-- Tiles dropped for good are listed by writes to memory, and a list too short for them is reported. -/
theorem serves_dropTiles (d : Dev) (k : Nat) (cs : List Nat) : Serves d (d.dropTiles k cs) := by
  have hset (t : Dev) (l : LaunchSt) (ht : Serves d t) : Serves d (t.setLaunch k l) := ht.trans (books_setLaunch t k l).keeps.serves
  have hlist (t : Dev) (acc : Acc) (a : Nat × Nat → Nat) (l : List (Nat × Nat)) (ht : Serves d t) :
      Serves d (t.each l fun d e => (d.writeMem acc (a e) (clean (leBytes 8 e.1))).2) :=
    ht.trans (keeps_each t l _ fun _ _ => keeps_writeMem _ _ _ _).serves
  unfold Dev.dropTiles
  split
  · exact .refl d
  · next l _ =>
    extract_lets held left
    have hleft : Serves d left := serves_leaveLaunch d k cs
    split
    · exact hleft.trans (books_slotStat _ _).keeps.serves
    · next t _ =>
      have hhub : apartReg (rTsqReissue (hubOf k)) := by
        have := hubOf_lt k
        exact apartReg_low (by unfold rTsqReissue; omega) (by unfold rTsqReissue; omega)
      split
      · exact (hset _ _ hleft).trans (keeps_addSat hhub _ _).serves
      · split
        · exact hset _ _ hleft
        · extract_lets fit written
          have hwritten : Serves d written := hlist _ _ _ _ (hset _ _ hleft)
          split
          · exact hwritten.trans ((keeps_tsqErr _ (hubOf_lt k) _ _ _).trans (keeps_flw _ _ _ _ _)).serves
          · exact hwritten

/-! ### A core's hardware fault (R303) -/

section LowState

/-! A launch goes on while a core of it that has not ended is in service. The two low bits of STATE show that of one that runs, and
no record touches them, whatever number the launch names a core by. -/

/-- STATE[1:0] of a core. -/
def Dev.lowState (d : Dev) (b : Nat) : Nat := fld 1 0 (d.rd (rCoreStatus b))

variable {d : Dev} {b : Nat}

theorem Dev.lowState_of_running (h : d.coreState b = 2) : d.lowState b = 2 := by
  unfold Dev.coreState Dev.rdFld fld at h
  unfold Dev.lowState fld
  omega

theorem Dev.serving_of_lowState (h : d.lowState b = 2) : d.coreState b ≠ 5 ∧ d.coreState b ≠ 0 := by
  unfold Dev.lowState fld at h
  unfold Dev.coreState Dev.rdFld fld
  omega

theorem Dev.lowState_congr {t : Dev} (h : t.rd (rCoreStatus b) = d.rd (rCoreStatus b)) : t.lowState b = d.lowState b :=
  congrArg (fld 1 0) h

theorem Books.lowState {t : Dev} (h : Books d t) (b : Nat) : t.lowState b = d.lowState b :=
  Dev.lowState_congr (h.rd _ (by unfold tsqReg rCoreStatus; omega))

theorem Dev.lowState_setCore {c : Nat} (h : b ≠ c) (k : CoreSt) : (d.setCore c k).lowState b = d.lowState b :=
  Dev.lowState_congr (Dev.rd_setCore _ _ (mt rCoreStatus_inj.mp h))

theorem Dev.lowState_flw (cls code src arg : Nat) : (d.flw cls code src arg).lowState b = d.lowState b := by
  have hdrop : rCoreStatus b ≠ rFlwDrop := by unfold rCoreStatus rFlwDrop; omega
  have hseq : rCoreStatus b ≠ rFlwSeq := by unfold rCoreStatus rFlwSeq; omega
  unfold Dev.flw Dev.flwWith
  split
  · rfl
  · split
    · exact Dev.lowState_congr (Dev.rd_wr_ne _ _ hdrop)
    · extract_lets r rcd queued numbered
      have hnumbered : numbered.lowState b = d.lowState b := Dev.lowState_congr (Dev.rd_wr_ne _ _ hseq)
      refine Eq.trans ?_ hnumbered
      unfold Dev.lowState
      rw [Dev.rd_wrFld]
      split
      · next h => rw [fld_setFld_ne _ _ _ _ _ _ (by omega), h]
      · rfl

end LowState

/-- The fault ledger is one of the recorders. -/
theorem Dev.ledger_eq (d : Dev) (a b c e : Nat) (w : Word) : d.ledger a b c e w = { d with rcd := (d.ledger a b c e w).rcd } := by
  unfold Dev.ledger
  dsimp only
  split
  · rfl
  · split
    · rfl
    · split <;> rfl

@[simp] theorem Dev.core_ledger (d : Dev) (a b c e : Nat) (w : Word) (i : Nat) : (d.ledger a b c e w).core i = d.core i := by
  rw [Dev.ledger_eq]
  rfl

/-- The core is fenced and its fault recorded. -/
def Dev.noteFault (d : Dev) (c : Nat) : Dev :=
  ((d.fenceCore c).flw 1 0x20 (srcOf (.core (Fin.ofNat 1536 c))) (d.core c).pc).ledger 1 (srcOf (.core (Fin.ofNat 1536 c))) 0 2 0

theorem Dev.coreFault_eq {d : Dev} {c : Nat} (h0 : d.coreState c ≠ 0) (h5 : d.coreState c ≠ 5) : d.coreFault c =
    match (d.core c).launch with
    | some k => ((d.noteFault c).dropTiles k [c]).launchDone k
    | none => (d.noteFault c).each ((d.noteFault c).launches.filter (fun e => e.2.cores.contains c))
        (fun d e => (d.slotStat e.1).launchDone e.1) := by
  unfold Dev.coreFault
  rw [if_neg (by simp [h0, h5])]
  rfl

section Fault

variable (d : Dev) (c : Nat)

theorem keeps_noteFault : Keeps (d.fenceCore c) (d.noteFault c) := (keeps_flw _ _ _ _ _).trans (keeps_ledger _ _ _ _ _ _)

theorem Dev.core_noteFault : (d.noteFault c).core c = { d.core c with ents := [] } := by
  unfold Dev.noteFault Dev.fenceCore
  rw [Dev.core_ledger, Dev.core_flw, Dev.core_setCoreState, Dev.core_updCore_same]

theorem Dev.launch?_noteFault (k : Nat) : (d.noteFault c).launch? k = d.launch? k := by
  unfold Dev.noteFault
  rw [Dev.ledger_eq, Dev.flw_eq]
  rfl

theorem Dev.lowState_noteFault {b : Nat} (h : b ≠ c) : (d.noteFault c).lowState b = d.lowState b := by
  unfold Dev.noteFault
  rw [Dev.ledger_eq]
  refine Dev.lowState_flw _ _ _ _ |>.trans (Dev.lowState_congr (d.rd_fenceCore (mt rCoreStatus_inj.mp h)))

end Fault

/-- After a fault the core is FENCED and every other core is in the state that it was in. -/
theorem Dev.coreState_coreFault {d : Dev} {c : Nat} (h0 : d.coreState c ≠ 0) (h5 : d.coreState c ≠ 5) {b : Nat} (hb : b < 1536) :
    (d.coreFault c).coreState b = if b = c then 5 else d.coreState b := by
  rw [← Dev.coreState_fenceCore, ← (keeps_noteFault d c).coreState hb, Dev.coreFault_eq h0 h5]
  split
  · exact ((serves_dropTiles _ _ _).trans (books_launchDone _ _).keeps.serves).state b hb
  · exact (serves_each _ _ _ fun t e => ((books_slotStat t _).trans (books_launchDone _ _)).keeps.serves).state b hb

/-- The launch lists the tiles `held` for reissue (R134). -/
def LaunchSt.relist (l : LaunchSt) (held : List Nat) : LaunchSt :=
  { l with reissue := sortNat (l.reissue ++ sortNat held), reissued := l.reissued ++ sortNat held }

/-- A launch with REISSUE whose core leaves it lists the core's tiles. -/
theorem Dev.dropTiles_one {d : Dev} {c k : Nat} {l : LaunchSt} {t : LaunchDesc} (hc : (d.core c).launch = some k)
    (hl : d.launch? k = some l) (ht : l.tile = some t) (hr : t.reissue = true) : d.dropTiles k [c] =
      ((d.setCore c { d.core c with launch := none, held := [], ents := [], wait := .run }).setLaunch k
        (l.relist ((d.core c).held.map (·.idx)))).addSat (rTsqReissue (hubOf k)) (sortNat ((d.core c).held.map (·.idx))).length := by
  unfold Dev.dropTiles LaunchSt.relist
  simp [hl, ht, hr, hc, Dev.each]

theorem books_addSat {off : Nat} (h : tsqReg off) (d : Dev) (n : Nat) : Books d (d.addSat off n) := by
  unfold Dev.addSat
  split
  · exact .refl d
  · exact books_wr h d _

theorem Dev.launch?_addSat (d : Dev) (off n k : Nat) : (d.addSat off n).launch? k = d.launch? k := by
  unfold Dev.addSat
  split <;> rfl

/-- A launch that another of its cores goes on with does not end. -/
theorem Dev.launchDone_of_live {d : Dev} {k b : Nat} {z : LaunchSt} (hz : d.launch? k = some z) (hb : b ∈ z.cores)
    (he : b ∉ z.ended) (hs : d.lowState b = 2) : d.launchDone k = d := by
  have hlive : (z.live d).any (fun c => !z.ended.contains c) = true :=
    List.any_eq_true.mpr ⟨b, List.mem_filter.mpr ⟨hb, by simpa using Dev.serving_of_lowState hs⟩, by simpa using he⟩
  unfold Dev.launchDone
  simp only [hz, hlive, Bool.or_true, if_true]

/-- The launch of a core that faults, with REISSUE 1 and a core that goes on, lists every tile that the core held (R134). -/
theorem Dev.launch?_coreFault {d : Dev} {c k : Nat} {l : LaunchSt} {t : LaunchDesc} (h0 : d.coreState c ≠ 0) (h5 : d.coreState c ≠ 5)
    (hc : (d.core c).launch = some k) (hl : d.launch? k = some l) (ht : l.tile = some t) (hr : t.reissue = true)
    {b : Nat} (hb : b ∈ l.cores) (hne : b ≠ c) (he : b ∉ l.ended) (hs : d.coreState b = 2) :
    (d.coreFault c).launch? k = some (l.relist ((d.core c).held.map (·.idx))) := by
  have hcore := d.core_noteFault c
  have hlaunch : ((d.noteFault c).core c).launch = some k := by rw [hcore]; exact hc
  have hheld : ((d.noteFault c).core c).held = (d.core c).held := by rw [hcore]
  have hdrop := Dev.dropTiles_one hlaunch ((d.launch?_noteFault c k).trans hl) ht hr
  have hz : ((d.noteFault c).dropTiles k [c]).launch? k = some (l.relist ((d.core c).held.map (·.idx))) := by
    rw [hdrop, Dev.launch?_addSat, Dev.launch?_setLaunch_same, hheld]
  have hhub : tsqReg (rTsqReissue (hubOf k)) := by
    have := hubOf_lt k
    unfold tsqReg rTsqReissue
    omega
  have hlow : ((d.noteFault c).dropTiles k [c]).lowState b = 2 := by
    rw [hdrop, ((books_setLaunch _ k _).trans (books_addSat hhub _ _)).lowState, Dev.lowState_setCore hne,
      Dev.lowState_noteFault d c hne, Dev.lowState_of_running hs]
  rw [Dev.coreFault_eq h0 h5]
  simp only [hc]
  rw [Dev.launchDone_of_live hz hb he hlow, hz]

theorem mem_relist {l : LaunchSt} {held : List Nat} {i : Nat} (h : i ∈ held) :
    i ∈ (l.relist held).reissue ∧ i ∈ (l.relist held).reissued := by
  have hs := mem_sortNat.mpr h
  exact ⟨mem_sortNat.mpr (List.mem_append_right _ hs), List.mem_append_right _ hs⟩

/-! ### The end of a die's drain (R134) -/

section Drain

/-- The cores `cs` that are still in a launch leave it. -/
def Dev.leaveAll (d : Dev) (cs : List Nat) : Dev :=
  d.each cs fun d c => if (d.core c).launch.isSome then
    d.setCore c { d.core c with launch := none, held := [], ents := [], wait := .run } else d

theorem serves_leaveAll (d : Dev) (cs : List Nat) : Serves d (d.leaveAll cs) := by
  refine serves_each d cs _ fun t c => ?_
  split
  · exact serves_setCore _ _ _
  · exact .refl t

theorem Dev.launch_leaveAll (d : Dev) {cs : List Nat} {b : Nat} (h : b ∈ cs ∨ (d.core b).launch = none) :
    ((d.leaveAll cs).core b).launch = none := by
  induction cs generalizing d with
  | nil => simpa [Dev.leaveAll, Dev.each] using h
  | cons c t ih =>
    refine ih (if (d.core c).launch.isSome then
      d.setCore c { d.core c with launch := none, held := [], ents := [], wait := .run } else d) ?_
    by_cases hbc : b = c
    · subst hbc
      refine .inr ?_
      split
      · rw [Dev.core_setCore_same]
      · next hn => simpa using hn
    · refine h.imp (fun hm => (List.mem_cons.mp hm).resolve_left hbc) fun hn => ?_
      split
      · rwa [Dev.core_setCore_ne _ _ hbc]
      · exact hn

/-- FENCE of the sequencers that wait for no other router. -/
def Dev.clearWaits (d : Dev) : Dev :=
  d.each [0, 1] fun t h => if d.cores.any (fun e => d.fenced (e.1 / 192) && e.2.launch.any (fun k => hubOf k = h)) then t
    else t.wrFld (rTsqStatus h) 9 9 0

theorem Dev.drainEnd_eq {d : Dev} {n : Nat} (h : d.fenced n = true) : d.drainEnd n =
    ((d.each (d.launches.filter (fun e => e.2.cores.any (fun c => c / 192 = n)))
      (fun d e => (d.dropTiles e.1 (rangeFrom (192 * n) 192)).launchDone e.1)).leaveAll (rangeFrom (192 * n) 192)).clearWaits := by
  unfold Dev.drainEnd
  rw [if_neg (by simp [h])]
  rfl

theorem books_clearWaits (d : Dev) : Books d d.clearWaits := by
  have hone (t : Dev) (p : Prop) [Decidable p] {h : Nat} (hh : h < 2) : Books t (if p then t else t.wrFld (rTsqStatus h) 9 9 0) := by
    split
    · exact .refl t
    · exact books_wrFld (by unfold tsqReg rTsqStatus; omega) t _ _ _
  exact (hone d _ (by decide)).trans (hone _ _ (by decide))

/-- A drained die stays fenced, and none of its cores is in a launch. -/
theorem Dev.drainEnd_spec {d : Dev} {n : Nat} (h : d.fenced n = true) : (d.drainEnd n).rd rTopStatus = d.rd rTopStatus ∧
    ∀ b, b / 192 = n → ((d.drainEnd n).core b).launch = none := by
  rw [Dev.drainEnd_eq h]
  refine ⟨?_, fun b hb => ?_⟩
  · refine (((serves_each _ _ _ fun t e => ?_).trans (serves_leaveAll _ _)).trans (books_clearWaits _).keeps.serves).top
    exact (serves_dropTiles _ _ _).trans (books_launchDone _ _).keeps.serves
  · have hleft := fun t : Dev => t.launch_leaveAll (.inl (mem_rangeFrom.mpr (show 192 * n ≤ b ∧ b < 192 * n + 192 by omega)))
    obtain hc | hc := (books_clearWaits (_ : Dev)).core b <;> rw [hc]
    exact hleft _

end Drain

end Sys2Proof.Machine

namespace Sys2Proof.Machine

/-! ### The retirement of a core (R118, R120) -/

/-- The word of a spare slot whose spare served the core of local number `c` and has failed with it. -/
def failedSpare (c : Nat) (w : Word) : Word :=
  if bitOf 8 w && fld 7 0 w = c then setFld 7 0 0xFF (setBit 8 false (setBit 9 true w)) else w

/-- May the spare of a slot enter service? -/
def spareFree (w : Word) : Bool := !bitOf 8 w && !bitOf 9 w && fld 7 0 w = 0xFF

/-- A spare that served is neither free before it fails nor after. -/
theorem spareFree_failedSpare (c : Nat) (w : Word) : spareFree (failedSpare c w) = spareFree w := by
  unfold failedSpare
  split
  · next h =>
    have h8 : bitOf 8 w = true := (Bool.and_eq_true _ _ ▸ h).1
    have h9 : bitOf 9 (setFld 7 0 0xFF (setBit 8 false (setBit 9 true w))) = true := by
      rw [bitOf_setFld_ne _ _ _ _ _ (by omega), bitOf_setBit_ne _ _ _ _ (by omega), bitOf_setBit_same _ _ _ (by omega)]
    simp [spareFree, h8, h9]
  · rfl

theorem physOf_failedSpare (c : Nat) (w : Word) : fld 23 16 (failedSpare c w) = fld 23 16 w := by
  unfold failedSpare
  split
  · rw [fld_setFld_ne _ _ _ _ _ _ (by omega), fld_setBit_ne _ _ _ _ _ (by omega), fld_setBit_ne _ _ _ _ _ (by omega)]
  · rfl

theorem failedSpare_of_free {c : Nat} {w : Word} (h : spareFree w = true) : failedSpare c w = w := by
  unfold spareFree at h
  simp only [Bool.and_eq_true, Bool.not_eq_true', decide_eq_true_eq] at h
  obtain ⟨⟨h8, -⟩, -⟩ := h
  simp [failedSpare, h8]

theorem Dev.freeSpare_eq (d : Dev) (n : Nat) : d.freeSpare n =
    if (List.range 8).all (fun s => fld 23 16 (d.rd (rCoreSpareSlot n s)) = 0) then none
    else (List.range 8).find? (fun s => spareFree (d.rd (rCoreSpareSlot n s))) := rfl

theorem rCoreSpareSlot_inj {n i j : Nat} : rCoreSpareSlot n i = rCoreSpareSlot n j ↔ i = j := by unfold rCoreSpareSlot; omega

/-- From `d` to `t` the spares of die `n` that may enter service are the same ones, and their slots are as they were. -/
structure SparesKept (n : Nat) (d t : Dev) : Prop where
  free : ∀ j < 8, spareFree (t.rd (rCoreSpareSlot n j)) = spareFree (d.rd (rCoreSpareSlot n j))
  phys : ∀ j < 8, fld 23 16 (t.rd (rCoreSpareSlot n j)) = fld 23 16 (d.rd (rCoreSpareSlot n j))
  slot : ∀ j < 8, spareFree (d.rd (rCoreSpareSlot n j)) = true → t.rd (rCoreSpareSlot n j) = d.rd (rCoreSpareSlot n j)
  tier : t.tier = d.tier

section Spares

variable {n : Nat}

theorem SparesKept.of_rd {d t : Dev} (h : ∀ j < 8, t.rd (rCoreSpareSlot n j) = d.rd (rCoreSpareSlot n j)) (ht : t.tier = d.tier) :
    SparesKept n d t :=
  ⟨fun j hj => congrArg spareFree (h j hj), fun j hj => congrArg (fld 23 16) (h j hj), fun j hj _ => h j hj, ht⟩

theorem SparesKept.refl (d : Dev) : SparesKept n d d := .of_rd (fun _ _ => rfl) rfl

theorem SparesKept.trans {a b c : Dev} (h : SparesKept n a b) (k : SparesKept n b c) : SparesKept n a c :=
  ⟨fun j hj => (k.free j hj).trans (h.free j hj), fun j hj => (k.phys j hj).trans (h.phys j hj),
    fun j hj hf => (k.slot j hj ((h.free j hj).trans hf)).trans (h.slot j hj hf), k.tier.trans h.tier⟩

/-- The spare that enters service is free, in one of the die's eight slots. -/
theorem Dev.free_of_freeSpare {d : Dev} {j : Nat} (h : d.freeSpare n = some j) :
    j < 8 ∧ spareFree (d.rd (rCoreSpareSlot n j)) = true := by
  rw [Dev.freeSpare_eq] at h
  split at h
  · cases h
  · exact ⟨List.mem_range.mp (List.mem_of_find?_eq_some h), List.find?_some (p := fun s => spareFree (d.rd (rCoreSpareSlot n s))) h⟩

theorem SparesKept.freeSpare {d t : Dev} (h : SparesKept n d t) : t.freeSpare n = d.freeSpare n := by
  rw [Dev.freeSpare_eq, Dev.freeSpare_eq]
  have hall : (List.range 8).all (fun s => fld 23 16 (t.rd (rCoreSpareSlot n s)) = 0) =
      (List.range 8).all (fun s => fld 23 16 (d.rd (rCoreSpareSlot n s)) = 0) := by
    rw [Bool.eq_iff_iff, List.all_eq_true, List.all_eq_true]
    exact forall₂_congr fun j hj => by rw [h.phys j (List.mem_range.mp hj)]
  have hfind : (List.range 8).find? (fun s => spareFree (t.rd (rCoreSpareSlot n s))) =
      (List.range 8).find? (fun s => spareFree (d.rd (rCoreSpareSlot n s))) :=
    List.find?_congr fun j hj => h.free j (List.mem_range.mp hj)
  rw [hall, hfind]

/-- A spare of die `n` that served the core of local number `c` has failed. -/
def Dev.failSpare (d : Dev) (n c s : Nat) : Dev :=
  let w := d.rd (rCoreSpareSlot n s)
  if bitOf 8 w && fld 7 0 w = c then d.wr (rCoreSpareSlot n s) (setFld 7 0 0xFF (setBit 8 false (setBit 9 true w))) else d

theorem Dev.rd_failSpare (d : Dev) (n c s : Nat) : (d.failSpare n c s).rd (rCoreSpareSlot n s) =
    failedSpare c (d.rd (rCoreSpareSlot n s)) := by
  unfold Dev.failSpare failedSpare
  dsimp only
  split
  · exact Dev.rd_wr_same _ _ _
  · rfl

theorem Dev.rd_failSpare_ne (d : Dev) {n c s off : Nat} (h : off ≠ rCoreSpareSlot n s) : (d.failSpare n c s).rd off = d.rd off := by
  unfold Dev.failSpare
  dsimp only
  split
  · exact Dev.rd_wr_ne _ _ h
  · rfl

theorem sparesKept_failSpare (d : Dev) (c s : Nat) : SparesKept n d (d.failSpare n c s) := by
  have hslot (j : Nat) : (d.failSpare n c s).rd (rCoreSpareSlot n j) =
      if j = s then failedSpare c (d.rd (rCoreSpareSlot n j)) else d.rd (rCoreSpareSlot n j) := by
    split
    · next h => rw [h, Dev.rd_failSpare]
    · next h => exact Dev.rd_failSpare_ne _ (mt rCoreSpareSlot_inj.mp h)
  refine ⟨fun j _ => ?_, fun j _ => ?_, fun j _ hf => ?_, ?_⟩
  · rw [hslot]; split
    · exact spareFree_failedSpare _ _
    · rfl
  · rw [hslot]; split
    · exact physOf_failedSpare _ _
    · rfl
  · rw [hslot, failedSpare_of_free hf, ite_self]
  · unfold Dev.failSpare
    dsimp only
    split <;> rfl

end Spares

/-- The retirement of core `c` is recorded, and the record of its fault is done. -/
def Dev.noteRetired (d : Dev) (c : Nat) : Dev :=
  let src := srcOf (.core (Fin.ofNat 1536 c))
  let d := d.each (List.range 8) fun d s => d.failSpare (c / 192) (c % 192) s
  let d := d.flw 1 0x21 src 0
  { d with rcd := { d.rcd with ledger := mapIf (fun r => r.kind = 1 && r.src = src) (fun r => { r with done := true }) d.rcd.ledger } }

/-- Memory in which the Pocket of core `c` holds what Config gives for the choice `k`: its contents and marks are undefined. -/
def spareMem (m : MemSt) (c k : Nat) : MemSt :=
  let g := pocketAddr c 0 / 64
  let m := m.setBytes (pocketAddr c 0) ((List.range 0x180000).map (Config.spareByte k))
  let m := (List.range 0x6000).foldl (fun (m : MemSt) i => m.setPoison (g + i) (Config.spareMark k i)) m
  { m with damage := m.damage.filter (fun e => !(g ≤ e.1 && e.1 < g + 0x6000)) }

/-- Core `c` has a Pocket of its own. -/
def Dev.newPocket (d : Dev) (c : Nat) : Dev := { d.fresh.2 with mem := spareMem d.fresh.2.mem c d.fresh.1 }

theorem Dev.tier_withMem (d : Dev) (m : MemSt) : ({ d with mem := m } : Dev).tier = d.tier := rfl

theorem Dev.rd_withMem (d : Dev) (m : MemSt) (off : Nat) : ({ d with mem := m } : Dev).rd off = d.rd off := rfl

theorem Dev.tier_newPocket (d : Dev) (c : Nat) : (d.newPocket c).tier = d.tier := d.fresh.2.tier_withMem _

theorem Dev.rd_newPocket (d : Dev) (c off : Nat) : (d.newPocket c).rd off = d.rd off := d.fresh.2.rd_withMem _ _

/-- The spare of slot `s` takes the number of core `c`. -/
def Dev.takeSpare (d : Dev) (c s : Nat) : Dev :=
  let w := d.rd (rCoreSpareSlot (c / 192) s)
  (d.wr (rCoreSpareSlot (c / 192) s) (setFld 7 0 (c % 192) (setBit 8 true w))).wr (rCorePhys c) (BitVec.ofNat 32 (fld 23 16 w + 256))

/-- The spare of slot `s` enters service as core `c`, with a Pocket of its own. -/
def Dev.enterSpare (d : Dev) (c s : Nat) : Dev := (((d.takeSpare c s).newPocket c).setCore c CoreSt.reset).setCoreState c 1

section Retire

variable {d : Dev} {c : Nat}

section Retires

variable (hs : d.coreState c = 5) (hf : d.fenced (c / 192) = false)
  (hk : d.queue.infl.any (fun x => x.cls = 0 && x.part = d.partOfDie (c / 192)) = false)
include hs hf hk

theorem Dev.retireCore_eq : d.retireCore c =
      match (d.noteRetired c).freeSpare (c / 192) with
      | none => (d.noteRetired c).setCoreState c 0
      | some s => (d.noteRetired c).enterSpare c s := by
  unfold Dev.retireCore
  extract_lets n busy src failed recorded rcd done pocket
  rw [if_neg (by simp [n, busy, hs, hf, hk])]
  have hdone : d.noteRetired c = done := rfl
  rw [hdone]
  unfold Dev.enterSpare Dev.newPocket spareMem
  rfl

theorem Dev.retireCore_of_none (h : (d.noteRetired c).freeSpare (c / 192) = none) :
    d.retireCore c = (d.noteRetired c).setCoreState c 0 := by
  rw [Dev.retireCore_eq hs hf hk]
  simp only [h]

theorem Dev.retireCore_of_some {s : Nat} (h : (d.noteRetired c).freeSpare (c / 192) = some s) :
    d.retireCore c = (d.noteRetired c).enterSpare c s := by
  rw [Dev.retireCore_eq hs hf hk]
  simp only [h]

end Retires

variable (hc : c < 1536)
include hc

theorem sparesKept_noteRetired (d : Dev) : SparesKept (c / 192) d (d.noteRetired c) := by
  have hfail : SparesKept (c / 192) d (d.each (List.range 8) fun d s => d.failSpare (c / 192) (c % 192) s) :=
    foldl_rel (SparesKept (c / 192)) .refl (fun _ _ _ => .trans) _ (fun t s => sparesKept_failSpare t _ s) _ d
  have hflw (t : Dev) (src : Nat) : SparesKept (c / 192) t (t.flw 1 0x21 src 0) :=
    .of_rd (fun j hj => keeps_flw t _ _ _ _ _ (by unfold apartReg rCoreSpareSlot; omega)) (Dev.tier_flw _ _ _ _ _)
  exact (hfail.trans (hflw _ _)).trans (.of_rd (fun _ _ => rfl) rfl)

end Retire

section Enter

variable (d : Dev) (c s : Nat)

theorem Dev.tier_enterSpare : (d.enterSpare c s).tier = d.tier := (d.takeSpare c s).tier_newPocket c

theorem Dev.core_enterSpare : (d.enterSpare c s).core c = CoreSt.reset := by
  unfold Dev.enterSpare
  rw [Dev.core_setCoreState, Dev.core_setCore_same]

theorem Dev.coreState_enterSpare : (d.enterSpare c s).coreState c = 1 := Dev.coreState_setCoreState_same _ _ (by decide)

theorem Dev.rd_enterSpare {off : Nat} (h : off ≠ rCoreStatus c) : (d.enterSpare c s).rd off = (d.takeSpare c s).rd off := by
  unfold Dev.enterSpare
  rw [Dev.rd_setCoreState _ _ h, Dev.rd_setCore _ _ h, Dev.rd_newPocket]

variable {c} (hc : c < 1536)
include hc

/-- The slot says that its spare serves the core. -/
theorem Dev.rd_enterSpare_slot : (d.enterSpare c s).rd (rCoreSpareSlot (c / 192) s) =
    setFld 7 0 (c % 192) (setBit 8 true (d.rd (rCoreSpareSlot (c / 192) s))) := by
  rw [Dev.rd_enterSpare _ _ _ (by unfold rCoreSpareSlot rCoreStatus; omega)]
  unfold Dev.takeSpare
  rw [Dev.rd_wr_ne _ _ (by unfold rCoreSpareSlot rCorePhys; omega), Dev.rd_wr_same]

omit hc in
/-- CORE_PHYS names the spare. -/
theorem Dev.phys_enterSpare : fld 7 0 ((d.enterSpare c s).rd (rCorePhys c)) = fld 23 16 (d.rd (rCoreSpareSlot (c / 192) s)) := by
  rw [Dev.rd_enterSpare _ _ _ (by unfold rCorePhys rCoreStatus; omega)]
  unfold Dev.takeSpare
  rw [Dev.rd_wr_same]
  unfold fld
  rw [BitVec.toNat_ofNat]
  omega

end Enter

end Sys2Proof.Machine

namespace Sys2Proof.Proofs
open Sys2Proof.Machine Sys2Proof.Safety

/-! ### Status words after the copies are set again -/

theorem bitOf_refresh_top (d : Dev) {b : Nat} (h : b = 6 ∨ 16 ≤ b) : bitOf b (d.refresh.rd rTopStatus) = bitOf b (d.rd rTopStatus) := by
  rw [Dev.rd_refresh_top, Dev.topWord, bitOf_setFld_ne _ _ _ _ _ (by omega), bitOf_setBit_ne _ _ _ _ (by omega),
    bitOf_setBit_ne _ _ _ _ (by omega)]

theorem fenced_refresh (d : Dev) (n : Nat) : d.refresh.fenced n = d.fenced n := bitOf_refresh_top d (by omega)

/-- TOP_STATUS[5:4] gives the number of partitions. -/
theorem parts_congr {d t : Dev} (h : fld 5 4 (t.rd rTopStatus) = fld 5 4 (d.rd rTopStatus)) : t.parts = d.parts := congrArg (2 ^ ·) h

/-! ### The fence of a die -/

section DieFence

/-- Two fenced dies make a device with one partition withdraw, so WD is set. -/
theorem withdrawIfTwo_wd {d : Dev} {a b : Nat} (hp : d.parts = 1) (ha : a < 8) (hb : b < 8) (hne : a ≠ b) (hfa : d.fenced a = true)
    (hfb : d.fenced b = true) : bitOf 6 (d.withdrawIfTwo.rd rTopStatus) = true := by
  have htwo : 2 ≤ ((List.range 8).filter d.fenced).length :=
    (List.subperm_of_subset (l₁ := [a, b]) (by simp [hne]) (by simp [ha, hb, hfa, hfb])).length_le
  unfold Dev.withdrawIfTwo
  rw [if_pos (by simp [hp, htwo])]
  obtain ⟨h6, he⟩ | hk := d.withdraw_cases 3
  · rw [he, h6]
  · rw [hk.top, Dev.rd_wr_same, bitOf_setFld_ne _ _ _ _ _ (by omega), bitOf_setBit_same _ _ _ (by omega)]

/-- A withdrawal leaves the fences and every other register of a fence alone. -/
theorem withdrawIfTwo_kept (d : Dev) : (∀ a, d.withdrawIfTwo.fenced a = d.fenced a) ∧
    ∀ off, ¬apartReg off → off ≠ rTopStatus → d.withdrawIfTwo.rd off = d.rd off := by
  unfold Dev.withdrawIfTwo
  split
  · obtain ⟨-, he⟩ | hk := d.withdraw_cases 3
    · rw [he]
      exact ⟨fun _ => rfl, fun _ _ _ => rfl⟩
    · refine ⟨fun a => ?_, fun off ho hne => (hk off ho).trans (Dev.rd_wr_ne _ _ hne)⟩
      unfold Dev.fenced
      rw [hk.top, Dev.rd_wr_same, bitOf_setFld_ne _ _ _ _ _ (by omega), bitOf_setBit_ne _ _ _ _ (by omega)]
  · exact ⟨fun _ => rfl, fun _ _ _ => rfl⟩

/-- What the fence of die `n` makes of the fences, the cores, the die's Gallery and WD. -/
structure FenceSpec (d u : Dev) (n : Nat) : Prop where
  fenced : u.fenced n = true
  cores : ∀ b < 1536, u.coreState b = if b / 192 = n ∧ d.coreState b ≠ 0 then 5 else d.coreState b
  off : bitOf 2 (u.rd (rGalStatus n)) = true
  out : bitOf 0 (u.rd (rGalStatus n)) = false
  wd : d.parts = 1 → (∃ b < 8, d.fenced b = true) → bitOf 6 (u.rd rTopStatus) = true

theorem fenceDie_spec {d : Dev} {n : Nat} (hn : n < 8) (h : d.fenced n = false) : FenceSpec d (d.fenceDie n) n := by
  rw [Dev.fenceDie_eq h]
  generalize he : ((d.outOfService n).stopEngines n).noteFence n = e
  have hk : Keeps (d.outOfService n) e := he ▸ (keeps_stopEngines _ hn).trans (keeps_noteFence _ _)
  have htop : e.rd rTopStatus = setBit (16 + n) true (d.rd rTopStatus) := hk.top.trans (d.rd_outOfService_top hn)
  have hfn : e.fenced n = true := (congrArg (bitOf (16 + n)) htop).trans (bitOf_setBit_same _ _ _ (by omega))
  obtain ⟨hfence, hrest⟩ := withdrawIfTwo_kept e
  have hsettle := keeps_modeSettle e.withdrawIfTwo
  have hgal : ¬apartReg (rGalStatus n) := by unfold apartReg rGalStatus; omega
  have hgalEq : e.withdrawIfTwo.modeSettle.rd (rGalStatus n) = (d.outOfService n).rd (rGalStatus n) :=
    (hsettle _ hgal).trans ((hrest _ hgal (by unfold rGalStatus rTopStatus; omega)).trans (hk _ hgal))
  refine ⟨(congrArg (bitOf (16 + n)) hsettle.top).trans ((hfence n).trans hfn), fun b hb => ?_, ?_, ?_, fun hp ⟨b, hb, hfb⟩ => ?_⟩
  · refine (hsettle.coreState hb).trans ?_
    have hne : rCoreStatus b ≠ rTopStatus := by unfold rCoreStatus rTopStatus; omega
    refine (congrArg (fld 2 0) (hrest (rCoreStatus b) (by unfold apartReg rCoreStatus; omega) hne)).trans ?_
    exact (hk.coreState hb).trans (d.coreState_outOfService hn hb)
  · rw [hgalEq, d.bitOf_outOfService_gal hn (by decide), bitOf_setBit_same _ _ _ (by omega)]
  · rw [hgalEq, d.bitOf_outOfService_gal hn (by decide), bitOf_setBit_ne _ _ _ _ (by omega), bitOf_setBit_same _ _ _ (by omega)]
  · have hne : n ≠ b := by rintro rfl; rw [h] at hfb; cases hfb
    rw [hsettle.top]
    refine withdrawIfTwo_wd ?_ hn hb hne hfn ?_
    · rw [← hp]
      exact parts_congr (by rw [htop, fld_setBit_ne _ _ _ _ _ (by omega)])
    · exact (congrArg (bitOf (16 + b)) htop).trans ((bitOf_setBit_ne _ _ _ _ (by omega)).trans hfb)

end DieFence

theorem Dev.fenceFor_of_fenced {d : Dev} {n : Nat} (h : d.fenced n = true) (why : FenceCause) : d.fenceFor n why = d := by
  have hdie : d.fenceDie n = d := if_pos h
  rw [Dev.fenceFor, hdie, ite_self]

section FaultArms

variable (s : State)

theorem exec_coreHwFault (c : Fin 1536) : exec (.coreHwFault c) s = State.run (fun d => d.coreFault c.val) s := rfl
theorem exec_coreRetire (c : Fin 1536) : exec (.coreRetire c) s = State.run (fun d => d.retireCore c.val) s := rfl
theorem exec_dieFence (f : FenceReq) : exec (.dieFence f) s = State.run (fun d => d.fenceFor f.die.val f.why) s := rfl
theorem exec_routerDrainEnd (n : Fin 8) : exec (.routerDrainEnd n) s = State.run (fun d => d.drainEnd n.val) s := rfl

end FaultArms

/-- Settles O23: a fault by `coreState_coreFault` and `launch?_coreFault`, a retirement by the spares that the failure of others
keeps, a die's fence by `fenceDie_spec`, its drain by `drainEnd_spec`. -/
theorem faultsFenceCoresAndDies : Obligations.FaultsFenceCoresAndDies := by
  unfold Obligations.FaultsFenceCoresAndDies
  intro s c n why k j l t die
  refine ⟨fun h0 h5 => ?fault, fun h5 hf hk => ⟨fun hs => ?_, fun hs => ?_⟩, fun hf hdue => ?fence, fun h => ?_, fun hf => ?drain,
    fun hf => ?_⟩
  case fault =>
    refine ⟨_, does_of_run (exec_coreHwFault s c) rfl, fun _ => ⟨?_, fun b hb => ?_, ?_⟩⟩
    · rw [Dev.coreState_refresh, Dev.coreState_coreFault h0 h5 c.isLt, if_pos rfl]
    · rw [Dev.coreState_refresh, Dev.coreState_coreFault h0 h5 b.isLt, if_neg (Fin.val_ne_of_ne hb)]
    · rintro hc hl ht hr ⟨b, hb, hne, he, hs⟩
      exact ⟨_, Dev.launch?_coreFault h0 h5 hc hl ht hr hb hne he hs, fun h hh => mem_relist (List.mem_map_of_mem hh)⟩
  · have hkept := sparesKept_noteRetired c.isLt s.dev
    refine runs_of_does (does_of_run (exec_coreRetire s c) (Dev.retireCore_of_none h5 hf hk (hkept.freeSpare.trans hs)))
      (congrArg TierSt.stall hkept.tier) ?_
    rw [Dev.coreState_refresh, Dev.coreState_setCoreState_same _ _ (by decide)]
  · have hkept := sparesKept_noteRetired c.isLt s.dev
    obtain ⟨hj, hfree⟩ := Dev.free_of_freeSpare hs
    have hslot := hkept.slot j hj hfree
    refine runs_of_does (does_of_run (exec_coreRetire s c) (Dev.retireCore_of_some h5 hf hk (hkept.freeSpare.trans hs)))
      (congrArg TierSt.stall ((Dev.tier_enterSpare _ _ _).trans hkept.tier)) ⟨?_, ?_, ?_, ?_, ?_⟩
    · rw [Dev.coreState_refresh, Dev.coreState_enterSpare]
    · rw [Dev.core_refresh, Dev.core_enterSpare]
    · rw [Dev.rd_refresh_far _ (by unfold rCoreSpareSlot; omega), Dev.rd_enterSpare_slot _ _ c.isLt,
        bitOf_setFld_ne _ _ _ _ _ (by omega), bitOf_setBit_same _ _ _ (by omega)]
    · rw [Dev.rd_refresh_far _ (by unfold rCoreSpareSlot; omega), Dev.rd_enterSpare_slot _ _ c.isLt,
        fld_setFld_same _ _ _ _ (by omega)]
      exact Nat.mod_eq_of_lt (by omega)
    · rw [Dev.rd_refresh_far _ (by unfold rCorePhys; omega), Dev.phys_enterSpare, hslot]
  case fence =>
    obtain ⟨hfenced, hcores, hoff, hout, hwd⟩ := fenceDie_spec n.isLt hf
    have hgal (u : Dev) : u.refresh.rd (rGalStatus n) = u.rd (rGalStatus n) := u.rd_refresh_far (by unfold rGalStatus; omega)
    refine ⟨_, does_of_run (exec_dieFence s ⟨n, why⟩) (if_pos hdue), fun _ =>
      ⟨?_, fun b hb h0 => ?_, fun b hb => ?_, ?_, ?_, ?_⟩⟩
    · rwa [fenced_refresh]
    · rw [Dev.coreState_refresh, hcores b b.isLt, if_pos ⟨hb, h0⟩]
    · rw [Dev.coreState_refresh, hcores b b.isLt, if_neg (fun h => hb h.1)]
    · rwa [hgal]
    · rwa [hgal]
    · rintro hp ⟨b, hb⟩
      rw [bitOf_refresh_top _ (.inl rfl)]
      exact hwd hp ⟨b, b.isLt, hb⟩
  · refine does_of_run (exec_dieFence s ⟨n, why⟩) ?_
    obtain hf | hdue := h
    · exact Dev.fenceFor_of_fenced hf why
    · exact if_neg (ne_true_of_eq_false hdue)
  case drain =>
    obtain ⟨htop, hleft⟩ := Dev.drainEnd_spec hf
    refine ⟨_, does_of_run (exec_routerDrainEnd s n) rfl, fun _ => ⟨fun b hb => hleft b hb, ?_⟩⟩
    rw [fenced_refresh]
    exact (congrArg (bitOf (16 + n)) htop).trans hf
  · exact does_of_run (exec_routerDrainEnd s n) (if_pos (by simp [hf]))

end Sys2Proof.Proofs

/-! Proofs of the family 05_tiling_and_sliding_windows: tiles handed, held and retired (R126, R128, R129), multicasts (R131, R132),
stripes (R141, R142) and restarts (R134). First what the sequencers' counters and launches keep, then what memory accesses leave of
them, then for each command of a sequencer the laws it needs, and the proof. -/

namespace Sys2Proof.Machine

/-! ### Counters of the hubs and registers of the slots (Tables 5-8, 5-10) -/

/-- A word of the counters that a tile sequencer keeps for its hub: TILES, MCAST, REISSUE, RESTART and STAGE_BYTES. -/
def hubCounter (off : Nat) : Prop := (0x3000020 ≤ off ∧ off < 0x3000040) ∨ (0x3800020 ≤ off ∧ off < 0x3800040)

theorem slotReg_eq (k off : Nat) : slotReg k off = 0x3100000 + 0x800000 * hubOf k + 0x1000 * (k % 256) + off := rfl

theorem hubCounter.ne_slotReg {off : Nat} (h : hubCounter off) (k : Nat) {x : Nat} (hx : x < 0x1000) : off ≠ slotReg k x := by
  have hh := hubOf_lt k
  have hk : k % 256 < 256 := Nat.mod_lt _ (by decide)
  unfold hubCounter at h
  rw [slotReg_eq]
  omega

theorem hubCounter.tsqReg {off : Nat} (h : hubCounter off) : tsqReg off := by
  unfold hubCounter at h
  unfold Machine.tsqReg
  omega

/-- Registers of two slots that stand at different places of their pages differ. -/
theorem slotReg_ne (j k : Nat) {x y : Nat} (h : x ≠ y) (hx : x < 0x1000) (hy : y < 0x1000) : slotReg j x ≠ slotReg k y := by
  rw [slotReg_eq, slotReg_eq]
  omega

theorem slotReg_ne_status (k c : Nat) {x : Nat} (hx : x < 0x1000) : slotReg k x ≠ rCoreStatus c := by
  have := tsqReg_slot k hx
  unfold tsqReg at this
  unfold rCoreStatus
  omega

/-- A launch's books write five registers of its slot. -/
theorem Dev.rd_slotStat (d : Dev) {k off : Nat} (h : ∀ x ∈ [0, 0x20, 0x24, 0x28, 0x2C], off ≠ slotReg k x) :
    (d.slotStat k).rd off = d.rd off := by
  have hx (x : Nat) (hm : x ∈ [0, 0x20, 0x24, 0x28, 0x2C] := by decide) := h x hm
  unfold Dev.slotStat
  split
  · rfl
  · extract_lets held out w w1 last d1 d2 d3 d4 listed d5
    have h5 : d5.rd off = d.rd off := by
      refine (Dev.rd_wr_ne _ _ (hx 0x2C)).trans ((Dev.rd_wr_ne _ _ (hx 0x28)).trans ((Dev.rd_wr_ne _ _ (hx 0x24)).trans
        ((Dev.rd_wr_ne _ _ (hx 0x20)).trans (Dev.rd_wr_ne _ _ (hx 0)))))
    split
    · exact h5
    · exact h5

/-- They leave every bit of STATE but the lowest three as it was, in every slot. -/
theorem Dev.bitOf_state_slotStat (d : Dev) (j k : Nat) {n : Nat} (hn : 3 ≤ n) :
    bitOf n ((d.slotStat k).rd (slotReg j 0)) = bitOf n (d.rd (slotReg j 0)) := by
  have hne (x : Nat) (h0 : 0 ≠ x := by decide) (hx : x < 0x1000 := by decide) : slotReg j 0 ≠ slotReg k x :=
    slotReg_ne j k h0 (by decide) hx
  by_cases hjk : slotReg j 0 = slotReg k 0
  · unfold Dev.slotStat
    split
    · rfl
    · extract_lets held out w w1 last d1 d2 d3 d4 listed d5
      have h5 : d5.rd (slotReg j 0) = setBit 2 last w1 := by
        refine (Dev.rd_wr_ne _ _ (hne 0x2C)).trans ((Dev.rd_wr_ne _ _ (hne 0x28)).trans ((Dev.rd_wr_ne _ _ (hne 0x24)).trans
          ((Dev.rd_wr_ne _ _ (hne 0x20)).trans ?_)))
        rw [hjk]
        exact Dev.rd_wr_same _ _ _
      have hbit : bitOf n (d5.rd (slotReg j 0)) = bitOf n (d.rd (slotReg j 0)) := by
        rw [h5, bitOf_setBit_ne _ _ _ _ (by omega), bitOf_setFld_ne _ _ _ _ _ (by omega), hjk]
      split
      · exact hbit
      · exact hbit
  · rw [d.rd_slotStat]
    simp only [List.mem_cons, List.not_mem_nil, or_false]
    rintro x (rfl | rfl | rfl | rfl | rfl)
    · exact hjk
    all_goals exact hne _

/-- From `d` to `t` the counters of the hubs are as they were. -/
def Tallies (d t : Dev) : Prop := ∀ off, hubCounter off → t.rd off = d.rd off

theorem Tallies.refl (d : Dev) : Tallies d d := fun _ _ => rfl

theorem Tallies.trans {a b c : Dev} (h : Tallies a b) (k : Tallies b c) : Tallies a c := fun off ho => (k off ho).trans (h off ho)

/-- A change of anything but registers. -/
theorem tallies_of_regs {d t : Dev} (h : t.regs = d.regs) : Tallies d t := fun off _ => congrArg (sget resetOf · off) h

theorem tallies_wr {off : Nat} (h : ¬hubCounter off) (d : Dev) (v : Word) : Tallies d (d.wr off v) :=
  fun _ ho => d.rd_wr_ne v (by rintro rfl; exact h ho)

theorem tallies_slotReg (k : Nat) {x : Nat} (hx : x < 0x1000) (d : Dev) (v : Word) : Tallies d (d.wr (slotReg k x) v) :=
  tallies_wr (fun h => h.ne_slotReg k hx rfl) d v

theorem not_hubCounter_status (c : Nat) : ¬hubCounter (rCoreStatus c) := by unfold hubCounter rCoreStatus; omega

theorem tallies_setCore (d : Dev) (c : Nat) (s : CoreSt) : Tallies d (d.setCore c s) :=
  (tallies_of_regs rfl).trans (tallies_wr (not_hubCounter_status c) _ _)

theorem tallies_setCoreState (d : Dev) (c v : Nat) : Tallies d (d.setCoreState c v) := tallies_wr (not_hubCounter_status c) d _

theorem tallies_slotStat (d : Dev) (k : Nat) : Tallies d (d.slotStat k) := by
  refine fun off ho => d.rd_slotStat fun x hx => ho.ne_slotReg k ?_
  revert x
  decide

theorem tallies_setLaunch (d : Dev) (k : Nat) (l : LaunchSt) : Tallies d (d.setLaunch k l) :=
  (tallies_of_regs rfl).trans (tallies_slotStat _ k)

theorem tallies_updLaunch (d : Dev) (k : Nat) (f : LaunchSt → LaunchSt) : Tallies d (d.updLaunch k f) := by
  unfold Dev.updLaunch
  split
  · exact tallies_setLaunch _ _ _
  · exact .refl d

theorem Dev.rd64_lt (d : Dev) (off : Nat) : d.rd64 off < 2 ^ 64 := by
  have h1 := (d.rd off).isLt
  have h2 := (d.rd (off + 4)).isLt
  unfold Dev.rd64
  omega

/-- A pair counts modulo 2⁶⁴. -/
theorem Dev.rd64_add64 (d : Dev) (off n : Nat) : (d.add64 off n).rd64 off = (d.rd64 off + n) % 2 ^ 64 := by
  unfold Dev.add64
  split
  · next h =>
    subst h
    exact (Nat.mod_eq_of_lt (d.rd64_lt off)).symm
  · exact d.rd64_wr64 off _

theorem Dev.rd64_congr {d t : Dev} {off : Nat} (h : t.rd off = d.rd off) (h4 : t.rd (off + 4) = d.rd (off + 4)) :
    t.rd64 off = d.rd64 off := by
  unfold Dev.rd64
  rw [h, h4]

/-- A counter of a hub that a command adds to once, and touches neither before nor after. -/
theorem rd64_counted {d e t : Dev} {off n : Nat} (ho : hubCounter off) (h4 : hubCounter (off + 4)) (h : Tallies d e)
    (ht : Tallies (e.add64 off n) t) : t.refresh.rd64 off = (d.rd64 off + n) % 2 ^ 64 := by
  have hpair {a b : Dev} (hab : Tallies a b) : b.rd64 off = a.rd64 off := Dev.rd64_congr (hab _ ho) (hab _ h4)
  rw [Dev.rd64_refresh_far _ (by have := ho.tsqReg; unfold tsqReg at this; omega), hpair ht, Dev.rd64_add64, hpair h]

/-! ### Launches -/

theorem find?_sins_ne {β : Type} {j k : Nat} (v : β) (m : List (Nat × β)) (h : j ≠ k) :
    (sins k v m).find? (·.1 = j) = m.find? (·.1 = j) := by
  induction m with
  | nil => simp [sins, h.symm]
  | cons e t ih =>
    obtain ⟨i, w⟩ := e
    unfold sins
    split
    · simp [h.symm]
    · simp [List.find?_cons, ih]

/-- Setting a launch leaves the launches of other slots. -/
theorem Dev.launch?_setLaunch_ne (d : Dev) {j k : Nat} (l : LaunchSt) (h : j ≠ k) : (d.setLaunch k l).launch? j = d.launch? j := by
  rw [Dev.setLaunch_eq]
  refine congrArg (Option.map (·.2)) ((find?_sins_ne l _ h).trans ?_)
  unfold sdel
  rw [List.find?_filter]
  congr 1
  funext e
  by_cases he : e.1 = j <;> simp [he, h]

@[simp] theorem Dev.launch?_add64 (d : Dev) (off n k : Nat) : (d.add64 off n).launch? k = d.launch? k := by
  unfold Dev.add64
  split <;> rfl

@[simp] theorem Dev.launch?_wr64 (d : Dev) (off v k : Nat) : (d.wr64 off v).launch? k = d.launch? k := rfl
@[simp] theorem Dev.launch?_wrFld (d : Dev) (off a b v k : Nat) : (d.wrFld off a b v).launch? k = d.launch? k := rfl
@[simp] theorem Dev.core_wrFld (d : Dev) (off a b v c : Nat) : (d.wrFld off a b v).core c = d.core c := rfl

theorem Dev.launch?_congr {d t : Dev} (h : t.launches = d.launches) (k : Nat) : t.launch? k = d.launch? k := by
  unfold Dev.launch?
  rw [h]

@[simp] theorem Dev.tier_add64 (d : Dev) (off n : Nat) : (d.add64 off n).tier = d.tier := by
  unfold Dev.add64
  split <;> rfl

@[simp] theorem Dev.tier_slotStat (d : Dev) (k : Nat) : (d.slotStat k).tier = d.tier := (books_slotStat d k).tier
@[simp] theorem Dev.tier_setLaunch (d : Dev) (k : Nat) (l : LaunchSt) : (d.setLaunch k l).tier = d.tier := (books_setLaunch d k l).tier

end Sys2Proof.Machine

namespace Sys2Proof.Machine

/-! ### What accesses leave of the sequencers

`MemOnly` (Laws/Access.lean) speaks of partitions that exist; a launch may name any number, and the POISON flag of no partition is
a register of a sequencer. -/

/-- From `d` to `t` the launches and the registers of the tile sequencers are as they were. -/
structure SeqKept (d t : Dev) : Prop where
  launches : t.launches = d.launches
  rd : ∀ off, tsqReg off → t.rd off = d.rd off

theorem SeqKept.refl (d : Dev) : SeqKept d d := ⟨rfl, fun _ _ => rfl⟩

theorem SeqKept.trans {a b c : Dev} (h : SeqKept a b) (k : SeqKept b c) : SeqKept a c :=
  ⟨k.launches.trans h.launches, fun off ho => (k.rd off ho).trans (h.rd off ho)⟩

theorem SeqKept.tallies {d t : Dev} (h : SeqKept d t) : Tallies d t := fun off ho => h.rd off ho.tsqReg

theorem SeqKept.launch? {d t : Dev} (h : SeqKept d t) (k : Nat) : t.launch? k = d.launch? k := Dev.launch?_congr h.launches k

theorem seqKept_each {α : Type} (d : Dev) (l : List α) (f : Dev → α → Dev) (h : ∀ d a, SeqKept d (f d a)) : SeqKept d (d.each l f) :=
  foldl_rel SeqKept SeqKept.refl (fun _ _ _ => SeqKept.trans) f h l d

/-- The same for a fold that carries a value beside the device. -/
theorem seqKept_fold {α γ : Type} (l : List α) (f : γ × Dev → α → γ × Dev) (h : ∀ r a, SeqKept r.2 (f r a).2) (r : γ × Dev) :
    SeqKept r.2 (l.foldl f r).2 :=
  foldl_rel (fun a b => SeqKept a.2 b.2) (fun _ => SeqKept.refl _) (fun _ _ _ => SeqKept.trans) f h l r

theorem MemOnly.seqKept {d t : Dev} (h : MemOnly d t) : SeqKept d t := by
  refine ⟨congrArg (fun p => p.2.2.2.2.1) h.still, fun off ho => h.rd off ?_⟩
  unfold tsqReg at ho
  unfold memReg
  simp
  omega

theorem seqKept_setCore (d : Dev) (c : Nat) (k : CoreSt) : SeqKept d (d.setCore c k) :=
  ⟨rfl, fun off ho => Dev.rd_setCore _ _ (by unfold tsqReg at ho; unfold rCoreStatus; omega)⟩

theorem seqKept_epFlag (d : Dev) (p b : Nat) : SeqKept d (d.epFlag p b) :=
  ⟨rfl, fun off ho => Dev.rd_wr_ne _ _ (by unfold tsqReg at ho; unfold rColEpFlags; omega)⟩

theorem seqKept_resolve (acc : Acc) (d : Dev) (wr : Bool) (a : Nat) : SeqKept d (d.resolve acc wr a).2 := by
  have no (t : Dev) (ht : SeqKept d t) : SeqKept d (match acc.part with
      | some p => ((Target.refused, t.refuse p acc.src a) : Target × Dev)
      | none => (.refused, t)).2 := by
    split
    · exact ht.trans ((seqKept_epFlag _ _ _).trans (memOnly_flw _ _ _ _ _).seqKept)
    · exact ht
  have hwait (t : Dev) (n : Nat) : SeqKept t (t.endWait acc.src n) := (memOnly_endWait t acc.src n).seqKept
  unfold Dev.resolve
  dsimp only
  split
  · split
    · exact (seqKept_epFlag _ _ _).trans (memOnly_accessErr _ _ _ _ _).seqKept
    · exact no d (.refl d)
  · split
    · split
      · exact hwait _ _
      · have hm := (memOnly_managedTarget d a wr).seqKept
        split
        · next he => rw [he] at hm; exact hm.trans (hwait _ _)
        · next he => rw [he] at hm; exact hm.trans (hwait _ _)
        · next he => rw [he] at hm; exact no _ (hm.trans (hwait _ _))
        · next he => rw [he] at hm; exact hm.trans (memOnly_stallAt _ _ _).seqKept
    · split <;> exact .refl d

/-- A read by device address. -/
theorem seqKept_readReq (acc : Acc) (d : Dev) (req a n : Nat) : SeqKept d (d.readReq acc req a n).2 := by
  unfold Dev.readReq
  refine seqKept_fold _ _ (fun r e => ?_) ((⟨[], none, false, false⟩ : Rd), d)
  have hr := seqKept_resolve acc r.2 false e.1
  dsimp only
  split
  · next he => rw [he] at hr; exact hr
  · next he => rw [he] at hr; exact hr
  · next he => rw [he] at hr; exact hr.trans (memOnly_readPhys _ _ _ _).seqKept
  · next he => rw [he] at hr; exact hr.trans (memOnly_readHost _ _ _ _).seqKept

/-- A write by device address. -/
theorem seqKept_writeReq (acc : Acc) (d : Dev) (req a : Nat) (bs : Marked) : SeqKept d (d.writeReq acc req a bs).2 := by
  unfold Dev.writeReq
  refine seqKept_fold _ _ (fun r e => ?_) ((none : Option Nat), d)
  have hr := seqKept_resolve acc r.2 true e.1
  dsimp only
  split
  · next he => rw [he] at hr; exact hr
  · next he => rw [he] at hr; exact hr
  · next he => rw [he] at hr; exact hr.trans (memOnly_writePhys _ _ _ _).seqKept
  · next he => rw [he] at hr; exact hr.trans (memOnly_writeHost _ _ _ _).seqKept

theorem seqKept_readMem (acc : Acc) (d : Dev) (a n : Nat) : SeqKept d (d.readMem acc a n).2 := seqKept_readReq acc d _ a n

theorem seqKept_writeMem (acc : Acc) (d : Dev) (a : Nat) (bs : Marked) : SeqKept d (d.writeMem acc a bs).2 :=
  seqKept_writeReq acc d _ a bs

/-! #### Elements and transfers -/

theorem seqKept_readElems (acc : Acc) (d : Dev) (req : Nat) (t : Desc) (org : Nat) (sis : List Nat) :
    SeqKept d (d.readElems acc req t org sis).2 := by
  unfold Dev.readElems Dev.readBytes
  refine seqKept_fold _ _ (fun r e => ?_) ((([], false, false) : ByteMap × Bool × Bool), d)
  exact seqKept_readReq _ _ _ _ _

theorem seqKept_writeBytes (acc : Acc) (d : Dev) (req : Nat) (m : ByteMap) : SeqKept d (d.writeBytes acc req m).2 := by
  unfold Dev.writeBytes
  refine seqKept_fold _ _ (fun r e => ?_) (((none, 0) : Option Nat × Nat), d)
  exact seqKept_writeReq _ _ _ _ _

theorem seqKept_writeElems (acc : Acc) (d : Dev) (req : Nat) (t : Desc) (org : Nat) (c : RndCtx) (os : List OutEl) :
    SeqKept d (d.writeElems acc req t org c os).2 := by
  unfold Dev.writeElems
  split
  · exact seqKept_writeBytes _ _ _ _
  · refine SeqKept.trans ?_ (seqKept_writeBytes _ _ _ _)
    refine seqKept_fold _ _ (fun r b => ?_) ((([], ⟨[], none, 0, none, false, false⟩) : ByteMap × ElemWr), d)
    exact seqKept_readElems _ _ _ _ _ _

theorem seqKept_xferRead (d : Dev) (x : Xfer) (idxs : List (List Nat)) : SeqKept d (d.xferRead x idxs).2 := by
  unfold Dev.xferRead
  split
  · exact seqKept_readElems _ _ _ _ _ _
  · exact .refl d

/-- A transfer into a tensor that is not compressed. -/
theorem seqKept_xferRun (d : Dev) {x : Xfer} (h : x.dst.cls = 0) : SeqKept d (d.xferRun x).2 := by
  have hdrop (t : Dev) : SeqKept t (t.trwDrop x.req) := ⟨rfl, fun _ _ => rfl⟩
  unfold Dev.xferRun
  simp only [h, if_true]
  exact ((seqKept_xferRead d x _).trans (seqKept_writeElems _ _ _ _ _ _ _)).trans (hdrop _)

end Sys2Proof.Machine

namespace Sys2Proof.Machine

/-! ### What a write into Pocket leaves of the cores

A write of memory ends reservations (R89) and changes nothing else of a core. Pocket lies above the managed aperture, so that no
page moves. -/

@[simp] theorem Dev.cores_add64 (d : Dev) (off n : Nat) : (d.add64 off n).cores = d.cores := by
  unfold Dev.add64
  split <;> rfl

@[simp] theorem Dev.cores_addSat (d : Dev) (off n : Nat) : (d.addSat off n).cores = d.cores := by
  unfold Dev.addSat
  split <;> rfl

theorem Dev.cores_raise (d : Dev) (off b : Nat) {f : Dev → Dev} (hf : ∀ d, (f d).cores = d.cores) :
    (d.raise off b f).cores = d.cores := by
  obtain he | he := d.raise_cases off b f <;> rw [he]
  · exact hf _
  · rfl

theorem cores_each {α : Type} (d : Dev) (l : List α) (f : Dev → α → Dev) (h : ∀ d a, (f d a).cores = d.cores) :
    (d.each l f).cores = d.cores :=
  foldl_rel (fun a b : Dev => b.cores = a.cores) (fun _ => rfl) (fun _ _ _ h k => k.trans h) f h l d

@[simp] theorem Dev.cores_flwWith (d : Dev) (l : List Word) (a b c e : Nat) : (d.flwWith l a b c e).cores = d.cores := by
  unfold Dev.flwWith
  split
  · rfl
  · split
    · exact d.cores_addSat _ _
    · rfl

@[simp] theorem Dev.cores_flw (d : Dev) (a b c e : Nat) : (d.flw a b c e).cores = d.cores := d.cores_flwWith [] a b c e

@[simp] theorem Dev.cores_ledger (d : Dev) (a b c e : Nat) (w : Word) : (d.ledger a b c e w).cores = d.cores := by rw [Dev.ledger_eq]

theorem Dev.cores_accessErr (d : Dev) (a b c e : Nat) : (d.accessErr a b c e).cores = d.cores := by
  unfold Dev.accessErr
  rw [Dev.cores_flw, Dev.cores_addSat]
  exact d.cores_raise _ _ fun _ => rfl

theorem Dev.cores_refuse (d : Dev) (p a b : Nat) : (d.refuse p a b).cores = d.cores := Dev.cores_flw _ _ _ _ _

@[simp] theorem Dev.cores_requestWake (d : Dev) (u : WakeUnit) (n : Nat) : (d.requestWake u n).cores = d.cores := by
  unfold Dev.requestWake
  split <;> rfl

/-! #### Granules -/

@[simp] theorem Dev.cores_memErr (d : Dev) (pg b s y k a : Nat) : (d.memErr pg b s y k a).cores = d.cores :=
  d.cores_raise _ _ fun d => by dsimp only; split <;> rfl

@[simp] theorem Dev.cores_memFlw (d : Dev) (pg a b : Nat) : (d.memFlw pg a b).cores = d.cores := d.cores_flwWith _ _ _ _ _

@[simp] theorem Dev.cores_ueLedger (d : Dev) (pg s a : Nat) : (d.ueLedger pg s a).cores = d.cores := by
  unfold Dev.ueLedger Dev.ueSeen
  rw [Dev.cores_ledger]
  split <;> rfl

theorem Dev.cores_memCe (d : Dev) (pg s y a : Nat) : (d.memCe pg s y a).cores = d.cores := by
  unfold Dev.memCe
  dsimp only
  split
  · simp
  · split <;> simp

theorem Dev.cores_corrected (d : Dev) (s y a : Nat) : (d.corrected s y a).cores = d.cores := by
  unfold Dev.corrected
  split
  · exact d.cores_memCe _ _ _ _
  · rfl

theorem Dev.cores_partPoisoned (d : Dev) (s a : Nat) : (d.partPoisoned s a).cores = d.cores := by
  unfold Dev.partPoisoned
  split
  · simp
  · split
    · exact d.cores_flw _ _ _ _
    · rfl

theorem Dev.cores_found (d : Dev) (a : Nat) : (d.found a).2.cores = d.cores := by
  unfold Dev.found
  dsimp only
  split
  · split <;> rfl
  · split
    · split
      · rfl
      · split <;> rfl
    · dsimp only
      split
      · exact d.cores_addSat _ _
      · rfl
    · rfl

theorem Dev.cores_rmwGran (d : Dev) (s a : Nat) (f : List Byte → List Byte) (mark : Bool) : (d.rmwGran s a f mark).cores = d.cores := by
  have hf := d.cores_found a
  unfold Dev.rmwGran
  dsimp only
  split
  · rfl
  · split
    · exact hf
    · exact (Dev.cores_corrected _ _ _ _).trans hf
    · exact (Dev.cores_partPoisoned _ _ _).trans hf

theorem Dev.cores_writeGran (d : Dev) (s a : Nat) (bs : List Byte) (mark : Bool) : (d.writeGran s a bs mark).cores = d.cores := by
  unfold Dev.writeGran
  split
  · rfl
  · exact d.cores_rmwGran _ _ _ _

theorem Dev.cores_charge (d : Dev) (a n : Nat) (wr : Bool) : (d.charge a n wr).cores = d.cores := by
  have hall (t : Dev) (l : List Nat) (g : Nat → Nat) : (t.each l fun d s => d.add64 (rHbmChargedLo s) (g s)).cores = t.cores :=
    cores_each t l _ fun _ _ => Dev.cores_add64 _ _ _
  have hpart (t : Dev) (l : List (Nat × Nat)) : (t.each l fun d e => d.add64 (rHbmChargedLo (hbmPc e.1 / 64)) 768).cores = t.cores :=
    cores_each t l _ fun _ _ => Dev.cores_add64 _ _ _
  unfold Dev.charge
  split
  · rfl
  · split
    · exact (hpart _ _).trans ((Dev.cores_add64 _ _ _).trans (hall _ _ _))
    · exact (Dev.cores_add64 _ _ _).trans (hall _ _ _)

theorem Dev.cores_countBytes (d : Dev) (reg a n : Nat) : (d.countBytes reg a n).cores = d.cores := by
  unfold Dev.countBytes
  split
  · exact d.cores_add64 _ _
  · rfl

theorem Dev.cores_wakeBank (d : Dev) (a : Nat) : (d.wakeBank a).cores = d.cores := by
  unfold Dev.wakeBank
  split
  · dsimp only
    split
    · exact d.cores_requestWake _ _
    · rfl
  · rfl

theorem Dev.cores_pciErr (d : Dev) (p b a : Nat) : (d.pciErr p b a).cores = d.cores := d.cores_raise _ _ fun _ => rfl

theorem Dev.cores_writeHost (d : Dev) (p a : Nat) (bs : Marked) : (d.writeHost p a bs).cores = d.cores := by
  unfold Dev.writeHost
  dsimp only
  split
  · exact (Dev.cores_pciErr _ _ _ _).trans (d.cores_addSat _ _)
  · split
    · exact Dev.cores_pciErr _ _ _ _
    · rfl

/-! #### Waits -/

/-- Every core listed in `t` is listed in `d`, waiting for the same. -/
def WaitsKept (d t : Dev) : Prop := ∀ c k, (c, k) ∈ t.cores → ∃ j, (c, j) ∈ d.cores ∧ j.wait = k.wait

theorem WaitsKept.trans {a b c : Dev} (h : WaitsKept a b) (k : WaitsKept b c) : WaitsKept a c := by
  intro i s hs
  obtain ⟨j, hj, hw⟩ := k i s hs
  obtain ⟨m, hm, hv⟩ := h i j hj
  exact ⟨m, hm, hv.trans hw⟩

theorem waitsKept_of_cores {d t : Dev} (h : t.cores = d.cores) : WaitsKept d t := fun _ k hk => ⟨k, h ▸ hk, rfl⟩

theorem WaitsKept.refl (d : Dev) : WaitsKept d d := waitsKept_of_cores rfl

/-- The end of a reservation. -/
theorem waitsKept_breakResv (d : Dev) (a n : Nat) : WaitsKept d (d.breakResv a n) := by
  unfold Dev.breakResv
  dsimp only
  split
  · intro c k hk
    obtain ⟨e, he, hek⟩ := List.mem_map.mp (List.mem_filter.mp hk).1
    split at hek
    · obtain ⟨rfl, rfl⟩ := Prod.mk.inj hek
      exact ⟨e.2, he, rfl⟩
    · exact ⟨k, hek ▸ he, rfl⟩
  · exact .refl d

theorem waitsKept_writePhys (d : Dev) (src a : Nat) (bs : Marked) : WaitsKept d (d.writePhys src a bs) := by
  unfold Dev.writePhys
  refine ((waitsKept_of_cores (d.cores_charge a _ true)).trans (waitsKept_breakResv _ _ _)).trans
    (foldl_rel WaitsKept WaitsKept.refl (fun _ _ _ => WaitsKept.trans) _ (fun t e => waitsKept_of_cores ?_) _ _)
  exact (Dev.cores_writeGran _ _ _ _ _).trans ((Dev.cores_countBytes _ _ _ _).trans (t.cores_wakeBank _))

/-- Outside the managed aperture a request moves no page. -/
theorem Dev.cores_resolve (acc : Acc) (d : Dev) (wr : Bool) {a : Nat} (h : isManaged a = false) : (d.resolve acc wr a).2.cores = d.cores := by
  unfold Dev.resolve
  dsimp only
  split
  · split
    · exact Dev.cores_accessErr _ _ _ _ _
    · split
      · exact d.cores_refuse _ _ _
      · rfl
  · rw [if_neg (ne_true_of_eq_false h)]
    split <;> rfl

theorem le_of_mem_cutAt {b fuel a n : Nat} {e : Nat × Nat} (h : e ∈ cutAt b fuel a n) : a ≤ e.1 := by
  induction fuel generalizing a n with
  | zero => cases h
  | succ fuel ih =>
    unfold cutAt at h
    split at h
    · cases h
    · obtain rfl | ht := List.mem_cons.mp h
      · exact Nat.le_refl _
      · exact Nat.le_of_add_right_le (ih ht)

/-- A write into Pocket. -/
theorem waitsKept_writePocket (d : Dev) (acc : Acc) (c off : Nat) (bs : Marked) : WaitsKept d (d.writeMem acc (pocketAddr c off) bs).2 := by
  unfold Dev.writeMem Dev.writeReq
  refine List.foldlRecOn (motive := fun r : Option Nat × Dev => WaitsKept d r.2) _ _ (WaitsKept.refl d) fun r hr e he => hr.trans ?_
  have hle := le_of_mem_cutAt he
  have hr := waitsKept_of_cores (Dev.cores_resolve acc r.2 true (a := e.1) (by unfold pocketAddr at hle; unfold isManaged; simp; omega))
  dsimp only
  split
  · next he => rw [he] at hr; exact hr
  · next he => rw [he] at hr; exact hr
  · next he => rw [he] at hr; exact hr.trans (waitsKept_writePhys _ _ _ _)
  · next he => rw [he] at hr; exact hr.trans (waitsKept_of_cores (Dev.cores_writeHost _ _ _ _))

end Sys2Proof.Machine

namespace Sys2Proof.Machine

/-! ### TSYNC.TILE (R126, R128, R131, R142) -/

/-- The core that completes a TSYNC.TILE: it has the index, and `ents` on its scoreboard. -/
def CoreSt.receive (s : CoreSt) (w : TileWait) (ents : List TEntry) : CoreSt :=
  { (s.wx w.rd (BitVec.ofNat 64 w.t)) with
    ttile := BitVec.ofNat 64 w.t, trtile := BitVec.ofNat 64 w.t, wait := .run, pc := (s.pc + w.len) % 2 ^ 64, ents := ents,
    nextId := s.nextId + 1 }

/-- The core that has taken index `i` of the tiles `t`: it holds it, and the tile received two before is marked (R128). -/
def CoreSt.take (s : CoreSt) (t : LaunchDesc) (rd i : Nat) (re : Bool) : CoreSt :=
  let newGrp := s.group ≠ some (t.sgo i).2.1
  let free := (s.held.filter (·.upTo.isNone)).length
  let mark := if 2 ≤ free then (s.held.find? (·.upTo.isNone)).map (·.idx) else none
  { s with
    held := mapIf (fun h => some h.idx = mark) (fun h => { h with upTo := some s.nextId }) s.held ++ [⟨i, none, re⟩]
    count := s.count + 1, group := some (t.sgo i).2.1, gcount := if newGrp then s.gcount + 1 else s.gcount
    wait := .tile ⟨rd, i, s.count, if newGrp && t.wbase ≠ 0 then 1 else 0, newGrp, re, 4⟩ }

/-- The core that finds no index left: it reads −1. -/
def CoreSt.tilesOut (s : CoreSt) (rd : Nat) : CoreSt :=
  { (s.wx rd 0xFFFFFFFFFFFFFFFF) with ttile := 0xFFFFFFFFFFFFFFFF, pc := (s.pc + 4) % 2 ^ 64 }

theorem CoreSt.wx_eq (s : CoreSt) (r : Nat) (v : DWord) : s.wx r v = { s with x := (s.wx r v).x } := by
  unfold CoreSt.wx
  split <;> rfl

@[simp] theorem CoreSt.count_wx (s : CoreSt) (r : Nat) (v : DWord) : (s.wx r v).count = s.count := by rw [CoreSt.wx_eq]
@[simp] theorem CoreSt.held_wx (s : CoreSt) (r : Nat) (v : DWord) : (s.wx r v).held = s.held := by rw [CoreSt.wx_eq]
@[simp] theorem CoreSt.wait_wx (s : CoreSt) (r : Nat) (v : DWord) : (s.wx r v).wait = s.wait := by rw [CoreSt.wx_eq]
@[simp] theorem CoreSt.trtile_wx (s : CoreSt) (r : Nat) (v : DWord) : (s.wx r v).trtile = s.trtile := by rw [CoreSt.wx_eq]

theorem CoreSt.rx_wx (s : CoreSt) (r : Nat) (v : DWord) : (s.wx r v).rx r = if r = 0 then 0 else v := by
  unfold CoreSt.rx CoreSt.wx
  split
  · rfl
  · exact sget_sset_same _ _ _ _

section Hand

variable {d : Dev} {c k : Nat} {l : LaunchSt} {t : LaunchDesc} (h : d.issuing c = true) (hk : (d.core c).launch = some k)
  (hl : d.launch? k = some l) (ht : l.tile = some t)
include h hk hl ht

/-- TSYNC.TILE that finds an index: it is counted, and the instruction goes on as far as it can. -/
theorem Dev.tsyncTile_of_some {i : Nat} {re : Bool} {e : Dev} (hi : d.takeIdx k l = some (i, re, e)) (rd : Nat) : d.tsyncTile c rd =
    (((e.setCore c ((d.core c).take t rd i re)).add64 (rTsqTilesLo (hubOf k)) 1).slotStat k).tileProceed c := by
  unfold Dev.tsyncTile
  simp only [h, hk, hl, ht, hi, Bool.not_true, Bool.false_eq_true, if_false]
  rw [CoreSt.take, hk]

theorem Dev.tsyncTile_of_none (hi : d.takeIdx k l = none) (rd : Nat) : d.tsyncTile c rd =
    (d.setCore c ((d.core c).tilesOut rd)).slotStat k := by
  unfold Dev.tsyncTile
  simp only [h, hk, hl, ht, hi, Bool.not_true, Bool.false_eq_true, if_false]
  rfl

end Hand

/-- The hand of an index leaves the cores, the tiles of the launch and the counters of the hub alone. -/
theorem Dev.takeIdx_spec {d e : Dev} {k i : Nat} {l : LaunchSt} {re : Bool} (h : d.takeIdx k l = some (i, re, e))
    (hl : d.launch? k = some l) : Tallies d e ∧ e.tier = d.tier ∧ (∀ c, e.core c = d.core c) ∧
      ∃ z, e.launch? k = some z ∧ z.tile = l.tile ∧ z.kv = l.kv := by
  unfold Dev.takeIdx at h
  split at h
  · cases h
  · split at h
    · cases h
    · split at h
      · cases h
        exact ⟨tallies_setLaunch _ _ _, by simp, by simp, _, Dev.launch?_setLaunch_same _ _ _, rfl, rfl⟩
      · split at h
        · cases h
        · next t _ _ j _ =>
          have hnext (v : Nat) : Tallies d ((d.wr64 (slotReg k 0x10) v).slotStat k) :=
            ((tallies_slotReg k (by decide) _ _).trans (tallies_slotReg k (x := 0x14) (by decide) _ _)).trans (tallies_slotStat _ k)
          cases h
          split
          · exact ⟨(hnext _).trans (tallies_slotReg k (by decide) _ _), by simp, by simp, l, by simpa using hl, rfl, rfl⟩
          · exact ⟨hnext _, by simp, by simp, l, by simpa using hl, rfl, rfl⟩

/-- A TSYNC.TILE with no group to load, no tile record, no stripe and no KV fill completes at once. -/
theorem Dev.tileProceed_of_ready {d : Dev} {c k : Nat} {l : LaunchSt} {t : LaunchDesc} {w : TileWait}
    (hw : (d.core c).wait = .tile w) (hk : (d.core c).launch = some k) (hl : d.launch? k = some l) (ht : l.tile = some t)
    (hload : w.load = 0) (hrec : t.trec = 0xFFFFFFFF) (hs : t.stage = false) (hv : l.kv = none) :
    d.tileProceed c = d.setCore c ((d.core c).receive w (d.core c).ents) := by
  unfold Dev.tileProceed
  simp only [hw, hk, hl, ht, hload, hrec, hs, hv]
  rfl

/-- All that a TSYNC.TILE which goes on can do: nothing; join the multicast of its group; or complete, after its record is
written to the core's Pocket. -/
theorem Dev.tileProceed_cases (d : Dev) (c : Nat) : d.tileProceed c = d ∨
    (∃ (w : TileWait) (s : CoreSt) (k : Nat) (f : LaunchSt → List Mcast), (d.core c).wait = .tile w ∧ w.load = 1 ∧
      d.tileProceed c = (d.setCore c s).updLaunch k (fun l => { l with mcasts := f l })) ∨
    ∃ (w : TileWait) (ents : List TEntry) (e : Dev), (e = d ∨ ∃ acc off bs, e = (d.writeMem acc (pocketAddr c off) bs).2) ∧
      d.tileProceed c = e.setCore c ((d.core c).receive w ents) := by
  have hrecord (p : Prop) [Decidable p] (acc : Acc) (off : Nat) (bs : Marked) :
      (if p then d else (d.writeMem acc (pocketAddr c off) bs).2) = d ∨
        ∃ acc' off' bs', (if p then d else (d.writeMem acc (pocketAddr c off) bs).2) = (d.writeMem acc' (pocketAddr c off') bs').2 := by
    split
    · exact .inl rfl
    · exact .inr ⟨_, _, _, rfl⟩
  unfold Dev.tileProceed
  dsimp only
  split
  · next w k hw hk =>
    split
    · exact .inl rfl
    · split
      · exact .inl rfl
      · next t _ =>
        split
        · exact .inl rfl
        · split
          · next hload =>
            split
            · exact .inl rfl
            · exact .inr (.inl ⟨w, _, k, fun l => joinMcast c (t.sgo w.t).2.1 t.mcastWin (l.live d) l.mcasts, hw, hload, rfl⟩)
          · split
            · exact .inl rfl
            · exact .inr (.inr ⟨w, _, _, hrecord _ _ _ _, rfl⟩)
  · exact .inl rfl

end Sys2Proof.Machine

namespace Sys2Proof.Machine

/-! ### Retiring (R128, R129) -/

/-- May a held tile retire: is it marked, and has every instruction before its mark completed? -/
def CoreSt.mayRetire (s : CoreSt) (h : HeldTile) : Bool :=
  match h.upTo with
  | some n => s.ents.all (fun e => n ≤ e.id)
  | none => false

theorem Dev.tileRetire_eq {d : Dev} {c : Nat} {h : HeldTile} (hf : (d.core c).held.find? (d.core c).mayRetire = some h)
    (hs : d.coreState c = 2) : d.tileRetire c = d.retireTile c h.idx := by
  unfold CoreSt.mayRetire at hf
  unfold Dev.tileRetire
  dsimp only
  split
  · next hg =>
    cases hf.symm.trans hg
    exact if_pos hs
  · next hg => cases hf.symm.trans hg

/-- A launch whose slot is freed leaves its STATE and the count of slots in use alone to change. -/
theorem Dev.rd_freeSlot (d : Dev) {k off : Nat} (h0 : off ≠ slotReg k 0) (hs : off ≠ rTsqStatus (hubOf k)) :
    (d.freeSlot k).rd off = d.rd off := by
  unfold Dev.freeSlot Dev.tsqCount
  dsimp only
  rw [Dev.rd_wrFld, if_neg hs, Dev.rd_wr_ne _ _ h0]
  rfl

/-- A completion leaves the launch as it is, or frees its slot, with its command ended. -/
theorem Dev.launchDone_cases (d : Dev) (k : Nat) : d.launchDone k = d ∨
    ∃ e : Dev, e.regs = d.regs ∧ d.launchDone k = e.freeSlot k := by
  unfold Dev.launchDone
  split
  · exact .inl rfl
  · extract_lets live prog fin
    have hfin (r : Result) : ∃ e : Dev, e.regs = d.regs ∧ fin r = e.freeSlot k := by
      unfold fin
      split
      · next x _ => exact ⟨d.finish x { r with progress := prog }, rfl, rfl⟩
      · exact ⟨d, rfl, rfl⟩
    clear_value fin
    split
    · exact .inl rfl
    · split
      · exact .inr (hfin _)
      · split
        · exact .inr (hfin _)
        · split
          · exact .inl rfl
          · split
            · exact .inr (hfin _)
            · split <;> exact .inr (hfin _)

theorem Dev.rd_launchDone (d : Dev) {k off : Nat} (h0 : off ≠ slotReg k 0) (hs : off ≠ rTsqStatus (hubOf k)) :
    (d.launchDone k).rd off = d.rd off := by
  obtain he | ⟨e, hr, he⟩ := d.launchDone_cases k <;> rw [he]
  rw [Dev.rd_freeSlot e h0 hs]
  exact congrArg (sget resetOf · off) hr

section Retire

variable {d : Dev} {c k : Nat} (hk : (d.core c).launch = some k) (i : Nat)
include hk

theorem Dev.retireTile_eq : d.retireTile c i =
    (((d.setCore c { d.core c with held := (d.core c).held.filter (·.idx ≠ i) }).add64 (slotReg k 0x18) 1).slotStat k).launchDone k := by
  simp only [Dev.retireTile, hk]

/-- RETIRED of the launch counts the tile. -/
theorem Dev.rd64_retireTile : (d.retireTile c i).rd64 (slotReg k 0x18) = (d.rd64 (slotReg k 0x18) + 1) % 2 ^ 64 := by
  have hh := hubOf_lt k
  have hm : k % 256 < 256 := Nat.mod_lt _ (by decide)
  have hend (t : Dev) {x : Nat} (hx : x = 0x18 ∨ x = 0x1C) : ((t.slotStat k).launchDone k).rd (slotReg k x) = t.rd (slotReg k x) := by
    rw [Dev.rd_launchDone _ (slotReg_ne k k (by omega) (by omega) (by decide)) (by rw [slotReg_eq]; unfold rTsqStatus; omega)]
    refine Dev.rd_slotStat _ fun y hy => slotReg_ne k k ?_ (by omega) ?_
    · rintro rfl
      revert hy
      obtain rfl | rfl := hx <;> decide
    · revert y
      decide
  rw [Dev.retireTile_eq hk, Dev.rd64_congr (hend _ (.inl rfl)) (hend _ (.inr rfl)), Dev.rd64_add64]
  have hcore (x : Nat) (hx : x < 0x1000) (s : CoreSt) : (d.setCore c s).rd (slotReg k x) = d.rd (slotReg k x) :=
    Dev.rd_setCore _ _ (slotReg_ne_status k c hx)
  rw [Dev.rd64_congr (hcore 0x18 (by decide) _) (hcore 0x1C (by decide) _)]

theorem Dev.books_retireTile : Books (d.setCore c { d.core c with held := (d.core c).held.filter (·.idx ≠ i) }) (d.retireTile c i) := by
  rw [Dev.retireTile_eq hk]
  exact ((books_add64 (tsqReg_slot k (by decide)) (tsqReg_slot k (off := 0x1C) (by decide)) _ _).trans (books_slotStat _ k)).trans
    (books_launchDone _ k)

/-- The tile is held no more. -/
theorem Dev.not_held_retireTile : ∀ y ∈ ((d.retireTile c i).core c).held, y.idx ≠ i := by
  obtain hc | hc := (Dev.books_retireTile hk i).core c <;> rw [hc]
  · rw [Dev.core_setCore_same]
    exact fun y hy => of_decide_eq_true (List.mem_filter.mp hy).2
  · exact fun y hy => (List.not_mem_nil hy).elim

end Retire

@[simp] theorem Dev.cores_setLaunch (d : Dev) (k : Nat) (l : LaunchSt) : (d.setLaunch k l).cores = d.cores := by rw [Dev.setLaunch_eq]

theorem Dev.cores_updLaunch (d : Dev) (k : Nat) (f : LaunchSt → LaunchSt) : (d.updLaunch k f).cores = d.cores := by
  unfold Dev.updLaunch
  split
  · exact Dev.cores_setLaunch _ _ _
  · rfl

/-! ### Multicasts (R131, R132) -/

/-- The open multicast of group `g` closes. -/
def closeGroup (g : Nat) (ms : List Mcast) : List Mcast := mapIf (fun m => m.group = g && !m.closed) (fun m => { m with closed := true }) ms

theorem closed_of_mem_closeGroup {g : Nat} {ms : List Mcast} {y : Mcast} (h : y ∈ closeGroup g ms) (hg : y.group = g) :
    y.closed = true := by
  obtain ⟨m, -, rfl⟩ := List.mem_map.mp h
  dsimp only at hg ⊢
  split
  · rfl
  · next hn =>
    rw [if_neg hn] at hg
    simpa [hg] using hn

theorem joined_closeGroup (g : Nat) (ms : List Mcast) : (closeGroup g ms).map (·.joined) = ms.map (·.joined) := by
  unfold closeGroup mapIf
  rw [List.map_map]
  refine List.map_congr_left fun m _ => ?_
  dsimp only [Function.comp]
  split <;> rfl

theorem Dev.mcastClose_eq {d : Dev} {k : Nat} {l : LaunchSt} (h : d.launch? k = some l) (g : Nat) :
    d.mcastClose k g = d.setLaunch k { l with mcasts := closeGroup g l.mcasts } := Dev.updLaunch_of_some h _

/-- Core `c`, wherever the table lists it, waits for no multicast: a TSYNC.TILE that it waits in has its group loaded. -/
def Dev.groupLoaded (d : Dev) (c : Nat) : Prop := ∀ s, (c, s) ∈ d.cores → ∀ w, s.wait = .tile w → w.load = 3

theorem sget_mem {β : Type} (dflt : Nat → β) (m : List (Nat × β)) (c : Nat) : sget dflt m c = dflt c ∨ (c, sget dflt m c) ∈ m := by
  induction m with
  | nil => exact .inl rfl
  | cons e t ih =>
    obtain ⟨j, v⟩ := e
    unfold sget
    split
    · next h => exact .inr (by simp [h])
    · exact ih.imp_right (List.mem_cons_of_mem _)

theorem Dev.groupLoaded.load {d : Dev} {c : Nat} (h : d.groupLoaded c) {w : TileWait} (hw : (d.core c).wait = .tile w) : w.load = 3 := by
  obtain hc | hc := sget_mem (fun _ => CoreSt.reset) d.cores c
  · have : (d.core c).wait = .run := congrArg CoreSt.wait hc
    rw [this] at hw
    cases hw
  · exact h _ hc w hw

theorem WaitsKept.groupLoaded {d t : Dev} (h : WaitsKept d t) {c : Nat} (hc : d.groupLoaded c) : t.groupLoaded c := by
  intro s hs w hw
  obtain ⟨j, hj, hjw⟩ := h c s hs
  exact hc j hj w (hjw.trans hw)

theorem mem_of_mem_sset {β : Type} [DecidableEq β] {dflt : Nat → β} {m : List (Nat × β)} {c b : Nat} {v s : β}
    (h : (b, s) ∈ sset dflt m c v) : (b = c ∧ s = v) ∨ (b ≠ c ∧ (b, s) ∈ m) := by
  have hdel (h : (b, s) ∈ sdel c m) : b ≠ c ∧ (b, s) ∈ m := by
    obtain ⟨hm, hne⟩ := List.mem_filter.mp h
    exact ⟨of_decide_eq_true hne, hm⟩
  unfold sset at h
  split at h
  · exact .inr (hdel h)
  · obtain he | hm := mem_sins.mp h
    · exact .inl ⟨congrArg Prod.fst he, congrArg Prod.snd he⟩
    · exact .inr (hdel hm)

/-- A core that is set waits to join nothing, and the others are as they were. -/
theorem Dev.groupLoaded_setCore {d : Dev} {c : Nat} {s : CoreSt} (hs : ∀ w, s.wait = .tile w → w.load = 3) {b : Nat}
    (hb : b = c ∨ d.groupLoaded b) : (d.setCore c s).groupLoaded b := by
  intro k hk w hw
  obtain ⟨-, rfl⟩ | ⟨hne, hm⟩ := mem_of_mem_sset (dflt := fun _ => CoreSt.reset) (m := d.cores) (c := c) (v := s) hk
  · exact hs w hw
  · exact hb.resolve_left hne k hm w hw

/-- A core into whose buffer the group has been written. -/
def CoreSt.groupIn (s : CoreSt) : CoreSt := match s.wait with
  | .tile w => { s with wait := .tile { w with load := 3 } }
  | _ => s

theorem CoreSt.load_groupIn {s : CoreSt} {w : TileWait} (h : s.groupIn.wait = .tile w) : w.load = 3 := by
  unfold CoreSt.groupIn at h
  split at h
  · cases h
    rfl
  · next hs => exact absurd h (hs w)

/-- Where core `c` finds group `g`: in the copy of its die, or in the one copy. -/
def LaunchDesc.groupAt (t : LaunchDesc) (g c : Nat) : Nat := t.wbase + g * t.wstride + (if t.wrep then c / 192 * 0x48000000 else 0)

/-- Group `g`, of which `rs` holds the bytes by address, is written into the weight buffers of the cores `cs`. -/
def Dev.mcastFill (d : Dev) (acc : Acc) (t : LaunchDesc) (g : Nat) (rs : List (Nat × Marked)) (cs : List Nat) : Dev :=
  d.each cs fun d c => (d.writeMem acc (pocketAddr c (t.wbuf (d.core c).gcount))
    (((rs.find? (·.1 = t.groupAt g c)).map (·.2)).getD [])).2.updCore c CoreSt.groupIn

section Fill

variable (d : Dev) (acc : Acc) (t : LaunchDesc) (g : Nat) (rs : List (Nat × Marked)) {cs : List Nat}

theorem seqKept_mcastFill : SeqKept d (d.mcastFill acc t g rs cs) :=
  seqKept_each d cs _ fun _ _ => (seqKept_writeMem _ _ _ _).trans (seqKept_setCore _ _ _)

theorem Dev.groupLoaded_mcastFill {b : Nat} (h : b ∈ cs ∨ d.groupLoaded b) : (d.mcastFill acc t g rs cs).groupLoaded b := by
  induction cs generalizing d with
  | nil => exact h.resolve_left List.not_mem_nil
  | cons c cs ih =>
    refine ih _ ?_
    refine or_iff_not_imp_left.mpr fun hn => Dev.groupLoaded_setCore (fun w hw => CoreSt.load_groupIn hw) ?_
    exact h.imp (fun hm => (List.mem_cons.mp hm).resolve_right hn) (waitsKept_writePocket _ _ _ _ _).groupLoaded

end Fill

/-- A TSYNC.TILE that has its group goes on without joining a multicast. -/
theorem Dev.tileProceed_of_loaded {d : Dev} {c : Nat} (h : d.groupLoaded c) :
    SeqKept d (d.tileProceed c) ∧ ∀ b, d.groupLoaded b → (d.tileProceed c).groupLoaded b := by
  obtain he | ⟨w, s, k, f, hw, hload, -⟩ | ⟨w, ents, e, hrec, he⟩ := d.tileProceed_cases c
  · rw [he]
    exact ⟨.refl d, fun _ hb => hb⟩
  · rw [h.load hw] at hload
    cases hload
  · rw [he]
    obtain ⟨hseq, hwaits⟩ : SeqKept d e ∧ WaitsKept d e := by
      obtain rfl | ⟨acc, off, bs, rfl⟩ := hrec
      · exact ⟨.refl _, .refl _⟩
      · exact ⟨seqKept_writeMem _ _ _ _, waitsKept_writePocket _ _ _ _ _⟩
    refine ⟨hseq.trans (seqKept_setCore _ _ _), fun b hb => Dev.groupLoaded_setCore (fun v hv => ?_) (.inr (hwaits.groupLoaded hb))⟩
    cases hv

theorem Dev.seqKept_proceedAll {d : Dev} {cs : List Nat} (h : ∀ c ∈ cs, d.groupLoaded c) : SeqKept d (d.each cs Dev.tileProceed) := by
  induction cs generalizing d with
  | nil => exact .refl d
  | cons c cs ih =>
    obtain ⟨hkept, hloaded⟩ := Dev.tileProceed_of_loaded (h c (by simp))
    exact hkept.trans (ih fun b hb => hloaded b (h b (by simp [hb])))

/-- The cores of a multicast that have not been fenced since. -/
def Dev.mcastCores (d : Dev) (m : Mcast) : List Nat := m.joined.filter (fun c => d.coreState c ≠ 5)

/-- The group's bytes at each of the addresses `as`, and the first address among them that read bad. -/
def Dev.mcastRead (d : Dev) (acc : Acc) (n : Nat) (as : List Nat) : (List (Nat × Marked) × Option Nat) × Dev :=
  as.foldl (fun (r : (List (Nat × Marked) × Option Nat) × Dev) a =>
    ((r.1.1 ++ [(a, (r.2.readMem acc a n).1.data)], first r.1.2 (r.2.readMem acc a n).1.bad), (r.2.readMem acc a n).2)) (([], none), d)

theorem seqKept_mcastRead (d : Dev) (acc : Acc) (n : Nat) (as : List Nat) : SeqKept d (d.mcastRead acc n as).2 := by
  unfold Dev.mcastRead
  refine seqKept_fold _ _ (fun r a => ?_) ((([], none) : List (Nat × Marked) × Option Nat), d)
  exact seqKept_readMem _ _ _ _

/-- The multicast is counted and leaves its launch. -/
def Dev.mcastCount (d : Dev) (k : Nat) (m : Mcast) : Dev :=
  (d.add64 (rTsqMcastLo (hubOf k)) 1).updLaunch k (fun l => { l with mcasts := l.mcasts.erase m })

/-- Poison that was met is noted. -/
def Dev.noteBad (d : Dev) (k : Nat) (bad : Option Nat) : Dev := match bad with
  | some a => d.notePoison k a
  | none => d

/-- A closed multicast is performed in four parts: the group is read and written into the buffers of the cores `cs`, the multicast
is counted and leaves its launch, poison is noted, and the cores go on. -/
theorem Dev.mcastDone_parts {d : Dev} {k g : Nat} {l : LaunchSt} {t : LaunchDesc} {m : Mcast} (hl : d.launch? k = some l)
    (ht : l.tile = some t) (hm : l.mcasts.find? (fun m => m.group = g && m.closed) = some m) :
    ∃ (e : Dev) (bad : Option Nat) (cs : List Nat), SeqKept d e ∧ (∀ c ∈ cs, e.groupLoaded c) ∧
      d.mcastDone k g = ((e.mcastCount k m).noteBad k bad).each cs Dev.tileProceed := by
  have hread := seqKept_mcastRead d ⟨some l.part, tsqSrc k⟩ t.wbytes (sortNat ((d.mcastCores m).map (t.groupAt g)))
  generalize hr : d.mcastRead ⟨some l.part, tsqSrc k⟩ t.wbytes (sortNat ((d.mcastCores m).map (t.groupAt g))) = r at hread
  refine ⟨r.2.mcastFill ⟨some l.part, tsqSrc k⟩ t g r.1.1 (d.mcastCores m), r.1.2, d.mcastCores m,
    hread.trans (seqKept_mcastFill ..), fun c hc => Dev.groupLoaded_mcastFill _ _ _ _ _ (.inl hc), ?_⟩
  unfold Dev.mcastDone
  simp only [hl, ht, hm]
  subst hr
  rfl

/-- A closed multicast that is performed counts once in MCAST and leaves its launch. -/
theorem Dev.mcastDone_spec {d : Dev} {k g : Nat} {l : LaunchSt} {t : LaunchDesc} {m : Mcast} (hl : d.launch? k = some l)
    (ht : l.tile = some t) (hm : l.mcasts.find? (fun m => m.group = g && m.closed) = some m) :
    (∃ e, Tallies d e ∧ Tallies (e.add64 (rTsqMcastLo (hubOf k)) 1) (d.mcastDone k g)) ∧
      ∃ z, (d.mcastDone k g).launch? k = some z ∧ z.mcasts = l.mcasts.erase m := by
  obtain ⟨e, bad, cs, hkept, hloaded, he⟩ := Dev.mcastDone_parts hl ht hm
  have hcount : e.mcastCount k m = (e.add64 (rTsqMcastLo (hubOf k)) 1).setLaunch k { l with mcasts := l.mcasts.erase m } :=
    Dev.updLaunch_of_some ((Dev.launch?_add64 _ _ _ _).trans ((hkept.launch? k).trans hl)) _
  have hnote (u : Dev) : (u.noteBad k bad).cores = u.cores ∧ Tallies u (u.noteBad k bad) := by
    cases bad with
    | none => exact ⟨rfl, .refl u⟩
    | some a => exact ⟨Dev.cores_updLaunch _ _ _, tallies_updLaunch _ _ _⟩
  have hz : ∃ z, ((e.mcastCount k m).noteBad k bad).launch? k = some z ∧ z.mcasts = l.mcasts.erase m := by
    have h1 : (e.mcastCount k m).launch? k = some { l with mcasts := l.mcasts.erase m } := by rw [hcount, Dev.launch?_setLaunch_same]
    cases bad with
    | none => exact ⟨_, h1, rfl⟩
    | some a => exact ⟨_, (congrArg (Dev.launch? · k) (Dev.updLaunch_of_some h1 _)).trans (Dev.launch?_setLaunch_same _ _ _), rfl⟩
  have hcores : ((e.mcastCount k m).noteBad k bad).cores = e.cores :=
    (hnote _).1.trans ((Dev.cores_updLaunch _ _ _).trans (e.cores_add64 _ _))
  have hgo : SeqKept ((e.mcastCount k m).noteBad k bad) (d.mcastDone k g) := by
    rw [he]
    exact Dev.seqKept_proceedAll fun c hc => (waitsKept_of_cores hcores).groupLoaded (hloaded c hc)
  obtain ⟨z, hz, hzm⟩ := hz
  exact ⟨⟨e, hkept.tallies, ((tallies_updLaunch _ _ _).trans (hnote _).2).trans hgo.tallies⟩, z, (hgo.launch? k).trans hz, hzm⟩

end Sys2Proof.Machine

namespace Sys2Proof.Machine

/-! ### Stripes (R141, R142) -/

/-- Staging starts with the stripe whose turn has come. -/
theorem Dev.stageStart_eq {d : Dev} {k n : Nat} {l : LaunchSt} {t : LaunchDesc} {sd : Desc} (hl : d.launch? k = some l)
    (ht : l.tile = some t) (hs : l.sdesc = some sd) (hn : d.nextStripe k l t = some n) :
    d.stageStart k = (d.setLaunch k { l with staging := some n }).xferBegin (d.stageXfer k l t sd n) := by
  simp only [Dev.stageStart, hl, ht, hs, hn]

/-- From `d` to `t` every launch stays, with the stripes that it has staged and the one that it is staging, and the counters of the
hubs are as they were. -/
structure StagesKept (d t : Dev) : Prop where
  tallies : Tallies d t
  launch : ∀ k l, d.launch? k = some l → ∃ z, t.launch? k = some z ∧ z.staged = l.staged ∧ z.staging = l.staging

theorem StagesKept.trans {a b c : Dev} (h : StagesKept a b) (k : StagesKept b c) : StagesKept a c := by
  refine ⟨h.tallies.trans k.tallies, fun q l hl => ?_⟩
  obtain ⟨y, hy, hs, hg⟩ := h.launch q l hl
  obtain ⟨z, hz, hs2, hg2⟩ := k.launch q y hy
  exact ⟨z, hz, hs2.trans hs, hg2.trans hg⟩

theorem SeqKept.stagesKept {d t : Dev} (h : SeqKept d t) : StagesKept d t :=
  ⟨h.tallies, fun k l hl => ⟨l, (h.launch? k).trans hl, rfl, rfl⟩⟩

theorem StagesKept.refl (d : Dev) : StagesKept d d := (SeqKept.refl d).stagesKept

/-- A change of a launch that leaves its stripes alone. -/
theorem stagesKept_updLaunch (d : Dev) (k : Nat) {f : LaunchSt → LaunchSt}
    (hf : ∀ l, (f l).staged = l.staged ∧ (f l).staging = l.staging) : StagesKept d (d.updLaunch k f) := by
  refine ⟨tallies_updLaunch d k f, fun j l hl => ?_⟩
  unfold Dev.updLaunch
  split
  · next m hm =>
    by_cases hjk : j = k
    · subst hjk
      cases hl.symm.trans hm
      exact ⟨f l, Dev.launch?_setLaunch_same _ _ _, hf l⟩
    · exact ⟨l, (Dev.launch?_setLaunch_ne _ _ hjk).trans hl, rfl, rfl⟩
  · exact ⟨l, hl, rfl, rfl⟩

theorem stagesKept_tileProceed (d : Dev) (c : Nat) : StagesKept d (d.tileProceed c) := by
  obtain he | ⟨w, s, k, f, -, -, he⟩ | ⟨w, ents, e, hrec, he⟩ := d.tileProceed_cases c <;> rw [he]
  · exact .refl d
  · exact (seqKept_setCore _ _ _).stagesKept.trans (stagesKept_updLaunch _ _ fun _ => ⟨rfl, rfl⟩)
  · have hkept : SeqKept d e := by
      obtain rfl | ⟨acc, off, bs, rfl⟩ := hrec
      · exact .refl _
      · exact seqKept_writeMem _ _ _ _
    exact (hkept.trans (seqKept_setCore _ _ _)).stagesKept

/-- A stripe whose staging is performed: its rows are written, it is ready and its bytes are counted, and the cores go on. -/
theorem Dev.stageDone_parts {d : Dev} {k n : Nat} {l : LaunchSt} {t : LaunchDesc} {sd : Desc} (hl : d.launch? k = some l)
    (ht : l.tile = some t) (hs : l.sdesc = some sd) (hn : l.staging = some n) (hd : d.trwDecoding (.stage k) = false) :
    ∃ e z, StagesKept d e ∧ e.launch? k = some z ∧ z.staged = l.staged ∧ d.stageDone k =
      ((e.setLaunch k { z with staging := none, staged := z.staged ++ [n] }).add64 (rTsqStageBytesLo (hubOf k))
        (d.stageXfer k l t sd n).dst.footprint).each z.cores Dev.tileProceed := by
  have hnote (p : Prop) [Decidable p] (u : Dev) (a : Nat) (hu : StagesKept d u) : StagesKept d (if p then u.notePoison k a else u) := by
    split
    · exact hu.trans (stagesKept_updLaunch _ _ fun _ => ⟨rfl, rfl⟩)
    · exact hu
  have hrun := hnote ((d.xferRun (d.stageXfer k l t sd n)).1.refused = true) _
    ((first (d.xferRun (d.stageXfer k l t sd n)).1.readBad (d.xferRun (d.stageXfer k l t sd n)).1.writeBad).getD 0)
    (seqKept_xferRun d (x := d.stageXfer k l t sd n) rfl).stagesKept
  obtain ⟨z, hz, hzs, -⟩ := hrun.launch k l hl
  refine ⟨_, z, hrun, hz, hzs, ?_⟩
  unfold Dev.stageDone
  simp only [hl, ht, hs, hn, hd, hz, Bool.false_eq_true, if_false, Option.getD_some]

/-- A stripe whose staging is performed is ready, and its bytes count in STAGE_BYTES. -/
theorem Dev.stageDone_spec {d : Dev} {k n : Nat} {l : LaunchSt} {t : LaunchDesc} {sd : Desc} (hl : d.launch? k = some l)
    (ht : l.tile = some t) (hs : l.sdesc = some sd) (hn : l.staging = some n) (hd : d.trwDecoding (.stage k) = false) :
    (∃ e, Tallies d e ∧ Tallies (e.add64 (rTsqStageBytesLo (hubOf k)) (d.stageXfer k l t sd n).dst.footprint) (d.stageDone k)) ∧
      ∃ z, (d.stageDone k).launch? k = some z ∧ z.staged = l.staged ++ [n] ∧ z.staging = none := by
  obtain ⟨e, z, hkept, hz, hzs, he⟩ := Dev.stageDone_parts hl ht hs hn hd
  have hgo (u : Dev) : StagesKept u (u.each z.cores Dev.tileProceed) :=
    foldl_rel StagesKept StagesKept.refl (fun _ _ _ => StagesKept.trans) _ stagesKept_tileProceed z.cores u
  obtain ⟨y, hy, hys, hyg⟩ := (hgo _).launch k _ ((Dev.launch?_add64 _ _ _ _).trans (e.launch?_setLaunch_same k
    { z with staging := none, staged := z.staged ++ [n] }))
  rw [he]
  refine ⟨⟨_, hkept.tallies.trans (tallies_setLaunch _ _ _), (hgo _).tallies⟩, y, hy, hys.trans ?_, hyg⟩
  rw [← hzs]

/-! ### Restarts (R134) -/

/-- From `d` to `t` tiers, the counters of the hubs and the upper bits of the slots' STATE are as they were. -/
structure StartsOnly (d t : Dev) : Prop where
  tier : t.tier = d.tier
  tallies : Tallies d t
  state : ∀ j n, 3 ≤ n → bitOf n (t.rd (slotReg j 0)) = bitOf n (d.rd (slotReg j 0))

theorem StartsOnly.refl (d : Dev) : StartsOnly d d := ⟨rfl, .refl d, fun _ _ _ => rfl⟩

theorem StartsOnly.trans {a b c : Dev} (h : StartsOnly a b) (k : StartsOnly b c) : StartsOnly a c :=
  ⟨k.tier.trans h.tier, h.tallies.trans k.tallies, fun j n hn => (k.state j n hn).trans (h.state j n hn)⟩

theorem startsOnly_each {α : Type} (d : Dev) (l : List α) (f : Dev → α → Dev) (h : ∀ d a, StartsOnly d (f d a)) :
    StartsOnly d (d.each l f) := foldl_rel StartsOnly StartsOnly.refl (fun _ _ _ => StartsOnly.trans) f h l d

theorem startsOnly_setCore (d : Dev) (c : Nat) (s : CoreSt) : StartsOnly d (d.setCore c s) :=
  ⟨rfl, tallies_setCore d c s, fun j n _ => congrArg (bitOf n) (Dev.rd_setCore _ _ (slotReg_ne_status j c (by decide)))⟩

theorem startsOnly_setCoreState (d : Dev) (c v : Nat) : StartsOnly d (d.setCoreState c v) :=
  ⟨rfl, tallies_setCoreState d c v, fun j n _ => congrArg (bitOf n) (Dev.rd_setCoreState _ _ (slotReg_ne_status j c (by decide)))⟩

theorem startsOnly_setLaunch (d : Dev) (k : Nat) (l : LaunchSt) : StartsOnly d (d.setLaunch k l) :=
  ⟨Dev.tier_setLaunch _ _ _, tallies_setLaunch d k l, fun j _ hn => Dev.bitOf_state_slotStat _ j k hn⟩

theorem startsOnly_updLaunch (d : Dev) (k : Nat) (f : LaunchSt → LaunchSt) : StartsOnly d (d.updLaunch k f) := by
  unfold Dev.updLaunch
  split
  · exact startsOnly_setLaunch _ _ _
  · exact .refl d

theorem startsOnly_wakeCores (d : Dev) (cs : List Nat) (prio : Nat) : StartsOnly d (d.wakeCores cs prio) := by
  have hone (p : Prop) [Decidable p] (t : Dev) (u : WakeUnit) : StartsOnly t (if p then t.requestWake u prio else t) := by
    split
    · unfold Dev.requestWake
      split
      · exact .refl t
      · exact ⟨rfl, fun _ _ => rfl, fun _ _ _ => rfl⟩
    · exact .refl t
  exact startsOnly_each d cs _ fun t c => (hone _ t _).trans (hone _ _ _)

theorem startsOnly_launchStart (d : Dev) (c : Nat) : StartsOnly d (d.launchStart c) := by
  unfold Dev.launchStart
  split
  · exact .refl d
  · dsimp only
    split
    · split
      · exact .refl d
      · exact ((startsOnly_setCore _ _ _).trans (startsOnly_setCoreState _ _ _)).trans (startsOnly_updLaunch _ _ _)
    · exact .refl d

/-- A launch with reissued indices of which every core in service has ended restarts those cores: it forgets who started and who
ended, STATE shows the restart, the cores are counted, and they start, or are woken for it. -/
theorem Dev.restart_eq {d : Dev} {k : Nat} {l : LaunchSt} (hl : d.launch? k = some l) (he : l.early = false) (hs : l.stop = false)
    (hr : l.reissue ≠ []) (hne : l.live d ≠ []) (hend : ∀ y ∈ l.live d, y ∈ l.ended) : d.restart k =
      let t := d.setLaunch k { l with started := [], ended := [] }
      let u := (t.wr (slotReg k 0) (setBit 4 true (t.rd (slotReg k 0)))).addSat (rTsqRestart (hubOf k)) (l.live d).length
      (u.wakeCores (l.live d) (u.rdFld (rQmgQCfg l.q) 8 6)).each (l.live d) Dev.launchStart := by
  have hguard : (l.early || l.stop || l.reissue.isEmpty || (l.live d).isEmpty || (l.live d).any (fun c => !l.ended.contains c)) =
      false := by
    simpa [he, hs, hr, hne] using hend
  unfold Dev.restart
  rw [hl]
  exact if_neg (ne_true_of_eq_false hguard)

theorem hubCounter_restart {h : Nat} (hh : h < 2) : hubCounter (rTsqRestart h) := by
  unfold hubCounter rTsqRestart
  omega

theorem Dev.restart_spec {d : Dev} {k : Nat} {l : LaunchSt} (hl : d.launch? k = some l) (he : l.early = false) (hs : l.stop = false)
    (hr : l.reissue ≠ []) (hne : l.live d ≠ []) (hend : ∀ y ∈ l.live d, y ∈ l.ended) : (d.restart k).tier = d.tier ∧
      bitOf 4 ((d.restart k).rd (slotReg k 0)) = true ∧
      (d.restart k).rd (rTsqRestart (hubOf k)) = satAdd32 (d.rd (rTsqRestart (hubOf k))) (l.live d).length := by
  have hc := hubCounter_restart (hubOf_lt k)
  have hset := startsOnly_setLaunch d k { l with started := [], ended := [] }
  rw [Dev.restart_eq hl he hs hr hne hend]
  extract_lets t u
  have hu : u = (t.wr (slotReg k 0) (setBit 4 true (t.rd (slotReg k 0)))).wr (rTsqRestart (hubOf k))
      (satAdd32 (t.rd (rTsqRestart (hubOf k))) (l.live d).length) := by
    unfold u Dev.addSat
    rw [if_neg (mt List.length_eq_zero_iff.mp hne), Dev.rd_wr_ne _ _ (hc.ne_slotReg k (by decide))]
  have hgo : StartsOnly u ((u.wakeCores (l.live d) (u.rdFld (rQmgQCfg l.q) 8 6)).each (l.live d) Dev.launchStart) :=
    (startsOnly_wakeCores _ _ _).trans (startsOnly_each _ _ _ startsOnly_launchStart)
  refine ⟨?_, ?_, ?_⟩
  · rw [hgo.tier, hu]
    exact hset.tier
  · rw [hgo.state k 4 (by decide), hu, Dev.rd_wr_ne _ _ (hc.ne_slotReg k (by decide)).symm, Dev.rd_wr_same,
      bitOf_setBit_same _ _ _ (by decide)]
  · rw [hgo.tallies _ hc, hu, Dev.rd_wr_same, hset.tallies _ hc]

end Sys2Proof.Machine

namespace Sys2Proof.Proofs
open Sys2Proof.Machine Sys2Proof.Safety

section TileArms

variable (s : State)

theorem exec_tsyncTile (c : Fin 1536) (rd : Fin 32) : exec (.tsyncTile c rd) s = State.run (fun d => d.tsyncTile c.val rd.val) s := rfl
theorem exec_tileRetire (c : Fin 1536) : exec (.tileRetire c) s = State.run (fun d => d.tileRetire c.val) s := rfl

variable (hub : Fin 2) (slot : Fin 256)

theorem exec_multicastClose (g : Nat) :
    exec (.multicastClose hub slot g) s = State.run (fun d => d.mcastClose (slotNo hub slot) g) s := rfl
theorem exec_multicastComplete (g : Nat) :
    exec (.multicastComplete hub slot g) s = State.run (fun d => d.mcastDone (slotNo hub slot) g) s := rfl
theorem exec_stripeStageStart :
    exec (.stripeStageStart hub slot) s = State.run (fun d => d.stageStart (slotNo hub slot)) s := rfl
theorem exec_stripeStageDone : exec (.stripeStageDone hub slot) s = State.run (fun d => d.stageDone (slotNo hub slot)) s := rfl
theorem exec_coreRestart : exec (.coreRestart hub slot) s = State.run (fun d => d.restart (slotNo hub slot)) s := rfl

end TileArms

theorem hubOf_slotNo (hub : Fin 2) (slot : Fin 256) : hubOf (slotNo hub slot) = hub.val := by
  unfold hubOf slotNo
  omega

/-- A pair of the hub's counters. -/
theorem hubCounter_pair {h off : Nat} (hh : h < 2) (ho : 0x20 ≤ off ∧ off < 0x3C) :
    hubCounter (0x3000000 + off + 0x800000 * h) ∧ hubCounter (0x3000000 + off + 0x800000 * h + 4) := by
  unfold hubCounter
  omega

/-- What TSYNC.TILE leaves of the device and the core when it is handed an index with nothing to load, to stage or to record. -/
theorem tsyncTile_hands {d e : Dev} {c k i : Nat} {l : LaunchSt} {t : LaunchDesc} {re : Bool} (h : d.issuing c = true)
    (hk : (d.core c).launch = some k) (hl : d.launch? k = some l) (ht : l.tile = some t) (hi : d.takeIdx k l = some (i, re, e))
    (hbase : t.wbase = 0) (hrec : t.trec = 0xFFFFFFFF) (hs : t.stage = false) (hv : l.kv = none) (rd : Nat) :
    (∃ a, Tallies d a ∧ Tallies (a.add64 (rTsqTilesLo (hubOf k)) 1) (d.tsyncTile c rd)) ∧ (d.tsyncTile c rd).tier = d.tier ∧
      (d.tsyncTile c rd).core c = ((d.core c).take t rd i re).receive
        ⟨rd, i, (d.core c).count, 0, (d.core c).group ≠ some (t.sgo i).2.1, re, 4⟩ (d.core c).ents := by
  obtain ⟨htake, htier, -, z, hz, hzt, hzv⟩ := Dev.takeIdx_spec hi hl
  have hcore : (((e.setCore c ((d.core c).take t rd i re)).add64 (rTsqTilesLo (hubOf k)) 1).slotStat k).core c =
      (d.core c).take t rd i re := by rw [Dev.core_slotStat, Dev.core_add64, Dev.core_setCore_same]
  have hwait : ((d.core c).take t rd i re).wait =
      .tile ⟨rd, i, (d.core c).count, 0, (d.core c).group ≠ some (t.sgo i).2.1, re, 4⟩ := by simp [CoreSt.take, hbase]
  have hgo := Dev.tileProceed_of_ready ((congrArg CoreSt.wait hcore).trans hwait) ((congrArg CoreSt.launch hcore).trans hk)
    (l := z) (by simpa using hz) (hzt.trans ht) rfl hrec hs (hzv.trans hv)
  rw [Dev.tsyncTile_of_some h hk hl ht hi, hgo, hcore]
  refine ⟨⟨_, htake.trans (tallies_setCore _ _ _), (tallies_slotStat _ _).trans (tallies_setCore _ _ _)⟩, ?_,
    Dev.core_setCore_same _ _ _⟩
  exact (Dev.tier_slotStat _ _).trans ((Dev.tier_add64 _ _ _).trans htier)

/-- Settles O22, command by command: TSYNC.TILE by `tsyncTile_hands`, a retirement by its launch's books, a multicast and a stripe by
what their accesses to memory leave of the sequencers, a restart by what the starts of cores leave. -/
theorem tilesAreHandedRetiredMulticastAndStaged : Obligations.TilesAreHandedRetiredMulticastAndStaged := by
  unfold Obligations.TilesAreHandedRetiredMulticastAndStaged
  intro s c rd hub slot g n k i l t sd m h re d b q up at_
  have hhub : hubOf q = hub.val := hubOf_slotNo hub slot
  refine ⟨fun hiss hk hl ht => ⟨fun hi hbase hrec hs hv => ?hand, fun hi => ?out⟩, fun hf hs hk => ?retire, fun hl => ?close,
    fun hl ht hm => ?complete, fun hl ht hsd hn => ?start, fun hl ht hsd hn hdec => ?done, fun hl he hs hr hne hend => ?restart⟩
  case hand =>
    obtain ⟨⟨a, ha, hat⟩, htier, hcore⟩ := tsyncTile_hands hiss hk hl ht hi hbase hrec hs hv rd
    obtain ⟨hlo, hhi⟩ := hubCounter_pair (off := 0x20) (hubOf_lt k) (by decide)
    refine runs_of_does (does_of_run (exec_tsyncTile s c rd) rfl) (congrArg TierSt.stall htier) ⟨rd64_counted hlo hhi ha hat, ?_⟩
    rw [Dev.core_refresh, hcore]
    refine ⟨CoreSt.rx_wx _ _ _, rfl, rfl, rfl, rfl, CoreSt.count_wx _ _ _, ⟨⟨i, none, re⟩, ?_, rfl⟩, rfl⟩
    exact (CoreSt.held_wx _ _ _).symm ▸ List.mem_append_right _ (List.mem_singleton_self _)
  case out =>
    have hcore : ((s.dev.tsyncTile c rd).core c) = b.tilesOut rd := by
      rw [Dev.tsyncTile_of_none hiss hk hl ht hi, Dev.core_slotStat, Dev.core_setCore_same]
    have htier : (s.dev.tsyncTile c rd).tier = s.dev.tier := by
      rw [Dev.tsyncTile_of_none hiss hk hl ht hi]
      exact Dev.tier_slotStat _ _
    refine runs_of_does (does_of_run (exec_tsyncTile s c rd) rfl) (congrArg TierSt.stall htier) ?_
    rw [Dev.core_refresh, hcore]
    obtain ⟨-, hrun, -⟩ := Dev.issuing_iff.mp hiss
    exact ⟨CoreSt.rx_wx _ _ _, rfl, CoreSt.trtile_wx _ _ _, CoreSt.held_wx _ _ _, (CoreSt.wait_wx _ _ _).trans hrun, rfl⟩
  case retire =>
    have hdo := does_of_run (exec_tileRetire s c) (Dev.tileRetire_eq hf hs)
    refine runs_of_does hdo (congrArg TierSt.stall (Dev.books_retireTile hk h.idx).tier) ⟨?_, Dev.not_held_retireTile hk h.idx⟩
    exact (Dev.rd64_refresh_far _ (by rw [slotReg_eq]; omega)).trans (Dev.rd64_retireTile hk h.idx)
  case close =>
    refine runs_of_does (does_of_run (exec_multicastClose s hub slot g) (Dev.mcastClose_eq hl g))
      (congrArg TierSt.stall (Dev.tier_setLaunch _ _ _)) ⟨_, Dev.launch?_setLaunch_same _ _ _, fun y hy => ?_, joined_closeGroup g _⟩
    exact closed_of_mem_closeGroup hy
  case complete =>
    obtain ⟨⟨e, hbefore, hafter⟩, z, hz, hzm⟩ := Dev.mcastDone_spec hl ht hm
    obtain ⟨hlo, hhi⟩ := hubCounter_pair (off := 0x28) (hubOf_lt q) (by decide)
    have hup := rd64_counted hlo hhi hbefore hafter
    exact ⟨_, does_of_run (exec_multicastComplete s hub slot g) rfl, fun _ => ⟨hhub ▸ hup, z, hz, hzm⟩⟩
  case start => exact does_of_run (exec_stripeStageStart s hub slot) (Dev.stageStart_eq hl ht hsd hn)
  case done =>
    obtain ⟨⟨e, hbefore, hafter⟩, z, hz, hstaged, hstaging⟩ := Dev.stageDone_spec hl ht hsd hn hdec
    obtain ⟨hlo, hhi⟩ := hubCounter_pair (off := 0x38) (hubOf_lt q) (by decide)
    have hup := rd64_counted hlo hhi hbefore hafter
    exact ⟨_, does_of_run (exec_stripeStageDone s hub slot) rfl, fun _ => ⟨hhub ▸ hup, z, hz, hstaged, hstaging⟩⟩
  case restart =>
    obtain ⟨htier, hbit, hcount⟩ := Dev.restart_spec hl he hs hr hne hend
    refine runs_of_does (does_of_run (exec_coreRestart s hub slot) rfl) (congrArg TierSt.stall htier) ⟨?_, ?_⟩
    · rwa [Dev.rd_refresh_far _ (by rw [slotReg_eq]; omega)]
    · rw [Dev.rd_refresh_far _ (by unfold rTsqRestart; omega), ← hhub, hcount]

end Sys2Proof.Proofs

/-! Proofs of the family 06_attention_and_kv_cache: the KV commands on their slots (R151, R152), and how the KV store and Trowel
are enabled and disabled (R158, R209). -/

namespace Sys2Proof.Machine
open Sys2Proof.Safety

/-! ### The pages that an append fills (R151) -/

theorem rangeFrom_succ (a n : Nat) : rangeFrom a (n + 1) = a :: rangeFrom (a + 1) n := by
  unfold rangeFrom
  rw [List.range_succ_eq_map, List.map_cons, List.map_map]
  exact congrArg _ (List.map_congr_left fun i _ => by simp only [Function.comp_apply]; omega)

/-- The pages, from page `k` on, that end after `len` and at `len + adv` at the latest. -/
def pagesFilled (p len adv k n : Nat) : List Nat :=
  (rangeFrom k n).filter (fun i => len < (i + 1) * p && (i + 1) * p ≤ len + adv)

theorem pagesFilled_nil {p len adv k : Nat} (hp : 0 < p) (h : (len + adv) / p ≤ k) (n : Nat) : pagesFilled p len adv k n = [] := by
  refine List.filter_eq_nil_iff.mpr fun i hi => ?_
  obtain ⟨hki, -⟩ := mem_rangeFrom.mp hi
  have hend : len + adv < (i + 1) * p := (Nat.div_lt_iff_lt_mul hp).mp (by omega)
  simp [Nat.not_le.mpr hend]

theorem pagesFilled_one {p len adv : Nat} (hp : 0 < p) (h : (len + adv) / p = len / p + 1) (n : Nat) :
    pagesFilled p len adv (len / p) (n + 1) = [len / p] := by
  have hlt : len < (len / p + 1) * p := (Nat.div_lt_iff_lt_mul hp).mp (Nat.lt_succ_self _)
  have hle : (len / p + 1) * p ≤ len + adv := (Nat.le_div_iff_mul_le hp).mp h.ge
  rw [pagesFilled, rangeFrom_succ, List.filter_cons_of_pos (by simp [hlt, hle])]
  exact congrArg _ (pagesFilled_nil hp h.le n)

theorem Dev.kvGeom_p_pos (d : Dev) (p : Nat) : 0 < (d.kvGeom p).p := Nat.pow_pos (by decide)

/-- A launch holds back nothing of no pages. -/
theorem Dev.kvHeld_nil (d : Dev) (part ord b : Nat) (g : KvGeom) : d.kvHeld part ord b g [] = false := by
  simp [Dev.kvHeld]

/-! ### The work on one slot (R151, R152) -/

section Slot

variable {d : Dev} {acc : Acc} {p ord b : Nat}

theorem Dev.kvOpen_refused {n : Nat} (h : (d.kvEntry acc p b).1.state % 2 = 1 ∨ n < 1 ∨ 2 ^ 20 < n) (plist : Nat) :
    d.kvOpen acc p b n plist = (.fail 1, (d.kvEntry acc p b).2) := by
  unfold Dev.kvOpen
  exact if_pos (by simpa [or_assoc] using h)

theorem Dev.kvOpen_closed {n : Nat} (hs : (d.kvEntry acc p b).1.state % 2 = 0) (h1 : 1 ≤ n) (h2 : n ≤ 2 ^ 20) (plist : Nat) :
    d.kvOpen acc p b n plist =
      let u := (d.kvEntry acc p b).2.setKvEntry acc p b ⟨0, n, nfld 47 0 plist, 1⟩
      (.ok none, u.wr (rDmaKvOpen p) (u.rd (rDmaKvOpen p) + 1)) := by
  unfold Dev.kvOpen
  exact if_neg (by simp [hs]; omega)

theorem Dev.kvClose_refused (hs : (d.kvEntry acc p b).1.state % 2 = 0) :
    d.kvClose acc p ord b = (.fail 1, (d.kvEntry acc p b).2) := by
  unfold Dev.kvClose
  exact if_pos hs

section Close

variable (hs : (d.kvEntry acc p b).1.state % 2 = 1)
include hs

theorem Dev.kvClose_held (hh : d.kvHeld p ord b (d.kvGeom p) (List.range (d.kvGeom p).frames) = true) :
    d.kvClose acc p ord b = (.wait, d) := by
  simp [Dev.kvClose, hs, hh]

theorem Dev.kvClose_open (hh : d.kvHeld p ord b (d.kvGeom p) (List.range (d.kvGeom p).frames) = false) :
    d.kvClose acc p ord b =
      let u := (d.kvEntry acc p b).2.setKvEntry acc p b { (d.kvEntry acc p b).1 with state := 0 }
      (.ok none, u.wr (rDmaKvOpen p) (u.rd (rDmaKvOpen p) - 1)) := by
  simp [Dev.kvClose, hs, hh]

end Close

theorem Dev.kvTrim_refused {n : Nat} (h : (d.kvEntry acc p b).1.state % 2 = 0 ∨ (d.kvEntry acc p b).1.len < n) :
    d.kvTrim acc p ord b n = (.fail 1, (d.kvEntry acc p b).2) := by
  unfold Dev.kvTrim
  exact if_pos (by simpa using h)

section Trim

variable {n : Nat} (hs : (d.kvEntry acc p b).1.state % 2 = 1)
include hs

theorem Dev.kvTrim_same (h : n = (d.kvEntry acc p b).1.len) : d.kvTrim acc p ord b n = (.ok none, (d.kvEntry acc p b).2) := by
  simp [Dev.kvTrim, hs, h]

/-- The frames that a trim to `n` releases. -/
abbrev KvGeom.released (g : KvGeom) (len n : Nat) : List Nat := if n / g.p < len / g.p then rangeFrom (len / g.p) g.frames else []

/-- A trim that reloads no page: it waits while an earlier launch reads what it releases, and then sets LEN. -/
theorem Dev.kvTrim_whole (h : n < (d.kvEntry acc p b).1.len)
    (hcut : n % (d.kvGeom p).p = 0 ∨ (d.kvEntry acc p b).1.len / (d.kvGeom p).p ≤ n / (d.kvGeom p).p) :
    d.kvTrim acc p ord b n =
      if d.kvHeld p ord b (d.kvGeom p) ((d.kvGeom p).released (d.kvEntry acc p b).1.len n) then (.wait, d)
      else (.ok none, (d.kvEntry acc p b).2.setKvEntry acc p b { (d.kvEntry acc p b).1 with len := n }) := by
  have hreload : ¬(¬n % (d.kvGeom p).p = 0 ∧ n / (d.kvGeom p).p < (d.kvEntry acc p b).1.len / (d.kvGeom p).p) := by omega
  simp [Dev.kvTrim, hs, h.ne, h.not_gt, hreload]

end Trim

section Append

variable {adv : Nat}

theorem Dev.kvAppend_closed (hs : (d.kvEntry acc p b).1.state % 2 = 0) :
    d.kvAppend acc p ord b adv = (.fail 1, (d.kvEntry acc p b).2) := by
  unfold Dev.kvAppend
  exact if_pos hs

variable (hs : (d.kvEntry acc p b).1.state % 2 = 1)
include hs

theorem Dev.kvAppend_too_long (h : (d.kvEntry acc p b).1.maxlen < (d.kvEntry acc p b).1.len + adv) :
    d.kvAppend acc p ord b adv = (.fail 2, (d.kvEntry acc p b).2) := by
  simp [Dev.kvAppend, hs, h]

variable (hl : (d.kvEntry acc p b).1.len + adv ≤ (d.kvEntry acc p b).1.maxlen)
include hl

variable {g : KvGeom} (hg : d.kvGeom p = g)
include hg

/-- An append that ends in the page that it begins in writes LEN alone. -/
theorem Dev.kvAppend_within (hf : 0 < g.frames)
    (h : ((d.kvEntry acc p b).1.len + adv) / g.p = (d.kvEntry acc p b).1.len / g.p) :
    d.kvAppend acc p ord b adv =
      (.ok none, (d.kvEntry acc p b).2.setKvEntry acc p b { (d.kvEntry acc p b).1 with len := (d.kvEntry acc p b).1.len + adv }) := by
  have hpages := pagesFilled_nil (hg ▸ d.kvGeom_p_pos p) h.le (adv / g.p + 2)
  have hlast : ((d.kvEntry acc p b).1.len + adv - 1) / g.p ≤ (d.kvEntry acc p b).1.len / g.p :=
    h ▸ Nat.div_le_div_right (Nat.sub_le _ _)
  have hwant : (List.range g.nstr).flatMap (fun _ => ([] : List (Nat × Nat))) = [] := by simp
  unfold pagesFilled at hpages
  simp [Dev.kvAppend, hg, hs, Nat.not_lt.mpr hl, Nat.sub_eq_zero_of_le hlast, hf.ne', hpages, Dev.kvHeld_nil, hwant]

/-- An append that fills the page it begins in, of a single stream: the page is flushed to its backing page, if it has one. -/
theorem Dev.kvAppend_fills (hstr : g.nstr = 1)
    (h : ((d.kvEntry acc p b).1.len + adv) / g.p = (d.kvEntry acc p b).1.len / g.p + 1)
    (hh : d.kvHeld p ord b g [(d.kvEntry acc p b).1.len / g.p] = false) :
    let e := d.kvEntry acc p b
    let pg := e.2.kvPage acc g e.1 0 (e.1.len / g.p)
    (pg.1 = none → d.kvAppend acc p ord b adv = (.fail 4, pg.2)) ∧
    (∀ page, pg.1 = some page → (pg.2.kvFlush acc p b g 0 (e.1.len / g.p) page).1 = (none, false) →
      d.kvAppend acc p ord b adv =
        (.ok none, (pg.2.kvFlush acc p b g 0 (e.1.len / g.p) page).2.setKvEntry acc p b { e.1 with len := e.1.len + adv })) := by
  have hpages := pagesFilled_one (hg ▸ d.kvGeom_p_pos p) h (adv / g.p + 1)
  have hframes : g.frames = 4 := by rw [KvGeom.frames, hstr]
  have hlast : ¬ 4 ≤ ((d.kvEntry acc p b).1.len + adv - 1) / g.p - (d.kvEntry acc p b).1.len / g.p := by
    have := Nat.div_le_div_right (c := g.p) (Nat.sub_le ((d.kvEntry acc p b).1.len + adv) 1)
    omega
  unfold pagesFilled at hpages
  refine ⟨fun hpg => ?_, fun page hpg hfl => ?_⟩
  · simp [Dev.kvAppend, hg, hs, Nat.not_lt.mpr hl, hframes, hlast, hpages, hh, hstr, hpg]
  · simp [Dev.kvAppend, hg, hs, Nat.not_lt.mpr hl, hframes, hlast, hpages, hh, hstr, hpg, hfl, first]

end Append

end Slot

/-! ### Commands of one slot -/

section Command

variable {d : Dev} {c : CmdRef} {x : Inflight} {b : Nat}

section Work

variable {t : Dev} (hb : b < (d.rd (rDmaKvSlots x.part)).toNat)

/-- A command whose one entry is done ends DONE. -/
theorem Dev.kvWork_ok (h : d.kvEntryWork x b = (.ok none, t)) :
    d.kvWork x [b] 0 none = t.finish x { Result.fresh with progress := 1 } := by
  simp [Dev.kvWork, h, first, Result.fresh]

/-- A command whose one entry breaks a rule ends PARTIAL with the rule's error bit. -/
theorem Dev.kvWork_fail {bit : Nat} (h : d.kvEntryWork x b = (.fail bit, t)) :
    d.kvWork x [b] 0 none = (t.kvErr x.part bit b).finish x { Result.fresh with status := .partial_ } := by
  simp [Dev.kvWork, h, Result.fresh]

/-- A command whose one entry has to wait works on, and nothing else changes. -/
theorem Dev.kvWork_wait (h : d.kvEntryWork x b = (.wait, t)) :
    d.kvWork x [b] 0 none = d.setCmd x.q x.i (fun y => { y with
      phase := .working, res := { y.res with progress := 0, addr := 0, result := 0 } }) := by
  simp [Dev.kvWork, h]

include hb

theorem Dev.kvEntryWork_open (h : x.op = 8) :
    d.kvEntryWork x b = d.kvOpen (x.acc (qmSrc x.q)) x.part b (x.opd 1 % 2 ^ 32) (x.opd 2) := by
  simp [Dev.kvEntryWork, Nat.not_le.mpr hb, h]

theorem Dev.kvEntryWork_append (h : x.op = 9) :
    d.kvEntryWork x b = d.kvAppend (x.acc (qmSrc x.q)) x.part x.ord b (x.opd 2 % 256) := by
  simp [Dev.kvEntryWork, Nat.not_le.mpr hb, h]

theorem Dev.kvEntryWork_trim (h : x.op = 10) :
    d.kvEntryWork x b = d.kvTrim (x.acc (qmSrc x.q)) x.part x.ord b (x.opd 1 % 2 ^ 32) := by
  simp [Dev.kvEntryWork, Nat.not_le.mpr hb, h]

theorem Dev.kvEntryWork_close (h : x.op = 11) :
    d.kvEntryWork x b = d.kvClose (x.acc (qmSrc x.q)) x.part x.ord b := by
  simp [Dev.kvEntryWork, Nat.not_le.mpr hb, h]

end Work

variable (ht : d.kvTurn x = true) (hon : d.kvOn x.part = true)
include ht hon

/-- A KV command of one slot named by its first operand, in its turn and in service, works on that slot. -/
theorem Dev.kvCmd_slot {op : Nat} (h : Dispatched d c x 1 op) (h9 : op ≠ 9) : d.kvCmd c op = d.kvWork x [x.opd 0 % 4096] 0 none := by
  obtain ⟨hcmd, hphase, hcls, hop⟩ := h
  rw [Dev.kvCmd, Dev.work_eq d c x _ _ hcmd hphase (by simp [hphase, hcls, hop])]
  simp [Dev.kvBegin, ht, Dev.kvOnFor, hon, hop, h9]

/-- A KVAPPEND whose list reads clean and holds one slot works on that slot. -/
theorem Dev.kvCmd_list (h : Dispatched d c x 1 9) (hn : x.opd 1 % 2 ^ 32 = 1) (h1 : 1 ≤ x.opd 2 % 256) (h64 : x.opd 2 % 256 ≤ 64)
    (hbad : (d.readMem (x.acc (qmSrc x.q)) (x.opd 0) 4).1.bad = none) :
    d.kvCmd c 9 = (d.readMem (x.acc (qmSrc x.q)) (x.opd 0) 4).2.kvWork x
      [leAt (d.readMem (x.acc (qmSrc x.q)) (x.opd 0) 4).1.bytes 0 4] 0 none := by
  obtain ⟨hcmd, hphase, hcls, hop⟩ := h
  rw [Dev.kvCmd, Dev.work_eq d c x _ _ hcmd hphase (by simp [hphase, hcls, hop])]
  rw [Dev.kvBegin, hn]
  simp [ht, Dev.kvOnFor, hon, hop, hbad, Nat.not_lt.mpr h64, Nat.one_le_iff_ne_zero.mp h1]

end Command

/-- A KVCLOSE that waited goes on with its slot. -/
theorem Dev.kvRelease_close {d : Dev} {c : CmdRef} {x : Inflight} (hcmd : d.cmd? c = some x) (hcls : x.cls = 1) (hop : x.op = 11)
    (hphase : x.phase = .working) (hprog : x.res.progress = 0) (hres : x.res.result = 0) :
    d.work c (fun x => x.isKv && x.phase = .working) (fun x d => d.kvResume x) = d.kvWork x [x.opd 0 % 4096] 0 none := by
  simp [Dev.work, hcmd, Inflight.isKv, hcls, hop, hphase, Dev.kvResume, Dev.kvSlotsOf, hprog, hres]

end Sys2Proof.Machine

namespace Sys2Proof.Proofs
open Sys2Proof.Machine Sys2Proof.Safety

section KvArms

variable (c : CmdRef) (s : State)

theorem exec_kvopen : exec (.kvopen c) s = State.run (fun d => d.kvCmd c 8) s := rfl
theorem exec_kvappend : exec (.kvappend c) s = State.run (fun d => d.kvCmd c 9) s := rfl
theorem exec_kvtrim : exec (.kvtrim c) s = State.run (fun d => d.kvCmd c 10) s := rfl
theorem exec_kvclose : exec (.kvclose c) s = State.run (fun d => d.kvCmd c 11) s := rfl
theorem exec_kvFrameRelease : exec (.kvFrameRelease c) s =
    State.run (fun d => d.work c (fun x => x.isKv && x.phase = .working) (fun x d => d.kvResume x)) s := rfl

end KvArms

/-- A command that does nothing but put its own command to work leaves memory, and that command working. -/
theorem runs_working {i : Instr} {s : State} {x : Inflight} {f : Inflight → Inflight} (hf : ∀ y, (f y).phase = .working)
    (h : Does i s (s.dev.setCmd x.q x.i f)) :
    Runs i s (fun t => t.mem = s.dev.mem ∧ ∀ y ∈ t.queue.infl, y.q = x.q → y.i = x.i → y.phase = .working) := by
  refine runs_of_does h rfl ⟨rfl, fun y hy hq hi => ?_⟩
  obtain ⟨z, -, rfl⟩ := Dev.mem_setCmd.mp hy
  split at hq
  · next hz => exact (if_pos hz ▸ hf z)
  · next hz => exact absurd ⟨hq, by rwa [if_neg hz] at hi⟩ hz

/-- A command of one slot, in its turn and in service, does what the work on that slot comes to. -/
theorem does_kvSlot {i : Instr} {s : State} {c : CmdRef} {x : Inflight} {op b : Nat} {u : Dev}
    (hexec : exec i s = State.run (fun d => d.kvCmd c op) s) (ht : s.dev.kvTurn x = true) (hon : s.dev.kvOn x.part = true)
    (h : Dispatched s.dev c x 1 op) (h9 : op ≠ 9) (hslot : x.opd 0 % 4096 = b) (hu : s.dev.kvWork x [b] 0 none = u) : Does i s u :=
  does_of_run hexec ((Dev.kvCmd_slot ht hon h h9).trans (hslot ▸ hu))

/-- Settles O24, command by command: each works on the one slot that it names, and what that slot's work comes to is how the
command ends. -/
theorem kvCommandsWorkOnTheirSlots : Obligations.KvCommandsWorkOnTheirSlots := by
  unfold Obligations.KvCommandsWorkOnTheirSlots
  intro s c x b page acc p geo done fail e opened n list f adv grown pg fl closed frames released hturn hon hb
  refine ⟨fun h hslot => ?open_, fun h hn h1 h64 hbad hlist hf hgeo hb => ?append, fun h hslot => ?trim, fun h hslot => ?close,
    fun hcmd hcls hop hphase hslot hprog hres hs hh => ?release⟩
  case open_ =>
    have ⟨_, _, _, hop⟩ := h
    have hrun {u : Dev} := does_kvSlot (u := u) (exec_kvopen c s) hturn hon h (by decide) hslot
    have hwork := Dev.kvEntryWork_open hb hop
    exact ⟨fun hs hlo hhi => hrun (Dev.kvWork_ok (hwork.trans (Dev.kvOpen_closed hs hlo hhi _))),
      fun hbad => hrun (Dev.kvWork_fail (hwork.trans (Dev.kvOpen_refused hbad _)))⟩
  case append =>
    have hrun {u : Dev} (hu : list.2.kvWork x [b] 0 none = u) : Does (.kvappend c) s u :=
      does_of_run (exec_kvappend c s) ((Dev.kvCmd_list hturn hon h hn h1 h64 hbad).trans (hlist ▸ hu))
    have ⟨_, _, _, hop⟩ := h
    have hwork := Dev.kvEntryWork_append hb hop
    refine ⟨fun hs => hrun (Dev.kvWork_fail (hwork.trans (Dev.kvAppend_closed hs))),
      fun hs hl => hrun (Dev.kvWork_fail (hwork.trans (Dev.kvAppend_too_long hs hl))),
      fun hs hl hsame => hrun (Dev.kvWork_ok (hwork.trans (Dev.kvAppend_within hs hl hgeo hf hsame))), fun hs hl hstr hnext hh => ?_⟩
    obtain ⟨hnone, hsome⟩ := Dev.kvAppend_fills hs hl hgeo hstr hnext hh
    exact ⟨fun hpg => hrun (Dev.kvWork_fail (hwork.trans (hnone hpg))),
      fun hpg hfl => hrun (Dev.kvWork_ok (hwork.trans (hsome page hpg hfl)))⟩
  case trim =>
    have ⟨_, _, _, hop⟩ := h
    have hrun {u : Dev} := does_kvSlot (u := u) (exec_kvtrim c s) hturn hon h (by decide) hslot
    have hwork := Dev.kvEntryWork_trim hb hop
    refine ⟨fun hbad => hrun (Dev.kvWork_fail (hwork.trans (Dev.kvTrim_refused hbad))),
      fun hs hsame => hrun (Dev.kvWork_ok (hwork.trans (Dev.kvTrim_same hs hsame))), fun hs hlt hcut => ⟨fun hh => ?_, fun hh => ?_⟩⟩
    · exact hrun (Dev.kvWork_ok (hwork.trans ((Dev.kvTrim_whole hs hlt hcut).trans (if_neg (ne_true_of_eq_false hh)))))
    · exact runs_working (fun _ => rfl) (hrun (Dev.kvWork_wait (hwork.trans ((Dev.kvTrim_whole hs hlt hcut).trans (if_pos hh)))))
  case close =>
    have ⟨_, _, _, hop⟩ := h
    have hrun {u : Dev} := does_kvSlot (u := u) (exec_kvclose c s) hturn hon h (by decide) hslot
    have hwork := Dev.kvEntryWork_close hb hop
    exact ⟨fun hs => hrun (Dev.kvWork_fail (hwork.trans (Dev.kvClose_refused hs))),
      fun hs hh => hrun (Dev.kvWork_ok (hwork.trans (Dev.kvClose_open hs hh))),
      fun hs hh => runs_working (fun _ => rfl) (hrun (Dev.kvWork_wait (hwork.trans (Dev.kvClose_held hs hh))))⟩
  case release =>
    have hrun {u : Dev} (hu : s.dev.kvWork x [b] 0 none = u) : Does (.kvFrameRelease c) s u :=
      does_of_run (exec_kvFrameRelease c s) ((Dev.kvRelease_close hcmd hcls hop hphase hprog hres).trans (hslot ▸ hu))
    exact hrun (Dev.kvWork_ok ((Dev.kvEntryWork_close hb hop).trans (Dev.kvClose_open hs hh)))

end Sys2Proof.Proofs

namespace Sys2Proof.Machine

/-! ### Accesses within a partition's HBM window (R158, R209)

What a write there leaves of the bytes, of the damage and of the page records, and what a read returns. The granules of a range
that is written hold no damage afterwards, so that the next partial write merges with the bytes that stand there. -/

theorem MemSt.length_bytes (m : MemSt) (a n : Nat) : (m.bytes a n).length = n := by simp [MemSt.bytes, rangeFrom]

theorem MemSt.bytes_getD (m : MemSt) (a : Nat) {n i : Nat} (h : i < n) : (m.bytes a n).getD i 0 = m.byte (a + i) := by
  simp [MemSt.bytes, rangeFrom, List.getD_eq_getElem?_getD, h]

theorem MemSt.bytes_append (m : MemSt) (a n k : Nat) : m.bytes a (n + k) = m.bytes a n ++ m.bytes (a + n) k := by
  simp [MemSt.bytes, rangeFrom, List.range_add, Function.comp_def, Nat.add_assoc]

theorem MemSt.bytes_piece (m : MemSt) (a : Nat) {n i k : Nat} (h : i + k ≤ n) : ((m.bytes a n).drop i).take k = m.bytes (a + i) k := by
  obtain ⟨j, rfl⟩ := Nat.exists_eq_add_of_le h
  rw [Nat.add_assoc, m.bytes_append, List.drop_left' (m.length_bytes a i), m.bytes_append, List.take_left' (m.length_bytes _ k)]

/-- Damage that is cleared is gone, and any other stays. -/
theorem MemSt.dmg_setDmg_none (m : MemSt) (g k : Nat) : (m.setDmg g none).dmg k = if k = g then none else m.dmg k := by
  have hmap : (sdel g m.damage).map (fun e => (e.1, some e.2)) = sdel g (m.damage.map fun e => (e.1, some e.2)) := by
    simp [sdel, List.filter_map, Function.comp_def]
  show sget (fun _ => none) ((sdel g m.damage).map fun e => (e.1, some e.2)) k = _
  rw [hmap]
  split
  · next h => exact h ▸ sget_sdel_same _ _ _
  · next h => exact sget_sdel_ne _ _ h

/-! #### What an access changes beside the bytes that it writes -/

/-- The page records, the bytes and the damage. -/
def Dev.store (d : Dev) : TierSt × List Host.Cell × List (Nat × Damage) := (d.tier, d.mem.cells, d.mem.damage)

theorem Dev.tier_of_store {d t : Dev} (h : t.store = d.store) : t.tier = d.tier := congrArg (·.1) h

theorem Dev.byte_of_store {d t : Dev} (h : t.store = d.store) : t.mem.byte = d.mem.byte :=
  funext fun a => congrArg (fun s : TierSt × List Host.Cell × List (Nat × Damage) => sget memDefault s.2.1 a) h

theorem Dev.dmg_of_store {d t : Dev} (h : t.store = d.store) : t.mem.dmg = d.mem.dmg := by
  have hd : t.mem.damage = d.mem.damage := congrArg (·.2.2) h
  funext g
  rw [MemSt.dmg, hd, MemSt.dmg]

theorem Dev.bytes_of_store {d t : Dev} (h : t.store = d.store) (a n : Nat) : t.mem.bytes a n = d.mem.bytes a n :=
  congrArg (fun f => (rangeFrom a n).map f) (Dev.byte_of_store h)

@[simp] theorem Dev.store_add64 (d : Dev) (off n : Nat) : (d.add64 off n).store = d.store := by
  unfold Dev.add64
  split <;> rfl

@[simp] theorem Dev.store_addSat (d : Dev) (off n : Nat) : (d.addSat off n).store = d.store := by
  unfold Dev.addSat
  split <;> rfl

theorem Dev.store_raise (d : Dev) (off b : Nat) {f : Dev → Dev} (hf : ∀ d, (f d).store = d.store) :
    (d.raise off b f).store = d.store := by
  obtain he | he := d.raise_cases off b f <;> rw [he]
  · exact hf _
  · rfl

theorem Dev.store_each {α : Type} (d : Dev) (l : List α) {f : Dev → α → Dev} (h : ∀ d a, (f d a).store = d.store) :
    (d.each l f).store = d.store :=
  foldl_rel (fun a b : Dev => b.store = a.store) (fun _ => rfl) (fun _ _ _ h k => k.trans h) f h l d

@[simp] theorem Dev.store_flwWith (d : Dev) (l : List Word) (a b c e : Nat) : (d.flwWith l a b c e).store = d.store := by
  unfold Dev.flwWith
  split
  · rfl
  · split
    · exact d.store_addSat _ _
    · rfl

@[simp] theorem Dev.store_memFlw (d : Dev) (pg a b : Nat) : (d.memFlw pg a b).store = d.store := d.store_flwWith _ _ _ _ _

@[simp] theorem Dev.store_ledger (d : Dev) (a b c e : Nat) (w : Word) : (d.ledger a b c e w).store = d.store := by
  rw [Dev.ledger_eq]
  rfl

@[simp] theorem Dev.store_memErr (d : Dev) (pg b s y k a : Nat) : (d.memErr pg b s y k a).store = d.store :=
  d.store_raise _ _ fun d => by dsimp only; split <;> rfl

@[simp] theorem Dev.store_ueLedger (d : Dev) (pg s a : Nat) : (d.ueLedger pg s a).store = d.store := by
  unfold Dev.ueLedger Dev.ueSeen
  rw [Dev.store_ledger]
  split <;> rfl

theorem Dev.store_memCe (d : Dev) (pg s y a : Nat) : (d.memCe pg s y a).store = d.store := by
  unfold Dev.memCe
  extract_lets d1 w n m d2
  have h1 : d1.store = d.store := by simp [d1]
  have h2 : d2.store = d.store := h1
  split
  · exact h1
  · split
    · simpa using h2
    · exact h2

theorem Dev.store_corrected (d : Dev) (s y a : Nat) : (d.corrected s y a).store = d.store := by
  unfold Dev.corrected
  split
  · exact d.store_memCe _ _ _ _
  · rfl

theorem Dev.store_partPoisoned (d : Dev) (s a : Nat) : (d.partPoisoned s a).store = d.store := by
  unfold Dev.partPoisoned
  split
  · simp
  · split
    · exact d.store_flwWith _ _ _ _ _
    · rfl

theorem Dev.store_poisonRead (d : Dev) (s : Nat) (scrub : Bool) (a : Nat) : (d.poisonRead s scrub a).store = d.store := by
  unfold Dev.poisonRead
  split
  · split <;> simp
  · rfl

theorem Dev.store_countBytes (d : Dev) (reg a n : Nat) : (d.countBytes reg a n).store = d.store := by
  unfold Dev.countBytes
  split
  · exact d.store_add64 _ _
  · rfl

theorem Dev.store_wakeBank (d : Dev) (a : Nat) : (d.wakeBank a).store = d.store := by
  unfold Dev.wakeBank
  split
  · dsimp only
    split
    · unfold Dev.requestWake
      split <;> rfl
    · rfl
  · rfl

theorem Dev.store_breakResv (d : Dev) (a n : Nat) : (d.breakResv a n).store = d.store := by
  unfold Dev.breakResv
  dsimp only
  split <;> rfl

theorem Dev.store_charge (d : Dev) (a n : Nat) (wr : Bool) : (d.charge a n wr).store = d.store := by
  have hall (t : Dev) (l : List Nat) (g : Nat → Nat) : (t.each l fun d s => d.add64 (rHbmChargedLo s) (g s)).store = t.store :=
    t.store_each l fun _ _ => Dev.store_add64 _ _ _
  have hpart (t : Dev) (l : List (Nat × Nat)) : (t.each l fun d e => d.add64 (rHbmChargedLo (hbmPc e.1 / 64)) 768).store = t.store :=
    t.store_each l fun _ _ => Dev.store_add64 _ _ _
  unfold Dev.charge
  split
  · rfl
  · split
    · exact (hpart _ _).trans ((Dev.store_add64 _ _ _).trans (hall _ _ _))
    · exact (Dev.store_add64 _ _ _).trans (hall _ _ _)

/-! #### Granules of HBM -/

theorem not_sump_of_hbm {a : Nat} (h : isHbm a = true) : isSump a = false := by
  simp only [isHbm, decide_eq_true_eq] at h
  simp [isSump]
  omega

theorem isHbm_mono {a b : Nat} (h : isHbm b = true) (hab : a ≤ b) : isHbm a = true := by
  simp only [isHbm, decide_eq_true_eq] at h ⊢
  omega

section Granule

variable {a : Nat} (h : isHbm a = true) (d : Dev)

theorem Dev.length_found : (d.found a).1.1.length = 64 := by
  have hb := d.mem.length_bytes a 64
  unfold Dev.found
  dsimp only
  split
  · split <;> exact hb
  · split
    · split
      · simp
      · split
        · simp
        · exact hb
    · exact hb
    · exact hb

include h

theorem Dev.store_found : (d.found a).2.store = d.store := by
  unfold Dev.found
  dsimp only
  rw [if_neg (ne_true_of_eq_false (not_sump_of_hbm h))]
  split
  · split
    · rfl
    · split <;> rfl
  · dsimp only
    split
    · exact d.store_addSat _ _
    · rfl
  · rfl

/-- A granule without damage is found as it stands. -/
theorem Dev.found_sound (hs : d.mem.dmg (a / 64) = none) : d.found a = ((d.mem.bytes a 64, none), d) := by
  simp [Dev.found, not_sump_of_hbm h, hs]

/-- A granule without damage reads as it stands, poisoned or not. -/
theorem Dev.readGran_sound (hs : d.mem.dmg (a / 64) = none) (src : Nat) (scrub : Bool) :
    (d.readGran src scrub a).1.1 = d.mem.bytes a 64 ∧ (d.readGran src scrub a).2.store = d.store := by
  unfold Dev.readGran
  rw [Dev.found_sound h d hs]
  dsimp only
  split
  · exact ⟨rfl, d.store_poisonRead _ _ _⟩
  · exact ⟨rfl, rfl⟩

omit h

/-- The device with granule `a` written and sound. -/
def Dev.putGran (d : Dev) (a : Nat) (bs : List Byte) : Dev := { d with mem := (d.mem.setBytes a bs).setDmg (a / 64) none }

theorem MemSt.damage_setBytes (m : MemSt) (b : Nat) (l : List Byte) : (m.setBytes b l).damage = m.damage := by
  induction l generalizing m b with
  | nil => rfl
  | cons v t ih => exact ih _ _

theorem MemSt.cells_setBytes {m k : MemSt} (hc : m.cells = k.cells) (b : Nat) (l : List Byte) :
    (m.setBytes b l).cells = (k.setBytes b l).cells := by
  induction l generalizing m k b with
  | nil => exact hc
  | cons v t ih => exact ih (congrArg (sset memDefault · b v) hc) _

/-- A granule put into a device that holds the same: its mark is no part of what is stored. -/
theorem Dev.store_put {d t : Dev} (hs : t.store = d.store) (b : Nat) (bs : List Byte) (p : Bool) :
    ({ t with mem := ((t.mem.setBytes b bs).setPoison (b / 64) p).setDmg (b / 64) none } : Dev).store = (d.putGran b bs).store := by
  have hcells := MemSt.cells_setBytes (congrArg (·.2.1) hs : t.mem.cells = d.mem.cells) b bs
  have hdmg : (t.mem.setBytes b bs).damage = (d.mem.setBytes b bs).damage := by
    rw [MemSt.damage_setBytes, MemSt.damage_setBytes]
    exact congrArg (·.2.2) hs
  exact Prod.ext (congrArg (·.1) hs :) (Prod.ext hcells (congrArg (sdel (b / 64)) hdmg))

include h

/-- A read-modify-write merges into 64 bytes, which are those of a granule without damage. -/
theorem Dev.rmwGran_store (src : Nat) (f : List Byte → List Byte) (mark : Bool) :
    ∃ old, old.length = 64 ∧ (d.mem.dmg (a / 64) = none → old = d.mem.bytes a 64) ∧
      (d.rmwGran src a f mark).store = (d.putGran a (f old)).store := by
  have hold : d.mem.dmg (a / 64) = none → (d.found a).1.1 = d.mem.bytes a 64 := fun hs => by rw [Dev.found_sound h d hs]
  have hput (p : Bool) := Dev.store_put (d.store_found h) a (f (d.found a).1.1) p
  unfold Dev.rmwGran
  dsimp only
  split
  · exact ⟨_, d.mem.length_bytes a 64, fun _ => rfl, Dev.store_put rfl a _ true⟩
  · refine ⟨_, d.length_found, hold, ?_⟩
    split
    · exact hput _
    · exact (Dev.store_corrected _ _ _ _).trans (hput _)
    · exact (Dev.store_partPoisoned _ _ _).trans (hput _)

end Granule

/-! #### What a write leaves -/

/-- From `d` to `t` the bytes of [a, a + n) have been written with what `v` has there: their granules are sound, a sound granule
stays so and keeps its other bytes, and no page record changes. -/
structure Stored (v : Nat → Byte) (a n : Nat) (d t : Dev) : Prop where
  tier : t.tier = d.tier
  inside : ∀ x, a ≤ x → x < a + n → t.mem.byte x = v x ∧ t.mem.dmg (x / 64) = none
  outside : ∀ x, (x < a ∨ a + n ≤ x) → d.mem.dmg (x / 64) = none → t.mem.byte x = d.mem.byte x
  sound : ∀ g, d.mem.dmg g = none → t.mem.dmg g = none

theorem Stored.nothing (v : Nat → Byte) (a : Nat) (d : Dev) : Stored v a 0 d d :=
  ⟨rfl, fun _ h k => absurd k (by omega), fun _ _ _ => rfl, fun _ => id⟩

theorem Stored.append {v : Nat → Byte} {a n m : Nat} {d t u : Dev} (h : Stored v a n d t) (k : Stored v (a + n) m t u) :
    Stored v a (n + m) d u := by
  refine ⟨k.tier.trans h.tier, fun x hx hx' => ?_, fun x hx hs => ?_, fun g hg => k.sound g (h.sound g hg)⟩
  · by_cases hn : x < a + n
    · obtain ⟨hv, hs⟩ := h.inside x hx hn
      exact ⟨(k.outside x (.inl hn) hs).trans hv, k.sound _ hs⟩
    · exact k.inside x (by omega) (by omega)
  · exact (k.outside x (by omega) (h.sound _ hs)).trans (h.outside x (by omega) hs)

theorem Stored.of_store {v : Nat → Byte} {a n : Nat} {d d' t t' : Dev} (h : Stored v a n d t) (hd : d.store = d'.store)
    (ht : t'.store = t.store) : Stored v a n d' t' := by
  refine ⟨?_, fun x hx hx' => ?_, fun x hx hs => ?_, fun g hg => ?_⟩
  · exact (Dev.tier_of_store ht).trans (h.tier.trans (Dev.tier_of_store hd))
  · rw [Dev.byte_of_store ht, Dev.dmg_of_store ht]
    exact h.inside x hx hx'
  · rw [Dev.byte_of_store ht, ← Dev.byte_of_store hd]
    exact h.outside x hx ((Dev.dmg_of_store hd) ▸ hs)
  · rw [Dev.dmg_of_store ht]
    exact h.sound g ((Dev.dmg_of_store hd) ▸ hg)

theorem Stored.congr {v w : Nat → Byte} {a n : Nat} {d t : Dev} (h : Stored v a n d t) (hw : ∀ x, a ≤ x → x < a + n → v x = w x) :
    Stored w a n d t :=
  ⟨h.tier, fun x hx hx' => hw x hx hx' ▸ h.inside x hx hx', h.outside, h.sound⟩

/-- What a byte of a granule is after a merge of `bs` at place `j`. -/
theorem merge_getD {old bs : List Byte} {j : Nat} (hj : j + bs.length ≤ old.length) (i : Nat) :
    (old.take j ++ bs ++ old.drop (j + bs.length)).getD i 0 =
      if j ≤ i ∧ i < j + bs.length then bs.getD (i - j) 0 else old.getD i 0 := by
  simp only [List.getD_eq_getElem?_getD, List.getElem?_append, List.length_append, List.length_take, List.getElem?_take,
    List.getElem?_drop, Nat.min_eq_left (show j ≤ old.length by omega)]
  by_cases h1 : i < j
  · simp [h1, show i < j + bs.length by omega, show ¬ j ≤ i by omega]
  · by_cases h2 : i < j + bs.length
    · simp [h1, h2, show j ≤ i by omega]
    · simp [h2, show j + bs.length + (i - (j + bs.length)) = i by omega]

/-- A granule put with bytes merged into what it held, when that was sound. -/
theorem stored_putGran (d : Dev) {a : Nat} {bs old : List Byte} {v : Nat → Byte} (hfit : a % 64 + bs.length ≤ 64)
    (hv : ∀ i < bs.length, bs.getD i 0 = v (a + i)) (hlen : old.length = 64)
    (hold : d.mem.dmg (a / 64) = none → old = d.mem.bytes (a / 64 * 64) 64) :
    Stored v a bs.length d (d.putGran (a / 64 * 64) (old.take (a % 64) ++ bs ++ old.drop (a % 64 + bs.length))) := by
  have hg : a / 64 * 64 / 64 = a / 64 := by omega
  have hbyte (x : Nat) : (d.putGran (a / 64 * 64) (old.take (a % 64) ++ bs ++ old.drop (a % 64 + bs.length))).mem.byte x =
      if a / 64 * 64 ≤ x ∧ x < a / 64 * 64 + 64 then
        (if a % 64 ≤ x - a / 64 * 64 ∧ x - a / 64 * 64 < a % 64 + bs.length then bs.getD (x - a / 64 * 64 - a % 64) 0
          else old.getD (x - a / 64 * 64) 0)
      else d.mem.byte x := by
    have hl : (old.take (a % 64) ++ bs ++ old.drop (a % 64 + bs.length)).length = 64 := by simp; omega
    rw [Dev.putGran, MemSt.byte_setDmg, MemSt.byte_setBytes, hl, merge_getD (by omega)]
  have hdmg (g : Nat) : (d.putGran (a / 64 * 64) (old.take (a % 64) ++ bs ++ old.drop (a % 64 + bs.length))).mem.dmg g =
      if g = a / 64 then none else d.mem.dmg g := by
    rw [Dev.putGran, MemSt.dmg_setDmg_none, hg]
    simp only [MemSt.dmg, MemSt.damage_setBytes]
  refine ⟨rfl, fun x hx hx' => ⟨?_, ?_⟩, fun x hx hs => ?_, fun g hs => ?_⟩
  · rw [hbyte, if_pos (by omega), if_pos (by omega), hv _ (by omega)]
    exact congrArg v (by omega)
  · rw [hdmg, if_pos (by omega)]
  · rw [hbyte]
    split
    · next hin =>
      rw [if_neg (by omega), hold (by rwa [show x / 64 = a / 64 by omega] at hs), MemSt.bytes_getD _ _ (by omega)]
      exact congrArg d.mem.byte (by omega)
    · rfl
  · rw [hdmg]
    split
    · rfl
    · exact hs

/-- A write within a granule of HBM. -/
theorem stored_writeGran (d : Dev) {a : Nat} (h : isHbm a = true) (src : Nat) {bs : List Byte} (mark : Bool) {v : Nat → Byte}
    (hfit : a % 64 + bs.length ≤ 64) (hv : ∀ i < bs.length, bs.getD i 0 = v (a + i)) :
    Stored v a bs.length d (d.writeGran src a bs mark) := by
  unfold Dev.writeGran
  split
  · next hw =>
    obtain ⟨ha, hl⟩ : a % 64 = 0 ∧ bs.length = 64 := by simpa using hw
    have hbase : a / 64 * 64 = a := by omega
    have hput := stored_putGran d hfit hv (d.mem.length_bytes _ 64) (fun _ => rfl)
    simp only [ha, hl, hbase, List.take_zero, List.nil_append, Nat.zero_add, List.drop_eq_nil_of_le (d.mem.length_bytes a 64).le,
      List.append_nil] at hput
    rw [hl]
    exact hput.of_store rfl (Dev.store_put rfl a bs mark)
  · obtain ⟨old, hlen, hold, hstore⟩ := Dev.rmwGran_store (isHbm_mono h (show a / 64 * 64 ≤ a by omega)) d src
      (fun old => old.take (a % 64) ++ bs ++ old.drop (a % 64 + bs.length)) mark
    rw [show a / 64 * 64 / 64 = a / 64 by omega] at hold
    exact (stored_putGran d hfit hv hlen hold).of_store rfl hstore

/-! #### Ranges -/

/-- The end of the first piece of a longer range is a multiple of `b`. -/
theorem add_rest_mod {b : Nat} (hb : 0 < b) (a : Nat) : (a + (b - a % b)) % b = 0 := by
  have hmod := Nat.mod_lt a hb
  have hdiv := Nat.div_add_mod a b
  rw [show a + (b - a % b) = b * (a / b + 1) by rw [Nat.mul_succ]; omega, Nat.mul_mod_right]

/-- What every piece of a range does, where it composes over neighbouring ranges, the whole range does. -/
theorem foldl_cutAt {β : Type} {b lo hi : Nat} {R : Nat → Nat → β → β → Prop} {f : β → Nat × Nat → β} (hb : 0 < b)
    (hnil : ∀ a r, R a 0 r r) (happend : ∀ {a n m r u w}, R a n r u → R (a + n) m u w → R a (n + m) r w)
    (hf : ∀ r x k, lo ≤ x → x + k ≤ hi → 0 < k → x % b + k ≤ b → R x k r (f r (x, k))) (fuel a n : Nat) (r : β) (hlo : lo ≤ a)
    (hhi : a + n ≤ hi) (hfuel : n = 0 ∨ n + a % b ≤ fuel * b) : R a n r ((cutAt b fuel a n).foldl f r) := by
  induction fuel generalizing a n r with
  | zero =>
    obtain rfl : n = 0 := by omega
    exact hnil a r
  | succ fuel ih =>
    unfold cutAt
    split
    · next hn => exact hn ▸ hnil a r
    · next hn =>
      have hmod := Nat.mod_lt a hb
      have hend := add_rest_mod hb a
      rw [Nat.succ_mul] at hfuel
      obtain ⟨k, hk⟩ : ∃ k, k = min n (b - a % b) := ⟨_, rfl⟩
      obtain ⟨m, rfl⟩ : ∃ m, n = k + m := ⟨n - k, by omega⟩
      have hrest : m = 0 ∨ m + (a + k) % b ≤ fuel * b := by
        by_cases hm : m = 0
        · exact .inl hm
        · rw [show k = b - a % b by omega] at hfuel ⊢
          omega
      show R a (k + m) r (((a, min (k + m) (b - a % b)) ::
        cutAt b fuel (a + min (k + m) (b - a % b)) (k + m - min (k + m) (b - a % b))).foldl f r)
      rw [← hk, Nat.add_sub_cancel_left]
      exact happend (hf r a k hlo (by omega) (by omega) (by omega)) (ih _ m _ (by omega) (by omega) hrest)

/-- The number of pieces that an access allows for is enough. -/
theorem fuel_enough {b : Nat} (hb : 0 < b) (a n : Nat) : n + a % b ≤ (n / b + 2) * b := by
  have hmod := Nat.mod_lt a hb
  have hrem := Nat.mod_lt n hb
  have hdiv := Nat.div_add_mod n b
  rw [Nat.add_mul, Nat.mul_comm (n / b)]
  omega

/-- The bytes that stand from `a` on, by their address. -/
def imageOf (a : Nat) (bs : Marked) (x : Nat) : Byte := (bs.map (·.1)).getD (x - a) 0

theorem length_part {a x k : Nat} {bs : Marked} (hx : a ≤ x) (hk : x + k ≤ a + bs.length) : ((bs.drop (x - a)).take k).length = k := by
  simp
  omega

/-- A piece of a range holds what the range has there. -/
theorem imageOf_part {a x k : Nat} {bs : Marked} (hx : a ≤ x) {y : Nat} (hy : x ≤ y) (hy' : y < x + k) :
    imageOf x ((bs.drop (x - a)).take k) y = imageOf a bs y := by
  simp only [imageOf, List.getD_eq_getElem?_getD, List.getElem?_map, List.getElem?_take, List.getElem?_drop]
  rw [if_pos (by omega), show x - a + (y - x) = y - a by omega]

/-- A write of a range of HBM. -/
theorem stored_writePhys (d : Dev) {a : Nat} {bs : Marked} (h : isHbm (a + bs.length - 1) = true) (src : Nat) :
    Stored (imageOf a bs) a bs.length d (d.writePhys src a bs) := by
  have hstart : ((d.charge a bs.length true).breakResv a bs.length).store = d.store :=
    (Dev.store_breakResv _ _ _).trans (d.store_charge _ _ _)
  refine Stored.of_store (foldl_cutAt (b := 64) (lo := a) (hi := a + bs.length) (R := fun x k => Stored (imageOf a bs) x k) (by decide)
    (Stored.nothing _) Stored.append (fun t x k hlo hhi hk hfit => ?_) _ a bs.length
    ((d.charge a bs.length true).breakResv a bs.length) (Nat.le_refl _) (Nat.le_refl _) (.inr (fuel_enough (by decide) _ _))) hstart rfl
  have hlen := length_part hlo hhi
  have hwr := stored_writeGran ((t.wakeBank x).countBytes 0x88 x k) (isHbm_mono h (show x ≤ a + bs.length - 1 by omega)) src
    (bs := ((bs.drop (x - a)).take k).map (·.1)) (((bs.drop (x - a)).take k).any (·.2)) (v := imageOf a bs)
    (by rwa [List.length_map, hlen]) (fun i hi => by
      rw [List.length_map, hlen] at hi
      rw [← imageOf_part hlo (Nat.le_add_right x i) (Nat.add_lt_add_left hi x), imageOf, Nat.add_sub_cancel_left])
  rw [List.length_map, hlen] at hwr
  exact hwr.of_store ((Dev.store_countBytes _ _ _ _).trans (t.store_wakeBank _)) rfl

/-- From one value and device to the next, the bytes of [a, a + n), if their granules are sound, have been read. -/
def Loaded {γ : Type} (data : γ → List Byte) (a n : Nat) (r u : γ × Dev) : Prop :=
  (∀ x, a ≤ x → x < a + n → r.2.mem.dmg (x / 64) = none) →
    u.2.store = r.2.store ∧ data u.1 = data r.1 ++ r.2.mem.bytes a n

theorem Loaded.nothing {γ : Type} (data : γ → List Byte) (a : Nat) (r : γ × Dev) : Loaded data a 0 r r :=
  fun _ => ⟨rfl, (List.append_nil _).symm⟩

theorem Loaded.append {γ : Type} {data : γ → List Byte} {a n m : Nat} {r u w : γ × Dev} (h : Loaded data a n r u)
    (k : Loaded data (a + n) m u w) : Loaded data a (n + m) r w := by
  intro hs
  obtain ⟨hu, hdu⟩ := h fun x hx hx' => hs x hx (by omega)
  obtain ⟨hw, hdw⟩ := k fun x hx hx' => (Dev.dmg_of_store hu) ▸ hs x (by omega) (by omega)
  exact ⟨hw.trans hu, by rw [hdw, hdu, Dev.bytes_of_store hu, MemSt.bytes_append, List.append_assoc]⟩

/-- A read of a range of HBM without damage. -/
theorem readPhys_sound (d : Dev) {a n : Nat} (h : isHbm (a + n - 1) = true) (src : Nat)
    (hs : ∀ x, a ≤ x → x < a + n → d.mem.dmg (x / 64) = none) :
    (d.readPhys src a n).2.store = d.store ∧ (d.readPhys src a n).1.map (·.1) = d.mem.bytes a n := by
  have hstart : (d.charge a n false).store = d.store := d.store_charge _ _ _
  have hall : Loaded (List.map (·.1)) a n (([], d.charge a n false) : Marked × Dev) (d.readPhys src a n) := by
    refine foldl_cutAt (b := 64) (lo := a) (hi := a + n) (by decide) (Loaded.nothing _) Loaded.append
      (fun r x k hlo hhi hk hfit hs => ?_) _ a n _ (Nat.le_refl _) (Nat.le_refl _) (.inr (fuel_enough (by decide) _ _))
    have hst : ((r.2.wakeBank x).countBytes 0x80 x k).store = r.2.store := (Dev.store_countBytes _ _ _ _).trans (r.2.store_wakeBank _)
    have hsound : ((r.2.wakeBank x).countBytes 0x80 x k).mem.dmg (x / 64 * 64 / 64) = none := by
      rw [Dev.dmg_of_store hst, show x / 64 * 64 / 64 = x / 64 by omega]
      exact hs x (Nat.le_refl _) (by omega)
    obtain ⟨hb, hg⟩ := Dev.readGran_sound (isHbm_mono h (show x / 64 * 64 ≤ a + n - 1 by omega)) _ hsound src false
    refine ⟨hg.trans hst, ?_⟩
    dsimp only
    rw [List.map_append, List.map_map, hb, MemSt.bytes_piece _ _ (by omega), Dev.bytes_of_store hst,
      show x / 64 * 64 + x % 64 = x by omega]
    simp [Function.comp_def]
  obtain ⟨hst, hdata⟩ := hall fun x hx hx' => (Dev.dmg_of_store hstart) ▸ hs x hx hx'
  exact ⟨hst.trans hstart, hdata.trans (Dev.bytes_of_store hstart _ _)⟩

/-! #### By device address -/

theorem Dev.isHbm_of_inHbmWin {d : Dev} {p lo m x : Nat} (h : d.inHbmWin p lo m = true) (hx : x < lo + m) : isHbm x = true := by
  simp only [Dev.inHbmWin, Bool.and_eq_true] at h
  obtain ⟨⟨⟨-, hlast⟩, -⟩, -⟩ := h
  exact isHbm_mono hlast (by omega)

/-- A request within the HBM window of its partition lands at its address. -/
theorem Dev.resolve_hbmWin {d : Dev} {p lo m x : Nat} (h : d.inHbmWin p lo m = true) (hlo : lo ≤ x) (hx : x < lo + m) (src : Nat)
    (wr : Bool) : d.resolve ⟨some p, src⟩ wr x = (.mem x, d) := by
  have hhbm := Dev.isHbm_of_inHbmWin h hx
  simp only [Dev.inHbmWin, Bool.and_eq_true] at h
  obtain ⟨⟨⟨⟨-, hfirst⟩, hlast⟩, hwlo⟩, hwhi⟩ := h
  have hwin : d.inWindow p x = true := by
    simp only [Dev.inWindow, hfirst, hlast, hhbm, if_true, inGib, Bool.and_eq_true, decide_eq_true_eq] at hwlo hwhi ⊢
    omega
  have hlt : x < 0xC000000000 := by simpa [isHbm] using hhbm
  have hreg : regOff x = none := if_neg (by simp; omega)
  have hgal : isGallery x = false := by simp [isGallery]; omega
  have hpocket : isPocket x = false := by simp [isPocket]; omega
  have hmgd : isManaged x = false := by simp [isManaged]; omega
  have hhost : hostPort x = none := by rw [hostPort, if_neg (by simp; omega), if_neg (by simp; omega)]
  have hspace : ¬ 0x3F0000000000 ≤ x := by omega
  have hreach : d.reaches ⟨some p, src⟩ wr x = true := by
    simp [Dev.reaches, Dev.mapped, hhbm, hgal, hpocket, hwin, hspace]
  simp [Dev.resolve, hreg, hreach, hmgd, hhost]

theorem Dev.inHbmWin_congr {d t : Dev} {p : Nat} (hw : t.rd (rTopPHbmwin p) = d.rd (rTopPHbmwin p)) (a n : Nat) :
    t.inHbmWin p a n = d.inHbmWin p a n := by
  unfold Dev.inHbmWin
  by_cases ha : isHbm a = true
  · by_cases hb : isHbm (a + n - 1) = true
    · simp [Dev.inWindow, ha, hb, hw]
    · simp [hb]
  · simp [ha]

/-- An access of a partition leaves its windows. -/
theorem MemOnly.inHbmWin {d t : Dev} (h : MemOnly d t) {p : Nat} (hp : p < 8) (a n : Nat) : t.inHbmWin p a n = d.inHbmWin p a n :=
  Dev.inHbmWin_congr (h.rd _ (by unfold memReg rTopPHbmwin; simp; omega)) a n

section Window

variable {d : Dev} {p lo m a : Nat} (hp : p < 8) (hwin : d.inHbmWin p lo m = true) (hlo : lo ≤ a)
include hp hwin hlo

/-- A write within the HBM window of its partition. -/
theorem stored_writeMem {bs : Marked} (hhi : a + bs.length ≤ lo + m) (src : Nat) :
    Stored (imageOf a bs) a bs.length d (d.writeMem ⟨some p, src⟩ a bs).2 := by
  have hall : d.inHbmWin p lo m = true → (d.writeMem ⟨some p, src⟩ a bs).2.inHbmWin p lo m = true ∧
      Stored (imageOf a bs) a bs.length d (d.writeMem ⟨some p, src⟩ a bs).2 := by
    refine foldl_cutAt (b := 4096) (lo := a) (hi := a + bs.length) (R := fun x k (r u : Option Nat × Dev) =>
      r.2.inHbmWin p lo m = true → u.2.inHbmWin p lo m = true ∧ Stored (imageOf a bs) x k r.2 u.2) (by decide)
      (fun x r hr => ⟨hr, Stored.nothing _ _ _⟩)
      (fun h k hr => ⟨(k (h hr).1).1, (h hr).2.append (k (h hr).1).2⟩) (fun r x k hx hk hpos _ hr => ?_) _ a bs.length (none, d)
      (Nat.le_refl _) (Nat.le_refl _) (.inr (fuel_enough (by decide) _ _))
    have hlen := length_part hx hk
    dsimp only
    rw [Dev.resolve_hbmWin hr (by omega) (by omega)]
    have hwr := stored_writePhys r.2 (a := x) (bs := (bs.drop (x - a)).take k)
      (by rw [hlen]; exact Dev.isHbm_of_inHbmWin hr (by omega)) src
    rw [hlen] at hwr
    exact ⟨((memOnly_writePhys r.2 src x _).inHbmWin hp _ _).trans hr, hwr.congr fun y hy hy' => imageOf_part hx hy hy'⟩
  exact (hall hwin).2

/-- A read within the HBM window of its partition, of bytes without damage. -/
theorem readMem_sound {n : Nat} (hhi : a + n ≤ lo + m) (src : Nat) (hs : ∀ x, a ≤ x → x < a + n → d.mem.dmg (x / 64) = none) :
    (d.readMem ⟨some p, src⟩ a n).2.store = d.store ∧ (d.readMem ⟨some p, src⟩ a n).1.bytes = d.mem.bytes a n := by
  have hall : d.inHbmWin p lo m = true → (d.readMem ⟨some p, src⟩ a n).2.inHbmWin p lo m = true ∧
      Loaded Rd.bytes a n (⟨[], none, false, false⟩, d) (d.readMem ⟨some p, src⟩ a n) := by
    refine foldl_cutAt (b := 4096) (lo := a) (hi := a + n) (R := fun x k (r u : Rd × Dev) =>
      r.2.inHbmWin p lo m = true → u.2.inHbmWin p lo m = true ∧ Loaded Rd.bytes x k r u) (by decide)
      (fun x r hr => ⟨hr, Loaded.nothing _ _ _⟩)
      (fun h k hr => ⟨(k (h hr).1).1, (h hr).2.append (k (h hr).1).2⟩) (fun r x k hx hk hpos _ hr => ?_) _ a n
      (⟨[], none, false, false⟩, d) (Nat.le_refl _) (Nat.le_refl _) (.inr (fuel_enough (by decide) _ _))
    dsimp only
    rw [Dev.resolve_hbmWin hr (by omega) (by omega)]
    refine ⟨((memOnly_readPhys r.2 src x _).inHbmWin hp _ _).trans hr, fun hs => ?_⟩
    obtain ⟨hst, hdata⟩ := readPhys_sound r.2 (Dev.isHbm_of_inHbmWin hr (show x + k - 1 < lo + m by omega)) src hs
    exact ⟨hst, (List.map_append ..).trans (congrArg _ hdata)⟩
  exact (hall hwin).2 hs

end Window

end Sys2Proof.Machine

namespace Sys2Proof.Machine
open Sys2Proof.Safety

/-! ### DMA_KV_CTL (R158) -/

/-- The geometry, the table and the frames keep their rules, and no clear is pending. -/
def Dev.KvFit (d : Dev) (p : Nat) : Prop :=
  let n := (d.rd (rDmaKvSlots p)).toNat
  (d.kvGeom p).ok = true ∧ n ≠ 0 ∧ n ≤ 4096 ∧ d.kvClosing.any (·.1 = p) = false ∧
    d.inHbmWin p (d.rd64 (rDmaKvTblLo p)) (32 * n) = true ∧ d.inGallery p (d.rd64 (rDmaKvHodLo p)) (0x40000 * n) = true

section KvCtl

variable {d : Dev} {p : Nat} {v : Word}

theorem Dev.kvCtl_set (hv : bitOf 0 v = true) (hen : bitOf 0 (d.rd (rDmaKvCtl p)) = false) :
    (d.KvFit p → d.kvCtl p v = d.wr (rDmaKvCtl p) 1) ∧ (¬d.KvFit p → d.kvCtl p v = d.kvErr p 0 0) := by
  have hok : ((d.kvGeom p).ok && decide ((d.rd (rDmaKvSlots p)).toNat ≠ 0) && decide ((d.rd (rDmaKvSlots p)).toNat ≤ 4096) &&
      !d.kvClosing.any (·.1 = p) && d.inHbmWin p (d.rd64 (rDmaKvTblLo p)) (32 * (d.rd (rDmaKvSlots p)).toNat) &&
      d.inGallery p (d.rd64 (rDmaKvHodLo p)) (0x40000 * (d.rd (rDmaKvSlots p)).toNat)) = true ↔ d.KvFit p := by
    rw [Dev.KvFit]
    simp only [Bool.and_eq_true, decide_eq_true_eq, Bool.not_eq_true', and_assoc]
  unfold Dev.kvCtl
  simp only [hv, hen, if_true, Bool.false_eq_true, if_false]
  exact ⟨fun h => if_pos (hok.mpr h), fun h => if_neg (mt hok.mp h)⟩

theorem Dev.kvCtl_set_again (hv : bitOf 0 v = true) (hen : bitOf 0 (d.rd (rDmaKvCtl p)) = true) : d.kvCtl p v = d := by
  simp [Dev.kvCtl, hv, hen]

theorem Dev.kvCtl_clear (hv : bitOf 0 v = false) (hen : bitOf 0 (d.rd (rDmaKvCtl p)) = true) :
    d.kvCtl p v = { (d.wr (rDmaKvCtl p) 0) with kvClosing := d.kvClosing ++ [(p, d.queue.nextOrd)] } := by
  simp [Dev.kvCtl, hv, hen]

end KvCtl

/-! ### TRW_PCTL (R209) -/

/-- The slot area lies in the partition's HBM window, and no clear is pending. -/
def Dev.TrwFit (d : Dev) (p : Nat) : Prop :=
  d.trw.closing.any (·.1 = p) = false ∧ d.inHbmWin p (d.rd64 (rTrwSlotBaseLo p)) 0x800000 = true

section TrwCtl

variable {d : Dev} {p : Nat} {v : Word}

/-- TRW_PCTL with SAMPLE as it is written. -/
abbrev Dev.trwSampled (d : Dev) (p : Nat) (v : Word) : Dev := d.wrFld (rTrwPctl p) 7 4 (fld 7 4 v)

theorem Dev.trwOn_trwSampled : (d.trwSampled p v).trwOn p = d.trwOn p := by
  unfold Dev.trwOn
  rw [Dev.rd_wrFld, if_pos rfl, bitOf_setFld_ne _ _ _ _ _ (by decide)]

theorem Dev.inHbmWin_trwSampled : (d.trwSampled p v).inHbmWin p ((d.trwSampled p v).rd64 (rTrwSlotBaseLo p)) 0x800000 =
    d.inHbmWin p (d.rd64 (rTrwSlotBaseLo p)) 0x800000 := by
  have hr (off : Nat) (hoff : off ≠ rTrwPctl p) : (d.trwSampled p v).rd off = d.rd off := Dev.rd_wr_ne _ _ hoff
  rw [Dev.inHbmWin_congr (hr _ (by unfold rTopPHbmwin rTrwPctl; omega)), Dev.rd64, Dev.rd64,
    hr _ (by unfold rTrwSlotBaseLo rTrwPctl; omega), hr _ (by unfold rTrwSlotBaseLo rTrwPctl; omega)]

theorem Dev.trwCtl_set (hv : bitOf 0 v = true) (hen : d.trwOn p = false) :
    (d.TrwFit p → d.trwCtl p v = (d.trwSampled p v).wrFld (rTrwPctl p) 0 0 1) ∧
    (¬d.TrwFit p → d.trwCtl p v =
      (d.trwSampled p v).wr (rTrwPerr p) (setBit 0 true ((d.trwSampled p v).rd (rTrwPerr p)))) := by
  have hok : (!(d.trwSampled p v).trw.closing.any (·.1 = p) &&
      (d.trwSampled p v).inHbmWin p ((d.trwSampled p v).rd64 (rTrwSlotBaseLo p)) 0x800000) = true ↔ d.TrwFit p := by
    rw [Dev.TrwFit, Dev.inHbmWin_trwSampled, Bool.and_eq_true, Bool.not_eq_true', Dev.wrFld_trw]
  unfold Dev.trwCtl
  simp only [hv, Dev.trwOn_trwSampled, hen, if_true, Bool.false_eq_true, if_false]
  exact ⟨fun h => if_pos (hok.mpr h), fun h => if_neg (mt hok.mp h)⟩

theorem Dev.trwCtl_set_again (hv : bitOf 0 v = true) (hen : d.trwOn p = true) : d.trwCtl p v = d.trwSampled p v := by
  simp only [Dev.trwCtl, hv, Dev.trwOn_trwSampled, hen, if_true]

theorem Dev.trwCtl_clear (hv : bitOf 0 v = false) (hen : d.trwOn p = true) :
    d.trwCtl p v = { ((d.trwSampled p v).wrFld (rTrwPctl p) 0 0 0) with
      trw := { d.trw with closing := d.trw.closing ++ [(p, d.queue.nextOrd)] } } := by
  simp only [Dev.trwCtl, hv, Dev.trwOn_trwSampled, hen, if_true, Bool.false_eq_true, if_false]
  rfl

end TrwCtl

/-! ### The ends of the clears -/

/-- A byte of a sound granule that holds 0. -/
def Dev.Cleared (d : Dev) (x : Nat) : Prop := d.mem.byte x = 0 ∧ d.mem.dmg (x / 64) = none

/-- Writing zeros clears their bytes and keeps what is clear. -/
theorem Stored.cleared {v : Nat → Byte} {a n : Nat} {d t : Dev} (h : Stored v a n d t) (hv : ∀ x, v x = 0) {x : Nat}
    (hx : d.Cleared x ∨ (a ≤ x ∧ x < a + n)) : t.Cleared x := by
  by_cases hin : a ≤ x ∧ x < a + n
  · obtain ⟨hb, hs⟩ := h.inside x hin.1 hin.2
    exact ⟨hb.trans (hv x), hs⟩
  · obtain ⟨hb, hs⟩ := hx.resolve_right hin
    exact ⟨(h.outside x (by omega) hs).trans hb, h.sound _ hs⟩

theorem imageOf_zeros (a x : Nat) : imageOf a (clean (leBytes 4 0)) x = 0 := by
  have hl : (clean (leBytes 4 0)).map (·.1) = List.replicate 4 0 := rfl
  rw [imageOf, hl, List.getD_eq_getElem?_getD, List.getElem?_replicate]
  split <;> rfl

/-- STATE of slot `b` is written 0. -/
def Dev.kvFree (d : Dev) (p b : Nat) : Dev := (d.writeMem ⟨some p, qmSrc 0⟩ (d.kvAddr p b + 16) (clean (leBytes 4 0))).2

section KvEnd

variable {p : Nat} (hp : p < 8)
include hp

theorem MemOnly.kvAddr {d t : Dev} (h : MemOnly d t) (b : Nat) : t.kvAddr p b = d.kvAddr p b := by
  have hr (off : Nat) (hoff : off = rDmaKvTblLo p ∨ off = rDmaKvTblLo p + 4) : t.rd off = d.rd off :=
    h.rd off (by unfold rDmaKvTblLo at hoff; unfold memReg; simp; omega)
  rw [Dev.kvAddr, Dev.kvAddr, Dev.rd64, Dev.rd64, hr _ (.inl rfl), hr _ (.inr rfl)]

theorem memOnly_kvFree (d : Dev) (b : Nat) : MemOnly d (d.kvFree p b) :=
  memOnly_writeMem (by rintro q ⟨⟩; exact hp) d _ _

/-- The table's slots, each written in turn: all of them have STATE 0, and nothing that was clear is touched. -/
theorem kvFree_each {d : Dev} {n : Nat} (hwin : d.inHbmWin p (d.kvAddr p 0) (32 * n) = true) {l : List Nat} (hl : ∀ b ∈ l, b < n) :
    (d.each l fun d b => d.kvFree p b).tier = d.tier ∧
      ∀ x, (d.Cleared x ∨ ∃ b ∈ l, d.kvAddr p b + 16 ≤ x ∧ x < d.kvAddr p b + 20) → (d.each l fun d b => d.kvFree p b).Cleared x := by
  induction l generalizing d with
  | nil => exact ⟨rfl, fun x hx => hx.resolve_right (by simp)⟩
  | cons b l ih =>
    have hb := hl b (List.mem_cons_self ..)
    have hkeep := memOnly_kvFree hp d b
    have hslot : Stored (imageOf (d.kvAddr p b + 16) (clean (leBytes 4 0))) (d.kvAddr p b + 16) 4 d (d.kvFree p b) :=
      stored_writeMem hp hwin (a := d.kvAddr p b + 16) (by unfold Dev.kvAddr; omega) (bs := clean (leBytes 4 0))
        (by unfold Dev.kvAddr; simp [clean, leBytes]; omega) (qmSrc 0)
    have hzero := imageOf_zeros (d.kvAddr p b + 16)
    obtain ⟨htier, hclear⟩ := ih (d := d.kvFree p b) (by rwa [hkeep.kvAddr hp, hkeep.inHbmWin hp])
      (fun c hc => hl c (List.mem_cons_of_mem _ hc))
    refine ⟨htier.trans hslot.tier, fun x hx => hclear x ?_⟩
    obtain hx | ⟨c, hc, hx⟩ := hx
    · exact .inl (hslot.cleared hzero (.inl hx))
    · obtain rfl | hc := List.mem_cons.mp hc
      · exact .inl (hslot.cleared hzero (.inr hx))
      · exact .inr ⟨c, hc, by rwa [hkeep.kvAddr hp]⟩

end KvEnd

/-- A clear of DMA_KV_CTL.EN that is pending, with no KV work in flight, ends. -/
theorem Dev.kvDisableEnd_idle {d : Dev} {p : Nat} (hc : d.kvClosing.any (·.1 = p) = true)
    (hidle : d.queue.infl.all (fun x => x.part ≠ p || x.phase = .ended || (!x.isKv && (x.phase = .early || x.walk = none))) = true) :
    d.kvDisableEnd p =
      let t := d.each (List.range (d.rd (rDmaKvSlots p)).toNat) fun d b => d.kvFree p b
      { (t.wr (rDmaKvOpen p) 0) with kvClosing := t.kvClosing.filter (·.1 ≠ p) } := by
  have hbusy : d.queue.infl.any (fun x =>
      x.part = p && x.phase ≠ .ended && (x.isKv || (x.phase ≠ .early && x.walk.isSome))) = false := by
    rw [List.any_eq_false]
    intro x hx
    have hx := List.all_eq_true.mp hidle x hx
    simp at hx ⊢
    tauto
  unfold Dev.kvDisableEnd
  dsimp only
  rw [hbusy, hc]
  rfl

/-- Slot `k` is made FREE: the two low bits of its first word are cleared. -/
def Dev.trwFree (d : Dev) (src p k : Nat) : Dev :=
  let r := d.readMem ⟨some p, src⟩ (d.slotAddr p k) 4
  let w := ofLe r.1.bytes
  if w % 4 = 0 then r.2 else r.2.pokeSlot src p k 0 4 (w / 4 * 4)

section TrwEnd

variable {p : Nat} (hp : p < 8)
include hp

theorem MemOnly.slotAddr {d t : Dev} (h : MemOnly d t) (k : Nat) : t.slotAddr p k = d.slotAddr p k := by
  have hr (off : Nat) (hoff : off = rTrwSlotBaseLo p ∨ off = rTrwSlotBaseLo p + 4) : t.rd off = d.rd off :=
    h.rd off (by unfold rTrwSlotBaseLo at hoff; unfold memReg; simp; omega)
  rw [Dev.slotAddr, Dev.slotAddr, Dev.rd64, Dev.rd64, hr _ (.inl rfl), hr _ (.inr rfl)]

theorem memOnly_trwFree (d : Dev) (src k : Nat) : MemOnly d (d.trwFree src p k) := by
  have hacc : Acc.ok ⟨some p, src⟩ := by rintro q ⟨⟩; exact hp
  have hr := memOnly_readMem hacc d (d.slotAddr p k) 4
  unfold Dev.trwFree
  dsimp only
  split
  · exact hr
  · exact hr.trans (memOnly_writeMem hacc _ _ _)

/-- Where no granule is damaged, a slot made FREE has STATE 0, and every other byte stands. -/
theorem trwFree_spec {d : Dev} {n m k : Nat} (hwin : d.inHbmWin p (d.slotAddr p 0) m = true) (hm : n * 2048 ≤ m) (hk : k < n)
    (hs : ∀ g, d.mem.dmg g = none) (src : Nat) : (d.trwFree src p k).tier = d.tier ∧ (∀ g, (d.trwFree src p k).mem.dmg g = none) ∧
      ((d.trwFree src p k).mem.byte (d.slotAddr p k)).toNat % 4 = 0 ∧
      ∀ x, (x < d.slotAddr p k ∨ d.slotAddr p k + 4 ≤ x) → (d.trwFree src p k).mem.byte x = d.mem.byte x := by
  have hlo : d.slotAddr p 0 ≤ d.slotAddr p k := by unfold Dev.slotAddr; omega
  have hhi : d.slotAddr p k + 4 ≤ d.slotAddr p 0 + m := by unfold Dev.slotAddr; omega
  have hkeep : MemOnly d (d.readMem ⟨some p, src⟩ (d.slotAddr p k) 4).2 := memOnly_readMem (by rintro q ⟨⟩; exact hp) d _ 4
  obtain ⟨hst, hbytes⟩ := readMem_sound hp hwin hlo hhi src fun x _ _ => hs (x / 64)
  have hfirst : ofLe (d.mem.bytes (d.slotAddr p k) 4) % 4 = (d.mem.byte (d.slotAddr p k)).toNat % 4 := by
    rw [show (4 : Nat) = 1 + 3 from rfl, MemSt.bytes_append]
    show ((d.mem.byte (d.slotAddr p k + 0)).toNat + 256 * _) % 4 = _
    rw [Nat.add_zero]
    omega
  unfold Dev.trwFree
  dsimp only
  rw [hbytes]
  split
  · next hw =>
    rw [Dev.dmg_of_store hst, Dev.byte_of_store hst]
    exact ⟨Dev.tier_of_store hst, hs, hfirst ▸ hw, fun _ _ => rfl⟩
  · next hw =>
    have hpoke : Stored (imageOf (d.slotAddr p k) (clean (leBytes 4 (ofLe (d.mem.bytes (d.slotAddr p k) 4) / 4 * 4))))
        (d.slotAddr p k) 4 (d.readMem ⟨some p, src⟩ (d.slotAddr p k) 4).2
        ((d.readMem ⟨some p, src⟩ (d.slotAddr p k) 4).2.pokeSlot src p k 0 4 (ofLe (d.mem.bytes (d.slotAddr p k) 4) / 4 * 4)) := by
      rw [Dev.pokeSlot, hkeep.slotAddr hp]
      exact stored_writeMem hp ((hkeep.inHbmWin hp _ _).trans hwin) hlo (bs := clean (leBytes 4 _)) hhi src
    obtain ⟨hbyte, -⟩ := hpoke.inside _ (Nat.le_refl _) (by omega)
    have hsound (g : Nat) : (d.readMem ⟨some p, src⟩ (d.slotAddr p k) 4).2.mem.dmg g = none := (Dev.dmg_of_store hst) ▸ hs g
    refine ⟨hpoke.tier.trans (Dev.tier_of_store hst), fun g => hpoke.sound g (hsound g), ?_, fun x hx => ?_⟩
    · rw [hbyte, imageOf, Nat.sub_self]
      show (BitVec.ofNat 8 _).toNat % 4 = 0
      rw [BitVec.toNat_ofNat]
      omega
    · rw [hpoke.outside x hx (hsound _), Dev.byte_of_store hst]

/-- The slots, each made FREE in turn: a slot that was FREE stays so. -/
theorem trwFree_each {d : Dev} {n m : Nat} (hwin : d.inHbmWin p (d.slotAddr p 0) m = true) (hm : n * 2048 ≤ m)
    (hs : ∀ g, d.mem.dmg g = none) (src : Nat) {l : List Nat} (hl : ∀ k ∈ l, k < n) :
    (d.each l fun d k => d.trwFree src p k).tier = d.tier ∧
      ∀ k, ((d.mem.byte (d.slotAddr p k)).toNat % 4 = 0 ∨ k ∈ l) →
        ((d.each l fun d k => d.trwFree src p k).mem.byte (d.slotAddr p k)).toNat % 4 = 0 := by
  induction l generalizing d with
  | nil => exact ⟨rfl, fun k hk => hk.resolve_right (by simp)⟩
  | cons k l ih =>
    have hkeep := memOnly_trwFree hp d src k
    obtain ⟨hstep, hsound, hfree, hother⟩ := trwFree_spec hp hwin hm (hl k (List.mem_cons_self ..)) hs src
    obtain ⟨htier, hall⟩ := ih (d := d.trwFree src p k) (by rwa [hkeep.slotAddr hp, hkeep.inHbmWin hp]) hsound
      (fun j hj => hl j (List.mem_cons_of_mem _ hj))
    refine ⟨htier.trans hstep, fun j hj => ?_⟩
    have hj' := hall j
    rw [hkeep.slotAddr hp] at hj'
    refine hj' ?_
    by_cases hjk : j = k
    · subst hjk
      exact .inl hfree
    · refine hj.imp (fun h => ?_) fun h => (List.mem_cons.mp h).resolve_left hjk
      rwa [hother _ (by unfold Dev.slotAddr; omega)]

end TrwEnd

/-- A clear of TRW_PCTL.EN that is pending, with nothing of the partition in flight, ends. -/
theorem Dev.trwDisableEnd_idle {d : Dev} {p : Nat} (hc : d.trw.closing.any (·.1 = p) = true) (hidle : d.trwInUse p = false) :
    d.trwDisableEnd p =
      let t := d.each (List.range 4096) fun t k => t.trwFree (trwSrc (d.trwHubEngine p)) p k
      { (t.wr (rTrwSlotsOpen p) 0) with trw := { t.trw with closing := t.trw.closing.filter (·.1 ≠ p) } } := by
  unfold Dev.trwDisableEnd
  rw [hidle, hc]
  generalize List.range 4096 = l
  rfl

/-- A list of pending clears without those of partition `p` holds none of it. -/
theorem none_pending (l : List (Nat × Nat)) (p : Nat) : (l.filter (·.1 ≠ p)).any (·.1 = p) = false := by
  simp [List.any_filter]

end Sys2Proof.Machine

namespace Sys2Proof.Proofs
open Sys2Proof.Machine Sys2Proof.Safety

section EnableArms

variable (s : State) (o : Origin) (p : Fin 8) (v : Word)

theorem exec_dmaKvEnable : exec (.dmaKvEnable o p v) s = State.run (fun d => d.rowWr o (rDmaKvCtl p) (setBit 0 true v)) s := rfl
theorem exec_dmaKvDisable : exec (.dmaKvDisable o p v) s = State.run (fun d => d.rowWr o (rDmaKvCtl p) (setBit 0 false v)) s := rfl
theorem exec_dmaKvDisableEnd : exec (.dmaKvDisableEnd p) s = State.run (fun d => d.kvDisableEnd p) s := rfl
theorem exec_trwEnable : exec (.trwEnable o p v) s = State.run (fun d => d.rowWr o (rTrwPctl p) (setBit 0 true v)) s := rfl
theorem exec_trwDisable : exec (.trwDisable o p v) s = State.run (fun d => d.rowWr o (rTrwPctl p) (setBit 0 false v)) s := rfl
theorem exec_trwDisableEnd : exec (.trwDisableEnd p) s = State.run (fun d => d.trwDisableEnd p) s := rfl

end EnableArms

/-- A count is cleared and a pending clear of the KV store ends. -/
theorem runs_kvEnded {i : Instr} {s : State} {t : Dev} {off p : Nat} (hfar : 0x808000 ≤ off)
    (h : Does i s { (t.wr off 0) with kvClosing := t.kvClosing.filter (·.1 ≠ p) }) (ht : t.tier = s.dev.tier) :
    Runs i s (fun u => u.rd off = 0 ∧ u.kvClosing.any (·.1 = p) = false ∧ u.mem = t.mem) :=
  runs_of_does h (congrArg TierSt.stall ht) ⟨(Dev.rd_refresh_far _ hfar).trans (t.rd_wr_same _ _), none_pending _ _, rfl⟩

/-- A count is cleared and a pending clear of Trowel ends. -/
theorem runs_trwEnded {i : Instr} {s : State} {t : Dev} {off p : Nat} (hfar : 0x808000 ≤ off)
    (h : Does i s { (t.wr off 0) with trw := { t.trw with closing := t.trw.closing.filter (·.1 ≠ p) } }) (ht : t.tier = s.dev.tier) :
    Runs i s (fun u => u.rd off = 0 ∧ u.trw.closing.any (·.1 = p) = false ∧ u.mem = t.mem) :=
  runs_of_does h (congrArg TierSt.stall ht) ⟨(Dev.rd_refresh_far _ hfar).trans (t.rd_wr_same _ _), none_pending _ _, rfl⟩

/-- A clear of the KV store's EN ends with every slot closed. -/
theorem runs_kvDisableEnd {s : State} {p : Fin 8} (hc : s.dev.kvClosing.any (·.1 = p.val) = true)
    (hidle : s.dev.queue.infl.all (fun x =>
      x.part ≠ p || x.phase = .ended || (!x.isKv && (x.phase = .early || x.walk = none))) = true)
    (hwin : s.dev.inHbmWin p (s.dev.rd64 (rDmaKvTblLo p)) (32 * (s.dev.rd (rDmaKvSlots p)).toNat) = true) :
    Runs (.dmaKvDisableEnd p) s (fun t => t.rd (rDmaKvOpen p) = 0 ∧ t.kvClosing.any (·.1 = p.val) = false ∧
      ∀ b < (s.dev.rd (rDmaKvSlots p)).toNat, ∀ i < 4, t.mem.byte (s.dev.kvAddr p b + 16 + i) = 0) := by
  have hwin' : s.dev.inHbmWin p (s.dev.kvAddr p 0) (32 * (s.dev.rd (rDmaKvSlots p)).toNat) = true := by
    rwa [Dev.kvAddr, Nat.mul_zero, Nat.add_zero]
  obtain ⟨htier, hclear⟩ := kvFree_each p.isLt hwin' fun b => List.mem_range.mp
  obtain ⟨u, hdo, hst, hrd, hlist, hmem⟩ := runs_kvEnded (by unfold rDmaKvOpen; omega)
    (does_of_run (exec_dmaKvDisableEnd s p) (Dev.kvDisableEnd_idle hc hidle)) htier
  refine ⟨u, hdo, hst, hrd, hlist, fun b hb i hi => ?_⟩
  obtain ⟨hzero, -⟩ := hclear (s.dev.kvAddr p b + 16 + i) (.inr ⟨b, List.mem_range.mpr hb, by omega, by omega⟩)
  rwa [hmem]

/-- A clear of Trowel's EN ends with every slot FREE. -/
theorem runs_trwDisableEnd {s : State} {p : Fin 8} (hc : s.dev.trw.closing.any (·.1 = p.val) = true)
    (hidle : s.dev.trwInUse p = false) (hwin : s.dev.inHbmWin p (s.dev.rd64 (rTrwSlotBaseLo p)) 0x800000 = true)
    (hdmg : s.dev.mem.damage = []) :
    Runs (.trwDisableEnd p) s (fun t => t.rd (rTrwSlotsOpen p) = 0 ∧ t.trw.closing.any (·.1 = p.val) = false ∧
      ∀ k < 4096, (t.mem.byte (s.dev.slotAddr p k)).toNat % 4 = 0) := by
  have hsound (g : Nat) : s.dev.mem.dmg g = none := by rw [MemSt.dmg, hdmg]; rfl
  have hwin' : s.dev.inHbmWin p (s.dev.slotAddr p 0) 0x800000 = true := by rwa [Dev.slotAddr, Nat.zero_mul, Nat.add_zero]
  obtain ⟨htier, hfree⟩ := trwFree_each p.isLt hwin' (by decide : 4096 * 2048 ≤ 0x800000) hsound
    (trwSrc (s.dev.trwHubEngine p)) fun k => List.mem_range.mp
  obtain ⟨u, hdo, hst, hrd, hlist, hmem⟩ := runs_trwEnded (by unfold rTrwSlotsOpen; omega)
    (does_of_run (exec_trwDisableEnd s p) (Dev.trwDisableEnd_idle hc hidle)) htier
  refine ⟨u, hdo, hst, hrd, hlist, fun k hk => ?_⟩
  rw [hmem]
  exact hfree k (.inr (List.mem_range.mpr hk))

/-- Settles O25: a write of EN is the register's rule, and the ends of the clears follow from what writes within the partition's HBM
window leave of the bytes. -/
theorem kvStoreAndTrowelAreEnabledAndDisabled : Obligations.KvStoreAndTrowelAreEnabledAndDisabled := by
  unfold Obligations.KvStoreAndTrowelAreEnabledAndDisabled
  have hset (v : Word) : bitOf 0 (setBit 0 true v) = true := bitOf_setBit_same 0 true v (by decide)
  have hclr (v : Word) : bitOf 0 (setBit 0 false v) = false := bitOf_setBit_same 0 false v (by decide)
  refine ⟨fun s o p v => ?kv, fun s o p v => ?trw⟩
  case kv =>
    intro r n ok
    have hon {u : Dev} (h : Reaches s.dev o r) (hu : s.dev.kvCtl p (setBit 0 true v) = u) : Does (.dmaKvEnable o p v) s u :=
      does_of_run (exec_dmaKvEnable s o p v) ((rowWr_rDmaKvCtl _ _ _ p.isLt h).trans hu)
    have hoff {u : Dev} (h : Reaches s.dev o r) (hu : s.dev.kvCtl p (setBit 0 false v) = u) : Does (.dmaKvDisable o p v) s u :=
      does_of_run (exec_dmaKvDisable s o p v) ((rowWr_rDmaKvCtl _ _ _ p.isLt h).trans hu)
    exact ⟨fun h hen hok => hon h ((Dev.kvCtl_set (hset v) hen).1 hok), fun h hen hok => hon h ((Dev.kvCtl_set (hset v) hen).2 hok),
      fun h hen => ⟨hon h (Dev.kvCtl_set_again (hset v) hen), hoff h (Dev.kvCtl_clear (hclr v) hen)⟩, runs_kvDisableEnd⟩
  case trw =>
    intro r d ok
    have hsample (b : Bool) : s.dev.trwSampled p (setBit 0 b v) = d := by
      rw [Dev.trwSampled, fld_setBit_ne _ _ _ _ _ (by decide)]
    have hon {u : Dev} (h : Reaches s.dev o r) (hu : s.dev.trwCtl p (setBit 0 true v) = u) : Does (.trwEnable o p v) s u :=
      does_of_run (exec_trwEnable s o p v) ((rowWr_rTrwPctl _ _ _ p.isLt h).trans hu)
    have hoff {u : Dev} (h : Reaches s.dev o r) (hu : s.dev.trwCtl p (setBit 0 false v) = u) : Does (.trwDisable o p v) s u :=
      does_of_run (exec_trwDisable s o p v) ((rowWr_rTrwPctl _ _ _ p.isLt h).trans hu)
    refine ⟨fun h hen hok => hon h ?_, fun h hen hok => hon h ?_, fun h hen => ⟨hon h ?_, hoff h ?_⟩, runs_trwDisableEnd⟩
    · rw [(Dev.trwCtl_set (hset v) hen).1 hok, hsample]
    · rw [(Dev.trwCtl_set (hset v) hen).2 hok, hsample]
    · rw [Dev.trwCtl_set_again (hset v) hen, hsample]
    · rw [Dev.trwCtl_clear (hclr v) hen, hsample]

end Sys2Proof.Proofs

/-! Proofs of the family 07_gallery_and_hbm: the HBM hash and its inverse (R162, R163), writes of physical memory (R169, R170), and
the scrubbers, range scrubs, windows of corrections and injections (R161, R171 to R177). Each part begins with the laws of its
operations and ends with its obligation. -/

namespace Sys2Proof.Machine

/-! ### The HBM hash (R162, R163)

Whatever the row's `hbmH` is, the hash turns the 768 granules of the row by 37 times it, and the inverse map turns them back. -/

theorem hbmOff_row (a : Nat) : hbmOff a / 512 = a / 512 / 768 := by
  unfold hbmOff
  omega

theorem hbmOff_lt {a : Nat} (h : isHbm a = true) : hbmOff a < 2 ^ 30 := by
  simp only [isHbm, decide_eq_true_eq] at h
  unfold hbmOff
  omega

theorem hbmAddr_eq (pc off : Nat) : hbmAddr pc off =
    (off / 512 * 768 + (pc + 768 - 37 * (hbmH (off / 512) % 768) % 768) % 768) * 512 + off % 512 := rfl

theorem hbmAddr_hbmPc (a : Nat) : hbmAddr (hbmPc a) (hbmOff a) = a := by
  rw [hbmAddr_eq, hbmOff_row]
  unfold hbmPc hbmOff
  generalize hbmH (a / 512 / 768) = turn
  omega

section Location

variable (pc off : Nat)

theorem hbmAddr_row : hbmAddr pc off / 512 / 768 = off / 512 := by
  rw [hbmAddr_eq]
  omega

theorem hbmPc_hbmAddr {pc : Nat} (h : pc < 768) : hbmPc (hbmAddr pc off) = pc := by
  unfold hbmPc
  rw [hbmAddr_row, hbmAddr_eq]
  generalize hbmH (off / 512) = turn
  omega

theorem hbmOff_hbmAddr : hbmOff (hbmAddr pc off) = off := by
  unfold hbmOff
  rw [hbmAddr_row, hbmAddr_eq]
  omega

theorem isHbm_hbmAddr {off : Nat} (h : off < 2 ^ 30) : isHbm (hbmAddr pc off) = true :=
  decide_eq_true (by rw [hbmAddr_eq]; omega)

end Location

/-- The next granule of a row lies on the next pseudo-channel, at the same offset. -/
theorem hbmPc_next {a : Nat} (h : a / 512 / 768 = (a + 512) / 512 / 768) :
    hbmPc (a + 512) = (hbmPc a + 1) % 768 ∧ hbmOff (a + 512) = hbmOff a := by
  unfold hbmPc hbmOff
  rw [← h]
  generalize hbmH (a / 512 / 768) = turn
  omega

end Sys2Proof.Machine

namespace Sys2Proof.Proofs
open Sys2Proof.Machine Sys2Proof.Safety

/-- Settles O56: the row of an address is that of its offset, so that the inverse map undoes the turn that the hash makes. -/
theorem hbmHashIsOneToOne : Obligations.HbmHashIsOneToOne :=
  ⟨fun a h => ⟨hbmPc_lt a, hbmOff_lt h, hbmAddr_hbmPc a⟩,
    fun pc off hpc hoff => ⟨isHbm_hbmAddr pc hoff, hbmPc_hbmAddr off hpc, hbmOff_hbmAddr pc off⟩, fun _ => hbmPc_next⟩

end Sys2Proof.Proofs

namespace Sys2Proof.Machine

/-! ### What an error report leaves

A report of an error, a count and a wake keep everything that memory stores: of memory they change only what the reports themselves
count (R175, Table 13-2). -/

/-- Memory without what the reports of its errors count. -/
def MemSt.body (m : MemSt) : MemSt := { m with ceCount := [], ueAt := [], sumpSeen := [] }

/-- The page records, and memory without the counts of its errors. -/
def Dev.held (d : Dev) : TierSt × MemSt := (d.tier, d.mem.body)

section Held

variable {d t : Dev} (h : t.held = d.held)
include h

theorem Dev.tier_of_held : t.tier = d.tier := congrArg (·.1) h

theorem Dev.isPoison_of_held : t.mem.isPoison = d.mem.isPoison := congrArg (·.2.isPoison) h

theorem Dev.damage_of_held : t.mem.damage = d.mem.damage := congrArg (·.2.damage) h

theorem Dev.sumpBad_of_held : t.mem.sumpBad = d.mem.sumpBad := congrArg (·.2.sumpBad) h

theorem Dev.range_of_held : t.mem.range = d.mem.range := congrArg (·.2.range) h

theorem Dev.store_of_held : t.store = d.store :=
  congrArg (fun s : TierSt × MemSt => (s.1, s.2.cells, s.2.damage)) h

end Held

section Reports

variable (d : Dev)

@[simp] theorem Dev.held_add64 (off n : Nat) : (d.add64 off n).held = d.held := by
  unfold Dev.add64
  split <;> rfl

@[simp] theorem Dev.held_addSat (off n : Nat) : (d.addSat off n).held = d.held := by
  unfold Dev.addSat
  split <;> rfl

theorem Dev.held_each {α : Type} (l : List α) {f : Dev → α → Dev} (h : ∀ d a, (f d a).held = d.held) : (d.each l f).held = d.held :=
  foldl_rel (fun a b : Dev => b.held = a.held) (fun _ => rfl) (fun _ _ _ h k => k.trans h) f h l d

@[simp] theorem Dev.held_flwWith (l : List Word) (a b c e : Nat) : (d.flwWith l a b c e).held = d.held := by
  unfold Dev.flwWith
  split
  · rfl
  · split
    · exact d.held_addSat _ _
    · rfl

@[simp] theorem Dev.held_memFlw (pg a b : Nat) : (d.memFlw pg a b).held = d.held := d.held_flwWith _ _ _ _ _

@[simp] theorem Dev.held_ledger (a b c e : Nat) (w : Word) : (d.ledger a b c e w).held = d.held := by
  rw [Dev.ledger_eq]
  rfl

@[simp] theorem Dev.held_memErr (pg b s y k a : Nat) : (d.memErr pg b s y k a).held = d.held := by
  obtain he | he := d.raise_cases (pgReg pg 0x10) b _ <;> rw [Dev.memErr, he]
  · dsimp only
    split <;> rfl
  · rfl

@[simp] theorem Dev.held_ueLedger (pg s a : Nat) : (d.ueLedger pg s a).held = d.held := by
  unfold Dev.ueLedger Dev.ueSeen
  rw [Dev.held_ledger]
  split <;> rfl

theorem Dev.held_memCe (pg s y a : Nat) : (d.memCe pg s y a).held = d.held := by
  unfold Dev.memCe
  extract_lets d1 w n m d2
  have h1 : d1.held = d.held := by simp [d1]
  have h2 : d2.held = d.held := h1
  split
  · exact h1
  · split
    · simpa using h2
    · exact h2

theorem Dev.held_corrected (s y a : Nat) : (d.corrected s y a).held = d.held := by
  unfold Dev.corrected
  split
  · exact d.held_memCe _ _ _ _
  · rfl

theorem Dev.held_uncorrectable (s : Nat) (scrub : Bool) (a : Nat) : (d.uncorrectable s scrub a).held = d.held := by
  unfold Dev.uncorrectable
  split
  · cases scrub <;> simp
  · split
    · exact d.held_flwWith _ _ _ _ _
    · rfl

theorem Dev.held_partPoisoned (s a : Nat) : (d.partPoisoned s a).held = d.held := by
  unfold Dev.partPoisoned
  split
  · simp
  · split
    · exact d.held_flwWith _ _ _ _ _
    · rfl

theorem Dev.held_poisonRead (s : Nat) (scrub : Bool) (a : Nat) : (d.poisonRead s scrub a).held = d.held := by
  unfold Dev.poisonRead
  split
  · split <;> simp
  · rfl

@[simp] theorem Dev.held_countBytes (reg a n : Nat) : (d.countBytes reg a n).held = d.held := by
  unfold Dev.countBytes
  split
  · exact d.held_add64 _ _
  · rfl

@[simp] theorem Dev.held_wakeBank (a : Nat) : (d.wakeBank a).held = d.held := by
  unfold Dev.wakeBank Dev.requestWake
  dsimp only
  repeat' split
  all_goals rfl

@[simp] theorem Dev.held_breakResv (a n : Nat) : (d.breakResv a n).held = d.held := by
  unfold Dev.breakResv
  dsimp only
  split <;> rfl

@[simp] theorem Dev.held_charge (a n : Nat) (wr : Bool) : (d.charge a n wr).held = d.held := by
  have hall (t : Dev) (l : List Nat) (g : Nat → Nat) : (t.each l fun d s => d.add64 (rHbmChargedLo s) (g s)).held = t.held :=
    t.held_each l fun _ _ => Dev.held_add64 _ _ _
  have hpart (t : Dev) (l : List (Nat × Nat)) : (t.each l fun d e => d.add64 (rHbmChargedLo (hbmPc e.1 / 64)) 768).held = t.held :=
    t.held_each l fun _ _ => Dev.held_add64 _ _ _
  unfold Dev.charge
  split
  · rfl
  · split
    · exact (hpart _ _).trans ((Dev.held_add64 _ _ _).trans (hall _ _ _))
    · exact (Dev.held_add64 _ _ _).trans (hall _ _ _)

end Reports

/-! ### Granules of memory without damage (R169, R170) -/

theorem MemSt.dmg_undamaged {m : MemSt} (h : m.damage = []) (g : Nat) : m.dmg g = none := by simp [MemSt.dmg, h, sget]

theorem MemSt.setDmg_undamaged {m : MemSt} (h : m.damage = []) (g : Nat) : m.setDmg g none = m := by
  cases m
  cases h
  rfl

theorem MemSt.body_setBytes {m k : MemSt} (h : m.body = k.body) (a : Nat) (l : List Byte) :
    (m.setBytes a l).body = (k.setBytes a l).body := by
  induction l generalizing m k a with
  | nil => exact h
  | cons v t ih => exact ih (congrArg (·.setByte a v) h) _

/-- A granule with its mark set or cleared. -/
def Dev.markGran (d : Dev) (g : Nat) (p : Bool) : Dev := { d with mem := d.mem.setPoison g p }

/-- A granule put, with its mark, into a device that holds the same. -/
theorem Dev.held_put {d t : Dev} (h : t.held = d.held) (a : Nat) (bs : List Byte) (p : Bool) :
    ({ t with mem := ((t.mem.setBytes a bs).setPoison (a / 64) p).setDmg (a / 64) none } : Dev).held =
      ((d.putGran a bs).markGran (a / 64) p).held :=
  Prod.ext (show t.tier = d.tier from Dev.tier_of_held h)
    (congrArg (fun m : MemSt => (m.setPoison (a / 64) p).setDmg (a / 64) none) (MemSt.body_setBytes (congrArg (·.2) h) a bs))

section Undamaged

variable {d : Dev} (hd : d.mem.damage = []) (src a : Nat)
include hd

/-- Undamaged memory is found as it stands; only on a failed channel of the Sump does its data not count (R228). -/
theorem Dev.found_undamaged : (d.found a).1.1 = d.mem.bytes a 64 ∧ (d.found a).2.held = d.held ∧
    (d.mem.sumpBad = [] → (d.found a).1.2 = none) := by
  unfold Dev.found
  rw [MemSt.dmg_undamaged hd, MemSt.setDmg_undamaged hd]
  dsimp only
  split
  · split
    · next hbad => exact ⟨rfl, rfl, fun h => by simp [h] at hbad⟩
    · exact ⟨rfl, rfl, fun _ => rfl⟩
  · exact ⟨rfl, rfl, fun _ => rfl⟩

/-- A read-modify-write of undamaged memory merges into the bytes that stand there. -/
theorem Dev.rmwGran_undamaged (f : List Byte → List Byte) (mark : Bool) :
    ∃ p, (d.rmwGran src a f mark).held = ((d.putGran a (f (d.mem.bytes a 64))).markGran (a / 64) p).held := by
  obtain ⟨hbytes, hheld, -⟩ := Dev.found_undamaged hd a
  have hput (p : Bool) := Dev.held_put hheld a (f (d.mem.bytes a 64)) p
  unfold Dev.rmwGran
  dsimp only
  rw [hbytes]
  split
  · exact ⟨_, Dev.held_put rfl a _ true⟩
  · split
    · exact ⟨_, hput _⟩
    · exact ⟨_, (Dev.held_corrected _ _ _ _).trans (hput _)⟩
    · exact ⟨_, (Dev.held_partPoisoned _ _ _).trans (hput _)⟩

/-- A write within a granule of undamaged memory merges into what stands there; a whole granule takes the mark of its data. -/
theorem Dev.writeGran_undamaged (bs : List Byte) (mark : Bool) : ∃ p, (a % 64 = 0 → bs.length = 64 → p = mark) ∧
    (d.writeGran src a bs mark).held = ((d.putGran (a / 64 * 64) ((d.mem.bytes (a / 64 * 64) 64).take (a % 64) ++ bs ++
      (d.mem.bytes (a / 64 * 64) 64).drop (a % 64 + bs.length))).markGran (a / 64) p).held := by
  unfold Dev.writeGran
  split
  · next hw =>
    obtain ⟨ha, hl⟩ : a % 64 = 0 ∧ bs.length = 64 := by simpa using hw
    refine ⟨mark, fun _ _ => rfl, ?_⟩
    rw [ha, hl, show a / 64 * 64 = a by omega, List.take_zero, List.nil_append, Nat.zero_add,
      List.drop_eq_nil_of_le (d.mem.length_bytes a 64).le, List.append_nil]
    exact Dev.held_put rfl a bs mark
  · next hw =>
    obtain ⟨p, hp⟩ := Dev.rmwGran_undamaged hd src (a / 64 * 64)
      (fun old => old.take (a % 64) ++ bs ++ old.drop (a % 64 + bs.length)) mark
    rw [show a / 64 * 64 / 64 = a / 64 by omega] at hp
    exact ⟨p, fun ha hl => absurd (by simp [ha, hl]) hw, hp⟩

/-- An unmarked granule of undamaged memory reads as it stands, unless its channel has failed. -/
theorem Dev.readGran_undamaged (hbad : d.mem.sumpBad = []) (scrub : Bool) (hp : d.mem.isPoison (a / 64) = false) :
    (d.readGran src scrub a).1 = (d.mem.bytes a 64, false) ∧ (d.readGran src scrub a).2.held = d.held := by
  obtain ⟨hbytes, hheld, hnone⟩ := Dev.found_undamaged hd a
  simp [Dev.readGran, hp, hnone hbad, hbytes, hheld]

end Undamaged

/-! ### Writes of undamaged memory -/

/-- From `d` to `t` the bytes of [a, a + n) have been written with what `v` has there, and of the granules in it each has the mark of
its bytes; the others keep theirs. -/
structure Wrote (v : Nat → Byte × Bool) (a n : Nat) (d t : Dev) : Prop where
  stored : Stored (fun x => (v x).1) a n d t
  undamaged : t.mem.damage = []
  sumpBad : t.mem.sumpBad = d.mem.sumpBad
  apart : ∀ g, (g * 64 + 64 ≤ a ∨ a + n ≤ g * 64) → t.mem.isPoison g = d.mem.isPoison g
  whole : ∀ g, a ≤ g * 64 → g * 64 + 64 ≤ a + n → t.mem.isPoison g = (List.range 64).any fun k => (v (g * 64 + k)).2

theorem Wrote.nothing (v : Nat → Byte × Bool) (a : Nat) {d : Dev} (hd : d.mem.damage = []) : Wrote v a 0 d d :=
  ⟨Stored.nothing _ _ _, hd, rfl, fun _ _ => rfl, fun _ _ _ => by omega⟩

/-- Two neighbouring writes whose border no granule crosses. -/
theorem Wrote.append {v : Nat → Byte × Bool} {a n m : Nat} {d t u : Dev} (h : Wrote v a n d t) (k : Wrote v (a + n) m t u)
    (hb : m = 0 ∨ (a + n) % 64 = 0) : Wrote v a (n + m) d u := by
  refine ⟨h.stored.append k.stored, k.undamaged, k.sumpBad.trans h.sumpBad, fun g hg => ?_, fun g hlo hhi => ?_⟩
  · exact (k.apart g (by omega)).trans (h.apart g (by omega))
  · by_cases hg : g * 64 + 64 ≤ a + n
    · exact (k.apart g (.inl hg)).trans (h.whole g hlo hg)
    · exact k.whole g (by omega) (by omega)

theorem Wrote.of_held {v : Nat → Byte × Bool} {a n : Nat} {d d' t t' : Dev} (h : Wrote v a n d t) (hd : d'.held = d.held)
    (ht : t'.held = t.held) : Wrote v a n d' t' := by
  have hpd := Dev.isPoison_of_held hd
  have hpt := Dev.isPoison_of_held ht
  refine ⟨h.stored.of_store (Dev.store_of_held hd).symm (Dev.store_of_held ht), (Dev.damage_of_held ht).trans h.undamaged, ?_,
    fun g hg => ?_, fun g hlo hhi => ?_⟩
  · rw [Dev.sumpBad_of_held ht, Dev.sumpBad_of_held hd, h.sumpBad]
  · rw [hpt, hpd, h.apart g hg]
  · rw [hpt, h.whole g hlo hhi]

theorem MemSt.sumpBad_setBytes (m : MemSt) (a : Nat) (l : List Byte) : (m.setBytes a l).sumpBad = m.sumpBad := by
  induction l generalizing m a with
  | nil => rfl
  | cons v t ih => exact ih _ _

/-- What a write within a granule leaves. -/
theorem wrote_writeGran {d : Dev} (hd : d.mem.damage = []) (src : Nat) {a : Nat} {bs : List Byte} {mark : Bool}
    {v : Nat → Byte × Bool} (hpos : 0 < bs.length) (hfit : a % 64 + bs.length ≤ 64)
    (hv : ∀ i < bs.length, bs.getD i 0 = (v (a + i)).1)
    (hmark : bs.length = 64 → mark = (List.range 64).any fun k => (v (a + k)).2) :
    Wrote v a bs.length d (d.writeGran src a bs mark) := by
  obtain ⟨p, hp, hheld⟩ := Dev.writeGran_undamaged hd src a bs mark
  have hset (g : Nat) (old : List Byte) : ((d.putGran (a / 64 * 64) old).markGran (a / 64) p).mem.isPoison g =
      if g = a / 64 then p else d.mem.isPoison g := by
    rw [Dev.markGran, MemSt.isPoison_setPoison]
    simp [Dev.putGran, MemSt.isPoison]
  refine Wrote.of_held ⟨?_, ?_, ?_, fun g hg => ?_, fun g hlo hhi => ?_⟩ rfl hheld
  · exact (stored_putGran d hfit hv (d.mem.length_bytes _ 64) fun _ => rfl).of_store rfl rfl
  · show sdel _ (d.mem.setBytes _ _).damage = []
    rw [MemSt.damage_setBytes, hd]
    rfl
  · exact d.mem.sumpBad_setBytes _ _
  · rw [hset, if_neg (by omega)]
  · obtain ⟨hg, ha, hl⟩ : g = a / 64 ∧ a % 64 = 0 ∧ bs.length = 64 := by omega
    rw [hset, if_pos hg, hp ha hl, hmark hl, show g * 64 = a by omega]

/-- What holds of nothing, and of a range when it holds of the rest after its first piece, holds of a range: every piece but the last
ends at a multiple of `b`. -/
theorem foldl_cutAt_cons {β : Type} {b : Nat} {R : Nat → Nat → β → β → Prop} {f : β → Nat × Nat → β} (hb : 0 < b)
    (hnil : ∀ a r, R a 0 r r)
    (hcons : ∀ {a k m r u}, 0 < k → a % b + k ≤ b → (m = 0 ∨ (a + k) % b = 0) → R (a + k) m (f r (a, k)) u → R a (k + m) r u)
    (fuel a n : Nat) (r : β) (hfuel : n = 0 ∨ n + a % b ≤ fuel * b) : R a n r ((cutAt b fuel a n).foldl f r) := by
  induction fuel generalizing a n r with
  | zero =>
    obtain rfl : n = 0 := by omega
    exact hnil a r
  | succ fuel ih =>
    unfold cutAt
    split
    · next hn => exact hn ▸ hnil a r
    · next hn =>
      have hmod := Nat.mod_lt a hb
      have hend := add_rest_mod hb a
      rw [Nat.succ_mul] at hfuel
      obtain ⟨k, hk⟩ : ∃ k, k = min n (b - a % b) := ⟨_, rfl⟩
      obtain ⟨m, rfl⟩ : ∃ m, n = k + m := ⟨n - k, by omega⟩
      have hborder : m = 0 ∨ (a + k) % b = 0 := by
        by_cases hm : m = 0
        · exact .inl hm
        · exact .inr (by rwa [show k = b - a % b by omega])
      dsimp only
      rw [← hk, Nat.add_sub_cancel_left]
      exact hcons (by omega) (by omega) hborder (ih _ m _ (by omega))

/-- The marked bytes that stand from `a` on, by their address. -/
def markedAt (a : Nat) (bs : Marked) (x : Nat) : Byte × Bool := bs.getD (x - a) (0, false)

section Part

variable {a x k : Nat} {bs : Marked} (hx : a ≤ x) (hk : x + k ≤ a + bs.length)
include hx hk

theorem getElem_part {i : Nat} (hi : i < k) : ((bs.drop (x - a)).take k)[i]? = some (markedAt a bs (x + i)) := by
  rw [List.getElem?_take_of_lt hi, List.getElem?_drop, markedAt, List.getD_eq_getElem?_getD, show x + i - a = x - a + i by omega,
    List.getElem?_eq_getElem (by omega)]
  rfl

theorem any_part : ((bs.drop (x - a)).take k).any (·.2) = (List.range k).any fun i => (markedAt a bs (x + i)).2 := by
  have hpart : (bs.drop (x - a)).take k = (List.range k).map fun i => markedAt a bs (x + i) := by
    refine List.ext_getElem? fun i => ?_
    by_cases hi : i < k
    · rw [getElem_part hx hk hi]
      simp [hi]
    · rw [List.getElem?_eq_none (by rw [length_part hx hk]; omega), List.getElem?_eq_none (by simp; omega)]
  rw [hpart, List.any_map]
  rfl

end Part

/-- What a write of undamaged memory leaves. -/
theorem wrote_writePhys {d : Dev} (hd : d.mem.damage = []) (src a : Nat) (bs : Marked) :
    Wrote (markedAt a bs) a bs.length d (d.writePhys src a bs) := by
  have hstart : ((d.charge a bs.length true).breakResv a bs.length).held = d.held := by simp
  refine Wrote.of_held (foldl_cutAt_cons (b := 64) (R := fun x n r u => a ≤ x → x + n = a + bs.length → r.mem.damage = [] →
    Wrote (markedAt a bs) x n r u) (by decide) (fun x r _ _ => Wrote.nothing _ x) (fun {x k m r u} hpos hfit hb ih hlo hhi hr => ?_)
    _ a bs.length ((d.charge a bs.length true).breakResv a bs.length) (.inr (fuel_enough (by decide) _ _)) (Nat.le_refl _) rfl
    ((Dev.damage_of_held hstart).trans hd)) hstart.symm rfl
  have hk : x + k ≤ a + bs.length := by omega
  have hcount : ((r.wakeBank x).countBytes 0x88 x k).held = r.held := by simp
  have hlen : (((bs.drop (x - a)).take k).map (·.1)).length = k := by rw [List.length_map, length_part hlo hk]
  have hpiece := wrote_writeGran ((Dev.damage_of_held hcount).trans hr) src (a := x) (bs := ((bs.drop (x - a)).take k).map (·.1))
    (mark := ((bs.drop (x - a)).take k).any (·.2)) (v := markedAt a bs) (by omega) (by omega)
    (fun i hi => by
      rw [List.getD_eq_getElem?_getD, List.getElem?_map, getElem_part hlo hk (by omega)]
      rfl)
    (fun h64 => by rw [any_part hlo hk, show k = 64 by omega])
  rw [hlen] at hpiece
  have hfirst := hpiece.of_held hcount.symm rfl
  exact hfirst.append (ih (by omega) (by omega) hfirst.undamaged) hb

/-! ### Reads of undamaged memory -/

/-- From one value and device to the next, the bytes of [a, a + n), if they are unmarked and undamaged, have been read as they stand. -/
def ReadClean (a n : Nat) (r u : Marked × Dev) : Prop :=
  r.2.mem.damage = [] → r.2.mem.sumpBad = [] → (∀ x, a ≤ x → x < a + n → r.2.mem.isPoison (x / 64) = false) →
    u.2.held = r.2.held ∧ u.1 = r.1 ++ (r.2.mem.bytes a n).map (·, false)

theorem ReadClean.append {a n m : Nat} {r u w : Marked × Dev} (h : ReadClean a n r u) (k : ReadClean (a + n) m u w) :
    ReadClean a (n + m) r w := by
  intro hd hs hp
  obtain ⟨hu, hdu⟩ := h hd hs fun x hx hx' => hp x hx (by omega)
  obtain ⟨hw, hdw⟩ := k ((Dev.damage_of_held hu).trans hd) ((Dev.sumpBad_of_held hu).trans hs) fun x hx hx' =>
    (Dev.isPoison_of_held hu) ▸ hp x (by omega) (by omega)
  refine ⟨hw.trans hu, ?_⟩
  rw [hdw, hdu, Dev.bytes_of_store (Dev.store_of_held hu), MemSt.bytes_append, List.map_append, List.append_assoc]

/-- A read of unmarked and undamaged memory returns what stands there. -/
theorem Dev.readPhys_undamaged {d : Dev} {a n : Nat} (hd : d.mem.damage = []) (hs : d.mem.sumpBad = [])
    (hp : ∀ x, a ≤ x → x < a + n → d.mem.isPoison (x / 64) = false) (src : Nat) :
    (d.readPhys src a n).1 = (d.mem.bytes a n).map (·, false) := by
  have hstart : (d.charge a n false).held = d.held := by simp
  have hall : ReadClean a n ([], d.charge a n false) (d.readPhys src a n) := by
    refine foldl_cutAt (b := 64) (lo := a) (hi := a + n) (by decide) (fun _ _ _ _ _ => ⟨rfl, (List.append_nil _).symm⟩)
      ReadClean.append (fun r x k hlo hhi hk hfit hd hs hp => ?_) _ a n _ (Nat.le_refl _) (Nat.le_refl _)
      (.inr (fuel_enough (by decide) _ _))
    have hcount : ((r.2.wakeBank x).countBytes 0x80 x k).held = r.2.held := by simp
    obtain ⟨hdata, hheld⟩ := Dev.readGran_undamaged ((Dev.damage_of_held hcount).trans hd) src (x / 64 * 64)
      ((Dev.sumpBad_of_held hcount).trans hs) false (by
        rw [Dev.isPoison_of_held hcount, show x / 64 * 64 / 64 = x / 64 by omega]
        exact hp x (Nat.le_refl _) (by omega))
    refine ⟨hheld.trans hcount, ?_⟩
    simp only [hdata]
    rw [MemSt.bytes_piece _ _ (by omega), Dev.bytes_of_store (Dev.store_of_held hcount), show x / 64 * 64 + x % 64 = x by omega]
  obtain ⟨-, hdata⟩ := hall ((Dev.damage_of_held hstart).trans hd) ((Dev.sumpBad_of_held hstart).trans hs)
    ((Dev.isPoison_of_held hstart) ▸ hp)
  rw [hdata, List.nil_append, Dev.bytes_of_store (Dev.store_of_held hstart)]

/-- Clean whole granules read back as they were written. -/
theorem Dev.readPhys_writePhys {d : Dev} {a : Nat} {bs : Marked} (hd : d.mem.damage = []) (hs : d.mem.sumpBad = [])
    (ha : a % 64 = 0) (hl : bs.length % 64 = 0) (hclean : ∀ b ∈ bs, b.2 = false) (src : Nat) :
    ((d.writePhys src a bs).readPhys src a bs.length).1 = bs := by
  have hw := wrote_writePhys hd src a bs
  have hmarked {i : Nat} (hi : i < bs.length) : markedAt a bs (a + i) = bs[i] := by
    rw [markedAt, Nat.add_sub_cancel_left, List.getD_eq_getElem _ _ hi]
  have hp (x : Nat) (hx : a ≤ x) (hx' : x < a + bs.length) : (d.writePhys src a bs).mem.isPoison (x / 64) = false := by
    rw [hw.whole (x / 64) (by omega) (by omega), List.any_eq_false]
    intro k hk
    have hk := List.mem_range.mp hk
    rw [show x / 64 * 64 + k = a + (x / 64 * 64 - a + k) by omega, hmarked (by omega)]
    exact ne_true_of_eq_false (hclean _ (List.getElem_mem _))
  rw [Dev.readPhys_undamaged hw.undamaged (hw.sumpBad.trans hs) hp]
  refine List.ext_getElem (by simp [MemSt.length_bytes]) fun i hi hi' => ?_
  have hbyte : (d.writePhys src a bs).mem.byte (a + i) = bs[i].1 := by
    rw [(hw.stored.inside (a + i) (by omega) (by omega)).1, hmarked hi']
  refine Prod.ext ?_ (by simpa using (hclean _ (List.getElem_mem hi')).symm)
  simpa [MemSt.bytes, rangeFrom] using hbyte

end Sys2Proof.Machine

namespace Sys2Proof.Proofs
open Sys2Proof.Machine Sys2Proof.Safety

/-- Settles O57: canonical form is what every access keeps, and the rest follows from what the pieces of a write leave, composed at
the borders of granules. -/
theorem writesChangeOnlyTheirBytes : Obligations.WritesChangeOnlyTheirBytes := by
  intro d src a n bs t
  refine ⟨fun hwf => ⟨(memOnly_writePhys d src a bs).wf hwf, (memOnly_readPhys d src a n).wf hwf⟩, fun hd => ?_⟩
  have hw : Wrote (markedAt a bs) a bs.length d t := wrote_writePhys hd src a bs
  refine ⟨fun j => ?_, hw.apart, fun g hlo hhi => ?_, fun hs ha hl hclean => Dev.readPhys_writePhys hd hs ha hl hclean src⟩
  · split
    · next hj => exact (hw.stored.inside j hj.1 hj.2).1
    · next hj => exact hw.stored.outside j (by omega) (MemSt.dmg_undamaged hd _)
  · rw [hw.whole g hlo hhi]
    simp only [markedAt, Nat.sub_add_comm hlo]

end Sys2Proof.Proofs

namespace Sys2Proof.Machine
open Sys2Proof.Safety

/-! ### Registers of a GAL or HBM page -/

section Page

variable {pg off : Nat}

theorem pgReg_ne (pg : Nat) {i j : Nat} (h : i ≠ j) : pgReg pg i ≠ pgReg pg j := by
  unfold pgReg
  split <;> omega

theorem pgReg_far (pg off : Nat) : 0x808000 ≤ pgReg pg off := by
  unfold pgReg
  split <;> omega

theorem pgReg_lt (h : pg < 20) (ho : off < 0x100000) : pgReg pg off < 0x13000000 := by
  unfold pgReg
  split <;> omega

theorem Dev.rd_page_refresh (d : Dev) (pg off : Nat) : d.refresh.rd (pgReg pg off) = d.rd (pgReg pg off) :=
  d.rd_refresh_far (pgReg_far pg off)

theorem Dev.rd_page_wr (d : Dev) {i : Nat} (v : Word) (h : off ≠ i) : (d.wr (pgReg pg i) v).rd (pgReg pg off) = d.rd (pgReg pg off) :=
  d.rd_wr_ne v (pgReg_ne pg h)

theorem Dev.rd_page_wr64 (d : Dev) {i : Nat} (v : Nat) (h : off ≠ i) (h4 : off ≠ i + 4) :
    (d.wr64 (pgReg pg i) v).rd (pgReg pg off) = d.rd (pgReg pg off) := by
  rw [Dev.rd_wr64, pgReg_add, if_neg (pgReg_ne pg h4), if_neg (pgReg_ne pg h)]

theorem Dev.rd64_page_congr {d t : Dev} {pg i : Nat} (h : t.rd (pgReg pg i) = d.rd (pgReg pg i))
    (h4 : t.rd (pgReg pg (i + 4)) = d.rd (pgReg pg (i + 4))) : t.rd64 (pgReg pg i) = d.rd64 (pgReg pg i) := by
  rw [Dev.rd64, pgReg_add, h, h4, Dev.rd64, pgReg_add]

/-- A Flowstone record changes registers of FLW alone. -/
theorem Dev.rd_flwWith (d : Dev) (l : List Word) (a b c e : Nat) (h : off < 0x13000000) : (d.flwWith l a b c e).rd off = d.rd off := by
  have hseq : off ≠ rFlwSeq := by unfold rFlwSeq; omega
  have hstatus : off ≠ rFlwStatus := by unfold rFlwStatus; omega
  have hdrop : off ≠ rFlwDrop := by unfold rFlwDrop; omega
  unfold Dev.flwWith
  split
  · rfl
  · split
    · exact d.rd_wr_ne _ hdrop
    · exact (Dev.rd_wr_ne _ _ hstatus).trans (Dev.rd_wr_ne _ _ hseq)

theorem Dev.rd_ledger (d : Dev) (a b c e : Nat) (w : Word) : (d.ledger a b c e w).rd off = d.rd off := by
  rw [Dev.ledger_eq]
  rfl

theorem Dev.rd_ueLedger (d : Dev) (p s a : Nat) : (d.ueLedger p s a).rd off = d.rd off := by
  unfold Dev.ueLedger Dev.ueSeen
  rw [Dev.rd_ledger]
  split <;> rfl

/-- An error of a page sets its bit, and the first one its capture (R175, R374). -/
theorem Dev.rd_memErr (d : Dev) (b s y k a : Nat) (h : off < 0x18 ∨ 0x28 < off) : (d.memErr pg b s y k a).rd (pgReg pg off) =
    (d.wr (pgReg pg 0x10) (setBit b true (d.rd (pgReg pg 0x10)))).rd (pgReg pg off) := by
  obtain he | he := d.raise_cases (pgReg pg 0x10) b _ <;> rw [Dev.memErr, he]
  have hinfo (t : Dev) (v : Word) : ((t.wr64 (pgReg pg 0x18) a).wr (pgReg pg 0x20) v).rd (pgReg pg off) = t.rd (pgReg pg off) := by
    rw [Dev.rd_page_wr _ _ (by omega), Dev.rd_page_wr64 _ _ (by omega) (by omega)]
  dsimp only
  split
  · exact hinfo _ _
  · rw [Dev.rd_page_wr _ _ (by omega), Dev.rd_page_wr _ _ (by omega), hinfo]

theorem Dev.rd_memErr_err (d : Dev) (b s y k a : Nat) :
    (d.memErr pg b s y k a).rd (pgReg pg 0x10) = setBit b true (d.rd (pgReg pg 0x10)) := by
  rw [Dev.rd_memErr _ _ _ _ _ _ (by decide), Dev.rd_wr_same]

/-- The counts of a page lie behind its capture. -/
theorem Dev.rd_memErr_count (d : Dev) (b s y k a : Nat) (h : 0x28 < off) :
    (d.memErr pg b s y k a).rd (pgReg pg off) = d.rd (pgReg pg off) := by
  rw [Dev.rd_memErr _ _ _ _ _ _ (.inr h), Dev.rd_page_wr _ _ (by omega)]

theorem Dev.rd_addSat_same (d : Dev) : (d.addSat off 1).rd off = satAdd32 (d.rd off) 1 := d.rd_wr_same _ _

theorem Dev.rd_page_addSat (d : Dev) {i : Nat} (h : off ≠ i) : (d.addSat (pgReg pg i) 1).rd (pgReg pg off) = d.rd (pgReg pg off) :=
  d.rd_page_wr _ h

/-- A correction is counted, and its bit is set (R175). -/
theorem Dev.rd_memCe (d : Dev) (hpg : pg < 20) (s y a : Nat) :
    (d.memCe pg s y a).rd (pgReg pg 0x30) = satAdd32 (d.rd (pgReg pg 0x30)) 1 ∧
      bitOf 0 ((d.memCe pg s y a).rd (pgReg pg 0x10)) = true := by
  unfold Dev.memCe
  extract_lets d1 w n m d2
  have hcount : d1.rd (pgReg pg 0x30) = satAdd32 (d.rd (pgReg pg 0x30)) 1 := by
    rw [Dev.rd_addSat_same, Dev.rd_memErr_count _ _ _ _ _ _ (by decide)]
  have hbit : bitOf 0 (d1.rd (pgReg pg 0x10)) = true := by
    rw [Dev.rd_page_addSat _ (by decide), Dev.rd_memErr_err, bitOf_setBit_same _ _ _ (by decide)]
  split
  · exact ⟨hcount, hbit⟩
  · split
    · rw [Dev.rd_ledger, Dev.rd_ledger, Dev.memFlw, Dev.rd_flwWith _ _ _ _ _ _ (pgReg_lt hpg (by decide)),
        Dev.rd_flwWith _ _ _ _ _ _ (pgReg_lt hpg (by decide)), Dev.rd_memErr_count _ _ _ _ _ _ (by decide), Dev.rd_memErr_err,
        bitOf_setBit_ne _ _ _ _ (by decide)]
      exact ⟨hcount, hbit⟩
    · exact ⟨hcount, hbit⟩

/-- What a scrubber finds uncorrectable is counted, and its bit is set (R172, R175). -/
theorem Dev.rd_uncorrectable {d : Dev} {a : Nat} (ha : errPage a = some pg) (s : Nat) :
    (d.uncorrectable s true a).rd (pgReg pg 0x34) = satAdd32 (d.rd (pgReg pg 0x34)) 1 ∧
      bitOf 1 ((d.uncorrectable s true a).rd (pgReg pg 0x10)) = true := by
  have hpg := errPage_lt ha
  simp only [Dev.uncorrectable, ha, if_true, Dev.rd_ueLedger, Dev.memFlw]
  rw [Dev.rd_flwWith _ _ _ _ _ _ (pgReg_lt hpg (by decide)), Dev.rd_flwWith _ _ _ _ _ _ (pgReg_lt hpg (by decide)),
    Dev.rd_memErr_count _ _ _ _ _ _ (by decide), Dev.rd_addSat_same, Dev.rd_memErr_count _ _ _ _ _ _ (by decide),
    Dev.rd_memErr_err, bitOf_setBit_ne _ _ _ _ (by decide), Dev.rd_page_addSat _ (by decide), Dev.rd_memErr_err,
    bitOf_setBit_same _ _ _ (by decide)]
  exact ⟨rfl, rfl⟩

end Page

/-! ### What a scrubber's read finds (R165 to R168, R172) -/

theorem not_sump_of_errPage {a pg : Nat} (h : errPage a = some pg) : isSump a = false := by
  unfold errPage at h
  split at h
  · next hh => exact not_sump_of_hbm hh
  · split at h
    · next hg =>
      simp only [isGallery, Bool.and_eq_true, decide_eq_true_eq] at hg
      simp [isSump]
      omega
    · cases h

/-- No damage and damage within the codes' guarantee are found as they are. -/
theorem Dev.found_known {d : Dev} {a pg : Nat} (ha : errPage a = some pg) {x : Option Damage}
    (hx : d.mem.dmg (a / 64) = x) (hm : x ≠ some .more) (ho : x ≠ some .onDie) : d.found a = ((d.mem.bytes a 64, x), d) := by
  simp only [Dev.found, not_sump_of_errPage ha, Bool.false_eq_true, if_false, hx]

/-- Bytes written back as they stand. -/
theorem MemSt.byte_setBytes_bytes (m : MemSt) (a n b : Nat) : (m.setBytes a (m.bytes a n)).byte b = m.byte b := by
  rw [MemSt.byte_setBytes, MemSt.length_bytes]
  split
  · next h => rw [MemSt.bytes_getD _ _ (by omega), show a + (b - a) = b by omega]
  · rfl

theorem Dev.rd_wakeBank (d : Dev) (a off : Nat) : (d.wakeBank a).rd off = d.rd off := by
  unfold Dev.wakeBank Dev.requestWake
  dsimp only
  repeat' split
  all_goals rfl

section ScrubRead

variable {d : Dev} {a pg : Nat} (ha : errPage a = some pg) (hp : d.mem.isPoison (a / 64) = false) (src : Nat)
include ha hp

/-- A granule without damage stays as it is. -/
theorem Dev.scrubRead_none (hx : d.mem.dmg (a / 64) = none) : ((d.wakeBank a).readGran src true a).2.held = d.held := by
  have hw := d.held_wakeBank a
  rw [← Dev.isPoison_of_held hw] at hp
  rw [← Dev.dmg_of_store (Dev.store_of_held hw)] at hx
  simp [Dev.readGran, hp, Dev.found_known ha hx]

/-- One damaged symbol is corrected and counted. -/
theorem Dev.scrubRead_one {sym : Nat} (hx : d.mem.dmg (a / 64) = some (.one sym)) :
    let t := ((d.wakeBank a).readGran src true a).2
    t.mem.byte = d.mem.byte ∧ t.mem.isPoison (a / 64) = false ∧ t.mem.dmg (a / 64) = none ∧
      t.rd (pgReg pg 0x30) = satAdd32 (d.rd (pgReg pg 0x30)) 1 ∧ bitOf 0 (t.rd (pgReg pg 0x10)) = true := by
  have hw := d.held_wakeBank a
  have hbyte := Dev.byte_of_store (Dev.store_of_held hw)
  have hrd := d.rd_wakeBank a (pgReg pg 0x30)
  rw [← Dev.isPoison_of_held hw] at hp
  rw [← Dev.dmg_of_store (Dev.store_of_held hw)] at hx
  generalize d.wakeBank a = w at *
  have hread : (w.readGran src true a).2 =
      ({ w with mem := (w.mem.setBytes a (w.mem.bytes a 64)).setDmg (a / 64) none } : Dev).memCe pg src sym a := by
    simp [Dev.readGran, hp, Dev.found_known ha hx, Dev.corrected, ha]
  rw [hread]
  intro t
  have hheld : t.held = _ := Dev.held_memCe _ _ _ _ _
  obtain ⟨hcount, hbit⟩ := Dev.rd_memCe _ (errPage_lt ha) _ _ _
  refine ⟨?_, ?_, ?_, hcount.trans (congrArg (satAdd32 · 1) hrd), hbit⟩
  · rw [Dev.byte_of_store (Dev.store_of_held hheld), ← hbyte]
    exact funext fun b => (MemSt.byte_setDmg _ _ _ _).trans (MemSt.byte_setBytes_bytes _ _ _ _)
  · rw [Dev.isPoison_of_held hheld, MemSt.isPoison, MemSt.poison_setDmg, MemSt.poison_setBytes]
    exact hp
  · rw [Dev.dmg_of_store (Dev.store_of_held hheld), MemSt.dmg_setDmg_none, if_pos rfl]

/-- Two damaged symbols poison the granule and count as uncorrectable. -/
theorem Dev.scrubRead_two {i j : Nat} (hx : d.mem.dmg (a / 64) = some (.two i j)) :
    let t := ((d.wakeBank a).readGran src true a).2
    t.mem.byte = d.mem.byte ∧ t.mem.isPoison (a / 64) = true ∧ t.mem.dmg (a / 64) = none ∧
      t.rd (pgReg pg 0x34) = satAdd32 (d.rd (pgReg pg 0x34)) 1 ∧ bitOf 1 (t.rd (pgReg pg 0x10)) = true := by
  have hw := d.held_wakeBank a
  have hbyte := Dev.byte_of_store (Dev.store_of_held hw)
  have hrd := d.rd_wakeBank a (pgReg pg 0x34)
  rw [← Dev.isPoison_of_held hw] at hp
  rw [← Dev.dmg_of_store (Dev.store_of_held hw)] at hx
  generalize d.wakeBank a = w at *
  have hread : (w.readGran src true a).2 =
      ({ w with mem := (w.mem.setDmg (a / 64) none).setPoison (a / 64) true } : Dev).uncorrectable src true a := by
    simp [Dev.readGran, hp, Dev.found_known ha hx, not_sump_of_errPage ha]
  rw [hread]
  intro t
  have hheld : t.held = _ := Dev.held_uncorrectable _ _ _ _
  obtain ⟨hcount, hbit⟩ := Dev.rd_uncorrectable ha src
  refine ⟨?_, ?_, ?_, hcount.trans (congrArg (satAdd32 · 1) hrd), hbit⟩
  · rw [Dev.byte_of_store (Dev.store_of_held hheld), ← hbyte]
    rfl
  · rw [Dev.isPoison_of_held hheld, MemSt.isPoison_setPoison, if_pos rfl]
  · rw [Dev.dmg_of_store (Dev.store_of_held hheld)]
    exact (MemSt.dmg_setDmg_none _ _ _).trans (if_pos rfl)

end ScrubRead

theorem Dev.tier_found (d : Dev) (a : Nat) : (d.found a).2.tier = d.tier := by
  unfold Dev.found
  dsimp only
  split
  · split <;> rfl
  · split
    · split
      · rfl
      · split <;> rfl
    · dsimp only
      split
      · exact Dev.tier_of_held (d.held_addSat _ _)
      · rfl
    · rfl

/-- A read of a granule moves no page. -/
theorem Dev.tier_readGran (d : Dev) (src : Nat) (scrub : Bool) (a : Nat) : (d.readGran src scrub a).2.tier = d.tier := by
  unfold Dev.readGran
  dsimp only
  split
  · exact Dev.tier_of_held (d.held_poisonRead _ _ _)
  · split
    · exact d.tier_found a
    · exact (Dev.tier_of_held (Dev.held_corrected _ _ _ _)).trans (d.tier_found a)
    · refine (Dev.tier_of_held (Dev.held_uncorrectable _ _ _ _)).trans (Eq.trans ?_ (d.tier_found a))
      split <;> rfl

/-! ### The patrol (R172) -/

theorem ctrlStack_lt (c : Nat) : (ctrlStack c).1 < 12 := by
  unfold ctrlStack
  split
  · next h => exact List.mem_range.mp (List.mem_of_find?_eq_some h)
  · decide

/-- A scrubber reads within its own die or stack. -/
theorem errPage_scrubAddr (u : Scrubber) {n : Nat} (h : n < scrubSpan (scrubNo u)) :
    errPage (scrubAddr (scrubNo u) n) = some (scrubPage (scrubNo u)) := by
  cases u with
  | gal k =>
    have hk : scrubNo (.gal k) < 8 := k.isLt
    simp only [scrubSpan, if_pos hk] at h
    simp only [scrubAddr, scrubPage, if_pos hk, errPage]
    rw [if_neg (by simp [isHbm]; omega), if_pos (by simp [isGallery]; omega)]
    unfold galDie
    exact congrArg some (by omega)
  | hbm c =>
    have hc : ¬scrubNo (.hbm c) < 8 := Nat.not_lt.mpr (Nat.le_add_right 8 c.val)
    have hst := ctrlStack_lt (scrubNo (.hbm c) - 8)
    simp only [scrubSpan, if_neg hc] at h
    simp only [scrubAddr, scrubPage, if_neg hc, errPage]
    rw [if_pos (isHbm_hbmAddr _ (by omega)), hbmPc_hbmAddr _ (by split <;> omega)]
    exact congrArg some (by split <;> omega)

/-- From `t` to `p` the position of scrubber `k` has become `n`. -/
structure Moved (k n : Nat) (t p : Dev) : Prop where
  scrubAt : p.scrubAt k = n
  byte : p.mem.byte = t.mem.byte
  poison : p.mem.poison = t.mem.poison
  damage : p.mem.damage = t.mem.damage
  tier : p.tier = t.tier
  rd : ∀ off < 0x58, p.rd (pgReg (scrubPage k) off) = t.rd (pgReg (scrubPage k) off)

section Moved

variable {k n : Nat} {t p : Dev} (h : Moved k n t p)
include h

theorem Moved.dmg (g : Nat) : p.mem.dmg g = t.mem.dmg g := by rw [MemSt.dmg, h.damage, MemSt.dmg]

theorem Moved.isPoison (g : Nat) : p.mem.isPoison g = t.mem.isPoison g := by rw [MemSt.isPoison, h.poison, MemSt.isPoison]

theorem Moved.refresh : Moved k n t p.refresh :=
  ⟨h.scrubAt, h.byte, h.poison, h.damage, h.tier, fun off ho => (p.rd_page_refresh _ off).trans (h.rd off ho)⟩

end Moved

/-- SCRUB_POS of a stack's page follows its scrubbers. -/
theorem Dev.scrubReg_cases (d : Dev) (k : Nat) : d.scrubReg k = d ∨ ∃ v, d.scrubReg k = d.wr64 (pgReg (scrubPage k) 0x58) v := by
  unfold Dev.scrubReg scrubPage
  split
  · exact .inl rfl
  · exact .inr ⟨_, rfl⟩

/-- A scrubber that runs reads its granule and moves on. -/
theorem moved_patrol {d : Dev} {k : Nat} (hon : d.scrubOn k = true) : Moved k ((d.scrubAt k + 1) % scrubSpan k)
    ((d.wakeBank (scrubAddr k (d.scrubAt k))).readGran (scrubSrc k) true (scrubAddr k (d.scrubAt k))).2 (d.patrol k) := by
  simp only [Dev.patrol, hon, Bool.not_true, Bool.false_eq_true, if_false]
  generalize ((d.wakeBank (scrubAddr k (d.scrubAt k))).readGran (scrubSrc k) true (scrubAddr k (d.scrubAt k))).2 = t
  obtain he | ⟨v, he⟩ := Dev.scrubReg_cases { t with mem := { t.mem with
    scrubPos := sset (fun _ => 0) t.mem.scrubPos k ((d.scrubAt k + 1) % scrubSpan k) } } k <;> rw [he]
  · exact ⟨sget_sset_same _ _ _ _, rfl, rfl, rfl, rfl, fun _ _ => rfl⟩
  · exact ⟨sget_sset_same _ _ _ _, rfl, rfl, rfl, rfl, fun off ho => Dev.rd_page_wr64 _ _ (by omega) (by omega)⟩

end Sys2Proof.Machine

namespace Sys2Proof.Machine
open Sys2Proof.Safety

/-- The granule that scrubber `k` reads next. -/
def Dev.scrubNext (d : Dev) (k : Nat) : Nat := scrubAddr k (d.scrubAt k)

/-- The scrubber's position has moved on by one, past the last to the first, and no byte has changed. -/
def Dev.MovedOn (d : Dev) (k : Nat) (t : Dev) : Prop :=
  t.scrubAt k = (d.scrubAt k + 1) % scrubSpan k ∧ ∀ b, t.mem.byte b = d.mem.byte b

end Sys2Proof.Machine

namespace Sys2Proof.Proofs
open Sys2Proof.Machine Sys2Proof.Safety

theorem exec_scrubPatrolRead (s : State) (u : Scrubber) : exec (.scrubPatrolRead u) s = State.run (fun d => d.patrol (scrubNo u)) s := rfl

theorem does_patrol_off {s : State} {u : Scrubber} (hoff : s.dev.scrubOn (scrubNo u) = false) : Does (.scrubPatrolRead u) s s.dev :=
  does_of_run (exec_scrubPatrolRead s u) (by simp [Dev.patrol, hoff])

section Patrol

variable {s : State} {u : Scrubber} (hon : s.dev.scrubOn (scrubNo u) = true)
include hon

/-- What a patrol's read leaves is what its command leaves, but for the position. -/
theorem runs_patrol {P : Dev → Prop} (hP : ∀ p, Moved (scrubNo u) ((s.dev.scrubAt (scrubNo u) + 1) % scrubSpan (scrubNo u))
    ((s.dev.wakeBank (s.dev.scrubNext (scrubNo u))).readGran (scrubSrc (scrubNo u)) true (s.dev.scrubNext (scrubNo u))).2 p → P p) :
    Runs (.scrubPatrolRead u) s P := by
  have hmoved := moved_patrol hon
  refine runs_of_does (does_of_run (exec_scrubPatrolRead s u) rfl) (congrArg TierSt.stall (hmoved.tier.trans ?_)) (hP _ hmoved.refresh)
  exact (Dev.tier_readGran _ _ _ _).trans (Dev.tier_of_held (s.dev.held_wakeBank _))

variable (hpos : s.dev.scrubAt (scrubNo u) < scrubSpan (scrubNo u))
  (hp : s.dev.mem.isPoison (s.dev.scrubNext (scrubNo u) / 64) = false)
include hpos hp

theorem runs_patrol_none (hx : s.dev.mem.dmg (s.dev.scrubNext (scrubNo u) / 64) = none) : Runs (.scrubPatrolRead u) s (fun t =>
    s.dev.MovedOn (scrubNo u) t ∧ t.mem.poison = s.dev.mem.poison ∧ t.mem.damage = s.dev.mem.damage) := by
  refine runs_patrol hon fun p h => ?_
  have hheld := Dev.scrubRead_none (errPage_scrubAddr u hpos) hp (scrubSrc (scrubNo u)) hx
  exact ⟨⟨h.scrubAt, congrFun (h.byte.trans (Dev.byte_of_store (Dev.store_of_held hheld)))⟩,
    h.poison.trans (congrArg (·.2.poison) hheld), h.damage.trans (Dev.damage_of_held hheld)⟩

theorem runs_patrol_one {sym : Nat} (hx : s.dev.mem.dmg (s.dev.scrubNext (scrubNo u) / 64) = some (.one sym)) :
    Runs (.scrubPatrolRead u) s (fun t => s.dev.MovedOn (scrubNo u) t ∧ t.mem.isPoison (s.dev.scrubNext (scrubNo u) / 64) = false ∧
      t.mem.dmg (s.dev.scrubNext (scrubNo u) / 64) = none ∧
      t.rd (pgReg (scrubPage (scrubNo u)) 0x30) = satAdd32 (s.dev.rd (pgReg (scrubPage (scrubNo u)) 0x30)) 1 ∧
      bitOf 0 (t.rd (pgReg (scrubPage (scrubNo u)) 0x10)) = true) := by
  refine runs_patrol hon fun p h => ?_
  obtain ⟨hbyte, hmark, hsound, hcount, hbit⟩ := Dev.scrubRead_one (errPage_scrubAddr u hpos) hp (scrubSrc (scrubNo u)) hx
  exact ⟨⟨h.scrubAt, congrFun (h.byte.trans hbyte)⟩, (h.isPoison _).trans hmark, (h.dmg _).trans hsound,
    (h.rd _ (by decide)).trans hcount, (congrArg (bitOf 0) (h.rd _ (by decide))).trans hbit⟩

theorem runs_patrol_two {i j : Nat} (hx : s.dev.mem.dmg (s.dev.scrubNext (scrubNo u) / 64) = some (.two i j)) :
    Runs (.scrubPatrolRead u) s (fun t => s.dev.MovedOn (scrubNo u) t ∧ t.mem.isPoison (s.dev.scrubNext (scrubNo u) / 64) = true ∧
      t.mem.dmg (s.dev.scrubNext (scrubNo u) / 64) = none ∧
      t.rd (pgReg (scrubPage (scrubNo u)) 0x34) = satAdd32 (s.dev.rd (pgReg (scrubPage (scrubNo u)) 0x34)) 1 ∧
      bitOf 1 (t.rd (pgReg (scrubPage (scrubNo u)) 0x10)) = true) := by
  refine runs_patrol hon fun p h => ?_
  obtain ⟨hbyte, hmark, hsound, hcount, hbit⟩ := Dev.scrubRead_two (errPage_scrubAddr u hpos) hp (scrubSrc (scrubNo u)) hx
  exact ⟨⟨h.scrubAt, congrFun (h.byte.trans hbyte)⟩, (h.isPoison _).trans hmark, (h.dmg _).trans hsound,
    (h.rd _ (by decide)).trans hcount, (congrArg (bitOf 1) (h.rd _ (by decide))).trans hbit⟩

end Patrol

/-! ### Retention (R161, R324) -/

theorem exec_galleryBankRetain (s : State) (n : Fin 8) (col : Fin 192) (bank : Fin 8) :
    exec (.galleryBankRetain n col bank) s = State.run (fun d => d.retain n.val col.val bank.val) s := rfl

section Retain

variable {s : State} {n : Fin 8} {col : Fin 192} {bank : Fin 8}

/-- A bank that is retained already stays so. -/
theorem does_retain_again (h : s.dev.mem.retained.contains ((n.val * 192 + col.val) * 8 + bank.val) = true) :
    Does (.galleryBankRetain n col bank) s s.dev :=
  does_of_run (exec_galleryBankRetain s n col bank) (if_pos h)

variable (h : s.dev.mem.retained.contains ((n.val * 192 + col.val) * 8 + bank.val) = false)
include h

/-- A gating step that the rail has room for retains the bank. -/
theorem does_retain {d : Dev} (hstep : s.dev.gateStep (8 + n.val) 1 = some d) : Does (.galleryBankRetain n col bank) s
    { d with mem := { d.mem with retained := insNat ((n.val * 192 + col.val) * 8 + bank.val) d.mem.retained } } :=
  does_of_run (exec_galleryBankRetain s n col bank) (by simp only [Dev.retain, h, hstep, Bool.false_eq_true, if_false])

/-- One that it has no room for is deferred. -/
theorem does_retain_deferred (hstep : s.dev.gateStep (8 + n.val) 1 = none) : Does (.galleryBankRetain n col bank) s s.dev :=
  does_of_run (exec_galleryBankRetain s n col bank) (by simp only [Dev.retain, h, hstep, Bool.false_eq_true, if_false])

end Retain

end Sys2Proof.Proofs

namespace Sys2Proof.Machine
open Sys2Proof.Safety

/-! ### Writes of a GAL or HBM page -/

/-- What a write to a register does in the pages of the dies and of the stacks, it does in every page. -/
theorem rowWr_page {d : Dev} {o : Origin} {off : Nat} {v : Word} {f : Nat → Dev}
    (hgal : ∀ n < 8, Reaches d o (0x5000000 + off + 0x100000 * n) → d.rowWr o (0x5000000 + off + 0x100000 * n) v = f n)
    (hhbm : ∀ n < 12, Reaches d o (0x6000000 + off + 0x100000 * n) → d.rowWr o (0x6000000 + off + 0x100000 * n) v = f (8 + n))
    (g : EccPage) (h : Reaches d o (pgReg (pageNo g) off)) : d.rowWr o (pgReg (pageNo g) off) v = f (pageNo g) := by
  cases g with
  | gal n =>
    have he : pgReg (pageNo (.gal n)) off = 0x5000000 + off + 0x100000 * n.val := by
      show pgReg n.val off = _
      rw [pgReg, if_pos n.isLt]
      omega
    rw [he] at h ⊢
    exact hgal n n.isLt h
  | hbm n =>
    have he : pgReg (pageNo (.hbm n)) off = 0x6000000 + off + 0x100000 * n.val := by
      show pgReg (8 + n.val) off = _
      rw [pgReg, if_neg (by omega)]
      omega
    rw [he] at h ⊢
    exact hhbm n n.isLt h

section PageWrites

variable {d : Dev} {o : Origin} (g : EccPage) (v : Word)

theorem rowWr_page_ceThresh (h : Reaches d o (pgReg (pageNo g) 0x44)) :
    d.rowWr o (pgReg (pageNo g) 0x44) v = d.ceThresh (pageNo g) v :=
  rowWr_page (off := 0x44) (f := (d.ceThresh · v)) (fun _ => rowWr_rGalCeThresh d o v) (fun _ => rowWr_rHbmCeThresh d o v) g h

theorem rowWr_page_scrubCtl (h : Reaches d o (pgReg (pageNo g) 0x50)) :
    d.rowWr o (pgReg (pageNo g) 0x50) v = d.scrubCtl (pageNo g) v :=
  rowWr_page (off := 0x50) (f := (d.scrubCtl · v)) (fun _ => rowWr_rGalScrubCtl d o v) (fun _ => rowWr_rHbmScrubCtl d o v) g h

theorem rowWr_page_injCtl (h : Reaches d o (pgReg (pageNo g) 0xF8)) :
    d.rowWr o (pgReg (pageNo g) 0xF8) v = d.injCtl (srcOf o) (pageNo g) v :=
  rowWr_page (off := 0xF8) (f := (d.injCtl (srcOf o) · v)) (fun _ => rowWr_rGalInjCtl d o v) (fun _ => rowWr_rHbmInjCtl d o v) g h

end PageWrites

/-! ### Range scrubs (R173, R174) -/

/-- The range scrub that runs in page `pg`. -/
def Dev.rangeRun (d : Dev) (pg : Nat) : Option RangeScrub := sget (fun _ => none) d.mem.range pg

/-- The device with that set. -/
def Dev.setRange (d : Dev) (pg : Nat) (r : Option RangeScrub) : Dev :=
  { d with mem := { d.mem with range := sset (fun _ => none) d.mem.range pg r } }

@[simp] theorem Dev.rangeRun_setRange (d : Dev) (pg : Nat) (r : Option RangeScrub) : (d.setRange pg r).rangeRun pg = r :=
  sget_sset_same _ _ _ _

/-- The page with EN and HOURS of SCRUB_CTL taken over, before RANGE_GO acts. -/
def Dev.scrubSet (d : Dev) (pg : Nat) (v : Word) : Dev :=
  let d := d.wrFld (pgReg pg 0x50) 0 0 (fld 0 0 v)
  (if fld 15 8 v = 0 then d else d.wrFld (pgReg pg 0x50) 15 8 (fld 15 8 v)).scrubStat pg

theorem Dev.scrubCtl_go {v : Word} (h : bitOf 16 v = true) (d : Dev) (pg : Nat) :
    d.scrubCtl pg v = (d.scrubSet pg v).rangeGo pg := if_pos h

theorem bitOf_zero_setFld_fld (v w : Word) : bitOf 0 (setFld 0 0 (fld 0 0 v) w) = bitOf 0 v := by
  rw [bitOf, getLsbD_setFld, if_pos (by decide), testBit_fld]
  rfl

section ScrubSet

variable (d : Dev) (pg : Nat) (v : Word)

theorem Dev.held_scrubSet : (d.scrubSet pg v).held = d.held := by
  unfold Dev.scrubSet
  dsimp only
  split <;> rfl

theorem Dev.rangeRun_scrubSet : (d.scrubSet pg v).rangeRun pg = d.rangeRun pg :=
  congrArg (sget _ · pg) (Dev.range_of_held (d.held_scrubSet pg v))

theorem Dev.rd_scrubSet {off : Nat} (h : off ≠ 0) (h5 : off ≠ 0x50) : (d.scrubSet pg v).rd (pgReg pg off) = d.rd (pgReg pg off) := by
  unfold Dev.scrubSet Dev.scrubStat
  dsimp only
  rw [Dev.wrFld, Dev.rd_page_wr _ _ h]
  split
  · exact d.rd_page_wr _ h5
  · exact (Dev.rd_page_wr _ _ h5).trans (d.rd_page_wr _ h5)

/-- EN is what the write says. -/
theorem Dev.scrubSet_en : bitOf 0 ((d.scrubSet pg v).rd (pgReg pg 0x50)) = bitOf 0 v := by
  unfold Dev.scrubSet Dev.scrubStat
  dsimp only
  rw [Dev.wrFld, Dev.rd_page_wr _ _ (by decide)]
  split
  · rw [Dev.rd_wrFld, if_pos rfl, bitOf_zero_setFld_fld]
  · rw [Dev.rd_wrFld, if_pos rfl, bitOf_setFld_ne _ _ _ _ _ (by decide), Dev.rd_wrFld, if_pos rfl, bitOf_zero_setFld_fld]

/-- The status bits but SCRUB_ACTIVE stay. -/
theorem Dev.scrubSet_status {b : Nat} (h : 0 < b) : bitOf b ((d.scrubSet pg v).rd (pgReg pg 0)) = bitOf b (d.rd (pgReg pg 0)) := by
  unfold Dev.scrubSet Dev.scrubStat
  dsimp only
  rw [Dev.rd_wrFld, if_pos rfl, bitOf_setFld_ne _ _ _ _ _ (.inr h)]
  split
  · rw [Dev.wrFld, Dev.rd_page_wr _ _ (by decide)]
  · rw [Dev.wrFld, Dev.rd_page_wr _ _ (by decide), Dev.wrFld, Dev.rd_page_wr _ _ (by decide)]

theorem Dev.rangeOf_scrubSet : (d.scrubSet pg v).rangeOf pg = d.rangeOf pg := by
  have hrd {off : Nat} (h : off ≠ 0) (h5 : off ≠ 0x50) := d.rd_scrubSet pg v h h5
  simp only [Dev.rangeOf, Dev.rd64_page_congr (hrd (off := 0x60) (by decide) (by decide)) (hrd (off := 0x64) (by decide) (by decide)),
    Dev.rd64_page_congr (hrd (off := 0x68) (by decide) (by decide)) (hrd (off := 0x6C) (by decide) (by decide))]

end ScrubSet

section RangeGo

variable {d : Dev} {pg : Nat} (hopen : bitOf 2 (d.rd (pgReg pg 0)) = false)

theorem Dev.rangeGo_running {r : RangeScrub} (h : d.rangeRun pg = some r) : d.rangeGo pg = d := by
  rw [Dev.rangeRun] at h
  simp [Dev.rangeGo, h]

include hopen

theorem Dev.rangeGo_empty (h : d.rangeRun pg = none) (he : (d.rangeOf pg).2 ≤ (d.rangeOf pg).1) :
    d.rangeGo pg = d.wr (pgReg pg 0x70) 0 := by
  rw [Dev.rangeRun] at h
  simp [Dev.rangeGo, h, hopen, he]

theorem Dev.rangeGo_starts (h : d.rangeRun pg = none) (he : (d.rangeOf pg).1 < (d.rangeOf pg).2) :
    d.rangeGo pg = (d.setRange pg (some ⟨(d.rangeOf pg).1, (d.rangeOf pg).2, 0⟩)).wrFld (pgReg pg 0) 1 1 1 := by
  rw [Dev.rangeRun] at h
  simp [Dev.rangeGo, Dev.setRange, h, hopen, Nat.not_le.mpr he]

end RangeGo

/-- A range scrub's read takes the next granule: it counts one that it finds uncorrectable and that was not marked before, and
moves no page. -/
theorem Dev.rangeRead_cases {d : Dev} {pg : Nat} {r : RangeScrub} (h : d.rangeRun pg = some r) : ∃ (t : Dev) (f : Nat),
    (f = r.found ∨ f = r.found + 1) ∧ (d.mem.isPoison (rangeAddr pg r.next / 64) = true → f = r.found) ∧ t.tier = d.tier ∧
    t.rangeRun pg = some ⟨r.next + 1, r.stop, f⟩ ∧ d.rangeRead pg = if r.stop ≤ r.next + 1 then t.rangeEnd pg else t := by
  rw [Dev.rangeRun] at h
  have htier := ((d.wakeBank (rangeAddr pg r.next)).tier_readGran (rangeSrc pg r.next) true (rangeAddr pg r.next)).trans
    (Dev.tier_of_held (d.held_wakeBank _))
  unfold Dev.rangeRead
  rw [h]
  dsimp only
  generalize (d.wakeBank (rangeAddr pg r.next)).readGran (rangeSrc pg r.next) true (rangeAddr pg r.next) = x at htier ⊢
  refine ⟨x.2.setRange pg (some ⟨r.next + 1, r.stop, if (x.1.2 && !d.mem.isPoison (rangeAddr pg r.next / 64)) = true
    then r.found + 1 else r.found⟩), _, ?_, fun hp => ?_, htier, Dev.rangeRun_setRange _ _ _, rfl⟩
  · split
    · exact .inr rfl
    · exact .inl rfl
  · simp [hp]

section RangeEnd

variable {d : Dev} {pg : Nat} {r : RangeScrub} (h : d.rangeRun pg = some r)
include h

theorem Dev.rangeEnd_eq : d.rangeEnd pg = 
    ((d.setRange pg none).wr (pgReg pg 0x70) (BitVec.ofNat 32 r.found)).wrFld (pgReg pg 0) 1 1 0 := by
  rw [Dev.rangeRun] at h
  simp [Dev.rangeEnd, Dev.setRange, h]

/-- The end of a range scrub clears RANGE_BUSY, and RANGE_FOUND holds its count. -/
theorem Dev.rangeEnd_ends : (d.rangeEnd pg).rangeRun pg = none ∧ bitOf 1 ((d.rangeEnd pg).rd (pgReg pg 0)) = false ∧
    (d.rangeEnd pg).rd (pgReg pg 0x70) = BitVec.ofNat 32 r.found ∧ (d.rangeEnd pg).tier = d.tier := by
  rw [Dev.rangeEnd_eq h]
  refine ⟨d.rangeRun_setRange pg none, ?_, ?_, rfl⟩
  · rw [Dev.rd_wrFld, if_pos rfl]
    exact bitOf_setBit_same 1 false _ (by decide)
  · rw [Dev.wrFld, Dev.rd_page_wr _ _ (by decide), Dev.rd_wr_same]

end RangeEnd

/-! ### Injection (R176) -/

section Injection

variable {d : Dev} {src pg : Nat} {v : Word}

theorem Dev.injCtl_locked (h : d.debugOpen = false) : d.injCtl src pg v = d.accessErr 4 src 4 (0x3F0000000000 + pgReg pg 0xF8) := by
  simp [Dev.injCtl, h]

variable (hopen : d.debugOpen = true)
include hopen

theorem Dev.injCtl_outside (ha : errPage (d.rd64 (pgReg pg 0xF0)) ≠ some pg) :
    d.injCtl src pg v = d.accessErr 5 src 4 (0x3F0000000000 + pgReg pg 0xF8) := by
  simp [Dev.injCtl, hopen, ha]

variable (ha : errPage (d.rd64 (pgReg pg 0xF0)) = some pg)
include ha

theorem Dev.injCtl_mark (hv : fld 1 0 v = 3) :
    d.injCtl src pg v = { d with mem := d.mem.setPoison (d.rd64 (pgReg pg 0xF0) / 64) true } := by
  simp [Dev.injCtl, hopen, ha, hv]

theorem Dev.injCtl_damage (hv : fld 1 0 v ≠ 3) {x : Damage} (hx : injDamage pg v (d.mem.dmg (d.rd64 (pgReg pg 0xF0) / 64)) = some x) :
    d.injCtl src pg v = { d with mem := d.mem.setDmg (d.rd64 (pgReg pg 0xF0) / 64) (some x) } := by
  simp [Dev.injCtl, hopen, ha, hv, hx]

end Injection

end Sys2Proof.Machine

namespace Sys2Proof.Proofs
open Sys2Proof.Machine Sys2Proof.Safety

section PageArms

variable (s : State) (o : Origin) (g : EccPage) (v : Word)

theorem exec_rangeGo : exec (.rangeGo o g v) s = State.run (fun d => d.rowWr o (pgReg (pageNo g) 0x50) (setBit 16 true v)) s := rfl
theorem exec_scrubRangeRead : exec (.scrubRangeRead g) s = State.run (fun d => d.rangeRead (pageNo g)) s := rfl
theorem exec_ceWindowExpire : exec (.ceWindowExpire g) s =
    State.run (fun d => if d.rdFld (pgReg (pageNo g) 0x44) 31 16 = 0 then d else d.ceWindow (pageNo g)) s := rfl
theorem exec_ceThreshWrite : exec (.ceThreshWrite o g v) s = State.run (fun d => d.rowWr o (pgReg (pageNo g) 0x44) v) s := rfl
theorem exec_injCtl : exec (.injCtl o g v) s = State.run (fun d => d.rowWr o (pgReg (pageNo g) 0xF8) v) s := rfl

end PageArms

section RangeGo

variable {s : State} {o : Origin} {g : EccPage} {v : Word} (hreach : Reaches s.dev o (pgReg (pageNo g) 0x50))
include hreach

/-- RANGE_GO acts on the page once EN and HOURS are taken over: no page record has changed, nor the range, its scrub and the status
bits but SCRUB_ACTIVE. -/
theorem runs_rangeGo {P : Dev → Prop} (h : ∀ t : Dev, t.rangeRun (pageNo g) = s.dev.rangeRun (pageNo g) →
    t.rangeOf (pageNo g) = s.dev.rangeOf (pageNo g) → bitOf 2 (t.rd (pgReg (pageNo g) 0)) = bitOf 2 (s.dev.rd (pgReg (pageNo g) 0)) →
    bitOf 0 (t.rd (pgReg (pageNo g) 0x50)) = bitOf 0 v → (t.rangeGo (pageNo g)).tier = t.tier ∧ P (t.rangeGo (pageNo g)).refresh) :
    Runs (.rangeGo o g v) s P := by
  obtain ⟨htier, hP⟩ := h (s.dev.scrubSet (pageNo g) (setBit 16 true v)) (Dev.rangeRun_scrubSet _ _ _) (Dev.rangeOf_scrubSet _ _ _)
    (Dev.scrubSet_status _ _ _ (by decide)) ((Dev.scrubSet_en _ _ _).trans (bitOf_setBit_ne _ _ _ _ (by decide)))
  refine runs_of_does (does_of_run (exec_rangeGo s o g v) ((rowWr_page_scrubCtl g _ hreach).trans
    (Dev.scrubCtl_go (bitOf_setBit_same 16 true v (by decide)) _ _))) (congrArg TierSt.stall (htier.trans ?_)) hP
  exact Dev.tier_of_held (Dev.held_scrubSet _ _ _)

/-- A range scrub that runs goes on. -/
theorem runs_rangeGo_running {r : RangeScrub} (hrun : s.dev.rangeRun (pageNo g) = some r) :
    Runs (.rangeGo o g v) s (fun t => t.rangeRun (pageNo g) = some r) := by
  refine runs_rangeGo hreach fun t ht _ _ _ => ?_
  rw [Dev.rangeGo_running (ht.trans hrun)]
  exact ⟨rfl, ht.trans hrun⟩

variable (hopen : bitOf 2 (s.dev.rd (pgReg (pageNo g) 0)) = false) (hrun : s.dev.rangeRun (pageNo g) = none)
include hopen hrun

/-- An empty range ends at once. -/
theorem runs_rangeGo_empty (he : (s.dev.rangeOf (pageNo g)).2 ≤ (s.dev.rangeOf (pageNo g)).1) :
    Runs (.rangeGo o g v) s (fun t => t.rangeRun (pageNo g) = none ∧ t.rd (pgReg (pageNo g) 0x70) = 0) := by
  refine runs_rangeGo hreach fun t ht hrange hstatus _ => ?_
  rw [Dev.rangeGo_empty (hstatus.trans hopen) (ht.trans hrun) (by rwa [hrange]), Dev.rd_page_refresh, Dev.rd_wr_same]
  exact ⟨rfl, ht.trans hrun, rfl⟩

/-- A range begins at its first granule with none found, and RANGE_BUSY is set. -/
theorem runs_rangeGo_starts (he : (s.dev.rangeOf (pageNo g)).1 < (s.dev.rangeOf (pageNo g)).2) : Runs (.rangeGo o g v) s (fun t =>
    t.rangeRun (pageNo g) = some ⟨(s.dev.rangeOf (pageNo g)).1, (s.dev.rangeOf (pageNo g)).2, 0⟩ ∧
    bitOf 1 (t.rd (pgReg (pageNo g) 0)) = true ∧ bitOf 0 (t.rd (pgReg (pageNo g) 0x50)) = bitOf 0 v) := by
  refine runs_rangeGo hreach fun t ht hrange hstatus hen => ?_
  rw [Dev.rangeGo_starts (hstatus.trans hopen) (ht.trans hrun) (by rwa [hrange]), hrange, Dev.rd_page_refresh, Dev.rd_page_refresh,
    Dev.rd_wrFld, if_pos rfl, Dev.wrFld, Dev.rd_page_wr _ _ (by decide)]
  exact ⟨rfl, Dev.rangeRun_setRange _ _ _, bitOf_setBit_same 1 true _ (by decide), hen⟩

end RangeGo

section RangeRead

variable {s : State} {g : EccPage} {r : RangeScrub} (hrun : s.dev.rangeRun (pageNo g) = some r)
include hrun

/-- A range scrub goes on to its next granule. -/
theorem runs_rangeRead_next (hmore : r.next + 1 < r.stop) : Runs (.scrubRangeRead g) s (fun t => ∃ f,
    t.rangeRun (pageNo g) = some ⟨r.next + 1, r.stop, f⟩ ∧ (f = r.found ∨ f = r.found + 1) ∧
    (s.dev.mem.isPoison (rangeAddr (pageNo g) r.next / 64) = true → f = r.found)) := by
  obtain ⟨t, f, hf, hp, htier, ht, hread⟩ := Dev.rangeRead_cases hrun
  exact runs_of_does (does_of_run (exec_scrubRangeRead s g) (hread.trans (if_neg (by omega)))) (congrArg TierSt.stall htier)
    ⟨f, ht, hf, hp⟩

/-- After its last granule a range scrub ends. -/
theorem runs_rangeRead_last (hlast : r.stop ≤ r.next + 1) : Runs (.scrubRangeRead g) s (fun t =>
    t.rangeRun (pageNo g) = none ∧ bitOf 1 (t.rd (pgReg (pageNo g) 0)) = false ∧
    (s.dev.mem.isPoison (rangeAddr (pageNo g) r.next / 64) = true →
      t.rd (pgReg (pageNo g) 0x70) = BitVec.ofNat 32 r.found)) := by
  obtain ⟨t, f, -, hp, htier, ht, hread⟩ := Dev.rangeRead_cases hrun
  obtain ⟨hnone, hbusy, hfound, hend⟩ := Dev.rangeEnd_ends ht
  refine runs_of_does (does_of_run (exec_scrubRangeRead s g) (hread.trans (if_pos hlast))) (congrArg TierSt.stall (hend.trans htier))
    ⟨hnone, ?_, fun hmark => ?_⟩
  · rw [Dev.rd_page_refresh, hbusy]
  · rw [Dev.rd_page_refresh, hfound, hp hmark]

end RangeRead

section PageCommands

variable {s : State} {o : Origin} {g : EccPage} {v : Word}

/-- The end of a window starts a new one. -/
theorem does_ceWindowExpire (h : s.dev.rdFld (pgReg (pageNo g) 0x44) 31 16 ≠ 0) :
    Does (.ceWindowExpire g) s (s.dev.ceWindow (pageNo g)) := does_of_run (exec_ceWindowExpire s g) (if_neg h)

theorem does_ceThreshWrite (h : Reaches s.dev o (pgReg (pageNo g) 0x44)) :
    Does (.ceThreshWrite o g v) s (s.dev.ceThresh (pageNo g) v) :=
  does_of_run (exec_ceThreshWrite s o g v) (rowWr_page_ceThresh g v h)

theorem does_injCtl (h : Reaches s.dev o (pgReg (pageNo g) 0xF8)) {t : Dev} (ht : s.dev.injCtl (srcOf o) (pageNo g) v = t) :
    Does (.injCtl o g v) s t := does_of_run (exec_injCtl s o g v) ((rowWr_page_injCtl g v h).trans ht)

end PageCommands

/-- Settles O26: the patrol and the range scrub by what their reads leave, the registers' commands by the rule of their register. -/
theorem scrubbersPatrolRangesAndInject : Obligations.ScrubbersPatrolRangesAndInject := by
  unfold Obligations.ScrubbersPatrolRangesAndInject
  refine ⟨fun s u sym sym2 n col bank => ?patrol, fun s o g v r x => ?page⟩
  case patrol =>
    exact ⟨fun hon hpos hp => ⟨runs_patrol_none hon hpos hp, runs_patrol_one hon hpos hp, runs_patrol_two hon hpos hp⟩,
      does_patrol_off, does_retain_again, fun h => ⟨fun _ => does_retain h, does_retain_deferred h⟩⟩
  case page =>
    intro pg span run count a inj
    exact ⟨fun hreach hopen => ⟨runs_rangeGo_starts hreach hopen, runs_rangeGo_empty hreach hopen, runs_rangeGo_running hreach⟩,
      runs_rangeRead_next, runs_rangeRead_last, does_ceWindowExpire, does_ceThreshWrite,
      fun ⟨hreach, hopen, ha⟩ hv => does_injCtl hreach (Dev.injCtl_mark hopen ha hv),
      fun ⟨hreach, hopen, ha⟩ hv hx => does_injCtl hreach (Dev.injCtl_damage hopen ha hv hx),
      fun hreach hlock => does_injCtl hreach (Dev.injCtl_locked hlock),
      fun hreach hopen ha => does_injCtl hreach (Dev.injCtl_outside hopen ha)⟩

end Sys2Proof.Proofs

/-! Proofs of the family 08_trowel_tensor_compression: the TROWEL commands on their slots (R202, R205 to R207), and when a table build
starts (R200). First the laws of the operations, then the obligations. -/

namespace Sys2Proof.Machine

/-! ### Commands on a slot (R202, R206, R207) -/

section SlotCommand

variable {d : Dev} {c : CmdRef} {x : Inflight} {op : Nat}

/-- The record of the slot that a TROWEL command names, and the device after it was read. -/
abbrev Dev.trwSlot (d : Dev) (x : Inflight) : SlotRec × Dev :=
  d.readSlot (trwSrc (d.trwHubEngine x.part)) x.part (x.opd 0 % 4096)

theorem Dev.trwCmd_of_dispatched (h : Sys2Proof.Safety.Dispatched d c x 7 op) : d.trwCmd c op = d.trwOp x := by
  obtain ⟨hcmd, hphase, hcls, hop⟩ := h
  exact Dev.work_eq d c x _ _ hcmd hphase (by simp [hphase, hcls, hop])

/-- With Trowel disabled before the command was dispatched it ends ABORTED. -/
theorem Dev.trwOp_off (h : d.trwOnFor x = false) : d.trwOp x = d.finish x (aborted 0x27 (trwSrc (d.trwHubEngine x.part))) := by
  simp [Dev.trwOp, h]

/-- While an engine holds blocks of its slot, the command works on and nothing else changes. -/
theorem Dev.trwOp_waits (h : d.trwOnFor x = true) (hold : d.trwHoldsSlot x.part (x.opd 0 % 4096) = true) :
    d.trwOp x = d.setCmd x.q x.i (fun y => { y with phase := .working }) := by
  simp [Dev.trwOp, h, hold]

theorem Dev.trwOp_free (h : d.trwOnFor x = true) (hold : d.trwHoldsSlot x.part (x.opd 0 % 4096) = false) :
    d.trwOp x = d.trwOpEnd x := by
  simp [Dev.trwOp, h, hold]

/-- A command that waited goes on as soon as no engine holds blocks of its slot. -/
theorem Dev.trwOpEffect_of_working (hcmd : d.cmd? c = some x) (hcls : x.cls = 7) (hop : x.op ≠ 5) (hphase : x.phase = .working) :
    d.work c (fun x => x.cls = 7 && x.op ≠ 5 && x.phase = .working) (fun x d =>
      if d.trwHoldsSlot x.part (x.opd 0 % 4096) then d else d.trwOpEnd x) =
    if d.trwHoldsSlot x.part (x.opd 0 % 4096) then d else d.trwOpEnd x := by
  simp [Dev.work, hcmd, hcls, hop, hphase]

/-! #### How an operation ends -/

theorem Dev.trwOpEnd_done {t : Dev} (h : d.trwOpDo x = ((none, none), t)) : d.trwOpEnd x = t.finish x Result.fresh := by
  simp [Dev.trwOpEnd, h]

theorem Dev.trwOpEnd_refused {t : Dev} {cause : Nat} {a : Option Nat} (h : d.trwOpDo x = ((some cause, a), t)) :
    d.trwOpEnd x = t.finish x (aborted cause (trwSrc (d.trwHubEngine x.part))) := by
  simp [Dev.trwOpEnd, h]

/-- An operation that answers a cause or none ends ABORTED with it, or DONE. -/
theorem Dev.trwOpEnd_checked {r : Option Nat × Dev} (h : d.trwOpDo x = ((r.1, none), r.2)) :
    (r.1 = none → d.trwOpEnd x = r.2.finish x Result.fresh) ∧
    ∀ e, r.1 = some e → d.trwOpEnd x = r.2.finish x (aborted e (trwSrc (d.trwHubEngine x.part))) :=
  ⟨fun hr => Dev.trwOpEnd_done (by rw [h, hr]), fun _ hr => Dev.trwOpEnd_refused (by rw [h, hr])⟩

/-! #### What each operation does -/

theorem Dev.trwOpDo_sinit (h : x.op = 0) :
    d.trwOpDo x = (let r := (d.trwSlot x).2.sinit x (d.trwHubEngine x.part) (x.opd 0 % 4096); ((r.1, none), r.2)) := by
  simp [Dev.trwOpDo, h]

theorem Dev.trwOpDo_free (h : x.op = 6) :
    d.trwOpDo x = ((none, none), (d.trwSlot x).2.slotOpen (trwSrc (d.trwHubEngine x.part)) x.part (x.opd 0 % 4096)
      (d.trwSlot x).1.isOpen false ((d.trwSlot x).1.fld 0 4 / 4 * 4)) := by
  simp [Dev.trwOpDo, h]

/-- Any other operation needs an OPEN slot. -/
theorem Dev.trwOpDo_closed (h0 : x.op ≠ 0) (h6 : x.op ≠ 6) (hs : (d.trwSlot x).1.isOpen = false) :
    d.trwOpDo x = ((some 0x27, none), (d.trwSlot x).2) := by
  simp [Dev.trwOpDo, h0, h6, hs]

section Open

variable (hs : (d.trwSlot x).1.isOpen = true)
include hs

theorem Dev.trwOpDo_open (h : x.op = 1) :
    d.trwOpDo x = ((none, none), ((d.trwSlot x).2.slotClear (trwSrc (d.trwHubEngine x.part)) x.part (x.opd 0 % 4096) x.epoch).slotOpen
      (trwSrc (d.trwHubEngine x.part)) x.part (x.opd 0 % 4096) true true ((d.trwSlot x).1.fld 0 4 / 4 * 4 + 1)) := by
  simp [Dev.trwOpDo, h, hs]

theorem Dev.trwOpDo_load (h : x.op = 2) :
    d.trwOpDo x = (let r := (d.trwSlot x).2.tblLoad x (d.trwHubEngine x.part) (x.opd 0 % 4096) (d.trwSlot x).1
      ((r.1, none), r.2)) := by
  simp [Dev.trwOpDo, h, hs]

/-- SAVE of tables whose write is not refused. -/
theorem Dev.trwOpDo_save (h : x.op = 3) (ht : (d.trwSlot x).1.tbl = true)
    (hw : ((d.trwSlot x).2.writeMem (x.acc (trwSrc (d.trwHubEngine x.part))) (x.opd 1) (clean (d.trwSlot x).1.image)).1 = none) :
    d.trwOpDo x = ((none, none),
      ((d.trwSlot x).2.writeMem (x.acc (trwSrc (d.trwHubEngine x.part))) (x.opd 1) (clean (d.trwSlot x).1.image)).2) := by
  simp [Dev.trwOpDo, h, hs, ht, hw]

/-- SAVE of a slot without tables. -/
theorem Dev.trwOpDo_save_none (h : x.op = 3) (ht : (d.trwSlot x).1.tbl = false) :
    d.trwOpDo x = ((some 0x27, none), (d.trwSlot x).2) := by
  simp [Dev.trwOpDo, h, hs, ht]

theorem Dev.trwOpDo_key (h : x.op = 4) (hn : (d.trwSlot x).1.fld 0x64 4 < 16) :
    d.trwOpDo x = ((none, none), ((d.trwSlot x).2.pokeSlot (trwSrc (d.trwHubEngine x.part)) x.part (x.opd 0 % 4096)
      (0x80 + 4 * (d.trwSlot x).1.fld 0x64 4) 4 ((d.trwSlot x).1.fld 0x60 4 + 1)).pokeSlot (trwSrc (d.trwHubEngine x.part)) x.part
      (x.opd 0 % 4096) 0x64 4 ((d.trwSlot x).1.fld 0x64 4 + 1)) := by
  simp [Dev.trwOpDo, h, hs, Nat.not_le.mpr hn]

/-- KEY with the list of 16 full. -/
theorem Dev.trwOpDo_key_full (h : x.op = 4) (hn : 16 ≤ (d.trwSlot x).1.fld 0x64 4) :
    d.trwOpDo x = ((some 0x27, none), (d.trwSlot x).2) := by
  simp [Dev.trwOpDo, h, hs, hn]

end Open

end SlotCommand

/-! ### CONVERT (R206) -/

section Convert

variable {d : Dev} {x : Inflight} {a b : Desc}

theorem Dev.moveCfg_convert (h : x.cls = 7) : d.moveCfg x =
    { src := trwSrc (d.trwHubEngine x.part), engine := d.trwHubEngine x.part, chunk := 4096, perm := permId, offs := [], equal := true,
      dma := false } := by
  simp [Dev.moveCfg, h]

theorem Dev.clsOk_none {on : Bool} {p : Nat} (h : a.cls = 0) : d.clsOk on p a = (true, d) := by
  simp [Dev.clsOk, h]

/-- An uncompressed source goes through no Trowel engine. -/
theorem Xfer.srcBlocks_none {y : Xfer} (h : y.src.cls = 0) : y.srcBlocks = [] := by
  simp [Xfer.srcBlocks, h]

/-- A CONVERT between two uncompressed tensors of one size that do not meet moves at once. -/
theorem Dev.moveBegin_convert {sa da : Nat} (hcls : x.cls = 7)
    (ha : (d.loadDesc (x.acc (trwSrc (d.trwHubEngine x.part))) sa).1 = some a)
    (hb : ((d.loadDesc (x.acc (trwSrc (d.trwHubEngine x.part))) sa).2.loadDesc (x.acc (trwSrc (d.trwHubEngine x.part))) da).1 = some b)
    (hac : a.cls = 0) (hbc : b.cls = 0) (hsize : a.size = b.size) (hmeet : descMeets x.epoch a b = false) :
    d.moveBegin x sa da = ((d.loadDesc (x.acc (trwSrc (d.trwHubEngine x.part))) sa).2.loadDesc
      (x.acc (trwSrc (d.trwHubEngine x.part))) da).2.moveRun x a b := by
  have hblocks (m : MoveCfg) : (m.xfer x a b).srcBlocks = [] := Xfer.srcBlocks_none hac
  simp [Dev.moveBegin, Dev.moveCfg_convert hcls, ha, hb, Dev.clsOk_none hac, Dev.clsOk_none hbc, hsize, hmeet, hblocks]

/-- The command of a move that has run stands ended. -/
theorem Dev.moveRun_ended {y : Inflight} (hy : y ∈ (d.moveRun x a b).queue.infl) (hq : y.q = x.q) (hi : y.i = x.i) :
    y.phase = .ended := by
  unfold Dev.moveRun at hy
  rw [Dev.dmaStat_queue] at hy
  exact (Dev.finish_ended hy hq hi).1

end Convert

end Sys2Proof.Machine

namespace Sys2Proof.Proofs
open Sys2Proof.Machine Sys2Proof.Safety

section TrowelArms

variable (c : CmdRef) (s : State)

theorem exec_trowelOpEffect : exec (.trowelOpEffect c) s =
    State.run (fun d => d.work c (fun x => x.cls = 7 && x.op ≠ 5 && x.phase = .working) (fun x d =>
      if d.trwHoldsSlot x.part (x.opd 0 % 4096) then d else d.trwOpEnd x)) s := rfl

theorem exec_convert : exec (.convert c) s =
    State.run (fun d => d.work c (fun x => x.cls = 7 && x.op = 5 && x.phase = .dispatched) (fun x d =>
      if !d.trwOnFor x then d.finish x (aborted 0x27 (trwSrc (d.trwHubEngine x.part)))
      else d.moveBegin x (x.opd 1) (x.opd 2))) s := rfl

variable {c s}

theorem exec_trowelCommand {op : Nat} {i : Instr} (h : (op, i) ∈
    [(0, Instr.sinit c), (1, .trowelOpen c), (2, .trowelLoad c), (3, .save c), (4, .trowelKey c), (6, .trowelFree c)]) :
    exec i s = State.run (fun d => d.trwCmd c op) s := by
  simp only [List.mem_cons, Prod.mk.injEq, List.not_mem_nil, or_false] at h
  obtain ⟨rfl, rfl⟩ | ⟨rfl, rfl⟩ | ⟨rfl, rfl⟩ | ⟨rfl, rfl⟩ | ⟨rfl, rfl⟩ | ⟨rfl, rfl⟩ := h <;> rfl

theorem does_trowelOpEffect {x : Inflight} {u : Dev} (hcmd : s.dev.cmd? c = some x) (hcls : x.cls = 7) (hop : x.op ≠ 5)
    (hphase : x.phase = .working)
    (hu : (if s.dev.trwHoldsSlot x.part (x.opd 0 % 4096) then s.dev else s.dev.trwOpEnd x) = u) : Does (.trowelOpEffect c) s u :=
  does_of_run (exec_trowelOpEffect c s) ((Dev.trwOpEffect_of_working hcmd hcls hop hphase).trans hu)

theorem does_convert {x : Inflight} {u : Dev} (h : Dispatched s.dev c x 7 5)
    (hu : (if !s.dev.trwOnFor x then s.dev.finish x (aborted 0x27 (trwSrc (s.dev.trwHubEngine x.part)))
      else s.dev.moveBegin x (x.opd 1) (x.opd 2)) = u) : Does (.convert c) s u := by
  obtain ⟨hcmd, hphase, hcls, hop⟩ := h
  exact does_of_run (exec_convert c s) ((Dev.work_eq _ c x _ _ hcmd hphase (by simp [hphase, hcls, hop])).trans hu)

end TrowelArms

/-- Settles O27: a command is turned away, waits, or ends as its operation on the slot's record does; a CONVERT is a move. -/
theorem trowelCommandsWorkOnTheirSlots : Obligations.TrowelCommandsWorkOnTheirSlots := by
  unfold Obligations.TrowelCommandsWorkOnTheirSlots
  intro s c x op i a b p src slot r n ok no free init load save d1 d2
  refine ⟨fun hi h => ?slot, fun hcmd hcls h5 hphase => ?effect, fun h hon => ?off, fun h hon ha hb hac hbc hsize hmeet => ?convert⟩
  case slot =>
    have hrun {u : Dev} (hu : s.dev.trwOp x = u) : Does i s u :=
      does_of_run (exec_trowelCommand hi) ((Dev.trwCmd_of_dispatched h).trans hu)
    have hend {u : Dev} (hf : free) (hu : s.dev.trwOpEnd x = u) : Does i s u := hrun ((Dev.trwOp_free hf.1 hf.2).trans hu)
    obtain ⟨-, -, -, rfl⟩ := h
    refine ⟨fun hon => hrun (Dev.trwOp_off hon), fun hon hold => hrun (Dev.trwOp_waits hon hold),
      fun hf hs h0 h6 => hend hf (Dev.trwOpEnd_refused (Dev.trwOpDo_closed h0 h6 hs)), fun hf h0 => ?sinit,
      fun hf h6 => hend hf (Dev.trwOpEnd_done (Dev.trwOpDo_free h6)), fun hf hs => ⟨fun h1 => ?open_, fun h2 => ?load, fun h3 ht => ?empty,
      fun h3 ht hw => ?save, fun h4 hn => ?full, fun h4 hn => ?key⟩⟩
    case sinit =>
      obtain ⟨hdone, hno⟩ := Dev.trwOpEnd_checked (Dev.trwOpDo_sinit h0)
      exact ⟨fun hr => hend hf (hdone hr), fun e hr => hend hf (hno e hr)⟩
    case open_ => exact hend hf (Dev.trwOpEnd_done (Dev.trwOpDo_open hs h1))
    case load =>
      obtain ⟨hdone, hno⟩ := Dev.trwOpEnd_checked (Dev.trwOpDo_load hs h2)
      exact ⟨fun hr => hend hf (hdone hr), fun e hr => hend hf (hno e hr)⟩
    case empty => exact hend hf (Dev.trwOpEnd_refused (Dev.trwOpDo_save_none hs h3 ht))
    case save => exact hend hf (Dev.trwOpEnd_done (Dev.trwOpDo_save hs h3 ht hw))
    case full => exact hend hf (Dev.trwOpEnd_refused (Dev.trwOpDo_key_full hs h4 hn))
    case key => exact hend hf (Dev.trwOpEnd_done (Dev.trwOpDo_key hs h4 hn))
  case effect =>
    exact ⟨fun hold => does_trowelOpEffect hcmd hcls h5 hphase (if_pos hold), fun hold h6 =>
      does_trowelOpEffect hcmd hcls h5 hphase ((if_neg (ne_true_of_eq_false hold)).trans (Dev.trwOpEnd_done (Dev.trwOpDo_free h6)))⟩
  case off => exact does_convert h (if_pos (by rw [hon]; rfl))
  case convert =>
    have ⟨_, _, hcls, _⟩ := h
    exact ⟨does_convert h ((if_neg (by rw [hon]; decide)).trans (Dev.moveBegin_convert hcls ha hb hac hbc hsize hmeet)),
      fun y hy hq hi => Dev.moveRun_ended hy hq hi⟩

end Sys2Proof.Proofs

namespace Sys2Proof.Machine

/-! ### The start of a table build (R200) -/

section BuildStart

variable {d : Dev} {e : Nat} {b : TrwBuild} {j : TrwJob} {l : List TrwJob}

/-- Engine `e` starts build `b`: STATE of its slot shows it. -/
def Dev.buildMarked (d : Dev) (e : Nat) (b : TrwBuild) : Dev :=
  let z := d.readSlot (trwSrc e) b.part b.slot
  (z.2.pokeSlot (trwSrc e) b.part b.slot 0 4 (z.1.fld 0 4 ||| 16)).setTrwBuild e (some { b with started := true })

/-- A build starts when its sample is full by TRW_PCTL as it stands before the slot's record is read. -/
theorem Dev.buildStart_of_gathering (hb : d.trwBuild e = some b) (hs : b.started = false) (hl : b.sample = j :: l) :
    d.buildStart e true =
      if b.sample.length < d.sampleSize b.part j.desc (d.readSlot (trwSrc e) b.part b.slot).1.bpf then d else d.buildMarked e b := by
  simp [Dev.buildStart, Dev.buildMarked, hb, hs, hl]

/-- For one of the eight partitions S is the same after a slot's record has been read: no access changes its TRW_PCTL. -/
theorem Dev.sampleSize_readSlot {p : Nat} (hp : p < 8) (src slot : Nat) (t : Desc) (n : Nat) :
    (d.readSlot src p slot).2.sampleSize p t n = d.sampleSize p t n := by
  have hkeep : MemOnly d (d.readSlot src p slot).2 := memOnly_readMem (by rintro q ⟨⟩; exact hp) d _ _
  have hctl := hkeep.rd (rTrwPctl p) (by unfold memReg rTrwPctl; simp; omega)
  rw [Dev.sampleSize, Dev.sampleSize, Dev.rdFld, Dev.rdFld, hctl]

end BuildStart

end Sys2Proof.Machine

namespace Sys2Proof.Proofs
open Sys2Proof.Machine Sys2Proof.Safety

theorem exec_tableBuildStart (e : Fin 10) (s : State) :
    exec (.tableBuildStart e) s = State.run (fun d => d.buildStart e.val true) s := rfl

/-- R200 for a slot of one of the eight partitions: the build starts exactly when its sample is full. -/
theorem does_tableBuildStart {s : State} {e : Fin 10} {b : TrwBuild} {j : TrwJob} {l : List TrwJob} (hp : b.part < 8)
    (hb : s.dev.trwBuild e = some b) (hs : b.started = false) (hl : b.sample = j :: l) :
    let z := s.dev.readSlot (trwSrc e) b.part b.slot
    (z.2.sampleSize b.part j.desc z.1.bpf ≤ b.sample.length → Does (.tableBuildStart e) s (s.dev.buildMarked e b)) ∧
    (b.sample.length < z.2.sampleSize b.part j.desc z.1.bpf → Does (.tableBuildStart e) s s.dev) := by
  intro z
  rw [Dev.sampleSize_readSlot hp]
  have hstart := Dev.buildStart_of_gathering hb hs hl
  exact ⟨fun hn => does_of_run (exec_tableBuildStart e s) (hstart.trans (if_neg (Nat.not_lt.mpr hn))),
    fun hn => does_of_run (exec_tableBuildStart e s) (hstart.trans (if_pos hn))⟩

/-! ### A build of a partition that does not exist

TRW_PCTL of partition 0xA400 would lie where FLW_STATUS lies, and a read that is refused is recorded in Flowstone. -/

/-- A block of a tensor of 65 blocks, to be coded for slot 0 of partition 0xA400. -/
def strayBlock : TrwJob :=
  { req := .stage 0, src := 0, part := 0xA400, slot := 0,
    desc := { fmt := .fp32, rank := 1, region := 1, cls := 1, delta := false, eb := 0, rnd := 0, chdim := 0, sat := false, pad := 0,
              base := 0, tslot := 0, pmask := 0, size := [65 * 256, 1, 1, 1, 1, 1], stride := [1, 0, 0, 0, 0, 0], mask := [] },
    blk := 0, enc := true, vals := [], build := true }

/-- A build that has gathered that block. -/
def strayBuild : TrwBuild := { part := 0xA400, slot := 0, sample := [strayBlock], started := false }

/-- Engine 0 gathers it; Flowstone records refused accesses, and bits 7:4 of FLW_STATUS hold 10. -/
def strayState : State :=
  ⟨{ (Dev.reset.wr rFlwTrigEn 0x80).wr rFlwStatus 0xA0 with trw := { Dev.reset.trw with builds := [(0, some strayBuild)] } }, []⟩

/-- Refutes O28: the statement takes S of R200 after the slot's record has been read, and the model before. The statement's build may
name a partition that does not exist; for partition 0xA400 the refused read of the record changes the word at its TRW_PCTL, which is
FLW_STATUS, so that S is 65 afterwards, where the model finds the sample of one block full and starts the build. For the eight
partitions the clause holds (`does_tableBuildStart`). -/
theorem not_trowelEnginesCodeDecodeAndBuild : ¬ Obligations.TrowelEnginesCodeDecodeAndBuild := by
  unfold Obligations.TrowelEnginesCodeDecodeAndBuild
  intro h
  obtain ⟨-, -, hbuild, -⟩ := h strayState 0 strayBlock [] strayBuild
  obtain ⟨-, hwaits, -⟩ := hbuild rfl rfl rfl
  have hnothing : Does (.tableBuildStart 0) strayState strayState.dev := hwaits (by decide)
  have hstarts : Does (.tableBuildStart 0) strayState (strayState.dev.buildStart 0 true) :=
    does_of_run (exec_tableBuildStart 0 strayState) rfl
  have heq := does_refresh_unique hnothing hstarts rfl (by decide)
  have hgathers : strayState.dev.refresh.trwBuild 0 = some strayBuild := rfl
  have hstarted : (strayState.dev.buildStart 0 true).refresh.trwBuild 0 = some { strayBuild with started := true } := by decide
  rw [← heq, hgathers] at hstarted
  exact absurd hstarted (by decide)

end Sys2Proof.Proofs

namespace Sys2Proof.Machine

/-! ### What accesses to physical memory leave of the tiers

`MemOnly` (Laws/Access.lean) counts the registers of the Tier managers among those that an access may change, since an access to a
managed page may move pages. One to physical memory moves none, and reaches none of those registers. -/

/-- The registers that an access to physical memory or the coding of a chunk may change: GAL, HBM, TRW and FLW. -/
def physReg (off : Nat) : Prop :=
  (0x5000000 ≤ off ∧ off < 0x7000000) ∨ (0x8000000 ≤ off ∧ off < 0x9000000) ∨ (0x13000000 ≤ off ∧ off < 0x14000000)

/-- From `d` to `t` no page moves, and of the registers only those may change. -/
structure PhysOnly (d t : Dev) : Prop where
  tier : t.tier = d.tier
  rd : ∀ off, ¬physReg off → t.rd off = d.rd off

theorem PhysOnly.refl (d : Dev) : PhysOnly d d := ⟨rfl, fun _ _ => rfl⟩

theorem PhysOnly.trans {a b c : Dev} (h : PhysOnly a b) (k : PhysOnly b c) : PhysOnly a c :=
  ⟨k.tier.trans h.tier, fun off ho => (k.rd off ho).trans (h.rd off ho)⟩

/-- A change of neither registers nor pages. -/
theorem physOnly_of_regs {d t : Dev} (hr : t.regs = d.regs) (ht : t.tier = d.tier) : PhysOnly d t :=
  ⟨ht, fun off _ => congrArg (sget resetOf · off) hr⟩

theorem physOnly_rcd (d : Dev) (r : RecSt) : PhysOnly d { d with rcd := r } := physOnly_of_regs rfl rfl

theorem physOnly_mem (d : Dev) (m : MemSt) : PhysOnly d { d with mem := m } := physOnly_of_regs rfl rfl

theorem physOnly_foldl {α : Type} (f : Dev → α → Dev) (h : ∀ d a, PhysOnly d (f d a)) (l : List α) (d : Dev) : PhysOnly d (l.foldl f d) :=
  foldl_rel PhysOnly PhysOnly.refl (fun _ _ _ => PhysOnly.trans) f h l d

theorem physOnly_each {α : Type} (d : Dev) (l : List α) (f : Dev → α → Dev) (h : ∀ d a, PhysOnly d (f d a)) : PhysOnly d (d.each l f) :=
  physOnly_foldl f h l d

/-- The same for a fold that carries a value beside the device. -/
theorem physOnly_fold {α γ : Type} (l : List α) (f : γ × Dev → α → γ × Dev) (h : ∀ r a, PhysOnly r.2 (f r a).2) (r : γ × Dev) :
    PhysOnly r.2 (l.foldl f r).2 :=
  foldl_rel (fun a b => PhysOnly a.2 b.2) (fun _ => PhysOnly.refl _) (fun _ _ _ => PhysOnly.trans) f h l r

theorem physOnly_wr {off : Nat} (h : physReg off) (d : Dev) (v : Word) : PhysOnly d (d.wr off v) :=
  ⟨rfl, fun _ hk => d.rd_wr_ne v (by rintro rfl; exact hk h)⟩

theorem physOnly_wr64 {off : Nat} (h : physReg off) (h4 : physReg (off + 4)) (d : Dev) (v : Nat) : PhysOnly d (d.wr64 off v) :=
  (physOnly_wr h d _).trans (physOnly_wr h4 _ _)

theorem physOnly_add64 {off : Nat} (h : physReg off) (h4 : physReg (off + 4)) (d : Dev) (n : Nat) : PhysOnly d (d.add64 off n) := by
  unfold Dev.add64
  split
  · exact .refl d
  · exact physOnly_wr64 h h4 d _

theorem physOnly_addSat {off : Nat} (h : physReg off) (d : Dev) (n : Nat) : PhysOnly d (d.addSat off n) := by
  unfold Dev.addSat
  split
  · exact .refl d
  · exact physOnly_wr h d _

theorem physOnly_flwWith (d : Dev) (l : List Word) (a b c e : Nat) : PhysOnly d (d.flwWith l a b c e) := by
  have hflw (off : Nat) (h : 0x13000000 ≤ off := by decide) (h2 : off < 0x14000000 := by decide) : physReg off := .inr (.inr ⟨h, h2⟩)
  unfold Dev.flwWith
  split
  · exact .refl d
  · split
    · exact (physOnly_addSat (hflw rFlwDrop) d 1).trans (physOnly_of_regs rfl rfl)
    · dsimp only
      exact ((physOnly_rcd d _).trans (physOnly_wr (hflw rFlwSeq) _ _)).trans (physOnly_wr (hflw rFlwStatus) _ _)

theorem physOnly_ledger (d : Dev) (a b c e : Nat) (w : Word) : PhysOnly d (d.ledger a b c e w) := by
  rw [Dev.ledger_eq]
  exact physOnly_of_regs rfl rfl

/-! #### Granules -/

theorem physOnly_ueLedger (d : Dev) (pg src a : Nat) : PhysOnly d (d.ueLedger pg src a) := by
  refine PhysOnly.trans ?_ (physOnly_ledger _ _ _ _ _ _)
  unfold Dev.ueSeen
  split
  · exact physOnly_of_regs rfl rfl
  · exact .refl d

/-- The record of an event, and its ledger record. -/
theorem physOnly_recorded (d : Dev) (pg code s a : Nat) : PhysOnly d ((d.memFlw pg code s).ueLedger pg s a) :=
  (physOnly_flwWith _ _ _ _ _ _).trans (physOnly_ueLedger _ _ _ _)

section Page

variable {pg : Nat} (h : pg < 20)
include h

theorem physReg_page {off : Nat} (ho : off < 0x100000) : physReg (pgReg pg off) := by
  unfold physReg pgReg
  split <;> omega

theorem physOnly_page {off : Nat} (ho : off < 0x100000) (d : Dev) (v : Word) : PhysOnly d (d.wr (pgReg pg off) v) :=
  physOnly_wr (physReg_page h ho) d v

theorem physOnly_memErr (d : Dev) (b s y k a : Nat) : PhysOnly d (d.memErr pg b s y k a) := by
  have hset := physOnly_page h (off := 0x10) (by decide) d (setBit b true (d.rd (pgReg pg 0x10)))
  have hinfo (t : Dev) (v : Nat) : PhysOnly t ((t.wr64 (pgReg pg 0x18) a).wr (pgReg pg 0x20) (BitVec.ofNat 32 v)) :=
    (physOnly_wr64 (physReg_page h (by decide)) (by rw [pgReg_add]; exact physReg_page h (by decide)) t a).trans
      (physOnly_page h (by decide) _ _)
  obtain he | he := d.raise_cases (pgReg pg 0x10) b _ <;> rw [Dev.memErr, he]
  · refine hset.trans ?_
    dsimp only
    split
    · exact hinfo _ _
    · exact (hinfo _ _).trans ((physOnly_page h (by decide) _ _).trans (physOnly_page h (by decide) _ _))
  · exact hset

/-- An event of a page: its bit and its count. -/
theorem physOnly_event {off : Nat} (ho : off < 0x100000) (d : Dev) (b s y k a : Nat) :
    PhysOnly d ((d.memErr pg b s y k a).addSat (pgReg pg off) 1) :=
  (physOnly_memErr h d b s y k a).trans (physOnly_addSat (physReg_page h ho) _ 1)

theorem physOnly_memCe (d : Dev) (s y a : Nat) : PhysOnly d (d.memCe pg s y a) := by
  unfold Dev.memCe
  extract_lets d1 w n m d2
  have h1 : PhysOnly d d1 := physOnly_event h (by decide) d 0 s y 0 a
  have h2 : PhysOnly d d2 := h1.trans (physOnly_of_regs rfl rfl)
  split
  · exact h1
  · split
    · exact h2.trans (((physOnly_memErr h _ _ _ _ _ _).trans (physOnly_flwWith _ _ _ _ _ _)).trans (physOnly_ledger _ _ _ _ _ _))
    · exact h2

end Page

theorem physOnly_found (d : Dev) (a : Nat) : PhysOnly d (d.found a).2 := by
  refine ⟨d.tier_found a, ?_⟩
  unfold Dev.found
  dsimp only
  split
  · split <;> exact fun _ _ => rfl
  · split
    · split
      · exact fun _ _ => rfl
      · split <;> exact fun _ _ => rfl
    · dsimp only
      split
      · next hp => exact (physOnly_addSat (physReg_page (errPage_lt hp) (by decide)) d 1).rd
      · exact fun _ _ => rfl
    · exact fun _ _ => rfl

theorem physOnly_corrected (d : Dev) (src sym a : Nat) : PhysOnly d (d.corrected src sym a) := by
  unfold Dev.corrected
  split
  · next hp => exact physOnly_memCe (errPage_lt hp) _ _ _ _
  · exact .refl d

theorem physOnly_uncorrectable (d : Dev) (src a : Nat) : PhysOnly d (d.uncorrectable src false a) := by
  unfold Dev.uncorrectable
  split
  · next hp => exact (physOnly_event (errPage_lt hp) (by decide) d _ _ _ _ _).trans (physOnly_recorded _ _ _ _ _)
  · split
    · exact physOnly_flwWith _ _ _ _ _ _
    · exact .refl d

theorem physOnly_partPoisoned (d : Dev) (src a : Nat) : PhysOnly d (d.partPoisoned src a) := by
  unfold Dev.partPoisoned
  split
  · next hp => exact (physOnly_event (errPage_lt hp) (by decide) d _ _ _ _ _).trans (physOnly_recorded _ _ _ _ _)
  · split
    · exact physOnly_flwWith _ _ _ _ _ _
    · exact .refl d

theorem physOnly_poisonRead (d : Dev) (src a : Nat) : PhysOnly d (d.poisonRead src false a) := by
  unfold Dev.poisonRead
  split
  · next hp => exact physOnly_event (errPage_lt hp) (by decide) d _ _ _ _ _
  · exact .refl d

theorem physOnly_readGran (d : Dev) (src a : Nat) : PhysOnly d (d.readGran src false a).2 := by
  have hf := physOnly_found d a
  unfold Dev.readGran
  dsimp only
  split
  · exact physOnly_poisonRead _ _ _
  · split
    · exact hf
    · exact hf.trans ((physOnly_mem _ _).trans (physOnly_corrected _ _ _ _))
    · refine hf.trans (PhysOnly.trans ?_ (physOnly_uncorrectable _ _ _))
      split
      · exact .refl _
      · exact physOnly_mem _ _

theorem physOnly_writeGran (d : Dev) (src a : Nat) (bs : List Byte) (mark : Bool) : PhysOnly d (d.writeGran src a bs mark) := by
  have hf := physOnly_found d (a / 64 * 64)
  unfold Dev.writeGran Dev.rmwGran
  dsimp only
  split
  · exact physOnly_mem _ _
  · split
    · exact physOnly_mem _ _
    · split
      · exact hf.trans (physOnly_mem _ _)
      · exact hf.trans ((physOnly_mem _ _).trans (physOnly_corrected _ _ _ _))
      · exact hf.trans ((physOnly_mem _ _).trans (physOnly_partPoisoned _ _ _))

/-! #### Ranges -/

theorem physOnly_charge (d : Dev) (a n : Nat) (wr : Bool) : PhysOnly d (d.charge a n wr) := by
  have hone (d : Dev) {s : Nat} (hs : s < 12) (k : Nat) : PhysOnly d (d.add64 (rHbmChargedLo s) k) := by
    refine physOnly_add64 ?_ ?_ d k <;> unfold physReg rHbmChargedLo <;> omega
  have hst (d : Dev) (x k : Nat) : PhysOnly d (d.add64 (rHbmChargedLo (hbmPc x / 64)) k) :=
    hone d (by have := hbmPc_lt x; omega) k
  have hall (g : Nat → Nat) : PhysOnly d (d.each (List.range 12) fun d s => d.add64 (rHbmChargedLo s) (g s)) :=
    List.foldlRecOn _ _ (PhysOnly.refl d) fun _ ht s hs => ht.trans (hone _ (List.mem_range.mp hs) _)
  have hpart (l : List (Nat × Nat)) (t : Dev) : PhysOnly t (t.each l fun d e => d.add64 (rHbmChargedLo (hbmPc e.1 / 64)) 768) :=
    physOnly_each t l _ fun d e => hst d e.1 768
  unfold Dev.charge
  split
  · exact .refl d
  · split
    · exact ((hall _).trans (hst _ _ _)).trans (hpart _ _)
    · exact (hall _).trans (hst _ _ _)

/-- Bytes of a piece counted, and its bank woken. -/
theorem physOnly_counted (d : Dev) {reg : Nat} (h : reg + 4 < 0x100000) (a n : Nat) :
    PhysOnly d ((d.wakeBank a).countBytes reg a n) := by
  have hwake : PhysOnly d (d.wakeBank a) := by
    unfold Dev.wakeBank Dev.requestWake
    dsimp only
    repeat' split
    all_goals exact physOnly_of_regs rfl rfl
  refine hwake.trans ?_
  unfold Dev.countBytes
  split
  · next hp =>
    exact physOnly_add64 (physReg_page (errPage_lt hp) (by omega)) (by rw [pgReg_add]; exact physReg_page (errPage_lt hp) h) _ n
  · exact .refl _

theorem physOnly_readPhys (d : Dev) (src a n : Nat) : PhysOnly d (d.readPhys src a n).2 := by
  unfold Dev.readPhys
  refine (physOnly_charge d a n false).trans (physOnly_fold _ _ (fun r e => ?_) (([] : Marked), d.charge a n false))
  exact (physOnly_counted r.2 (by decide) _ _).trans (physOnly_readGran _ _ _)

theorem physOnly_writePhys (d : Dev) (src a : Nat) (bs : Marked) : PhysOnly d (d.writePhys src a bs) := by
  have hresv (t : Dev) : PhysOnly t (t.breakResv a bs.length) := by
    unfold Dev.breakResv
    dsimp only
    split <;> exact physOnly_of_regs rfl rfl
  unfold Dev.writePhys
  refine ((physOnly_charge d a _ true).trans (hresv _)).trans (physOnly_foldl _ (fun t e => ?_) _ _)
  exact (physOnly_counted t (by decide) _ _).trans (physOnly_writeGran _ _ _ _ _)

theorem physOnly_chunkCount (d : Dev) (n len : Nat) : PhysOnly d (d.chunkCount n len) := by
  have hcount (t : Dev) (off k : Nat) (h : off = rTrwInBytesLo (8 + n % 2) ∨ off = rTrwOutBytesLo (8 + n % 2)) :
      PhysOnly t (t.add64 off k) := by
    have hn := Nat.mod_lt n (show 2 > 0 by decide)
    refine physOnly_add64 ?_ ?_ t k <;> (unfold physReg; unfold rTrwInBytesLo rTrwOutBytesLo at h; omega)
  exact (hcount _ _ _ (.inl rfl)).trans (hcount _ _ _ (.inr rfl))

theorem physOnly_extChunk (d : Dev) (n c : Nat) : PhysOnly d (d.extChunk n c).2 := by
  unfold Dev.extChunk
  extract_lets r e l k len off b bad
  have he : PhysOnly d e.2 := physOnly_readPhys _ _ _ _
  split
  · exact he
  · exact he.trans (physOnly_readPhys _ _ _ _)

theorem physOnly_pageChunks (d : Dev) (n : Nat) : PhysOnly d (d.pageChunks n).2 := by
  unfold Dev.pageChunks
  refine physOnly_fold _ _ (fun r c => ?_) (([] : List Chunk), d)
  have hf : PhysOnly r.2 (r.2.frameChunk n c).2 := physOnly_readPhys _ _ _ _
  dsimp only
  split
  · exact physOnly_extChunk _ _ _
  · dsimp only
    split
    · exact hf.trans (physOnly_chunkCount _ _ _)
    · exact hf

/-! ### What the moves of pages leave (R215, R220) -/

theorem Dev.page_setPage (d : Dev) (n m : Nat) (r : PageRec) : (d.setPage n r).page m = if m = n then r else d.page m :=
  sget_sset _ _ _ _ _

theorem Dev.page_of_tier {d t : Dev} (h : t.tier = d.tier) (n : Nat) : t.page n = d.page n :=
  congrArg (fun s : TierSt => sget (fun _ => PageRec.blank) s.pages n) h

/-- A page's record apart from where its extent stands, which compaction changes at any time. -/
def PageRec.fixed (r : PageRec) : PageRec := { r with ext := 0 }

theorem PageRec.hasFrame_congr {r q : PageRec} (h : r.fixed = q.fixed) : r.hasFrame = q.hasFrame :=
  show r.fixed.hasFrame = q.fixed.hasFrame from congrArg PageRec.hasFrame h

theorem PageRec.kept_of_fixed {r q : PageRec} (h : r.fixed = q.fixed) : r.pin = q.pin ∧ r.gen = q.gen ∧ r.frame = q.frame :=
  ⟨show r.fixed.pin = q.fixed.pin from congrArg PageRec.pin h, show r.fixed.gen = q.fixed.gen from congrArg PageRec.gen h,
    show r.fixed.frame = q.fixed.frame from congrArg PageRec.frame h⟩

/-- From `d` to `t` extents have moved, and nothing else of the pages has changed. -/
structure ExtentsMoved (d t : Dev) : Prop where
  stall : t.tier.stall = d.tier.stall
  page : ∀ n, (t.page n).fixed = (d.page n).fixed
  rd : ∀ off, ¬physReg off → t.rd off = d.rd off

theorem PhysOnly.extentsMoved {d t : Dev} (h : PhysOnly d t) : ExtentsMoved d t :=
  ⟨congrArg TierSt.stall h.tier, fun n => congrArg PageRec.fixed (Dev.page_of_tier h.tier n), h.rd⟩

theorem ExtentsMoved.refl (d : Dev) : ExtentsMoved d d := (PhysOnly.refl d).extentsMoved

theorem ExtentsMoved.trans {a b c : Dev} (h : ExtentsMoved a b) (k : ExtentsMoved b c) : ExtentsMoved a c :=
  ⟨k.stall.trans h.stall, fun n => (k.page n).trans (h.page n), fun off ho => (k.rd off ho).trans (h.rd off ho)⟩

/-- A copied extent is all that compaction of one page changes. -/
theorem Dev.moveExtent_eq {d : Dev} {n : Nat} (h : (d.page n).hasExt = true) (a : Nat) :
    ∃ t, PhysOnly d t ∧ d.moveExtent n a = t.setPage n { d.page n with ext := a } :=
  ⟨_, (physOnly_readPhys _ _ _ _).trans (physOnly_writePhys _ _ _ _), if_pos h⟩

theorem extentsMoved_moveExtent (d : Dev) (n a : Nat) : ExtentsMoved d (d.moveExtent n a) := by
  cases h : (d.page n).hasExt with
  | false => rw [Dev.moveExtent, if_neg (by simp [h])]; exact .refl d
  | true =>
    obtain ⟨t, ht, he⟩ := Dev.moveExtent_eq h a
    rw [he]
    refine ht.extentsMoved.trans ⟨rfl, fun m => ?_, fun _ _ => rfl⟩
    rw [Dev.page_setPage]
    split
    · next hm => rw [hm, Dev.page_of_tier ht.tier]; rfl
    · rfl

theorem extentsMoved_compactPool (d : Dev) (p : Nat) : ExtentsMoved d (d.compactPool p) := by
  unfold Dev.compactPool
  refine foldl_rel (fun a b : Dev × Nat => ExtentsMoved a.1 b.1) (fun _ => .refl _) (fun _ _ _ => ExtentsMoved.trans) _ (fun r e => ?_) _
    (d, d.rd64 (rSmpT2poolLo p))
  dsimp only
  split
  · exact .refl _
  · exact extentsMoved_moveExtent _ _ _

theorem extentsMoved_takeExtent (d : Dev) (p n : Nat) : ExtentsMoved d (d.takeExtent p n).2 := by
  unfold Dev.takeExtent
  dsimp only
  split
  · exact .refl d
  · split
    · exact .refl d
    · exact extentsMoved_compactPool d p

/-- A write-back stores the page in an extent and counts; other extents may have moved to make room. -/
theorem Dev.writeBackPage_some {d e : Dev} {n : Nat} (h : d.writeBackPage n = some e) :
    (d.page n).hasFrame = true ∧ ∃ t a k, ExtentsMoved d t ∧
      e = (t.setPage n { t.page n with state := .both, dirty := 0, ext := a, sectors := k }).add64 rSmpWritebackLo 1 := by
  unfold Dev.writeBackPage at h
  dsimp only at h
  split at h
  · cases h
  · next hframe =>
    have hmove := extentsMoved_takeExtent (d.pageChunks n).2 (d.page n).part ((streamOf (d.pageChunks n).1).length / 4096)
    split at h
    · cases h
    · next he =>
      rw [he] at hmove
      cases h
      exact ⟨by simpa using hframe, _, _, _,
        ((physOnly_pageChunks d n).extentsMoved.trans hmove).trans (physOnly_writePhys _ _ _ _).extentsMoved, rfl⟩

theorem Dev.page_add64 (d : Dev) (off k n : Nat) : (d.add64 off k).page n = d.page n := Dev.page_of_tier (Dev.tier_add64 _ _ _) n

/-- From `d` to `t` pages with a frame have been evicted: a page without one keeps its record but for its extent, and quotas and pools
stay. -/
structure Evicted (d t : Dev) : Prop where
  stall : t.tier.stall = d.tier.stall
  page : ∀ n, (d.page n).hasFrame = false → (t.page n).fixed = (d.page n).fixed
  rd : ∀ off, 0x7000100 ≤ off → off < 0x8000000 → t.rd off = d.rd off

theorem Evicted.refl (d : Dev) : Evicted d d := ⟨rfl, fun _ _ => rfl, fun _ _ _ => rfl⟩

theorem Evicted.trans {a b c : Dev} (h : Evicted a b) (k : Evicted b c) : Evicted a c := by
  refine ⟨k.stall.trans h.stall, fun n hn => ?_, fun off hlo hhi => (k.rd off hlo hhi).trans (h.rd off hlo hhi)⟩
  have hab := h.page n hn
  exact (k.page n ((PageRec.hasFrame_congr hab).trans hn)).trans hab

/-- A change of the record of a page with a frame. -/
theorem evicted_setPage {d : Dev} {n : Nat} (h : (d.page n).hasFrame = true) (r : PageRec) : Evicted d (d.setPage n r) := by
  refine ⟨rfl, fun m hm => ?_, fun _ _ _ => rfl⟩
  rw [Dev.page_setPage, if_neg (by rintro rfl; simp [h] at hm)]

theorem evicted_dropPage (d : Dev) (n : Nat) : Evicted d (d.dropPage n) := by
  unfold Dev.dropPage
  dsimp only
  split
  · next h =>
    simp only [Bool.and_eq_true, decide_eq_true_eq] at h
    exact evicted_setPage (by simp [PageRec.hasFrame, h.1.2]) _
  · exact .refl d

theorem ExtentsMoved.evicted {d t : Dev} (h : ExtentsMoved d t) : Evicted d t :=
  ⟨h.stall, fun n _ => h.page n, fun off hlo hhi => h.rd off (by unfold physReg; omega)⟩

theorem evicted_writeBackPage {d e : Dev} {n : Nat} (h : d.writeBackPage n = some e) : Evicted d e := by
  obtain ⟨hframe, t, a, k, ht, rfl⟩ := Dev.writeBackPage_some h
  have hset := evicted_setPage ((PageRec.hasFrame_congr (ht.page n)).trans hframe)
    { t.page n with state := .both, dirty := 0, ext := a, sectors := k }
  refine (ht.evicted.trans hset).trans ⟨rfl, fun _ _ => rfl, fun off hlo _ => ?_⟩
  exact (Dev.rd_wr64 _ _ _ _).trans ((if_neg (by unfold rSmpWritebackLo; omega)).trans (if_neg (by unfold rSmpWritebackLo; omega)))

theorem evicted_demotePage {d t : Dev} {n : Nat} (h : d.demotePage n = some t) : Evicted d t := by
  unfold Dev.demotePage at h
  dsimp only at h
  split at h
  · cases h
  · split at h
    · cases h; exact evicted_dropPage d n
    · obtain ⟨e, he, rfl⟩ := Option.map_eq_some_iff.mp h
      exact (evicted_writeBackPage he).trans (evicted_dropPage _ _)

theorem evicted_evict {d t : Dev} {p : Nat} (h : d.evict p = some t) : Evicted d t := by
  obtain ⟨n, _, hn⟩ := List.exists_of_findSome?_eq_some h
  exact evicted_demotePage hn

theorem evicted_evictBelow (p lim k : Nat) (d : Dev) : Evicted d (d.evictBelow p lim k) := by
  induction k generalizing d with
  | zero => exact .refl d
  | succ k ih =>
    unfold Dev.evictBelow
    split
    · exact .refl d
    · split
      · next he => exact (evicted_evict he).trans (ih _)
      · exact .refl d

theorem evicted_demoteTo (p k : Nat) (d : Dev) : Evicted d (d.demoteTo p k) := by
  induction k generalizing d with
  | zero => exact .refl d
  | succ k ih =>
    unfold Dev.demoteTo
    split
    · exact .refl d
    · split
      · next he => exact (evicted_evict he).trans (ih _)
      · exact .refl d

theorem evicted_takeFrame (d : Dev) (p : Nat) : Evicted d (d.takeFrame p).2 := by
  unfold Dev.takeFrame
  extract_lets lim t
  have ht : Evicted d t := by
    dsimp only [t]
    split
    · exact .refl d
    · exact evicted_evictBelow _ _ _ _
  split <;> exact ht

end Sys2Proof.Machine

namespace Sys2Proof.Machine
open Sys2Proof.Safety

/-! ### Promotion (R215, R218) -/

theorem Dev.tier_smpErr (d : Dev) (b s c k a g : Nat) : (d.smpErr b s c k a g).tier = d.tier := by
  rw [Dev.smpErr, Dev.tier_flw]
  obtain he | he := d.raise_cases rSmpErr b _ <;> rw [Dev.smpRaise, he] <;> rfl

/-- The decoding of a chunk moves no page. -/
theorem Dev.tier_promoteChunk (d : Dev) (n f c : Nat) : (d.promoteChunk n f c).tier = d.tier := by
  have hwr (t : Dev) (a : Nat) (bs : Marked) : (t.writePhys (tierSrc n) a bs).tier = t.tier := (physOnly_writePhys _ _ _ _).tier
  have hcount (q : Prop) [Decidable q] (k : Nat) (t : Dev) : (if q then t.chunkCount n k else t).tier = t.tier := by
    split
    · exact (physOnly_chunkCount _ _ _).tier
    · rfl
  unfold Dev.promoteChunk
  extract_lets r e l kind pm len off fits b body crcOk out t a
  have ht : t.tier = d.tier := by
    have he : e.2.tier = d.tier := (physOnly_readPhys _ _ _ _).tier
    dsimp only [t, b]
    split
    · exact (physOnly_readPhys _ _ _ _).tier.trans he
    · exact he
  clear_value t out b kind
  split
  · exact (hwr _ _ _).trans ((hcount _ _ _).trans ht)
  · exact (physOnly_ledger _ _ _ _ _ _).tier.trans ((Dev.tier_of_held (Dev.held_addSat _ _ _)).trans
      ((Dev.tier_smpErr _ _ _ _ _ _ _).trans ((hwr _ _ _).trans ht)))

/-- A page in T2 that finds a frame: the frame is filled, the page is BOTH there, and it is the page used last. -/
theorem Dev.promotePage_found {d t : Dev} {n f : Nat} (hs : (d.page n).state = .t2) (hf : d.takeFrame (d.page n).part = (some f, t)) :
    ∃ u : Dev, u.tier = t.tier ∧ d.promotePage n = (true, (((u.setPage n { u.page n with state := .both, dirty := 0, frame := f }).touchPage
      n).add64 rSmpPromoteLo 1).tierCount (u.page n).part) := by
  have hchunks (l : List Nat) : (t.each l fun d c => d.promoteChunk n f c).tier = t.tier :=
    foldl_rel (fun a b : Dev => b.tier = a.tier) (fun _ => rfl) (fun _ _ _ h k => k.trans h) (fun d c => d.promoteChunk n f c)
      (fun d c => d.tier_promoteChunk n f c) l t
  refine ⟨t.each (List.range 32) fun d c => d.promoteChunk n f c, hchunks _, ?_⟩
  simp only [Dev.promotePage, hf, hs, ne_eq, not_true_eq_false, if_false]

/-- The record of the promoted page: BOTH in its frame, clean, and else as it was but for its extent and its use. -/
theorem Dev.page_promotePage {d t : Dev} {n f : Nat} (hs : (d.page n).state = .t2) (hf : d.takeFrame (d.page n).part = (some f, t)) :
    (d.promotePage n).2.tier.stall = d.tier.stall ∧ ∃ (r : PageRec) (k : Nat), r.fixed = (d.page n).fixed ∧
      (d.promotePage n).2.page n = { r with state := .both, dirty := 0, frame := f, lastUse := k } := by
  obtain ⟨u, hu, hp⟩ := Dev.promotePage_found hs hf
  have hev : Evicted d t := by simpa only [hf] using evicted_takeFrame d (d.page n).part
  have hsame := hev.page n (by simp [PageRec.hasFrame, hs])
  rw [hp]
  refine ⟨(congrArg TierSt.stall hu).trans hev.stall, u.page n, u.tier.clock + 1, Dev.page_of_tier hu n ▸ hsame, ?_⟩
  show ((u.setPage n _).setPage n _).page n = _
  rw [Dev.page_setPage, if_pos rfl, Dev.page_setPage, if_pos rfl]
  rfl

/-! ### Write-back, drop and compaction (R215) -/

/-- What a write-back leaves: the page is a clean BOTH in its frame, and the write-back is counted. -/
theorem Dev.writeBackPage_page {d e : Dev} {n : Nat} (h : d.writeBackPage n = some e) :
    (e.page n).state = .both ∧ (e.page n).dirty = 0 ∧ (e.page n).frame = (d.page n).frame ∧
      e.rd64 rSmpWritebackLo = (d.rd64 rSmpWritebackLo + 1) % 2 ^ 64 := by
  obtain ⟨-, t, a, k, ht, rfl⟩ := Dev.writeBackPage_some h
  have hcount : t.rd64 rSmpWritebackLo = d.rd64 rSmpWritebackLo := by
    rw [Dev.rd64, Dev.rd64, ht.rd _ (by unfold physReg rSmpWritebackLo; omega), ht.rd _ (by unfold physReg rSmpWritebackLo; omega)]
  rw [Dev.page_add64, Dev.page_setPage, if_pos rfl]
  refine ⟨rfl, rfl, (PageRec.kept_of_fixed (ht.page n)).2.2, ?_⟩
  rw [← hcount]
  exact Dev.rd64_wr64 _ _ _

theorem Dev.dropPage_clean {d : Dev} {n : Nat} (hs : (d.page n).state = .both) (hd : (d.page n).dirty = 0) (hp : (d.page n).pin = false) :
    d.dropPage n = d.setPage n { d.page n with state := .t2, frame := 0 } := by
  simp [Dev.dropPage, hs, hd, hp]

theorem Dev.dropPage_kept {d : Dev} {n : Nat} (h : (d.page n).state ≠ .both ∨ (d.page n).dirty ≠ 0 ∨ (d.page n).pin = true) :
    d.dropPage n = d := by
  refine if_neg ?_
  simp only [Bool.and_eq_true, Bool.not_eq_true', decide_eq_true_eq, not_and]
  intro ⟨hp, hs⟩ hd
  simp [hp, hs, hd] at h

/-! ### Quotas (R227) -/

theorem Dev.use0_wr (d : Dev) (off : Nat) (v : Word) (p : Nat) : (d.wr off v).use0 p = d.use0 p := rfl
theorem Dev.use1_wr (d : Dev) (off : Nat) (v : Word) (p : Nat) : (d.wr off v).use1 p = d.use1 p := rfl
theorem Dev.use2_wr (d : Dev) (off : Nat) (v : Word) (p : Nat) : (d.wr off v).use2 p = d.use2 p := rfl

/-- The counts of the use pages lie apart from the quotas and from the status words. -/
theorem ne_useCount {off : Nat} (h : off < 0x7800000 ∨ off % 0x1000 = 0) (p : Nat) : off ≠ rSmpPUse0 p ∧ off ≠ rSmpPUse1 p ∧
    off ≠ rSmpPUse2 p ∧ off ≠ rSmpPAlloc p ∧ off ≠ rSmpPPinned p := by
  unfold rSmpPUse0 rSmpPUse1 rSmpPUse2 rSmpPAlloc rSmpPPinned
  omega

theorem Dev.rd_tierCount (d : Dev) (p : Nat) {off : Nat} (h : off < 0x7800000) : (d.tierCount p).rd off = d.rd off := by
  obtain ⟨h0, h1, h2, h3, h4⟩ := ne_useCount (.inl h) (p % 8)
  have h5 : off ≠ rSmpPStatus (p % 8) := by unfold rSmpPStatus; omega
  simp only [Dev.tierCount, Dev.rd_wr, h0, h1, h2, h3, h4, h5, if_false]

/-- What OVERQ of tier `k` compares (R227): the use of the partition with its quota `v`. -/
def Dev.overQuota (d : Dev) (p k : Nat) (v : Word) : Bool :=
  if k = 0 then decide (v.toNat < d.use0 p) else if k = 1 then decide (v.toNat < d.use1 p) else decide (v.toNat * 513 < d.use2 p)

/-- Counting clears an OVERQ bit whose use has fallen back to its quota, and no other. -/
theorem Dev.overq_tierCount (d : Dev) {p k : Nat} (hp : p < 8) (hk : k < 3) : bitOf k ((d.tierCount p).rd (rSmpPStatus p)) =
    (bitOf k (d.rd (rSmpPStatus p)) && d.overQuota p k (d.rd (rQuota p k))) := by
  have hstatus := ne_useCount (off := rSmpPStatus p) (.inr (by unfold rSmpPStatus; omega)) p
  have hqt0 := ne_useCount (off := rSmpQt0 p) (.inl (by unfold rSmpQt0; omega)) p
  have hqt1 := ne_useCount (off := rSmpQt1 p) (.inl (by unfold rSmpQt1; omega)) p
  have hqt2 := ne_useCount (off := rSmpQt2 p) (.inl (by unfold rSmpQt2; omega)) p
  simp only [Dev.tierCount, Nat.mod_eq_of_lt hp, Dev.use0_wr, Dev.use1_wr, Dev.use2_wr, Dev.rd_wr, hstatus, hqt0, hqt1, hqt2, if_false,
    if_true]
  interval_cases k <;> simp [bitOf_setBit_same, bitOf_setBit_ne, Dev.overQuota, rQuota]

theorem rQuota_range {p : Nat} (hp : p < 8) (k : Nat) : 0x7000100 ≤ rQuota p k ∧ rQuota p k < 0x7800000 := by
  unfold rQuota rSmpQt0 rSmpQt1 rSmpQt2
  repeat' split
  all_goals omega

/-- After a write to a quota register, and the demotions that follow one to SMP_QT1, the quota is the one written, and OVERQ says
whether use still lies above it. -/
theorem Dev.quotaWrite_sets (d : Dev) {p k : Nat} (hp : p < 8) (hk : k < 3) (v : Word) :
    (d.quotaWrite p k v).tier.stall = d.tier.stall ∧ (d.quotaWrite p k v).rd (rQuota p k) = v ∧
      bitOf k ((d.quotaWrite p k v).rd (rSmpPStatus p)) = (d.quotaWrite p k v).overQuota p k v := by
  obtain ⟨e, he, hq⟩ : ∃ e, Evicted (d.wr (rQuota p k) v) e ∧
      d.quotaWrite p k v = (e.wr (rSmpPStatus p) (setBit k (e.overQuota p k v) (e.rd (rSmpPStatus p)))).tierCount p := by
    refine ⟨_, ?_, rfl⟩
    split
    · exact evicted_demoteTo _ _ _
    · exact .refl _
  have hlo := rQuota_range hp k
  have hrd : (e.wr (rSmpPStatus p) (setBit k (e.overQuota p k v) (e.rd (rSmpPStatus p)))).rd (rQuota p k) = v := by
    rw [Dev.rd_wr_ne _ _ (by unfold rSmpPStatus; omega), he.rd _ hlo.1 (by omega), Dev.rd_wr_same]
  rw [hq]
  refine ⟨he.stall, (Dev.rd_tierCount _ _ hlo.2).trans hrd, ?_⟩
  rw [Dev.overq_tierCount _ hp hk, hrd, Dev.rd_wr_same, bitOf_setBit_same _ _ _ (by omega)]
  exact Bool.and_self _

/-- A write that reaches a quota register takes effect. -/
theorem rowWr_rQuota {d : Dev} {o : Origin} {p : Fin 8} {k : Fin 3} (h : Reaches d o (rQuota p k)) (v : Word) :
    ∃ t, d.rowWr o (rQuota p k) v = t ∧ t.tier.stall = d.tier.stall ∧ t.rd (rQuota p k) = v ∧
      bitOf k (t.rd (rSmpPStatus p)) = t.overQuota p k v := by
  refine ⟨_, ?_, Dev.quotaWrite_sets (d.changeLog (srcOf o) 0x83 0 0 0 []) p.isLt k.isLt v⟩
  match k with
  | 0 => exact rowWr_rSmpQt0 d o v p.isLt h
  | 1 => exact rowWr_rSmpQt1 d o v p.isLt h
  | 2 => exact rowWr_rSmpQt2 d o v p.isLt h

/-! ### Stalls (R221) -/

section Stall

variable {d : Dev} {p src a : Nat} {w : Stall}

/-- The access of `src` to page `n` that waits and has not been refused. -/
abbrev Dev.waiting (d : Dev) (src n : Nat) : Option Stall := d.tier.waits.find? (fun w => w.src = src && w.page = n && !w.refused)

theorem Dev.tierStall_none (hw : d.waiting src ((a - 0x80000000000) / 0x200000) = none) (c : Option CmdRef) :
    d.tierStall p src a c = d := by
  simp only [Dev.tierStall, hw]

theorem Dev.tierStall_early (hw : d.waiting src ((a - 0x80000000000) / 0x200000) = some w)
    (hnow : d.now < w.since + (d.rd rSmpStallLimit).toNat * 1000) (c : Option CmdRef) : d.tierStall p src a c = d := by
  simp only [Dev.tierStall, hw]
  exact if_pos (by simp [hnow])

theorem Dev.tierStall_starved (hw : d.waiting src ((a - 0x80000000000) / 0x200000) = some w)
    (hnow : w.since + (d.rd rSmpStallLimit).toNat * 1000 ≤ d.now) (hm : isManaged a = true)
    (hp : (d.page ((a - 0x80000000000) / 0x200000)).part = p) (hno : (d.takeFrame p).1 = none) :
    d.tierStall p src a none = { (d.smpErr 4 src 0 0 a a).refuse p src a with
      tier := { ((d.smpErr 4 src 0 0 a a).refuse p src a).tier with
        waits := mapIf (fun w => w.src = src && w.page = (a - 0x80000000000) / 0x200000) (fun w => { w with refused := true })
          ((d.smpErr 4 src 0 0 a a).refuse p src a).tier.waits } } := by
  simp only [Dev.tierStall, hw]
  exact if_neg (by simp [hm, hp, hno, Nat.not_lt.mpr hnow])

end Stall

end Sys2Proof.Machine

namespace Sys2Proof.Proofs
open Sys2Proof.Machine Sys2Proof.Safety

section TierMoves

variable (s : State) (pg : Fin 2097152)

theorem exec_promotion : exec (.promotion pg) s =
    State.run (fun d => if (d.page pg).state = .t2 then (d.promotePage pg).2 else d) s := rfl

theorem exec_writeBack : exec (.writeBack pg) s = State.run (fun d => if (d.page pg).dirty ≠ 0 then (match d.writeBackPage pg with
    | some e => e.tierCount (d.page pg).part
    | none => d) else d) s := rfl

theorem exec_drop : exec (.drop pg) s = State.run (fun d => (d.dropPage pg).tierCount (d.page pg).part) s := rfl

theorem exec_compaction : exec (.compaction pg) s = State.run (fun d => match d.findRun (d.page pg).part (d.page pg).sectors with
    | some a => if (d.page pg).hasExt && a < (d.page pg).ext then d.moveExtent pg a else d
    | none => d) s := rfl

theorem exec_tierStallTimeout (p : Fin 8) (src : BitVec 16) (a : BitVec 48) (c : Option CmdRef) :
    exec (.tierStallTimeout p src a c) s = State.run (fun d => d.tierStall p src.toNat a.toNat c) s := rfl

theorem exec_smpQuotaWrite (o : Origin) (p : Fin 8) (k : Fin 3) (v : Word) :
    exec (.smpQuotaWrite o p k v) s = State.run (fun d => d.rowWr o (rQuota p k) v) s := rfl

variable {s pg}

/-- An extent with a free run below it moves there. -/
theorem does_compaction {f : Nat} (hext : (s.dev.page pg).hasExt = true)
    (hrun : s.dev.findRun (s.dev.page pg).part (s.dev.page pg).sectors = some f) (hlow : f < (s.dev.page pg).ext) :
    Does (.compaction pg) s (s.dev.moveExtent pg f) := by
  refine does_of_run (exec_compaction s pg) ?_
  rw [hrun]
  exact if_pos (by simp [hext, hlow])

end TierMoves

/-- Settles O31, move by move: each changes the record of its own page, and of the others at most the place of an extent. -/
theorem pagesMoveBetweenTiers : Obligations.PagesMoveBetweenTiers := by
  unfold Obligations.PagesMoveBetweenTiers
  intro s o pg p k v src a f d w r n waiting limit
  refine ⟨fun hs hf => ?promotion, fun hd hwb => ?writeBack, fun hs hd hp => ?drop, fun hkept => ?kept, fun hext hrun hlow => ?compaction,
    fun hw => ?idle, fun hw hnow => ?early, fun hw hm hp hnow hno => ?starved, fun hreach => ?quota⟩
  case promotion =>
    obtain ⟨hstall, q, i, hq, hpage⟩ := Dev.page_promotePage hs hf
    refine runs_of_does (does_of_run (exec_promotion s pg) (if_pos hs)) hstall ?_
    rw [Dev.page_of_tier (Dev.refresh_tier _), hpage]
    exact ⟨rfl, rfl, rfl, (PageRec.kept_of_fixed hq).1, (PageRec.kept_of_fixed hq).2.1⟩
  case writeBack =>
    exact ⟨does_of_run (exec_writeBack s pg) (by rw [if_pos hd, hwb]), Dev.writeBackPage_page hwb⟩
  case drop =>
    refine runs_of_does (does_of_run (exec_drop s pg) (congrArg (Dev.tierCount · _) (Dev.dropPage_clean hs hd hp))) rfl
      ⟨(Dev.page_setPage _ _ _ _).trans (if_pos rfl), fun m hm => (Dev.page_setPage _ _ _ _).trans (if_neg hm), rfl⟩
  case kept => exact does_of_run (exec_drop s pg) (congrArg (Dev.tierCount · _) (Dev.dropPage_kept hkept))
  case compaction =>
    obtain ⟨t, ht, he⟩ := Dev.moveExtent_eq hext f
    have hdo := does_compaction hext hrun hlow
    rw [he] at hdo
    refine runs_of_does hdo (show t.tier.stall = _ by rw [ht.tier])
      ⟨(Dev.page_setPage _ _ _ _).trans (if_pos rfl), fun m hm => ?_⟩
    exact (Dev.page_setPage _ _ _ _).trans ((if_neg hm).trans (Dev.page_of_tier ht.tier m))
  case idle => exact does_of_run (exec_tierStallTimeout s p src a none) (Dev.tierStall_none hw _)
  case early => exact does_of_run (exec_tierStallTimeout s p src a none) (Dev.tierStall_early hw hnow _)
  case starved => exact does_of_run (exec_tierStallTimeout s p src a none) (Dev.tierStall_starved hw hnow hm hp hno)
  case quota =>
    obtain ⟨t, ht, hstall, hrd, hover⟩ := rowWr_rQuota hreach v
    refine runs_of_does (does_of_run (exec_smpQuotaWrite s o p k v) ht) hstall ?_
    have hlo := rQuota_range p.isLt k
    rw [Dev.rd_refresh_far _ (by omega), Dev.rd_refresh_far _ (by unfold rSmpPStatus; omega)]
    exact ⟨hrd, fun h0 => by subst h0; exact hover, fun h1 => by subst h1; exact hover, fun h2 => by subst h2; exact hover⟩

end Sys2Proof.Proofs

namespace Sys2Proof.Machine

/-! ### TIER commands that write into their partition's HBM window (R222) -/

section Window

variable {d : Dev} {p a : Nat} {l : List Byte}

/-- A write within the HBM window of one of the eight partitions is not refused, stores its bytes and moves no page. -/
theorem Dev.writeMem_hbmWin (hp : p < 8) (hwin : d.inHbmWin p a l.length = true) (src : Nat) :
    ∃ t : Dev, d.writeMem ⟨some p, src⟩ a (clean l) = (none, t) ∧ t.tier = d.tier ∧ t.mem.bytes a l.length = l := by
  have hlen : (clean l).length = l.length := by simp [clean]
  have hstored := stored_writeMem hp hwin (Nat.le_refl a) (bs := clean l) (by rw [hlen]) src
  have hnone : d.inHbmWin p a l.length = true → (none : Option Nat) = none →
      (d.writeMem ⟨some p, src⟩ a (clean l)).2.inHbmWin p a l.length = true ∧ (d.writeMem ⟨some p, src⟩ a (clean l)).1 = none := by
    refine foldl_cutAt (b := 4096) (lo := a) (hi := a + l.length) (R := fun _ _ (r u : Option Nat × Dev) =>
      r.2.inHbmWin p a l.length = true → r.1 = none → u.2.inHbmWin p a l.length = true ∧ u.1 = none) (by decide)
      (fun _ _ hw hr => ⟨hw, hr⟩) (fun h k hw hr => k (h hw hr).1 (h hw hr).2) (fun r x k hx hk hpos _ hw hr => ?_) _ a (clean l).length
      (none, d) (Nat.le_refl _) (by rw [hlen]) (.inr (fuel_enough (by decide) _ _))
    dsimp only
    rw [Dev.resolve_hbmWin hw hx (by omega)]
    exact ⟨((memOnly_writePhys r.2 src x _).inHbmWin hp _ _).trans hw, hr⟩
  refine ⟨_, Prod.ext (hnone hwin rfl).2 rfl, hstored.tier, List.ext_getElem (MemSt.length_bytes _ _ _) fun i hi hi' => ?_⟩
  have hbyte := (hstored.inside (a + i) (by omega) (by omega)).1
  rw [imageOf, Nat.add_sub_cancel_left] at hbyte
  simpa [MemSt.bytes, rangeFrom, clean, hi'] using hbyte

end Window

section TierEnd

variable (d : Dev) (x : Inflight) (code : Nat) (st : Status) (k : Nat)

theorem Dev.tier_tierEnd : (d.tierEnd x code st k).tier = d.tier := rfl
theorem Dev.mem_tierEnd : (d.tierEnd x code st k).mem = d.mem := rfl

end TierEnd

/-- A TIER command that ends DONE. -/
theorem Dev.tierEnd_done {d : Dev} {x y : Inflight} {k : Nat} (hy : y ∈ (d.tierEnd x 0 .done k).queue.infl) (hq : y.q = x.q)
    (hi : y.i = x.i) : y.phase = .ended ∧ y.res.status = .done ∧ y.res.result = 0 ∧ y.res.progress = k := by
  obtain ⟨hphase, hres⟩ := Dev.finish_ended hy hq hi
  rw [hres]
  exact ⟨hphase, rfl, rfl, rfl⟩

/-- A handle stored within the window of one of the eight partitions (Table 9-6). -/
theorem Dev.tierHandle_stored {d : Dev} {x : Inflight} (hp : x.part < 8) (hwin : d.inHbmWin x.part (x.opd 2) 16 = true) (h : Handle) :
    ∃ t : Dev, d.tierHandle x h = t.tierEnd x 0 .done 0 ∧ t.tier = d.tier ∧ t.mem.bytes (x.opd 2) 16 = h.bytes := by
  have hlen : h.bytes.length = 16 := by simp [Handle.bytes, leBytes]
  obtain ⟨t, hw, htier, hbytes⟩ := Dev.writeMem_hbmWin hp (by rw [hlen]; exact hwin) (srcNo (16 + x.q % 2) 0x010)
  exact ⟨t, by simp only [Dev.tierHandle, Inflight.acc, hw], htier, hlen ▸ hbytes⟩

/-- Pages set one by one: each page of the run has its new record. -/
theorem Dev.each_setPage (f : Nat → PageRec → PageRec) (n a : Nat) (d : Dev) :
    ∃ t, (d.each (rangeFrom a n) fun d k => d.setPage k (f k (d.page k))) = t ∧ t.regs = d.regs ∧ t.tier.stall = d.tier.stall ∧
      ∀ k, t.page k = if a ≤ k ∧ k < a + n then f k (d.page k) else d.page k := by
  induction n generalizing a d with
  | zero => exact ⟨_, rfl, rfl, rfl, fun k => (if_neg (by omega)).symm⟩
  | succ n ih =>
    obtain ⟨t, ht, hregs, hstall, hpage⟩ := ih (a + 1) (d.setPage a (f a (d.page a)))
    refine ⟨t, by rw [rangeFrom_succ]; exact ht, hregs, hstall, fun k => ?_⟩
    rw [hpage, Dev.page_setPage]
    by_cases hk : k = a
    · subst hk
      rw [if_neg (by omega), if_pos rfl, if_pos (by omega)]
    · rw [if_neg hk]
      exact if_congr (by omega) rfl rfl

/-- The record that `x` gives page `k` when it allocates `n` pages from `f` on: only the generation stays (R222). -/
def PageRec.inRun (x : Inflight) (f n : Nat) (pcode : Bool) (k : Nat) (r : PageRec) : PageRec :=
  { PageRec.blank with
    state := .zero, gen := r.gen, part := x.part, pcode := pcode, head := if k = f then some ⟨n, x.q, x.part⟩ else none }

section Alloc

variable {d : Dev} {x : Inflight} {n : Nat} (hwant : x.opd 1 ≠ 0xFFFFFFFF)
  (hquota : ¬(d.rd (rSmpQt1 x.part)).toNat + (d.rd (rSmpQt2 x.part)).toNat < (d.pagesOf x.part).length + n)
  (hplace : ¬(n = 0 ∨ 2097151 < n ∨ d.pagesIn x.part (x.opd 1) n = false)) (hfree : d.runMeets (x.opd 1) n = false)
include hwant hquota hplace hfree

/-- ALLOC at a given place, within quotas and window and over no allocated page. -/
theorem Dev.allocPages_fixed (pcode : Bool) :
    let t := d.each (rangeFrom (x.opd 1) n) fun d k => d.setPage k (PageRec.inRun x (x.opd 1) n pcode k (d.page k))
    d.allocPages x n pcode = t.tierHandle x ⟨x.opd 1, n, false, x.q, x.part, (t.page (x.opd 1)).gen⟩ := by
  simp only [not_or, Bool.not_eq_false] at hplace
  obtain ⟨h0, h1, hin⟩ := hplace
  simp [Dev.allocPages, hwant, hquota, h0, h1, hin, hfree, PageRec.inRun]

/-- The same for one of the eight partitions, with the handle in its HBM window. -/
theorem Dev.allocPages_stored (hp : x.part < 8) (hwin : d.inHbmWin x.part (x.opd 2) 16 = true) (pcode : Bool) :
    ∃ t : Dev, d.allocPages x n pcode = t.tierEnd x 0 .done 0 ∧ t.tier.stall = d.tier.stall ∧
      (∀ k, t.page k = if x.opd 1 ≤ k ∧ k < x.opd 1 + n then PageRec.inRun x (x.opd 1) n pcode k (d.page k) else d.page k) ∧
      t.mem.bytes (x.opd 2) 16 = (Handle.mk (x.opd 1) n false x.q x.part (d.page (x.opd 1)).gen).bytes := by
  obtain ⟨r, hr, hregs, hstall, hpage⟩ := Dev.each_setPage (PageRec.inRun x (x.opd 1) n pcode) n (x.opd 1) d
  have hgen : (r.page (x.opd 1)).gen = (d.page (x.opd 1)).gen := by
    rw [hpage]
    split <;> rfl
  have hwin' : r.inHbmWin x.part (x.opd 2) 16 = true := (Dev.inHbmWin_congr (congrArg (sget resetOf · _) hregs) _ _).trans hwin
  obtain ⟨t, hend, htier, hbytes⟩ := Dev.tierHandle_stored hp hwin' ⟨x.opd 1, n, false, x.q, x.part, (r.page (x.opd 1)).gen⟩
  refine ⟨t, ?_, (congrArg TierSt.stall htier).trans hstall, fun k => (Dev.page_of_tier htier k).trans (hpage k), hgen ▸ hbytes⟩
  rw [Dev.allocPages_fixed hwant hquota hplace hfree, hr, hend]

end Alloc

end Sys2Proof.Machine

namespace Sys2Proof.Proofs
open Sys2Proof.Machine Sys2Proof.Safety

section TierArms

variable (c : CmdRef) (s : State)

theorem exec_alloc : exec (.alloc c) s = State.run (fun d => d.tierCmd c 0 (fun x d =>
    if (x.opd 0).testBit 0 then d.allocT0 x (x.opd 0 / 2 ^ 32) else d.allocPages x (x.opd 0 / 2 ^ 32) ((x.opd 0).testBit 1))) s := rfl

theorem exec_query : exec (.query c) s = State.run (fun d => d.tierCmd c 8 (fun x d => d.tierQuery x)) s := rfl

end TierArms

theorem does_alloc {s : State} {c : CmdRef} {x : Inflight} (h : Dispatched s.dev c x 6 0) (ht : (x.opd 0).testBit 0 = false) :
    Does (.alloc c) s (s.dev.allocPages x (x.opd 0 / 2 ^ 32) ((x.opd 0).testBit 1)) := by
  obtain ⟨hcmd, hphase, hcls, hop⟩ := h
  exact does_of_run (exec_alloc c s) ((Dev.work_eq _ c x _ _ hcmd hphase (by simp [hcls, hop])).trans (by rw [ht]; rfl))

theorem does_query {s : State} {c : CmdRef} {x : Inflight} (h : Dispatched s.dev c x 6 8) : Does (.query c) s (s.dev.tierQuery x) := by
  obtain ⟨hcmd, hphase, hcls, hop⟩ := h
  exact does_of_run (exec_query c s) (Dev.work_eq _ c x _ _ hcmd hphase (by simp [hcls, hop]))

/-- R222 for one of the eight partitions: ALLOC of pages at a given place makes them ZERO and stores their handle. -/
theorem runs_alloc {s : State} {c : CmdRef} {x : Inflight} {n : Nat} (hp : x.part < 8) (h : Dispatched s.dev c x 6 0)
    (ht : (x.opd 0).testBit 0 = false) (hn : x.opd 0 / 2 ^ 32 = n) (hwant : x.opd 1 ≠ 0xFFFFFFFF)
    (hquota : ¬(s.dev.rd (rSmpQt1 x.part)).toNat + (s.dev.rd (rSmpQt2 x.part)).toNat < (s.dev.pagesOf x.part).length + n)
    (hplace : ¬(n = 0 ∨ 2097151 < n ∨ s.dev.pagesIn x.part (x.opd 1) n = false)) (hfree : s.dev.runMeets (x.opd 1) n = false)
    (hwin : s.dev.inHbmWin x.part (x.opd 2) 16 = true) :
    Runs (.alloc c) s (fun t =>
      (∀ k, x.opd 1 ≤ k → k < x.opd 1 + n → (t.page k).state = .zero ∧ (t.page k).part = x.part ∧ (t.page k).pin = false ∧
        (t.page k).gen = (s.dev.page k).gen) ∧
      (∀ k, (k < x.opd 1 ∨ x.opd 1 + n ≤ k) → t.page k = s.dev.page k) ∧
      t.mem.bytes (x.opd 2) 16 = (Handle.mk (x.opd 1) n false x.q x.part (s.dev.page (x.opd 1)).gen).bytes ∧
      ∀ y ∈ t.queue.infl, y.q = x.q → y.i = x.i → y.phase = .ended ∧ y.res.status = .done ∧ y.res.result = 0) := by
  subst hn
  obtain ⟨t, hend, hstall, hpage, hbytes⟩ := Dev.allocPages_stored hwant hquota hplace hfree hp hwin ((x.opd 0).testBit 1)
  have hdo := does_alloc h ht
  rw [hend] at hdo
  have hrpage (k : Nat) : (t.tierEnd x 0 .done 0).refresh.page k = t.page k := rfl
  refine runs_of_does hdo hstall ⟨fun k hlo hhi => ?_, fun k hk => ?_, ?_, fun y hy hq hi => ?_⟩
  · rw [hrpage, hpage, if_pos ⟨hlo, hhi⟩]
    exact ⟨rfl, rfl, rfl, rfl⟩
  · rw [hrpage, hpage, if_neg (by omega)]
  · rw [Dev.refresh_mem, Dev.mem_tierEnd, hbytes]
  · rw [Dev.refresh_queue] at hy
    obtain ⟨hphase, hst, hres, -⟩ := Dev.tierEnd_done hy hq hi
    exact ⟨hphase, hst, hres⟩

/-- R222 for one of the eight partitions: QUERY stores eight bytes for each page. -/
theorem runs_query {s : State} {c : CmdRef} {x : Inflight} {a n : Nat} (hp : x.part < 8) (h : Dispatched s.dev c x 6 8)
    (ha : x.opd 2 % 2 ^ 32 = a) (hn : x.opd 2 / 2 ^ 32 = n) (hin : s.dev.pagesIn x.part a n = true)
    (hwin : s.dev.inHbmWin x.part (x.opd 3) (8 * n) = true) :
    Runs (.query c) s (fun t => t.mem.bytes (x.opd 3) (8 * n) = (rangeFrom a n).flatMap s.dev.queryEntry ∧
      (∀ k, t.page k = s.dev.page k) ∧ ∀ y ∈ t.queue.infl, y.q = x.q → y.i = x.i →
        y.phase = .ended ∧ y.res.status = .done ∧ y.res.result = 0 ∧ y.res.progress = 0) := by
  have hlen : ((rangeFrom a n).flatMap s.dev.queryEntry).length = 8 * n := by
    simp [List.length_flatMap, Dev.queryEntry, leBytes, rangeFrom, Function.comp_def, Nat.mul_comm]
  obtain ⟨t, hw, htier, hbytes⟩ := Dev.writeMem_hbmWin hp (by rw [hlen]; exact hwin) (srcNo (16 + x.q % 2) 0x010)
  rw [hlen] at hbytes
  have hend : s.dev.tierQuery x = t.tierEnd x 0 .done 0 := by
    simp only [Dev.tierQuery, ha, hn, hin, Inflight.acc, hw]
    exact if_neg (by decide)
  have hdo := does_query h
  rw [hend] at hdo
  refine runs_of_does hdo (by rw [Dev.tier_tierEnd, htier]) ⟨?_, fun k => Dev.page_of_tier ?_ k, fun y hy => ?_⟩
  · rw [Dev.refresh_mem, Dev.mem_tierEnd, hbytes]
  · rw [Dev.refresh_tier, Dev.tier_tierEnd, htier]
  · rw [Dev.refresh_queue] at hy
    exact Dev.tierEnd_done hy

end Sys2Proof.Proofs

namespace Sys2Proof.Proofs
open Sys2Proof.Machine Sys2Proof.Safety

/-! ### A TIER command of a partition that does not exist

The HBM window of partition 0x5800 would lie where HBM_ERR of stack 0 lies, which a correction changes. -/

/-- A TIER command (CLASS 6) of queue 0 for that partition. -/
def strayTier (op : Nat) (opds : List Nat) : Inflight :=
  { q := 0, i := 0, slot := leBytes 1 (6 + 16 * op) ++ List.replicate 23 0 ++ opds.flatMap (leBytes 8), ext := [], part := 0x5800,
    seed := 0, rnd := 1, epoch := 0, tblsrc := false, ts := 0, eng := 127, heldAt := 0, phase := .dispatched, res := Result.fresh,
    lastout := false, copied := none, descs := [], ord := 1 }

/-- It is in flight; its HBM window and its managed window are the first GiB, its quota is a page, and the granule before 0x1000 has a
damaged symbol. -/
def strayTierState (x : Inflight) : State :=
  ⟨{ ((Dev.reset.wr (rTopPHbmwin 0x5800) 0x10000).wr (rTopPMgdwin 0x5800) 0x10000).wr (rSmpQt1 0x5800) 1 with
    mem := MemSt.reset.setDmg 63 (some (.one 0)), queue := { QueueSt.reset with infl := [x] } }, []⟩

/-- ALLOC of one page at page 8, with its handle to be stored across 0x1000. -/
def strayAlloc : Inflight := strayTier 0 [2 ^ 32, 8, 0xFFC]

/-- QUERY of page 8, with its entry to be stored across 0x1000. -/
def strayQuery : Inflight := strayTier 8 [0, 0, 8 + 2 ^ 32, 0xFFC]

/-- A command that does not leave itself DONE does not run so that it is DONE. -/
theorem not_done_of_does {i : Instr} {s : State} {x : Inflight} {u v : Dev} (hstall : s.dev.tier.stall = none) (hu : Does i s u)
    (hsu : u.tier.stall = s.dev.tier.stall) (hv : Does i s v) (hsv : v.tier.stall = none)
    (hnot : ∃ y ∈ v.queue.infl, y.q = x.q ∧ y.i = x.i ∧ y.res.status ≠ .done) :
    ¬∀ y ∈ u.refresh.queue.infl, y.q = x.q → y.i = x.i → y.res.status = .done := by
  obtain ⟨y, hy, hq, hi, hst⟩ := hnot
  rw [does_refresh_unique hu hv (hsu.trans hstall) hsv, Dev.refresh_queue]
  exact fun h => hst (h y hy hq hi)

/-- Refutes O29: the statement's ALLOC may be one of a partition that does not exist. The HBM window of partition 0x5800 is the word of
HBM_ERR; storing the first half of the handle corrects a symbol, which sets HBM_ERR.CE and so moves the window a GiB up, and the second
half is refused: the ALLOC ends POISONED. For the eight partitions the clause holds (`runs_alloc`). -/
theorem not_tierHandlesAreCheckedAllocatedAndFreed : ¬ Obligations.TierHandlesAreCheckedAllocatedAndFreed := by
  unfold Obligations.TierHandlesAreCheckedAllocatedAndFreed
  rintro ⟨-, h⟩
  obtain ⟨halloc, -⟩ := h (strayTierState strayAlloc) ⟨0, 0⟩ strayAlloc
  have hdisp : Dispatched (strayTierState strayAlloc).dev ⟨0, 0⟩ strayAlloc 6 0 := by decide
  obtain ⟨-, -, -, hruns⟩ := halloc hdisp (by decide) (by decide)
  obtain ⟨u, hu, hsu, -, -, -, hended⟩ := hruns (by decide) (by decide) (by decide) (by decide)
  exact not_done_of_does rfl hu hsu (does_alloc hdisp (by decide)) (by decide) (x := strayAlloc) (by decide)
    fun y hy hq hi => (hended y hy hq hi).2.1

/-- Refutes O30: the statement's QUERY may be one of a partition that does not exist. Storing the first half of the entry moves the
window of partition 0x5800 away, as it does for O29, and the QUERY ends POISONED. For the eight partitions the clause holds
(`runs_query`). -/
theorem not_tierOperationsActOnTheirPages : ¬ Obligations.TierOperationsActOnTheirPages := by
  unfold Obligations.TierOperationsActOnTheirPages
  intro h
  obtain ⟨-, -, -, -, -, -, -, -, -, -, hquery⟩ := h (strayTierState strayQuery) ⟨0, 0⟩ strayQuery Dev.reset
  have hdisp : Dispatched (strayTierState strayQuery).dev ⟨0, 0⟩ strayQuery 6 8 := by decide
  obtain ⟨u, hu, hsu, -, -, hended⟩ := hquery hdisp (by decide) (by decide)
  exact not_done_of_does rfl hu hsu (does_query hdisp) (by decide) (x := strayQuery) (by decide)
    fun y hy hq hi => (hended y hy hq hi).2.1

end Sys2Proof.Proofs

/-! Proofs of the family 10_queues_dma_streaming: doorbells, counters and the control of queues (R230, R231, R237, R244, R379), fetch and
dispatch (R232, R233), the DMA commands (R241, R247, R248, R310), and how KERNELs open launches (R123, R125, R240, R251). Each part
begins with the laws of its operations and ends with its obligation. -/

namespace Sys2Proof.Machine

/-! ### Queues and counters (R230, R231, R237, R244) -/

theorem Dev.cntFault_wr_cntVal (d : Dev) (c : Nat) (v : Word) (b : Bool) : (d.wr (rQmgCntVal c) v).cntFault c b =
    (d.wr (rQmgCntVal c) v).wr (rQmgCntAdd c) (setBit 0 b (d.rd (rQmgCntAdd c))) := by
  rw [Dev.cntFault, Dev.rd_wr_ne _ _ (by unfold rQmgCntAdd rQmgCntVal; omega)]

/-- Writing STOP of a queue that is open sets its control bit and its STATE. -/
theorem Dev.queueStopWrite_open {d : Dev} {q : Nat} (h : d.rdFld (rQmgQStatus q) 1 0 ≠ 0) (b : Bool) : d.queueStopWrite q b =
    (d.wr (rQmgQCtl q) (setBit 0 b (d.rd (rQmgQCtl q)))).wrFld (rQmgQStatus q) 1 0 (if b then 2 else 1) := by
  rw [Dev.queueStopWrite_eq, if_neg h]

theorem Dev.queueCtl_noFlush {v : Word} (h : bitOf 1 v = false) (d : Dev) (q : Nat) :
    d.queueCtl q v = d.queueStopWrite q (bitOf 0 v) := by
  simp [Dev.queueCtl, h]

/-- FLUSH of a STOPPED or HALTED queue comes before the write of STOP. -/
theorem Dev.queueCtl_flush {d : Dev} {q : Nat} {v : Word} (h : bitOf 1 v = true)
    (hst : d.rdFld (rQmgQStatus q) 1 0 = 2 ∨ d.rdFld (rQmgQStatus q) 1 0 = 3) :
    d.queueCtl q v = (d.flush q 0x23).queueStopWrite q (bitOf 0 v) := by
  simp [Dev.queueCtl, h, hst]

/-- STOPALL writes STOP = 1 to every queue of the partition. -/
theorem Dev.partCtl_stop {v : Word} (h : bitOf 1 v = false) (d : Dev) (p : Nat) : d.partCtl p (setBit 0 true v) =
    d.each ((List.range 65536).filter (fun q => d.qPart q = p)) (fun d q => d.queueStopWrite q true) := by
  have hv : fld 1 0 (setBit 0 true v) = 1 := by
    rw [fld_one_zero, bitOf_setBit_same _ _ _ (by decide), bitOf_setBit_ne _ _ _ _ (by decide), h]
    rfl
  simp [Dev.partCtl, hv]

/-- RESUME writes STOP = 0 to every queue of the partition. -/
theorem Dev.partCtl_resume {v : Word} (h : bitOf 0 v = false) (d : Dev) (p : Nat) : d.partCtl p (setBit 1 true v) =
    d.each ((List.range 65536).filter (fun q => d.qPart q = p)) (fun d q => d.queueStopWrite q false) := by
  have hv : fld 1 0 (setBit 1 true v) = 2 := by
    rw [fld_one_zero, bitOf_setBit_same _ _ _ (by decide), bitOf_setBit_ne _ _ _ _ (by decide), h]
    rfl
  simp [Dev.partCtl, hv]

/-- Writing STOP to the queues of a list, queue by queue. -/
theorem Dev.each_queueStopWrite (d : Dev) (l : List Nat) (b : Bool) : d.each l (fun d q => d.queueStopWrite q b) =
    l.foldl (fun d q => if d.rdFld (rQmgQStatus q) 1 0 = 0 then d.wr (rQmgQCtl q) (setBit 0 b (d.rd (rQmgQCtl q)))
      else (d.wr (rQmgQCtl q) (setBit 0 b (d.rd (rQmgQCtl q)))).wrFld (rQmgQStatus q) 1 0 (if b then 2 else 1)) d := by
  have h : (fun (d : Dev) q => d.queueStopWrite q b) = _ := funext fun d => funext fun q => Dev.queueStopWrite_eq d q b
  rw [Dev.each, h]

end Sys2Proof.Machine

namespace Sys2Proof.Proofs
open Sys2Proof.Machine Sys2Proof.Safety

section QueueRows

variable {s : State} {o : Origin} {q : Fin 65536} {u : Dev}

/-- A host's doorbell through BAR2, without EP, rings its queue. -/
theorem does_doorbell_host {p : Fin 2} {v : Word} (hmay : s.dev.may (.host p) = true) (hu : s.dev.doorbell q v = u) :
    Does (.doorbell (.host p) q v false) s u := by
  have h : exec (.doorbell (.host p) q v false) s = execDoorbell (.host p) q v false s := rfl
  simp [Does, h, execDoorbell, State.run, hostOf, hmay, hu]

/-- Any other sender's doorbell is its write to QMG_Q_DB. -/
theorem does_doorbell_row {v : Word} (ho : hostOf o = none) (h : Reaches s.dev o (rQmgQDb q)) (hu : s.dev.doorbell q v = u) :
    Does (.doorbell o q v false) s u := by
  have hexec : exec (.doorbell o q v false) s = execDoorbell o q v false s := rfl
  simp [Does, hexec, execDoorbell, State.run, ho, rowWr_rQmgQDb s.dev o v q.isLt h, hu]

theorem does_qmgCntVal {c : Fin 262144} {v : Word} (h : Reaches s.dev o (rQmgCntVal c))
    (hu : (s.dev.wr (rQmgCntVal c) v).cntFault c false = u) : Does (.qmgCntVal o c v) s u :=
  does_of_run (f := fun d => d.rowWr o (rQmgCntVal c) v) rfl ((rowWr_rQmgCntVal s.dev o v c.isLt h).trans hu)

theorem does_qmgCntAdd {c : Fin 262144} {v : Word} (h : Reaches s.dev o (rQmgCntAdd c)) (hu : s.dev.cntAdd c v = u) :
    Does (.qmgCntAdd o c v) s u :=
  does_of_run (f := fun d => d.rowWr o (rQmgCntAdd c) v) rfl ((rowWr_rQmgCntAdd s.dev o v c.isLt h).trans hu)

section Control

variable (h : Reaches s.dev o (rQmgQCtl q))
include h

theorem does_queueStop (hu : s.dev.queueStopWrite q true = u) : Does (.queueStop o q) s u :=
  does_of_run (f := fun d => d.rowWr o (rQmgQCtl q) 1) rfl
    ((rowWr_rQmgQCtl s.dev o 1 q.isLt h).trans ((Dev.queueCtl_noFlush (by decide) _ _).trans hu))

theorem does_queueResume (hu : s.dev.queueStopWrite q false = u) : Does (.queueResume o q) s u :=
  does_of_run (f := fun d => d.rowWr o (rQmgQCtl q) 0) rfl
    ((rowWr_rQmgQCtl s.dev o 0 q.isLt h).trans ((Dev.queueCtl_noFlush (by decide) _ _).trans hu))

theorem does_queueFlush (hst : s.dev.rdFld (rQmgQStatus q) 1 0 = 2 ∨ s.dev.rdFld (rQmgQStatus q) 1 0 = 3) (stop : Bool) :
    Does (.queueFlush o q stop) s ((s.dev.flush q 0x23).queueStopWrite q stop) := by
  have hflush : bitOf 1 (BitVec.ofNat 32 (2 + stop.toNat)) = true := by cases stop <;> decide
  have hstop : bitOf 0 (BitVec.ofNat 32 (2 + stop.toNat)) = stop := by cases stop <;> decide
  refine does_of_run (f := fun d => d.rowWr o (rQmgQCtl q) (BitVec.ofNat 32 (2 + stop.toNat))) rfl ?_
  rw [rowWr_rQmgQCtl s.dev o _ q.isLt h, Dev.queueCtl_flush hflush hst, hstop]

end Control

section Partition

variable {p : Fin 8} {v : Word} (h : Reaches s.dev o (rTopPCtl p))
include h

theorem does_topPStopall (hv : bitOf 1 v = false)
    (hu : s.dev.each ((List.range 65536).filter (fun q => s.dev.qPart q = p)) (fun d q => d.queueStopWrite q true) = u) :
    Does (.topPStopall o p v) s u :=
  does_of_run (f := fun d => d.rowWr o (rTopPCtl p) (setBit 0 true v)) rfl
    ((rowWr_rTopPCtl s.dev o _ p.isLt h).trans ((Dev.partCtl_stop hv _ _).trans hu))

theorem does_topPResume (hv : bitOf 0 v = false)
    (hu : s.dev.each ((List.range 65536).filter (fun q => s.dev.qPart q = p)) (fun d q => d.queueStopWrite q false) = u) :
    Does (.topPResume o p v) s u :=
  does_of_run (f := fun d => d.rowWr o (rTopPCtl p) (setBit 1 true v)) rfl
    ((rowWr_rTopPCtl s.dev o _ p.isLt h).trans ((Dev.partCtl_resume hv _ _).trans hu))

end Partition

end QueueRows

/-- Settles O1: each of the writes reaches its register's operation, whoever makes it. -/
theorem doorbellsAndCounterWritesTakeEffect : Obligations.DoorbellsAndCounterWritesTakeEffect := by
  unfold Obligations.DoorbellsAndCounterWritesTakeEffect
  intro s o p q c v
  refine ⟨fun hen hopen htail hroom => ?doorbell, fun h => does_qmgCntVal h (Dev.cntFault_wr_cntVal _ _ _ _),
    fun h => does_qmgCntAdd h rfl⟩
  case doorbell =>
    have hring := Dev.doorbell_ok s.dev q v hen hopen htail hroom
    exact ⟨fun hmay => does_doorbell_host hmay hring, fun ho h => does_doorbell_row ho h hring⟩

/-- Settles O2: a write to QMG_Q_CTL or TOP_P_CTL comes to writes of STOP, the former after its FLUSH. -/
theorem queueControlWritesSetStopAndState : Obligations.QueueControlWritesSetStopAndState := by
  unfold Obligations.QueueControlWritesSetStopAndState
  intro s o q p stop v stopped all
  refine ⟨fun h hopen => ⟨does_queueStop h (Dev.queueStopWrite_open hopen true),
      does_queueResume h (Dev.queueStopWrite_open hopen false)⟩,
    fun h hst => does_queueFlush h hst stop, fun h hv => ?stop, fun h hv => ?resume⟩
  case stop => exact does_topPStopall h hv (Dev.each_queueStopWrite s.dev _ true)
  case resume => exact does_topPResume h hv (Dev.each_queueStopWrite s.dev _ false)

end Sys2Proof.Proofs

namespace Sys2Proof.Machine

/-! ### Opening and closing a queue (R230, R244) -/

/-- A field set to what another word's field holds reads as that field. -/
theorem fld_setFld_fld (hi lo : Nat) (v w : Word) (h : hi < 32) : fld hi lo (setFld hi lo (fld hi lo v) w) = fld hi lo v := by
  rw [fld_setFld_same _ _ _ _ h, fld, Nat.mod_mod]

section OpenClose

variable {d : Dev} {q : Nat}

/-- Setting EN of a queue that is neither enabled nor closing opens it with the LOG2SIZE written. -/
theorem Dev.queueCfg_enable (hoff : bitOf 0 (d.rd (rQmgQCfg q)) = false) (hclosed : d.closing q = false) (v : Word) :
    d.queueCfg q (setBit 0 true v) =
      (d.wr (rQmgQCfg q) (setFld 5 1 (fld 5 1 v) (setFld 21 6 (fld 21 6 v) (d.rd (rQmgQCfg q))))).queueEnable q := by
  simp [Dev.queueCfg, hoff, hclosed, bitOf_setBit_same, fld_setBit_ne]

/-- Clearing EN of an enabled queue begins to close it. -/
theorem Dev.queueCfg_disable (hon : bitOf 0 (d.rd (rQmgQCfg q)) = true) (v : Word) : d.queueCfg q (setBit 0 false v) =
    (d.wr (rQmgQCfg q) (setFld 21 6 (fld 21 6 v) (d.rd (rQmgQCfg q)))).queueDisable q := by
  simp [Dev.queueCfg, hon, bitOf_setBit_same, fld_setBit_ne]

/-- A queue that passes the checks of R230 opens: nothing fetched, nothing stuck, nothing to retire. -/
theorem Dev.queueEnable_ok (hclosed : d.closing q = false) (h6 : 6 ≤ d.rdFld (rQmgQCfg q) 5 1) (h16 : d.rdFld (rQmgQCfg q) 5 1 ≤ 16)
    (hring : d.inHbmOrGallery (d.qPart q) (d.rd64 (rQmgQBaseLo q)) (64 * 2 ^ d.rdFld (rQmgQCfg q) 5 1) = true)
    (hcpl : d.inHbmOrGallery (d.qPart q) (d.rd64 (rQmgQCplLo q)) (64 * 2 ^ d.rdFld (rQmgQCfg q) 5 1) = true) :
    d.queueEnable q = (({ ((d.wr (rQmgQTail q) 0).wr (rQmgQHead q) 0).wr (rQmgQRetire q) 0 with
      queue := { d.queue with fetched := d.queue.fetched.filter (fun f => f.q ≠ q), stuck := delNat q d.queue.stuck,
                              doneSlots := d.queue.doneSlots.filter (fun f => f.1 ≠ q) } }).wr
        (rQmgQCfg q) (setBit 0 true (d.rd (rQmgQCfg q)))).wrFld (rQmgQStatus q) 1 0 (if bitOf 0 (d.rd (rQmgQCtl q)) then 2 else 1) := by
  have hok : (!d.closing q && decide (6 ≤ d.rdFld (rQmgQCfg q) 5 1) && decide (d.rdFld (rQmgQCfg q) 5 1 ≤ 16) &&
      d.inHbmOrGallery (d.qPart q) (d.rd64 (rQmgQBaseLo q)) (64 * 2 ^ d.rdFld (rQmgQCfg q) 5 1) &&
      d.inHbmOrGallery (d.qPart q) (d.rd64 (rQmgQCplLo q)) (64 * 2 ^ d.rdFld (rQmgQCfg q) 5 1)) = true := by
    simp only [hclosed, h6, h16, hring, hcpl, decide_true, Bool.not_false, Bool.and_self]
  have hkept (off : Nat) (h1 : off ≠ rQmgQTail q) (h2 : off ≠ rQmgQHead q) (h3 : off ≠ rQmgQRetire q) (m : QueueSt) :
      ({ ((d.wr (rQmgQTail q) 0).wr (rQmgQHead q) 0).wr (rQmgQRetire q) 0 with queue := m } : Dev).rd off = d.rd off :=
    ((Dev.rd_wr_ne _ _ h3).trans (Dev.rd_wr_ne _ _ h2)).trans (Dev.rd_wr_ne _ _ h1)
  have hcfg := hkept (rQmgQCfg q) (by unfold rQmgQCfg rQmgQTail; omega) (by unfold rQmgQCfg rQmgQHead; omega)
    (by unfold rQmgQCfg rQmgQRetire; omega)
  have hctl := hkept (rQmgQCtl q) (by unfold rQmgQCtl rQmgQTail; omega) (by unfold rQmgQCtl rQmgQHead; omega)
    (by unfold rQmgQCtl rQmgQRetire; omega)
  simp only [Dev.queueEnable, hok, Bool.not_true, Bool.false_eq_true, if_false, Dev.qState, hcfg, hctl]
  rfl

@[simp] theorem Dev.queueDisable_tier : (d.queueDisable q).tier = d.tier := by
  unfold Dev.queueDisable
  split <;> rfl

/-- With nothing of a closing queue in flight its close ends. -/
theorem Dev.closeQueue_ended (hclosing : d.closing q = true) (hidle : d.queue.infl.all (fun x => x.q ≠ q) = true) :
    d.closeQueue q = { d.wr (rQmgQStatus q) 0 with
      queue := { d.queue with fetched := d.queue.fetched.filter (fun f => f.q ≠ q) } } := by
  have hnone (y : Inflight) (hy : y ∈ d.queue.infl) : y.q ≠ q := by simpa using List.all_eq_true.mp hidle y hy
  have hdone : d.queue.infl.all (fun x => x.q ≠ q || x.phase = .early) = true :=
    List.all_eq_true.mpr fun y hy => by simp [hnone y hy]
  have hend : d.closeEnd q = { d.wr (rQmgQStatus q) 0 with
      queue := { d.queue with fetched := d.queue.fetched.filter (fun f => f.q ≠ q) } } := by
    simp only [Dev.closeEnd, hclosing, hdone, Bool.and_self, if_true]
    rfl
  have hearly : d.queue.infl.filter (fun x => x.q = q && x.phase = .early) = [] :=
    List.filter_eq_nil_iff.mpr fun y hy => by simp [hnone y hy]
  have hstate : ({ d.wr (rQmgQStatus q) 0 with
      queue := { d.queue with fetched := d.queue.fetched.filter (fun f => f.q ≠ q) } } : Dev).rdFld (rQmgQStatus q) 1 0 = 0 := by
    show fld 1 0 ((d.wr (rQmgQStatus q) 0).rd (rQmgQStatus q)) = 0
    rw [Dev.rd_wr_same]
    decide
  simp only [Dev.closeQueue, hend, hstate, hearly, Dev.each, List.foldl_nil, ne_eq, not_true, if_false]

end OpenClose

end Sys2Proof.Machine

namespace Sys2Proof.Proofs
open Sys2Proof.Machine Sys2Proof.Safety

section QueueOpen

variable {s : State} {o : Origin} {q : Fin 65536} {u : Dev}

theorem does_queueEnable {v : Word} (h : Reaches s.dev o (rQmgQCfg q)) (hu : s.dev.queueCfg q (setBit 0 true v) = u) :
    Does (.queueEnable o q v) s u :=
  does_of_run (f := fun d => d.rowWr o (rQmgQCfg q) (setBit 0 true v)) rfl ((rowWr_rQmgQCfg s.dev o _ q.isLt h).trans hu)

theorem does_queueDisable {v : Word} (h : Reaches s.dev o (rQmgQCfg q)) (hu : s.dev.queueCfg q (setBit 0 false v) = u) :
    Does (.queueDisable o q v) s u :=
  does_of_run (f := fun d => d.rowWr o (rQmgQCfg q) (setBit 0 false v)) rfl ((rowWr_rQmgQCfg s.dev o _ q.isLt h).trans hu)

theorem does_queueCloseEnd (hu : s.dev.closeQueue q = u) : Does (.queueCloseEnd q) s u :=
  does_of_run (f := fun d => d.closeQueue q) rfl hu

end QueueOpen

/-- Clearing EN leaves a queue that closes, and only its two registers change. -/
theorem queueDisable_closes {d t : Dev} {q : Nat} (hon : bitOf 0 (t.rd (rQmgQCfg q)) = true)
    (h : OnlyRegs d t [rQmgQCfg q, rQmgQStatus q]) :
    bitOf 0 ((t.queueDisable q).refresh.rd (rQmgQCfg q)) = false ∧ bitOf 4 ((t.queueDisable q).refresh.rd (rQmgQStatus q)) = true ∧
      OnlyRegs d (t.queueDisable q).refresh [rQmgQCfg q, rQmgQStatus q] := by
  have hne : rQmgQCfg q ≠ rQmgQStatus q := by unfold rQmgQCfg rQmgQStatus; omega
  have hcfg : 0x808000 ≤ rQmgQCfg q := by unfold rQmgQCfg; omega
  have hstatus : 0x808000 ≤ rQmgQStatus q := by unfold rQmgQStatus; omega
  simp only [Dev.queueDisable, hon, Bool.not_true, Bool.false_eq_true, if_false, Dev.rd_refresh_far _ hcfg,
    Dev.rd_refresh_far _ hstatus, Dev.rd_wr_same, Dev.rd_wr_ne _ _ hne]
  exact ⟨bitOf_setBit_same _ _ _ (by decide), bitOf_setBit_same _ _ _ (by decide),
    onlyRegs_refresh (onlyRegs_wr (onlyRegs_wr h _ (by simp)) _ (by simp))⟩

/-- Settles O3: an open queue's registers, its close begun, and its close ended. -/
theorem queueOpensAndCloses : Obligations.QueueOpensAndCloses := by
  unfold Obligations.QueueOpensAndCloses
  intro s o q v old d
  have hcfg : d.rd (rQmgQCfg q) = setFld 5 1 (fld 5 1 v) (setFld 21 6 (fld 21 6 v) old) := Dev.rd_wr_same _ _ _
  refine ⟨fun h hoff hclosed h6 h16 hring hcpl => ?enable, fun h hon => ?disable, fun hclosing hidle =>
    does_queueCloseEnd (Dev.closeQueue_ended hclosing hidle)⟩
  case enable =>
    have hlog : d.rdFld (rQmgQCfg q) 5 1 = fld 5 1 v := by rw [Dev.rdFld, hcfg, fld_setFld_fld _ _ _ _ (by decide)]
    have hclosed' : d.closing q = false := by
      rw [Dev.closing, Dev.rd_wr_ne _ _ (by unfold rQmgQCfg rQmgQStatus; omega)]
      exact hclosed
    have hctl : d.rd (rQmgQCtl q) = s.dev.rd (rQmgQCtl q) := Dev.rd_wr_ne _ _ (by unfold rQmgQCfg rQmgQCtl; omega)
    rw [← hlog] at h6 h16 hring hcpl
    refine does_queueEnable h ((Dev.queueCfg_enable hoff hclosed v).trans ?_)
    rw [← hctl]
    exact Dev.queueEnable_ok hclosed' h6 h16 hring hcpl
  case disable =>
    have hon' : bitOf 0 ((s.dev.wr (rQmgQCfg q) (setFld 21 6 (fld 21 6 v) old)).rd (rQmgQCfg q)) = true := by
      rw [Dev.rd_wr_same, bitOf_setFld_ne _ _ _ _ _ (by decide)]
      exact hon
    exact runs_of_does (does_queueDisable h (Dev.queueCfg_disable hon v)) (by rw [Dev.queueDisable_tier]; rfl)
      (queueDisable_closes hon' (onlyRegs_wr (onlyRegs_refl _ _) _ (by simp)))

end Sys2Proof.Proofs

namespace Sys2Proof.Machine

/-! ### Fetch and dispatch (R232, R233) -/

section FetchDispatch

variable {d : Dev} {q : Nat}

/-- One slot that TAIL covers and that is not yet fetched is read at its place in the ring. -/
theorem Dev.ringFetch_one (hrun : d.running q = true) (hstuck : d.queue.stuck.contains q = false)
    (hnone : d.queue.fetched.filter (fun f => f.q = q) = []) (htail : d.rd (rQmgQTail q) = d.rd (rQmgQHead q) + 1) {r : Rd × Dev}
    (hr : d.readMem ⟨some (d.qPart q), qmSrc q⟩ (d.rd64 (rQmgQBaseLo q) + (d.rd (rQmgQHead q)).toNat % d.ringSize q * 64) 64 = r)
    (hclean : r.1.bad = none) : d.ringFetch q = { r.2 with
      queue := { r.2.queue with fetched := r.2.queue.fetched ++ [⟨q, d.rd (rQmgQHead q), r.1.bytes⟩] } } := by
  have hcount : (d.rd (rQmgQTail q) - d.rd (rQmgQHead q)).toNat = 1 := by
    rw [htail, BitVec.add_comm, BitVec.add_sub_cancel]
    rfl
  have hslots : (rangeFrom 0 1).map (fun k => d.rd (rQmgQHead q) + BitVec.ofNat 32 k) = [d.rd (rQmgQHead q)] := by simp [rangeFrom]
  simp only [Dev.ringFetch, hrun, hstuck, hnone, hcount, List.length_nil, Nat.sub_zero, hslots, List.foldl_cons, List.foldl_nil, hr,
    hclean, first, Bool.not_true, Bool.or_self, Bool.false_eq_true, if_false, List.nil_append]

/-- The device with the command at HEAD of queue `q` in flight as `x`: HEAD has gone past its slots, and the dispatch is counted. -/
def Dev.launched (d : Dev) (q : Nat) (x : Inflight) : Dev :=
  let h := d.rd (rQmgQHead q)
  ({ d with queue := { d.queue with
      infl := d.queue.infl ++ [x], nextOrd := d.queue.nextOrd + 1,
      fetched := d.queue.fetched.filter (fun f => !(f.q = q && (f.cnt = h || (x.slots = 2 && f.cnt = h + 1)))),
      rrLast := sset (fun _ => 65535) d.queue.rrLast (q % 2) q } }.wr
    (rQmgQHead q) (h + BitVec.ofNat 32 x.slots)).add64 rQmgDispatchLo 1

variable {b e : List Byte} (hhead : d.head? q = some (b, e)) (hready : d.ready q = true) (hturn : d.turn q = true)
  (hforeign : d.foreign (d.qPart q) b e = false) (hdep : d.depFault b e = false) (hbad : d.badCmd (d.qPart q) b e = false)
  (hcls1 : (d.sample q b e).cls ≠ 1) (hcls : (d.sample q b e).cls < 10)
  (hnew : d.queue.infl.all (fun y => y.q ≠ q || y.i ≠ d.rd (rQmgQHead q)) = true)

include hnew in
theorem Dev.not_inFlight_head {y : Inflight} (hy : y ∈ d.queue.infl) :
    (decide (y.q = q) && decide (y.i = d.rd (rQmgQHead q))) = false := by
  have h := List.all_eq_true.mp hnew y hy
  simp only [Bool.or_eq_true, decide_eq_true_eq] at h
  simp only [Bool.and_eq_false_iff, decide_eq_false_iff_not]
  exact h

include hhead hready hturn hforeign hdep hbad hcls1 hcls hnew in
/-- A command that no check turns away, and that no unit but its own waits for, is dispatched. -/
theorem Dev.dispatch_ok : d.dispatch q = d.launched q (d.sample q b e) := by
  have hkeep : d.queue.infl.filter (fun y => !(decide (y.q = q) && decide (y.i = d.rd (rQmgQHead q)))) = d.queue.infl :=
    List.filter_eq_self.mpr fun y hy => by rw [Dev.not_inFlight_head hnew hy]; rfl
  have hold : d.queue.infl.filter (fun y => decide (y.q = q) && decide (y.i = d.rd (rQmgQHead q))) = [] :=
    List.filter_eq_nil_iff.mpr fun y hy => ne_true_of_eq_false (Dev.not_inFlight_head hnew hy)
  have h10 : (d.sample q b e).cls ≠ 10 := by omega
  have h11 : (d.sample q b e).cls ≠ 11 := by omega
  have hpart : (d.sample q b e).part = d.qPart q := rfl
  simp only [Dev.dispatch, hhead, hready, hturn, hpart, hforeign, hdep, hbad, hcls1, h10, h11, hkeep, hold, decide_false, List.any_nil,
    Bool.and_self, Bool.not_true, Bool.false_and, Bool.false_eq_true, if_false]
  rfl

include hnew in
/-- The command that was dispatched is found by its queue and slot. -/
theorem Dev.find_launched {x : Inflight} (hq : x.q = q) (hi : x.i = d.rd (rQmgQHead q)) :
    (d.launched q x).queue.infl.find? (fun y => y.q = q && y.i = d.rd (rQmgQHead q)) = some x := by
  have hnone : d.queue.infl.find? (fun y => decide (y.q = q) && decide (y.i = d.rd (rQmgQHead q))) = none :=
    List.find?_eq_none.mpr fun y hy => ne_true_of_eq_false (Dev.not_inFlight_head hnew hy)
  show (d.queue.infl ++ [x]).find? _ = _
  rw [List.find?_append, hnone]
  simp [hq, hi]

include hhead hready hturn hforeign hdep hbad hcls1 hcls hnew in
/-- COMMAND_DISPATCH of such a command also copies a KERNEL's structures. -/
theorem Dev.dispatchCmd_ok : d.dispatchCmd q = if (d.sample q b e).cls = 0
    then (d.launched q (d.sample q b e)).kernelCopy (d.sample q b e) else d.launched q (d.sample q b e) := by
  have hfind := Dev.find_launched (x := d.sample q b e) hnew rfl rfl
  have hphase : (d.sample q b e).phase = .dispatched := rfl
  rw [Dev.dispatchCmd, Dev.dispatch_ok hhead hready hturn hforeign hdep hbad hcls1 hcls hnew]
  simp [hfind, hphase]

end FetchDispatch

end Sys2Proof.Machine

namespace Sys2Proof.Proofs
open Sys2Proof.Machine Sys2Proof.Safety

theorem does_ringFetch {s : State} {q : Fin 65536} {u : Dev} (hu : s.dev.ringFetch q = u) : Does (.ringFetch q) s u :=
  does_of_run (f := fun d => d.ringFetch q) rfl hu

theorem does_commandDispatch {s : State} {q : Fin 65536} {u : Dev} (hu : s.dev.dispatchCmd q = u) : Does (.commandDispatch q) s u :=
  does_of_run (f := fun d => d.dispatchCmd q) rfl hu

/-- Settles O4: one slot is fetched, and the command at HEAD goes into flight. -/
theorem fetchAndDispatchMoveTheQueue : Obligations.FetchAndDispatchMoveTheQueue := by
  unfold Obligations.FetchAndDispatchMoveTheQueue
  intro s q b e h r x
  exact ⟨fun hrun hstuck hnone htail hclean => does_ringFetch (Dev.ringFetch_one hrun hstuck hnone htail rfl hclean),
    fun hhead hready hturn hforeign hdep hbad hcls1 hcls hnew =>
      does_commandDispatch (Dev.dispatchCmd_ok hhead hready hturn hforeign hdep hbad hcls1 hcls hnew)⟩

end Sys2Proof.Proofs

namespace Sys2Proof.Machine

/-! ### How KERNELs open launches (R123, R125, R240, R251) -/

section Kernel

variable {d : Dev} {x : Inflight} {i : LaunchIn}

/-- The structures of a KERNEL without a KV walk are copied as they are read. -/
theorem Dev.kernelCopy_read (hnone : x.copied = none) {r : (LaunchErr ⊕ LaunchIn) × Dev}
    (hr : d.readLaunch (d.launchHub x.part * 256) x.part (x.opd 2) = r) (hi : r.1 = .inr i) (hwalk : x.opd 3 = 0) :
    d.kernelCopy x = r.2.setCmd x.q x.i (fun y => { y with copied := some (.inr i) }) := by
  obtain ⟨_, t⟩ := r
  cases hi
  simp [Dev.kernelCopy, hnone, hr, hwalk]

/-- Those copied when the KERNEL was accepted early are not read again. -/
theorem Dev.kernelCopy_copied (hcopied : x.copied = some (.inr i)) (hwalk : x.opd 3 = 0) :
    d.kernelCopy x = d.setCmd x.q x.i (fun y => { y with copied := some (.inr i) }) := by
  simp [Dev.kernelCopy, hcopied, hwalk]

section Start

variable (hdies : (d.diesOf x.part).all d.fenced = false)
include hdies

/-- A KERNEL whose structures passed their checks and that has no launch yet opens one in a free slot. -/
theorem Dev.kernelStart_opens {k : Nat} (hearly : d.launches.find? (fun l => l.2.early && l.2.q = x.q && l.2.i = x.i) = none)
    (hcopied : x.copied = some (.inr i)) (hslot : d.freeLaunchSlot (d.launchHub x.part) = some k) : d.kernelStart x =
      (((d.openLaunch k x i false (d.kernelCores x.part (x.opd 4))).setCmd x.q x.i (fun y => { y with phase := .working })).wakeCores
        (d.kernelCores x.part (x.opd 4)) (d.rdFld (rQmgQCfg x.q) 8 6)).launchDone k := by
  simp [Dev.kernelStart, hdies, hearly, hcopied, hslot]

/-- A KERNEL whose structures failed a check that has no bit of TSQ_ERR ends ABORTED with the cause. -/
theorem Dev.kernelStart_aborts {err : Nat} (hcopied : x.copied = some (.inl (err, none))) :
    d.kernelStart x = (d.dropEarly x.q x.i).finish x (aborted err (tsqSrc (d.launchHub x.part * 256))) := by
  simp [Dev.kernelStart, hdies, hcopied]

end Start

/-- The KERNEL at HEAD of queue `q`, with EARLY and structures that pass their checks, opens its launch without cores. -/
theorem Dev.earlyAccept_opens {q k : Nat} {b e : List Byte} (hhead : d.head? q = some (b, e)) (hrun : d.running q = true)
    (hopen : d.closing q = false) (hkernel : leAt b 0 1 = 0) (hflag : (leAt b 0 4).testBit 11 = true)
    (hnew : d.queue.infl.any (fun x => x.q = q && x.i = d.rd (rQmgQHead q)) = false)
    (hwaits : ((waitsOf b e).filter (·.kind)).all (d.waitMet q) = true) (hbad : d.badCmd (d.qPart q) b e = false)
    (hforeign : d.foreign (d.qPart q) b e = false) (hslot : d.freeLaunchSlot (d.launchHub (d.qPart q)) = some k)
    {g : (LaunchErr ⊕ LaunchIn) × Dev} (hg : d.readLaunch k (d.qPart q) ((d.sample q b e).opd 2) = g) (hi : g.1 = .inr i)
    {y : Inflight} (hy : y = { g.2.sample q b e with phase := .early, copied := some (.inr i) })
    {z : Dev} (hz : z = { g.2 with queue := { g.2.queue with infl := g.2.queue.infl ++ [y] } }) :
    d.earlyAccept q = (z.openLaunch k y i true []).wakeCores (z.kernelCores (d.qPart q) (y.opd 4)) (z.rdFld (rQmgQCfg q) 8 6) := by
  obtain ⟨_, t⟩ := g
  cases hi
  subst hy hz
  simp only [Dev.earlyAccept, hhead, hrun, hopen, hkernel, hflag, hnew, hwaits, hbad, hforeign, hslot, hg, decide_true, Bool.not_false,
    Bool.not_true, Bool.and_self, Bool.false_eq_true, if_false]

end Kernel

end Sys2Proof.Machine

namespace Sys2Proof.Proofs
open Sys2Proof.Machine Sys2Proof.Safety

theorem does_kernel {s : State} {c : CmdRef} {x : Inflight} {u : Dev} (h : Dispatched s.dev c x 0 0) (hu : s.dev.kernelStart x = u) :
    Does (.kernel c) s u := by
  obtain ⟨hcmd, hphase, hcls, -⟩ := h
  exact does_of_run (f := fun d => d.work c (fun x => x.cls = 0 && x.phase = .dispatched) (fun x d => d.kernelStart x)) rfl
    ((Dev.work_eq _ c x _ _ hcmd hphase (by simp [hphase, hcls])).trans hu)

theorem does_kernelEarlyAccept {s : State} {q : Fin 65536} {u : Dev} (hu : s.dev.earlyAccept q = u) :
    Does (.kernelEarlyAccept q) s u :=
  does_of_run (f := fun d => d.earlyAccept q) rfl hu

/-- Settles O8: what is copied, what a dispatched KERNEL comes to, and what one accepted early does. -/
theorem kernelsOpenLaunches : Obligations.KernelsOpenLaunches := by
  unfold Obligations.KernelsOpenLaunches
  intro s c q x k i b e err cores r g y z
  exact ⟨fun hnone hi hwalk => Dev.kernelCopy_read hnone rfl hi hwalk, fun hcopied hwalk => Dev.kernelCopy_copied hcopied hwalk,
    fun h hdies hearly => ⟨fun hcopied hslot => does_kernel h (Dev.kernelStart_opens hdies hearly hcopied hslot),
      fun hcopied => does_kernel h (Dev.kernelStart_aborts hdies hcopied)⟩,
    fun hhead hrun hopen hkernel hflag hnew hwaits hbad hforeign hslot hi => does_kernelEarlyAccept
      (Dev.earlyAccept_opens hhead hrun hopen hkernel hflag hnew hwaits hbad hforeign hslot rfl hi rfl rfl)⟩

end Sys2Proof.Proofs

namespace Sys2Proof.Machine

/-! ### Completion (R241) -/

theorem MemOnly.queue {d t : Dev} (h : MemOnly d t) : t.queue = d.queue := congrArg (fun p => p.2.2.2.1) h.still

@[simp] theorem Dev.queue_add64 (d : Dev) (off n : Nat) : (d.add64 off n).queue = d.queue := by
  unfold Dev.add64
  split <;> rfl

@[simp] theorem Dev.queue_epochDone (d : Dev) (p : Nat) (st : Status) : (d.epochDone p st).queue = d.queue := by
  have hend (t : Dev) : (if st = .done then t else (t.addSat (rColEpAborts p) 1).epochClear p).queue = t.queue := by
    split
    · rfl
    · rfl
  unfold Dev.epochDone
  refine (hend _).trans ?_
  split
  · split <;> rfl
  · rfl

theorem Dev.infl_retire (q fuel : Nat) (d : Dev) : (d.retire q fuel).queue.infl = d.queue.infl := by
  induction fuel generalizing d with
  | zero => rfl
  | succ fuel ih =>
    unfold Dev.retire
    dsimp only
    split
    · rfl
    · rw [ih]
      rfl

/-- A command that has completed is in flight no longer. -/
theorem Dev.not_mem_complete {d : Dev} {x y : Inflight} {ts0 : Nat} (hy : y ∈ (d.complete x ts0).queue.infl) :
    ¬(y.q = x.q ∧ y.i = x.i) := by
  have hend (t : Dev) : (if x.cls = 11 then t.epochDone x.part x.res.status else t).queue = t.queue := by
    split
    · exact Dev.queue_epochDone _ _ _
    · rfl
  unfold Dev.complete at hy
  dsimp only at hy
  rw [hend, Dev.infl_retire] at hy
  have hout := (List.mem_filter.mp hy).2
  rwa [Bool.not_eq_true', Bool.and_eq_false_iff, decide_eq_false_iff_not, decide_eq_false_iff_not, ← not_and_or] at hout

theorem Dev.not_mem_completeCmd {d : Dev} {x y : Inflight} (hy : y ∈ (d.completeCmd x).queue.infl) : ¬(y.q = x.q ∧ y.i = x.i) := by
  unfold Dev.completeCmd at hy
  rw [Dev.dmaStat_queue] at hy
  exact Dev.not_mem_complete hy

section Retire

variable {d : Dev} {q : Nat}

/-- RETIRE stays where no completed slot of the queue waits. -/
theorem Dev.retire_none (h : ∀ e ∈ d.queue.doneSlots, e.1 ≠ q) (fuel : Nat) : d.retire q fuel = d := by
  cases fuel with
  | zero => rfl
  | succ fuel =>
    have hnone : d.queue.doneSlots.find? (fun e => e.1 = q && e.2.1 = d.rd (rQmgQRetire q)) = none :=
      List.find?_eq_none.mpr fun e he => by simp [h e he]
    simp only [Dev.retire, hnone]

/-- RETIRE goes past the one completed command of the queue when that command stands at it. -/
theorem Dev.retire_one {l : List (Nat × Word × Nat)} {r : Word} {n : Nat} (hr : d.rd (rQmgQRetire q) = r)
    (hdone : d.queue.doneSlots = l ++ [(q, r, n)]) (hl : ∀ e ∈ l, e.1 ≠ q) (fuel : Nat) : d.retire q (fuel + 1) =
      ({ d with queue := { d.queue with doneSlots := l } }).wr (rQmgQRetire q) (r + BitVec.ofNat 32 n) := by
  have hother (e : Nat × Word × Nat) (he : e ∈ l) : (decide (e.1 = q) && decide (e.2.1 = r)) = false := by simp [hl e he]
  have hfind : d.queue.doneSlots.find? (fun e => decide (e.1 = q) && decide (e.2.1 = r)) = some (q, r, n) := by
    rw [hdone, List.find?_append, List.find?_eq_none.mpr fun e he => ne_true_of_eq_false (hother e he)]
    simp
  have hrest : d.queue.doneSlots.filter (fun e => !(decide (e.1 = q) && decide (e.2.1 = r))) = l := by
    rw [hdone, List.filter_append, List.filter_eq_self.mpr fun e he => by rw [hother e he]; rfl]
    simp
  rw [Dev.retire]
  simp only [hr, hfind, hrest]
  exact Dev.retire_none hl fuel

end Retire

theorem Dev.gate_off {d : Dev} {p : Nat} (h : d.rd (rColEpCtl p) = 0) (cls : Nat) (st : Status) : d.gate p cls st = d := by
  simp [Dev.gate, h, bitOf]

theorem Dev.haltErr_off {d : Dev} {q : Nat} (h : bitOf 9 (d.rd (rQmgQCfg q)) = false) (r : Result) : d.haltErr q r = d := by
  simp [Dev.haltErr, h]

@[simp] theorem Dev.dmaStat_none (d : Dev) : d.dmaStat 127 = d := rfl

theorem MemOnly.cntPart {d t : Dev} (h : MemOnly d t) {c : Nat} (hc : c < 2 ^ 18) : t.cntPart c = d.cntPart c := by
  rw [Dev.cntPart, Dev.cntPart, h.rd]
  unfold memReg rQmgCblkOwn
  simp
  omega

section Complete

variable {d : Dev} {x : Inflight} (hpart : x.part < 8) (hq : x.q < 65536)
  (hsigs : (sigsOf x.slot x.ext).filter (fun g => d.cntPart g.cnt = some x.part) = []) (hmsg : x.ctrl.testBit 10 = false)
  (hgates : d.rd (rColEpCtl x.part) = 0) (hhalt : bitOf 9 (d.rd (rQmgQCfg x.q)) = false) (hretire : d.rd (rQmgQRetire x.q) = x.i)
  (hdone : d.queue.doneSlots.filter (fun e => e.1 = x.q) = [])
include hpart hq hsigs hmsg hgates hhalt hretire hdone

/-- A completion with no signals, message or gates writes its record and lets RETIRE go past its slots. -/
theorem Dev.complete_plain (h11 : x.cls ≠ 11) {ts0 : Nat} {w : Dev} (hw : (d.writeMem ⟨some x.part, qmSrc x.q⟩
      (d.rd64 (rQmgQCplLo x.q) + x.i.toNat % d.ringSize x.q * 64) (clean (cplRecord x ts0 d.now))).2 = w) :
    d.complete x ts0 = ({ w with queue := { w.queue with
      infl := d.queue.infl.filter (fun y => !(y.q = x.q && y.i = x.i)) } }).wr (rQmgQRetire x.q) (x.i + BitVec.ofNat 32 x.slots) := by
  have hacc : Acc.ok ⟨some x.part, qmSrc x.q⟩ := by
    rintro p ⟨rfl⟩
    exact hpart
  have hmem : MemOnly d w := hw ▸ memOnly_writeMem hacc d _ _
  have hcol : w.rd (rColEpCtl x.part) = 0 :=
    (hmem.rd _ (by unfold memReg rColEpCtl; simp; omega)).trans hgates
  have hcfg : bitOf 9 (w.rd (rQmgQCfg x.q)) = false := by
    rw [hmem.rd _ (by unfold memReg rQmgQCfg; simp; omega)]
    exact hhalt
  have hret : w.rd (rQmgQRetire x.q) = x.i := (hmem.rd _ (by unfold memReg rQmgQRetire; simp; omega)).trans hretire
  have hnosig : (sigsOf x.slot x.ext).filter (fun s => x.res.cause ≠ 0x21 && w.cntPart s.cnt = some x.part) = [] := by
    refine List.filter_eq_nil_iff.mpr fun g hg => ?_
    have hother := List.filter_eq_nil_iff.mp hsigs g hg
    rw [hmem.cntPart (cnt_lt_of_mem_sigsOf hg)]
    simp at hother ⊢
    exact fun _ => hother
  have hslots (e : Nat × Word × Nat) (he : e ∈ w.queue.doneSlots) : e.1 ≠ x.q := by
    rw [hmem.queue] at he
    simpa using List.filter_eq_nil_iff.mp hdone e he
  simp only [Dev.complete, hw, hnosig, Dev.each, List.foldl_nil, hmsg, Bool.false_eq_true, if_false, Dev.gate_off hcol,
    Dev.haltErr_off hcfg, if_neg h11]
  rw [← hmem.queue]
  exact Dev.retire_one (d := { w with queue := { w.queue with
    infl := w.queue.infl.filter (fun y => !(y.q = x.q && y.i = x.i)),
    doneSlots := w.queue.doneSlots ++ [(x.q, x.i, x.slots)] } }) hret rfl hslots _

theorem Dev.completeCmd_plain (hheld : x.held = false) (heng : x.eng = 127) (hcls : x.cls < 8) {w : Dev}
    (hw : (d.writeMem ⟨some x.part, qmSrc x.q⟩ (d.rd64 (rQmgQCplLo x.q) + x.i.toNat % d.ringSize x.q * 64)
      (clean (cplRecord x x.ts d.now))).2 = w) :
    d.completeCmd x = ({ w with queue := { w.queue with
      infl := d.queue.infl.filter (fun y => !(y.q = x.q && y.i = x.i)) } }).wr (rQmgQRetire x.q) (x.i + BitVec.ofNat 32 x.slots) := by
  have h11 : x.cls ≠ 11 := by omega
  simp only [Dev.completeCmd, hheld, Bool.false_eq_true, if_false, if_neg h11, heng, Dev.dmaStat_none]
  exact Dev.complete_plain hpart hq hsigs hmsg hgates hhalt hretire hdone h11 hw

end Complete

end Sys2Proof.Machine

namespace Sys2Proof.Proofs
open Sys2Proof.Machine Sys2Proof.Safety

/-- A command that has ended, and of which no engine holds a block, completes. -/
theorem does_commandComplete {s : State} {c : CmdRef} {x : Inflight} {u : Dev} (hcmd : s.dev.cmd? c = some x)
    (hphase : x.phase = .ended) (hfree : s.dev.trwHolds (.cmd x.q x.i) = false) (hu : s.dev.completeCmd x = u) :
    Does (.commandComplete c) s u := by
  have hexec : exec (.commandComplete c) s = execCommandComplete c s := rfl
  simp [Does, hexec, execCommandComplete, State.run, hcmd, Dev.allDone, hphase, hfree, hu]

end Sys2Proof.Proofs

namespace Sys2Proof.Machine

/-! ### Engines take commands (R234, R247) -/

/-- `bestBy` picks an entry of a list that is not empty, and no entry has a larger key. -/
theorem bestBy_largest {α : Type} (key : α → Nat) {l : List α} (h : l ≠ []) :
    ∃ x ∈ l, bestBy key l = some x ∧ ∀ y ∈ l, key y ≤ key x := by
  induction l with
  | nil => exact absurd rfl h
  | cons a t ih =>
    by_cases ht : t = []
    · subst ht
      exact ⟨a, by simp, rfl, by simp⟩
    · obtain ⟨b, hb, hbest, hmax⟩ := ih ht
      by_cases hab : key b ≤ key a
      · exact ⟨a, by simp, by simp [bestBy, hbest, hab], fun y hy => by
          obtain rfl | hy := List.mem_cons.mp hy
          · exact le_rfl
          · exact (hmax y hy).trans hab⟩
      · exact ⟨b, by simp [hb], by simp [bestBy, hbest, hab], fun y hy => by
          obtain rfl | hy := List.mem_cons.mp hy
          · omega
          · exact hmax y hy⟩

section Take

variable {d : Dev} {e : Nat}

/-- The commands that wait for engine `e`. -/
abbrev Dev.dmaWaiting (d : Dev) (e : Nat) : List Inflight :=
  d.queue.infl.filter (fun y => y.eng = e && !y.held && y.phase = .dispatched)

/-- What engine `e` chooses by: the priority of a command's queue, then the queue's turn, then the order of dispatch. -/
abbrev Dev.dmaKey (d : Dev) (e : Nat) (x : Inflight) : Nat :=
  (d.rdFld (rQmgQCfg x.q) 8 6 * 65536 + (65535 - (x.q + 65536 - sget (fun _ => 65535) d.queue.rrLast (16 + e) - 1) % 65536))
    * (d.queue.nextOrd + 1) + (d.queue.nextOrd - x.ord)

/-- Its leading part is the priority. -/
theorem Dev.dmaKey_div (d : Dev) (e : Nat) (x : Inflight) :
    d.dmaKey e x / (d.queue.nextOrd + 1) / 65536 = d.rdFld (rQmgQCfg x.q) 8 6 := by
  have hord : (d.queue.nextOrd - x.ord) / (d.queue.nextOrd + 1) = 0 := Nat.div_eq_of_lt (by omega)
  rw [Dev.dmaKey, Nat.mul_comm, Nat.mul_add_div (Nat.succ_pos _), hord]
  omega

theorem Dev.prio_le_of_dmaKey_le {x y : Inflight} (h : d.dmaKey e y ≤ d.dmaKey e x) :
    d.rdFld (rQmgQCfg y.q) 8 6 ≤ d.rdFld (rQmgQCfg x.q) 8 6 := by
  rw [← d.dmaKey_div e y, ← d.dmaKey_div e x]
  exact Nat.div_le_div_right (Nat.div_le_div_right h)

/-- An engine with room takes the command it chooses. -/
theorem Dev.dmaTake_takes {x : Inflight} (hroom : (d.dmaHeld e).length < 4) (hx : bestBy (d.dmaKey e) (d.dmaWaiting e) = some x)
    (hop : x.op ≠ 2) {t : Dev} (ht : d.setCmd x.q x.i (fun y => { y with heldAt := d.queue.nextOrd + 1 }) = t) :
    d.dmaTake e = { t with queue := { t.queue with
      nextOrd := d.queue.nextOrd + 1, rrLast := sset (fun _ => 65535) d.queue.rrLast (16 + e) x.q } }.dmaStat e := by
  subst ht
  unfold Dev.dmaTake
  dsimp only
  rw [if_neg (Nat.not_le.mpr hroom), hx]
  simp only [if_neg hop]
  rfl

/-- So it takes one of the highest queue priority of those that wait. -/
theorem Dev.dmaTake_highest (hroom : (d.dmaHeld e).length < 4) (hwait : d.dmaWaiting e ≠ [])
    (hop : ∀ y ∈ d.dmaWaiting e, y.op ≠ 2) :
    ∃ x ∈ d.dmaWaiting e, (∀ y ∈ d.dmaWaiting e, d.rdFld (rQmgQCfg y.q) 8 6 ≤ d.rdFld (rQmgQCfg x.q) 8 6) ∧
      d.dmaTake e = { (d.setCmd x.q x.i (fun y => { y with heldAt := d.queue.nextOrd + 1 })) with
        queue := { (d.setCmd x.q x.i (fun y => { y with heldAt := d.queue.nextOrd + 1 })).queue with
          nextOrd := d.queue.nextOrd + 1, rrLast := sset (fun _ => 65535) d.queue.rrLast (16 + e) x.q } }.dmaStat e := by
  obtain ⟨x, hx, hbest, hmax⟩ := bestBy_largest (d.dmaKey e) hwait
  exact ⟨x, hx, fun y hy => Dev.prio_le_of_dmaKey_le (hmax y hy), Dev.dmaTake_takes hroom hbest (hop x hx) rfl⟩

end Take

end Sys2Proof.Machine

namespace Sys2Proof.Proofs
open Sys2Proof.Machine Sys2Proof.Safety

theorem does_dmaEngineStart {s : State} {e : Fin 96} {u : Dev} (hu : s.dev.dmaTake e = u) : Does (.dmaEngineStart e) s u :=
  does_of_run (f := fun d => d.dmaTake e) rfl hu

end Sys2Proof.Proofs

namespace Sys2Proof.Machine

/-! ### Moves without permutation or offsets (R98, R248) -/

theorem map_toNat_ofNat (l : List Nat) : (l.map Int.ofNat).map Int.toNat = l := List.map_map.trans (List.map_id l)

/-- Without a permutation or offsets six indices stay as they are. -/
theorem mapIdx_permId {i : List Nat} (h : i.length = 6) : mapIdx permId [] i = i.map Int.ofNat := by
  match i, h with
  | [a, b, c, e, f, g], _ => simp [mapIdx, permId, List.range, List.range.loop, List.findIdx?, List.findIdx?.go]

/-- The indices of a tensor's elements, in order. -/
abbrev Desc.idxs (t : Desc) : List (List Nat) := (List.range t.count).map t.idxOf

/-- A source that covers the destination gives each element the one of the same indices. -/
theorem Xfer.pairs_identity {y : Xfer} (hstore : y.store = false) (hperm : y.perm = permId) (hoffs : y.offs = [])
    (hin : y.dst.idxs.all (fun i => i.length = 6 && inSizes y.src.size (i.map Int.ofNat)) = true) :
    y.pairs = y.dst.idxs.map (fun i => (i, some i)) := by
  rw [Xfer.pairs, if_neg (ne_true_of_eq_false hstore), hperm, hoffs, List.map_map]
  refine List.map_congr_left fun e he => ?_
  have hi := List.all_eq_true.mp hin _ (List.mem_map_of_mem he)
  rw [Bool.and_eq_true, decide_eq_true_eq] at hi
  obtain ⟨hlen, hsize⟩ := hi
  simp only [Function.comp_apply, mapIdx_permId hlen, hsize, if_true, map_toNat_ofNat]

/-- Elements read are put back in line with the pairs that they were read for. -/
theorem foldl_lined {f : List (List Nat × Elem) × List Elem → List Nat × Option (List Nat) → List (List Nat × Elem) × List Elem}
    {z : Elem} (hf : ∀ r i, f r (i, some i) = (r.1 ++ [(i, r.2.headD z)], r.2.drop 1)) (is : List (List Nat)) (els : List Elem)
    (h : els.length = is.length) (out : List (List Nat × Elem)) :
    ((is.map (fun i => (i, some i))).foldl f (out, els)).1 = out ++ is.zip els := by
  induction is generalizing els out with
  | nil => simp
  | cons i is ih =>
    obtain ⟨e, els, rfl⟩ := List.exists_cons_of_length_eq_add_one h
    rw [List.map_cons, List.foldl_cons, hf]
    refine (ih els (by simpa using h) _).trans ?_
    simp

theorem Dev.length_readElems (d : Dev) (acc : Acc) (req : Nat) (t : Desc) (org : Nat) (sis : List Nat) :
    (d.readElems acc req t org sis).1.els.length = sis.length := by
  simp [Dev.readElems]

/-- A write of elements that is no MX format's reads no block. -/
theorem Dev.writeElems_reads_none {t : Desc} (h : t.fmt.isMx = false) (d : Dev) (acc : Acc) (req org : Nat) (c : RndCtx)
    (os : List OutEl) : (d.writeElems acc req t org c os).1.oldBad = none ∧ (d.writeElems acc req t org c os).1.oldRefused = false ∧
      (d.writeElems acc req t org c os).1.oldPoison = false := by
  simp [Dev.writeElems, h]

/-- The elements of an uncompressed source, as a destination of the same format takes them. -/
abbrev ElemRd.outs (r : ElemRd) (is : List (List Nat)) : List OutEl := (is.zip r.els).map (fun e => ⟨e.1, .raw e.2.code, e.2.bad⟩)

section Move

variable {d : Dev} {x : Inflight} {src dst : Desc}

/-- A move of elements between uncompressed tensors of one format that is no MX format reads them and writes their codes; it
reports what its reads and its writes met. -/
theorem Dev.xferRun_identity {y : Xfer} (hpairs : y.pairs = y.dst.idxs.map (fun i => (i, some i))) (hsrc : y.src.cls = 0)
    (hdst : y.dst.cls = 0) (hfmt : y.src.fmt = y.dst.fmt) (hmx : y.dst.fmt.isMx = false) {rd : ElemRd × Dev}
    (hrd : d.readElems y.acc y.chunk y.src (y.src.org y.epoch) (y.dst.idxs.map y.src.siOf) = rd) {w : ElemWr × Dev}
    (hw : rd.2.writeElems y.acc y.chunk y.dst (y.dst.org y.epoch) y.rnd (rd.1.outs y.dst.idxs) = w) :
    ∃ fl, d.xferRun y = (⟨fl, rd.1.bad, w.1.bad, w.1.done, rd.1.refused || w.1.bad.isSome, rd.1.poison⟩, w.2.trwDrop y.req) := by
  have hidx : y.pairs.filterMap (·.2) = y.dst.idxs := by
    rw [hpairs, List.filterMap_map]
    exact List.filterMap_some
  have hread : d.xferRead y y.dst.idxs = rd := by rw [Dev.xferRead, if_pos hsrc, hrd]
  have hlen : rd.1.els.length = y.dst.idxs.length := by rw [← hrd, Dev.length_readElems, List.length_map]
  obtain ⟨hbad, href, hpoison⟩ := Dev.writeElems_reads_none hmx rd.2 y.acc y.chunk (y.dst.org y.epoch) y.rnd (rd.1.outs y.dst.idxs)
  rw [hw] at hbad href hpoison
  have hsame : (decide (y.src.fmt = y.dst.fmt) && !y.dst.fmt.isMx) = true := by simp [hfmt, hmx]
  have hfirst : first rd.1.bad none = rd.1.bad := by cases rd.1.bad <;> rfl
  unfold Dev.xferRun
  dsimp only
  rw [hidx, hread, hpairs, foldl_lined (fun _ _ => rfl) _ _ hlen, List.nil_append]
  simp only [hsame, if_true, hdst, List.map_map, Function.comp_def]
  rw [hw]
  exact ⟨_, by rw [hbad, href, hpoison, hfirst, Bool.or_false, Bool.or_false]⟩

/-- The configuration of a COPY without permutation or offsets. -/
abbrev Inflight.copyCfg (x : Inflight) : MoveCfg :=
  { src := dmaSrc x.eng, engine := dmaTrowel x.eng, chunk := 4096, perm := permId, offs := [], equal := false, dma := true }

theorem Dev.moveCfg_copy (hcls : x.cls = 1) (hperm : (x.opd 2).testBit 18 = false) (hoffs : (x.opd 2).testBit 19 = false) :
    d.moveCfg x = x.copyCfg := by
  simp [Dev.moveCfg, hcls, hperm, hoffs]

/-- A DMA move that nothing was refused or poisoned in counts its bytes and ends DONE. -/
theorem Dev.moveRun_done {r : XferRes} {t : Dev} (hdma : (d.moveCfg x).dma = true)
    (hrun : d.xferRun ((d.moveCfg x).xfer x src dst) = (r, t)) (hread : r.readBad = none) (hwrite : r.writeBad = none)
    (href : r.refused = false) (hpoison : r.poison = false) : d.moveRun x src dst =
      ((t.add64 (rDmaBytesLo x.eng) r.done).finish x { Result.fresh with progress := dst.progress }).dmaStat x.eng := by
  simp only [Dev.moveRun, hrun, hdma, hread, hwrite, href, hpoison, first, Option.getD_none, Option.isSome_none, Bool.false_eq_true,
    if_true, if_false]
  rfl

/-- A COPY between two uncompressed tensors that do not meet moves at once. -/
theorem Dev.moveBegin_copy {sa da : Nat} (hcfg : (d.moveCfg x).equal = false) (hcls : x.cls = 1) {a b : Option Desc × Dev}
    (ha : d.loadDesc (x.acc (d.moveCfg x).src) sa = a) (hb : a.2.loadDesc (x.acc (d.moveCfg x).src) da = b)
    (hsrc : a.1 = some src) (hdst : b.1 = some dst) (hac : src.cls = 0) (hbc : dst.cls = 0) (hmeet : descMeets x.epoch src dst = false) :
    d.moveBegin x sa da = b.2.moveRun x src dst := by
  have hblocks (m : MoveCfg) : (m.xfer x src dst).srcBlocks = [] := Xfer.srcBlocks_none hac
  simp [Dev.moveBegin, ha, hb, hsrc, hdst, hcfg, hcls, Dev.clsOk_none hac, Dev.clsOk_none hbc, hmeet, hblocks]

/-- A COPY without permutation or offsets, that nothing is refused or poisoned in, moves the elements and ends DONE. -/
theorem Dev.moveBegin_moves (hcls : x.cls = 1) (hperm : (x.opd 2).testBit 18 = false) (hoffs : (x.opd 2).testBit 19 = false)
    {a b : Option Desc × Dev} (ha : d.loadDesc (x.acc (dmaSrc x.eng)) (x.opd 0) = a)
    (hb : a.2.loadDesc (x.acc (dmaSrc x.eng)) (x.opd 1) = b) (hsrc : a.1 = some src) (hdst : b.1 = some dst) (hac : src.cls = 0)
    (hbc : dst.cls = 0) (hfmt : src.fmt = dst.fmt) (hmx : dst.fmt.isMx = false)
    (hin : dst.idxs.all (fun i => i.length = 6 && inSizes src.size (i.map Int.ofNat)) = true)
    (hmeet : descMeets x.epoch src dst = false) {rd : ElemRd × Dev}
    (hrd : b.2.readElems (x.acc (dmaSrc x.eng)) 4096 src (src.org x.epoch) (dst.idxs.map src.siOf) = rd) (hread : rd.1.bad = none)
    (href : rd.1.refused = false) (hpoison : rd.1.poison = false) {w : ElemWr × Dev}
    (hw : rd.2.writeElems (x.acc (dmaSrc x.eng)) 4096 dst (dst.org x.epoch)
      ⟨x.seed, BitVec.ofNat 32 x.seq, 0xFFFFFFFFFFFFFFFF, x.rnd⟩ (rd.1.outs dst.idxs) = w) (hwrite : w.1.bad = none) :
    d.moveBegin x (x.opd 0) (x.opd 1) = (((w.2.trwDrop (.cmd x.q x.i)).add64 (rDmaBytesLo x.eng) w.1.done).finish x
      { Result.fresh with progress := dst.progress }).dmaStat x.eng := by
  have hcfg (e : Dev) : e.moveCfg x = x.copyCfg := Dev.moveCfg_copy hcls hperm hoffs
  have hpairs : (x.copyCfg.xfer x src dst).pairs = dst.idxs.map (fun i => (i, some i)) := Xfer.pairs_identity rfl rfl rfl hin
  obtain ⟨fl, hrun⟩ := Dev.xferRun_identity hpairs hac hbc hfmt hmx hrd hw
  have hsrc' : (d.moveCfg x).src = dmaSrc x.eng := by rw [hcfg]
  have hequal : (d.moveCfg x).equal = false := by rw [hcfg]
  rw [Dev.moveBegin_copy hequal hcls (hsrc' ▸ ha) (hsrc' ▸ hb) hsrc hdst hac hbc hmeet]
  have hreq : (x.copyCfg.xfer x src dst).req = .cmd x.q x.i := rfl
  rw [hreq, ← hcfg b.2] at hrun
  have hdma : (b.2.moveCfg x).dma = true := by rw [hcfg]
  exact (Dev.moveRun_done hdma hrun hread hwrite (by simp [href, hwrite]) hpoison :)

/-- A FILL of an uncompressed tensor that is no MX format's writes its pattern to every element. -/
theorem Dev.fill_plain (hcls : x.cls = 1) {t : Option Desc × Dev} (ht : d.loadDesc (x.acc (dmaSrc x.eng)) (x.opd 1) = t)
    (hdst : t.1 = some dst) (hbc : dst.cls = 0) (hmx : dst.fmt.isMx = false) (hpat : patternBad dst.fmt (x.opd 2 % 2 ^ 32) = false)
    {w : ElemWr × Dev} (hw : t.2.writeElems (x.acc (dmaSrc x.eng)) 4096 dst (dst.org x.epoch)
      ⟨x.seed, BitVec.ofNat 32 x.seq, 0xFFFFFFFFFFFFFFFF, x.rnd⟩ (dst.idxs.map (fun i => ⟨i, .raw (x.opd 2 % 2 ^ 32), false⟩)) = w)
    (hbad : w.1.bad = none) : d.fill x =
      ((w.2.add64 (rDmaBytesLo x.eng) w.1.done).finish x { Result.fresh with progress := dst.progress }).dmaStat x.eng := by
  obtain ⟨_, t⟩ := t
  cases hdst
  have hsrc : (d.moveCfg x).src = dmaSrc x.eng := by simp [Dev.moveCfg, hcls]
  rw [List.map_map] at hw
  simp only [Dev.fill, hsrc, ht, hpat, Dev.clsOk_none hbc, hbc, hmx, MoveCfg.xfer, Bool.not_true, Bool.false_eq_true, if_false, ne_eq,
    not_true]
  simp only [Function.comp_def] at hw
  simp only [hw, hbad]
  rfl

end Move

end Sys2Proof.Machine

namespace Sys2Proof.Machine

/-! ### Receiving a message leaves the queues' state (R287 to R293)

Before a message acts, its flits acknowledge, let what waits on the port go, and make their source heard. -/

theorem Dev.queue_each {α : Type} {f : Dev → α → Dev} (h : ∀ d a, (f d a).queue = d.queue) (d : Dev) (l : List α) :
    (d.each l f).queue = d.queue :=
  List.foldlRecOn (motive := fun t => t.queue = d.queue) l f rfl fun t ht a _ => (h t a).trans ht

@[simp] theorem Dev.queue_setPort (d : Dev) (p : Nat) (s : PortSt) : (d.setPort p s).queue = d.queue := rfl

@[simp] theorem Dev.queue_emit (d : Dev) (p type vc : Nat) (last : Bool) (len seq : Nat) (poison : Bool) (dest : Nat)
    (o : Option OutMsg) (k : Nat) : (d.emit p type vc last len seq poison dest o k).queue = d.queue := rfl

@[simp] theorem Dev.queue_sendFlit (d : Dev) (p seq k : Nat) (o : OutMsg) : (d.sendFlit p seq k o).queue = d.queue := rfl

@[simp] theorem Dev.queue_sendFrames (d : Dev) (p num : Nat) (o : OutMsg) : (d.sendFrames p num o).queue = d.queue := by
  unfold Dev.sendFrames
  refine Dev.queue_each (fun t j => ?_) d _
  rfl

@[simp] theorem Dev.queue_transmit (d : Dev) (p : Nat) (e : OutMsg × Nat) : (d.transmit p e).queue = d.queue := by
  unfold Dev.transmit
  dsimp only
  split <;> simp

@[simp] theorem Dev.queue_pump (p n : Nat) (d : Dev) : (d.pump p n).queue = d.queue := by
  induction n generalizing d with
  | zero => rfl
  | succ n ih =>
    unfold Dev.pump
    dsimp only
    split
    · rw [ih, Dev.queue_transmit]
    · rfl

@[simp] theorem Dev.queue_drain (d : Dev) (p : Nat) : (d.drain p).queue = d.queue := Dev.queue_pump _ _ _

@[simp] theorem Dev.queue_flitAcks (d : Dev) (p : Nat) (f : FlitHdr) : (d.flitAcks p f).queue = d.queue := by
  unfold Dev.flitAcks
  split
  · rfl
  · exact Dev.queue_drain _ _

theorem acc_none_ok (src : Nat) : Acc.ok ⟨none, src⟩ := by rintro p ⟨⟩

@[simp] theorem Dev.queue_setPartner (d : Dev) (c : Nat) (e : PartnerSt) : (d.setPartner c e).queue = d.queue := by
  unfold Dev.setPartner
  dsimp only
  split
  · rfl
  · exact (memOnly_writeMem (acc_none_ok _) _ _ _).queue

@[simp] theorem Dev.queue_flw (d : Dev) (a b c e : Nat) : (d.flw a b c e).queue = d.queue := (memOnly_flw d a b c e).queue

@[simp] theorem Dev.queue_colErr (d : Dev) (bit p g coord : Nat) : (d.colErr bit p g coord).queue = d.queue := by
  rw [Dev.colErr, Dev.queue_flw]
  obtain h | h := Dev.raise_cases d rColErr bit (fun d => d.wr rColErrInfo (BitVec.ofNat 32 (g % 64 + 64 * (p % 16) + 65536 * coord)))
    <;> rw [h] <;> rfl

@[simp] theorem Dev.queue_msixSend (d : Dev) (port vec : Nat) : (d.msixSend port vec).queue = d.queue := by
  unfold Dev.msixSend
  dsimp only
  split <;> rfl

@[simp] theorem Dev.queue_colEvent (d : Dev) (kind coord port serial : Nat) : (d.colEvent kind coord port serial).queue = d.queue := by
  have hmsg (c : Prop) [Decidable c] (t : Dev) (a b : Nat) : (if c then t.msixSend a b else t).queue = t.queue := by
    split
    · exact Dev.queue_msixSend _ _ _
    · rfl
  unfold Dev.colEvent
  dsimp only
  split
  · rw [Dev.queue_colErr, Dev.queue_flw]
  · rw [hmsg, Dev.queue_flw, Dev.wrFld_queue]
    exact (memOnly_writeMem (acc_none_ok _) _ _ _).queue

@[simp] theorem Dev.queue_hear (d : Dev) (c : Nat) (serial : Option Nat) (port : Nat) : (d.hear c serial port).queue = d.queue := by
  unfold Dev.hear
  dsimp only
  split
  · rfl
  · split <;> simp

/-- A message acts in a device with the queues as they were when it came, so two actions that agree there do the same. -/
theorem Dev.accept_congr {d : Dev} {act act' : Dev → Dev} (h : ∀ t, t.queue = d.queue → act t = act' t) (p : Nat) (f : FlitHdr)
    (kind : FlitKind) (n : Nat) (serial : Option Nat) : d.accept p f kind n serial act = d.accept p f kind n serial act' := by
  have hcorr (c : Prop) [Decidable c] : (if c then d.add64 (rLnkFecCorrLo p) 1 else d).queue = d.queue := by
    split <;> simp
  have hheard (c : Prop) [Decidable c] (t : Dev) (s : PortSt) :
      (if c then t else (t.setPort p s).hear f.src.toNat serial p).queue = t.queue := by
    split <;> simp
  unfold Dev.accept
  dsimp only
  rw [h]
  rw [hheard, Dev.queue_flitAcks, Dev.queue_add64, hcorr]

@[simp] theorem Dev.queue_taken (d : Dev) (p : Nat) (f : FlitHdr) (k : Nat) : (Sys2Proof.Safety.taken d p f k).queue = d.queue := by
  unfold Sys2Proof.Safety.taken
  split <;> rfl

/-! ### The reply to a PULL (R310) -/

theorem Dev.cmd?_of_queue {d t : Dev} (h : t.queue = d.queue) (c : CmdRef) : t.cmd? c = d.cmd? c := by rw [Dev.cmd?, Dev.cmd?, h]

theorem Dev.dmaTurn_of_queue {d t : Dev} (h : t.queue = d.queue) (x : Inflight) : t.dmaTurn x = d.dmaTurn x := by
  rw [Dev.dmaTurn, Dev.dmaTurn, Dev.dmaHeld, Dev.dmaHeld, h]

/-- A DMA command whose turn it is does its work. -/
theorem Dev.dmaWork_eq {d : Dev} {c : CmdRef} {x : Inflight} {op : Nat} (h : Sys2Proof.Safety.Dispatched d c x 1 op)
    (hturn : d.dmaTurn x = true) (f : Inflight → Dev → Dev) : d.dmaWork c op f = f x d := by
  obtain ⟨hcmd, hphase, hcls, hop⟩ := h
  exact Dev.work_eq d c x _ _ hcmd hphase (by simp [hphase, hcls, hop, hturn])

/-- A reply without poison is written as it came. -/
theorem replyMarks_clean {f : FlitHdr} (h : f.poison = false) (bytes : List Byte) : replyMarks f bytes [] = clean bytes := by
  have hfst : (bytes.zipIdx).map (·.1) = bytes := List.zipIdx_map_fst 0 bytes
  simp only [replyMarks, clean, h, List.contains_nil, Bool.false_and, Bool.or_self]
  conv_rhs => rw [← hfst, List.map_map]
  rfl

section Reply

variable {d : Dev} {x : Inflight} {f : FlitHdr} {bytes : List Byte}

/-- What the reply of a PULL into memory comes to: its bytes are written at the local address, and the command ends. -/
def Dev.pulled (d : Dev) (x : Inflight) (bytes : List Byte) : Dev :=
  let w := d.writeBytes (x.acc (dmaSrc x.eng)) 4096 (bytes.zipIdx.map (fun e => (x.opd 2 + e.2, (e.1, false))))
  let ended (d : Dev) (r : Result) : Dev := ((d.add64 (rDmaBytesLo x.eng) w.1.2).finish x r).dmaStat x.eng
  match w.1.1 with
  | none => ended w.2 { Result.fresh with progress := x.opd 3 % 2 ^ 32 }
  | some a => ended (w.2.dmaErr x.eng 1 a) { Result.fresh with status := .poisoned, progress := x.opd 3 % 2 ^ 32, addr := a }

theorem Dev.pull_clean (hlen : bytes.length = x.opd 3 % 2 ^ 32) (hpeer : f.src.toNat = x.opd 0 % 65536) (hpoison : f.poison = false)
    (hmem : regOff (x.opd 2) = none) : d.pull x f bytes [] = d.pulled x bytes := by
  have hmarks : (clean bytes).zipIdx.map (fun e => (x.opd 2 + e.2, e.1)) =
      bytes.zipIdx.map (fun e => (x.opd 2 + e.2, (e.1, false))) := by
    simp [clean, List.zipIdx_map]
  have hclean : (clean bytes).findIdx? (·.2) = none := by simp [clean]
  have hbad : ¬(bytes.length ≠ x.opd 3 % 2 ^ 32 || f.src.toNat ≠ x.opd 0 % 65536) = true := by simp [hlen, hpeer]
  rw [Dev.pull, if_neg hbad, Dev.pulled]
  simp only [replyMarks_clean hpoison, Dev.pullWrite, hmem, hmarks, hclean]
  generalize d.writeBytes (x.acc (dmaSrc x.eng)) 4096 _ = w
  obtain ⟨⟨refused, count⟩, t⟩ := w
  cases refused with
  | none => rfl
  | some a => rfl

end Reply

end Sys2Proof.Machine

namespace Sys2Proof.Proofs
open Sys2Proof.Machine Sys2Proof.Safety

section Dma

variable {s : State} {c : CmdRef} {x : Inflight}

theorem does_copy (h : Dispatched s.dev c x 1 0) (hturn : s.dev.dmaTurn x = true) {u : Dev}
    (hu : s.dev.moveBegin x (x.opd 0) (x.opd 1) = u) : Does (.copy c) s u :=
  does_of_run (f := fun d => d.dmaWork c 0 (fun x d => d.moveBegin x (x.opd 0) (x.opd 1))) rfl ((Dev.dmaWork_eq h hturn _).trans hu)

theorem does_fill (h : Dispatched s.dev c x 1 1) (hturn : s.dev.dmaTurn x = true) {u : Dev} (hu : s.dev.fill x = u) :
    Does (.fill c) s u :=
  does_of_run (f := fun d => d.dmaWork c 1 (fun x d => d.fill x)) rfl ((Dev.dmaWork_eq h hturn _).trans hu)

/-- A reply without poison into memory acts on the PULL as `Dev.pulled` says, whatever its flits do to the link. -/
theorem does_pull (h : Dispatched s.dev c x 1 2) (hturn : s.dev.dmaTurn x = true) {p : Fin 24} {f : FlitHdr} {bytes : List Byte}
    (hflit : FlitOk s.dev p f .traffic) (hlen : bytes.length = x.opd 3 % 2 ^ 32) (hpoison : f.poison = false)
    (hpeer : f.src.toNat = x.opd 0 % 65536) (hmem : regOff (x.opd 2) = none) :
    Does (.pull c ⟨p, f⟩ ⟨bytes, []⟩) s ((taken s.dev p f (max 1 (cdiv bytes.length 240))).accept p f .traffic bytes.length none
      (fun d => d.pulled x bytes)) := by
  have hwork (t : Dev) (ht : t.queue = s.dev.queue) : t.dmaWork c 2 (fun x d => d.pull x f bytes []) = t.pulled x bytes := by
    obtain ⟨hcmd, hphase, hcls, hop⟩ := h
    rw [Dev.dmaWork_eq ⟨(Dev.cmd?_of_queue ht c).trans hcmd, hphase, hcls, hop⟩ ((Dev.dmaTurn_of_queue ht x).trans hturn),
      Dev.pull_clean hlen hpeer hpoison hmem]
  refine does_of_run (f := fun d => d.flitIn p f .traffic (max 1 (cdiv bytes.length 240)) bytes.length none (fun d =>
    d.dmaWork c 2 (fun x d => d.pull x f bytes []))) rfl ?_
  rw [flitIn_ok hflit]
  exact Dev.accept_congr (fun t ht => hwork t (ht.trans (Dev.queue_taken _ _ _ _))) _ _ _ _ _

end Dma

/-- Settles O6: a completion whose queue waits for nothing else is its record and RETIRE; an engine's choice is led by the queues'
priorities; a move without permutation reads and writes the elements of the same indices; and a PULL's reply comes to a device
with the queues as they were. -/
theorem dmaCommandsStartMoveAndComplete : Obligations.DmaCommandsStartMoveAndComplete := by
  unfold Obligations.DmaCommandsStartMoveAndComplete
  refine ⟨?_, ?_, ?_, ?_⟩
  · intro s c x a w hcmd hphase hfree
    refine ⟨⟨does_commandComplete hcmd hphase hfree rfl, fun y hy => Dev.not_mem_completeCmd hy⟩, ?_⟩
    intro hpart hq hheld heng hcls hsigs hmsg hgates hhalt hretire hdone
    have hend := Dev.completeCmd_plain hpart hq hsigs hmsg hgates hhalt hretire hdone hheld heng hcls (w := w) rfl
    exact does_commandComplete hcmd hphase hfree hend
  · intro s e waiting prio n hwait hop hroom
    obtain ⟨x, hx, hmax, htake⟩ := Dev.dmaTake_highest hroom hwait hop
    exact ⟨x, hx, hmax, does_dmaEngineStart htake⟩
  · intro s c x src dst acc rnd idxs a b rd w t v f done
    refine ⟨fun h hturn => does_copy h hturn rfl, ?_, ?_⟩
    · intro h hturn hperm hoffs hsrc hdst hac hbc hfmt hmx hin hmeet hread href hpoison hwrite
      have ⟨_, _, hcls, _⟩ := h
      have hmove := Dev.moveBegin_moves hcls hperm hoffs (a := a) rfl (b := b) rfl hsrc hdst hac hbc hfmt hmx hin hmeet
        (rd := rd) rfl hread href hpoison (w := w) rfl hwrite
      exact does_copy h hturn hmove
    · intro h hturn hdst hbc hmx hpat hbad
      have ⟨_, _, hcls, _⟩ := h
      have hfill := Dev.fill_plain hcls (t := t) rfl hdst hbc hmx hpat (w := f) rfl hbad
      exact does_fill h hturn hfill
  · intro s c x p f bytes n got h hturn hflit hlen hpoison hpeer hmem
    exact does_pull h hturn hflit hlen hpoison hpeer hmem

end Sys2Proof.Proofs

/-! Proofs of the family 11_training_step: writes of the epoch page (R258, R264, R271), the commit and the completion of an EPOCH
(R261, R262), and how its records gather (R259, R260, R263). Each part begins with the laws of its operations and ends with its
obligation. -/

namespace Sys2Proof.Machine

/-! ### Writes of the epoch page (R258, R264, R271) -/

section Page

variable {d : Dev} {p : Nat} {v : Word}

/-- GATEP and GATEF as a write of COL_EP_CTL leaves them: they wait while an EPOCH of the partition is in flight (Table 11-6). -/
def Dev.gatesSet (d : Dev) (p : Nat) (v : Word) : Dev :=
  if d.epochBusyOf p then
    { d with col := { d.col with gates := sset (fun _ => none) d.col.gates p (some (fld 15 0 v)) } }
  else d.wrFld (rColEpCtl p) 15 0 (fld 15 0 v)

theorem Dev.gatesSet_congr {w : Word} (h : fld 15 0 v = fld 15 0 w) : d.gatesSet p v = d.gatesSet p w := by
  unfold Dev.gatesSet
  rw [h]

theorem Dev.rd_flags_gatesSet : (d.gatesSet p v).rd (rColEpFlags p) = d.rd (rColEpFlags p) := by
  unfold Dev.gatesSet
  split
  · rfl
  · exact Dev.rd_wr_ne _ _ (by unfold rColEpFlags rColEpCtl; omega)

theorem Dev.partBusy_gatesSet : (d.gatesSet p v).partBusy p = d.partBusy p := by
  unfold Dev.gatesSet
  split <;> rfl

theorem Dev.epCtl_veto (src : Nat) (hveto : bitOf 16 v = true) (hclear : bitOf 17 v = false) :
    d.epCtl src p v = (d.gatesSet p v).wr (rColEpFlags p) (setBit 2 true (d.rd (rColEpFlags p))) := by
  rw [← Dev.rd_flags_gatesSet (v := v)]
  simp only [Dev.epCtl, hveto, hclear, if_true, Bool.not_false]
  rfl

/-- CLEAR alone: the flags are cleared and the write is recorded, or it is refused. -/
theorem Dev.epCtl_clear (src : Nat) (hveto : bitOf 16 v = false) (hclear : bitOf 17 v = true) : d.epCtl src p v =
    if d.partBusy p then (d.gatesSet p v).accessErr 6 src 4 (0x3F0000000000 + rColEpCtl p)
    else ((d.gatesSet p v).wr (rColEpFlags p) 0).flw 3 0x40 src (d.rd (rColEpFlags p)).toNat := by
  rw [← Dev.rd_flags_gatesSet (v := v), ← Dev.partBusy_gatesSet (v := v)]
  simp only [Dev.epCtl, hveto, hclear, Bool.false_eq_true, Bool.not_true, if_false]
  rfl

theorem Dev.epochSet_accepted {o : Origin} (ho : o = .mgmt ∨ ∃ k, o = .host k) (hidle : d.partBusy p = false) : d.epochSet o p v =
    ((d.wr (rColEpoch p) v).wr (rColEpFlags p) 0).flw 3 0x40 (srcOf o) ((d.rd (rColEpoch p)).toNat + 2 ^ 32 * v.toNat) := by
  obtain rfl | ⟨k, rfl⟩ := ho <;> simp [Dev.epochSet, hidle]

theorem Dev.epochSet_refused {o : Origin} (h : ¬(o = .mgmt ∨ ∃ k, o = .host k) ∨ d.partBusy p = true) :
    d.epochSet o p v = d.accessErr 6 (srcOf o) 4 (0x3F0000000000 + rColEpochSet p) := by
  obtain ho | hbusy := h
  · cases o <;> simp [Dev.epochSet] at ho ⊢
  · simp [Dev.epochSet, hbusy]

theorem Dev.nsCtl_reset (hreset : bitOf 0 v = true) : d.nsCtl p v = (d.wr (rColNsEma p) 0x7FC00000).wr (rColNsSuggest p) 0 :=
  if_pos hreset

end Page

end Sys2Proof.Machine

namespace Sys2Proof.Proofs
open Sys2Proof.Machine Sys2Proof.Safety

section PageRows

variable {s : State} {o : Origin} {p : Fin 8} {v : Word} {u : Dev}

theorem does_colEpochSet (h : Reaches s.dev o (rColEpochSet p)) (hu : s.dev.epochSet o p v = u) : Does (.colEpochSet o p v) s u :=
  does_of_run (f := fun d => d.rowWr o (rColEpochSet p) v) rfl ((rowWr_rColEpochSet _ _ _ p.isLt h).trans hu)

theorem does_colEpCtlVeto (h : Reaches s.dev o (rColEpCtl p)) (hu : s.dev.epCtl (srcOf o) p (setBit 16 true v) = u) :
    Does (.colEpCtlVeto o p v) s u :=
  does_of_run (f := fun d => d.rowWr o (rColEpCtl p) (setBit 16 true v)) rfl ((rowWr_rColEpCtl _ _ _ p.isLt h).trans hu)

theorem does_colEpCtlClear (h : Reaches s.dev o (rColEpCtl p)) (hu : s.dev.epCtl (srcOf o) p (setBit 17 true v) = u) :
    Does (.colEpCtlClear o p v) s u :=
  does_of_run (f := fun d => d.rowWr o (rColEpCtl p) (setBit 17 true v)) rfl ((rowWr_rColEpCtl _ _ _ p.isLt h).trans hu)

theorem does_colNsReset (h : Reaches s.dev o (rColNsCtl p)) (hu : s.dev.nsCtl p (setBit 0 true v) = u) : Does (.colNsReset o p v) s u :=
  does_of_run (f := fun d => d.rowWr o (rColNsCtl p) (setBit 0 true v)) rfl ((rowWr_rColNsCtl _ _ _ p.isLt h).trans hu)

end PageRows

/-- Settles O34: each row is the rule of its register, and the bit that the row sets leaves GATEP, GATEF and the other bit of COL_EP_CTL
as they were written. -/
theorem epochPageWritesAct : Obligations.EpochPageWritesAct := by
  unfold Obligations.EpochPageWritesAct
  intro s o p v busy old trusted gated
  have hgates (k : Nat) (hk : 15 < k) : s.dev.gatesSet p (setBit k true v) = gated :=
    Dev.gatesSet_congr (fld_setBit_ne _ _ _ _ _ (.inl hk))
  have hset (k : Nat) (hk : k < 32) : bitOf k (setBit k true v) = true := bitOf_setBit_same k true v hk
  have hclear (h : bitOf 16 v = false) :=
    Dev.epCtl_clear (d := s.dev) (p := p) (srcOf o) ((bitOf_setBit_ne 17 true v 16 (by decide)).trans h) (hset 17 (by decide))
  rw [hgates 17 (by decide)] at hclear
  refine ⟨fun h ho hidle => does_colEpochSet h (Dev.epochSet_accepted ho hidle),
    fun h href => does_colEpochSet h (Dev.epochSet_refused href), fun h hv => does_colEpCtlVeto h ?_,
    fun h hv hidle => does_colEpCtlClear h ((hclear hv).trans (if_neg (by simp [busy, hidle]))),
    fun h hv hbusy => does_colEpCtlClear h ((hclear hv).trans (if_pos hbusy)),
    fun h => does_colNsReset h (Dev.nsCtl_reset (hset 0 (by decide)))⟩
  rw [Dev.epCtl_veto _ (hset 16 (by decide)) ((bitOf_setBit_ne 16 true v 17 (by decide)).trans hv), hgates 16 (by decide)]

end Sys2Proof.Proofs

namespace Sys2Proof.Machine
open Sys2Proof.Safety

/-! ### The commit (R261, R265) -/

section Commit

variable (d : Dev) {p : Nat} {z : EpochSt} {r : EpochRes}

/-- COL_EPOCH advanced, its TC shown and the commit counted. -/
def Dev.committed (d : Dev) (p : Nat) (r : EpochRes) : Dev :=
  ((d.wr (rColEpoch p) (d.rd (rColEpoch p) + 1)).wr64 (rColEpTcLo p) r.tc).addSat (rColEpCommits p) 1

theorem Dev.rd_committed_aborts : (d.committed p r).rd (rColEpAborts p) = d.rd (rColEpAborts p) := by
  rw [Dev.committed, Dev.addSat, if_neg (by decide), Dev.rd_wr_ne _ _ (by unfold rColEpAborts rColEpCommits; omega), Dev.rd_wr64,
    if_neg (by unfold rColEpAborts rColEpTcLo; omega), if_neg (by unfold rColEpAborts rColEpTcLo; omega),
    Dev.rd_wr_ne _ _ (by unfold rColEpAborts rColEpoch; omega)]

theorem Dev.rd_committed_epoch : (d.committed p r).rd (rColEpoch p) = d.rd (rColEpoch p) + 1 := by
  rw [Dev.committed, Dev.addSat, if_neg (by decide), Dev.rd_wr_ne _ _ (by unfold rColEpoch rColEpCommits; omega), Dev.rd_wr64,
    if_neg (by unfold rColEpoch rColEpTcLo; omega), if_neg (by unfold rColEpoch rColEpTcLo; omega), Dev.rd_wr_same]

theorem Dev.rd64_committed : (d.committed p r).rd64 (rColEpTcLo p) = r.tc % 2 ^ 64 := by
  rw [← Dev.rd64_wr64 (d.wr (rColEpoch p) (d.rd (rColEpoch p) + 1)) (rColEpTcLo p) r.tc, Dev.committed, Dev.addSat, if_neg (by decide),
    Dev.rd64, Dev.rd64, Dev.rd_wr_ne _ _ (by unfold rColEpTcLo rColEpCommits; omega),
    Dev.rd_wr_ne _ _ (by unfold rColEpTcLo rColEpCommits; omega)]

theorem Dev.rd_committed_count : (d.committed p r).rd (rColEpCommits p) = satAdd32 (d.rd (rColEpCommits p)) 1 := by
  rw [Dev.committed, Dev.rd_addSat_same, Dev.rd_wr64, if_neg (by unfold rColEpCommits rColEpTcLo; omega),
    if_neg (by unfold rColEpCommits rColEpTcLo; omega), Dev.rd_wr_ne _ _ (by unfold rColEpCommits rColEpoch; omega)]

/-- The registers that hold the statistics. -/
def statRegs (p : Nat) : List Nat := [rColNsSkip p, rColNsLast p, rColNsEma p, rColNsSuggest p]

/-- The registers that say what was committed and when. -/
def commitRegs (p : Nat) : List Nat := [rColEpoch p, rColEpTcLo p, rColEpTcLo p + 4, rColEpCommits p, rColEpAborts p]

/-- They are neither copies nor statistics, nor what a switch clears. -/
theorem commitRegs_apart {p off : Nat} (h : off ∈ commitRegs p) :
    0x9800000 ≤ off ∧ ¬(off = rColNsSg p ∨ off = rColNsSl p ∨ off = rColEpFlags p) ∧ off ∉ statRegs p := by
  simp only [commitRegs, statRegs, rColEpoch, rColEpTcLo, rColEpCommits, rColEpAborts, rColNsSg, rColNsSl, rColEpFlags, rColNsSkip,
    rColNsLast, rColNsEma, rColNsSuggest, List.mem_cons, List.not_mem_nil, or_false] at h ⊢
  omega

theorem onlyRegs_epochStats (p : Nat) (e : EpochDesc) (r : EpochRes) :
    OnlyRegs d (d.epochStats p e r).2 (statRegs p) := by
  have hrefl := onlyRegs_refl d (statRegs p)
  unfold Dev.epochStats
  extract_lets n f micro bs bb gg gs2 gb2 g2 one trs b w old ema sug t
  split
  · exact onlyRegs_wr hrefl _ (by simp [statRegs])
  · exact onlyRegs_wr (onlyRegs_wr (onlyRegs_wr hrefl _ (by simp [statRegs])) _ (by simp [statRegs])) _ (by simp [statRegs])

theorem Dev.rd_epochClear (p off : Nat) : (d.epochClear p).rd off =
    if off = rColNsSg p ∨ off = rColNsSl p ∨ off = rColEpFlags p then 0 else d.rd off := by
  have hzero : BitVec.ofNat 32 Fp.zero.toBits = 0 := by decide
  have hnorms : ((d.wr (rColEpFlags p) 0).setNorms p (Fp.zero, Fp.zero)).rd off =
      (((d.wr (rColEpFlags p) 0).wr (rColNsSl p) 0).wr (rColNsSg p) 0).rd off := by
    rw [← hzero]
    rfl
  rw [Dev.epochClear, hnorms]
  simp only [Dev.rd_wr]
  split_ifs <;> simp_all

/-- What the clears leave, in a device with their registers: what the page says of commits. -/
theorem epochClear_page {u : Dev} (hu : ∀ off, 0x9800000 ≤ off → u.rd off = (d.epochClear p).rd off) :
    (∀ off ∈ commitRegs p, u.rd off = d.rd off) ∧ u.rd (rColEpFlags p) = 0 ∧ u.rd (rColNsSl p) = 0 ∧ u.rd (rColNsSg p) = 0 := by
  refine ⟨fun off h => ?_, ?_, ?_, ?_⟩
  · obtain ⟨hlo, hapart, -⟩ := commitRegs_apart h
    rw [hu off hlo, Dev.rd_epochClear, if_neg hapart]
  · rw [hu _ (by unfold rColEpFlags; omega), Dev.rd_epochClear, if_pos (by simp)]
  · rw [hu _ (by unfold rColNsSl; omega), Dev.rd_epochClear, if_pos (by simp)]
  · rw [hu _ (by unfold rColNsSg; omega), Dev.rd_epochClear, if_pos (by simp)]

theorem Dev.rd_setEpochSt (p : Nat) (z : EpochSt) (off : Nat) : (d.setEpochSt p z).rd off = d.rd off := rfl

theorem Dev.epochSt_setEpochSt (p : Nat) (z : EpochSt) : (d.setEpochSt p z).epochSt p = some z := by
  simp [Dev.epochSt, Dev.setEpochSt]

variable {d}
variable (hz : d.epochSt p = some z) (hres : z.phase = .result r)
include hz hres

theorem Dev.epochCommit_early (h : d.now < r.tc) : d.epochCommit p = d := by
  simp [Dev.epochCommit, hz, hres, h]

theorem Dev.epochCommit_clean (htc : r.tc ≤ d.now) (h : cleanStatus r.status = true) :
    ∃ t st, OnlyRegs (d.committed p r) t (statRegs p) ∧
      d.epochCommit p = (t.epochClear p).setEpochSt p { z with phase := .switched r true st } := by
  simp only [Dev.epochCommit, hz, hres, h, if_neg (Nat.not_lt.mpr htc), if_true]
  refine ⟨_, _, ?_, rfl⟩
  split
  · exact onlyRegs_epochStats _ p z.desc r
  · exact onlyRegs_refl _ _

theorem Dev.epochCommit_unclean (htc : r.tc ≤ d.now) (h : cleanStatus r.status = false) :
    d.epochCommit p = (d.epochClear p).setEpochSt p { z with phase := .switched r false none } := by
  simp [Dev.epochCommit, hz, hres, h, Nat.not_lt.mpr htc]

end Commit

/-! ### The end of a switched EPOCH (R260 to R262) -/

section Switched

variable {d : Dev} {p : Nat} {z : EpochSt} {r : EpochRes} {ok : Bool} {st : Option EpochStat} {x : Inflight}

theorem Dev.stepRecord_none (h : z.desc.out = 0) (status : Word) (tc n : Nat) (sums : Option (Word × Word)) (st : Option EpochStat) :
    d.stepRecord p z status tc n sums st = d := if_pos h

theorem Dev.epochFinish_of_cmd (h : d.epochCmd z = some x) (r : Result) : d.epochFinish z r = d.finish x r := by
  rw [Dev.epochFinish, h]

/-- What ends the command of a switched EPOCH: its status and result, with COL_EPOCH as it stands. -/
def Dev.epochResultOf (d : Dev) (p : Nat) (z : EpochSt) (r : EpochRes) (ok : Bool) : Result :=
  if ok then { Result.fresh with progress := (d.rd (rColEpoch p)).toNat }
  else { aborted 0x27 (colSrc (z.cmd.q.val % 2)) with
    progress := (d.rd (rColEpoch p)).toNat, result := r.status.toNat % 65536 }

variable (hz : d.epochSt p = some z) (hsw : z.phase = .switched r ok st)
include hz hsw

theorem Dev.epochComplete_early (h : d.now < r.tc + 500) : d.epochComplete p = d := by
  simp [Dev.epochComplete, hz, hsw, h]

theorem Dev.epochComplete_due (hcmd : d.epochCmd z = some x) (hwork : x.phase = .working) (htc : r.tc + 500 ≤ d.now) {t : Dev}
    (ht : d.stepRecord p z (d.rd (rColEpLast p)) (if ok then r.tc else 0) r.members (some (r.sl, r.sg)) st = t) :
    d.epochComplete p = t.epochFinish z (t.epochResultOf p z r ok) := by
  subst ht
  simp only [Dev.epochComplete, hz, hsw, hcmd, hwork, Nat.not_lt.mpr htc, Option.any_some, decide_false, decide_true, Bool.not_true,
    Bool.or_self, Bool.false_eq_true, if_false]
  cases ok <;> rfl

end Switched

/-! ### The completion of an EPOCH (R258, R271) -/

section Completion

variable (d : Dev) {off : Nat}

/-- A signal writes registers of sync counters. -/
theorem Dev.rd_signal (st : Status) {g : SigE} (hc : g.cnt < 2 ^ 18) (h : 0x2000000 ≤ off) : (d.signal st g).rd off = d.rd off := by
  have hval (t : Dev) (v : Word) : (t.wr (rQmgCntVal g.cnt) v).rd off = t.rd off := t.rd_wr_ne v (by unfold rQmgCntVal; omega)
  have hfault (t : Dev) (b : Bool) : (t.cntFault g.cnt b).rd off = t.rd off := t.rd_wr_ne _ (by unfold rQmgCntAdd; omega)
  unfold Dev.signal Dev.cntAdd
  dsimp only
  split_ifs <;> simp only [hval, hfault]

theorem Dev.rd_haltErr {q : Nat} (hq : q < 65536) (r : Result) (h : 0x2000000 ≤ off) : (d.haltErr q r).rd off = d.rd off := by
  unfold Dev.haltErr
  split
  · exact d.rd_wr_ne _ (by unfold rQmgQStatus; omega)
  · rfl

theorem Dev.rd_retire {q : Nat} (hq : q < 65536) (h : 0x2000000 ≤ off) (fuel : Nat) : (d.retire q fuel).rd off = d.rd off := by
  induction fuel generalizing d with
  | zero => rfl
  | succ fuel ih =>
    unfold Dev.retire
    dsimp only
    split
    · rfl
    · rw [ih]
      exact Dev.rd_wr_ne _ _ (by unfold rQmgQRetire; omega)

theorem Dev.rd_msixSend (port vec : Nat) : (d.msixSend port vec).rd off = d.rd off := by
  unfold Dev.msixSend
  dsimp only
  split <;> rfl

/-- No gate of R258 watches EPOCH commands. -/
theorem Dev.gate_epoch (p : Nat) (st : Status) : d.gate p 11 st = d := by simp [Dev.gate]

/-- An EPOCH's completion ends with what R258 and R271 add to it, and COL_EP_ABORTS is as it was until then. -/
theorem Dev.complete_epoch {x : Inflight} (hcls : x.cls = 11) (hp : x.part < 8) (hq : x.q < 65536) (ts0 : Nat) :
    ∃ t : Dev, t.rd (rColEpAborts x.part) = d.rd (rColEpAborts x.part) ∧ d.complete x ts0 = t.epochDone x.part x.res.status := by
  have hfar : 0x2000000 ≤ rColEpAborts x.part := by unfold rColEpAborts; omega
  have hwrite (a : Nat) (bs : Marked) : (d.writeMem ⟨some x.part, qmSrc x.q⟩ a bs).2.rd (rColEpAborts x.part) =
      d.rd (rColEpAborts x.part) :=
    (memOnly_writeMem (by rintro p ⟨rfl⟩; exact hp) d a bs).rd _ (by unfold memReg rColEpAborts; simp; omega)
  have hsignals (f : SigE → Bool) (t : Dev) : (t.each ((sigsOf x.slot x.ext).filter f) fun d g => d.signal x.res.status g).rd
      (rColEpAborts x.part) = t.rd (rColEpAborts x.part) :=
    List.foldlRecOn (motive := fun u : Dev => u.rd (rColEpAborts x.part) = t.rd (rColEpAborts x.part)) _ _ rfl fun u hu g hg =>
      (Dev.rd_signal u _ (cnt_lt_of_mem_sigsOf (List.mem_filter.mp hg).1) hfar).trans hu
  have hmsg (c : Prop) [Decidable c] (t : Dev) (a b : Nat) : (if c then t.msixSend a b else t).rd (rColEpAborts x.part) =
      t.rd (rColEpAborts x.part) := by
    split
    · exact t.rd_msixSend a b
    · rfl
  unfold Dev.complete
  refine ⟨_, ?_, if_pos hcls⟩
  rw [Dev.rd_retire _ hq hfar]
  show (Dev.haltErr _ x.q x.res).rd _ = _
  rw [Dev.rd_haltErr _ hq _ hfar, hcls, Dev.gate_epoch, hmsg, hsignals, hwrite]

/-- One that did not commit is counted, and the flags and the accumulators are cleared. -/
theorem Dev.epochDone_failed (p : Nat) {st : Status} (h : st ≠ .done) : ∃ t : Dev,
    t.rd (rColEpAborts p) = d.rd (rColEpAborts p) ∧ d.epochDone p st = (t.addSat (rColEpAborts p) 1).epochClear p := by
  unfold Dev.epochDone
  refine ⟨_, ?_, if_neg h⟩
  split
  · split
    · rfl
    · exact d.rd_wr_ne _ (by unfold rColEpAborts rColEpCtl; omega)
  · rfl

theorem Dev.completeCmd_epoch {x : Inflight} (hcls : x.cls = 11) (hp : x.part < 8) (hq : x.q < 65536) (hheld : x.held = false)
    (heng : x.eng = 127) (hst : x.res.status ≠ .done) : ∃ t : Dev, t.rd (rColEpAborts x.part) = d.rd (rColEpAborts x.part) ∧
      d.completeCmd x = (t.addSat (rColEpAborts x.part) 1).epochClear x.part := by
  unfold Dev.completeCmd
  rw [heng, Dev.dmaStat_none, hheld, if_neg Bool.false_ne_true]
  dsimp only
  rw [if_pos hcls]
  obtain ⟨t, ht, hcomplete⟩ := Dev.complete_epoch { d with queue := { d.queue with epochs := d.queue.epochs.filter (fun e =>
    match e.2 with
    | some st => !(st.cmd.q.val = x.q && st.cmd.i = x.i)
    | none => false) } } hcls hp hq x.ts
  obtain ⟨u, hu, hdone⟩ := t.epochDone_failed x.part hst
  exact ⟨u, hu.trans ht, hcomplete.trans hdone⟩

end Completion

end Sys2Proof.Machine

namespace Sys2Proof.Proofs
open Sys2Proof.Machine Sys2Proof.Safety

section Commit

variable {s : State} {p : Fin 8} {z : EpochSt} {r : EpochRes}

theorem does_epochCommit {u : Dev} (hu : s.dev.epochCommit p = u) : Does (.epochCommit p) s u :=
  does_of_run (f := fun d => d.epochCommit p) rfl hu

theorem does_epochComplete {u : Dev} (hu : s.dev.epochComplete p = u) : Does (.epochComplete p) s u :=
  does_of_run (f := fun d => d.epochComplete p) rfl hu

/-- No register of the epoch page is a copy. -/
theorem rd_epochPage_refresh (d : Dev) {off : Nat} (h : 0x9800000 ≤ off) : d.refresh.rd off = d.rd off :=
  d.rd_refresh_far (by omega)

/-- What a switch leaves: the flags and the accumulators cleared, and what the page says of commits as it was before the clears. -/
theorem switched_page (t : Dev) (p : Nat) (z : EpochSt) (r : EpochRes) (ok : Bool) (st : Option EpochStat) {u : Dev}
    (hu : u = ((t.epochClear p).setEpochSt p { z with phase := .switched r ok st }).refresh) :
    (∀ off ∈ commitRegs p, u.rd off = t.rd off) ∧ u.rd (rColEpFlags p) = 0 ∧ u.rd (rColNsSl p) = 0 ∧ u.rd (rColNsSg p) = 0 ∧
      u.mem = t.mem ∧ ∃ y, u.epochSt p = some { z with phase := .switched r ok y } := by
  subst hu
  obtain ⟨hkeep, hflags, hsl, hsg⟩ := epochClear_page t fun off h => (rd_epochPage_refresh _ h).trans (Dev.rd_setEpochSt _ p _ off)
  exact ⟨hkeep, hflags, hsl, hsg, Dev.refresh_mem _, st, Dev.epochSt_setEpochSt _ _ _⟩

end Commit

/-- Settles O33: the registers of the epoch page lie apart from each other, so a commit's own writes stand after the clears. -/
theorem epochsCommitAtTheirTime : Obligations.EpochsCommitAtTheirTime := by
  unfold Obligations.EpochsCommitAtTheirTime
  intro s p z r ok st x c now cleared
  refine ⟨fun hz hres => ⟨fun h => does_epochCommit (Dev.epochCommit_early hz hres h), fun htc hok => ?clean,
      fun htc hok => ?unclean⟩,
    fun hcmd hphase hfree hcls hpart hq hheld heng hst => ?failed,
    fun hz hsw hcmd hwork => ⟨fun h => does_epochComplete (Dev.epochComplete_early hz hsw h), fun htc hout => ?complete,
      fun htc hout => ?recorded⟩⟩
  case clean =>
    obtain ⟨t, y, ⟨hstat, -, hregs⟩, hdo⟩ := Dev.epochCommit_clean hz hres htc hok
    obtain ⟨hpage, hflags, hsl, hsg, hmem, hst⟩ := switched_page t p z r true y rfl
    have hkeep (off : Nat) (h : off ∈ commitRegs p) :=
      (hpage off h).trans (hstat off (commitRegs_apart h).2.2 (isCopy_far (by have := (commitRegs_apart h).1; omega)))
    refine runs_of_does (does_epochCommit hdo) (congrArg (·.tier.stall) hregs) ⟨?_, ?_, ?_, ?_, hflags, hsl, hsg,
      hmem.trans (congrArg (·.mem) hregs), hok ▸ hst⟩
    · exact (hkeep _ (by simp [commitRegs])).trans (Dev.rd_committed_epoch _)
    · rw [← s.dev.rd64_committed, Dev.rd64, hkeep _ (by simp [commitRegs]), hkeep _ (by simp [commitRegs]), Dev.rd64]
    · exact (hkeep _ (by simp [commitRegs])).trans (Dev.rd_committed_count _)
    · exact (hkeep _ (by simp [commitRegs])).trans (Dev.rd_committed_aborts _)
  case unclean =>
    obtain ⟨hkeep, hflags, hsl, hsg, hmem, hst⟩ := switched_page s.dev p z r false none rfl
    refine runs_of_does (does_epochCommit (Dev.epochCommit_unclean hz hres htc hok)) rfl ⟨hkeep _ (by simp [commitRegs]), ?_,
      hkeep _ (by simp [commitRegs]), hkeep _ (by simp [commitRegs]), hflags, hsl, hsg, hmem, hok ▸ hst⟩
    rw [Dev.rd64, hkeep _ (by simp [commitRegs]), hkeep _ (by simp [commitRegs]), Dev.rd64]
  case failed =>
    obtain ⟨t, ht, hdo⟩ := s.dev.completeCmd_epoch hcls (hpart ▸ p.isLt) hq hheld heng hst
    rw [hpart] at ht hdo
    obtain ⟨hkeep, hcleared⟩ := epochClear_page (t.addSat (rColEpAborts p) 1) fun off h => rd_epochPage_refresh _ h
    refine ⟨_, does_commandComplete hcmd hphase hfree hdo, fun _ => ⟨?_, hcleared⟩⟩
    rw [hkeep _ (by simp [commitRegs]), Dev.rd_addSat_same, ht]
  case complete =>
    exact does_epochComplete ((Dev.epochComplete_due hz hsw hcmd hwork htc (Dev.stepRecord_none hout ..)).trans
      (Dev.epochFinish_of_cmd hcmd _))
  case recorded =>
    exact does_epochComplete (Dev.epochComplete_due hz hsw hcmd hwork htc rfl)

end Sys2Proof.Proofs

namespace Sys2Proof.Machine

/-! ### Reads that no access holds up (R221) -/

section Stall

variable (d : Dev)

theorem Dev.stall_promotePage (n : Nat) : (d.promotePage n).2.tier.stall = d.tier.stall := by
  by_cases hs : (d.page n).state = .t2
  · have hev := evicted_takeFrame d (d.page n).part
    cases hf : d.takeFrame (d.page n).part with
    | mk f t =>
      rw [hf] at hev
      cases f with
      | none =>
        simp only [Dev.promotePage, hs, hf, ne_eq, not_true_eq_false, if_false]
        exact hev.stall
      | some f => exact (Dev.page_promotePage hs hf).1
  · rw [Dev.promotePage, if_pos hs]

/-- A read of a managed page that finds a place to land waits for nothing. -/
theorem Dev.stall_managedTarget (a : Nat) : (d.managedTarget a false).2.tier.stall = d.tier.stall := by
  have hpromote := d.stall_promotePage ((a - 0x80000000000) / 0x200000)
  unfold Dev.managedTarget
  dsimp only
  split
  · rfl
  · rfl
  · rfl
  · rfl
  · split
    · next he => rwa [he] at hpromote
    · next he =>
      rw [he] at hpromote
      exact (congrArg TierSt.stall (Dev.tier_add64 _ _ _)).trans hpromote

theorem Dev.stall_endWait (src n : Nat) : (d.endWait src n).tier.stall = d.tier.stall := by
  unfold Dev.endWait
  split <;> rfl

/-- A read that is not refused has not been put off. -/
theorem Dev.stall_resolve {acc : Acc} {a : Nat} (h : (d.resolve acc false a).1 ≠ .refused) :
    (d.resolve acc false a).2.tier.stall = d.tier.stall := by
  have hmanaged := d.stall_managedTarget a
  have hno (t : Dev) : (match acc.part with
      | some p => ((Target.refused, t.refuse p acc.src a) : Target × Dev)
      | none => (.refused, t)).1 = .refused := by split <;> rfl
  revert h
  unfold Dev.resolve
  dsimp only
  split
  · split
    · exact fun h => absurd rfl h
    · exact fun h => absurd (hno _) h
  · split
    · split
      · exact fun h => absurd rfl h
      · split
        · next he =>
          rw [he] at hmanaged
          exact fun _ => (Dev.stall_endWait _ _ _).trans hmanaged
        · next he =>
          rw [he] at hmanaged
          exact fun _ => (Dev.stall_endWait _ _ _).trans hmanaged
        · exact fun h => absurd (hno _) h
        · exact fun h => absurd rfl h
    · split <;> exact fun _ => rfl

theorem Dev.tier_readHost (p a n : Nat) : (d.readHost p a n).2.tier = d.tier := by
  have hpci (t : Dev) (b : Nat) : (t.pciErr p b a).tier = t.tier := by
    obtain h | h := t.raise_cases (rPciErr p) b (fun d => d.wr64 (rPciErrAddrLo p) a) <;> rw [Dev.pciErr, h] <;> rfl
  unfold Dev.readHost
  dsimp only
  split
  · rfl
  · split
    · exact hpci _ _
    · rfl

theorem first_eq_none {a b : Option Nat} : first a b = none ↔ a = none ∧ b = none := by
  cases a <;> simp [first]

/-- From `r` to `u`, two moments of a read, nothing was put off if the data up to `u` came whole and clean. -/
def ReadOn (r u : Rd × Dev) : Prop := u.1.bad = none → r.1.bad = none ∧ u.2.tier.stall = r.2.tier.stall

theorem ReadOn.refl (r : Rd × Dev) : ReadOn r r := fun h => ⟨h, rfl⟩

theorem ReadOn.trans {a b c : Rd × Dev} (h : ReadOn a b) (k : ReadOn b c) : ReadOn a c := fun hc =>
  ⟨(h (k hc).1).1, (k hc).2.trans (h (k hc).1).2⟩

theorem Dev.stall_readReq (acc : Acc) (req a n : Nat) (h : (d.readReq acc req a n).1.bad = none) :
    (d.readReq acc req a n).2.tier.stall = d.tier.stall := by
  have hread : ReadOn (⟨[], none, false, false⟩, d) (d.readReq acc req a n) := by
    unfold Dev.readReq
    refine foldl_rel ReadOn ReadOn.refl (fun _ _ _ => ReadOn.trans) _ (fun r e => ?_) _ _
    have hresolve := r.2.stall_resolve (acc := acc) (a := e.1)
    dsimp only [ReadOn]
    split
    · simp [first_eq_none]
    · next he =>
      rw [he] at hresolve
      exact fun hb => ⟨hb, hresolve (by simp)⟩
    · next he =>
      rw [he] at hresolve
      exact fun hb => ⟨(first_eq_none.mp hb).1, (congrArg TierSt.stall (physOnly_readPhys _ _ _ _).tier).trans (hresolve (by simp))⟩
    · next he =>
      rw [he] at hresolve
      exact fun hb => ⟨(first_eq_none.mp hb).1, (congrArg TierSt.stall (Dev.tier_readHost _ _ _ _)).trans (hresolve (by simp))⟩
  exact (hread h).2

theorem Dev.stall_readStruct {acc : Acc} {al a n : Nat} {l : List Byte} {t : Dev} (h : d.readStruct acc al a n = (some l, t)) :
    t.tier.stall = d.tier.stall := by
  unfold Dev.readStruct at h
  split at h
  · cases h
  · obtain ⟨hl, rfl⟩ := Prod.mk.inj h
    split at hl
    · cases hl
    · next hbad => exact d.stall_readReq acc 4096 a n (Option.not_isSome_iff_eq_none.mp hbad)

end Stall

/-! ### Sending (R287 to R291) -/

/-- A count that sending moves: the bytes that collectives and ports have sent. -/
def sentReg (off : Nat) : Prop :=
  off = rColWireBytesLo ∨ off = rColWireBytesLo + 4 ∨ (0xA000000 ≤ off ∧ (off % 0x10000 = 0x60 ∨ off % 0x10000 = 0x64))

/-- From `d` to `t` messages have been handed on: commands, pages and the moments at which EPOCHs were given up are as they were, and so
are the registers but for those counts. -/
structure Posts (d t : Dev) : Prop where
  queue : t.queue = d.queue
  tier : t.tier = d.tier
  gaveUp : t.col.gaveUp = d.col.gaveUp
  rd : ∀ off, ¬sentReg off → t.rd off = d.rd off

/-- From `d` to `t` messages have been sent, and no EPOCH record has come. -/
structure SendOnly (d t : Dev) : Prop extends Posts d t where
  recs : t.col.epochRecs = d.col.epochRecs

theorem Posts.refl (d : Dev) : Posts d d := ⟨rfl, rfl, rfl, fun _ _ => rfl⟩

theorem Posts.trans {a b c : Dev} (h : Posts a b) (k : Posts b c) : Posts a c :=
  ⟨k.queue.trans h.queue, k.tier.trans h.tier, k.gaveUp.trans h.gaveUp, fun off ho => (k.rd off ho).trans (h.rd off ho)⟩

theorem SendOnly.refl (d : Dev) : SendOnly d d := ⟨.refl d, rfl⟩

theorem SendOnly.trans {a b c : Dev} (h : SendOnly a b) (k : SendOnly b c) : SendOnly a c :=
  ⟨h.toPosts.trans k.toPosts, k.recs.trans h.recs⟩

theorem sendOnly_setPort (d : Dev) (p : Nat) (s : PortSt) : SendOnly d (d.setPort p s) := ⟨⟨rfl, rfl, rfl, fun _ _ => rfl⟩, rfl⟩

theorem sendOnly_send (d : Dev) (m : Sent) : SendOnly d (d.send m) := ⟨⟨rfl, rfl, rfl, fun _ _ => rfl⟩, rfl⟩

theorem sendOnly_add64 {off : Nat} (h : sentReg off) (h4 : sentReg (off + 4)) (d : Dev) (n : Nat) : SendOnly d (d.add64 off n) := by
  unfold Dev.add64
  split
  · exact .refl d
  · refine ⟨⟨rfl, rfl, rfl, fun k hk => ?_⟩, rfl⟩
    rw [Dev.rd_wr64, if_neg (by rintro rfl; exact hk h4), if_neg (by rintro rfl; exact hk h)]

/-- The counts of a message sent on port `p`. -/
theorem sendOnly_counts (d : Dev) (p m n : Nat) : SendOnly d ((d.add64 (rLnkTxBytesLo p) m).add64 rColWireBytesLo n) :=
  (sendOnly_add64 (by unfold sentReg rLnkTxBytesLo; omega) (by unfold sentReg rLnkTxBytesLo; omega) d m).trans
    (sendOnly_add64 (.inl rfl) (.inr (.inl rfl)) _ n)

theorem sendOnly_emit (d : Dev) (p type vc : Nat) (last : Bool) (len seq : Nat) (poison : Bool) (dest : Nat) (o : Option OutMsg)
    (k : Nat) : SendOnly d (d.emit p type vc last len seq poison dest o k) :=
  (sendOnly_setPort d p _).trans (sendOnly_send _ _)

theorem sendOnly_sendFrames (d : Dev) (p num : Nat) (o : OutMsg) : SendOnly d (d.sendFrames p num o) :=
  foldl_rel SendOnly SendOnly.refl (fun _ _ _ => SendOnly.trans) _ (fun t _ => sendOnly_send t _) _ d

theorem sendOnly_transmit (d : Dev) (p : Nat) (e : OutMsg × Nat) : SendOnly d (d.transmit p e) := by
  unfold Dev.transmit
  dsimp only
  split
  · exact ((sendOnly_counts _ _ _ _).trans (sendOnly_setPort _ _ _)).trans (sendOnly_sendFrames _ _ _ _)
  · exact ((sendOnly_counts _ _ _ _).trans (sendOnly_setPort _ _ _)).trans (sendOnly_emit _ _ _ _ _ _ _ _ _ _ _)

theorem sendOnly_pump (p n : Nat) (d : Dev) : SendOnly d (d.pump p n) := by
  induction n generalizing d with
  | zero => exact .refl d
  | succ n ih =>
    unfold Dev.pump
    dsimp only
    split
    · exact (sendOnly_transmit _ _ _).trans (ih _)
    · exact .refl d

theorem sendOnly_drain (d : Dev) (p : Nat) : SendOnly d (d.drain p) := sendOnly_pump _ _ _

theorem sendOnly_portSend (d : Dev) (p : Nat) (o : OutMsg) : SendOnly d (d.portSend p o) :=
  (sendOnly_setPort _ _ _).trans (sendOnly_drain _ _)

theorem sendOnly_sendTo (d : Dev) (o : OutMsg) : SendOnly d (d.sendTo o) := by
  unfold Dev.sendTo
  split
  · exact sendOnly_portSend _ _ _
  · exact ⟨⟨rfl, rfl, rfl, fun _ _ => rfl⟩, rfl⟩

theorem posts_epochRec (d : Dev) (p : Nat) (r : EpochRecord) : Posts d (d.epochRec p r) := by
  unfold Dev.epochRec
  dsimp only
  split
  · exact .refl d
  · exact ⟨rfl, rfl, rfl, fun _ _ => rfl⟩

/-- Telling the other members of a group reaches the partitions of this device and the ports. -/
theorem posts_epochTell (d : Dev) (p g : Nat) (r : EpochRecord) : Posts d (d.epochTell p g r) := by
  unfold Dev.epochTell
  refine foldl_rel Posts Posts.refl (fun _ _ _ => Posts.trans) _ (fun t k => ?_) _ d
  dsimp only
  split
  · exact posts_epochRec _ _ _
  · exact (sendOnly_sendTo _ _).toPosts

/-! ### Receiving (R287 to R293) -/

/-- From `d` to `t` a message has come: the commands, the EPOCH records and the states of the ports are as they were. -/
structure Heard (d t : Dev) : Prop where
  queue : t.queue = d.queue
  recs : t.col.epochRecs = d.col.epochRecs
  gaveUp : t.col.gaveUp = d.col.gaveUp
  status : ∀ p < 24, t.rd (rLnkStatus p) = d.rd (rLnkStatus p)

theorem Heard.refl (d : Dev) : Heard d d := ⟨rfl, rfl, rfl, fun _ _ => rfl⟩

theorem Heard.trans {a b c : Dev} (h : Heard a b) (k : Heard b c) : Heard a c :=
  ⟨k.queue.trans h.queue, k.recs.trans h.recs, k.gaveUp.trans h.gaveUp, fun p hp => (k.status p hp).trans (h.status p hp)⟩

theorem SendOnly.heard {d t : Dev} (h : SendOnly d t) : Heard d t :=
  ⟨h.queue, h.recs, h.gaveUp, fun p _ => h.rd _ (by unfold sentReg rLnkStatus rColWireBytesLo; omega)⟩

theorem MemOnly.heard {d t : Dev} (h : MemOnly d t) : Heard d t := by
  have hcol : t.col = d.col := congrArg (·.2.2.2.2.2.2.2.2.1) h.still
  exact ⟨h.queue, by rw [hcol], by rw [hcol], fun p hp => h.rd _ (by unfold memReg rLnkStatus; simp; omega)⟩

theorem heard_wr {off : Nat} (h : ∀ p < 24, rLnkStatus p ≠ off) (d : Dev) (v : Word) : Heard d (d.wr off v) :=
  ⟨rfl, rfl, rfl, fun p hp => d.rd_wr_ne v (h p hp)⟩

theorem heard_add64 {off : Nat} (h : ∀ p < 24, rLnkStatus p ≠ off ∧ rLnkStatus p ≠ off + 4) (d : Dev) (n : Nat) :
    Heard d (d.add64 off n) := by
  unfold Dev.add64
  split
  · exact .refl d
  · exact (heard_wr (fun p hp => (h p hp).1) d _).trans (heard_wr (fun p hp => (h p hp).2) _ _)

theorem heard_msixSend (d : Dev) (port vec : Nat) : Heard d (d.msixSend port vec) := by
  unfold Dev.msixSend
  dsimp only
  split <;> exact ⟨rfl, rfl, rfl, fun _ _ => rfl⟩

theorem heard_flw (d : Dev) (a b c e : Nat) : Heard d (d.flw a b c e) := (memOnly_flw d a b c e).heard

theorem heard_colErr (d : Dev) (bit p g coord : Nat) : Heard d (d.colErr bit p g coord) := by
  have hcol (off : Nat) (h : off < 0xA000000) (t : Dev) (v : Word) : Heard t (t.wr off v) :=
    heard_wr (fun p _ => by unfold rLnkStatus; omega) t v
  have hset := hcol rColErr (by decide) d (setBit bit true (d.rd rColErr))
  refine Heard.trans ?_ (heard_flw _ _ _ _ _)
  obtain h | h := d.raise_cases rColErr bit (fun d => d.wr rColErrInfo (BitVec.ofNat 32 (g % 64 + 64 * (p % 16) + 65536 * coord)))
    <;> rw [h]
  · exact hset.trans (hcol rColErrInfo (by decide) _ _)
  · exact hset

theorem heard_colEvent (d : Dev) (kind coord port serial : Nat) : Heard d (d.colEvent kind coord port serial) := by
  have hmsg (c : Prop) [Decidable c] (t : Dev) (a b : Nat) : Heard t (if c then t.msixSend a b else t) := by
    split
    · exact heard_msixSend _ _ _
    · exact .refl t
  have hhead (t : Dev) (v : Word) : Heard t (t.wr rColEvtHead v) := heard_wr (fun p _ => by unfold rLnkStatus rColEvtHead; omega) t v
  unfold Dev.colEvent
  dsimp only
  split
  · exact (heard_flw _ _ _ _ _).trans (heard_colErr _ _ _ _ _)
  · exact (((memOnly_writeMem (acc_none_ok _) _ _ _).heard.trans (hhead _ _)).trans (heard_flw _ _ _ _ _)).trans (hmsg _ _ _ _)

theorem heard_setPartner (d : Dev) (c : Nat) (e : PartnerSt) : Heard d (d.setPartner c e) := by
  unfold Dev.setPartner
  extract_lets e' old c' t i
  have ht : Heard d t := ⟨rfl, rfl, rfl, fun _ _ => rfl⟩
  split
  · exact ht
  · exact ht.trans (memOnly_writeMem (acc_none_ok _) t _ _).heard

theorem heard_hear (d : Dev) (c : Nat) (serial : Option Nat) (port : Nat) : Heard d (d.hear c serial port) := by
  unfold Dev.hear
  dsimp only
  split
  · exact .refl d
  · split
    · exact heard_setPartner _ _ _
    · exact (heard_setPartner _ _ _).trans (heard_colEvent _ _ _ _ _)

theorem heard_flitAcks (d : Dev) (p : Nat) (f : FlitHdr) : Heard d (d.flitAcks p f) := by
  unfold Dev.flitAcks
  split
  · exact .refl d
  · exact ((sendOnly_setPort _ _ _).trans (sendOnly_drain _ _)).heard

theorem heard_taken (d : Dev) (p : Nat) (f : FlitHdr) (k : Nat) : Heard d (Sys2Proof.Safety.taken d p f k) := by
  unfold Sys2Proof.Safety.taken
  split
  · exact .refl d
  · exact (sendOnly_setPort _ _ _).heard

/-- The device in which an accepted flit of `n` payload bytes acts: the flit is counted, it acknowledges, and its source is heard. -/
def Dev.flitHeard (d : Dev) (p : Nat) (f : FlitHdr) (kind : FlitKind) (n : Nat) (serial : Option Nat) : Dev :=
  let d := if f.fec = .corrected then d.add64 (rLnkFecCorrLo p) 1 else d
  let d := (d.add64 (rLnkRxBytesLo p) n).flitAcks p f
  if kind = .hello || d.portState p ≠ 3 then d
  else (d.setPort p { d.port p with silent := (d.port p).silent.filter (· ≠ f.src.toNat) }).hear f.src.toNat serial p

/-- The acknowledgement of a message on an Ethernet port. -/
def Dev.flitAnswered (d : Dev) (p : Nat) (f : FlitHdr) (kind : FlitKind) : Dev :=
  if d.portEth p && kind ≠ .bare then
    d.portSend p { vc := 5, dest := f.src.toNat, hub := p / 12, poison := false, kind := .ctrl f.seq.toNat }
  else d

theorem Dev.accept_eq (d : Dev) (p : Nat) (f : FlitHdr) (kind : FlitKind) (n : Nat) (serial : Option Nat) (act : Dev → Dev) :
    d.accept p f kind n serial act = ((act (d.flitHeard p f kind n serial)).flitAnswered p f kind).comeUp p := rfl

theorem heard_flitHeard (d : Dev) (p : Nat) (f : FlitHdr) (kind : FlitKind) (n : Nat) (serial : Option Nat) :
    Heard d (d.flitHeard p f kind n serial) := by
  unfold Dev.flitHeard
  extract_lets t u
  have ht : Heard d t := by
    dsimp only [t]
    split
    · exact heard_add64 (fun q _ => by unfold rLnkStatus rLnkFecCorrLo; omega) d 1
    · exact .refl d
  have hu : Heard d u :=
    ht.trans ((heard_add64 (fun q _ => by unfold rLnkStatus rLnkRxBytesLo; omega) t n).trans (heard_flitAcks _ p f))
  split
  · exact hu
  · exact hu.trans ((sendOnly_setPort _ _ _).heard.trans (heard_hear _ _ _ _))

theorem sendOnly_flitAnswered (d : Dev) (p : Nat) (f : FlitHdr) (kind : FlitKind) : SendOnly d (d.flitAnswered p f kind) := by
  unfold Dev.flitAnswered
  split
  · exact sendOnly_portSend _ _ _
  · exact .refl d

/-- A port that is UP does not come up again. -/
theorem Dev.comeUp_up {d : Dev} {p : Nat} (h : d.portState p = 3) : d.comeUp p = d := by simp [Dev.comeUp, h]

theorem Dev.portState_congr {d t : Dev} {p : Nat} (h : t.rd (rLnkStatus p) = d.rd (rLnkStatus p)) : t.portState p = d.portState p :=
  congrArg (fld 2 0) h

/-- On a port that is UP the records after a message are those that its action leaves. -/
theorem Dev.recs_accept {d : Dev} {p : Nat} (hp : p < 24) (hup : d.portState p = 3) (f : FlitHdr) (kind : FlitKind) (n : Nat)
    (serial : Option Nat) {act : Dev → Dev} (hact : ∀ t, Posts t (act t)) :
    (d.accept p f kind n serial act).col.epochRecs = (act (d.flitHeard p f kind n serial)).col.epochRecs := by
  have hstatus (t : Dev) (h : Posts (d.flitHeard p f kind n serial) t) : t.rd (rLnkStatus p) = d.rd (rLnkStatus p) :=
    (h.rd _ (by unfold sentReg rLnkStatus rColWireBytesLo; omega)).trans ((heard_flitHeard d p f kind n serial).status p hp)
  have hanswer := sendOnly_flitAnswered (act (d.flitHeard p f kind n serial)) p f kind
  rw [Dev.accept_eq, Dev.comeUp_up ((Dev.portState_congr (hstatus _ ((hact _).trans hanswer.toPosts))).trans hup)]
  exact hanswer.recs

/-! ### The records of a group (R260, R263) -/

section Records

variable {d : Dev} {p : Nat} {r : EpochRecord}

theorem Dev.epochRec_lost (h : (d.epochSt p).any (·.phase = .lost) = true) : d.epochRec p r = d := by
  simp only [Dev.epochRec, h, Bool.true_or, if_true]

theorem Dev.recs_epochRec (h : (d.epochSt p).any (·.phase = .lost) = false) (hgave : sget (fun _ => 0) d.col.gaveUp p = 0) :
    (d.epochRec p r).col.epochRecs = d.col.epochRecs.filter (fun e => !(e.1 = p && e.2.rank = r.rank)) ++ [(p, r)] := by
  simp [Dev.epochRec, h, hgave]

end Records

theorem Dev.epochSt_of_queue {d t : Dev} (h : t.queue = d.queue) (p : Nat) : t.epochSt p = d.epochSt p := by
  rw [Dev.epochSt, Dev.epochSt, h]

theorem Dev.rd_finish (d : Dev) (x : Inflight) (r : Result) (off : Nat) : (d.finish x r).rd off = d.rd off := rfl

theorem Dev.epochSt_finish (d : Dev) (x : Inflight) (r : Result) (p : Nat) : (d.finish x r).epochSt p = d.epochSt p := rfl

/-! ### The EPOCH command gathers (R259, R260) -/

/-- A command set to work is working. -/
theorem Dev.working_of_mem {d : Dev} {q : Nat} {i : Word} {y : Inflight}
    (hy : y ∈ (d.setCmd q i fun y => { y with phase := .working }).queue.infl) (hq : y.q = q) (hi : y.i = i) : y.phase = .working := by
  obtain ⟨w, -, he⟩ := Dev.mem_setCmd.mp hy
  split at he
  · rw [he]
  · next h => exact absurd (he ▸ ⟨hq, hi⟩) h

section Start

variable {d : Dev} {x : Inflight} {z : EpochSt} (hz : d.epochSt x.part = some z) (hheld : z.phase = .held)
include hz hheld

theorem Dev.epochStart_refused {r : Option (List Byte) × Dev} (hread : d.readStruct (x.acc (colSrc (x.q % 2))) 64 (x.opd 0) 64 = r)
    (h : r.1 = none ∨ ∃ l, r.1 = some l ∧ (epochDescOk l = false ∨ r.2.groupOn x.part (epochDesc l).group = false)) :
    d.epochStart x = r.2.finish x { aborted 3 (colSrc (x.q % 2)) with progress := (r.2.rd (rColEpoch x.part)).toNat } := by
  obtain ⟨m, t⟩ := r
  dsimp only at h
  obtain rfl | ⟨l, rfl, hbad⟩ := h
  · simp only [Dev.epochStart, hz, hheld, hread, ne_eq, not_true_eq_false, if_false]
  · have hbad : (!epochDescOk l || !t.groupOn x.part (epochDesc l).group) = true := by
      obtain h | h := hbad <;> simp [h]
    simp only [Dev.epochStart, hz, hheld, hread, hbad, ne_eq, not_true_eq_false, if_false, if_true]

/-- The EPOCH of `z` once its descriptor `e` has been read: it gathers, and its record has its rank. -/
def Dev.gathering (d : Dev) (p : Nat) (z : EpochSt) (e : EpochDesc) : EpochSt :=
  { z with desc := e, phase := .gathering, local_ := { z.local_ with rank := (d.levels p e.group).own d.coord p } }

theorem Dev.epochStart_gathers {l : List Byte} {t : Dev}
    (hread : d.readStruct (x.acc (colSrc (x.q % 2))) 64 (x.opd 0) 64 = (some l, t)) (hok : epochDescOk l = true)
    (hon : t.groupOn x.part (epochDesc l).group = true) (hveto : (leAt l 4 4).testBit 1 = false) (hp : x.part < 8)
    (hwhole : bitOf 1 (t.rd (rColGState x.part (epochDesc l).group)) = false) :
    d.epochStart x = ((t.setCmd x.q x.i fun y => { y with phase := .working }).setEpochSt x.part
      (t.gathering x.part z (epochDesc l))).epochTell x.part (epochDesc l).group (t.gathering x.part z (epochDesc l)).local_ := by
  have hgroup : (epochDesc l).group < 64 := by
    simp only [epochDescOk, Bool.and_eq_true, decide_eq_true_eq] at hok
    omega
  have htold (u : Dev) (r : EpochRecord) (hu : u.regs = t.regs) :
      bitOf 1 ((u.epochTell x.part (epochDesc l).group r).rd (rColGState x.part (epochDesc l).group)) = false := by
    rw [(posts_epochTell u _ _ r).rd _ (by unfold sentReg rColGState rColWireBytesLo; omega), Dev.rd, hu]
    exact hwhole
  simp only [Dev.epochStart, hz, hheld, hread, hok, hon, hveto, ne_eq, not_true_eq_false, Bool.not_true, Bool.or_self,
    Bool.false_eq_true, if_false]
  unfold Dev.gathering
  rw [if_neg]
  exact ne_true_of_eq_false (htold _ _ (by rfl))

end Start

/-! ### The result and the timeout (R260, R263) -/

section Gathering

variable {d : Dev} {p : Nat} {z : EpochSt}

/-- The records of `z`'s members that have arrived, with its own. -/
def Dev.records (d : Dev) (p : Nat) (z : EpochSt) : List EpochRecord := z.local_ :: (d.col.epochRecs.filter (·.1 = p)).map (·.2)

/-- The device in which partition `p`'s EPOCH `z` has been given up. -/
def Dev.givenUp (d : Dev) (p : Nat) (z : EpochSt) : Dev :=
  let t := ((d.epFlag p 5).wr (rColEpLast p) (setBit 5 true z.local_.status)).setEpochSt p { z with phase := .lost }
  { t with col := { t.col with
    epochRecs := t.col.epochRecs.filter (·.1 ≠ p), gaveUp := sset (fun _ => 0) t.col.gaveUp p t.now } }

theorem Dev.rd_givenUp_flags : (d.givenUp p z).rd (rColEpFlags p) = setBit 5 true (d.rd (rColEpFlags p)) :=
  (Dev.rd_wr_ne _ _ (by unfold rColEpFlags rColEpLast; omega)).trans (d.rd_wr_same _ _)

theorem Dev.rd_givenUp_epoch : (d.givenUp p z).rd (rColEpoch p) = d.rd (rColEpoch p) :=
  (Dev.rd_wr_ne _ _ (by unfold rColEpoch rColEpLast; omega)).trans (d.rd_wr_ne _ (by unfold rColEpoch rColEpFlags; omega))

theorem Dev.epochSt_givenUp : (d.givenUp p z).epochSt p = some { z with phase := .lost } := Dev.epochSt_setEpochSt _ _ _

variable (hz : d.epochSt p = some z)
include hz

theorem Dev.epochResult_waits
    (hall : (List.range (d.levels p z.desc.group).n).all (fun k => (d.records p z).any (·.rank = k)) = false) : d.epochResult p = d := by
  unfold Dev.records at hall
  simp only [Dev.epochResult, hz, hall, Bool.not_false, Bool.or_true, if_true]

variable (hphase : z.phase = .gathering)
include hphase

theorem Dev.epochResult_all {n : Nat} {rs : List EpochRecord} (hn : (d.levels p z.desc.group).n = n) (hrs : d.records p z = rs)
    (hall : (List.range n).all (fun k => rs.any (·.rank = k)) = true) : d.epochResult p =
      (({ d with col := { d.col with epochRecs := d.col.epochRecs.filter (fun e => !(e.1 = p && e.2.rank < n)) } }).wr (rColEpLast p)
        (setBit 7 (decide ((epochReduce n rs).tc < d.now)) (epochReduce n rs).status)).setEpochSt p
        { z with phase := .result (epochReduce n rs) } := by
  subst hn hrs
  unfold Dev.records at hall ⊢
  simp only [Dev.epochResult, hz, hphase, hall, ne_eq, not_true_eq_false, decide_false, Bool.not_true, Bool.or_self, Bool.false_eq_true,
    if_false]

/-- An EPOCH given up without a step record ends its command ABORTED. -/
theorem Dev.epochLost_gathering {x : Inflight} (hout : z.desc.out = 0) (hcmd : d.epochCmd z = some x) :
    d.epochLost p = (d.givenUp p z).finish x { aborted 0x27 (colSrc (z.cmd.q.val % 2)) with
      result := (setBit 5 true z.local_.status).toNat % 65536, progress := (d.rd (rColEpoch p)).toNat } := by
  have hcmd' : (d.givenUp p z).epochCmd z = some x := hcmd
  have hlost : d.epochLost p = ((d.givenUp p z).stepRecord p z (setBit 5 true z.local_.status) 0
      ((d.givenUp p z).levels p z.desc.group).n none none).epochFinish z { aborted 0x27 (colSrc (z.cmd.q.val % 2)) with
        result := (setBit 5 true z.local_.status).toNat % 65536,
        progress := (((d.givenUp p z).stepRecord p z (setBit 5 true z.local_.status) 0
          ((d.givenUp p z).levels p z.desc.group).n none none).rd (rColEpoch p)).toNat } := by
    simp only [Dev.epochLost, hz, hphase, ne_eq, not_true_eq_false, if_false]
    rfl
  rw [hlost, Dev.stepRecord_none hout, Dev.epochFinish_of_cmd hcmd', Dev.rd_givenUp_epoch]

end Gathering

end Sys2Proof.Machine

namespace Sys2Proof.Proofs
open Sys2Proof.Machine Sys2Proof.Safety

section Gather

variable {s : State} {p : Fin 8} {z : EpochSt}

/-- A dispatched EPOCH command starts. -/
theorem does_epoch {c : CmdRef} {x : Inflight} {u : Dev} (h : Dispatched s.dev c x 11 0) (hu : s.dev.epochStart x = u) :
    Does (.epoch c) s u := by
  obtain ⟨hcmd, hphase, hcls, -⟩ := h
  exact does_of_run (f := fun d => d.work c (fun x => x.cls = 11) (fun x d => d.epochStart x)) rfl
    ((Dev.work_eq _ c x _ _ hcmd hphase (by simp [hcls])).trans hu)

theorem does_epochRecordReceive {port : Fin 24} {f : FlitHdr} (h : FlitOk s.dev port f .traffic) (r : EpochRecord) :
    Does (.epochRecordReceive ⟨port, f⟩ (p, r)) s
      ((taken s.dev port f 1).accept port f .traffic 240 none fun d => d.epochRec p r) :=
  does_of_run (f := fun d => d.flitIn port f .traffic 1 240 none fun d => d.epochRec p r) rfl (flitIn_ok h _ _ _ _)

theorem does_epochResult {u : Dev} (hu : s.dev.epochResult p = u) : Does (.epochResult p) s u :=
  does_of_run (f := fun d => d.epochResult p) rfl hu

theorem exec_epochTimeout : exec (.epochTimeout p) s = State.run (fun d => match d.epochSt p with
    | some e => if e.d + e.desc.timeout * 1000 ≤ d.now then d.epochLost p else d
    | none => d) s := rfl

theorem does_epochTimeout_early (hz : s.dev.epochSt p = some z) (h : s.dev.now < z.d + z.desc.timeout * 1000) :
    Does (.epochTimeout p) s s.dev :=
  does_of_run exec_epochTimeout (by simp [hz, Nat.not_le.mpr h])

theorem does_epochTimeout_due (hz : s.dev.epochSt p = some z) (h : z.d + z.desc.timeout * 1000 ≤ s.dev.now) {u : Dev}
    (hu : s.dev.epochLost p = u) : Does (.epochTimeout p) s u :=
  does_of_run exec_epochTimeout (by simp [hz, h, hu])

end Gather

/-- A port that takes traffic is UP. -/
theorem portState_of_takes {d : Dev} {p : Nat} (h : d.takes p .traffic = true) : d.portState p = 3 := by
  unfold Dev.takes at h
  split at h
  · assumption
  · simp at h
  · simp at h
  · cases h

/-- A record that comes is filed in a device with the commands and the records as they were. -/
theorem epochRecord_filed {d : Dev} {p : Fin 8} {port : Fin 24} {f : FlitHdr} (h : FlitOk d port f .traffic) (r : EpochRecord) :
    ∃ t, Heard d t ∧ ((taken d port f 1).accept port f .traffic 240 none fun d => d.epochRec p r).col.epochRecs =
      (t.epochRec p r).col.epochRecs := by
  obtain ⟨htakes, -⟩ := h
  have htaken := heard_taken d port f 1
  have hup := (Dev.portState_congr (htaken.status port port.isLt)).trans (portState_of_takes htakes)
  exact ⟨_, htaken.trans (heard_flitHeard _ port f .traffic 240 none),
    Dev.recs_accept port.isLt hup f .traffic 240 none fun t => posts_epochRec t p r⟩

section Runs

variable {s : State} {p : Fin 8} {z : EpochSt}

/-- An EPOCH whose descriptor stands gathers, and its command works. -/
theorem runs_epoch_gathers {c : CmdRef} {x : Inflight} {l : List Byte} {t : Dev} (h : Dispatched s.dev c x 11 0) (hp : x.part < 8)
    (hz : s.dev.epochSt x.part = some z) (hheld : z.phase = .held)
    (hread : s.dev.readStruct (x.acc (colSrc (x.q % 2))) 64 (x.opd 0) 64 = (some l, t)) (hok : epochDescOk l = true)
    (hon : t.groupOn x.part (epochDesc l).group = true) (hwhole : bitOf 1 (t.rd (rColGState x.part (epochDesc l).group)) = false)
    (hveto : (leAt l 4 4).testBit 1 = false) :
    Runs (.epoch c) s (fun u => u.epochSt x.part = some (t.gathering x.part z (epochDesc l)) ∧
      ∀ y ∈ u.queue.infl, y.q = x.q → y.i = x.i → y.phase = .working) := by
  have hposts := posts_epochTell ((t.setCmd x.q x.i fun y => { y with phase := .working }).setEpochSt x.part
    (t.gathering x.part z (epochDesc l))) x.part (epochDesc l).group (t.gathering x.part z (epochDesc l)).local_
  have hstall : t.tier.stall = s.dev.tier.stall := s.dev.stall_readStruct hread
  refine runs_of_does (does_epoch h (Dev.epochStart_gathers hz hheld hread hok hon hveto hp hwhole)) ?_ ⟨?_, fun y hy hq hi => ?_⟩
  · exact (congrArg TierSt.stall hposts.tier).trans hstall
  · rw [Dev.epochSt_of_queue (Dev.refresh_queue _), Dev.epochSt_of_queue hposts.queue, Dev.epochSt_setEpochSt]
  · rw [Dev.refresh_queue, hposts.queue] at hy
    exact Dev.working_of_mem hy hq hi

/-- A result is shown in COL_EP_LAST, LATE when its time has passed, and nothing else of the registers changes. -/
theorem runs_epochResult {n : Nat} {rs : List EpochRecord} (hz : s.dev.epochSt p = some z) (hphase : z.phase = .gathering)
    (hn : (s.dev.levels p z.desc.group).n = n) (hrs : s.dev.records p z = rs)
    (hall : (List.range n).all (fun k => rs.any (·.rank = k)) = true) : Runs (.epochResult p) s (fun t =>
      t.epochSt p = some { z with phase := .result (epochReduce n rs) } ∧
      bitOf 7 (t.rd (rColEpLast p)) = decide ((epochReduce n rs).tc < s.dev.now) ∧
      (∀ k, k ≠ 7 → bitOf k (t.rd (rColEpLast p)) = bitOf k (epochReduce n rs).status) ∧
      OnlyRegs { s.dev with col := t.col, queue := t.queue } t [rColEpLast p]) := by
  have hlo : 0x9800000 ≤ rColEpLast p := by unfold rColEpLast; omega
  refine runs_of_does (does_epochResult (Dev.epochResult_all hz hphase hn hrs hall)) rfl ⟨?_, ?_, fun k hk => ?_, ?_⟩
  · rw [Dev.epochSt_of_queue (Dev.refresh_queue _), Dev.epochSt_setEpochSt]
  · rw [rd_epochPage_refresh _ hlo, Dev.rd_setEpochSt, Dev.rd_wr_same, bitOf_setBit_same _ _ _ (by decide)]
  · rw [rd_epochPage_refresh _ hlo, Dev.rd_setEpochSt, Dev.rd_wr_same, bitOf_setBit_ne _ _ _ _ hk]
  · exact onlyRegs_refresh (onlyRegs_wr (onlyRegs_refl _ _) _ (by simp))

/-- An EPOCH that times out without a step record is LOST, and its command ends ABORTED with cause UNIT. -/
theorem runs_epochTimeout_lost {x : Inflight} (hz : s.dev.epochSt p = some z) (hphase : z.phase = .gathering)
    (hdue : z.d + z.desc.timeout * 1000 ≤ s.dev.now) (hout : z.desc.out = 0) (hcmd : s.dev.epochCmd z = some x) :
    Runs (.epochTimeout p) s (fun t => t.epochSt p = some { z with phase := .lost } ∧ bitOf 5 (t.rd (rColEpFlags p)) = true ∧
      t.rd (rColEpoch p) = s.dev.rd (rColEpoch p) ∧ t.mem = s.dev.mem ∧ ∀ y ∈ t.queue.infl, y.q = x.q → y.i = x.i →
        y.phase = .ended ∧ y.res.status = .aborted ∧ y.res.cause = 0x27 ∧ y.res.progress = (s.dev.rd (rColEpoch p)).toNat) := by
  refine runs_of_does (does_epochTimeout_due hz hdue (Dev.epochLost_gathering hz hphase hout hcmd)) rfl
    ⟨?_, ?_, ?_, Dev.refresh_mem _, fun y hy hq hi => ?_⟩
  · rw [Dev.epochSt_of_queue (Dev.refresh_queue _), Dev.epochSt_finish, Dev.epochSt_givenUp]
  · rw [rd_epochPage_refresh _ (by unfold rColEpFlags; omega), Dev.rd_finish, Dev.rd_givenUp_flags, bitOf_setBit_same _ _ _ (by decide)]
  · rw [rd_epochPage_refresh _ (by unfold rColEpoch; omega), Dev.rd_finish, Dev.rd_givenUp_epoch]
  · rw [Dev.refresh_queue] at hy
    obtain ⟨hended, hres⟩ := Dev.finish_ended hy hq hi
    rw [hres]
    exact ⟨hended, rfl, rfl, rfl⟩

end Runs

/-- Settles O32: sending and receiving leave commands, gathered records and port states as they were, so an EPOCH gathers as its
descriptor says, and a record that comes is filed as though it had come alone. -/
theorem epochsGatherTheirRecords : Obligations.EpochsGatherTheirRecords := by
  unfold Obligations.EpochsGatherTheirRecords
  intro s c x z l p port f r src rd e n rs all
  refine ⟨fun h hpart hz hheld => ⟨fun hl hok hon hwhole hveto => ?gathers, fun href => ?refused⟩,
    fun hflit => ⟨does_epochRecordReceive hflit r, fun hopen hgave => ?joins, fun hlost => ?dropped⟩,
    fun hz hphase => ⟨runs_epochResult hz hphase rfl rfl,
      fun hmissing => does_epochResult (Dev.epochResult_waits hz (Bool.not_eq_true _ ▸ hmissing)),
      does_epochTimeout_early hz, fun hdue => does_epochTimeout_due hz hdue rfl, runs_epochTimeout_lost hz hphase⟩⟩
  case gathers =>
    rw [← hpart] at hz hon hwhole ⊢
    exact runs_epoch_gathers h (hpart ▸ p.isLt) hz hheld (Prod.ext hl rfl) hok hon hwhole hveto
  case refused =>
    rw [← hpart] at hz href ⊢
    exact does_epoch h (Dev.epochStart_refused hz hheld rfl (href.imp_right fun ⟨hl, hbad⟩ => ⟨l, hl, hbad⟩))
  case joins =>
    obtain ⟨t, ht, hrecs⟩ := epochRecord_filed hflit (p := p) r
    refine ⟨_, does_epochRecordReceive hflit r, fun _ => ?_⟩
    dsimp only
    rw [Dev.refresh_col, hrecs, Dev.recs_epochRec (by rwa [Dev.epochSt_of_queue ht.queue]) (by rwa [ht.gaveUp]), ht.recs]
  case dropped =>
    obtain ⟨t, ht, hrecs⟩ := epochRecord_filed hflit (p := p) r
    refine ⟨_, does_epochRecordReceive hflit r, fun _ => ?_⟩
    dsimp only
    rw [Dev.refresh_col, hrecs, Dev.epochRec_lost (by rwa [Dev.epochSt_of_queue ht.queue]), ht.recs]

end Sys2Proof.Proofs

/-! Proofs of the family 12_collectives_and_links: what ports take, refuse and send again (R280, R287 to R290), heartbeats and the loss of
partners (R277, R293, R295), and the timestamp's reference (R296). -/

namespace Sys2Proof.Machine

/-! ### What a message sent on a port leaves (R287 to R291)

A message handed to a port waits on it until its first flit, or on Ethernet its frames, have gone out. Nothing but the ports, the messages
without one and the counts of bytes sent changes. -/

@[simp] theorem Dev.port_refresh (d : Dev) (p : Nat) : d.refresh.port p = d.port p := rfl

@[simp] theorem Dev.port_setPort_same (d : Dev) (p : Nat) (s : PortSt) : (d.setPort p s).port p = s := sget_sset_same _ _ _ _

theorem Dev.port_setPort_ne (d : Dev) {p q : Nat} (h : q ≠ p) (s : PortSt) : (d.setPort p s).port q = d.port q := sget_sset_ne _ _ _ h

theorem Dev.port_of_col {d t : Dev} (h : t.col.ports = d.col.ports) (p : Nat) : t.port p = d.port p := by rw [Dev.port, Dev.port, h]

theorem Dev.portEth_congr {d t : Dev} {p : Nat} (h : t.rd (rLnkCfg p) = d.rd (rLnkCfg p)) : t.portEth p = d.portEth p :=
  congrArg (bitOf 1) h

/-- A 64-bit count changes registers alone. -/
theorem Dev.add64_eq (d : Dev) (off n : Nat) : d.add64 off n = { d with regs := (d.add64 off n).regs } := by
  unfold Dev.add64
  split <;> rfl

/-- The device without what sending changes. -/
def Dev.unsaid (d : Dev) : Dev := { d with regs := [], sent := [], col := { d.col with ports := [], unsent := [] } }

/-- Has the first flit of message `o`, or on Ethernet a frame of it, gone out on port `p`? -/
def Dev.wentOut (d : Dev) (p : Nat) (o : OutMsg) : Prop :=
  if d.portEth p = true then ∃ x hs, Sent.frame p x hs o ∈ d.sent else ∃ h, Sent.flit p h (some o) 0 ∈ d.sent

/-- Does message `o` wait whole on port `p`, or has it begun to go out there? -/
def Dev.posted (d : Dev) (p : Nat) (o : OutMsg) : Prop := (o, 0) ∈ (d.port p).wait ∨ d.wentOut p o

theorem Dev.wentOut_mono {d t : Dev} {p : Nat} {o : OutMsg} (heth : t.portEth p = d.portEth p) (hsent : ∀ m ∈ d.sent, m ∈ t.sent)
    (h : d.wentOut p o) : t.wentOut p o := by
  unfold Dev.wentOut at h ⊢
  rw [heth]
  split at h
  · next he =>
    obtain ⟨x, hs, hm⟩ := h
    exact if_pos he ▸ ⟨x, hs, hsent _ hm⟩
  · next he =>
    obtain ⟨hd, hm⟩ := h
    exact if_neg he ▸ ⟨hd, hsent _ hm⟩

/-- From `d` to `t` messages have been sent, and none that a port held has left it without going out. -/
structure Sends (d t : Dev) : Prop extends SendOnly d t where
  rest : t.unsaid = d.unsaid
  posted : ∀ q o, d.posted q o → t.posted q o

/-- From `d` to `t` messages have been sent on port `p` alone. -/
structure SendsOn (p : Nat) (d t : Dev) : Prop extends Sends d t where
  others : ∀ q ≠ p, t.port q = d.port q
  paused : (t.port p).paused = (d.port p).paused

theorem Sends.refl (d : Dev) : Sends d d := ⟨.refl d, rfl, fun _ _ => id⟩

theorem Sends.trans {a b c : Dev} (h : Sends a b) (k : Sends b c) : Sends a c :=
  ⟨h.toSendOnly.trans k.toSendOnly, k.rest.trans h.rest, fun q o ho => k.posted q o (h.posted q o ho)⟩

theorem SendsOn.refl (p : Nat) (d : Dev) : SendsOn p d d := ⟨.refl d, fun _ _ => rfl, rfl⟩

theorem SendsOn.trans {p : Nat} {a b c : Dev} (h : SendsOn p a b) (k : SendsOn p b c) : SendsOn p a c :=
  ⟨h.toSends.trans k.toSends, fun q hq => (k.others q hq).trans (h.others q hq), k.paused.trans h.paused⟩

theorem Sends.mem {d t : Dev} (h : Sends d t) : t.mem = d.mem :=
  have hmem : t.unsaid.mem = d.unsaid.mem := congrArg Dev.mem h.rest
  hmem

theorem SendOnly.portEth {d t : Dev} (h : SendOnly d t) (p : Nat) : t.portEth p = d.portEth p :=
  Dev.portEth_congr (h.rd _ (by unfold sentReg rLnkCfg rColWireBytesLo; omega))

/-- A step that sends on port `p`: what waited there waits on, or has gone out. -/
theorem SendsOn.of_wait {p : Nat} {d t : Dev} (hsend : SendOnly d t) (hrest : t.unsaid = d.unsaid) (hsent : ∀ m ∈ d.sent, m ∈ t.sent)
    (hothers : ∀ q ≠ p, t.port q = d.port q) (hpaused : (t.port p).paused = (d.port p).paused)
    (hwait : ∀ o, (o, 0) ∈ (d.port p).wait → t.posted p o) : SendsOn p d t := by
  refine ⟨⟨hsend, hrest, fun q o ho => ?_⟩, hothers, hpaused⟩
  obtain hin | hout := ho
  · by_cases hq : q = p
    · exact hq ▸ hwait o (hq ▸ hin)
    · exact .inl ((hothers q hq).symm ▸ hin)
  · exact .inr (Dev.wentOut_mono (hsend.portEth q) hsent hout)

/-- A new state of a port keeps what waits there and what is paused. -/
theorem sendsOn_setPort (d : Dev) {p : Nat} {s : PortSt} (hwait : ∀ e ∈ (d.port p).wait, e ∈ s.wait)
    (hpaused : s.paused = (d.port p).paused) : SendsOn p d (d.setPort p s) :=
  .of_wait (sendOnly_setPort d p s) rfl (fun _ => id) (fun _ hq => d.port_setPort_ne hq s) (by rw [Dev.port_setPort_same, hpaused])
    fun o ho => .inl (by rw [Dev.port_setPort_same]; exact hwait _ ho)

/-- From `d` to `t` flits have been put on the wire of port `p`, for messages that the port has taken from those that wait. -/
structure OnWire (p : Nat) (d t : Dev) : Prop where
  unsaid : t.unsaid = d.unsaid
  sent : ∀ m ∈ d.sent, m ∈ t.sent
  others : ∀ q ≠ p, t.port q = d.port q
  wait : (t.port p).wait = (d.port p).wait
  paused : (t.port p).paused = (d.port p).paused

theorem onWire_sendFlit (d : Dev) (p seq k : Nat) (o : OutMsg) : OnWire p d (d.sendFlit p seq k o) :=
  have hport : (d.sendFlit p seq k o).port p = _ := d.port_setPort_same p _
  ⟨rfl, fun _ hm => List.mem_append_left _ hm, fun _ hq => d.port_setPort_ne hq _, by rw [hport], by rw [hport]⟩

theorem onWire_sendFrames (d : Dev) (p num : Nat) (o : OutMsg) : OnWire p d (d.sendFrames p num o) :=
  List.foldlRecOn _ _ ⟨rfl, fun _ => id, fun _ _ => rfl, rfl, rfl⟩ fun _ ⟨hu, hs, ho, hw, hp⟩ _ _ =>
    ⟨hu, fun m hm => List.mem_append_left _ (hs m hm), ho, hw, hp⟩

/-- What a fold of sends drives out. -/
theorem Dev.mem_sent_each {α : Type} (f : α → Sent) {l : List α} {a : α} (h : a ∈ l) (d : Dev) :
    f a ∈ (d.each l fun d a => d.send (f a)).sent := by
  have hsent (l : List α) (d : Dev) : (d.each l fun d a => d.send (f a)).sent = d.sent ++ l.map f := by
    induction l generalizing d with
    | nil => exact (List.append_nil _).symm
    | cons b l ih => exact (ih (d.send (f b))).trans (List.append_assoc _ _ _)
  rw [hsent]
  exact List.mem_append_right _ (List.mem_map_of_mem h)

/-- A message goes out in one frame at least. -/
theorem Dev.frame_mem_sendFrames (d : Dev) (p num : Nat) (o : OutMsg) : ∃ x hs, Sent.frame p x hs o ∈ (d.sendFrames p num o).sent := by
  have hn : 0 < cdiv o.flits 16 := by
    have : 1 ≤ o.flits := le_max_left _ _
    unfold cdiv
    omega
  exact ⟨_, _, Dev.mem_sent_each (fun j => Sent.frame p _ _ o) (List.mem_range.mpr hn) d⟩

theorem mem_replace_of_ne {α : Type} [BEq α] [LawfulBEq α] {x a b : α} {l : List α} (h : x ∈ l) (hne : x ≠ a) : x ∈ l.replace a b := by
  induction l with
  | nil => cases h
  | cons c l ih =>
    rw [List.replace_cons]
    split
    · next hc =>
      obtain rfl | hx := List.mem_cons.mp h
      · exact absurd (beq_iff_eq.mp hc).symm hne
      · exact List.mem_cons_of_mem _ hx
    · obtain rfl | hx := List.mem_cons.mp h
      · exact List.mem_cons_self
      · exact List.mem_cons_of_mem _ (ih hx)

section Transmit

variable (d : Dev) (p : Nat) (e : OutMsg × Nat)

/-- Port `p` has state `s` once a message of `m` bytes, `n` of them of a collective, has been taken from those that wait there. -/
def Dev.tookFrom (d : Dev) (p m n : Nat) (s : PortSt) : Dev :=
  ((d.add64 (rLnkTxBytesLo p) m).add64 rColWireBytesLo n).setPort p s

theorem Dev.transmit_eth (h : d.portEth p = true) : d.transmit p e = (d.tookFrom p e.1.bytes e.1.wire { d.port p with
    txSeq := ((d.port p).txSeq + 1) % 4096, wait := (d.port p).wait.erase e,
    unacked := if e.1.acked then (d.port p).unacked ++ [((d.port p).txSeq, 0, e.1)] else (d.port p).unacked }).sendFrames p
    (d.port p).txSeq e.1 := if_pos h

theorem Dev.transmit_dreuri (h : d.portEth p = false) : d.transmit p e =
    (d.tookFrom p (e.1.lenAt e.2) (if e.2 = 0 then e.1.wire else 0) { d.port p with
      txSeq := ((d.port p).txSeq + 1) % 4096, credits := (d.port p).credits.modify e.1.vc (· - 1),
      wait := if e.2 + 1 < e.1.flits then (d.port p).wait.replace e (e.1, e.2 + 1) else (d.port p).wait.erase e,
      unacked := (d.port p).unacked ++ [((d.port p).txSeq, e.2, e.1)] }).sendFlit p (d.port p).txSeq e.2 e.1 :=
  if_neg (Bool.not_eq_true _ ▸ h)

/-- A message taken from a port's wait goes out there; the others stay. -/
theorem sendsOn_of_wire {d t : Dev} {p m n : Nat} {e : OutMsg × Nat} {s : PortSt} (hsend : SendOnly d t)
    (hwire : OnWire p (d.tookFrom p m n s) t) (hpaused : s.paused = (d.port p).paused)
    (hwait : ∀ x ∈ (d.port p).wait, x ≠ e → x ∈ s.wait) (hout : e.2 = 0 → t.wentOut p e.1) : SendsOn p d t := by
  have hcol (a b : Nat) (u : Dev) : (u.add64 a b).col = u.col := by rw [Dev.add64_eq]
  have hstep : (d.tookFrom p m n s).unsaid = d.unsaid ∧ (d.tookFrom p m n s).sent = d.sent := by
    unfold Dev.tookFrom
    rw [Dev.add64_eq, Dev.add64_eq d]
    exact ⟨rfl, rfl⟩
  obtain ⟨hunsaid, hsent⟩ := hstep
  have hself : (d.tookFrom p m n s).port p = s := Dev.port_setPort_same _ p s
  refine .of_wait hsend (hwire.unsaid.trans hunsaid) (fun x hx => hwire.sent x (hsent.symm ▸ hx)) (fun q hq => ?_)
    (by rw [hwire.paused, hself, hpaused]) fun o ho => ?_
  · rw [hwire.others q hq, Dev.tookFrom, Dev.port_setPort_ne _ hq, Dev.port_of_col]
    rw [hcol, hcol]
  · by_cases hne : (o, 0) = e
    · subst hne
      exact .inr (hout rfl)
    · exact .inl (by rw [hwire.wait, hself]; exact hwait _ ho hne)

theorem sendsOn_transmit : SendsOn p d (d.transmit p e) := by
  have hsend := sendOnly_transmit d p e
  have heth := hsend.portEth p
  cases h : d.portEth p with
  | true =>
    rw [h] at heth
    rw [d.transmit_eth p e h] at hsend heth ⊢
    exact sendsOn_of_wire (e := e) hsend (onWire_sendFrames _ _ _ _) rfl (fun x hx hne => (List.mem_erase_of_ne hne).mpr hx)
      fun _ => (if_pos heth).mpr (Dev.frame_mem_sendFrames _ _ _ _)
  | false =>
    rw [h] at heth
    rw [d.transmit_dreuri p e h] at hsend heth ⊢
    refine sendsOn_of_wire (e := e) hsend (onWire_sendFlit _ _ _ _ _) rfl (fun x hx hne => ?_) fun h0 => ?_
    · dsimp only
      split
      · exact mem_replace_of_ne hx hne
      · exact (List.mem_erase_of_ne hne).mpr hx
    · rw [h0] at heth ⊢
      exact (if_neg (Bool.not_eq_true _ ▸ heth)).mpr ⟨_, List.mem_append_right _ (List.mem_singleton.mpr rfl)⟩

end Transmit

theorem sendsOn_pump (p n : Nat) (d : Dev) : SendsOn p d (d.pump p n) := by
  induction n generalizing d with
  | zero => exact .refl p d
  | succ n ih =>
    unfold Dev.pump
    dsimp only
    split
    · exact (sendsOn_transmit _ _ _).trans (ih _)
    · exact .refl p d

theorem sendsOn_drain (d : Dev) (p : Nat) : SendsOn p d (d.drain p) := sendsOn_pump _ _ _

theorem sendsOn_portSend (d : Dev) (p : Nat) (o : OutMsg) : SendsOn p d (d.portSend p o) :=
  have hqueued : SendsOn p d (d.setPort p { d.port p with wait := (d.port p).wait ++ [(o, 0)] }) :=
    sendsOn_setPort d (fun _ he => List.mem_append_left _ he) rfl
  hqueued.trans (sendsOn_drain _ _)

/-- A message sent on a port waits there or goes out. -/
theorem Dev.posted_portSend (d : Dev) (p : Nat) (o : OutMsg) : (d.portSend p o).posted p o :=
  (sendsOn_drain _ p).posted p o (.inl (by rw [Dev.port_setPort_same]; exact List.mem_append_right _ (List.mem_singleton.mpr rfl)))

theorem sends_sendTo (d : Dev) (o : OutMsg) : Sends d (d.sendTo o) := by
  have hsend := sendOnly_sendTo d o
  unfold Dev.sendTo at hsend ⊢
  split
  · exact (sendsOn_portSend _ _ _).toSends
  · next h => exact ⟨by rwa [h] at hsend, rfl, fun _ _ => id⟩

/-- What a posted message is in the words of the statements. -/
theorem Dev.posted_cases {d : Dev} {p : Nat} {o : OutMsg} (h : d.posted p o) : (∃ j, (o, j) ∈ (d.port p).wait) ∨
    (∃ h, Sent.flit p h (some o) 0 ∈ d.sent) ∨ ∃ x hs, Sent.frame p x hs o ∈ d.sent := by
  obtain hwait | hout := h
  · exact .inl ⟨0, hwait⟩
  · unfold Dev.wentOut at hout
    split at hout
    · exact .inr (.inr hout)
    · exact .inr (.inl hout)

/-! ### What a message that comes leaves (R287 to R290, R293, R294)

Before it acts, a message is counted, it acknowledges, and its source is noted as heard. Groups, collectives, time and the ports' states
stay as they were. -/

/-- The registers of events and records. -/
def noteReg (off : Nat) : Prop := memReg off = true ∨ off = rColErr ∨ off = rColErrInfo ∨ off = rColEvtHead

/-- From `d` to `t` something has been recorded, in memory, in Flowstone or as an event. -/
structure Notes (d t : Dev) : Prop where
  col : t.col = d.col
  mgmt : t.mgmt = d.mgmt
  now : t.now = d.now
  rd : ∀ off, ¬noteReg off → t.rd off = d.rd off

theorem Notes.refl (d : Dev) : Notes d d := ⟨rfl, rfl, rfl, fun _ _ => rfl⟩

theorem Notes.trans {a b c : Dev} (h : Notes a b) (k : Notes b c) : Notes a c :=
  ⟨k.col.trans h.col, k.mgmt.trans h.mgmt, k.now.trans h.now, fun off ho => (k.rd off ho).trans (h.rd off ho)⟩

theorem MemOnly.notes {d t : Dev} (h : MemOnly d t) : Notes d t where
  col := congrArg (·.2.2.2.2.2.2.2.2.1) h.still
  mgmt := congrArg (·.2.2.2.2.2.2.2.2.2.1) h.still
  now := congrArg (·.2.2.2.2.2.2.2.2.2.2.2.1) h.still
  rd off ho := h.rd off (Bool.not_eq_true _ ▸ fun hm => ho (.inl hm))

theorem notes_wr {off : Nat} (h : noteReg off) (d : Dev) (v : Word) : Notes d (d.wr off v) :=
  ⟨rfl, rfl, rfl, fun _ hk => d.rd_wr_ne v (by rintro rfl; exact hk h)⟩

theorem notes_flw (d : Dev) (a b c e : Nat) : Notes d (d.flw a b c e) := (memOnly_flw d a b c e).notes

theorem notes_colErr (d : Dev) (bit p g coord : Nat) : Notes d (d.colErr bit p g coord) := by
  have hset := notes_wr (off := rColErr) (.inr (.inl rfl)) d (setBit bit true (d.rd rColErr))
  refine Notes.trans ?_ (notes_flw _ _ _ _ _)
  obtain h | h := d.raise_cases rColErr bit (fun d => d.wr rColErrInfo (BitVec.ofNat 32 (g % 64 + 64 * (p % 16) + 65536 * coord)))
    <;> rw [h]
  · exact hset.trans (notes_wr (off := rColErrInfo) (.inr (.inr (.inl rfl))) _ _)
  · exact hset

theorem notes_msixSend (d : Dev) (port vec : Nat) : Notes d (d.msixSend port vec) := by
  unfold Dev.msixSend
  dsimp only
  split <;> exact ⟨rfl, rfl, rfl, fun _ _ => rfl⟩

theorem notes_colEvent (d : Dev) (kind coord port serial : Nat) : Notes d (d.colEvent kind coord port serial) := by
  have hmsg (c : Prop) [Decidable c] (t : Dev) (a b : Nat) : Notes t (if c then t.msixSend a b else t) := by
    split
    · exact notes_msixSend _ _ _
    · exact .refl t
  unfold Dev.colEvent
  dsimp only
  split
  · exact (notes_flw _ _ _ _ _).trans (notes_colErr _ _ _ _ _)
  · exact (((memOnly_writeMem (acc_none_ok _) _ _ _).notes.trans (notes_wr (off := rColEvtHead) (.inr (.inr (.inr rfl))) _ _)).trans
      (notes_flw _ _ _ _ _)).trans (hmsg _ _ _ _)

/-- The device with `e` as the entry of coordinate `c`, and with the ports that reach it. -/
def Dev.withPartner (d : Dev) (c : Nat) (e : PartnerSt) : Dev :=
  { d with col := { d.col with
    partners := sset (fun _ => ⟨0, 0, 0, 0⟩) d.col.partners c { e with ports := ((d.directPorts c).map (2 ^ ·)).sum } } }

theorem notes_setPartner (d : Dev) (c : Nat) (e : PartnerSt) : Notes (d.withPartner c e) (d.setPartner c e) := by
  unfold Dev.setPartner
  dsimp only
  split
  · exact .refl _
  · exact (memOnly_writeMem (acc_none_ok _) (d.withPartner c e) _ _).notes

theorem Dev.partner_withPartner (d : Dev) (c : Nat) (e : PartnerSt) :
    (d.withPartner c e).partner c = { e with ports := ((d.directPorts c).map (2 ^ ·)).sum } := sget_sset_same _ _ _ _

/-- The entry of `c` once a flit of it has come. -/
def Dev.heardEntry (d : Dev) (c : Nat) (serial : Option Nat) : PartnerSt :=
  { d.partner c with state := 1, serial := serial.getD (d.partner c).serial, heardAt := d.now }

theorem notes_hear (d : Dev) {c : Nat} (h : c ≠ d.coord) (serial : Option Nat) (port : Nat) :
    Notes (d.withPartner c (d.heardEntry c serial)) (d.hear c serial port) := by
  unfold Dev.hear
  rw [if_neg h]
  dsimp only
  split
  · exact notes_setPartner _ _ _
  · exact (notes_setPartner _ _ _).trans (notes_colEvent _ _ _ _ _)

/-- What links are not: the device's state apart from its ports, partners, messages and memories. -/
def Dev.offLinks (d : Dev) : MgmtSt × Nat × ColSt := (d.mgmt, d.now, { d.col with ports := [], partners := [], unsent := [] })

/-- A register that a message changes before it acts: those of records and of what is sent, and the counts of what has come. -/
def recvReg (off : Nat) : Prop := noteReg off ∨ sentReg off ∨ (0xA000000 ≤ off ∧
  (off % 0x10000 = 0x30 ∨ off % 0x10000 = 0x34 ∨ off % 0x10000 = 0x68 ∨ off % 0x10000 = 0x6C))

/-- From `d` to `t` a message has come, or was sent, that has not acted. -/
structure Receives (d t : Dev) : Prop where
  still : t.offLinks = d.offLinks
  rd : ∀ off, ¬recvReg off → t.rd off = d.rd off

theorem Receives.refl (d : Dev) : Receives d d := ⟨rfl, fun _ _ => rfl⟩

theorem Receives.trans {a b c : Dev} (h : Receives a b) (k : Receives b c) : Receives a c :=
  ⟨k.still.trans h.still, fun off ho => (k.rd off ho).trans (h.rd off ho)⟩

theorem Notes.receives {d t : Dev} (h : Notes d t) : Receives d t where
  still := by rw [Dev.offLinks, Dev.offLinks, h.mgmt, h.now, h.col]
  rd off ho := h.rd off fun hn => ho (.inl hn)

theorem Sends.receives {d t : Dev} (h : Sends d t) : Receives d t where
  still :=
    have hoff : t.unsaid.offLinks = d.unsaid.offLinks := congrArg Dev.offLinks h.rest
    hoff
  rd off ho := h.rd off fun hs => ho (.inr (.inl hs))

theorem receives_add64 {off : Nat} (h : recvReg off) (h4 : recvReg (off + 4)) (d : Dev) (n : Nat) : Receives d (d.add64 off n) := by
  refine ⟨by rw [Dev.add64_eq]; rfl, fun k hk => ?_⟩
  unfold Dev.add64
  split
  · rfl
  · rw [Dev.rd_wr64, if_neg (by rintro rfl; exact hk h4), if_neg (by rintro rfl; exact hk h)]

theorem receives_setPort (d : Dev) (p : Nat) (s : PortSt) : Receives d (d.setPort p s) := ⟨rfl, fun _ _ => rfl⟩

theorem receives_hear (d : Dev) (c : Nat) (serial : Option Nat) (port : Nat) : Receives d (d.hear c serial port) := by
  by_cases h : c = d.coord
  · rw [Dev.hear, if_pos h]
    exact .refl d
  · have hentry : Receives d (d.withPartner c (d.heardEntry c serial)) := ⟨rfl, fun _ _ => rfl⟩
    exact hentry.trans (notes_hear d h serial port).receives

theorem receives_flitAcks (d : Dev) (p : Nat) (f : FlitHdr) : Receives d (d.flitAcks p f) := by
  unfold Dev.flitAcks
  split
  · exact .refl d
  · exact (receives_setPort _ _ _).trans (sendsOn_drain _ _).receives

theorem receives_taken (d : Dev) (p : Nat) (f : FlitHdr) (k : Nat) : Receives d (Sys2Proof.Safety.taken d p f k) := by
  unfold Sys2Proof.Safety.taken
  split
  · exact .refl d
  · exact receives_setPort _ _ _

/-- The device in which a flit of `n` payload bytes has been counted. -/
def Dev.flitTallied (d : Dev) (p : Nat) (f : FlitHdr) (n : Nat) : Dev :=
  (if f.fec = .corrected then d.add64 (rLnkFecCorrLo p) 1 else d).add64 (rLnkRxBytesLo p) n

theorem Dev.flitTallied_eq (d : Dev) (p : Nat) (f : FlitHdr) (n : Nat) :
    d.flitTallied p f n = { d with regs := (d.flitTallied p f n).regs } := by
  unfold Dev.flitTallied
  rw [Dev.add64_eq]
  split
  · rw [Dev.add64_eq d]
  · rfl

theorem receives_flitTallied (d : Dev) (p : Nat) (f : FlitHdr) (n : Nat) : Receives d (d.flitTallied p f n) := by
  have hfec : Receives d (if f.fec = .corrected then d.add64 (rLnkFecCorrLo p) 1 else d) := by
    split
    · exact receives_add64 (.inr (.inr (by unfold rLnkFecCorrLo; omega))) (.inr (.inr (by unfold rLnkFecCorrLo; omega))) d 1
    · exact .refl d
  exact hfec.trans (receives_add64 (.inr (.inr (by unfold rLnkRxBytesLo; omega))) (.inr (.inr (by unfold rLnkRxBytesLo; omega))) _ n)

/-- The device in which a flit has been counted and has acknowledged. -/
def Dev.flitCounted (d : Dev) (p : Nat) (f : FlitHdr) (n : Nat) : Dev := (d.flitTallied p f n).flitAcks p f

theorem receives_flitCounted (d : Dev) (p : Nat) (f : FlitHdr) (n : Nat) : Receives d (d.flitCounted p f n) :=
  (receives_flitTallied d p f n).trans (receives_flitAcks _ p f)

/-- The port no longer treats the source of a flit as silent. -/
def Dev.unsilenced (d : Dev) (p c : Nat) : Dev := d.setPort p { d.port p with silent := (d.port p).silent.filter (· ≠ c) }

theorem not_recvReg_lnkStatus {p : Nat} (hp : p < 24) : ¬recvReg (rLnkStatus p) := by
  unfold recvReg noteReg sentReg memReg rLnkStatus rColErr rColErrInfo rColEvtHead rColWireBytesLo
  simp only [Bool.or_eq_true, Bool.and_eq_true, decide_eq_true_eq]
  omega

/-- On a port that is UP a flit that comes is counted, and its source is heard. -/
theorem Dev.flitHeard_up {d : Dev} {p : Nat} (hp : p < 24) (hup : d.portState p = 3) (f : FlitHdr) {kind : FlitKind} (hkind : kind ≠ .hello) (n : Nat)
    (serial : Option Nat) :
    d.flitHeard p f kind n serial = ((d.flitCounted p f n).unsilenced p f.src.toNat).hear f.src.toNat serial p := by
  have hstate : (d.flitCounted p f n).portState p = 3 :=
    (Dev.portState_congr ((receives_flitCounted d p f n).rd _ (not_recvReg_lnkStatus hp))).trans hup
  exact if_neg (by simp only [hkind, decide_false, Bool.false_or, decide_eq_true_eq, not_not]; exact hstate)

theorem receives_flitHeard {d : Dev} {p : Nat} (hp : p < 24) (hup : d.portState p = 3) (f : FlitHdr) {kind : FlitKind}
    (hkind : kind ≠ .hello) (n : Nat) (serial : Option Nat) : Receives d (d.flitHeard p f kind n serial) := by
  rw [Dev.flitHeard_up hp hup f hkind]
  exact ((receives_flitCounted d p f n).trans (receives_setPort _ _ _)).trans (receives_hear _ _ _ _)

theorem sendsOn_flitAnswered (d : Dev) (p : Nat) (f : FlitHdr) (kind : FlitKind) : SendsOn p d (d.flitAnswered p f kind) := by
  unfold Dev.flitAnswered
  split
  · exact sendsOn_portSend _ _ _
  · exact .refl p d

/-- On a port that is UP a flit acts once it has been heard, and is answered; no port comes up. -/
theorem Dev.accept_up {d : Dev} {p : Nat} (hp : p < 24) (hup : d.portState p = 3) (f : FlitHdr) {kind : FlitKind} (hkind : kind ≠ .hello)
    (n : Nat) (serial : Option Nat) {act : Dev → Dev} (hact : ∀ t, (act t).rd (rLnkStatus p) = t.rd (rLnkStatus p)) :
    d.accept p f kind n serial act = (act (d.flitHeard p f kind n serial)).flitAnswered p f kind := by
  have hanswer := (sendsOn_flitAnswered (act (d.flitHeard p f kind n serial)) p f kind).receives.rd _ (not_recvReg_lnkStatus hp)
  have hheard := (receives_flitHeard hp hup f hkind n serial).rd _ (not_recvReg_lnkStatus hp)
  rw [Dev.accept_eq, Dev.comeUp_up ((Dev.portState_congr (hanswer.trans ((hact _).trans hheard))).trans hup)]

theorem Receives.mgmt {d t : Dev} (h : Receives d t) : t.mgmt = d.mgmt := congrArg (·.1) h.still

theorem Receives.now {d t : Dev} (h : Receives d t) : t.now = d.now := congrArg (·.2.1) h.still

theorem Receives.time {d t : Dev} (h : Receives d t) : t.col.time = d.col.time :=
  have htime : t.offLinks.2.2.time = d.offLinks.2.2.time := congrArg (·.2.2.time) h.still
  htime

theorem Receives.arrivals {d t : Dev} (h : Receives d t) : t.col.arrivals = d.col.arrivals :=
  have harr : t.offLinks.2.2.arrivals = d.offLinks.2.2.arrivals := congrArg (·.2.2.arrivals) h.still
  harr

theorem Receives.colls {d t : Dev} (h : Receives d t) : t.col.colls = d.col.colls :=
  have hcolls : t.offLinks.2.2.colls = d.offLinks.2.2.colls := congrArg (·.2.2.colls) h.still
  hcolls

/-- A register of the COL page that no message changes before it acts (Table 12-13). -/
theorem not_recvReg_col {off : Nat} (h : 0x9000000 ≤ off) (hhi : off < 0x9800000)
    (hne : off ≠ rColErr ∧ off ≠ rColErrInfo ∧ off ≠ rColEvtHead ∧ off ≠ rColWireBytesLo ∧ off ≠ rColWireBytesHi) : ¬recvReg off := by
  unfold recvReg noteReg sentReg memReg
  unfold rColErr rColErrInfo rColEvtHead rColWireBytesLo rColWireBytesHi at *
  simp only [Bool.or_eq_true, Bool.and_eq_true, decide_eq_true_eq]
  omega

/-! ### The timestamp's reference (R296) -/

section Align

variable (d : Dev) (ofs : Int)

theorem Dev.regs_align : (d.align ofs).regs = ((d.wr rColTsyncOfs (BitVec.ofInt 32 ofs)).setTlock true).regs := by
  unfold Dev.align
  dsimp only
  split <;> rfl

theorem Dev.rd_align (off : Nat) : (d.align ofs).rd off = ((d.wr rColTsyncOfs (BitVec.ofInt 32 ofs)).setTlock true).rd off := by
  rw [Dev.rd, Dev.rd, d.regs_align]

theorem Dev.rd_setTlock (b : Bool) {off : Nat} (h : off ≠ rColStatus) (h2 : off ≠ rTsStatus) : (d.setTlock b).rd off = d.rd off :=
  (Dev.rd_wr_ne _ _ h2).trans (d.rd_wr_ne _ h)

theorem Dev.tlock_setTlock (b : Bool) : bitOf 11 ((d.setTlock b).rd rColStatus) = b ∧ bitOf 1 ((d.setTlock b).rd rTsStatus) = b := by
  have hcol : (d.setTlock b).rd rColStatus = setBit 11 b (d.rd rColStatus) := (Dev.rd_wr_ne _ _ (by decide)).trans (d.rd_wr_same _ _)
  have hts : (d.setTlock b).rd rTsStatus = _ := Dev.rd_wr_same _ _ _
  rw [hcol, hts]
  exact ⟨bitOf_setBit_same _ _ _ (by decide), bitOf_setBit_same _ _ _ (by decide)⟩

theorem Dev.ofs_align : (d.align ofs).rd rColTsyncOfs = BitVec.ofInt 32 ofs := by
  rw [Dev.rd_align, Dev.rd_setTlock _ _ (by decide) (by decide), Dev.rd_wr_same]

/-- The first lock steps the timestamp. -/
theorem Dev.align_first (h : d.col.time.locked = false) :
    (d.align ofs).now = ((d.now : Int) + ofs).toNat % 2 ^ 64 ∧ (d.align ofs).col.time.locked = true := by
  unfold Dev.align
  dsimp only
  rw [h]
  exact ⟨rfl, rfl⟩

/-- Later offsets are slewed away. -/
theorem Dev.align_later (h : d.col.time.locked = true) : (d.align ofs).now = d.now ∧ (d.align ofs).col.time.slew = ofs := by
  unfold Dev.align
  dsimp only
  rw [h]
  exact ⟨rfl, rfl⟩

end Align

section Time

variable {d : Dev} {p c : Nat} {ofs : Int}

theorem Receives.timeMaster {d t : Dev} (h : Receives d t) : t.timeMaster = d.timeMaster := by rw [Dev.timeMaster, Dev.timeMaster, h.mgmt]

theorem Dev.timeIn_master (h : bitOf 0 (d.rd rColTsyncCfg) = true) : d.timeIn p c ofs = d.sendTo (timeMsg c (p / 12)) := if_pos h

theorem Dev.timeIn_own (h : bitOf 0 (d.rd rColTsyncCfg) = false) (hc : c = d.timeMaster) : d.timeIn p c ofs = d.align ofs := by
  rw [Dev.timeIn, h, if_neg (by decide), if_pos hc]

theorem Dev.timeIn_other (h : bitOf 0 (d.rd rColTsyncCfg) = false) (hc : c ≠ d.timeMaster) : d.timeIn p c ofs = d := by
  rw [Dev.timeIn, h, if_neg (by decide), if_neg hc]

/-- A TIME flit leaves the ports' states as they are. -/
theorem Dev.lnkStatus_timeIn {q : Nat} (hq : q < 24) : (d.timeIn p c ofs).rd (rLnkStatus q) = d.rd (rLnkStatus q) := by
  unfold Dev.timeIn
  split
  · exact (sends_sendTo _ _).receives.rd _ (not_recvReg_lnkStatus hq)
  · split
    · have hne {off : Nat} (h : off % 0x10000 ≠ 4) : rLnkStatus q ≠ off := by unfold rLnkStatus; omega
      rw [Dev.rd_align, Dev.rd_setTlock _ _ (hne (by decide)) (hne (by decide)), Dev.rd_wr_ne _ _ (hne (by decide))]
    · rfl

theorem Dev.sendTo_time_none {m : Nat} (h : (d.routes 0 m).head? = none) :
    d.sendTo (timeMsg m 0) = { d with col := { d.col with unsent := d.col.unsent ++ [timeMsg m 0] } } := by
  have hport : d.portFor (timeMsg m 0) = none := h
  rw [Dev.sendTo, hport]

theorem Dev.sendTo_time_some {m q : Nat} (h : (d.routes 0 m).head? = some q) : d.sendTo (timeMsg m 0) = d.portSend q (timeMsg m 0) := by
  have hport : d.portFor (timeMsg m 0) = some q := h
  rw [Dev.sendTo, hport]

end Time

end Sys2Proof.Machine

namespace Sys2Proof.Proofs
open Sys2Proof.Machine Sys2Proof.Safety

/-- A port that takes traffic is UP, also once the message has been taken. -/
theorem portState_taken {d : Dev} {p : Fin 24} {f : FlitHdr} (h : FlitOk d p f .traffic) (k : Nat) : (taken d p f k).portState p = 3 := by
  obtain ⟨htakes, -⟩ := h
  exact (Dev.portState_congr ((receives_taken d p f k).rd _ (not_recvReg_lnkStatus p.isLt))).trans (portState_of_takes htakes)

/-- The device in which a taken message acts. -/
theorem receives_heard {d : Dev} {p : Fin 24} {f : FlitHdr} (h : FlitOk d p f .traffic) (k n : Nat) (serial : Option Nat) :
    Receives d ((taken d p f k).flitHeard p f .traffic n serial) :=
  (receives_taken d p f k).trans (receives_flitHeard p.isLt (portState_taken h k) f (by decide) n serial)

theorem not_recvReg_tsStatus : ¬recvReg rTsStatus := by
  unfold recvReg noteReg sentReg
  decide

section Time

variable {s : State} {p : Fin 24} {f : FlitHdr} {ofs : Int}

theorem does_time (h : FlitOk s.dev p f .traffic) : Does (.time p f ofs) s
    ((taken s.dev p f 1).accept p f .traffic 240 none fun d => d.timeIn p f.src.toNat ofs) :=
  does_of_run (f := fun d => d.flitIn p f .traffic 1 240 none fun d => d.timeIn p f.src.toNat ofs) rfl (flitIn_ok h _ _ _ _)

/-- The device in which a TIME flit is taken, and what it leaves: the flit acts there, and is answered. -/
theorem does_time_heard (h : FlitOk s.dev p f .traffic) : ∃ t, Receives s.dev t ∧
    Does (.time p f ofs) s ((t.timeIn p f.src.toNat ofs).flitAnswered p f .traffic) := by
  have hdoes := does_time (ofs := ofs) h
  rw [Dev.accept_up p.isLt (portState_taken h 1) f (by decide) 240 none fun t => Dev.lnkStatus_timeIn p.isLt] at hdoes
  exact ⟨_, receives_heard h 1 240 none, hdoes⟩

theorem runsOrWaits_time_follows (h : FlitOk s.dev p f .traffic) (hm : bitOf 0 (s.dev.rd rColTsyncCfg) = false)
    (hsrc : f.src.toNat = s.dev.timeMaster) : RunsOrWaits (.time p f ofs) s (fun t =>
      t.rd rColTsyncOfs = BitVec.ofInt 32 ofs ∧ bitOf 11 (t.rd rColStatus) = true ∧ bitOf 1 (t.rd rTsStatus) = true ∧
      (s.dev.col.time.locked = false → t.now = ((s.dev.now : Int) + ofs).toNat % 2 ^ 64 ∧ t.col.time.locked = true) ∧
      (s.dev.col.time.locked = true → t.now = s.dev.now ∧ t.col.time.slew = ofs)) := by
  obtain ⟨t, ht, hdoes⟩ := does_time_heard (ofs := ofs) h
  have hcfg : bitOf 0 (t.rd rColTsyncCfg) = false := by rw [ht.rd _ (not_recvReg_col (by decide) (by decide) (by decide)), hm]
  rw [Dev.timeIn_own hcfg (hsrc.trans ht.timeMaster.symm)] at hdoes
  have hsend := (sendsOn_flitAnswered (t.align ofs) p f .traffic).receives
  refine ⟨_, hdoes, fun _ => ?_⟩
  dsimp only
  rw [Dev.rd_refresh_far _ (by decide), Dev.rd_refresh_far _ (by decide), Dev.rd_refresh_far _ (by decide), Dev.refresh_now,
    Dev.refresh_col, hsend.now, hsend.time, hsend.rd _ not_recvReg_tsStatus, hsend.rd _ (not_recvReg_col (by decide) (by decide) (by decide)),
    hsend.rd _ (not_recvReg_col (by decide) (by decide) (by decide)), ← ht.now, ← ht.time]
  have htlock := (t.wr rColTsyncOfs (BitVec.ofInt 32 ofs)).tlock_setTlock true
  rw [← Dev.rd_align, ← Dev.rd_align] at htlock
  obtain ⟨hcol, hstat⟩ := htlock
  exact ⟨t.ofs_align ofs, hcol, hstat, t.align_first ofs, t.align_later ofs⟩

theorem runsOrWaits_time_ignored (h : FlitOk s.dev p f .traffic)
    (hm : bitOf 0 (s.dev.rd rColTsyncCfg) = true ∨ f.src.toNat ≠ s.dev.timeMaster) : RunsOrWaits (.time p f ofs) s (fun t =>
      t.now = s.dev.now ∧ t.col.time = s.dev.col.time ∧ t.rd rColTsyncOfs = s.dev.rd rColTsyncOfs) := by
  obtain ⟨t, ht, hdoes⟩ := does_time_heard (ofs := ofs) h
  have hcfg : t.rd rColTsyncCfg = s.dev.rd rColTsyncCfg := ht.rd _ (not_recvReg_col (by decide) (by decide) (by decide))
  have hact : Receives t (t.timeIn p f.src.toNat ofs) := by
    cases hb : bitOf 0 (t.rd rColTsyncCfg) with
    | true =>
      rw [Dev.timeIn_master hb]
      exact (sends_sendTo _ _).receives
    | false =>
      rw [Dev.timeIn_other hb fun hc => ?_]
      · exact .refl t
      · exact hm.elim (fun hm => by rw [hcfg, hm] at hb; cases hb) fun hne => hne (hc.trans ht.timeMaster)
  have hall := (ht.trans hact).trans (sendsOn_flitAnswered _ p f .traffic).receives
  refine ⟨_, hdoes, fun _ => ⟨hall.now, hall.time, ?_⟩⟩
  rw [Dev.rd_refresh_far _ (by decide), hall.rd _ (not_recvReg_col (by decide) (by decide) (by decide))]

theorem does_timeSend {u : Dev} (h : bitOf 0 (s.dev.rd rColTsyncCfg) = false) (hu : s.dev.sendTo (timeMsg s.dev.timeMaster 0) = u) :
    Does .timeSend s u :=
  does_of_run (f := fun d => if bitOf 0 (d.rd rColTsyncCfg) then d else d.sendTo (timeMsg d.timeMaster 0)) rfl
    ((if_neg (Bool.not_eq_true _ ▸ h)).trans hu)

/-- A message that a command only sends on a port waits there or goes out. -/
theorem runs_of_portSend {i : Instr} {q : Nat} {o : OutMsg} (h : Does i s (s.dev.portSend q o)) : Runs i s (fun t =>
    t.mem = s.dev.mem ∧ ((∃ j, (o, j) ∈ (t.port q).wait) ∨ (∃ h, Sent.flit q h (some o) 0 ∈ t.sent) ∨
      ∃ x hs, Sent.frame q x hs o ∈ t.sent)) := by
  have hsend := sendsOn_portSend s.dev q o
  refine runs_of_does h (congrArg TierSt.stall hsend.tier) ⟨(Dev.refresh_mem _).trans hsend.mem, ?_⟩
  rw [Dev.port_refresh, Dev.refresh_sent]
  exact Dev.posted_cases (s.dev.posted_portSend q o)

theorem exec_ptpMessage : exec (.ptpMessage p ofs) s = State.run (fun d =>
    if d.rdFld rColTsyncCfg 1 0 = 3 && d.portUp p.val && d.portRole p.val = 2 && d.portEth p.val then d.align ofs else d) s := rfl

theorem does_ptpMessage_follows (hcfg : s.dev.rdFld rColTsyncCfg 1 0 = 3) (hup : s.dev.portUp p = true) (hrole : s.dev.portRole p = 2)
    (heth : s.dev.portEth p = true) : Does (.ptpMessage p ofs) s (s.dev.align ofs) :=
  does_of_run exec_ptpMessage (if_pos (by simp [hcfg, hup, hrole, heth]))

theorem does_ptpMessage_ignored (h : ¬(s.dev.rdFld rColTsyncCfg 1 0 = 3 ∧ s.dev.portUp p = true ∧ s.dev.portRole p = 2 ∧
    s.dev.portEth p = true)) : Does (.ptpMessage p ofs) s s.dev :=
  does_of_run exec_ptpMessage (if_neg (by simpa [and_assoc] using h))

theorem exec_timeLockLoss : exec .timeLockLoss s = State.run (fun d =>
    if bitOf 11 (d.rd rColStatus) then
      ({ d.setTlock false with col := { (d.setTlock false).col with time := { (d.setTlock false).col.time with slew := 0 } } }
        : Dev).colErr 5 0 0 (d.setTlock false).coord
    else d) s := rfl

end Time

/-- Settles O40: a TIME flit acts in a device whose clock and master are those of the device that took it, and what answers it changes
neither. -/
theorem theTimestampFollowsItsReference : Obligations.TheTimestampFollowsItsReference := by
  unfold Obligations.TheTimestampFollowsItsReference
  intro s p f ofs q d master follows off o
  refine ⟨fun h => ⟨does_time h, runsOrWaits_time_follows h, runsOrWaits_time_ignored h⟩, fun hm => ?_,
    fun hm hnone => does_timeSend hm (Dev.sendTo_time_none hnone), fun hm hsome => ?_,
    fun ⟨hcfg, hup, hrole, heth⟩ => does_ptpMessage_follows hcfg hup hrole heth, does_ptpMessage_ignored, fun h => ?_, fun h => ?_⟩
  · exact does_of_run (f := fun d => if bitOf 0 (d.rd rColTsyncCfg) then d else d.sendTo (timeMsg d.timeMaster 0)) rfl (if_pos hm)
  · have hdoes := does_timeSend hm (Dev.sendTo_time_some hsome)
    exact ⟨hdoes, runs_of_portSend hdoes⟩
  · have hcoord : (d.setTlock false).coord = d.coord :=
      congrArg (fld 15 0) (d.rd_setTlock false (off := rColCoord) (by decide) (by decide))
    exact does_of_run exec_timeLockLoss ((if_pos h).trans (by rw [hcoord]; rfl))
  · exact does_of_run exec_timeLockLoss (if_neg (Bool.not_eq_true _ ▸ h))

end Sys2Proof.Proofs

namespace Sys2Proof.Machine

/-! ### Accesses by any partition

`memReg` (Laws/Access.lean) holds for partitions that exist. An access for another one sets the POISON flag of its EPOCH page. -/

/-- From `d` to `t` memory has been accessed, whoever did it. -/
structure Accesses (d t : Dev) : Prop where
  col : t.col = d.col
  rd : ∀ off, memReg off = false → (∀ p, off ≠ rColEpFlags p) → t.rd off = d.rd off

theorem Accesses.refl (d : Dev) : Accesses d d := ⟨rfl, fun _ _ _ => rfl⟩

theorem Accesses.trans {a b c : Dev} (h : Accesses a b) (k : Accesses b c) : Accesses a c :=
  ⟨k.col.trans h.col, fun off ho hp => (k.rd off ho hp).trans (h.rd off ho hp)⟩

theorem MemOnly.accesses {d t : Dev} (h : MemOnly d t) : Accesses d t := ⟨h.notes.col, fun off ho _ => h.rd off ho⟩

theorem accesses_epFlag (d : Dev) (p b : Nat) : Accesses d (d.epFlag p b) := ⟨rfl, fun _ _ hp => d.rd_wr_ne _ (hp p)⟩

theorem accesses_resolve (acc : Acc) (d : Dev) (wr : Bool) (a : Nat) : Accesses d (d.resolve acc wr a).2 := by
  have no (t : Dev) (ht : Accesses d t) : Accesses d (match acc.part with
      | some p => ((Target.refused, t.refuse p acc.src a) : Target × Dev)
      | none => (.refused, t)).2 := by
    split
    · exact ht.trans ((accesses_epFlag _ _ _).trans (memOnly_flw _ _ _ _ _).accesses)
    · exact ht
  have hwait (t : Dev) (src n : Nat) := (memOnly_endWait t src n).accesses
  unfold Dev.resolve
  dsimp only
  split
  · split
    · exact (accesses_epFlag _ _ _).trans (memOnly_accessErr _ _ _ _ _).accesses
    · exact no d (.refl d)
  · split
    · split
      · exact hwait _ _ _
      · have hm := (memOnly_managedTarget d a wr).accesses
        split
        · next he => rw [he] at hm; exact hm.trans (hwait _ _ _)
        · next he => rw [he] at hm; exact hm.trans (hwait _ _ _)
        · next he => rw [he] at hm; exact no _ (hm.trans (hwait _ _ _))
        · next he => rw [he] at hm; exact hm.trans (memOnly_stallAt _ _ _).accesses
    · split <;> exact .refl d

theorem accesses_writeMem (acc : Acc) (d : Dev) (a : Nat) (bs : Marked) : Accesses d (d.writeMem acc a bs).2 := by
  refine foldl_rel (fun r u : Option Nat × Dev => Accesses r.2 u.2) (fun _ => .refl _) (fun _ _ _ => .trans) _ (fun r e => ?_) _ (none, d)
  have hr := accesses_resolve acc r.2 true e.1
  dsimp only
  split
  · next he => rw [he] at hr; exact hr
  · next he => rw [he] at hr; exact hr
  · next he => rw [he] at hr; exact hr.trans (memOnly_writePhys _ _ _ _).accesses
  · next he => rw [he] at hr; exact hr.trans (memOnly_writeHost _ _ _ _).accesses

/-! ### What a group's change of state leaves (R277, R295) -/

/-- A register that shows a port's state, the number of lost devices, or whether a group has lost a member. -/
def groupsReg (off : Nat) : Prop :=
  (∃ p < 24, off = rLnkStatus p) ∨ off = rColLossCount ∨ ∃ p < 8, ∃ g < 64, off = rColGState p g

/-- From `d` to `t` groups have become READY or LOST, and their collectives have ended. -/
structure Groups (d t : Dev) : Prop where
  partners : t.col.partners = d.col.partners
  status : ∀ p < 24, t.rd (rLnkStatus p) = d.rd (rLnkStatus p)
  loss : t.rd rColLossCount = d.rd rColLossCount
  lost : ∀ p < 8, ∀ g < 64, bitOf 1 (d.rd (rColGState p g)) = true → bitOf 1 (t.rd (rColGState p g)) = true

theorem Groups.refl (d : Dev) : Groups d d := ⟨rfl, fun _ _ => rfl, rfl, fun _ _ _ _ => id⟩

theorem Groups.trans {a b c : Dev} (h : Groups a b) (k : Groups b c) : Groups a c :=
  ⟨k.partners.trans h.partners, fun p hp => (k.status p hp).trans (h.status p hp), k.loss.trans h.loss,
    fun p hp g hg hl => k.lost p hp g hg (h.lost p hp g hg hl)⟩

theorem Groups.of_rd {d t : Dev} (hp : t.col.partners = d.col.partners) (hrd : ∀ off, groupsReg off → t.rd off = d.rd off) :
    Groups d t where
  partners := hp
  status p hp := hrd _ (.inl ⟨p, hp, rfl⟩)
  loss := hrd _ (.inr (.inl rfl))
  lost p hp g hg hl := by rwa [hrd _ (.inr (.inr ⟨p, hp, g, hg, rfl⟩))]

theorem groups_withCol (d : Dev) {c : ColSt} (h : c.partners = d.col.partners) : Groups d { d with col := c } := .of_rd h fun _ _ => rfl

theorem groups_free (d : Dev) (n : Nat) : Groups d { d with free := n } := .of_rd rfl fun _ _ => rfl

theorem groups_each {α : Type} (d : Dev) (l : List α) (f : Dev → α → Dev) (h : ∀ d a, Groups d (f d a)) : Groups d (d.each l f) :=
  foldl_rel Groups Groups.refl (fun _ _ _ => Groups.trans) f h l d

theorem groups_wr {off : Nat} (h : ¬groupsReg off) (d : Dev) (v : Word) : Groups d (d.wr off v) :=
  .of_rd rfl fun _ hk => d.rd_wr_ne v (by rintro rfl; exact h hk)

theorem not_memReg_of_groupsReg {off : Nat} (h : groupsReg off) : memReg off = false := by
  obtain ⟨p, hp, rfl⟩ | rfl | ⟨p, hp, g, hg, rfl⟩ := h
  · unfold memReg rLnkStatus; simp only [Bool.or_eq_false_iff, Bool.and_eq_false_iff, decide_eq_false_iff_not]; omega
  · decide
  · unfold memReg rColGState; simp only [Bool.or_eq_false_iff, Bool.and_eq_false_iff, decide_eq_false_iff_not]; omega

theorem not_noteReg_of_groupsReg {off : Nat} (h : groupsReg off) : ¬noteReg off := by
  rintro (hmem | hnote)
  · rw [not_memReg_of_groupsReg h] at hmem
    cases hmem
  · obtain ⟨p, -, rfl⟩ | rfl | ⟨p, -, g, -, rfl⟩ := h
    · unfold rLnkStatus rColErr rColErrInfo rColEvtHead at hnote; omega
    · exact absurd hnote (by decide)
    · unfold rColGState rColErr rColErrInfo rColEvtHead at hnote; omega

theorem not_groupsReg_low {off : Nat} (h : off < 0x9400000) (hne : off ≠ rColLossCount) : ¬groupsReg off := by
  rintro (⟨p, -, rfl⟩ | rfl | ⟨p, -, g, -, rfl⟩)
  · unfold rLnkStatus at h; omega
  · exact hne rfl
  · unfold rColGState at h; omega

/-- A register of an EPOCH page, of whatever partition. -/
theorem not_groupsReg_epoch {off : Nat} (h : 0x9800000 ≤ off) (h4 : off % 0x1000 ≠ 4) : ¬groupsReg off := by
  rintro (⟨p, hp, rfl⟩ | rfl | ⟨p, hp, g, hg, rfl⟩)
  · unfold rLnkStatus at h4; omega
  · exact absurd h (by decide)
  · unfold rColGState at h; omega

theorem Notes.groups {d t : Dev} (h : Notes d t) : Groups d t :=
  .of_rd (by rw [h.col]) fun off ho => h.rd off (not_noteReg_of_groupsReg ho)

theorem Accesses.groups {d t : Dev} (h : Accesses d t) : Groups d t :=
  .of_rd (by rw [h.col]) fun off ho => h.rd off (not_memReg_of_groupsReg ho) fun p hp =>
    not_groupsReg_epoch (by unfold rColEpFlags; omega) (by unfold rColEpFlags; omega) (hp ▸ ho)

/-- A write of COL_G_STATE that does not take LOST back, whether or not the partition exists. -/
theorem groups_wrState (d : Dev) (a b : Nat) {v : Word} (h : bitOf 1 (d.rd (rColGState a b)) = true → bitOf 1 v = true) :
    Groups d (d.wr (rColGState a b) v) where
  partners := rfl
  status p _ := d.rd_wr_ne v (by unfold rLnkStatus rColGState; omega)
  loss := d.rd_wr_ne v (by unfold rColLossCount rColGState; omega)
  lost p _ g _ hl := by
    rw [Dev.rd_wr]
    split
    · next he => exact h (he ▸ hl)
    · exact hl

theorem groups_groupReady (d : Dev) (p g : Nat) : Groups d (d.groupReady p g) := by
  unfold Dev.groupReady
  split
  · exact .refl d
  · split
    · exact groups_wrState d p g fun h => by rwa [bitOf_setBit_ne _ _ _ _ (by decide)]
    · exact .refl d

/-- Heartbeats that come make groups READY. -/
theorem groups_heartbeatIn (d : Dev) (c : Nat) (sigs : List (Fin 8 × Fin 64 × Word)) : Groups d (d.heartbeatIn c sigs) := by
  refine groups_each d _ _ fun t g => ?_
  have herr (b : Prop) [Decidable b] : Groups t (if b then t.colErr 0 g.1 g.2 c else t) := by
    split
    · exact (notes_colErr _ _ _ _ _).groups
    · exact .refl t
  have hready (u : Dev) (m : List (Nat × Option GroupSt)) :
      Groups u (({ u with col := { u.col with groups := m } } : Dev).groupReady g.1 g.2) :=
    have hcol : Groups u { u with col := { u.col with groups := m } } := groups_withCol u rfl
    hcol.trans (groups_groupReady _ _ _)
  dsimp only
  split
  · exact .refl t
  · split
    · split
      · exact (herr _).trans (hready _ _)
      · exact herr _
    · exact herr _

/-! ### The loss of a device (R293, R295) -/

theorem groups_collSpoil (d : Dev) (c : CollSt) : Groups d (d.collSpoil c) := by
  unfold Dev.collSpoil
  split
  · exact .refl d
  · split
    · exact .refl d
    · have hfree : Groups d d.fresh.2 := groups_free d _
      exact hfree.trans (accesses_writeMem _ _ _ _).groups

/-- The end of a command, if it is still in flight. -/
theorem groups_ends (d : Dev) (o : Option Inflight) (r : Result) : Groups d (match o with
    | some x => d.finish x r
    | none => d) := by
  split
  · exact .of_rd rfl fun _ _ => rfl
  · exact .refl d

theorem groups_collEnd (d : Dev) (c : CollSt) (r : Result) : Groups d (d.collEnd c r) := by
  have hstatus : ¬groupsReg rColStatus := not_groupsReg_low (by decide) (by decide)
  have hended : Groups d { d with col := { d.col with
      colls := d.col.colls.filter (fun e => !(e.q = c.q && e.i = c.i)),
      arrivals := d.col.arrivals.filter (fun a => !(a.part = c.part && a.group = c.group && a.number = c.number)) } } :=
    groups_withCol d rfl
  exact (hended.trans (groups_wr hstatus _ _)).trans (groups_ends _ _ r)

theorem groups_collFail (d : Dev) (c : CollSt) : Groups d (d.collFail c) := (groups_collSpoil d c).trans (groups_collEnd _ _ _)

theorem groups_stepRecord (d : Dev) (p : Nat) (z : EpochSt) (status : Word) (tc n : Nat) (sums : Option (Word × Word))
    (stat : Option EpochStat) : Groups d (d.stepRecord p z status tc n sums stat) := by
  unfold Dev.stepRecord
  split
  · exact .refl d
  · have hfree : Groups d { d with free := d.free + 4 } := groups_free d _
    exact hfree.trans (accesses_writeMem _ _ _ _).groups

theorem groups_givenUp (d : Dev) (p : Nat) (z : EpochSt) : Groups d (d.givenUp p z) := by
  have hflags := groups_wr (not_groupsReg_epoch (off := rColEpFlags p) (by unfold rColEpFlags; omega) (by unfold rColEpFlags; omega)) d
    (setBit 5 true (d.rd (rColEpFlags p)))
  have hlast := groups_wr (not_groupsReg_epoch (off := rColEpLast p) (by unfold rColEpLast; omega) (by unfold rColEpLast; omega))
    (d.epFlag p 5) (setBit 5 true z.local_.status)
  have hrest : Groups ((d.epFlag p 5).wr (rColEpLast p) (setBit 5 true z.local_.status)) (d.givenUp p z) := .of_rd rfl fun _ _ => rfl
  exact (hflags.trans hlast).trans hrest

theorem groups_epochLost (d : Dev) (p : Nat) : Groups d (d.epochLost p) := by
  unfold Dev.epochLost
  split
  · exact .refl d
  · next z _ =>
    split
    · exact .refl d
    · exact ((groups_givenUp d p z).trans (groups_stepRecord _ _ _ _ _ _ _ _)).trans (groups_ends _ _ _)

/-- The device in which group `g` of partition `p` shows LOST. -/
def Dev.lostMark (d : Dev) (p g coord : Nat) : Dev :=
  if bitOf 1 (d.rd (rColGState p g)) then d else d.wr (rColGState p g) (setFld 31 16 coord (setBit 1 true (d.rd (rColGState p g))))

theorem bitOf_lostWord (coord : Nat) (w : Word) : bitOf 1 (setFld 31 16 coord (setBit 1 true w)) = true := by
  rw [bitOf_setFld_ne _ _ _ _ _ (by decide), bitOf_setBit_same _ _ _ (by decide)]

theorem Dev.lost_lostMark (d : Dev) (p g coord : Nat) : bitOf 1 ((d.lostMark p g coord).rd (rColGState p g)) = true := by
  unfold Dev.lostMark
  split
  · assumption
  · rw [Dev.rd_wr_same, bitOf_lostWord]

theorem groups_lostMark (d : Dev) (p g coord : Nat) : Groups d (d.lostMark p g coord) := by
  unfold Dev.lostMark
  split
  · exact .refl d
  · exact groups_wrState d p g fun _ => bitOf_lostWord _ _

/-- What a group's loss does beside showing it: its collectives fail, and an EPOCH of it is given up. -/
theorem groups_groupLose_of_mark (d : Dev) (p g coord : Nat) : Groups (d.lostMark p g coord) (d.groupLose p g coord) := by
  have hend (t : Dev) (ht : Groups (d.lostMark p g coord) t) : Groups (d.lostMark p g coord) (match t.epochSt p with
      | some s => if s.desc.group = g then t.epochLost p else t
      | none => t) := by
    split
    · split
      · exact ht.trans (groups_epochLost _ _)
      · exact ht
    · exact ht
  exact hend _ (groups_each _ _ _ fun t c => (groups_collFail t c).trans (notes_colErr _ _ _ _ _).groups)

theorem groups_groupLose (d : Dev) (p g coord : Nat) : Groups d (d.groupLose p g coord) :=
  (groups_lostMark d p g coord).trans (groups_groupLose_of_mark d p g coord)

theorem groups_dmaStat (d : Dev) (e : Nat) : Groups d (d.dmaStat e) := by
  unfold Dev.dmaStat
  split
  · exact .refl d
  · exact groups_wr (not_groupsReg_low (by unfold rDmaStatus; omega) (by unfold rDmaStatus rColLossCount; omega)) d _

/-- A property that every step of a fold keeps, and the step for `a` brings about, holds in the end. -/
theorem foldl_reaches {α β : Type} {I P : β → Prop} {f : β → α → β} {a : α} (hinv : ∀ b x, I b → I (f b x))
    (hkeep : ∀ b x, P b → P (f b x)) (hset : ∀ b, I b → P (f b a)) {l : List α} (ha : a ∈ l) {b : β} (hb : I b) : P (l.foldl f b) := by
  induction l generalizing b with
  | nil => cases ha
  | cons x l ih =>
    obtain rfl | ha := List.mem_cons.mp ha
    · exact List.foldlRecOn (motive := P) l f (hset b hb) fun t ht y _ => hkeep t y ht
    · exact ih ha (hinv b x hb)

theorem Dev.partner_refresh (d : Dev) (c : Nat) : d.refresh.partner c = d.partner c := rfl

/-- The entry of another device that has been heard. -/
theorem Dev.partner_hear (d : Dev) {c : Nat} (h : c ≠ d.coord) (serial : Option Nat) (port : Nat) : (d.hear c serial port).partner c =
    { d.heardEntry c serial with ports := ((d.directPorts c).map (2 ^ ·)).sum } := by
  rw [Dev.partner, (notes_hear d h serial port).col]
  exact d.partner_withPartner c _

section Lose

variable (d : Dev) (c : Nat)

/-- The device in which `c` is shown as LOST, counted and reported, before its groups lose it. -/
def Dev.lostShown : Dev :=
  ((d.setPartner c { d.partner c with state := 2 }).addSat rColLossCount 1).colEvent 2 c 255 (d.partner c).serial

/-- The groups that have `c` as a remote member lose it. -/
def Dev.groupsLost : Dev :=
  d.each (d.groupsOn.filter (fun g => (d.remotes g.1 g.2).contains c)) fun d g => d.groupLose g.1 g.2 c

theorem groups_groupsLost : Groups d (d.groupsLost c) := by
  unfold Dev.groupsLost
  exact groups_each d _ _ fun t g => groups_groupLose t g.1 g.2 c

theorem groups_lose : Groups ((d.lostShown c).groupsLost c) (d.lose c) :=
  groups_each _ _ _ fun t x =>
    have hended : Groups t (t.finish x { Result.fresh with status := .partial_, src := dmaSrc x.eng }) := .of_rd rfl fun _ _ => rfl
    hended.trans (groups_dmaStat _ _)

theorem Dev.col_lostShown : (d.lostShown c).col = (d.withPartner c { d.partner c with state := 2 }).col :=
  (notes_colEvent _ _ _ _ _).col.trans (notes_setPartner _ _ _).col

theorem Dev.rd_lostShown {off : Nat} (h : ¬noteReg off) (hne : off ≠ rColLossCount) : (d.lostShown c).rd off = d.rd off := by
  rw [Dev.lostShown, (notes_colEvent _ _ _ _ _).rd _ h, Dev.addSat, if_neg (by decide), Dev.rd_wr_ne _ _ hne,
    (notes_setPartner _ _ _).rd _ h]
  rfl

theorem Dev.loss_lostShown : (d.lostShown c).rd rColLossCount = satAdd32 (d.rd rColLossCount) 1 := by
  have h : ¬noteReg rColLossCount := not_noteReg_of_groupsReg (.inr (.inl rfl))
  rw [Dev.lostShown, (notes_colEvent _ _ _ _ _).rd _ h, Dev.rd_addSat_same, (notes_setPartner _ _ _).rd _ h]
  rfl

theorem Dev.state_lose : ((d.lose c).partner c).state = 2 := by
  have hgroups := (groups_groupsLost (d.lostShown c) c).trans (groups_lose d c)
  have hpartner : (d.lose c).partner c = (d.withPartner c { d.partner c with state := 2 }).partner c := by
    rw [Dev.partner, hgroups.partners, Dev.col_lostShown]
    rfl
  rw [hpartner, Dev.partner_withPartner]

theorem Dev.loss_lose : (d.lose c).rd rColLossCount = satAdd32 (d.rd rColLossCount) 1 := by
  have hgroups := (groups_groupsLost (d.lostShown c) c).trans (groups_lose d c)
  rw [hgroups.loss, Dev.loss_lostShown]

/-- Which devices a group has is read from COL_COORD and the group's first four registers. -/
theorem Dev.remotes_congr {d t : Dev} {p g : Nat} (hp : p < 8) (hg : g < 64)
    (h : ∀ off, 0x9000000 ≤ off → off < 0x9480000 → off % 0x40 < 0x10 → t.rd off = d.rd off) : t.remotes p g = d.remotes p g := by
  have hcoord : t.coord = d.coord := congrArg (fld 15 0) (h rColCoord (by decide) (by decide) (by decide))
  have hctl := h (rColGCtl p g) (by unfold rColGCtl; omega) (by unfold rColGCtl; omega) (by unfold rColGCtl; omega)
  have hslot := h (rColGAxslot p g) (by unfold rColGAxslot; omega) (by unfold rColGAxslot; omega) (by unfold rColGAxslot; omega)
  have htray := h (rColGAxtray p g) (by unfold rColGAxtray; omega) (by unfold rColGAxtray; omega) (by unfold rColGAxtray; omega)
  have hrack := h (rColGAxrack p g) (by unfold rColGAxrack; omega) (by unfold rColGAxrack; omega) (by unfold rColGAxrack; omega)
  have hlevels : t.levels p g = d.levels p g := by
    unfold Dev.levels
    rw [hctl, hslot, htray, hrack, hcoord]
  rw [Dev.remotes, Dev.remotes, hlevels, hcoord]

theorem Dev.groupsOn_lostShown : (d.lostShown c).groupsOn = d.groupsOn := by
  rw [Dev.groupsOn, Dev.col_lostShown]
  rfl

theorem Dev.remotes_lostShown {p g : Nat} (hp : p < 8) (hg : g < 64) : (d.lostShown c).remotes p g = d.remotes p g := by
  refine Dev.remotes_congr hp hg fun off hlo hhi hoff => d.rd_lostShown c ?_ ?_
  · unfold noteReg memReg rColErr rColErrInfo rColEvtHead
    simp only [Bool.or_eq_true, Bool.and_eq_true, decide_eq_true_eq]
    omega
  · unfold rColLossCount
    omega

/-- A group that has the lost device as a member has lost it, whatever the others lose. -/
theorem Dev.lost_groupsLost {x : Nat × Nat} (hp : x.1 < 8) (hg : x.2 < 64) (hon : x ∈ d.groupsOn) (hc : c ∈ d.remotes x.1 x.2) :
    bitOf 1 ((d.groupsLost c).rd (rColGState x.1 x.2)) = true := by
  have hmem : x ∈ d.groupsOn.filter (fun g => (d.remotes g.1 g.2).contains c) :=
    List.mem_filter.mpr ⟨hon, List.contains_iff_mem.mpr hc⟩
  have hset (t : Dev) : bitOf 1 ((t.groupLose x.1 x.2 c).rd (rColGState x.1 x.2)) = true :=
    (groups_groupLose_of_mark t x.1 x.2 c).lost _ hp _ hg (t.lost_lostMark x.1 x.2 c)
  have hkeep (t : Dev) (y : Nat × Nat) := (groups_groupLose t y.1 y.2 c).lost _ hp _ hg
  have hlost := foldl_reaches (b := d) (I := fun _ : Dev => True) (P := fun t : Dev => bitOf 1 (t.rd (rColGState x.1 x.2)) = true)
    (f := fun (t : Dev) (g : Nat × Nat) => t.groupLose g.1 g.2 c) (a := x) (fun _ _ => id) hkeep (fun t _ => hset t)
    hmem trivial
  exact hlost

theorem Dev.lost_lose {x : Nat × Nat} (hp : x.1 < 8) (hg : x.2 < 64) (hon : x ∈ d.groupsOn) (hc : c ∈ d.remotes x.1 x.2) :
    bitOf 1 ((d.lose c).rd (rColGState x.1 x.2)) = true := by
  rw [← Dev.groupsOn_lostShown d c] at hon
  rw [← Dev.remotes_lostShown d c hp hg] at hc
  exact (groups_lose d c).lost _ hp _ hg (Dev.lost_groupsLost _ c hp hg hon hc)

end Lose

/-! ### Heartbeats (R293) -/

section Heartbeat

/-- The heartbeat of port `q` for coordinate `c`. -/
def heartbeatMsg (q c serial : Nat) (sigs : List (Nat × Nat × Word)) : OutMsg :=
  { vc := 5, dest := c, hub := q / 12, poison := false, kind := .heartbeat serial sigs }

/-- The signatures of the groups of `gs` that have `c` as a remote member. -/
def Dev.sigsFor (d : Dev) (gs : List (Nat × Nat)) (c : Nat) : List (Nat × Nat × Word) :=
  (gs.filter (fun g => (d.remotes g.1 g.2).contains c)).map (fun g => (g.1, g.2, d.rd (rColGSig g.1 g.2)))

/-- The heartbeats for coordinate `c`: one on every path. -/
def Dev.heartbeatTo (d : Dev) (gs : List (Nat × Nat)) (c : Nat) : Dev :=
  d.each (d.paths c) fun t p => t.portSend p (heartbeatMsg p c (t.rd64 rLockSerialLo) (d.sigsFor gs c))

/-- The partners that a port reaches directly. -/
def Dev.directPartners (d : Dev) : List Nat := ((List.range 24).filter (fun p => d.portUp p && !d.portSwitch p)).map d.portPartner

theorem Dev.heartbeats_eq {d : Dev} (h : d.withdrawn = false) : d.heartbeats =
    d.each (sortNat (d.groupsOn.flatMap (fun g => d.remotes g.1 g.2) ++ d.directPartners)) fun t c => t.heartbeatTo d.groupsOn c :=
  if_neg (Bool.not_eq_true _ ▸ h)

theorem sends_heartbeatTo (d : Dev) (gs : List (Nat × Nat)) (c : Nat) : Sends d (d.heartbeatTo gs c) :=
  foldl_rel Sends Sends.refl (fun _ _ _ => Sends.trans) _ (fun _ _ => (sendsOn_portSend _ _ _).toSends) _ d

theorem sends_heartbeats (d : Dev) (h : d.withdrawn = false) : Sends d d.heartbeats := by
  rw [Dev.heartbeats_eq h]
  exact foldl_rel Sends Sends.refl (fun _ _ _ => Sends.trans) _ (fun t c => sends_heartbeatTo t d.groupsOn c) _ d

variable {d : Dev} {q : Nat}

/-- A port to a device is on a path to it. -/
theorem Dev.mem_paths {t : Dev} (ht : Sends d t) (hq : q < 24) (hup : d.portUp q = true) (hsw : d.portSwitch q = false) :
    q ∈ t.paths (d.portPartner q) := by
  have hstatus : t.rd (rLnkStatus q) = d.rd (rLnkStatus q) := ht.rd _ (by unfold sentReg rLnkStatus rColWireBytesLo; omega)
  have hpartner : t.rd (rLnkPartner q) = d.rd (rLnkPartner q) := ht.rd _ (by unfold sentReg rLnkPartner rColWireBytesLo; omega)
  have hup' : t.portUp q = true := by rw [← hup, Dev.portUp, Dev.portUp, Dev.portState_congr hstatus]
  have hsw' : t.portSwitch q = false := by rw [← hsw, Dev.portSwitch, Dev.portSwitch, hstatus]
  have hto : t.portPartner q = d.portPartner q := congrArg (fld 15 0) hpartner
  exact List.mem_filter.mpr ⟨List.mem_range.mpr hq, by simp [hup', hsw', hto]⟩

theorem SendOnly.serial {t : Dev} (h : SendOnly d t) : t.rd64 rLockSerialLo = d.rd64 rLockSerialLo := by
  have hlo : t.rd rLockSerialLo = d.rd rLockSerialLo := h.rd _ (by unfold sentReg; decide)
  have hhi : t.rd (rLockSerialLo + 4) = d.rd (rLockSerialLo + 4) := h.rd _ (by unfold sentReg; decide)
  rw [Dev.rd64, Dev.rd64, hlo, hhi]

/-- The heartbeats for a port's partner go out on that port, among others. -/
theorem Dev.posted_heartbeatTo {t : Dev} (ht : Sends d t) (hq : q < 24) (hup : d.portUp q = true) (hsw : d.portSwitch q = false)
    (gs : List (Nat × Nat)) : (t.heartbeatTo gs (d.portPartner q)).posted q
      (heartbeatMsg q (d.portPartner q) (d.rd64 rLockSerialLo) (t.sigsFor gs (d.portPartner q))) := by
  unfold Dev.heartbeatTo Dev.each
  refine foldl_reaches (I := fun u : Dev => Sends d u) (P := fun u : Dev => u.posted q (heartbeatMsg q (d.portPartner q) (d.rd64 rLockSerialLo)
    (t.sigsFor gs (d.portPartner q)))) (f := fun (u : Dev) (p : Nat) => u.portSend p (heartbeatMsg p (d.portPartner q) (u.rd64 rLockSerialLo)
    (t.sigsFor gs (d.portPartner q)))) (a := q) (fun u p hu => hu.trans (sendsOn_portSend _ _ _).toSends)
    (fun u p hu => (sendsOn_portSend _ _ _).posted _ _ hu) (fun u hu => ?_) (Dev.mem_paths ht hq hup hsw) ht
  rw [← hu.serial]
  exact Dev.posted_portSend _ _ _

/-- A heartbeat goes out on the port of every direct partner. -/
theorem Dev.posted_heartbeats (h : d.withdrawn = false) (hq : q < 24) (hup : d.portUp q = true) (hsw : d.portSwitch q = false) :
    ∃ sigs, d.heartbeats.posted q (heartbeatMsg q (d.portPartner q) (d.rd64 rLockSerialLo) sigs) := by
  have hmem : d.portPartner q ∈ d.directPartners :=
    List.mem_map_of_mem (List.mem_filter.mpr ⟨List.mem_range.mpr hq, by simp [hup, hsw]⟩)
  rw [Dev.heartbeats_eq h]
  unfold Dev.each
  exact foldl_reaches (I := fun t : Dev => Sends d t)
    (P := fun t : Dev => ∃ sigs, t.posted q (heartbeatMsg q (d.portPartner q) (d.rd64 rLockSerialLo) sigs))
    (f := fun (t : Dev) (c : Nat) => t.heartbeatTo d.groupsOn c) (a := d.portPartner q)
    (fun t c ht => ht.trans (sends_heartbeatTo _ _ _)) (fun t c ⟨sigs, ho⟩ => ⟨sigs, (sends_heartbeatTo _ _ _).posted _ _ ho⟩)
    (fun t ht => ⟨_, Dev.posted_heartbeatTo ht hq hup hsw _⟩) (mem_sortNat.mpr (List.mem_append_right _ hmem)) (.refl d)

end Heartbeat

end Sys2Proof.Machine

namespace Sys2Proof.Proofs
open Sys2Proof.Machine Sys2Proof.Safety

section Heartbeat

variable {s : State} {p : Fin 24} {f : FlitHdr} {serial : DWord} {sigs : List (Fin 8 × Fin 64 × Word)} {co : BitVec 16}

theorem does_heartbeat (h : FlitOk s.dev p f .traffic) : Does (.heartbeat p f serial sigs) s
    ((taken s.dev p f 1).accept p f .traffic 240 (some serial.toNat) fun d => d.heartbeatIn f.src.toNat sigs) :=
  does_of_run (f := fun d => d.flitIn p f .traffic 1 240 (some serial.toNat) fun d => d.heartbeatIn f.src.toNat sigs) rfl
    (flitIn_ok h _ _ _ _)

/-- The entry of another device whose message has been taken. -/
theorem partner_heard {d : Dev} (h : FlitOk d p f .traffic) (hsrc : f.src.toNat ≠ d.coord) (k n sn : Nat) :
    let e := ((taken d p f k).flitHeard p f .traffic n (some sn)).partner f.src.toNat
    e.state = 1 ∧ e.serial = sn ∧ e.heardAt = d.now := by
  have ht : Receives d (((taken d p f k).flitCounted p f n).unsilenced p f.src.toNat) :=
    ((receives_taken d p f k).trans (receives_flitCounted _ p f n)).trans (receives_setPort _ _ _)
  rw [Dev.flitHeard_up p.isLt (portState_taken h k) f (by decide)]
  generalize ((taken d p f k).flitCounted p f n).unsilenced p f.src.toNat = t at ht ⊢
  have hcoord : t.coord = d.coord := congrArg (fld 15 0) (ht.rd rColCoord (not_recvReg_col (by decide) (by decide) (by decide)))
  intro e
  have he : e = _ := t.partner_hear (hcoord.symm ▸ hsrc) (some sn) p
  rw [he]
  exact ⟨rfl, rfl, ht.now⟩

theorem runsOrWaits_heartbeat (h : FlitOk s.dev p f .traffic) (hsrc : f.src.toNat ≠ s.dev.coord) :
    RunsOrWaits (.heartbeat p f serial sigs) s (fun t => (t.partner f.src.toNat).state = 1 ∧
      (t.partner f.src.toNat).serial = serial.toNat ∧ (t.partner f.src.toNat).heardAt = s.dev.now) := by
  have hdoes := does_heartbeat (serial := serial) (sigs := sigs) h
  rw [Dev.accept_up p.isLt (portState_taken h 1) f (by decide) 240 _ fun t => (groups_heartbeatIn t _ _).status p p.isLt] at hdoes
  refine ⟨_, hdoes, fun _ => ?_⟩
  have hpartner (t : Dev) : ((t.heartbeatIn f.src.toNat sigs).flitAnswered p f .traffic).refresh.partner f.src.toNat =
      t.partner f.src.toNat := by
    have hanswer := congrArg (fun t : Dev => t.col.partners) (sendsOn_flitAnswered (t.heartbeatIn f.src.toNat sigs) p f .traffic).rest
    rw [Dev.partner_refresh, Dev.partner, Dev.partner, ← (groups_heartbeatIn t f.src.toNat sigs).partners]
    exact congrArg (sget (fun _ => ⟨0, 0, 0, 0⟩) · f.src.toNat) hanswer
  dsimp only
  rw [hpartner]
  exact partner_heard h hsrc 1 240 serial.toNat

theorem runs_heartbeatSend (h : s.dev.withdrawn = false) : Runs .heartbeatSend s (fun t =>
    (∀ q : Fin 24, s.dev.portUp q = true → s.dev.portSwitch q = false → ∃ sg,
      let o := heartbeatMsg q (s.dev.portPartner q) (s.dev.rd64 rLockSerialLo) sg
      (∃ j, (o, j) ∈ (t.port q).wait) ∨ (∃ h, Sent.flit q h (some o) 0 ∈ t.sent) ∨ ∃ x hs, Sent.frame q x hs o ∈ t.sent) ∧
    t.mem = s.dev.mem) := by
  have hsend := sends_heartbeats s.dev h
  refine runs_of_does (does_of_run (f := Dev.heartbeats) rfl rfl) (congrArg TierSt.stall hsend.tier)
    ⟨fun q hup hsw => ?_, (Dev.refresh_mem _).trans hsend.mem⟩
  obtain ⟨sg, hposted⟩ := Dev.posted_heartbeats h q.isLt hup hsw
  rw [Dev.port_refresh, Dev.refresh_sent]
  exact ⟨sg, Dev.posted_cases hposted⟩

theorem exec_partnerLoss : exec (.partnerLoss co) s = State.run (fun d =>
    if (d.partner co.toNat).state = 1 && (d.partner co.toNat).heardAt + d.hbLimit ≤ d.now then d.lose co.toNat else d) s := rfl

theorem runsOrWaits_partnerLoss (hstate : (s.dev.partner co.toNat).state = 1)
    (hdue : (s.dev.partner co.toNat).heardAt + s.dev.hbLimit ≤ s.dev.now) : RunsOrWaits (.partnerLoss co) s (fun t =>
      (t.partner co.toNat).state = 2 ∧ t.rd rColLossCount = satAdd32 (s.dev.rd rColLossCount) 1 ∧
      ∀ g ∈ s.dev.groupsOn, g.1 < 8 → co.toNat ∈ s.dev.remotes g.1 g.2 → bitOf 1 (t.rd (rColGState g.1 g.2)) = true) := by
  refine ⟨s.dev.lose co.toNat, does_of_run exec_partnerLoss (if_pos (by simp [hstate, hdue])), fun _ => ⟨?_, ?_, fun g hg hp hc => ?_⟩⟩
  · rw [Dev.partner_refresh, Dev.state_lose]
  · rw [Dev.rd_refresh_far _ (by decide), Dev.loss_lose]
  · have hlt : g.2 < 64 := by
      obtain ⟨e, -, rfl⟩ := List.mem_map.mp hg
      exact Nat.mod_lt _ (by decide)
    rw [Dev.rd_refresh_far _ (by unfold rColGState; omega)]
    exact s.dev.lost_lose co.toNat hp hlt hg hc

end Heartbeat

/-- Settles O39: what a heartbeat does to groups leaves the partner table and the port's state; a group that has lost a member stays
LOST through whatever the other groups and their collectives lose. -/
theorem heartbeatsKeepPartnersAlive : Obligations.HeartbeatsKeepPartnersAlive := by
  unfold Obligations.HeartbeatsKeepPartnersAlive
  intro s p f serial sigs co d c e
  refine ⟨fun h => does_heartbeat h, fun h hsrc => runsOrWaits_heartbeat h hsrc, fun h => ?_, fun h => runs_heartbeatSend h,
    fun hstate hdue => runsOrWaits_partnerLoss hstate hdue, fun h => ?_⟩
  · exact does_of_run (f := Dev.heartbeats) rfl (if_pos h)
  · refine does_of_run exec_partnerLoss (if_neg fun hc => ?_)
    simp only [Bool.and_eq_true, decide_eq_true_eq] at hc
    exact h.elim (fun hne => hne hc.1) fun hlt => Nat.not_le.mpr hlt hc.2

end Sys2Proof.Proofs

namespace Sys2Proof.Machine

/-! ### Flits that acknowledge (R287, R288, R290) -/

theorem not_recvReg_lnk {p off : Nat} (hp : p < 24) (h : off = rLnkCfg p ∨ off = rLnkStatus p ∨ off = rLnkPartner p) : ¬recvReg off := by
  unfold recvReg noteReg sentReg memReg rColErr rColErrInfo rColEvtHead rColWireBytesLo
  unfold rLnkCfg rLnkStatus rLnkPartner at h
  simp only [Bool.or_eq_true, Bool.and_eq_true, decide_eq_true_eq]
  omega

theorem Receives.portEth {d t : Dev} (h : Receives d t) {p : Nat} (hp : p < 24) : t.portEth p = d.portEth p :=
  Dev.portEth_congr (h.rd _ (not_recvReg_lnk hp (.inl rfl)))

/-- A source that is heard changes no port. -/
theorem Dev.port_hear (d : Dev) (c : Nat) (serial : Option Nat) (port q : Nat) : (d.hear c serial port).port q = d.port q := by
  by_cases h : c = d.coord
  · rw [Dev.hear, if_pos h]
  · exact Dev.port_of_col (congrArg ColSt.ports (notes_hear d h serial port).col) q

/-- On Ethernet a flit acknowledges by a CTRL message, not by its header. -/
theorem Dev.flitCounted_eth {d : Dev} {p : Nat} (hp : p < 24) (h : d.portEth p = true) (f : FlitHdr) (n : Nat) :
    d.flitCounted p f n = d.flitTallied p f n :=
  if_pos (((receives_flitTallied d p f n).portEth hp).trans h)

theorem Dev.drain_none {d : Dev} {p : Nat} (h : (d.port p).wait = []) : d.drain p = d := by
  unfold Dev.drain
  rw [h]
  simp [Dev.pump, h]

/-- A port state with what `f` acknowledges freed and the credits that it returns. -/
def PortSt.acked (s : PortSt) (f : FlitHdr) : PortSt :=
  { s with
    unacked := s.unacked.filter (fun e => !seqLe e.1 f.ack.toNat)
    credits := s.credits.modify f.cvc.val (fun n => min 64 (n + f.credits.toNat)) }

/-- On Dreuri a flit acknowledges; where nothing waits nothing goes. -/
theorem Dev.flitCounted_dreuri {d : Dev} {p : Nat} (hp : p < 24) (h : d.portEth p = false) (hwait : (d.port p).wait = []) (f : FlitHdr)
    (n : Nat) : d.flitCounted p f n = (d.flitTallied p f n).setPort p ((d.port p).acked f) := by
  have heth : (d.flitTallied p f n).portEth p = false := ((receives_flitTallied d p f n).portEth hp).trans h
  have hport : (d.flitTallied p f n).port p = d.port p := by rw [Dev.flitTallied_eq]; rfl
  have hacks : d.flitCounted p f n = ((d.flitTallied p f n).setPort p (((d.flitTallied p f n).port p).acked f)).drain p :=
    if_neg (Bool.not_eq_true _ ▸ heth)
  rw [hacks, hport, Dev.drain_none (by rw [Dev.port_setPort_same]; exact hwait)]

theorem Dev.directPorts_congr {d t : Dev} (h : Receives d t) (c : Nat) : t.directPorts c = d.directPorts c := by
  refine List.filter_congr fun p hp => ?_
  have hp := List.mem_range.mp hp
  have hstatus := h.rd _ (not_recvReg_lnk hp (.inr (.inl rfl)))
  have hpartner := h.rd _ (not_recvReg_lnk hp (.inr (.inr rfl)))
  rw [Dev.portUp, Dev.portUp, Dev.portState_congr hstatus, Dev.portSwitch, Dev.portSwitch, hstatus, Dev.portPartner, Dev.portPartner,
    Dev.rdFld, Dev.rdFld, hpartner]

/-- Hearing the device itself, or one that is known, leaves memory as it was. -/
theorem Dev.hear_known {d : Dev} {c : Nat} (h : c = d.coord ∨ Sys2Proof.Safety.Known d c) (port : Nat) :
    (d.hear c none port).mem = d.mem ∧ (d.hear c none port).tier = d.tier := by
  by_cases hc : c = d.coord
  · rw [Dev.hear, if_pos hc]
    exact ⟨rfl, rfl⟩
  · obtain ⟨hstate, hports⟩ := h.resolve_left hc
    have hset : d.setPartner c (d.heardEntry c none) = d.withPartner c (d.heardEntry c none) :=
      if_pos (by simp [Dev.heardEntry, hstate, hports])
    have hhear : d.hear c none port = d.withPartner c (d.heardEntry c none) := (if_neg hc).trans ((if_pos hstate).trans hset)
    rw [hhear]
    exact ⟨rfl, rfl⟩

/-- A partner that is known stays known while a message comes. -/
theorem known_of_receives {d t : Dev} (h : Receives d t) (hpartners : t.col.partners = d.col.partners) {c : Nat}
    (hknown : Sys2Proof.Safety.Known d c) : Sys2Proof.Safety.Known t c := by
  have hpartner : t.partner c = d.partner c := by rw [Dev.partner, Dev.partner, hpartners]
  rwa [Sys2Proof.Safety.Known, hpartner, Dev.directPorts_congr h]

theorem Receives.coord {d t : Dev} (h : Receives d t) : t.coord = d.coord :=
  congrArg (fld 15 0) (h.rd rColCoord (not_recvReg_col (by decide) (by decide) (by decide)))

/-- A port state with what `f` acknowledges freed, and the source of `f` silent no longer. -/
def PortSt.heardFrom (s : PortSt) (f : FlitHdr) : PortSt := { s.acked f with silent := s.silent.filter (· ≠ f.src.toNat) }

/-- What a flit without a message leaves before its source is noted. -/
theorem Dev.unsilenced_dreuri {d : Dev} {p : Nat} (hp : p < 24) (heth : d.portEth p = false) (hwait : (d.port p).wait = [])
    (f : FlitHdr) (n : Nat) : (d.flitCounted p f n).unsilenced p f.src.toNat =
      ((d.flitTallied p f n).setPort p ((d.port p).acked f)).setPort p ((d.port p).heardFrom f) := by
  rw [Dev.flitCounted_dreuri hp heth hwait, Dev.unsilenced, Dev.port_setPort_same]
  rfl

/-- A flit without a message, of a source that is known: it acknowledges, and memory stays. -/
theorem Dev.flitHeard_bare {d : Dev} {p : Nat} (hp : p < 24) (hup : d.portState p = 3) (heth : d.portEth p = false)
    (hwait : (d.port p).wait = []) (f : FlitHdr) (n : Nat)
    (hknown : f.src.toNat = d.coord ∨ Sys2Proof.Safety.Known d f.src.toNat) :
    (d.flitHeard p f .bare n none).port p = (d.port p).heardFrom f ∧
      (d.flitHeard p f .bare n none).mem = d.mem ∧ (d.flitHeard p f .bare n none).tier = d.tier := by
  rw [Dev.flitHeard_up hp hup f (by decide), Dev.port_hear, Dev.unsilenced_dreuri hp heth hwait, Dev.port_setPort_same]
  have hrecv := (receives_flitTallied d p f n).trans ((receives_setPort _ p ((d.port p).acked f)).trans
    (receives_setPort _ p ((d.port p).heardFrom f)))
  have hstill : (d.flitTallied p f n).mem = d.mem ∧ (d.flitTallied p f n).tier = d.tier ∧
      (d.flitTallied p f n).col.partners = d.col.partners := by
    rw [Dev.flitTallied_eq]
    exact ⟨rfl, rfl, rfl⟩
  obtain ⟨hmem, htier, hpartners⟩ := hstill
  obtain ⟨hmem', htier'⟩ := Dev.hear_known (hknown.imp (fun h => h.trans hrecv.coord.symm) (known_of_receives hrecv hpartners)) p
  exact ⟨rfl, hmem'.trans hmem, htier'.trans htier⟩

theorem Dev.portState_of_up {d : Dev} {p : Nat} (h : d.portUp p = true) : d.portState p = 3 := of_decide_eq_true h

/-- A port that is UP takes every flit. -/
theorem Dev.takes_up {d : Dev} {p : Nat} (h : d.portUp p = true) (k : FlitKind) : d.takes p k = true := by
  unfold Dev.takes
  simp only [Dev.portState_of_up h]

theorem Dev.flitIn_refused {d : Dev} {p : Nat} {kind : FlitKind} (h : d.takes p kind = false) (f : FlitHdr) (k n : Nat) (serial : Option Nat)
    (act : Dev → Dev) : d.flitIn p f kind k n serial act = d := if_pos (by rw [h]; rfl)

theorem Dev.idleIn_refused {d : Dev} {p : Nat} (h : d.takes p .bare = false) (f : FlitHdr) : d.idleIn p f = d := if_pos (by simp [h])

/-- An IDLE of a port that is UP acts on nothing. -/
theorem Dev.idleIn_up {d : Dev} {p : Nat} (hp : p < 24) (hup : d.portUp p = true) (heth : d.portEth p = false) {f : FlitHdr}
    (hcrc : f.crcOk = true) (hfec : f.fec ≠ .bad) (hdiscarding : (d.port p).discarding = false) :
    d.idleIn p f = d.flitHeard p f .bare 0 none := by
  have haccept : d.idleIn p f = d.accept p f .bare 0 none fun d => d := by
    rw [Dev.idleIn, heth, Dev.takes_up hup, hcrc, hdiscarding]
    simp [hfec]
  rw [haccept, Dev.accept_up hp (Dev.portState_of_up hup) f (by decide) 0 none fun _ => rfl]
  exact if_neg (by simp)

/-! ### Flits that are asked for again (R288, R289) -/

theorem Dev.flitIn_bad {d : Dev} {p : Nat} (hup : d.portUp p = true) {f : FlitHdr} (hbad : f.crcOk = false ∨ f.fec = .bad)
    (kind : FlitKind) (k n : Nat) (serial : Option Nat) (act : Dev → Dev) : d.flitIn p f kind k n serial act = d.flitBad p f := by
  rw [Dev.flitIn, Dev.takes_up hup, if_neg (by decide), if_pos (by obtain h | h := hbad <;> simp [h])]

/-- From `d` to `t` an error of a port has been flagged and recorded: the ports stay. -/
structure Flags (d t : Dev) : Prop where
  ports : t.col.ports = d.col.ports
  rd : ∀ p < 24, t.rd (rLnkCfg p) = d.rd (rLnkCfg p)

theorem Flags.trans {a b c : Dev} (h : Flags a b) (k : Flags b c) : Flags a c :=
  ⟨k.ports.trans h.ports, fun p hp => (k.rd p hp).trans (h.rd p hp)⟩

theorem flags_lnkErr (d : Dev) (p bit code arg : Nat) : Flags d ((d.lnkErr p bit).flw 4 code (portSrc p) arg) := by
  have hnotes := notes_flw (d.lnkErr p bit) 4 code (portSrc p) arg
  refine ⟨congrArg ColSt.ports hnotes.col, fun q hq => ?_⟩
  rw [hnotes.rd _ fun h => not_recvReg_lnk hq (.inl rfl) (.inl h)]
  exact Dev.rd_wr_ne _ _ (by unfold rLnkCfg rLnkErr; omega)

theorem flags_addSat_fec (d : Dev) (p : Nat) : Flags d (d.addSat (rLnkFecUncorr p) 1) :=
  ⟨rfl, fun q _ => Dev.rd_wr_ne _ _ (by unfold rLnkCfg rLnkFecUncorr; omega)⟩

section Flagged

variable {d t : Dev} {p : Nat} {f : FlitHdr}

theorem Flags.portEth (h : Flags d t) (hp : p < 24) : t.portEth p = d.portEth p := Dev.portEth_congr (h.rd p hp)

/-- A port that does not discard yet asks for the flit that it expects. -/
theorem Flags.askRetry_taking (h : Flags d t) (hdiscarding : (d.port p).discarding = false) : t.askRetry p =
    ((t.setPort p { d.port p with discarding := true }).addSat (rLnkRetry p) 1).emit p 6 0 true 0 (d.port p).rxSeq false
      (t.portPartner p) none 0 := by
  rw [← Dev.port_of_col h.ports p] at hdiscarding ⊢
  exact if_neg (by simp [hdiscarding])

/-- A port that discards has asked. -/
theorem Flags.askRetry_discarding (h : Flags d t) (hdiscarding : (d.port p).discarding = true) : t.askRetry p = t :=
  if_pos (by rw [Dev.port_of_col h.ports p, hdiscarding])

theorem Dev.flitBad_crc (hp : p < 24) (heth : d.portEth p = false) (hcrc : f.crcOk = false) (hfec : f.fec ≠ .bad) :
    d.flitBad p f = ((d.lnkErr p 1).flw 4 1 (portSrc p) 0).askRetry p := by
  have hflags := (flags_lnkErr d p 1 1 0).portEth hp
  unfold Dev.flitBad
  simp only [hcrc, hfec, hflags, heth, Bool.false_eq_true, if_false]

theorem flags_fec (d : Dev) (p : Nat) : Flags d (((d.lnkErr p 0).flw 4 0 (portSrc p) 0).addSat (rLnkFecUncorr p) 1) :=
  (flags_lnkErr d p 0 0 0).trans (flags_addSat_fec _ p)

theorem Dev.flitBad_fec (hp : p < 24) (heth : d.portEth p = false) (hcrc : f.crcOk = true) (hfec : f.fec = .bad) :
    d.flitBad p f = (((d.lnkErr p 0).flw 4 0 (portSrc p) 0).addSat (rLnkFecUncorr p) 1).askRetry p := by
  have hflags := (flags_fec d p).portEth hp
  unfold Dev.flitBad
  simp only [hcrc, hfec, hflags, heth, Bool.false_eq_true, if_false, if_true]

end Flagged

/-! ### Acknowledged, resent and paused messages of Ethernet (R290) -/

theorem Dev.ctrlIn_eth {d : Dev} {p : Nat} (heth : d.portEth p = true) (msg : Nat) :
    d.ctrlIn p msg = d.setPort p { d.port p with unacked := (d.port p).unacked.filter (·.1 ≠ msg) } := if_neg (by simp [heth])

/-- A source that is heard on an Ethernet port leaves what the port holds. -/
theorem Dev.flitHeard_eth {d : Dev} {p : Nat} (hp : p < 24) (hup : d.portState p = 3) (heth : d.portEth p = true) (f : FlitHdr) (n : Nat)
    (serial : Option Nat) : ((d.flitHeard p f .bare n serial).port p).unacked = (d.port p).unacked ∧
      ((d.flitHeard p f .bare n serial).port p).wait = (d.port p).wait := by
  rw [Dev.flitHeard_up hp hup f (by decide), Dev.port_hear, Dev.flitCounted_eth hp heth, Dev.unsilenced, Dev.port_setPort_same,
    Dev.flitTallied_eq]
  exact ⟨rfl, rfl⟩

/-- A CTRL on an Ethernet port that is UP is taken, and answers nothing. -/
theorem Dev.flitIn_ctrl {d : Dev} {p : Nat} (hp : p < 24) (hup : d.portUp p = true) (heth : d.portEth p = true) {f : FlitHdr}
    (hcrc : f.crcOk = true) (hfec : f.fec ≠ .bad) (msg : Nat) :
    d.flitIn p f .bare 1 0 none (fun d => d.ctrlIn p msg) = (d.flitHeard p f .bare 0 none).ctrlIn p msg := by
  have hok : Sys2Proof.Safety.FlitOk d p f .bare := ⟨Dev.takes_up hup _, hcrc, hfec, by simp [heth]⟩
  have htaken : Sys2Proof.Safety.taken d p f 1 = d := if_pos heth
  have hstatus (t : Dev) : (t.ctrlIn p msg).rd (rLnkStatus p) = t.rd (rLnkStatus p) := by
    unfold Dev.ctrlIn
    split <;> rfl
  have hanswer (t : Dev) : t.flitAnswered p f .bare = t := if_neg (by simp)
  rw [Sys2Proof.Safety.flitIn_ok hok, htaken, Dev.accept_up hp (Dev.portState_of_up hup) f (by decide) 0 none hstatus, hanswer]

/-- A CTRL that is taken frees the message that it names. -/
theorem Dev.port_flitIn_ctrl {d : Dev} {p : Nat} (hp : p < 24) (hup : d.portUp p = true) (heth : d.portEth p = true) {f : FlitHdr}
    (hcrc : f.crcOk = true) (hfec : f.fec ≠ .bad) (msg : Nat) :
    ((d.flitIn p f .bare 1 0 none fun d => d.ctrlIn p msg).port p).unacked = (d.port p).unacked.filter (·.1 ≠ msg) ∧
      ((d.flitIn p f .bare 1 0 none fun d => d.ctrlIn p msg).port p).wait = (d.port p).wait := by
  have hup' := Dev.portState_of_up hup
  have heth' := ((receives_flitHeard hp hup' f (kind := .bare) (by decide) 0 none).portEth hp).trans heth
  obtain ⟨hunacked, hwait⟩ := Dev.flitHeard_eth hp hup' heth f 0 none
  rw [Dev.flitIn_ctrl hp hup heth hcrc hfec, Dev.ctrlIn_eth heth', Dev.port_setPort_same]
  exact ⟨congrArg _ hunacked, hwait⟩

theorem Dev.resend_again {d : Dev} {p msg : Nat} {e : Nat × Nat × OutMsg} (hup : d.portUp p = true) (heth : d.portEth p = true)
    (he : (d.port p).unacked.find? (·.1 = msg) = some e) (hn : e.2.1 < 8) : d.resend p msg =
      (((d.setPort p { d.port p with unacked := (d.port p).unacked.map (fun v => if v.1 = msg then (v.1, v.2.1 + 1, v.2.2) else v) }).lnkErr
        p 6).flw 4 6 (portSrc p) 0).sendFrames p msg e.2.2 := by
  simp [Dev.resend, he, hup, heth, hn, mapIf]

theorem Dev.resend_silent {d : Dev} {p msg : Nat} {e : Nat × Nat × OutMsg} (hup : d.portUp p = true) (heth : d.portEth p = true)
    (he : (d.port p).unacked.find? (·.1 = msg) = some e) (hn : 8 ≤ e.2.1) : d.resend p msg = d.goSilent p e.2.2.dest := by
  simp [Dev.resend, he, hup, heth, Nat.not_lt.mpr hn]

/-- No route leads over a port on which the destination is silent (R286). -/
theorem Dev.not_silent_of_route {d : Dev} {h c q : Nat} (hq : q ∈ d.routes h c) : c ∉ (d.port q).silent := by
  unfold Dev.routes at hq
  dsimp only at hq
  obtain hnone | ⟨l, hsome⟩ := Option.eq_none_or_eq_some (List.find? _ _)
  · rw [hnone] at hq
    cases hq
  · rw [hsome] at hq
    have hl := List.mem_of_find?_eq_some hsome
    simp only [List.mem_cons, List.not_mem_nil, or_false] at hl
    obtain rfl | rfl | rfl | rfl := hl
    all_goals exact fun hc => by simp [hc] at hq

theorem Dev.route_of_portFor {d : Dev} {o : OutMsg} {q : Nat} (h : d.portFor o = some q) : q ∈ d.routes o.hub o.dest := by
  unfold Dev.portFor at h
  dsimp only at h
  split at h
  · exact List.mem_of_find?_eq_some h
  · exact List.mem_of_head? h

/-- A message takes no port on which its destination is silent. -/
theorem Dev.port_sendTo_silent {d : Dev} {p : Nat} {o : OutMsg} (h : o.dest ∈ (d.port p).silent) : (d.sendTo o).port p = d.port p := by
  unfold Dev.sendTo
  split
  · next q hq =>
    have hne : p ≠ q := by
      rintro rfl
      exact Dev.not_silent_of_route (Dev.route_of_portFor hq) h
    exact (sendsOn_portSend d q o).others p hne
  · rfl

/-- A port state on which destination `c` is silent: the port holds none of its messages. -/
def PortSt.silenced (s : PortSt) (c : Nat) : PortSt :=
  { s with silent := insNat c s.silent, unacked := s.unacked.filter (fun e => !decide (e.2.2.dest = c)),
           wait := s.wait.filter (fun e => !decide (e.1.dest = c)) }

/-- The messages of a silent destination take other ports. -/
theorem Dev.goSilent_still (d : Dev) (p c : Nat) :
    (d.goSilent p c).port p = (d.port p).silenced c ∧ (d.goSilent p c).mem = d.mem ∧ (d.goSilent p c).tier = d.tier := by
  unfold Dev.goSilent Dev.each
  dsimp only
  refine List.foldlRecOn (motive := fun t : Dev => t.port p = (d.port p).silenced c ∧ t.mem = d.mem ∧ t.tier = d.tier) _ _
    ⟨d.port_setPort_same p _, rfl, rfl⟩ fun t ⟨hport, hmem, htier⟩ o ho => ?_
  have hdest : o.dest = c := by
    simp only [List.mem_filter, List.mem_append, decide_eq_true_eq] at ho
    tauto
  have hsilent : o.dest ∈ (t.port p).silent := by
    rw [hport, hdest]
    exact mem_insNat.mpr (.inl rfl)
  exact ⟨(Dev.port_sendTo_silent hsilent).trans hport, (sends_sendTo t o).mem.trans hmem, (sends_sendTo t o).tier.trans htier⟩

theorem PortSt.silenced_holds_none (s : PortSt) (c : Nat) : c ∈ (s.silenced c).silent ∧
    (∀ v ∈ (s.silenced c).unacked, v.2.2.dest ≠ c) ∧ ∀ v ∈ (s.silenced c).wait, v.1.dest ≠ c :=
  ⟨mem_insNat.mpr (.inl rfl), fun v hv => by simpa using (List.mem_filter.mp hv).2, fun v hv => by simpa using (List.mem_filter.mp hv).2⟩

theorem sum_bits_lt (b : Nat → Bool) (n : Nat) : ((List.range n).map fun j => if b j then 2 ^ j else 0).sum < 2 ^ n := by
  induction n with
  | zero => exact Nat.one_pos
  | succ n ih =>
    rw [List.range_succ, List.map_append, List.sum_append, List.map_singleton, List.sum_singleton, Nat.pow_succ]
    split <;> omega

/-- The bits of a sum of distinct powers of two. -/
theorem testBit_sum_bits (b : Nat → Bool) {n k : Nat} (h : k < n) :
    (((List.range n).map fun j => if b j then 2 ^ j else 0).sum).testBit k = b k := by
  induction n with
  | zero => cases h
  | succ n ih =>
    rw [List.range_succ, List.map_append, List.sum_append, List.map_singleton, List.sum_singleton, Nat.add_comm]
    obtain hk | rfl := Nat.lt_succ_iff_lt_or_eq.mp h
    · rw [← ih hk]
      split
      · exact Nat.testBit_two_pow_add_gt hk _
      · rw [Nat.zero_add]
    · have htop := Nat.testBit_lt_two_pow (sum_bits_lt b k)
      cases hb : b k with
      | true => rw [if_pos rfl, Nat.testBit_two_pow_add_eq, htop]; rfl
      | false => rw [if_neg (by decide), Nat.zero_add, htop]

/-- A port state in which the priorities of a mask are paused, or resumed. -/
def PortSt.prios (s : PortSt) (prios : Nat) (pause : Bool) : PortSt := { s with
  paused := ((List.range 8).map fun k => if (if prios.testBit k then pause else s.paused.testBit k) then 2 ^ k else 0).sum }

theorem Dev.pfc_eth {d : Dev} {p : Nat} (hup : d.portUp p = true) (heth : d.portEth p = true) (prios : Nat) (pause : Bool) :
    d.pfc p prios pause = (d.setPort p ((d.port p).prios prios pause)).drain p := if_neg (by simp [hup, heth])

/-- A pause frame pauses, or resumes, the priorities of its mask; memory stays. -/
theorem Dev.pfc_still {d : Dev} {p : Nat} (hup : d.portUp p = true) (heth : d.portEth p = true) (prios : Nat) (pause : Bool) :
    (∀ k < 8, ((d.pfc p prios pause).port p).paused.testBit k = if prios.testBit k then pause else (d.port p).paused.testBit k) ∧
      (d.pfc p prios pause).mem = d.mem ∧ (d.pfc p prios pause).tier = d.tier := by
  have hdrain := sendsOn_drain (d.setPort p ((d.port p).prios prios pause)) p
  rw [Dev.pfc_eth hup heth]
  refine ⟨fun k hk => ?_, hdrain.mem, hdrain.tier⟩
  rw [hdrain.paused, Dev.port_setPort_same]
  exact testBit_sum_bits (fun k => if prios.testBit k then pause else (d.port p).paused.testBit k) hk

/-! ### DATA messages (R280) -/

theorem Dev.rd_dataIn (d : Dev) (m : MsgHdr) (bytes : List (Byte × Bool)) (off : Nat) : (d.dataIn m bytes).rd off = d.rd off := by
  unfold Dev.dataIn
  split <;> rfl

/-- What a wanted DATA message brings is among the arrivals. -/
theorem Dev.mem_arrivals_dataIn {d : Dev} {m : MsgHdr} (h : d.wanted m.part m.group m.number = true) (bytes : List (Byte × Bool)) :
    { part := m.part, group := m.group, number := m.number, op := m.op.toNat, flags := m.flags, n := m.n, stage := m.stage.toNat,
      half := m.half.toNat, rank := m.rank, off := m.off.toNat, bytes := bytes } ∈ (d.dataIn m bytes).col.arrivals := by
  rw [Dev.dataIn, if_neg (by simp [h])]
  exact List.mem_append_right _ (List.mem_singleton.mpr rfl)

/-- A DATA message that is not wanted does nothing. -/
theorem Dev.dataIn_unwanted {d : Dev} {m : MsgHdr} (h : d.wanted m.part m.group m.number = false) (bytes : List (Byte × Bool)) :
    d.dataIn m bytes = d := if_pos (by simp [h])

/-- While a message comes, the same collectives are wanted. -/
theorem Receives.wanted {d t : Dev} (h : Receives d t) (p : Fin 8) (g : Fin 64) (number : Word) :
    t.wanted p g number = d.wanted p g number := by
  have hctl : t.rd (rColGCtl p g) = d.rd (rColGCtl p g) := h.rd _ (not_recvReg_col (by unfold rColGCtl; omega) (by unfold rColGCtl; omega)
    (by unfold rColGCtl rColErr rColErrInfo rColEvtHead rColWireBytesLo rColWireBytesHi; omega))
  have hcolls : t.rd (rColGColls p g) = d.rd (rColGColls p g) := h.rd _ (not_recvReg_col (by unfold rColGColls; omega)
    (by unfold rColGColls; omega) (by unfold rColGColls rColErr rColErrInfo rColEvtHead rColWireBytesLo rColWireBytesHi; omega))
  rw [Dev.wanted, Dev.wanted, Dev.groupOn, Dev.groupOn, hctl, hcolls, h.colls]

end Sys2Proof.Machine

namespace Sys2Proof.Proofs
open Sys2Proof.Machine Sys2Proof.Safety

section Data

variable {s : State} {p : Fin 24} {f : FlitHdr} {m : MsgHdr} {bytes : List Byte} {bad : List Nat}

theorem exec_data : exec (.data p f m ⟨bytes, bad⟩) s = State.run (fun d => d.flitIn p f .traffic (cdiv (16 + bytes.length) 240)
    (16 + bytes.length) none fun d => d.dataIn m (flitMarks f bytes bad)) s := rfl

theorem does_data (h : FlitOk s.dev p f .traffic) : Does (.data p f m ⟨bytes, bad⟩) s
    ((taken s.dev p f (cdiv (16 + bytes.length) 240)).accept p f .traffic (16 + bytes.length) none fun d =>
      d.dataIn m (flitMarks f bytes bad)) :=
  does_of_run exec_data (flitIn_ok h _ _ _ _)

/-- The device in which a DATA message is taken, and what it leaves: the message enters its stage there, and is answered. -/
theorem does_data_heard (h : FlitOk s.dev p f .traffic) (m : MsgHdr) (bytes : List Byte) (bad : List Nat) : ∃ t, Receives s.dev t ∧
    Does (.data p f m ⟨bytes, bad⟩) s ((t.dataIn m (flitMarks f bytes bad)).flitAnswered p f .traffic) := by
  have hdoes := does_data (m := m) (bytes := bytes) (bad := bad) h
  rw [Dev.accept_up p.isLt (portState_taken h _) f (by decide) _ none fun t => t.rd_dataIn m _ _] at hdoes
  exact ⟨_, receives_heard h _ _ none, hdoes⟩

/-- What the answer of a DATA message leaves of the arrivals. -/
theorem arrivals_flitAnswered (d : Dev) (p : Nat) (f : FlitHdr) (kind : FlitKind) :
    (d.flitAnswered p f kind).refresh.col.arrivals = d.col.arrivals := by
  rw [Dev.refresh_col]
  exact (sendsOn_flitAnswered d p f kind).receives.arrivals

theorem runsOrWaits_data_wanted (h : FlitOk s.dev p f .traffic) (hwanted : s.dev.wanted m.part m.group m.number = true) :
    RunsOrWaits (.data p f m ⟨bytes, bad⟩) s (fun t =>
      { part := m.part, group := m.group, number := m.number, op := m.op.toNat, flags := m.flags, n := m.n, stage := m.stage.toNat,
        half := m.half.toNat, rank := m.rank, off := m.off.toNat, bytes := flitMarks f bytes bad } ∈ t.col.arrivals) := by
  obtain ⟨t, ht, hdoes⟩ := does_data_heard h m bytes bad
  refine ⟨_, hdoes, fun _ => ?_⟩
  dsimp only
  rw [arrivals_flitAnswered]
  exact Dev.mem_arrivals_dataIn ((ht.wanted _ _ _).trans hwanted) _

theorem runsOrWaits_data_unwanted (h : FlitOk s.dev p f .traffic) (hwanted : s.dev.wanted m.part m.group m.number = false) :
    RunsOrWaits (.data p f m ⟨bytes, bad⟩) s (fun t => t.col.arrivals = s.dev.col.arrivals) := by
  obtain ⟨t, ht, hdoes⟩ := does_data_heard h m bytes bad
  refine ⟨_, hdoes, fun _ => ?_⟩
  dsimp only
  rw [arrivals_flitAnswered, Dev.dataIn_unwanted ((ht.wanted _ _ _).trans hwanted), ht.arrivals]

theorem runsOrWaits_data_acknowledged (h : FlitOk s.dev p f .traffic) (heth : s.dev.portEth p = true) :
    RunsOrWaits (.data p f m ⟨bytes, bad⟩) s (fun t => (∃ o ∈ (t.port p).wait, o.1.kind = .ctrl f.seq.toNat) ∨
      ∃ x hs o, Sent.frame p x hs o ∈ t.sent ∧ o.kind = .ctrl f.seq.toNat) := by
  obtain ⟨t, ht, hdoes⟩ := does_data_heard h m bytes bad
  have heth' : (t.dataIn m (flitMarks f bytes bad)).portEth p = true :=
    (Dev.portEth_congr (t.rd_dataIn m _ _)).trans ((ht.portEth p.isLt).trans heth)
  have hanswer : (t.dataIn m (flitMarks f bytes bad)).flitAnswered p f .traffic = _ := if_pos (by simp [heth'])
  rw [hanswer] at hdoes
  refine ⟨_, hdoes, fun _ => ?_⟩
  dsimp only
  rw [Dev.port_refresh, Dev.refresh_sent]
  obtain hwait | hout := Dev.posted_portSend (t.dataIn m (flitMarks f bytes bad)) p
    { vc := 5, dest := f.src.toNat, hub := p / 12, poison := false, kind := .ctrl f.seq.toNat }
  · exact .inl ⟨_, hwait, rfl⟩
  · rw [Dev.wentOut, (sendsOn_portSend _ _ _).portEth, if_pos heth'] at hout
    obtain ⟨x, hs, hm⟩ := hout
    exact .inr ⟨x, hs, _, hm, rfl⟩

/-- What a bad flit of a message does. -/
theorem does_data_bad (hup : s.dev.portUp p = true) (hbad : f.crcOk = false ∨ f.fec = .bad) {u : Dev} (hu : s.dev.flitBad p f = u) :
    Does (.data p f m ⟨bytes, bad⟩) s u :=
  does_of_run exec_data ((Dev.flitIn_bad hup hbad _ _ _ _ _).trans hu)

end Data

section Wire

variable {s : State} {p : Fin 24} {f : FlitHdr}

theorem exec_idle : exec (.idle p f) s = State.run (fun d => d.idleIn p f) s := rfl

theorem exec_ctrl {msg : Nat} : exec (.ctrl p f msg) s =
    State.run (fun d => d.flitIn p f .bare 1 0 none fun d => d.ctrlIn p msg) s := rfl

/-- An IDLE of a known device frees what it acknowledges and returns its credits. -/
theorem runs_idle (hup : s.dev.portUp p = true) (heth : s.dev.portEth p = false) (hcrc : f.crcOk = true) (hfec : f.fec ≠ .bad)
    (hdiscarding : (s.dev.port p).discarding = false) (hwait : (s.dev.port p).wait = [])
    (hknown : f.src.toNat = s.dev.coord ∨ Known s.dev f.src.toNat) : Runs (.idle p f) s (fun t =>
      (t.port p).unacked = (s.dev.port p).unacked.filter (fun e => !seqLe e.1 f.ack.toNat) ∧
      (t.port p).credits = (s.dev.port p).credits.modify f.cvc (fun n => min 64 (n + f.credits.toNat)) ∧
      (t.port p).rxSeq = (s.dev.port p).rxSeq ∧ t.mem = s.dev.mem) := by
  obtain ⟨hport, hmem, htier⟩ := Dev.flitHeard_bare p.isLt (Dev.portState_of_up hup) heth hwait f 0 hknown
  refine runs_of_does (does_of_run exec_idle (Dev.idleIn_up p.isLt hup heth hcrc hfec hdiscarding)) (congrArg TierSt.stall htier) ?_
  rw [Dev.port_refresh, Dev.refresh_mem, hport, hmem]
  exact ⟨rfl, rfl, rfl, rfl⟩

/-- A CTRL frees its message. -/
theorem runsOrWaits_ctrl (hup : s.dev.portUp p = true) (heth : s.dev.portEth p = true) (hcrc : f.crcOk = true) (hfec : f.fec ≠ .bad)
    (msg : Nat) : RunsOrWaits (.ctrl p f msg) s (fun t =>
      (t.port p).unacked = (s.dev.port p).unacked.filter (·.1 ≠ msg) ∧ (t.port p).wait = (s.dev.port p).wait) := by
  refine ⟨_, does_of_run exec_ctrl rfl, fun _ => ?_⟩
  dsimp only
  rw [Dev.port_refresh]
  exact Dev.port_flitIn_ctrl p.isLt hup heth hcrc hfec msg

/-- After the eighth resend the message's destination is silent on its port. -/
theorem runs_resendTimeout_silent {msg : Nat} {e : Nat × Nat × OutMsg} (hup : s.dev.portUp p = true) (heth : s.dev.portEth p = true)
    (he : (s.dev.port p).unacked.find? (·.1 = msg) = some e) (hn : 8 ≤ e.2.1) : Runs (.resendTimeout p msg) s (fun t =>
      e.2.2.dest ∈ (t.port p).silent ∧ (∀ v ∈ (t.port p).unacked, v.2.2.dest ≠ e.2.2.dest) ∧
      (∀ v ∈ (t.port p).wait, v.1.dest ≠ e.2.2.dest) ∧ t.mem = s.dev.mem) := by
  obtain ⟨hport, hmem, htier⟩ := Dev.goSilent_still s.dev p e.2.2.dest
  refine runs_of_does (does_of_run (f := fun d => d.resend p msg) rfl (Dev.resend_silent hup heth he hn))
    (congrArg TierSt.stall htier) ?_
  rw [Dev.port_refresh, Dev.refresh_mem, hport, hmem]
  obtain ⟨hsilent, hunacked, hwait⟩ := (s.dev.port p).silenced_holds_none e.2.2.dest
  exact ⟨hsilent, hunacked, hwait, rfl⟩

theorem runs_priorityFlowControl (hup : s.dev.portUp p = true) (heth : s.dev.portEth p = true) (prios : BitVec 8) (pause : Bool) :
    Runs (.priorityFlowControl p prios pause) s (fun t => (∀ k < 8, (t.port p).paused.testBit k =
      if prios.toNat.testBit k then pause else (s.dev.port p).paused.testBit k) ∧ t.mem = s.dev.mem) := by
  obtain ⟨hpaused, hmem, htier⟩ := Dev.pfc_still hup heth prios.toNat pause
  refine runs_of_does (does_of_run (f := fun d => d.pfc p prios.toNat pause) rfl rfl) (congrArg TierSt.stall htier) ?_
  rw [Dev.port_refresh, Dev.refresh_mem, hmem]
  exact ⟨hpaused, rfl⟩

end Wire

/-- Settles O38: a flit that is taken acknowledges and is heard before it acts, which changes neither what its port holds beyond that nor
which collectives are wanted; a bad one is only flagged and asked for again; and no route leads over a port on which the destination is
silent, so that the messages which such a port gives up do not come back to it. -/
theorem flitsAreTakenAndSentAgain : Obligations.FlitsAreTakenAndSentAgain := by
  unfold Obligations.FlitsAreTakenAndSentAgain
  intro s p f m bytes bad msg e prios pause d u up eth n a crc lost asked
  refine ⟨fun h => ⟨?_, ?_⟩, fun h => ?_, runs_idle, fun hup heth hcrc hfec => ⟨fun hd => ?_, fun hd => ?_⟩,
    fun hup heth hcrc hfec => ⟨fun hd => ?_, fun hd => ?_⟩, fun hup heth hcrc hfec => runsOrWaits_ctrl hup heth hcrc hfec msg,
    fun hup heth he => ⟨fun hn => ?_, runs_resendTimeout_silent hup heth he⟩, fun hup heth => runs_priorityFlowControl hup heth prios pause,
    fun h => ⟨does_data h, runsOrWaits_data_wanted h, runsOrWaits_data_unwanted h, runsOrWaits_data_acknowledged h⟩⟩
  · exact does_of_run exec_idle (Dev.idleIn_refused h f)
  · exact does_of_run exec_ctrl (Dev.flitIn_refused h f _ _ _ _)
  · exact does_of_run exec_data (Dev.flitIn_refused h f _ _ _ _)
  · exact does_data_bad hup (.inl hcrc) ((Dev.flitBad_crc p.isLt heth hcrc hfec).trans ((flags_lnkErr d p 1 1 0).askRetry_taking hd))
  · exact does_data_bad hup (.inl hcrc) ((Dev.flitBad_crc p.isLt heth hcrc hfec).trans ((flags_lnkErr d p 1 1 0).askRetry_discarding hd))
  · exact does_data_bad hup (.inr hfec) ((Dev.flitBad_fec p.isLt heth hcrc hfec).trans ((flags_fec d p).askRetry_taking hd))
  · exact does_data_bad hup (.inr hfec) ((Dev.flitBad_fec p.isLt heth hcrc hfec).trans ((flags_fec d p).askRetry_discarding hd))
  · exact does_of_run (f := fun d => d.resend p msg) rfl (Dev.resend_again hup heth he hn)

end Sys2Proof.Proofs

/-! Proofs of the families 13_faults_and_recovery to 17_register_conventions_and_map: what every step keeps (R221, R378, R379). -/

namespace Sys2Proof.Machine

/-! ### What an idle nanosecond leaves -/

/-- Is the register at `off` a copy or what a copy is made of? The copies lie below the pages of partitions end. -/
def copySource (off : Nat) : Prop := off < 0x808000 ∨ off = rBootState ∨ off = rLockStatus

/-- From `d` to `t` nothing that the copies speak of, no page and no command changes. -/
structure Idles (d t : Dev) : Prop where
  queue : t.queue = d.queue
  tier : t.tier = d.tier
  rd : ∀ off, copySource off → t.rd off = d.rd off

theorem Idles.refl (d : Dev) : Idles d d := ⟨rfl, rfl, fun _ _ => rfl⟩

theorem Idles.trans {a b c : Dev} (h : Idles a b) (k : Idles b c) : Idles a c :=
  ⟨k.queue.trans h.queue, k.tier.trans h.tier, fun off ho => (k.rd off ho).trans (h.rd off ho)⟩

theorem idles_tick (d : Dev) : Idles d d.tick := by
  unfold Dev.tick
  dsimp only
  split
  · exact ⟨rfl, rfl, fun _ _ => rfl⟩
  · refine ⟨rfl, rfl, fun off ho => d.rd_wr_ne _ ?_⟩
    rintro rfl
    exact absurd ho (by unfold copySource; decide)

theorem idles_trwStall (d : Dev) (n e : Nat) : Idles d (d.trwStall n e) := by
  unfold Dev.trwStall
  split
  · rw [Dev.add64_eq]
    refine ⟨rfl, rfl, fun off ho => ?_⟩
    show (d.add64 (rTrwStallLo e) n).rd off = d.rd off
    unfold Dev.add64
    split
    · rfl
    · unfold copySource rBootState rLockStatus at ho
      rw [Dev.rd_wr64, if_neg (by unfold rTrwStallLo; omega), if_neg (by unfold rTrwStallLo; omega)]
  · exact .refl d

theorem Dev.now_trwStall (d : Dev) (n e : Nat) : (d.trwStall n e).now = d.now := by
  unfold Dev.trwStall
  split
  · rw [Dev.add64_eq]
  · rfl

theorem idles_sendIdles (d : Dev) : Idles d d.sendIdles := by
  refine foldl_rel Idles .refl (fun _ _ _ => .trans) _ (fun t p => ?_) _ d
  dsimp only
  split
  · exact ⟨rfl, rfl, fun _ _ => rfl⟩
  · exact .refl t

theorem Dev.now_each {α : Type} (d : Dev) (l : List α) (f : Dev → α → Dev) (h : ∀ d a, (f d a).now = d.now) : (d.each l f).now = d.now :=
  foldl_rel (fun a b : Dev => b.now = a.now) (fun _ => rfl) (fun _ _ _ hab hbc => hbc.trans hab) f h l d

theorem Dev.now_sendIdles (d : Dev) : d.sendIdles.now = d.now :=
  Dev.now_each d _ _ fun t p => by dsimp only; split <;> rfl

theorem idles_idle (d : Dev) : Idles d d.idle :=
  have hstall : Idles d.tick (d.tick.each (List.range 10) fun d e => d.trwStall 2 e) :=
    foldl_rel Idles .refl (fun _ _ _ => .trans) _ (fun t e => idles_trwStall t 2 e) _ _
  have hsend := ((idles_tick d).trans hstall).trans (idles_sendIdles _)
  ⟨hsend.queue, hsend.tier, hsend.rd⟩

theorem Dev.now_idle (d : Dev) : d.idle.now = d.tick.now :=
  (Dev.now_sendIdles _).trans (Dev.now_each _ _ _ fun t e => Dev.now_trwStall t 2 e)

end Sys2Proof.Machine

namespace Sys2Proof.Proofs

open Sys2Proof.Machine Sys2Proof.Safety

/-! ### What a step leaves (R221, R378, R379) -/

theorem settle_next {s t : State} {u : Dev} (h : Host.Outcome.next (s.settle u) = (.next t : Host.Outcome State Fault Refusal)) :
    ∃ u, t = s.settle u := ⟨u, (Host.Outcome.next.inj h).symm⟩

/-- Every command that answers a next state answers what it leaves of the state it runs in. -/
theorem exec_next {i : Instr} {s t : State} (h : exec i s = .next t) : ∃ u, t = s.settle u := by
  cases i
  case bar2OtherWrite p off width a =>
    replace h : (if WellFormed.bar2 off width a then _ else _) = Host.Outcome.next t := h
    split at h
    · exact settle_next h
    · cases h
  case unalignedAccess o off width isWrite =>
    replace h : (if WellFormed.unaligned off width then _ else _) = Host.Outcome.next t := h
    split at h
    · exact settle_next h
    · cases h
  all_goals exact settle_next h

theorem topAgrees_refresh (d : Dev) : TopAgrees d.refresh := by
  unfold TopAgrees
  rw [d.rd_refresh_top, d.rd_refresh_far (off := rBootState) (by decide), d.rd_refresh_far (off := rLockStatus) (by decide), Dev.topWord]
  refine ⟨?_, ?_, ?_⟩
  · rw [fld_setFld_same _ _ _ _ (by decide)]
    exact Nat.mod_eq_of_lt (Nat.mod_lt _ (by decide))
  · rw [bitOf_setFld_ne _ _ _ _ _ (by decide), bitOf_setBit_same _ _ _ (by decide)]
  · rw [bitOf_setFld_ne _ _ _ _ _ (by decide), bitOf_setBit_ne _ _ _ _ (by decide), bitOf_setBit_same _ _ _ (by decide)]

theorem partAgrees_refresh (d : Dev) {p : Nat} (hp : p < 8) : PartAgrees d.refresh p := by
  unfold PartAgrees
  rw [d.rd_refresh_part hp, d.rd_refresh_top, Dev.refresh_queue, Dev.partWord]
  refine ⟨bitOf_setBit_same _ _ _ (by decide), ?_⟩
  rw [fld_setBit_ne _ _ _ _ _ (by decide), fld_setBit_ne _ _ _ _ _ (by decide), fld_setFld_same _ _ _ _ (by decide),
    fld_setFld_ne _ _ _ _ _ _ (by decide)]
  exact Nat.mod_eq_of_lt (Nat.and_lt_two_pow _ (Nat.mod_lt _ (by decide)))

theorem copiesAgree_settle (s : State) (u : Dev) : CopiesAgree (s.settle u) := by
  unfold State.settle
  split
  · exact ⟨topAgrees_refresh _, fun _ => partAgrees_refresh _⟩
  · exact ⟨topAgrees_refresh _, fun _ => partAgrees_refresh _⟩

theorem copiesAgree_of_idles {s t : State} (h : Idles s.dev t.dev) (hs : CopiesAgree s) : CopiesAgree t := by
  have htop : t.dev.rd rTopStatus = s.dev.rd rTopStatus := h.rd _ (.inl (by decide))
  obtain ⟨hst, hsp⟩ := hs
  refine ⟨?_, fun p hp => ?_⟩
  · unfold TopAgrees at hst ⊢
    rwa [htop, h.rd rBootState (.inr (.inl rfl)), h.rd rLockStatus (.inr (.inr rfl))]
  · specialize hsp p hp
    unfold PartAgrees at hsp ⊢
    rwa [htop, h.rd (rTopPStatus p) (.inl (by unfold rTopPStatus; omega)), h.queue]

/-- Settles O55: a command ends with the copies set again and drops what it noted of an access that waits, whatever it does; an idle
nanosecond changes neither the copies nor what they are made of. -/
theorem everyStepKeepsTheCopies : Obligations.EveryStepKeepsTheCopies := by
  unfold Obligations.EveryStepKeepsTheCopies
  intro s t h
  unfold step at h
  split at h
  · next c l hp =>
    obtain ⟨u, rfl⟩ := exec_next h
    exact ⟨fun _ => copiesAgree_settle _ u, fun hs => settled_settle (s := { s with pending := l }) hs u⟩
  · next hp =>
    cases h
    have hidle := idles_idle s.dev
    refine ⟨fun hs => copiesAgree_of_idles hidle (hs.resolve_right (· hp)), fun hs => ?_⟩
    exact (congrArg TierSt.stall hidle.tier).trans hs

/-- Settles O53, from what each command leaves and what an idle nanosecond leaves of the timestamp. -/
theorem stepRunsTheFrontCommand : Obligations.StepRunsTheFrontCommand := by
  unfold Obligations.StepRunsTheFrontCommand
  refine fun s c l => ⟨fun h => ?_, fun h => ?_, fun t h => ?_, fun _ => s.dev.now_idle⟩
  · rw [step, h]
  · rw [step, h]
  · obtain ⟨u, rfl⟩ := exec_next h
    exact settle_pending s u

end Sys2Proof.Proofs

/-! Mailboxes (R348 to R351): their queues, doorbells and locks. -/

namespace Sys2Proof.Machine

open Sys2Proof.Safety

/-! ### Reads of a mailbox channel -/

section Channel

variable {d : Dev} {o : Origin} {c k : Nat}

/-- The offsets of a channel's registers lie in block 0x12. -/
theorem mbx_offset (hc : c < 64) (hk : k < 0x400) : mbx c k / 0x1000000 = 0x12 ∧ (mbx c k - 0x12000000) / 0x400 = c ∧ mbx c k % 0x400 = k := by
  unfold mbx
  omega

/-- A register that every channel has is one of the table's rows. -/
theorem findRow_mbx (hrow : ∃ r ∈ rowsMbx, r.base = 0x12000000 + k ∧ r.dims = [(0x400, 64)]) (hc : c < 64) (hk : k < 0x400) :
    ∃ r, findRow (mbx c k) = some r := by
  obtain ⟨r, hr, hbase, hdims⟩ := hrow
  rw [findRow_block (mbx_offset hc hk).1]
  refine Option.isSome_iff_exists.mp (List.find?_isSome.mpr ⟨r, hr, ?_⟩)
  unfold RegRow.hit mbx
  rw [hbase, hdims]
  simp only [dimsHit, Bool.and_eq_true, decide_eq_true_eq, beq_iff_eq]
  omega

/-- An aligned read of a word that reaches its register answers what it reads. -/
theorem Dev.rowRd_eq {off : Nat} (ha : off % 4 = 0) (hmay : d.may o = true) (hreach : d.regReach o false off = true) :
    d.rowRd o off 4 = (d.read32 o off).2.answer (leBytes 4 (d.read32 o off).1.toNat) false := by
  have hoff : off / 4 * 4 = off := by omega
  have htake (n : Nat) : (leBytes 4 n).take 4 = leBytes 4 n := rfl
  simp [Dev.rowRd, Dev.regRead, hmay, hreach, ha, hoff, htake]

/-- A mailbox answers also in FAIL. -/
theorem Dev.failHides_mbx (hc : c < 64) (hk : k < 0x400) : d.failHides (mbx c k) = false := by
  simp [Dev.failHides, (mbx_offset hc hk).1]

theorem Dev.read32_mbxPop {n : Nat} (hn : n < 2) (hc : c < 64) (hhid : d.pageHidden (mbx c (0x10 * n + 4)) = false) :
    d.read32 o (mbx c (0x10 * n + 4)) = d.mbxPop (srcOf o) c n := by
  have hk : 0x10 * n + 4 < 0x400 := by omega
  obtain ⟨hblock, hch, hoff⟩ := mbx_offset hc hk
  have hlow : ¬ 0x80000000 ≤ mbx c (0x10 * n + 4) := by unfold mbx; omega
  obtain ⟨r, hr⟩ : ∃ r, findRow (mbx c (0x10 * n + 4)) = some r := findRow_mbx (by interval_cases n <;> decide) hc hk
  have hpop : n = 0 ∨ n = 1 := by omega
  have hno : (0x10 * n + 4) / 0x10 = n := by omega
  simp [Dev.read32, hlow, d.failHides_mbx hc hk, hhid, hr, hblock, hoff, hch, hno, hpop]

theorem Dev.read32_mbxLock (hc : c < 64) (hhid : d.pageHidden (rMbxLock c) = false) :
    d.read32 o (rMbxLock c) = d.lockRead (srcOf o) c := by
  have hreg : rMbxLock c = mbx c 0x40 := by unfold rMbxLock mbx; omega
  rw [hreg] at hhid ⊢
  have hk : 0x40 < 0x400 := by decide
  obtain ⟨hblock, hch, hoff⟩ := mbx_offset hc hk
  have hlow : ¬ 0x80000000 ≤ mbx c 0x40 := by unfold mbx; omega
  obtain ⟨r, hr⟩ : ∃ r, findRow (mbx c 0x40) = some r := findRow_mbx (by decide) hc hk
  simp [Dev.read32, hlow, d.failHides_mbx hc hk, hhid, hr, hblock, hoff, hch]

/-! ### Writes of a mailbox channel -/

theorem rowWr_mbxPush {n : Fin 2} (v : Word) (hc : c < 64) (h : Reaches d o (mbx c (0x10 * n))) :
    d.rowWr o (mbx c (0x10 * n)) v = d.mbxPush (srcOf o) c n v := by
  obtain rfl | rfl : n = 0 ∨ n = 1 := by omega
  · have hreg : mbx c (0x10 * (0 : Fin 2)) = rMbxQ0Push c := by unfold mbx rMbxQ0Push; simp
    rw [hreg] at h ⊢
    exact rowWr_rMbxQ0Push d o v hc h
  · have hreg : mbx c (0x10 * (1 : Fin 2)) = rMbxQ1Push c := by unfold mbx rMbxQ1Push; simp; omega
    rw [hreg] at h ⊢
    exact rowWr_rMbxQ1Push d o v hc h

theorem rowWr_mbxMask {n : Fin 2} (v : Word) (hc : c < 64) (h : Reaches d o (mbx c (0x28 + 4 * n))) :
    d.rowWr o (mbx c (0x28 + 4 * n)) v = d.mbxMask c n v := by
  obtain rfl | rfl : n = 0 ∨ n = 1 := by omega
  · have hreg : mbx c (0x28 + 4 * (0 : Fin 2)) = rMbxDbMask0 c := by unfold mbx rMbxDbMask0; simp; omega
    rw [hreg] at h ⊢
    exact rowWr_rMbxDbMask0 d o v hc h
  · have hreg : mbx c (0x28 + 4 * (1 : Fin 2)) = rMbxDbMask1 c := by unfold mbx rMbxDbMask1; simp; omega
    rw [hreg] at h ⊢
    exact rowWr_rMbxDbMask1 d o v hc h

theorem rowWr_mbxTarget {n : Fin 2} (v : Word) (hc : c < 64) (h : Reaches d o (mbx c (0x30 + 4 * n))) :
    d.rowWr o (mbx c (0x30 + 4 * n)) v = d.mbxTarget (srcOf o) c n v := by
  obtain rfl | rfl : n = 0 ∨ n = 1 := by omega
  · have hreg : mbx c (0x30 + 4 * (0 : Fin 2)) = rMbxNotify0 c := by unfold mbx rMbxNotify0; simp; omega
    rw [hreg] at h ⊢
    exact rowWr_rMbxNotify0 d o v hc h
  · have hreg : mbx c (0x30 + 4 * (1 : Fin 2)) = rMbxNotify1 c := by unfold mbx rMbxNotify1; simp; omega
    rw [hreg] at h ⊢
    exact rowWr_rMbxNotify1 d o v hc h

/-- Every mask but that of the management controller takes the value. -/
theorem Dev.mbxMask_eq {n : Nat} {v : Word} (hne : ¬(c = 0 ∧ n = 0)) : d.mbxMask c n v =
    (d.wr (mbx c (0x28 + 4 * n)) v).mbxRise c (d.rd (rMbxDb c) &&& d.rd (rMbxDbMask0 c)) (d.rd (rMbxDb c) &&& d.rd (rMbxDbMask1 c)) := by
  simp [Dev.mbxMask, hne]

/-- Is the counter that a target names, where it names one, a counter of the channel's partition? -/
def Dev.ownTarget (d : Dev) (c : Nat) (v : Word) : Prop :=
  fld 1 0 v = 3 → d.cntPart (fld 20 3 v) = some (d.rdFld (rMbxOwn c) 3 0)

theorem Dev.mbxTarget_ours {n src : Nat} {v : Word} (hne : ¬(c = 0 ∧ n = 0)) (hours : d.ownTarget c v) :
    d.mbxTarget src c n v = d.wr (mbx c (0x30 + 4 * n)) (BitVec.ofNat 32 (fld 20 0 v)) := by
  have hown : ¬(fld 1 0 v = 3 ∧ ¬d.cntPart (fld 20 3 v) = some (d.rdFld (rMbxOwn c) 3 0)) := fun h => h.2 (hours h.1)
  simp [Dev.mbxTarget, hne, hown]

theorem Dev.mbxTarget_foreign {n src : Nat} {v : Word} (hne : ¬(c = 0 ∧ n = 0)) (hours : ¬d.ownTarget c v) :
    d.mbxTarget src c n v = d.mbxErr c 3 src := by
  have hown : fld 1 0 v = 3 ∧ ¬d.cntPart (fld 20 3 v) = some (d.rdFld (rMbxOwn c) 3 0) := Classical.not_imp.mp hours
  simp [Dev.mbxTarget, hne, hown]

end Channel

/-! ### What notifications leave (R350) -/

/-- From `d` to `t` targets of doorbells have been told: but for sync counters, messages and the MSI-X table nothing changes. -/
structure Tells (d t : Dev) : Prop where
  rcd : t.rcd = d.rcd
  tier : t.tier = d.tier
  rd : ∀ off, 0x2000000 ≤ off → t.rd off = d.rd off

theorem Tells.refl (d : Dev) : Tells d d := ⟨rfl, rfl, fun _ _ => rfl⟩

theorem Tells.trans {a b c : Dev} (h : Tells a b) (k : Tells b c) : Tells a c :=
  ⟨k.rcd.trans h.rcd, k.tier.trans h.tier, fun off ho => (k.rd off ho).trans (h.rd off ho)⟩

theorem tells_msixSend (d : Dev) (port vec : Nat) : Tells d (d.msixSend port vec) := by
  unfold Dev.msixSend
  dsimp only
  split
  · exact ⟨rfl, rfl, fun _ _ => rfl⟩
  · exact ⟨rfl, rfl, fun _ _ => rfl⟩

theorem tells_cntAdd (d : Dev) {c : Nat} (hc : c < 2 ^ 18) (v : Word) : Tells d (d.cntAdd c v) :=
  ⟨rfl, rfl, fun off ho => d.rd_wr_ne _ (by unfold rQmgCntVal; omega)⟩

theorem tells_mbxNotify (d : Dev) (c n : Nat) : Tells d (d.mbxNotify c n) := by
  unfold Dev.mbxNotify
  dsimp only
  split
  · exact tells_msixSend _ _ _
  · exact ⟨rfl, rfl, fun _ _ => rfl⟩
  · exact tells_cntAdd _ (Nat.mod_lt _ (by decide)) _
  · exact .refl d

theorem tells_mbxRise (d : Dev) (c : Nat) (old0 old1 : Word) : Tells d (d.mbxRise c old0 old1) :=
  (foldl_rel Tells .refl (fun _ _ _ => .trans) _ (fun t _ => tells_mbxNotify t c 0) _ d).trans
    (foldl_rel Tells .refl (fun _ _ _ => .trans) _ (fun t _ => tells_mbxNotify t c 1) _ _)

/-! ### A push on a queue that is not full (R349) -/

section Push

variable {d : Dev} {c n : Nat} {l : List Word}

theorem Dev.mbxWords_setMbx : (d.setMbx c n l).mbxWords c n = l := sget_sset_same _ _ _ _

theorem Dev.bitOf_mbxSet {k : Nat} (hc : c < 64) (hk : k < 32) : bitOf k ((d.mbxSet c (setBit k true 0)).rd (rMbxDb c)) = true := by
  unfold Dev.mbxSet
  rw [(tells_mbxRise _ _ _ _).rd _ (by unfold rMbxDb; omega), Dev.rd_wr_same]
  have hset : (setBit k true 0#32).getLsbD k = true := bitOf_setBit_same k true 0 hk
  rw [bitOf, BitVec.getLsbD_or]
  exact Bool.or_eq_true_iff.mpr (.inr hset)

/-- The queue gains the word at its end, and the doorbell of its queue is set. -/
theorem Dev.mbxPush_spec (src : Nat) (v : Word) (hc : c < 64) (hn : n < 2) (hl : (d.mbxWords c n).length < 16) :
    let t := d.mbxPush src c n v
    t.tier = d.tier ∧ t.mbxWords c n = d.mbxWords c n ++ [v] ∧ bitOf (30 + n) (t.rd (rMbxDb c)) = true := by
  dsimp only
  unfold Dev.mbxPush
  rw [if_neg (by omega)]
  dsimp only
  have hrise (e : Dev) : Tells (e.wr (rMbxDb c) (e.rd (rMbxDb c) ||| setBit (30 + n) true 0)) (e.mbxSet c (setBit (30 + n) true 0)) :=
    tells_mbxRise _ _ _ _
  refine ⟨?_, ?_, Dev.bitOf_mbxSet hc (by omega)⟩
  · rw [(hrise _).tier]
    split <;> rfl
  · unfold Dev.mbxWords
    rw [(hrise _).rcd]
    exact Dev.mbxWords_setMbx

end Push

end Sys2Proof.Machine

namespace Sys2Proof.Proofs

open Sys2Proof.Machine Sys2Proof.Safety

theorem exec_mbxQPush {s : State} {o : Origin} {ch : Fin 64} {n : Fin 2} {v : Word} : exec (.mbxQPush o ch n v false) s =
    State.run (fun d => d.rowWr o (mbx ch (0x10 * n)) v) s := rfl

theorem exec_mbxQPop {s : State} {o : Origin} {ch : Fin 64} {n : Fin 2} : exec (.mbxQPop o ch n) s =
    State.run (fun d => d.rowRd o (mbx ch (0x10 * n + 4)) 4) s := rfl

/-- A pop answers what the queue gives. -/
theorem rowRd_mbxPop {d : Dev} {o : Origin} {ch : Fin 64} {n : Fin 2} (hmay : d.may o = true)
    (hreach : d.regReach o false (mbx ch (0x10 * n + 4)) = true) (hhid : d.pageHidden (mbx ch (0x10 * n + 4)) = false) :
    d.rowRd o (mbx ch (0x10 * n + 4)) 4 =
      (d.mbxPop (srcOf o) ch n).2.answer (leBytes 4 (d.mbxPop (srcOf o) ch n).1.toNat) false := by
  rw [Dev.rowRd_eq (by unfold mbx; omega) hmay hreach, Dev.read32_mbxPop n.isLt ch.isLt hhid]

/-- Settles O49: a push that its queue has room for adds the word and sets the doorbell, which the notifications leave as they are; a full
queue turns it away. A pop takes the first word, where there is one. -/
theorem mailboxQueuesHoldWordsInOrder : Obligations.MailboxQueuesHoldWordsInOrder := by
  unfold Obligations.MailboxQueuesHoldWordsInOrder
  intro s o ch n v w l hl
  refine ⟨fun hr hroom => ?_, fun hr hfull => ?_, fun hmay hreach hhid => ⟨fun t ht => ?_, fun hnil => ?_⟩⟩
  · obtain ⟨htier, hwords, hbit⟩ := Dev.mbxPush_spec (srcOf o) v ch.isLt n.isLt (hl ▸ hroom)
    refine runs_of_does (does_of_run exec_mbxQPush (rowWr_mbxPush v ch.isLt hr)) (congrArg TierSt.stall htier) ⟨?_, ?_⟩
    · exact hl ▸ hwords
    · rwa [Dev.rd_refresh_far _ (by unfold rMbxDb; omega)]
  · refine does_of_run exec_mbxQPush ((rowWr_mbxPush v ch.isLt hr).trans ?_)
    unfold Dev.mbxPush
    exact if_pos (hl ▸ hfull)
  · refine does_of_run exec_mbxQPop ((rowRd_mbxPop hmay hreach hhid).trans ?_)
    rw [Dev.mbxPop, hl, ht]
    rfl
  · refine does_of_run exec_mbxQPop ((rowRd_mbxPop hmay hreach hhid).trans ?_)
    rw [Dev.mbxPop, hl, hnil]
    rfl

/-- Settles O50: each access to a channel does what its register's rule says. -/
theorem mailboxDoorbellsNotifyAndLocksAreHeld : Obligations.MailboxDoorbellsNotifyAndLocksAreHeld := by
  unfold Obligations.MailboxDoorbellsNotifyAndLocksAreHeld
  refine ⟨fun s o ch n v => ?_, fun s o ch w v => ⟨fun hmay hreach hhid => ?_, fun hr => ⟨fun ho => ?_, fun ho => ?_⟩, fun hr hcore hdma => ?_⟩⟩
  · dsimp only
    refine ⟨fun hr => ?_, fun hr => ?_, fun hr hne => ?_, fun hr => ?_, fun hr hne hours => ?_, fun hr hne hours => ?_⟩
    · exact does_of_run (f := fun d => d.rowWr o (rMbxDb ch) v) rfl (rowWr_rMbxDb _ o v ch.isLt hr)
    · exact does_of_run (f := fun d => d.rowWr o (rMbxDbSet ch) v) rfl (rowWr_rMbxDbSet _ o v ch.isLt hr)
    · exact does_of_run (f := fun d => d.rowWr o (mbx ch (0x28 + 4 * n)) v) rfl ((rowWr_mbxMask v ch.isLt hr).trans (Dev.mbxMask_eq (by omega)))
    · exact does_of_run (f := fun d => d.rowWr o (mbx 0 0x28) v) rfl (rowWr_mbxMask (n := 0) v (by decide) hr)
    · exact does_of_run (f := fun d => d.rowWr o (mbx ch (0x30 + 4 * n)) v) rfl ((rowWr_mbxTarget v ch.isLt hr).trans (Dev.mbxTarget_ours (by omega) hours))
    · exact does_of_run (f := fun d => d.rowWr o (mbx ch (0x30 + 4 * n)) v) rfl ((rowWr_mbxTarget v ch.isLt hr).trans (Dev.mbxTarget_foreign (by omega) hours))
  · have hread : s.dev.rowRd o (rMbxLock ch) 4 =
        (s.dev.lockRead (srcOf o) ch).2.answer (leBytes 4 (s.dev.lockRead (srcOf o) ch).1.toNat) false := by
      rw [Dev.rowRd_eq (by unfold rMbxLock; omega) hmay hreach, Dev.read32_mbxLock ch.isLt hhid]
    refine ⟨fun ho => does_of_run (f := fun d => d.rowRd o (rMbxLock ch) 4) rfl (hread.trans ?_),
      fun ho => does_of_run (f := fun d => d.rowRd o (rMbxLock ch) 4) rfl (hread.trans ?_)⟩
    · rw [Dev.lockRead, ho]
      rfl
    · rw [Dev.lockRead, ho]
      dsimp only [Dev.answer]
      rw [BitVec.toNat_ofNat, Nat.mod_eq_of_lt (by omega)]
  · exact does_of_run (f := fun d => d.rowWr o (rMbxLock ch) v) rfl ((rowWr_rMbxLock _ o v ch.isLt hr).trans (if_pos ho))
  · exact does_of_run (f := fun d => d.rowWr o (rMbxLock ch) v) rfl ((rowWr_rMbxLock _ o v ch.isLt hr).trans (if_neg ho))
  · refine does_of_run (f := fun d => d.rowWr o (rMbxLockForce ch) (setBit 0 true v)) rfl ((rowWr_rMbxLockForce _ o _ ch.isLt hr).trans ?_)
    unfold Dev.lockForce
    rw [bitOf_setBit_same _ _ _ (by decide)]
    cases o with
    | core c => exact absurd rfl (hcore c)
    | dma e => exact absurd rfl (hdma e)
    | host p => rfl
    | sideband => rfl
    | mgmt => rfl

end Sys2Proof.Proofs

/-! The access lock's attempts (R345, R346), counter snapshots (R355, R356) and the Flowstone ring (R357 to R363). -/

namespace Sys2Proof.Machine

/-! ### The end of an attempt (R345, R346) -/

section Lock

variable (d : Dev)

theorem Dev.tier_changeLog (src code result key rseq : Nat) (l : List Byte) : (d.changeLog src code result key rseq l).tier = d.tier := rfl

/-- From `d` to `t` the lock's registers below LOCK_NONCE, the attempt and the tiers stay. -/
structure LockKept (d t : Dev) : Prop where
  rd : ∀ off, rLockStatus ≤ off → off < 0x11000020 → t.rd off = d.rd off
  attempt : t.mgmt.attempt = d.mgmt.attempt
  tier : t.tier = d.tier

theorem LockKept.refl : LockKept d d := ⟨fun _ _ _ => rfl, rfl, rfl⟩

theorem LockKept.trans {a b c : Dev} (h : LockKept a b) (k : LockKept b c) : LockKept a c :=
  ⟨fun off h1 h2 => (k.rd off h1 h2).trans (h.rd off h1 h2), k.attempt.trans h.attempt, k.tier.trans h.tier⟩

theorem lockKept_lockEvent (src code key : Nat) : LockKept d (d.lockEvent src code key) := by
  unfold Dev.lockEvent
  refine ⟨fun off h1 h2 => ?_, ?_, by rw [Dev.tier_flw, Dev.tier_changeLog]⟩
  · rw [Dev.rd_flw _ _ _ _ _ (by unfold rFlwSeq; omega) (by unfold rFlwStatus; omega) (by unfold rFlwDrop; omega),
      Dev.rd_changeLog _ _ _ _ _ _ _ (by unfold rLockStatus at h1; unfold rBootLogCount; omega)]
  · rw [Dev.flw_eq]
    rfl

/-- A new nonce changes the eight words of LOCK_NONCE and the counter of free values. -/
theorem lockKept_drawNonce : LockKept d d.drawNonce :=
  foldl_rel LockKept .refl (fun _ _ _ => .trans) _
    (fun t i => ⟨fun off _ h2 => t.fresh.2.rd_wr_ne (off := rLockNonce i) _ (by unfold rLockNonce; omega), rfl, rfl⟩) _ d

/-- LOCK_STATUS after an attempt that ended in this way (R346). -/
def lockAfter (a : Attempt) (ok : Bool) (w : Word) : Word :=
  let w := setBit 3 false w
  if a.abandoned then w
  else if ok then setFld 9 8 a.cmd (setBit 0 true (if a.cmd = 3 then setBit 1 true w else w))
  else if fld 7 4 w + 1 < 8 then setFld 7 4 (fld 7 4 w + 1) w
  else setBit 2 true (setFld 7 4 (fld 7 4 w + 1) w)

section Word

variable {a : Attempt} {ok : Bool} {w : Word}

theorem lockAfter_abandoned (hab : a.abandoned = true) : lockAfter a ok w = setBit 3 false w := if_pos hab

theorem lockAfter_opened (hab : a.abandoned = false) : lockAfter a true w =
    setFld 9 8 a.cmd (setBit 0 true (if a.cmd = 3 then setBit 1 true (setBit 3 false w) else setBit 3 false w)) := by
  rw [lockAfter, hab]
  rfl

theorem lockAfter_failed (hab : a.abandoned = false) : lockAfter a false w = if fld 7 4 w + 1 < 8
    then setFld 7 4 (fld 7 4 w + 1) (setBit 3 false w) else setBit 2 true (setFld 7 4 (fld 7 4 w + 1) (setBit 3 false w)) := by
  have hfails : fld 7 4 (setBit 3 false w) = fld 7 4 w := fld_setBit_ne _ _ _ _ _ (by decide)
  rw [lockAfter, hab, hfails]
  rfl

theorem bitOf_lockAfter (a : Attempt) (ok : Bool) (w : Word) : bitOf 3 (lockAfter a ok w) = false := by
  cases hab : a.abandoned with
  | true => rw [lockAfter_abandoned hab, bitOf_setBit_same _ _ _ (by decide)]
  | false =>
    cases ok with
    | true =>
      rw [lockAfter_opened hab]
      split <;> simp (disch := decide) only [bitOf_setFld_ne, bitOf_setBit_ne, bitOf_setBit_same]
    | false =>
      rw [lockAfter_failed hab]
      split <;> simp (disch := decide) only [bitOf_setFld_ne, bitOf_setBit_ne, bitOf_setBit_same]

end Word

theorem Dev.lockFail_spec (a : Attempt) : let t := d.lockFail a
    let n := d.rdFld rLockStatus 7 4 + 1
    t.rd rLockStatus = (if n < 8 then setFld 7 4 n (d.rd rLockStatus) else setBit 2 true (setFld 7 4 n (d.rd rLockStatus))) ∧
    bitOf 0 (t.rd rLockErr) = true ∧ t.mgmt.attempt = d.mgmt.attempt ∧ t.tier = d.tier := by
  have hne : rLockErr ≠ rLockStatus := by decide
  dsimp only
  unfold Dev.lockFail
  dsimp only
  split
  · refine ⟨?_, ?_, rfl, rfl⟩
    · rw [Dev.lockErr, Dev.rd_wr_ne _ _ hne.symm, Dev.rd_wrFld, if_pos rfl]
    · rw [Dev.lockErr, Dev.rd_wr_same, bitOf_setBit_same _ _ _ (by decide)]
  · obtain ⟨hrd, hattempt, htier⟩ := lockKept_lockEvent ((((((d.wrFld rLockStatus 7 4 (d.rdFld rLockStatus 7 4 + 1)).lockErr 0).wrFld
      rLockStatus 2 2 1).lockErr 1))) a.src 0x82 (lockKey a.cmd)
    refine ⟨(hrd _ le_rfl (by decide)).trans ?_, ?_, hattempt, htier⟩
    · rw [Dev.lockErr, Dev.rd_wr_ne _ _ hne.symm, Dev.rd_wrFld, if_pos rfl, Dev.lockErr, Dev.rd_wr_ne _ _ hne.symm, Dev.rd_wrFld, if_pos rfl]
      rfl
    · rw [hrd _ (by decide) (by decide), Dev.lockErr, Dev.rd_wr_same, bitOf_setBit_ne _ _ _ _ (by decide), Dev.rd_wrFld, if_neg hne,
        Dev.lockErr, Dev.rd_wr_same, bitOf_setBit_same _ _ _ (by decide)]

/-- The attempt is over, and LOCK_STATUS says how. -/
theorem Dev.lockEnd_spec {a : Attempt} (ha : d.mgmt.attempt = some a) : let t := d.lockEnd
    t.mgmt.attempt = none ∧ t.tier = d.tier ∧ t.rd rLockStatus = lockAfter a (d.attemptOk a) (d.rd rLockStatus) ∧
    (a.abandoned = false → d.attemptOk a = false → bitOf 0 (t.rd rLockErr) = true) := by
  let e := ({ d with mgmt := { d.mgmt with attempt := none } }).wrFld rLockStatus 3 3 0
  have he : e.rd rLockStatus = setBit 3 false (d.rd rLockStatus) := (d.rd_wrFld _ _ _ _ _).trans (if_pos rfl)
  have hend : d.lockEnd = (if a.abandoned then e else if d.attemptOk a then e.lockOpen a else e.lockFail a).drawNonce := by
    unfold Dev.lockEnd
    rw [ha]
    rfl
  obtain ⟨hrd, hattempt, htier⟩ := lockKept_drawNonce (if a.abandoned then e else if d.attemptOk a then e.lockOpen a else e.lockFail a)
  dsimp only
  rw [hend, hrd _ le_rfl (by decide), hrd _ (by decide) (by decide), hattempt, htier, lockAfter]
  split
  · next hab => exact ⟨rfl, rfl, he, fun h => absurd hab (by rw [h]; decide)⟩
  · split
    · next hok =>
      obtain ⟨hrd, hattempt, htier⟩ := lockKept_lockEvent (e.wr rLockStatus (setFld 9 8 a.cmd
        (setBit 0 true (if a.cmd = 3 then setBit 1 true (e.rd rLockStatus) else e.rd rLockStatus)))) a.src 0x80 (lockKey a.cmd)
      refine ⟨hattempt, htier, ?_, fun _ h => absurd hok (by rw [h]; decide)⟩
      exact (hrd _ le_rfl (by decide)).trans ((e.rd_wr_same _ _).trans (by rw [he]))
    · obtain ⟨hstatus, herr, hattempt, htier⟩ := e.lockFail_spec a
      refine ⟨hattempt, htier, ?_, fun _ _ => herr⟩
      rw [hstatus, Dev.rdFld, he]

end Lock

/-! ### Counter snapshots (R355) -/

/-- A fold that writes keys of a list leaves a key that is not in it. -/
theorem sget_fold_sset_of_notMem {α β : Type} [DecidableEq β] (z : Nat → β) (f : Nat × α → β) {l : List (Nat × α)} {k : Nat}
    (h : ∀ e ∈ l, e.1 ≠ k) (m : List (Nat × β)) : sget z (l.foldl (fun m e => sset z m e.1 (f e)) m) k = sget z m k := by
  induction l generalizing m with
  | nil => rfl
  | cons e l ih =>
    rw [List.foldl_cons, ih (fun x hx => h x (List.mem_cons_of_mem _ hx)), sget_sset_ne _ _ _ (h e List.mem_cons_self).symm]

/-- A fold that writes keys which rise gives each of them its value. -/
theorem sget_fold_sset_of_mem {α β : Type} [DecidableEq β] (z : Nat → β) (f : Nat × α → β) {l : List (Nat × α)} (h : keysRise l = true)
    {e : Nat × α} (he : e ∈ l) (m : List (Nat × β)) : sget z (l.foldl (fun m e => sset z m e.1 (f e)) m) e.1 = f e := by
  rw [keysRise_iff] at h
  induction l generalizing m with
  | nil => cases he
  | cons a l ih =>
    rw [List.map_cons, List.pairwise_cons] at h
    obtain rfl | he := List.mem_cons.mp he
    · rw [List.foldl_cons, sget_fold_sset_of_notMem _ _ (fun x hx => (h.1 _ (List.mem_map_of_mem hx)).ne'), sget_sset_same]
    · exact ih h.2 he _

theorem Dev.snapTick_spec {d : Dev} {at_ : Nat} (harmed : d.rcd.snapArmed = some at_) (hnow : at_ ≤ d.now) : let t := d.snapTick
    t.tier = d.tier ∧ t.rcd.snapArmed = none ∧ t.rcd.snapCopied = true ∧
    ∀ off w, (off, w) ∈ d.regs → keysRise d.regs = true → d.noCopy off = false → sget (fun _ => 0) t.shadow off = w &&& counterMask off := by
  dsimp only
  unfold Dev.snapTick
  rw [harmed]
  dsimp only
  rw [if_neg (by omega)]
  have hshadow (off : Nat) (w : Word) (hmem : (off, w) ∈ d.regs) (hrise : keysRise d.regs = true) (hcopy : d.noCopy off = false) :=
    sget_fold_sset_of_mem (fun _ => (0 : Word)) (fun e => e.2 &&& counterMask e.1) (keysRise_filter (fun e => !d.noCopy e.1) _ hrise)
      (List.mem_filter.mpr ⟨hmem, by simpa using hcopy⟩) (d.shadow.filter (fun e => d.noCopy e.1))
  split
  · exact ⟨rfl, rfl, rfl, hshadow⟩
  · exact ⟨rfl, rfl, rfl, hshadow⟩

/-! ### Fetches of the Flowstone ring (R363) -/

/-- Registers of an array, each written once, read as written. -/
theorem Dev.rd_each_wr_of_lt (r : Nat → Nat) (hr : Function.Injective r) (v : Nat → Word) {n k : Nat} (hk : k < n) (d : Dev) :
    (d.each (List.range n) fun d k => d.wr (r k) (v k)).rd (r k) = v k := by
  induction n with
  | zero => omega
  | succ n ih =>
    rw [Dev.each, List.range_succ, List.foldl_append, List.foldl_cons, List.foldl_nil, Dev.rd_wr]
    split
    · next h => rw [hr h]
    · next h =>
      have hne : k ≠ n := fun hkn => h (congrArg r hkn)
      exact ih (by omega)

theorem Dev.rd_each_wr_of_ne (r : Nat → Nat) (v : Nat → Word) {off : Nat} (h : ∀ k, off ≠ r k) (l : List Nat) (d : Dev) :
    (d.each l fun d k => d.wr (r k) (v k)).rd off = d.rd off :=
  foldl_rel (fun d t : Dev => t.rd off = d.rd off) (fun _ => rfl) (fun _ _ _ h k => Eq.trans k h) _ (fun t k => t.rd_wr_ne _ (h k)) l d

/-- Writes of registers change registers alone. -/
theorem Dev.each_wr_eq (r : Nat → Nat) (v : Nat → Word) (l : List Nat) (d : Dev) : (d.each l fun d k => d.wr (r k) (v k)) =
    { d with regs := (d.each l fun d k => d.wr (r k) (v k)).regs } :=
  foldl_rel (fun d t : Dev => t = { d with regs := t.regs }) (fun _ => rfl) (fun _ _ _ h k => by rw [k, h]) _ (fun _ _ => rfl) l d

/-- Has the ring a whole record of this SEQNO? -/
def Dev.ringHolds (d : Dev) (v : Word) : Prop :=
  let r := sget (fun _ => []) d.mgmt.flash.ring (ringSlot v)
  r.length = 128 ∧ leAt r 0x18 4 = v.toNat

theorem Dev.flwFetched_spec {d : Dev} {v : Word} (hfetch : d.rcd.fetch = some v) (ok : Bool) (hok : ok = true ↔ d.ringHolds v) :
    let t := d.flwFetched
    t.tier = d.tier ∧ t.rcd.fetch = none ∧ t.rd rFlwRdStatus = (if ok then 2 else 0) ∧ ∀ k < 32, t.rd (rFlwRdData k) =
      if ok then BitVec.ofNat 32 (leAt (sget (fun _ => []) d.mgmt.flash.ring (ringSlot v)) (4 * k) 4) else 0 := by
  dsimp only
  have hflag : ((decide ((sget (fun _ => []) d.mgmt.flash.ring (ringSlot v)).length = 128) &&
      decide (leAt (sget (fun _ => []) d.mgmt.flash.ring (ringSlot v)) 0x18 4 = v.toNat)) = true ↔ ok = true) := by
    rw [hok, Dev.ringHolds, Bool.and_eq_true, decide_eq_true_eq, decide_eq_true_eq]
  unfold Dev.flwFetched
  rw [hfetch]
  dsimp only
  simp only [Bool.eq_iff_iff.mpr hflag]
  refine ⟨?_, ?_, ?_, fun k hk => ?_⟩
  · rw [Dev.each_wr_eq]; rfl
  · rw [Dev.each_wr_eq]; rfl
  · rw [Dev.rd_each_wr_of_ne _ _ (by intro k; unfold rFlwRdStatus rFlwRdData; omega), Dev.rd_wr_same]
  · exact Dev.rd_each_wr_of_lt rFlwRdData (fun a b h => by unfold rFlwRdData at h; omega) _ hk _

end Sys2Proof.Machine

namespace Sys2Proof.Proofs

open Sys2Proof.Machine Sys2Proof.Safety

/-- Settles O48: the word that each of an attempt's ends leaves in LOCK_STATUS, field by field. -/
theorem lockAttemptsEnd : Obligations.LockAttemptsEnd := by
  unfold Obligations.LockAttemptsEnd
  intro s a ha w
  obtain ⟨hattempt, htier, hstatus, herr⟩ := s.dev.lockEnd_spec ha
  refine runs_of_does (does_of_run (f := Dev.lockEnd) rfl rfl) (congrArg TierSt.stall htier) ?_
  dsimp only
  rw [Dev.rd_refresh_far _ (by decide), Dev.rd_refresh_far _ (by decide), hstatus]
  have hw : s.dev.rd rLockStatus = w := rfl
  clear_value w
  rw [hw]
  refine ⟨hattempt, bitOf_lockAfter _ _ _, fun hab => ?_, fun hab hok => ?_, fun hab hok => ⟨?_, ?_, ?_, ?_, ?_, herr hab hok⟩⟩
  · rw [lockAfter_abandoned hab]
    simp (disch := decide) only [bitOf_setBit_ne, fld_setBit_ne, and_self]
  · rw [hok, lockAfter_opened hab]
    split
    · next hcmd => simp (disch := decide) [bitOf_setFld_ne, bitOf_setBit_ne, bitOf_setBit_same, fld_setFld_ne, fld_setBit_ne, fld_setFld_same, hcmd]
    · next hcmd => simp (disch := decide) [bitOf_setFld_ne, bitOf_setBit_ne, bitOf_setBit_same, fld_setFld_ne, fld_setBit_ne, fld_setFld_same, hcmd]
  all_goals
    rw [hok, lockAfter_failed hab]
    split
  case refine_7.isTrue hfew => simpa (disch := decide) [bitOf_setFld_ne, bitOf_setBit_ne] using fun h => absurd hfew (by omega)
  case refine_7.isFalse hfew => simpa (disch := decide) [bitOf_setBit_same] using .inr (by omega)
  all_goals simp (disch := decide) [bitOf_setFld_ne, bitOf_setBit_ne, fld_setFld_ne, fld_setBit_ne, fld_setFld_same]

/-- Settles O51. -/
theorem snapshotsCopyAndFlowstoneRecordsReachTheirSlots : Obligations.SnapshotsCopyAndFlowstoneRecordsReachTheirSlots := by
  unfold Obligations.SnapshotsCopyAndFlowstoneRecordsReachTheirSlots
  refine ⟨fun s o v at_ => ?_, fun s o v r l => ?_⟩
  · dsimp only
    have htick : (s.dev.wr rTsSnapAtHi v).rd64 rTsSnapAtLo = (s.dev.rd rTsSnapAtLo).toNat + 2 ^ 32 * v.toNat := by
      rw [Dev.rd64, Dev.rd_wr_ne _ _ (by decide), show rTsSnapAtLo + 4 = rTsSnapAtHi from rfl, Dev.rd_wr_same]
    refine ⟨fun hr hlate => ?_, fun hr hpast => ?_, fun harmed hnow => ?_, fun hcopied => ?_⟩
    · refine does_of_run (f := fun d => d.rowWr o rTsSnapAtHi v) rfl ((rowWr_rTsSnapAtHi _ o v hr).trans ?_)
      unfold Dev.snapArm
      dsimp only
      rw [htick, Dev.wr_now, if_neg (Nat.not_lt.mpr hlate), Dev.rd_wr_ne _ _ (by decide)]
    · refine does_of_run (f := fun d => d.rowWr o rTsSnapAtHi v) rfl ((rowWr_rTsSnapAtHi _ o v hr).trans ?_)
      unfold Dev.snapArm
      dsimp only
      rw [htick, Dev.wr_now, if_pos hpast, Dev.rd_wr_ne _ _ (by decide)]
    · obtain ⟨htier, hspec⟩ := Dev.snapTick_spec harmed hnow
      exact runs_of_does (does_of_run (f := Dev.snapTick) rfl rfl) (congrArg TierSt.stall htier) hspec
    · refine does_of_run (f := Dev.snapDone) rfl ?_
      unfold Dev.snapDone
      rw [hcopied]
      dsimp only
      rw [Dev.rd_wr_ne _ _ (by decide)]
      rfl
  · dsimp only
    refine ⟨fun hq hready => ?_, fun hq hready => ?_, rfl, fun hr hfetch => ?_, fun hfetch hlen hseq => ?_, fun hfetch hno => ?_⟩
    · refine does_of_run (f := Dev.flwProgram) rfl ?_
      unfold Dev.flwProgram
      rw [hq]
      exact if_neg (by rw [ringSlot, hready]; decide)
    · refine does_of_run (f := Dev.flwErase) rfl ?_
      unfold Dev.flwErase
      rw [hq]
      dsimp only
      rw [ringSlot, hready, if_neg Bool.false_ne_true, ← hq]
    · refine does_of_run (f := fun d => d.rowWr o rFlwRdSeq v) rfl ((rowWr_rFlwRdSeq _ o v hr).trans ?_)
      exact if_neg (by rw [hfetch]; decide)
    · obtain ⟨htier, hdone, hstatus, hdata⟩ := Dev.flwFetched_spec hfetch true (iff_of_true rfl ⟨hlen, hseq⟩)
      refine runs_of_does (does_of_run (f := Dev.flwFetched) rfl rfl) (congrArg TierSt.stall htier) ⟨hdone, ?_, fun k hk => ?_⟩
      · rw [Dev.rd_refresh_far _ (by decide), hstatus, if_pos rfl]
      · rw [Dev.rd_refresh_far _ (by unfold rFlwRdData; omega), hdata k hk, if_pos rfl]
        rfl
    · have hnone : ¬s.dev.ringHolds v := fun ⟨hlen, hseq⟩ => hno.elim (· hlen) (· hseq)
      obtain ⟨htier, hdone, hstatus, hdata⟩ := Dev.flwFetched_spec hfetch false (iff_of_false (by decide) hnone)
      refine runs_of_does (does_of_run (f := Dev.flwFetched) rfl rfl) (congrArg TierSt.stall htier) ⟨hdone, ?_, fun k hk => ?_⟩
      · rw [Dev.rd_refresh_far _ (by decide), hstatus, if_neg (by decide)]
      · rw [Dev.rd_refresh_far _ (by unfold rFlwRdData; omega), hdata k hk, if_neg (by decide)]

end Sys2Proof.Proofs

/-! The sideband port (R364 to R367). -/

namespace Sys2Proof.Machine

/-! ### One word of HBM -/

/-- A range that lies between two multiples of the cut is one piece. -/
theorem cutAt_one {b a n : Nat} (fuel : Nat) (hn : 0 < n) (hfit : a % b + n ≤ b) : cutAt b (fuel + 1) a n = [(a, n)] := by
  have hk : min n (b - a % b) = n := by omega
  rw [cutAt, if_neg (by omega), hk]
  dsimp only
  rw [Nat.sub_self]
  cases fuel <;> rfl

section Mem

variable (d : Dev)

theorem Dev.mem_add64 (off n : Nat) : (d.add64 off n).mem = d.mem := by rw [Dev.add64_eq]

theorem Dev.mem_addSat (off n : Nat) : (d.addSat off n).mem = d.mem := by
  unfold Dev.addSat
  split <;> rfl

theorem Dev.mem_each {α : Type} (l : List α) {f : Dev → α → Dev} (h : ∀ d a, (f d a).mem = d.mem) : (d.each l f).mem = d.mem :=
  foldl_rel (fun a b : Dev => b.mem = a.mem) (fun _ => rfl) (fun _ _ _ h k => Eq.trans k h) f h l d

theorem Dev.mem_memErr (pg b s y k a : Nat) : (d.memErr pg b s y k a).mem = d.mem := by
  obtain he | he := d.raise_cases (pgReg pg 0x10) b _ <;> rw [Dev.memErr, he]
  · dsimp only
    split <;> rfl
  · rfl

theorem Dev.mem_poisonRead (s a : Nat) (scrub : Bool) : (d.poisonRead s scrub a).mem = d.mem := by
  unfold Dev.poisonRead
  split
  · split
    · rfl
    · exact (Dev.mem_addSat _ _ _).trans (Dev.mem_memErr _ _ _ _ _ _ _)
  · rfl

theorem Dev.mem_countBytes (reg a n : Nat) : (d.countBytes reg a n).mem = d.mem := by
  unfold Dev.countBytes
  split
  · exact d.mem_add64 _ _
  · rfl

theorem Dev.mem_charge (a n : Nat) (wr : Bool) : (d.charge a n wr).mem = d.mem := by
  have hall (t : Dev) (l : List Nat) (g : Nat → Nat) : (t.each l fun d s => d.add64 (rHbmChargedLo s) (g s)).mem = t.mem :=
    t.mem_each l fun _ _ => Dev.mem_add64 _ _ _
  have hpart (t : Dev) (l : List (Nat × Nat)) : (t.each l fun d e => d.add64 (rHbmChargedLo (hbmPc e.1 / 64)) 768).mem = t.mem :=
    t.mem_each l fun _ _ => Dev.mem_add64 _ _ _
  unfold Dev.charge
  split
  · rfl
  · split
    · exact (hpart _ _).trans ((Dev.mem_add64 _ _ _).trans (hall _ _ _))
    · exact (Dev.mem_add64 _ _ _).trans (hall _ _ _)

end Mem

section Hbm

variable {d : Dev} {a : Nat} (hhbm : isHbm a = true) (hdamage : d.mem.damage = [])
include hhbm

theorem Dev.wakeBank_hbm : d.wakeBank a = d := by
  have hgal : isGallery a = false := by simp [isHbm, isGallery] at hhbm ⊢; omega
  simp [Dev.wakeBank, hgal]

theorem Dev.resolve_hbm (src : Nat) (wr : Bool) : d.resolve ⟨none, src⟩ wr a = (.mem a, d) := by
  have h : a < 0xC000000000 := by simpa [isHbm] using hhbm
  have hoff : regOff a = none := if_neg (by simp; omega)
  have hgal : isGallery a = false := by simp [isGallery]; omega
  have hpocket : isPocket a = false := by simp [isPocket]; omega
  have hmanaged : isManaged a = false := by simp [isManaged]; omega
  have hhost : hostPort a = none := by unfold hostPort; rw [if_neg (by simp; omega), if_neg (by simp; omega)]
  simp [Dev.resolve, hoff, hmanaged, hhost, Dev.reaches, Dev.mapped, hhbm, hgal, hpocket]

theorem Dev.sbReach_hbm (hboot : d.bootState ≠ 6) : d.sbReach a = true := by
  have h : a < 0xC000000000 := by simpa [isHbm] using hhbm
  have hregs : inRegs a = false := by simp [inRegs]; omega
  have hhost : hostPort a = none := by unfold hostPort; rw [if_neg (by simp; omega), if_neg (by simp; omega)]
  simp [Dev.sbReach, Dev.bulkReach, Dev.mapped, hhbm, hregs, hhost, hboot]

include hdamage

/-- A read of a granule of undamaged HBM returns what stands there, whatever its mark, and changes no memory. -/
theorem Dev.readGran_hbm (src : Nat) : (d.readGran src false a).1.1 = d.mem.bytes a 64 ∧ (d.readGran src false a).2.mem = d.mem := by
  have hsump : isSump a = false := by simp [isHbm, isSump] at hhbm ⊢; omega
  have hfound : d.found a = ((d.mem.bytes a 64, none), d) := by simp [Dev.found, hsump, MemSt.dmg_undamaged hdamage]
  unfold Dev.readGran
  dsimp only
  split
  · exact ⟨rfl, Dev.mem_poisonRead _ _ _ _⟩
  · rw [hfound]
    exact ⟨rfl, rfl⟩

end Hbm

/-- The word at an aligned address of undamaged HBM. -/
theorem Dev.readMem_hbmWord {d : Dev} {a : Nat} (hhbm : isHbm a = true) (halign : a % 4 = 0) (hdamage : d.mem.damage = []) (src : Nat) :
    let r := d.readMem ⟨none, src⟩ a 4
    r.1.data.map (·.1) = d.mem.bytes a 4 ∧ r.2.mem = d.mem ∧ r.2.tier = d.tier := by
  have hgran : isHbm (a / 64 * 64) = true := by simp [isHbm] at hhbm ⊢; omega
  obtain ⟨t, ht⟩ : ∃ t, t = (d.charge a 4 false).countBytes 0x80 a 4 := ⟨_, rfl⟩
  have hmem : t.mem = d.mem := by rw [ht, Dev.mem_countBytes, Dev.mem_charge]
  obtain ⟨hbytes, hkeep⟩ := Dev.readGran_hbm hgran (hmem ▸ hdamage) src
  have hphys : d.readPhys src a 4 = ((((t.readGran src false (a / 64 * 64)).1.1.drop (a % 64)).take 4).map
      (·, (t.readGran src false (a / 64 * 64)).1.2), (t.readGran src false (a / 64 * 64)).2) := by
    rw [Dev.readPhys, granules, cutAt_one 1 (by decide) (by omega), List.foldl_cons, List.foldl_nil, Dev.wakeBank_hbm hhbm, ← ht]
    rfl
  have hread : (d.readMem ⟨none, src⟩ a 4).1.data = (d.readPhys src a 4).1 ∧ (d.readMem ⟨none, src⟩ a 4).2 = (d.readPhys src a 4).2 := by
    rw [Dev.readMem, Dev.readReq, cutAt_one 1 (by decide) (by omega), List.foldl_cons, List.foldl_nil, Dev.resolve_hbm hhbm]
    exact ⟨rfl, rfl⟩
  dsimp only
  rw [hread.1, hread.2]
  refine ⟨?_, ?_, (physOnly_readPhys _ _ _ _).tier⟩
  · rw [hphys, hbytes, hmem, List.map_map]
    have hword := MemSt.bytes_piece d.mem (a / 64 * 64) (show a % 64 + 4 ≤ 64 by omega)
    rw [show a / 64 * 64 + a % 64 = a by omega] at hword
    rw [← hword]
    exact List.map_id _
  · rw [hphys]
    exact hkeep.trans hmem

/-! ### Words that the port reads and writes -/

section Port

variable {d : Dev} {a : Nat}

/-- The port reads an aligned word of undamaged HBM. -/
theorem Dev.sbRead1_hbm (hhbm : isHbm a = true) (halign : a % 4 = 0) (hboot : d.bootState ≠ 6) (hdamage : d.mem.damage = []) :
    let r := d.sbRead1 a
    r.1 = d.mem.bytes a 4 ∧ r.2.mem = d.mem ∧ r.2.tier = d.tier ∧ r.2.bootState = d.bootState := by
  have hreach := Dev.sbReach_hbm hhbm hboot
  have hbulk : d.bulkReach a = true := (Bool.and_eq_true_iff.mp hreach).1
  have hregs : inRegs a = false := by simp [isHbm, inRegs] at hhbm ⊢; omega
  obtain ⟨hdata, hmem, htier⟩ := Dev.readMem_hbmWord hhbm halign hdamage (srcOf .sideband)
  have honly := memOnly_readMem (acc := ⟨none, srcOf .sideband⟩) (fun _ h => nomatch h) d a 4
  have hread : d.sbRead1 a = ((d.readMem ⟨none, srcOf .sideband⟩ a 4).1.data.map (·.1), (d.readMem ⟨none, srcOf .sideband⟩ a 4).2) := by
    simp [Dev.sbRead1, hreach, Dev.bulkRead1, hbulk, hregs]
  dsimp only
  rw [hread]
  exact ⟨hdata, hmem, htier, congrArg (fld 3 0) (honly.rd rBootState (by decide))⟩

/-- Word after word of undamaged HBM, at addresses that advance by a multiple of 4. -/
theorem Dev.sbReads_hbm {step : Nat} (hstep : step % 4 = 0) (k : Nat) (ha : a < 2 ^ 64) (halign : a % 4 = 0) (hboot : d.bootState ≠ 6)
    (hdamage : d.mem.damage = []) (hhbm : ∀ j < k, isHbm ((a + step * j) % 2 ^ 64) = true) : let r := d.sbReads a step k
    r.1 = (List.range k).flatMap (fun j => d.mem.bytes ((a + step * j) % 2 ^ 64) 4) ∧ r.2.mem = d.mem ∧ r.2.tier = d.tier := by
  induction k generalizing d a with
  | zero => exact ⟨rfl, rfl, rfl⟩
  | succ k ih =>
    have hzero : (a + step * 0) % 2 ^ 64 = a := by omega
    have hnext (j : Nat) : ((a + step) % 2 ^ 64 + step * j) % 2 ^ 64 = (a + step * (j + 1)) % 2 ^ 64 := by
      rw [Nat.mod_add_mod, Nat.mul_add_one, Nat.add_right_comm, Nat.add_assoc]
    obtain ⟨hdata, hmem, htier, hstate⟩ := Dev.sbRead1_hbm (hzero ▸ hhbm 0 (by omega)) halign hboot hdamage
    obtain ⟨hdatas, hmems, htiers⟩ := ih (d := (d.sbRead1 a).2) (a := (a + step) % 2 ^ 64) (Nat.mod_lt _ (by decide)) (by omega)
      (hstate ▸ hboot) (hmem ▸ hdamage) fun j hj => by rw [hnext]; exact hhbm (j + 1) (by omega)
    refine ⟨?_, hmems.trans hmem, htiers.trans htier⟩
    rw [Dev.sbReads]
    dsimp only
    rw [hdata, hdatas, hmem, List.range_succ_eq_map, List.flatMap_cons, List.flatMap_map, hzero]
    simp only [hnext, Nat.succ_eq_add_one]

/-- A whole word written at an aligned register. -/
theorem Dev.bulkWrite1_reg {o : Origin} (hreach : d.bulkReach a = true) (hregs : inRegs a = true) (halign : a % 4 = 0) (w : Word) :
    (d.bulkWrite1 o a (clean (leBytes 4 w.toNat))).2 = d.write32 o (a - 0x3F0000000000) w := by
  have hlen : (clean (leBytes 4 w.toNat)).length = 4 := rfl
  have hof : ofLe (leBytes 4 w.toNat) = w.toNat := by
    have := w.isLt
    simp only [leBytes, ofLe, BitVec.toNat_ofNat]
    omega
  have hcut : cutAt 4 (4 / 4 + 2) (a - 0x3F0000000000) 4 = [(a - 0x3F0000000000, 4)] := cutAt_one 2 (by decide) (by
    simp [inRegs] at hregs
    omega)
  unfold Dev.bulkWrite1
  rw [hreach, hregs, hlen, hcut, List.foldl_cons, List.foldl_nil, Nat.sub_self]
  have hword : BitVec.ofNat 32 (ofLe ((((clean (leBytes 4 w.toNat)).drop 0).take 4).map (·.1))) = w := by
    rw [show (((clean (leBytes 4 w.toNat)).drop 0).take 4).map (·.1) = leBytes 4 w.toNat from rfl, hof, BitVec.ofNat_toNat, BitVec.setWidth_eq]
  dsimp only
  rw [hword]
  simp only [Bool.not_true, Bool.false_eq_true, if_false, if_true]

theorem Dev.bulkWrite1_mem {o : Origin} (hreach : d.bulkReach a = true) (hregs : inRegs a = false) (bs : Marked) :
    (d.bulkWrite1 o a bs).2 = (d.writeMem ⟨none, srcOf o⟩ a bs).2 := by
  simp [Dev.bulkWrite1, hreach, hregs]

/-- Does the port not reach `a`? -/
def Dev.sbHidden (d : Dev) (a : Nat) : Prop := d.bulkReach a = false ∨ (inRegs a = true ∧ d.failHides (a - 0x3F0000000000) = true)

theorem Dev.sbReach_of_hidden (h : d.sbHidden a) : d.sbReach a = false := by
  obtain h | ⟨hregs, hfail⟩ := h
  · rw [Dev.sbReach, h, Bool.false_and]
  · rw [Dev.sbReach, hregs, hfail]
    exact Bool.and_false _

theorem Dev.sbReach_of_not_hidden (h : ¬d.sbHidden a) : d.sbReach a = true ∧ d.bulkReach a = true := by
  obtain ⟨hreach, hfail⟩ := not_or.mp h
  rw [Bool.not_eq_false] at hreach
  refine ⟨?_, hreach⟩
  rw [Dev.sbReach, hreach, Bool.true_and, Bool.not_eq_true', ← Bool.not_eq_true, Bool.and_eq_true]
  exact hfail

/-- What the port reaches depends on the fitted Sump and on BOOT_STATE. -/
theorem Dev.sbReach_congr {t : Dev} (hsump : t.rd rSmpStatus = d.rd rSmpStatus) (hboot : t.rd rBootState = d.rd rBootState) :
    t.sbReach a = d.sbReach a := by
  have hstate : t.bootState = d.bootState := congrArg (fld 3 0) hboot
  have hfit : t.rdFld rSmpStatus 18 17 = d.rdFld rSmpStatus 18 17 := congrArg (fld 18 17) hsump
  have hsize : t.sumpSize = d.sumpSize := by rw [Dev.sumpSize, hfit]; rfl
  have hmapped : t.mapped a = d.mapped a := by simp only [Dev.mapped, Dev.sumpMapped, hsize, hsump]
  simp only [Dev.sbReach, Dev.bulkReach, Dev.failHides, hstate, hmapped]

/-- SB_ERR.ADDR is set; the address is captured when no error was flagged. -/
theorem Dev.sbErr_spec (d : Dev) (a : Nat) : let t := d.sbErr a
    t.tier = d.tier ∧ (∀ off, off ∉ [rSbErr, rSbErrAddrLo, rSbErrAddrHi] → t.rd off = d.rd off) ∧ t.rd rSbErr = setBit 0 true (d.rd rSbErr) ∧
    t.rd64 rSbErrAddrLo = if d.rd rSbErr = 0 then a % 2 ^ 64 else d.rd64 rSbErrAddrLo := by
  have hhi : rSbErrAddrLo + 4 = rSbErrAddrHi := rfl
  dsimp only
  unfold Dev.sbErr Dev.raise
  dsimp only
  split
  · refine ⟨rfl, fun off ho => ?_, ?_, Dev.rd64_wr64 _ _ _⟩
    · simp only [List.mem_cons, List.not_mem_nil, or_false, not_or] at ho
      rw [Dev.rd_wr64, hhi, if_neg ho.2.2, if_neg ho.2.1, Dev.rd_wr_ne _ _ ho.1]
    · rw [Dev.rd_wr64, if_neg (by decide), if_neg (by decide), Dev.rd_wr_same]
  · refine ⟨rfl, fun off ho => ?_, Dev.rd_wr_same _ _ _, ?_⟩
    · exact Dev.rd_wr_ne _ _ fun h => ho (h ▸ List.mem_cons_self)
    · rw [Dev.rd64, Dev.rd_wr_ne _ _ (by decide), Dev.rd_wr_ne _ _ (by decide)]
      rfl

/-- Two words where nothing is mapped read as ones, and flag the address. -/
theorem Dev.sbReads_hidden (h : d.sbHidden a) (ha : a < 2 ^ 64) : let r := d.sbReads a 0 2
    r.1 = List.replicate 8 0xFF ∧ r.2.tier = d.tier ∧ bitOf 0 (r.2.rd rSbErr) = true ∧ (d.rd rSbErr = 0 → r.2.rd64 rSbErrAddrLo = a) := by
  obtain ⟨htier, hrd, herr, haddr⟩ := d.sbErr_spec a
  obtain ⟨htier2, -, herr2, haddr2⟩ := (d.sbErr a).sbErr_spec a
  have hreach := Dev.sbReach_of_hidden h
  have hreach2 : (d.sbErr a).sbReach a = false := (Dev.sbReach_congr (hrd _ (by decide)) (hrd _ (by decide))).trans hreach
  have hread {t : Dev} (ht : t.sbReach a = false) : t.sbRead1 a = (List.replicate 4 0xFF, t.sbErr a) := if_neg (by rw [ht]; decide)
  have hreads : d.sbReads a 0 2 = (List.replicate 8 0xFF, (d.sbErr a).sbErr a) := by
    rw [Dev.sbReads, hread hreach, Nat.add_zero, Nat.mod_eq_of_lt ha, Dev.sbReads, hread hreach2]
    rfl
  have hset : setBit 0 true (d.rd rSbErr) ≠ 0 := fun h0 => by
    have := bitOf_setBit_same 0 true (d.rd rSbErr) (by decide)
    rw [h0] at this
    exact absurd this (by decide)
  dsimp only
  rw [hreads]
  refine ⟨rfl, htier2.trans htier, ?_, fun h0 => ?_⟩
  · dsimp only
    rw [herr2, bitOf_setBit_same _ _ _ (by decide)]
  · dsimp only
    rw [haddr2, herr, if_neg hset, haddr, if_pos h0, Nat.mod_eq_of_lt ha]

/-- A frame begins. -/
def Dev.sbBegun (d : Dev) (bad : Bool) : Dev := { (d.wrFld rSbStatus 28 28 1) with rcd := { d.rcd with sbBad := bad } }

theorem Dev.sbBegin_idle (h : d.sbFrame = false) (bad : Bool) (f : Dev → Dev) : d.sbBegin bad f = f (d.sbBegun bad) :=
  if_neg (by rw [h]; decide)

theorem Dev.sbBegin_frame (h : d.sbFrame = true) (bad : Bool) (f : Dev → Dev) : d.sbBegin bad f = d := if_pos h

/-- The address at which the port reads and writes advances by this (R364). -/
def Dev.sbStep (d : Dev) : Nat := if bitOf 0 (d.rd rSbCfg) then 4 else 0

/-- The device after `m` words have been read in time, the one after them too (R366). -/
def Dev.sbRested (d : Dev) (m : Nat) : Dev :=
  (d.sbReads (d.rd64 rSbAddrLo) d.sbStep (m + 1)).2.wr64 rSbAddrLo ((d.rd64 rSbAddrLo + d.sbStep * m) % 2 ^ 64)

/-- A READ whose words all come in time answers them. -/
theorem Dev.sbRead_intime (d : Dev) (n : Nat) : d.sbRead n none =
    { d.sbRested n with resp := .data ((d.sbReads (d.rd64 rSbAddrLo) d.sbStep (n + 1)).1.take (4 * n)) false } := by
  have hrest : List.replicate (4 * (n - n)) (0xFF : Byte) = [] := by rw [Nat.sub_self]; rfl
  show Dev.answer _ (_ ++ List.replicate (4 * (n - n)) 0xFF) false = _
  rw [hrest, List.append_nil]
  rfl

end Port

end Sys2Proof.Machine

namespace Sys2Proof.Proofs

open Sys2Proof.Machine Sys2Proof.Safety

section Frame

variable {s : State}

theorem does_frame {i : Instr} {bad : Bool} {f : Dev → Dev} {u : Dev} (h : exec i s = State.run (fun d => d.sbBegin bad f) s)
    (hidle : s.dev.sbFrame = false) (hu : f (s.dev.sbBegun bad) = u) : Does i s u :=
  does_of_run h ((Dev.sbBegin_idle hidle bad f).trans hu)

/-- A frame within a frame is nothing. -/
theorem does_frame_within {i : Instr} {bad : Bool} {f : Dev → Dev} (h : exec i s = State.run (fun d => d.sbBegin bad f) s)
    (hframe : s.dev.sbFrame = true) : Does i s s.dev := does_of_run h (Dev.sbBegin_frame hframe bad f)

theorem exec_setaddr (ws : List Word) : exec (.setaddr ws) s = State.run (fun d => d.sbBegin false fun d => d.sbSetAddr ws) s := rfl

theorem exec_write (ws : List Word) : exec (.write ws) s = State.run (fun d => d.sbBegin false fun d => d.each ws Dev.sbWrite1) s := rfl

theorem exec_read (n : Nat) (late : Option Nat) : exec (.read n late) s =
    State.run (fun d => d.sbBegin false fun d => d.sbRead n late) s := rfl

theorem exec_sidebandStatus (n : Nat) : exec (.sidebandStatus n) s = State.run (fun d => d.sbBegin false fun d =>
    (d.answer (leBytes 4 (d.rd rSbStatus).toNat) false).sbCount 15 8 n) s := rfl

theorem exec_badop : exec .badop s = State.run (fun d => d.sbBegin true fun d => d.sbCount 27 24 1) s := rfl

theorem exec_sbCsRelease (mid : Bool) : exec (.sbCsRelease mid) s = State.run (fun d => d.sbRelease mid) s := rfl

/-- A word that comes too late only after the last one is none of those asked for. -/
theorem exec_read_intime {n k : Nat} (h : n ≤ k) : exec (.read n (some k)) s = exec (.read n none) s := by
  have hread (d : Dev) : d.sbRead n (some k) = d.sbRead n none := if_neg (Nat.not_lt.mpr h)
  rw [exec_read, exec_read]
  simp only [hread]

/-- A READ of aligned words of undamaged HBM (R366). -/
theorem runs_read_hbm {n : Nat} (hidle : s.dev.sbFrame = false) : let d := s.dev.sbBegun false
    let a := d.rd64 rSbAddrLo
    (∀ j ≤ n, isHbm ((a + d.sbStep * j) % 2 ^ 64) = true) → a % 4 = 0 → s.dev.bootState ≠ 6 → s.dev.mem.damage = [] →
    Runs (.read n none) s (fun t => t.mem = s.dev.mem ∧ t.rd64 rSbAddrLo = (a + d.sbStep * n) % 2 ^ 64 ∧
      t.resp = .data ((List.range n).flatMap (fun j => s.dev.mem.bytes ((a + d.sbStep * j) % 2 ^ 64) 4)) false) := by
  intro d a hhbm halign hboot hdamage
  have hstate : d.bootState ≠ 6 := by
    rwa [show d.bootState = s.dev.bootState from congrArg (fld 3 0) (s.dev.rd_wr_ne _ (by decide))]
  have hstep : d.sbStep % 4 = 0 := by unfold Dev.sbStep; split <;> rfl
  obtain ⟨hdata, hmem, htier⟩ := Dev.sbReads_hbm (d := d) hstep (n + 1) (d.rd64_lt _) halign hstate hdamage fun j hj => hhbm j (by omega)
  refine runs_of_does (does_frame (exec_read _ _) hidle (Dev.sbRead_intime d n)) (congrArg TierSt.stall htier) ⟨hmem, ?_, ?_⟩
  · rw [Dev.rd64_refresh_far _ (by decide)]
    exact (Dev.rd64_wr64 _ _ _).trans (Nat.mod_mod _ _)
  · refine congrArg (Resp.data · false) ((congrArg (List.take (4 * n)) hdata).trans ?_)
    rw [List.range_succ, List.flatMap_append, List.take_left' (by simp [List.length_flatMap, MemSt.length_bytes, Nat.mul_comm])]
    rfl

/-- A READ of one word where nothing is mapped (R367). -/
theorem runs_read_hidden (hidle : s.dev.sbFrame = false) : let d := s.dev.sbBegun false
    let a := d.rd64 rSbAddrLo
    d.sbHidden a → d.sbStep = 0 → Runs (.read 1 none) s (fun t => t.resp = .data [0xFF, 0xFF, 0xFF, 0xFF] false ∧
      bitOf 0 (t.rd rSbErr) = true ∧ (s.dev.rd rSbErr = 0 → t.rd64 rSbErrAddrLo = a)) := by
  intro d a hh hinc
  obtain ⟨hdata, htier, herr, haddr⟩ := Dev.sbReads_hidden hh (d.rd64_lt _)
  have hread : d.sbReads (d.rd64 rSbAddrLo) d.sbStep (1 + 1) = d.sbReads a 0 2 := by rw [show d.sbStep = 0 from hinc]
  have hrd (off : Nat) (h : off ≠ rSbAddrLo) (h4 : off ≠ rSbAddrLo + 4) : (d.sbRested 1).rd off = (d.sbReads a 0 2).2.rd off := by
    rw [Dev.sbRested, hread, Dev.rd_wr64, if_neg h4, if_neg h]
  refine runs_of_does (does_frame (exec_read _ _) hidle (Dev.sbRead_intime d 1)) ?_ ⟨?_, ?_, fun h0 => ?_⟩
  · show (d.sbReads (d.rd64 rSbAddrLo) d.sbStep (1 + 1)).2.tier.stall = _
    rw [hread, htier]
    rfl
  · show Resp.data ((d.sbReads (d.rd64 rSbAddrLo) d.sbStep (1 + 1)).1.take (4 * 1)) false = _
    rw [hread, hdata]
    rfl
  · rw [Dev.rd_refresh_far _ (by decide)]
    exact (congrArg (bitOf 0) (hrd _ (by decide) (by decide))).trans herr
  · rw [Dev.rd64_refresh_far _ (by decide)]
    refine (Dev.rd64_congr (hrd _ (by decide) (by decide)) (hrd _ (by decide) (by decide))).trans (haddr ?_)
    exact (s.dev.rd_wr_ne _ (by decide)).trans h0

end Frame

/-- Settles O52: a frame that begins does what its opcode says from the state it begins in, word by word; one that begins within another
does nothing. -/
theorem sidebandFramesActWordByWord : Obligations.SidebandFramesActWordByWord := by
  unfold Obligations.SidebandFramesActWordByWord
  intro s lo hi w rest ws n k late mid begun d a inc next wrong hidden burst rest_
  refine ⟨fun hidle => ⟨?_, fun hfew => ?_, ?_, fun hh => ?_, fun hh hregs => ?_, fun hh hregs halign => ?_, ?_, fun hk => ?_, fun hk => ?_,
    fun hhbm halign hboot hdamage => ?_, fun hh hinc => ?_, ?_, ?_⟩, fun hframe hbad => ?_, fun hframe hbad => ?_, fun hidle => ?_,
    fun hframe => ⟨does_frame_within (exec_setaddr ws) hframe, does_frame_within (exec_write ws) hframe,
      does_frame_within (exec_read n late) hframe, does_frame_within (exec_sidebandStatus n) hframe, does_frame_within exec_badop hframe⟩⟩
  · exact does_frame (exec_setaddr _) hidle rfl
  · refine does_frame (exec_setaddr _) hidle ?_
    match ws, hfew with
    | [], _ => rfl
    | [_], _ => rfl
  · exact does_frame (exec_write _) hidle rfl
  · refine does_frame (exec_write _) hidle ?_
    show (if d.sbReach a then _ else d.sbErr a).sbNext = _
    rw [if_neg (by rw [Dev.sbReach_of_hidden hh]; decide)]
    rfl
  · refine does_frame (exec_write _) hidle ?_
    obtain ⟨hreach, hbulk⟩ := Dev.sbReach_of_not_hidden hh
    show (if d.sbReach a then (d.bulkWrite1 .sideband a (clean (leBytes 4 w.toNat))).2 else _).sbNext = _
    rw [if_pos hreach, Dev.bulkWrite1_mem hbulk hregs]
    rfl
  · refine does_frame (exec_write _) hidle ?_
    obtain ⟨hreach, hbulk⟩ := Dev.sbReach_of_not_hidden hh
    show (if d.sbReach a then (d.bulkWrite1 .sideband a (clean (leBytes 4 w.toNat))).2 else _).sbNext = _
    rw [if_pos hreach, Dev.bulkWrite1_reg hbulk hregs halign]
    rfl
  · exact does_frame (exec_read _ _) hidle (Dev.sbRead_intime d n)
  · exact does_frame (exec_read _ _) hidle (if_pos hk)
  · exact exec_read_intime hk
  · exact runs_read_hbm hidle hhbm halign hboot hdamage
  · exact runs_read_hidden hidle hh hinc
  · exact does_frame (exec_sidebandStatus _) hidle rfl
  · exact does_frame exec_badop hidle rfl
  · refine does_of_run (exec_sbCsRelease _) ((if_neg (by rw [hframe]; decide)).trans ?_)
    dsimp only
    rw [hbad]
    cases mid <;> rfl
  · refine does_of_run (exec_sbCsRelease _) ((if_neg (by rw [hframe]; decide)).trans ?_)
    dsimp only
    rw [hbad]
    cases mid <;> rfl
  · exact does_of_run (exec_sbCsRelease _) (if_pos (by rw [hidle]; decide))

end Sys2Proof.Proofs

/-! Fenced dies take no MODE and no KERNEL (R305). -/

namespace Sys2Proof.Machine

/-! ### A fenced die's units -/

/-- The trowel of a fenced die is no unit of a MODE. -/
theorem Dev.trowel_notMem_modeUnits {d : Dev} {n op : Nat} (hn : n < 8) (hf : d.fenced n = true) {e : Fin 10}
    (he : .trowel e ∈ d.modeUnits op) : e.val ≠ n := by
  rintro rfl
  match op with
  | 0 => simp [Dev.modeUnits] at he
  | 1 =>
    obtain ⟨k, hk, heq⟩ := List.mem_map.mp he
    obtain ⟨hlt, hserves⟩ := List.mem_filter.mp hk
    have hval : k = e.val := by
      rw [← ModeUnit.trowel.inj heq]
      exact (Nat.mod_eq_of_lt (List.mem_range.mp hlt)).symm
    subst hval
    simp [hf, Nat.not_le.mpr hn] at hserves
  | _ + 2 => simp [Dev.modeUnits] at he

/-- The monitor of a fenced die is no unit of a MODE. -/
theorem Dev.monitor_notMem_modeUnits {d : Dev} {n op : Nat} (hn : n < 8) (hf : d.fenced n = true) {e : Fin 20}
    (he : .monitor e ∈ d.modeUnits op) : e.val ≠ n := by
  rintro rfl
  match op with
  | 0 => simp [Dev.modeUnits] at he
  | 1 => simp [Dev.modeUnits] at he
  | _ + 2 =>
    obtain hl | hm := List.mem_append.mp he
    · simp at hl
    · obtain ⟨k, hk, heq⟩ := List.mem_map.mp hm
      obtain ⟨hlt, hserves⟩ := List.mem_filter.mp hk
      have hval : k = e.val := by
        rw [← ModeUnit.monitor.inj heq]
        exact (Nat.mod_eq_of_lt (List.mem_range.mp hlt)).symm
      subst hval
      simp [hf, Nat.not_le.mpr hn] at hserves

/-! ### A KERNEL of a partition without a die in service -/

theorem books_trwDrop (d : Dev) (r : TrwReq) : Books d (d.trwDrop r) := ⟨fun _ _ => rfl, rfl, rfl, fun _ => .inl rfl⟩

/-- Dropping what was accepted early is a matter of the tile sequencers' books. -/
theorem books_dropEarly (d : Dev) (q : Nat) (i : Word) : Books d (d.dropEarly q i) := by
  have hall (l : List (Nat × LaunchSt)) : Books d (d.each l fun d e => (d.trwDrop (.stage e.1)).freeSlot e.1) :=
    foldl_rel Books Books.refl (fun _ _ _ => Books.trans) _ (fun _ _ => (books_trwDrop _ _).trans (books_freeSlot _ _)) l d
  have h := hall (d.launches.filter (fun e => e.2.early && e.2.q = q && e.2.i = i))
  exact ⟨h.rd, h.mem, h.tier, h.core⟩

/-- With every die of the partition fenced, the KERNEL ends and no launch opens. -/
theorem Dev.kernelStart_fenced {d : Dev} {x : Inflight} (hdies : (d.diesOf x.part).all d.fenced = true) :
    d.kernelStart x = (d.dropEarly x.q x.i).finish x (aborted 0x27 0xFFFF) := by
  simp only [Dev.kernelStart, hdies, if_true]

end Sys2Proof.Machine

namespace Sys2Proof.Proofs
open Sys2Proof.Machine Sys2Proof.Safety

/-- Settles O60: the fenced die's number is filtered out of a MODE's units, and the KERNEL's end touches the sequencers' books alone. -/
theorem fencedDiesTakeNoModeAndNoKernel : Obligations.FencedDiesTakeNoModeAndNoKernel := by
  unfold Obligations.FencedDiesTakeNoModeAndNoKernel
  refine fun s c x op n => ⟨fun hn hf u hu => ⟨?_, ?_⟩, fun h hdies => ?_⟩
  · rintro e rfl
    exact Dev.trowel_notMem_modeUnits hn hf hu
  · rintro k rfl
    exact Dev.monitor_notMem_modeUnits hn hf hu
  · have hb : Books s.dev ((s.dev.dropEarly x.q x.i).finish x (aborted 0x27 0xFFFF)) :=
      (books_dropEarly _ _ _).trans (books_setCmd _ _ _ _)
    refine runs_of_does (does_kernel h (Dev.kernelStart_fenced hdies)) (congrArg _ hb.tier) ⟨fun y hy hq hi => ?_, fun k _ => ⟨?_, ?_⟩⟩
    · obtain ⟨hphase, hres⟩ := Dev.finish_ended hy hq hi
      exact ⟨hphase, by rw [hres]; rfl, by rw [hres]; rfl⟩
    · rw [Dev.coreState_refresh, hb.coreState]
    · rw [Dev.core_refresh]
      obtain hc | hc := hb.core k <;> simp [hc]

end Sys2Proof.Proofs

/-! State copies between devices: a PULL goes out, and a peer's is served in the export window (R310, R311). -/

namespace Sys2Proof.Machine

/-! ### A PULL goes out -/

/-- An engine with room takes the only command that waits for it; a PULL asks its peer. -/
theorem Dev.dmaTake_pull {d : Dev} {e : Nat} {x : Inflight} (hroom : (d.dmaHeld e).length < 4) (hwait : d.dmaWaiting e = [x])
    (hop : x.op = 2) {t u : Dev} (ht : d.setCmd x.q x.i (fun y => { y with heldAt := d.queue.nextOrd + 1 }) = t)
    (hu : { t with queue := { t.queue with
      nextOrd := d.queue.nextOrd + 1, rrLast := sset (fun _ => 65535) d.queue.rrLast (16 + e) x.q } } = u) :
    d.dmaTake e = (u.pullAsk x).dmaStat e := by
  subst ht hu
  have hx : bestBy (d.dmaKey e) (d.dmaWaiting e) = some x := by rw [hwait]; rfl
  unfold Dev.dmaTake
  dsimp only
  rw [if_neg (Nat.not_le.mpr hroom), hx]
  simp only [if_pos hop]
  rfl

/-- A PULL of a legal length whose peer is not LOST sends its request. -/
theorem Dev.pullAsk_sends {d : Dev} {x : Inflight} (h0 : x.opd 3 % 2 ^ 32 ≠ 0) (h64 : x.opd 3 % 2 ^ 32 % 64 = 0)
    (hpeer : (d.partner (x.opd 0 % 65536)).state ≠ 2) : d.pullAsk x = d.sendTo
      ⟨3, x.opd 0 % 65536, x.eng / 32 % 2, false, .pullRequest (x.opd 0 / 65536 % 16) (x.opd 1) (x.opd 3 % 2 ^ 32)⟩ := by
  unfold Dev.pullAsk
  dsimp only
  rw [if_neg, if_neg hpeer]
  simp only [Bool.or_eq_true, decide_eq_true_eq, not_or, not_not]
  exact ⟨h64, h0⟩

/-- What `find?` finds of the entries that no other undercuts, where there are entries. -/
theorem find?_least {α : Type} (key : α → Nat) {l : List α} (h : l ≠ []) :
    ∃ x ∈ l, l.find? (fun x => l.all (fun y => key x ≤ key y)) = some x ∧ ∀ y ∈ l, key x ≤ key y := by
  obtain ⟨m, hm, hmin⟩ := Set.exists_min_image {x | x ∈ l} key (List.finite_toSet l) (List.exists_mem_of_ne_nil l h)
  have hsome : (l.find? (fun x => l.all (fun y => key x ≤ key y))).isSome :=
    List.find?_isSome.mpr ⟨m, hm, by simpa using hmin⟩
  obtain ⟨x, hx⟩ := Option.isSome_iff_exists.mp hsome
  exact ⟨x, List.mem_of_find?_eq_some hx, hx, by simpa using List.find?_some hx⟩

/-! ### What a message leaves as it comes from a known device -/

/-- The counts of what a port sends and receives. -/
def linkCount (off : Nat) : Prop := off = rColWireBytesLo ∨ off = rColWireBytesHi ∨ (0xA000000 ≤ off ∧
  (off % 0x10000 = 0x30 ∨ off % 0x10000 = 0x34 ∨ off % 0x10000 = 0x60 ∨ off % 0x10000 = 0x64 ∨ off % 0x10000 = 0x68 ∨
    off % 0x10000 = 0x6C))

theorem linkCount_of_sentReg {off : Nat} (h : sentReg off) : linkCount off := by
  unfold sentReg rColWireBytesLo at h
  unfold linkCount rColWireBytesLo rColWireBytesHi
  omega

theorem Dev.rd_add64_of_ne (d : Dev) {a k : Nat} (h : k ≠ a) (h4 : k ≠ a + 4) (n : Nat) : (d.add64 a n).rd k = d.rd k := by
  unfold Dev.add64
  split
  · rfl
  · rw [Dev.rd_wr64, if_neg h4, if_neg h]

/-- Counting a flit and what it acknowledges changes the ports' counts alone among the registers. -/
theorem Dev.rd_flitCounted (d : Dev) (p : Nat) (f : FlitHdr) (n : Nat) {off : Nat} (h : ¬linkCount off) :
    (d.flitCounted p f n).rd off = d.rd off := by
  have hrx : (d.flitTallied p f n).rd off = d.rd off := by
    unfold linkCount at h
    unfold Dev.flitTallied
    rw [Dev.rd_add64_of_ne _ (by unfold rLnkRxBytesLo; omega) (by unfold rLnkRxBytesLo; omega)]
    split
    · rw [Dev.rd_add64_of_ne _ (by unfold rLnkFecCorrLo; omega) (by unfold rLnkFecCorrLo; omega)]
    · rfl
  refine Eq.trans ?_ hrx
  unfold Dev.flitCounted Dev.flitAcks
  split
  · rfl
  · exact (sendsOn_drain _ _).rd _ fun hs => h (linkCount_of_sentReg hs)

theorem Dev.partners_flitCounted (d : Dev) (p : Nat) (f : FlitHdr) (n : Nat) :
    (d.flitCounted p f n).col.partners = d.col.partners := by
  have hrx : (d.flitTallied p f n).col.partners = d.col.partners := by rw [Dev.flitTallied_eq]
  refine Eq.trans ?_ hrx
  unfold Dev.flitCounted Dev.flitAcks
  split
  · rfl
  · exact (congrArg (fun t : Dev => t.col.partners) (sendsOn_drain _ _).rest :)

/-- Hearing a known device again changes no register. -/
theorem Dev.regs_hear_known {d : Dev} {c : Nat} (h : Sys2Proof.Safety.Known d c) (port : Nat) : (d.hear c none port).regs = d.regs := by
  by_cases hc : c = d.coord
  · rw [Dev.hear, if_pos hc]
  · obtain ⟨hstate, hports⟩ := h
    have hset : d.setPartner c (d.heardEntry c none) = d.withPartner c (d.heardEntry c none) :=
      if_pos (by simp [Dev.heardEntry, hstate, hports])
    have hhear : d.hear c none port = d.withPartner c (d.heardEntry c none) := (if_neg hc).trans ((if_pos hstate).trans hset)
    rw [hhear]
    rfl

/-! ### What an access reaches -/

/-- What a partition's read reaches depends on registers that no port counts in. -/
theorem Dev.reaches_read_congr {d t : Dev} (h : ∀ off, ¬linkCount off → t.rd off = d.rd off) {p : Nat} (hp : p < 8) (src a : Nat) :
    t.reaches ⟨some p, src⟩ false a = d.reaches ⟨some p, src⟩ false a := by
  have hlow {off : Nat} (ho : off < 0x9000000) : t.rd off = d.rd off :=
    h off (by unfold linkCount rColWireBytesLo rColWireBytesHi; omega)
  have hsump : t.rd rSmpStatus = d.rd rSmpStatus := hlow (by decide)
  have hsize : t.sumpSize = d.sumpSize := by
    unfold Dev.sumpSize Dev.rdFld
    rw [hsump]
  have hmap : t.mapped a = d.mapped a := by
    simp only [Dev.mapped, Dev.sumpMapped, hsump, hsize]
  have hfence (n : Nat) : t.fenced n = d.fenced n := by rw [Dev.fenced, Dev.fenced, hlow (by decide)]
  have hdie (n : Nat) : t.partOfDie n = d.partOfDie n := by
    rw [Dev.partOfDie, Dev.partOfDie, Sys2Proof.Proofs.parts_congr (congrArg (fld 5 4) (hlow (by decide)))]
  have hboot : t.bootState = d.bootState :=
    congrArg (fld 3 0) (h rBootState (by unfold linkCount; decide))
  have hwin : t.inWindow p a = d.inWindow p a := by
    simp only [Dev.inWindow, hdie, hlow (off := rTopPHbmwin p) (by unfold rTopPHbmwin; omega),
      hlow (off := rTopPMgdwin p) (by unfold rTopPMgdwin; omega), hlow (off := rTopPSumpwin p) (by unfold rTopPSumpwin; omega)]
  have hpart : t.regPart (a - 0x3F0000000000) = d.regPart (a - 0x3F0000000000) := by
    generalize a - 0x3F0000000000 = o
    have hown {n : Nat} : some (t.partOfDie n) = some (d.partOfDie n) := congrArg some (hdie n)
    unfold Dev.regPart
    dsimp only
    refine ite_congr rfl (fun _ => rfl) fun _ =>
      ite_congr rfl (fun hq => congrArg some (congrArg (fld 26 23) (hlow ?_))) fun _ =>
      ite_congr rfl (fun hc => ?_) fun _ => ite_congr rfl (fun _ => hown) fun _ => ite_congr rfl (fun _ => rfl) fun _ =>
      ite_congr rfl (fun hl => ?_) fun _ => ite_congr rfl (fun _ => hown) fun _ => ite_congr rfl (fun _ => hown) fun _ =>
      ite_congr rfl (fun _ => hown) fun _ => ite_congr rfl (fun _ => rfl) fun _ => ite_congr rfl (fun _ => hown) fun _ =>
      ite_congr rfl (fun _ => rfl) fun _ => ite_congr rfl (fun _ => rfl) fun _ => ite_congr rfl (fun _ => rfl) fun _ =>
      ite_congr rfl (fun _ => rfl) fun _ => ite_congr rfl (fun hm => congrArg some (congrArg (fld 3 0) (h _ ?_))) fun _ => rfl
    · obtain ⟨-, hq⟩ := (Bool.and_eq_true _ _).mp hq
      have hq := of_decide_eq_true hq
      unfold rQmgQCfg
      omega
    · obtain ⟨-, hc⟩ := (Bool.and_eq_true _ _).mp hc
      have hc := of_decide_eq_true hc
      simp only [Dev.cntPart, hlow (off := rQmgCblkOwn ((o % 0x80000000 - 0x1800000) / 8 / 4096)) (by unfold rQmgCblkOwn; omega)]
    · refine ite_congr rfl (fun hs => ?_) fun _ => rfl
      obtain ⟨-, hl⟩ := (Bool.and_eq_true _ _).mp hl
      have hl := of_decide_eq_true hl
      have hslot : rTsqLState ((o % 0x80000000 - 0x3000000) / 0x800000) (((o % 0x80000000 - 0x3000000) % 0x800000 - 0x100000) / 0x1000) < 0x5000000 := by
        unfold rTsqLState
        omega
      unfold Dev.rdFld
      rw [hlow (hslot.trans (by decide)), hlow ((Nat.add_lt_add_right hslot 4).trans (by decide))]
    · obtain ⟨hlo, -⟩ := (Bool.and_eq_true _ _).mp hm
      have hlo := of_decide_eq_true hlo
      unfold linkCount rColWireBytesLo rColWireBytesHi rMbxOwn
      omega
  have hpocket (hpk : isPocket a = true) : t.coreState ((a - 0x210000000000) / 0x200000) = d.coreState ((a - 0x210000000000) / 0x200000) := by
    unfold isPocket at hpk
    simp only [Bool.and_eq_true, decide_eq_true_eq] at hpk
    exact congrArg (fld 2 0) (hlow (by unfold rCoreStatus; omega))
  unfold Dev.reaches
  rw [hmap]
  refine congrArg₂ (· && ·) (congrArg _ ?_) ?_
  · refine ite_congr rfl (fun _ => by rw [hfence]) fun _ => ite_congr rfl (fun hpk => ?_) fun _ => rfl
    dsimp only
    rw [hfence, hboot, hpocket hpk]
  · simp only [Bool.false_and, Bool.or_false, hwin]
    refine ite_congr rfl (fun _ => by rw [hpart]) fun _ => rfl

/-! ### Serving a peer (R311) -/

section Serve

variable {d : Dev} {hub q peer a n : Nat}

/-- A peer's read inside the open window, of granules that the partition reaches, is answered with their bytes. -/
theorem Dev.pullServe_inside (hon : bitOf 0 (d.rd (rColExpCtl q)) = true) (hlo : d.rd64 (rColExpBaseLo q) ≤ a)
    (hhi : a + n ≤ d.rd64 (rColExpBaseLo q) + d.rd64 (rColExpSizeLo q))
    (hreach : (granules a n).all (fun g => d.reaches ⟨some q, srcNo (16 + hub) 0x040⟩ false g.1) = true) :
    let r := d.readMem ⟨some q, srcNo (16 + hub) 0x040⟩ a n
    let ps := sortNat (r.1.data.zipIdx.filterMap (fun e => if e.1.2 then some (e.2 / 64) else none))
    d.pullServe hub q peer a n = (r.2.add64 (rColExpBytesLo q) n).sendTo
      ⟨3, peer, hub, !ps.isEmpty, .pullReply r.1.bytes ps⟩ := by
  unfold Dev.pullServe
  exact if_neg (by simp [hon, hlo, hhi, hreach])

/-- A peer's read outside the window is answered with poison. -/
theorem Dev.pullServe_outside (h : ¬(bitOf 0 (d.rd (rColExpCtl q)) = true ∧ d.rd64 (rColExpBaseLo q) ≤ a ∧
    a + n ≤ d.rd64 (rColExpBaseLo q) + d.rd64 (rColExpSizeLo q))) :
    d.pullServe hub q peer a n = (d.addSat (rColExpRefused q) 1).sendTo
      ⟨3, peer, hub, !(List.range (cdiv n 64)).isEmpty, .pullReply (List.replicate n 0) (List.range (cdiv n 64))⟩ := by
  unfold Dev.pullServe
  refine if_pos ?_
  rw [Bool.or_eq_true]
  refine .inl ?_
  rw [Bool.not_eq_true']
  by_contra hin
  simp only [Bool.not_eq_false, Bool.and_eq_true, decide_eq_true_eq] at hin
  exact h ⟨hin.1.1, hin.1.2, hin.2⟩

end Serve

theorem fld_zero_zero {w : Word} (h : bitOf 0 w = true) : fld 0 0 w = 1 := by
  have hodd : w.toNat % 2 = 1 := by simpa [bitOf, BitVec.getLsbD] using h
  simpa [fld] using hodd

/-- EN = 1 opens an export window that the partition's windows hold. -/
theorem Dev.expCtl_opens {d : Dev} {p : Nat} {v : Word} (hv : bitOf 0 v = true)
    (hholds : d.windowHolds p (d.rd64 (rColExpBaseLo p)) (d.rd64 (rColExpSizeLo p)) = true) :
    d.expCtl p v = d.wr (rColExpCtl p) 1 := by
  unfold Dev.expCtl
  dsimp only
  rw [hholds, Bool.not_true, Bool.and_false, if_neg Bool.false_ne_true, fld_zero_zero hv]
  rfl

end Sys2Proof.Machine

namespace Sys2Proof.Proofs
open Sys2Proof.Machine Sys2Proof.Safety

/-- The registers of partition `q`'s export window: its base, its size and its control. -/
def exportReg (q off : Nat) : Prop := 0x9800080 + 0x1000 * q ≤ off ∧ off ≤ 0x9800090 + 0x1000 * q

theorem not_linkCount_export (q : Fin 8) {off : Nat} (h : exportReg q off) : ¬linkCount off := by
  unfold exportReg at h
  unfold linkCount rColWireBytesLo rColWireBytesHi
  omega

theorem not_recvReg_export (q : Fin 8) {off : Nat} (h : exportReg q off) : ¬recvReg off := by
  unfold exportReg at h
  unfold recvReg noteReg sentReg memReg rColErr rColErrInfo rColEvtHead rColWireBytesLo
  simp only [Bool.or_eq_true, Bool.and_eq_true, decide_eq_true_eq]
  omega

theorem export_congr {d t : Dev} (q : Nat) (h : ∀ off, exportReg q off → t.rd off = d.rd off) :
    t.rd (rColExpCtl q) = d.rd (rColExpCtl q) ∧ t.rd64 (rColExpBaseLo q) = d.rd64 (rColExpBaseLo q) ∧
      t.rd64 (rColExpSizeLo q) = d.rd64 (rColExpSizeLo q) := by
  unfold exportReg at h
  refine ⟨h _ ?_, Dev.rd64_congr (h _ ?_) (h _ ?_), Dev.rd64_congr (h _ ?_) (h _ ?_)⟩ <;>
    simp only [rColExpCtl, rColExpBaseLo, rColExpSizeLo] <;> omega

section Serve

variable {s : State} {p : Fin 24} {f : FlitHdr} {q : Fin 8} {a : BitVec 48} {n : Nat}

/-- A message of a known device changes the ports' counts alone before it acts. -/
theorem rd_heard_known {d : Dev} (h : FlitOk d p f .traffic) (hknown : Known d f.src.toNat) (k m : Nat) {off : Nat}
    (hoff : ¬linkCount off) : ((taken d p f k).flitHeard p f .traffic m none).rd off = d.rd off := by
  rw [Dev.flitHeard_up p.isLt (portState_taken h k) f (by decide)]
  have hrecv : Receives d (((taken d p f k).flitCounted p f m).unsilenced p f.src.toNat) :=
    ((receives_taken d p f k).trans (receives_flitCounted _ p f m)).trans (receives_setPort _ _ _)
  have htaken : (taken d p f k).regs = d.regs ∧ (taken d p f k).col.partners = d.col.partners := by
    unfold taken
    split <;> exact ⟨rfl, rfl⟩
  obtain ⟨hregs, hpartners⟩ := htaken
  have hk := known_of_receives hrecv ((Dev.partners_flitCounted _ p f m).trans hpartners) hknown
  calc _ = ((taken d p f k).flitCounted p f m).rd off := congrArg (sget resetOf · off) (Dev.regs_hear_known hk p)
    _ = (taken d p f k).rd off := Dev.rd_flitCounted _ p f m hoff
    _ = d.rd off := congrArg (sget resetOf · off) hregs

/-- A taken message does what its act does in the device that has heard it. -/
theorem does_pullServe (h : FlitOk s.dev p f .traffic) {act : Dev → Dev}
    (hact : ((taken s.dev p f 1).flitHeard p f .traffic 240 none).pullServe (p.val / 12) q f.src.toNat a.toNat n =
      act ((taken s.dev p f 1).flitHeard p f .traffic 240 none)) :
    Does (.pullServe ⟨p, f⟩ q a n) s ((taken s.dev p f 1).accept p f .traffic 240 none act) := by
  refine does_of_run (f := fun d => d.flitIn p f .traffic 1 240 none fun d => d.pullServe (p.val / 12) q f.src.toNat a.toNat n) rfl ?_
  rw [flitIn_ok h, Dev.accept_eq, Dev.accept_eq, hact]

end Serve

/-- Settles O7: before a taken message acts it counts on its port alone, so the window and what the partition reaches are as they
were. -/
theorem pullReadsAreServedInTheWindow : Obligations.PullReadsAreServedInTheWindow := by
  unfold Obligations.PullReadsAreServedInTheWindow
  refine ⟨?_, ?_, ?_⟩
  · intro s e x n took hwait hop hroom h0 h64 hpeer
    have heng : x.eng = e.val := by
      have hprops := (List.mem_filter.mp (hwait.symm ▸ List.mem_singleton_self x :)).2
      simp only [Bool.and_eq_true, decide_eq_true_eq] at hprops
      exact hprops.1.1
    have hpartner : took.partner (x.opd 0 % 65536) = s.dev.partner (x.opd 0 % 65536) := rfl
    have htake : s.dev.dmaTake e = (took.pullAsk x).dmaStat e := Dev.dmaTake_pull hroom hwait hop rfl rfl
    clear_value took
    rw [Dev.pullAsk_sends h0 h64 (by rwa [hpartner]), heng] at htake
    exact does_dmaEngineStart htake
  · intro d o p a n hkind load hroutes
    obtain ⟨q, hq, hfind, hleast⟩ := find?_least load hroutes
    have hport : d.portFor o = some q := by
      unfold Dev.portFor
      rw [hkind]
      exact hfind
    exact ⟨q, hq, by rw [Dev.sendTo, hport], hleast⟩
  · intro s o p f q v a n base size hub acc inside marks reply
    refine ⟨fun hflit => ⟨?_, ?_⟩, ?_⟩
    · rintro ⟨hon, hlo, hhi⟩ hreach hknown
      have hrd {off : Nat} (h : ¬linkCount off) := rd_heard_known (k := 1) (m := 240) hflit hknown h
      obtain ⟨hctl, hbase, hsize⟩ := export_congr q fun off ho => hrd (not_linkCount_export q ho)
      refine does_pullServe hflit (Dev.pullServe_inside ?_ ?_ ?_ ?_)
      · rwa [hctl]
      · rwa [hbase]
      · rwa [hbase, hsize]
      · simp only [Dev.reaches_read_congr (fun _ => hrd) q.isLt]
        exact hreach
    · intro hout
      obtain ⟨hctl, hbase, hsize⟩ := export_congr q fun off ho => (receives_heard hflit 1 240 none).rd off (not_recvReg_export q ho)
      refine does_pullServe hflit (Dev.pullServe_outside ?_)
      rwa [hctl, hbase, hsize]
    · intro hreach hoff
      have hrun (u : Dev) (hu : s.dev.expCtl q (setBit 0 true v) = u) : Does (.colExpEnable o q v) s u :=
        does_of_run (f := fun d => d.rowWr o (rColExpCtl q) (setBit 0 true v)) rfl ((rowWr_rColExpCtl _ _ _ q.isLt hreach).trans hu)
      have hon : bitOf 0 (setBit 0 true v) = true := bitOf_setBit_same _ _ _ (by decide)
      exact ⟨fun hholds => hrun _ (Dev.expCtl_opens hon hholds), fun hholds => hrun _ (if_pos (by rw [hon, hoff, hholds]; rfl))⟩

end Sys2Proof.Proofs

/-! Reference clocks, gating and wakes (R317 to R327). -/

namespace Sys2Proof.Machine

/-! ### The references' status (R317 to R319) -/

section Status

variable {d t : Dev}

theorem Dev.refHold_congr (h : t.rd rClkStatus = d.rd rClkStatus) (n : Nat) : t.refHold n = d.refHold n := congrArg (bitOf (2 + n)) h

theorem Dev.refLost_congr (h : t.rd rClkStatus = d.rd rClkStatus) (n : Nat) : t.refLost n = d.refLost n := congrArg (bitOf (8 + n)) h

theorem Dev.refOk_congr (h : t.rd rClkStatus = d.rd rClkStatus) (n : Nat) : t.refOk n = d.refOk n := by
  rw [Dev.refOk, Dev.refOk, Dev.refHold_congr h, Dev.refLost_congr h]

theorem Dev.sel_congr (h : t.rd rClkStatus = d.rd rClkStatus) : t.rdFld rClkStatus 1 0 = d.rdFld rClkStatus 1 0 :=
  congrArg (fld 1 0) h

end Status

/-- The reference that R317 selects in `d`, where the PLLs followed `cur`. -/
def Dev.selected (d : Dev) (cur : Nat) : Nat :=
  if d.refOk 0 = true then 0 else if cur < 2 ∧ d.refHold cur = true then cur else if d.refOk 1 = true then 1 else 2

theorem Dev.selected_congr {d t : Dev} (h : t.rd rClkStatus = d.rd rClkStatus) (cur : Nat) : t.selected cur = d.selected cur := by
  unfold Dev.selected
  rw [Dev.refOk_congr h, Dev.refOk_congr h, Dev.refHold_congr h]

/-- Selecting writes SYSSEL alone. -/
theorem Dev.rd_sysSel_ne (d : Dev) {off : Nat} (h : off ≠ rClkStatus) : d.sysSel.rd off = d.rd off := Dev.rd_wr_ne _ _ h

theorem Dev.bitOf_sysSel (d : Dev) {n : Nat} (h : 1 < n) : bitOf n (d.sysSel.rd rClkStatus) = bitOf n (d.rd rClkStatus) := by
  unfold Dev.sysSel
  rw [Dev.rd_wrFld, if_pos rfl, bitOf_setFld_ne _ _ _ _ _ (.inr h)]

theorem Dev.refHold_sysSel (d : Dev) (n : Nat) : d.sysSel.refHold n = d.refHold n := d.bitOf_sysSel (by omega)

theorem Dev.refLost_sysSel (d : Dev) (n : Nat) : d.sysSel.refLost n = d.refLost n := d.bitOf_sysSel (by omega)

theorem Dev.refOk_sysSel (d : Dev) (n : Nat) : d.sysSel.refOk n = d.refOk n := by
  rw [Dev.refOk, Dev.refOk, Dev.refHold_sysSel, Dev.refLost_sysSel]

theorem Dev.selected_lt (d : Dev) (cur : Nat) : d.selected cur < 4 := by
  unfold Dev.selected
  split
  · decide
  · split
    · omega
    · split <;> decide

theorem Dev.sysSel_eq (d : Dev) : d.sysSel = d.wrFld rClkStatus 1 0 (d.selected (d.rdFld rClkStatus 1 0)) := by
  unfold Dev.sysSel Dev.selected
  dsimp only
  refine congrArg _ (if_congr Iff.rfl rfl (if_congr ?_ rfl rfl))
  rw [Bool.and_eq_true, decide_eq_true_eq]

theorem Dev.rdFld_sysSel (d : Dev) : d.sysSel.rdFld rClkStatus 1 0 = d.sysSel.selected (d.rdFld rClkStatus 1 0) := by
  have hsel : d.sysSel.selected (d.rdFld rClkStatus 1 0) = d.selected (d.rdFld rClkStatus 1 0) := by
    unfold Dev.selected
    rw [Dev.refOk_sysSel, Dev.refOk_sysSel, Dev.refHold_sysSel]
  rw [hsel, Dev.sysSel_eq, Dev.rdFld, Dev.rd_wrFld, if_pos rfl, fld_setFld_same _ _ _ _ (by decide)]
  exact Nat.mod_eq_of_lt (d.selected_lt _)

/-- A reference is marked held or lost, and SYSSEL follows. -/
def Dev.marked (d : Dev) (n : Nat) (lost : Bool) : Dev :=
  (d.wr rClkStatus (setBit (8 + n) lost (setBit (2 + n) false (d.rd rClkStatus)))).sysSel

section Marked

variable (d : Dev) (n : Nat) (lost : Bool)

theorem Dev.rd_marked_ne {off : Nat} (h : off ≠ rClkStatus) : (d.marked n lost).rd off = d.rd off :=
  (Dev.rd_sysSel_ne _ h).trans (Dev.rd_wr_ne _ _ h)

theorem Dev.refHold_marked (h : n < 6) : (d.marked n lost).refHold n = false := by
  rw [Dev.marked, Dev.refHold_sysSel, Dev.refHold, Dev.rd_wr_same, bitOf_setBit_ne _ _ _ _ (by omega), bitOf_setBit_same _ _ _ (by omega)]

theorem Dev.refLost_marked (h : n < 6) : (d.marked n lost).refLost n = lost := by
  rw [Dev.marked, Dev.refLost_sysSel, Dev.refLost, Dev.rd_wr_same, bitOf_setBit_same _ _ _ (by omega)]

theorem Dev.refLost_marked_ne {m : Nat} (h : n < 6) (hne : m ≠ n) : (d.marked n lost).refLost m = d.refLost m := by
  rw [Dev.marked, Dev.refLost_sysSel, Dev.refLost, Dev.rd_wr_same, bitOf_setBit_ne _ _ _ _ (by omega),
    bitOf_setBit_ne _ _ _ _ (by omega), Dev.refLost]

theorem Dev.rdFld_marked : (d.marked n lost).rdFld rClkStatus 1 0 = (d.marked n lost).selected (d.rdFld rClkStatus 1 0) := by
  rw [Dev.marked, Dev.rdFld_sysSel]
  refine congrArg _ ?_
  rw [Dev.rdFld, Dev.rd_wr_same, fld_setBit_ne _ _ _ _ _ (by omega), fld_setBit_ne _ _ _ _ _ (by omega), Dev.rdFld]

end Marked

/-! ### A monitor window (R318) -/

/-- The device in which the glitches of a window of reference `n` have been counted. -/
def Dev.glitched (d : Dev) (n k : Nat) : Dev := if k = 0 then d else (d.addSat (rClkGlitch n) k).clkErr 3

theorem satAdd32_zero (w : Word) : satAdd32 w 0 = w := by
  unfold satAdd32
  rw [Nat.add_zero, Nat.min_eq_left (by have := w.isLt; omega), BitVec.ofNat_toNat, BitVec.setWidth_eq]

section Window

variable (d : Dev) (n k : Nat)

theorem Dev.rd_addSat_self (off : Nat) : (d.addSat off k).rd off = satAdd32 (d.rd off) k := by
  unfold Dev.addSat
  split
  · next h => rw [h, satAdd32_zero]
  · exact Dev.rd_wr_same _ _ _

theorem Dev.rd_addSat_other {a off : Nat} (h : off ≠ a) : (d.addSat a k).rd off = d.rd off := by
  unfold Dev.addSat
  split
  · rfl
  · exact Dev.rd_wr_ne _ _ h

theorem Dev.rd_glitched_status : (d.glitched n k).rd rClkStatus = d.rd rClkStatus := by
  unfold Dev.glitched
  split
  · rfl
  · rw [Dev.clkErr, Dev.rd_wr_ne _ _ (by decide), Dev.rd_addSat_other _ _ (by unfold rClkStatus rClkGlitch; omega)]

theorem Dev.rd_glitched_count : (d.glitched n k).rd (rClkGlitch n) = satAdd32 (d.rd (rClkGlitch n)) k := by
  unfold Dev.glitched
  split
  · next h => rw [h, satAdd32_zero]
  · rw [Dev.clkErr, Dev.rd_wr_ne _ _ (by unfold rClkErr rClkGlitch; omega), Dev.rd_addSat_self]

theorem Dev.bitOf_glitched (h : k ≠ 0) : bitOf 3 ((d.glitched n k).rd rClkErr) = true := by
  rw [Dev.glitched, if_neg h, Dev.clkErr, Dev.rd_wr_same, bitOf_setBit_same _ _ _ (by decide)]

theorem Dev.glitched_still : (d.glitched n k).mem = d.mem ∧ (d.glitched n k).tier = d.tier := by
  unfold Dev.glitched
  split
  · exact ⟨rfl, rfl⟩
  · next h =>
    rw [Dev.addSat, if_neg h]
    exact ⟨rfl, rfl⟩

end Window

/-- The device in which a window's glitches and its offset show. -/
def Dev.observed (d : Dev) (n : Nat) (w : ClkWindow) : Dev := (d.glitched n w.glitches).wr (rClkPpm n) (BitVec.ofInt 32 w.ppm)

/-- The return of a reference, counted where it was held. -/
def Dev.returned (d : Dev) (n : Nat) : Dev := if d.refHold n then d.addSat (rClkGlitch n) 1 else d

theorem Dev.clkWindow_eq (d : Dev) (n : Nat) (w : ClkWindow) : d.clkWindow n w =
    if 500 < w.ppm.natAbs then (d.observed n w).clkLoss n else ((d.observed n w).returned n).marked n false := rfl

section Window

variable (d : Dev) {n : Nat} (hn : n < 6) (w : ClkWindow)

theorem Dev.rd_returned_ne {off : Nat} (h : off ≠ rClkGlitch n) : (d.returned n).rd off = d.rd off := by
  unfold Dev.returned
  split
  · exact d.rd_addSat_other _ h
  · rfl

theorem Dev.returned_still : (d.returned n).mem = d.mem ∧ (d.returned n).tier = d.tier := by
  unfold Dev.returned Dev.addSat
  split <;> exact ⟨rfl, rfl⟩

theorem Dev.rd_clkLoss_ne {off : Nat} (h : off ≠ rClkStatus) (he : off ≠ rClkErr) : (d.clkLoss n).rd off = d.rd off := by
  unfold Dev.clkLoss
  split
  · rfl
  · rw [Dev.rd_wr_ne _ _ h, Dev.clkErr, Dev.rd_wr_ne _ _ he]

/-- A loss sets CLK_ERR.LOSS and leaves the other bits. -/
theorem Dev.bitOf_clkLoss {b : Nat} (h : b ≠ 1) : bitOf b ((d.clkLoss n).rd rClkErr) = bitOf b (d.rd rClkErr) := by
  unfold Dev.clkLoss
  split
  · rfl
  · rw [Dev.rd_wr_ne _ _ (by decide), Dev.clkErr, Dev.rd_wr_same, bitOf_setBit_ne _ _ _ _ h]

theorem Dev.clkLoss_still : (d.clkLoss n).mem = d.mem ∧ (d.clkLoss n).tier = d.tier := by
  unfold Dev.clkLoss
  split <;> exact ⟨rfl, rfl⟩

theorem Dev.clkLoss_holds (hn : n < 6) (h : d.refLost n = false) :
    (d.clkLoss n).refHold n = true ∧ bitOf 1 ((d.clkLoss n).rd rClkErr) = true := by
  rw [Dev.clkLoss, h, if_neg Bool.false_ne_true, Dev.refHold, Dev.rd_wr_same, Dev.rd_wr_ne _ _ (by decide), Dev.clkErr, Dev.rd_wr_same]
  exact ⟨bitOf_setBit_same _ _ _ (by omega), bitOf_setBit_same _ _ _ (by decide)⟩

theorem Dev.rd_observed_ne {off : Nat} (h : off ≠ rClkPpm n) : (d.observed n w).rd off = (d.glitched n w.glitches).rd off :=
  Dev.rd_wr_ne _ _ h

theorem Dev.rd_observed_status : (d.observed n w).rd rClkStatus = d.rd rClkStatus :=
  (d.rd_observed_ne w (by unfold rClkStatus rClkPpm; omega)).trans (d.rd_glitched_status _ _)

end Window

end Sys2Proof.Machine

namespace Sys2Proof.Machine

/-! ### Gating (R320, R324) -/

/-- A core that runs nothing and belongs to no launch. -/
def Dev.idleCore (d : Dev) (c : Nat) : Prop :=
  d.coreState c = 1 ∧ (d.core c).ents = [] ∧ (d.core c).held = [] ∧ (d.core c).launch = none

section Gate

variable {d : Dev} {c : Nat}

theorem Dev.clockGate_idle (h : d.idleCore c) : d.clockGate c = d.setCoreState c 3 := by
  obtain ⟨hstate, hents, hheld, hlaunch⟩ := h
  exact if_pos (by rw [hstate, hents, hheld, hlaunch]; rfl)

theorem Dev.clockGate_busy (h : ¬d.idleCore c) : d.clockGate c = d := by
  refine if_neg fun hc => h ?_
  simp only [Bool.and_eq_true, decide_eq_true_eq, List.isEmpty_iff, Option.isNone_iff_eq_none] at hc
  obtain ⟨⟨⟨hstate, hents⟩, hheld⟩, hlaunch⟩ := hc
  exact ⟨hstate, hents, hheld, hlaunch⟩

theorem Dev.powerGate_allowed {g : Dev} (h : d.coreState c = 3) (hg : d.gateStep (c / 192) 8 = some g) :
    d.powerGate c = g.setCoreState c 4 := by
  rw [Dev.powerGate, if_neg (not_not.mpr h), hg]

theorem Dev.powerGate_refused (h : d.coreState c ≠ 3 ∨ d.gateStep (c / 192) 8 = none) : d.powerGate c = d := by
  unfold Dev.powerGate
  split
  · rfl
  · next hc => rw [h.resolve_left hc]

/-- A die all of whose cores in service are POWER_GATED, and that no KERNEL needs. -/
def Dev.mayNap (d : Dev) (n : Nat) : Prop :=
  d.inNap n = false ∧ (∀ c ∈ (rangeFrom (192 * n) 192).filter (fun c => d.coreState c ≠ 0 && d.coreState c ≠ 5), d.coreState c = 4) ∧
    d.kernelNear (d.partOfDie n) = false ∧ d.fenced n = false

theorem Dev.regs_gateStep {r m : Nat} {g : Dev} (h : d.gateStep r m = some g) : g.regs = d.regs := by
  unfold Dev.gateStep at h
  obtain ⟨-, hg⟩ := Option.ite_none_right_eq_some.mp h
  cases hg
  rfl

theorem Dev.napDie_naps {n : Nat} {g : Dev} (h : d.mayNap n) (hg : d.gateStep n 32 = some g) :
    d.napDie n = g.wr rPwrStatus (setBit (8 + n) true (d.rd rPwrStatus)) := by
  have hrd : g.rd rPwrStatus = d.rd rPwrStatus := congrArg (sget resetOf · _) (Dev.regs_gateStep hg)
  unfold Dev.napDie
  dsimp only
  rw [if_pos, hg, ← hrd]
  obtain ⟨hnap, hgated, hkernel, hfenced⟩ := h
  rw [hnap, hkernel, hfenced, List.all_eq_true.mpr fun c hc => decide_eq_true (hgated c hc)]
  rfl

theorem Dev.napDie_stays {n : Nat} (h : ¬d.mayNap n ∨ d.gateStep n 32 = none) : d.napDie n = d := by
  unfold Dev.napDie
  dsimp only
  split
  · next hc =>
    simp only [Bool.and_eq_true, Bool.not_eq_true', List.all_eq_true, decide_eq_true_eq] at hc
    obtain ⟨⟨⟨hnap, hgated⟩, hkernel⟩, hfenced⟩ := hc
    rw [h.resolve_left (not_not.mpr ⟨hnap, hgated, hkernel, hfenced⟩)]
  · rfl

end Gate

/-! ### Wakes (R323, R327) -/

/-- The wake that a rail grants next. -/
def Dev.nextWake (d : Dev) (r : Nat) : Option WakeReq :=
  bestBy (fun (v : WakeReq) => v.prio) (d.pwr.wakes.filter (fun v => wakeRail v.unit = r && d.wakeWaits v))

section Wake

variable {d : Dev} {r : Nat} {q : WakeReq}

theorem Dev.wakeGrant_grants (h : d.nextWake r = some q) (hcost : wakeCost q.unit ≤ d.credit r) : d.wakeGrant r =
    { d with pwr := { d.pwr with
      wakes := mapIf (fun (v : WakeReq) => v.unit = q.unit) (fun v => { v with granted := true }) d.pwr.wakes
      credits := sset (fun _ => 256) d.pwr.credits r (d.credit r - wakeCost q.unit) } }.add64 rPwrWakeWaitLo (d.now - q.since) := by
  unfold Dev.nextWake at h
  unfold Dev.wakeGrant
  dsimp only
  rw [h]
  exact if_neg (Nat.not_lt.mpr hcost)

theorem Dev.wakeGrant_waits (h : d.nextWake r = none ∨ d.nextWake r = some q ∧ d.credit r < wakeCost q.unit) : d.wakeGrant r = d := by
  unfold Dev.nextWake at h
  unfold Dev.wakeGrant
  dsimp only
  obtain h | ⟨h, hcost⟩ := h <;> rw [h]
  exact if_pos hcost

/-- The device in which the wake of `u` is no longer awaited. -/
def Dev.woken (d : Dev) (u : WakeUnit) : Dev := { d with pwr := { d.pwr with wakes := d.pwr.wakes.filter (fun v => v.unit ≠ u) } }

theorem Dev.awake_core {c : Fin 1536} (h : d.pwr.wakes.find? (fun v => v.unit = .core c) = some q) (hg : q.granted = true)
    (hs : d.coreState c = 3 ∨ d.coreState c = 4) : d.awake (.core c) = (d.woken (.core c)).setCoreState c 1 := by
  unfold Dev.awake
  rw [h]
  simp only [hg, Bool.true_or, Bool.not_true, Bool.false_eq_true, if_false]
  refine if_pos ?_
  rw [Bool.or_eq_true, decide_eq_true_eq, decide_eq_true_eq]
  exact hs

theorem Dev.awake_die {e : Fin 8} (h : d.pwr.wakes.find? (fun v => v.unit = .die e) = some q) (hg : q.granted = true) :
    d.awake (.die e) =
      (let risen := (d.woken (.die e)).wr rPwrStatus (setBit (8 + e.val) false (d.rd rPwrStatus))
      if d.rdFld rPwrStatus 1 0 = 1 then risen.wrFld rPwrStatus 1 0 0 else risen) := by
  unfold Dev.awake
  rw [h]
  simp only [hg, Bool.true_or, Bool.not_true, Bool.false_eq_true, if_false]
  refine if_congr ?_ rfl rfl
  rw [Dev.rdFld, Dev.rd_wr_same, fld_setBit_ne _ _ _ _ _ (by omega)]
  rfl

theorem Dev.awake_bank {e : Fin 8} {col : Fin 192} {b : Fin 8} (h : d.pwr.wakes.find? (fun v => v.unit = .bank e col b) = some q)
    (hg : q.granted = true) : d.awake (.bank e col b) = { (d.woken (.bank e col b)) with
      mem := { d.mem with retained := delNat ((e.val * 192 + col.val) * 8 + b.val) d.mem.retained } } := by
  unfold Dev.awake
  rw [h]
  simp only [hg, Bool.true_or, Bool.not_true, Bool.false_eq_true, if_false]
  rfl

theorem Dev.awake_none {u : WakeUnit} (h : d.pwr.wakes.find? (fun v => v.unit = u) = none) : d.awake u = d := by
  unfold Dev.awake
  rw [h]

theorem Dev.portWake_standby {p : Nat} (h : d.rdFld rPwrStatus 1 0 = 2) (hw : d.mgmt.wake = none) : d.portWake p = d.startWake [p] 0 := by
  simp only [Dev.portWake, h, hw]

theorem Dev.portWake_idle {p : Nat} (h : d.rdFld rPwrStatus 1 0 = 1) : d.portWake p = (d.wrFld rPwrStatus 1 0 0).trainPort p := by
  simp only [Dev.portWake, h]

theorem Dev.portWake_on {p : Nat} (h1 : d.rdFld rPwrStatus 1 0 ≠ 1) (h2 : d.rdFld rPwrStatus 1 0 ≠ 2) :
    d.portWake p = d.trainPort p := by
  unfold Dev.portWake
  split
  · next h => exact absurd h h2
  · next h => exact absurd h h1
  · rfl

end Wake

end Sys2Proof.Machine

namespace Sys2Proof.Proofs
open Sys2Proof.Machine Sys2Proof.Safety

section Window

variable {s : State} {n : Fin 6} (w : ClkWindow)

theorem does_clkMonitorWindow {u : Dev} (h : s.dev.clkWindow n w = u) : Does (.clkMonitorWindow n w) s u :=
  does_of_run (f := fun d => d.clkWindow n w) rfl h

theorem clkWindow_still (d : Dev) : (d.clkWindow n w).mem = d.mem ∧ (d.clkWindow n w).tier = d.tier := by
  have hseen := d.glitched_still n w.glitches
  rw [Dev.clkWindow_eq]
  split
  · have hloss := (d.observed n w).clkLoss_still (n := n)
    exact ⟨hloss.1.trans hseen.1, hloss.2.trans hseen.2⟩
  · have hret := (d.observed n w).returned_still (n := n)
    exact ⟨hret.1.trans hseen.1, hret.2.trans hseen.2⟩

/-- A window that the clock tree sees: what shows of it whether or not the reference is in service. -/
theorem rd_clkWindow_counts (d : Dev) : (d.clkWindow n w).rd (rClkPpm n) = BitVec.ofInt 32 w.ppm ∧
    (w.glitches ≠ 0 → bitOf 3 ((d.clkWindow n w).rd rClkErr) = true) ∧
    (d.refHold n = false → (d.clkWindow n w).rd (rClkGlitch n) = satAdd32 (d.rd (rClkGlitch n)) w.glitches) := by
  have hppm : (d.observed n w).rd (rClkPpm n) = BitVec.ofInt 32 w.ppm := Dev.rd_wr_same _ _ _
  have herr : w.glitches ≠ 0 → bitOf 3 ((d.observed n w).rd rClkErr) = true := fun h => by
    rw [Dev.rd_observed_ne _ _ (by unfold rClkErr rClkPpm; omega)]
    exact d.bitOf_glitched n _ h
  have hcount : (d.observed n w).rd (rClkGlitch n) = satAdd32 (d.rd (rClkGlitch n)) w.glitches := by
    rw [Dev.rd_observed_ne _ _ (by unfold rClkGlitch rClkPpm; omega), Dev.rd_glitched_count]
  have hhold : (d.observed n w).refHold n = d.refHold n := Dev.refHold_congr (d.rd_observed_status w) n
  rw [Dev.clkWindow_eq]
  split
  · refine ⟨?_, fun h => ?_, fun _ => ?_⟩
    · rwa [Dev.rd_clkLoss_ne _ (by unfold rClkPpm rClkStatus; omega) (by unfold rClkPpm rClkErr; omega)]
    · rw [Dev.bitOf_clkLoss _ (by decide)]
      exact herr h
    · rwa [Dev.rd_clkLoss_ne _ (by unfold rClkGlitch rClkStatus; omega) (by unfold rClkGlitch rClkErr; omega)]
  · refine ⟨?_, fun h => ?_, fun h => ?_⟩
    · rwa [Dev.rd_marked_ne _ _ _ (by unfold rClkPpm rClkStatus; omega), Dev.rd_returned_ne _ (by unfold rClkPpm rClkGlitch; omega)]
    · rw [Dev.rd_marked_ne _ _ _ (by decide), Dev.rd_returned_ne _ (by unfold rClkErr rClkGlitch; omega)]
      exact herr h
    · rw [Dev.rd_marked_ne _ _ _ (by unfold rClkGlitch rClkStatus; omega), Dev.returned, hhold, h, if_neg Bool.false_ne_true]
      exact hcount

/-- An offset within 500 ppm returns the reference to service. -/
theorem clkWindow_returns (d : Dev) (h : w.ppm.natAbs ≤ 500) : (d.clkWindow n w).refHold n = false ∧
    (d.clkWindow n w).refLost n = false ∧
    (d.clkWindow n w).rdFld rClkStatus 1 0 = (d.clkWindow n w).selected (d.rdFld rClkStatus 1 0) := by
  have hsel : ((d.observed n w).returned n).rdFld rClkStatus 1 0 = d.rdFld rClkStatus 1 0 :=
    Dev.sel_congr ((Dev.rd_returned_ne _ (by unfold rClkStatus rClkGlitch; omega)).trans (d.rd_observed_status w))
  rw [Dev.clkWindow_eq, if_neg (Nat.not_lt.mpr h), ← hsel]
  exact ⟨Dev.refHold_marked _ _ _ n.isLt, Dev.refLost_marked _ _ _ n.isLt, Dev.rdFld_marked _ _ _⟩

/-- An offset beyond 500 ppm makes the reference's PLLs hold. -/
theorem clkWindow_holds (d : Dev) (h : 500 < w.ppm.natAbs) (hlost : d.refLost n = false) :
    (d.clkWindow n w).refHold n = true ∧ bitOf 1 ((d.clkWindow n w).rd rClkErr) = true := by
  rw [Dev.clkWindow_eq, if_pos h]
  exact Dev.clkLoss_holds _ n.isLt ((Dev.refLost_congr (d.rd_observed_status w) n).trans hlost)

end Window

/-- Settles O42: a window's marks are bits of CLK_STATUS that the selection leaves; the others are one branch of their command each. -/
theorem clocksAndWakesFollowTheirRules : Obligations.ClocksAndWakesFollowTheirRules := by
  unfold Obligations.ClocksAndWakesFollowTheirRules
  intro s n w c e col b r q p g d k idle cs naps waiting woken found risen asleep
  refine ⟨?_, fun h => ?_, fun h => ?_, fun h => ?_, fun h => ?_, fun h hg => ?_, fun h => ?_, fun h hg => ?_, fun h => ?_,
    fun _ _ => rfl, ?_, fun h hcost => ?_, fun h => ?_, fun ⟨h, hg⟩ hs => ?_, fun ⟨h, hg⟩ => ?_, fun ⟨h, hg⟩ => ?_, fun h => ?_,
    fun h hw => ?_, fun h => ?_, fun h1 h2 => ?_⟩
  · obtain ⟨hmem, htier⟩ := clkWindow_still (n := n) w d
    obtain ⟨hppm, herr, hcount⟩ := rd_clkWindow_counts (n := n) w d
    have hfar {off : Nat} (h : 0x808000 ≤ off) : (d.clkWindow n w).refresh.rd off = (d.clkWindow n w).rd off := Dev.rd_refresh_far _ h
    have hstatus := hfar (off := rClkStatus) (by decide)
    refine runs_of_does (does_clkMonitorWindow w rfl) (congrArg _ htier) ⟨?_, ?_, ?_, fun h => ?_, fun h hlost => ?_, hmem⟩
    · rwa [hfar (by unfold rClkPpm; omega)]
    · rwa [hfar (by decide)]
    · rwa [hfar (by unfold rClkGlitch; omega)]
    · obtain ⟨hhold, hlost, hsel⟩ := clkWindow_returns (n := n) w d h
      refine ⟨(Dev.refHold_congr hstatus n).trans hhold, (Dev.refLost_congr hstatus n).trans hlost, ?_⟩
      exact (Dev.sel_congr hstatus).trans (hsel.trans (Dev.selected_congr hstatus _).symm)
    · obtain ⟨hhold, hbit⟩ := clkWindow_holds (n := n) w d h hlost
      exact ⟨(Dev.refHold_congr hstatus n).trans hhold, by rwa [hfar (by decide)]⟩
  · refine does_of_run (f := fun d => d.clkLoss n) rfl (if_neg (by rw [h]; decide))
  · exact does_of_run (f := fun d => d.clkLoss n) rfl (if_pos h)
  · exact does_of_run (f := fun d => d.clockGate c) rfl (Dev.clockGate_idle h)
  · exact does_of_run (f := fun d => d.clockGate c) rfl (Dev.clockGate_busy h)
  · exact does_of_run (f := fun d => d.powerGate c) rfl (Dev.powerGate_allowed h hg)
  · exact does_of_run (f := fun d => d.powerGate c) rfl (Dev.powerGate_refused h)
  · exact does_of_run (f := fun d => d.napDie e) rfl (Dev.napDie_naps h hg)
  · exact does_of_run (f := fun d => d.napDie e) rfl (Dev.napDie_stays h)
  · refine runs_of_does (does_of_run (f := fun d => d.setCredit r (min (d.slew r) (d.credit r + d.slew r))) rfl rfl) rfl
      ⟨sget_sset_same _ _ _ _, rfl, fun m hm => sget_sset_ne _ _ _ hm⟩
  · exact does_of_run (f := fun d => d.wakeGrant r) rfl (Dev.wakeGrant_grants h hcost)
  · exact does_of_run (f := fun d => d.wakeGrant r) rfl (Dev.wakeGrant_waits h)
  · exact does_of_run (f := fun d => d.awake (.core c)) rfl (Dev.awake_core h hg hs)
  · exact does_of_run (f := fun d => d.awake (.die e)) rfl (Dev.awake_die h hg)
  · exact does_of_run (f := fun d => d.awake (.bank e col b)) rfl (Dev.awake_bank h hg)
  · exact does_of_run (f := fun d => d.awake (.die e)) rfl (Dev.awake_none h)
  · exact does_of_run (f := fun d => d.portWake p) rfl (Dev.portWake_standby h hw)
  · exact does_of_run (f := fun d => d.portWake p) rfl (Dev.portWake_idle h)
  · exact does_of_run (f := fun d => d.portWake p) rfl (Dev.portWake_on h1 h2)

end Sys2Proof.Proofs

/-! Power cycles and the sequencing of the rails (R332, R384, R385, R388). -/

namespace Sys2Proof.Machine

/-! ### RESET_N is released (R384) -/

/-- The device in which RESET_N is high and the power cycle is counted. -/
def Dev.cycled (d : Dev) : Dev :=
  { d with pins := { d.pins with resetN := true, railsEn := true }, now := 0,
           mgmt := { d.mgmt with flash := { d.mgmt.flash with cycles := d.mgmt.flash.cycles + 1 } } }

/-- What flash and fuses keep, shown in the registers. -/
def Dev.kept (d : Dev) (f : FlashSt) (u : FuseSt) : Dev :=
  ((((((d.wr rBootCycles f.cycles).wr rBootOpsec f.opsec).wr64 rBootRseqLo f.rseq).wrFld rBootSecver 31 16 u.floor).wr64
    rLockSerialLo u.serial).wrFld rTopId 9 8 u.lid).wr rFlwSeq f.nextSeq

theorem Dev.release_eq {d : Dev} (h : d.pins.resetN = false) : d.release =
    d.cycled.kept d.cycled.mgmt.flash d.mgmt.fuse := if_neg (by rw [h]; decide)

section Kept

variable (d : Dev) (f : FlashSt) (u : FuseSt)

theorem Dev.rd_kept_cycles : (d.kept f u).rd rBootCycles = f.cycles := by
  simp [Dev.kept, Dev.rd_wr, Dev.rd_wrFld, Dev.rd_wr64, rBootCycles, rBootOpsec, rBootRseqLo, rBootSecver, rLockSerialLo, rTopId, rFlwSeq]

theorem Dev.rd_kept_opsec : (d.kept f u).rd rBootOpsec = f.opsec := by
  simp [Dev.kept, Dev.rd_wr, Dev.rd_wrFld, Dev.rd_wr64, rBootCycles, rBootOpsec, rBootRseqLo, rBootSecver, rLockSerialLo, rTopId, rFlwSeq]

theorem Dev.rd_kept_seq : (d.kept f u).rd rFlwSeq = f.nextSeq := Dev.rd_wr_same _ _ _

theorem Dev.rd64_kept_rseq : (d.kept f u).rd64 rBootRseqLo = f.rseq % 2 ^ 64 := by
  rw [← Dev.rd64_wr64 ((d.wr rBootCycles f.cycles).wr rBootOpsec f.opsec)]
  refine Dev.rd64_congr ?_ ?_ <;>
    simp [Dev.kept, Dev.rd_wr, Dev.rd_wrFld, Dev.rd_wr64, rBootRseqLo, rBootSecver, rLockSerialLo, rTopId, rFlwSeq]

theorem Dev.rd64_kept_serial : (d.kept f u).rd64 rLockSerialLo = u.serial % 2 ^ 64 := by
  rw [← Dev.rd64_wr64 ((((d.wr rBootCycles f.cycles).wr rBootOpsec f.opsec).wr64 rBootRseqLo f.rseq).wrFld rBootSecver 31 16 u.floor)]
  refine Dev.rd64_congr ?_ ?_ <;> simp [Dev.kept, Dev.rd_wr, Dev.rd_wrFld, rLockSerialLo, rTopId, rFlwSeq]

theorem Dev.fld_kept_floor : fld 31 16 ((d.kept f u).rd rBootSecver) = u.floor % 65536 := by
  simp [Dev.kept, Dev.rd_wr, Dev.rd_wrFld, Dev.rd_wr64, fld_setFld_same, rBootSecver, rLockSerialLo, rTopId, rFlwSeq]

theorem Dev.fld_kept_lid : fld 9 8 ((d.kept f u).rd rTopId) = u.lid % 4 := by
  simp [Dev.kept, Dev.rd_wr, Dev.rd_wrFld, fld_setFld_same, rTopId, rFlwSeq]

end Kept

/-! ### Rails (R384) -/

/-- A power-up under way: the boot's, or a wake's. -/
theorem Dev.powering_iff (d : Dev) : d.powering = true ↔
    (d.bootState = 3 ∨ d.mgmt.wake ≠ none) ∧ d.pins.railsEn = true ∧ d.pins.step < 4 := by
  simp only [Dev.powering, Bool.and_eq_true, Bool.or_eq_true, decide_eq_true_eq, Option.isSome_iff_ne_none, and_assoc]

section Rails

variable {d : Dev}

theorem Dev.powerGood_idle (h : d.powering = false) : d.powerGood = d := if_pos (by rw [h]; rfl)

/-- A step that is not the last of a wake. -/
theorem Dev.powerGood_steps (h : d.powering = true) (hw : d.mgmt.wake = none ∨ d.pins.step < 3) :
    d.powerGood = { d with pins := { d.pins with step := d.pins.step + 1 } } := by
  unfold Dev.powerGood
  rw [if_neg (by rw [h]; decide)]
  dsimp only
  split
  · next w hwake =>
    obtain hnone | hstep := hw
    · exact absurd (hnone.symm.trans hwake) (by simp)
    · exact if_pos (Nat.succ_lt_succ hstep)
  · rfl

/-- The last step of a wake. -/
theorem Dev.powerGood_wakes {w : WakeTo} (h : d.powering = true) (hw : d.mgmt.wake = some w) (hstep : d.pins.step = 3) :
    d.powerGood = w.ports.foldl Dev.trainPort (({ d with
      pins := { d.pins with step := d.pins.step + 1 }, mgmt := { d.mgmt with wake := none } } : Dev).wrFld rPwrStatus 1 0 w.state) := by
  unfold Dev.powerGood
  rw [if_neg (by rw [h]; decide)]
  dsimp only
  rw [hw]
  exact if_neg (by simp [hstep])

/-- A boot rail that fails while the ROM runs. -/
theorem Dev.railLate_stops {r : Nat} (h : d.bootState = 0 ∧ d.pins.railsEn = true ∧ bootRail r = true) :
    d.railLate r = { d with pins := { d.pins with bootStop := true } } := by
  obtain ⟨hboot, hrails, hrail⟩ := h
  exact if_pos (by rw [hboot, hrails, hrail]; rfl)

variable {r : Nat} (h : ¬(d.bootState = 0 ∧ d.pins.railsEn = true ∧ bootRail r = true))
include h

theorem Dev.railLate_runs : d.railLate r =
    if d.powering && railStep r = d.pins.step + 1 then ((d.pwrErr 0).flw 5 0 (srcOf .mgmt) r).railFault r else d :=
  if_neg fun hc => h (by simpa only [Bool.and_eq_true, decide_eq_true_eq, and_assoc] using hc)

end Rails

end Sys2Proof.Machine

namespace Sys2Proof.Proofs
open Sys2Proof.Machine Sys2Proof.Safety

/-- Settles O44: a power loss is the reset state but for what it names, and each rail command is one branch. -/
theorem powerCyclesAndRailsSequence : Obligations.PowerCyclesAndRailsSequence := by
  unfold Obligations.PowerCyclesAndRailsSequence
  intro s die r y d f cycle up ready stops act
  have hcycle {i : Instr} (h : exec i s = State.run Dev.powerLoss s) : cycle i := by
    have hboot : fld 3 0 (Dev.reset.rd rBootState) = 0 := by decide
    refine ⟨_, does_of_run h rfl, rfl, ?_⟩
    refine ⟨(congrArg (fld 3 0) (Dev.rd_refresh_far s.dev.powerLoss (off := rBootState) (by decide))).trans hboot, rfl, rfl, rfl, rfl, rfl, rfl, rfl, rfl, rfl, rfl, rfl, fun off hoff => ?_⟩
    exact rd_refresh_of_not_copy hoff _
  have hgood {u : Dev} (hu : d.powerGood = u) : Does .railPowerGood s u := does_of_run (f := Dev.powerGood) rfl hu
  have hlate {u : Dev} (hu : d.railLate r = u) : Does (.railTimeout r) s u := does_of_run (f := fun d => d.railLate r) rfl hu
  have hready : d.powering = true ↔ ready := d.powering_iff
  refine ⟨hcycle rfl, hcycle rfl, fun h => does_of_run (f := Dev.release) rfl (if_pos h), fun h => ?_, ?_, fun h => hgood ?_,
    fun h hw => hgood (Dev.powerGood_steps (hready.mpr h) hw), fun h hw hstep => hgood (Dev.powerGood_wakes (hready.mpr h) hw hstep),
    fun h => hlate (Dev.railLate_stops h), fun h hr hstep => hlate ((Dev.railLate_runs h).trans ?_),
    fun h hno => hlate ((Dev.railLate_runs h).trans ?_)⟩
  · have hrd {off : Nat} (ho : isCopy off = false) := rd_refresh_of_not_copy ho (d.cycled.kept d.cycled.mgmt.flash d.mgmt.fuse)
    refine runs_of_does (does_of_run (f := Dev.release) rfl (Dev.release_eq h)) rfl ⟨rfl, rfl, rfl, ?_, rfl, ?_, ?_, ?_, ?_, ?_, ?_⟩
    · exact (hrd (by decide)).trans (Dev.rd_kept_cycles _ _ _)
    · exact (hrd (by decide)).trans (Dev.rd_kept_opsec _ _ _)
    · exact (Dev.rd64_refresh_far _ (by decide)).trans (Dev.rd64_kept_rseq _ _ _)
    · exact (congrArg (fld 31 16) (hrd (by decide))).trans (Dev.fld_kept_floor _ _ _)
    · exact (Dev.rd64_refresh_far _ (by decide)).trans (Dev.rd64_kept_serial _ _ _)
    · exact (congrArg (fld 9 8) (hrd (by decide))).trans (Dev.fld_kept_lid _ _ _)
    · exact (hrd (by decide)).trans (Dev.rd_kept_seq _ _ _)
  · refine runs_of_does (does_of_run (f := Dev.thermTrip) rfl rfl) rfl ⟨rfl, rfl, rfl, ?_, ?_⟩
    · exact List.filter_eq_nil_iff.mpr fun _ _ => Bool.false_ne_true
    · exact List.filter_eq_nil_iff.mpr fun _ _ => Bool.false_ne_true
  · exact Dev.powerGood_idle (Bool.eq_false_iff.mpr (mt hready.mp h))
  · exact if_pos (by rw [hready.mpr hr, hstep]; simp)
  · refine if_neg fun hc => ?_
    simp only [Bool.and_eq_true, decide_eq_true_eq] at hc
    exact hno.elim (fun hn => hn (hready.mp hc.1)) fun hn => hn hc.2

end Sys2Proof.Proofs

/-! Power caps, throttling, regulators and ageing (R325, R328, R329, R388). -/

namespace Sys2Proof.Machine

/-! ### Caps (R325) -/

/-- Every compute die's cap moves by `f`. -/
def Dev.capsBy (d : Dev) (f : Nat → Nat) : Dev := d.each (List.range 8) (fun d n => d.setCap n (f (d.capClk n)))

/-- Caps are no register, memory or page. -/
theorem Dev.capsBy_still (d : Dev) (f : Nat → Nat) :
    (d.capsBy f).regs = d.regs ∧ (d.capsBy f).mem = d.mem ∧ (d.capsBy f).tier = d.tier := by
  unfold Dev.capsBy Dev.each
  exact List.foldlRecOn (motive := fun t : Dev => t.regs = d.regs ∧ t.mem = d.mem ∧ t.tier = d.tier) _ _ ⟨rfl, rfl, rfl⟩
    fun t h n _ => h

theorem Dev.capClk_setCap (d : Dev) (n k v : Nat) : (d.setCap n v).capClk k = if k = n then v else d.capClk k := by
  split
  · next h => exact h ▸ sget_sset_same _ _ _ _
  · next h => exact sget_sset_ne _ _ _ h

theorem Dev.capClk_each (f : Nat → Nat) {l : List Nat} (h : l.Nodup) (d : Dev) (k : Nat) :
    (d.each l (fun d n => d.setCap n (f (d.capClk n)))).capClk k = if k ∈ l then f (d.capClk k) else d.capClk k := by
  induction l generalizing d with
  | nil => rfl
  | cons n l ih =>
    obtain ⟨hn, hl⟩ := List.nodup_cons.mp h
    refine (ih hl (d.setCap n (f (d.capClk n)))).trans ?_
    rw [Dev.capClk_setCap]
    by_cases hk : k = n
    · subst hk
      simp [hn]
    · simp [hk]

theorem Dev.capClk_capsBy (d : Dev) (f : Nat → Nat) {n : Nat} (h : n < 8) : (d.capsBy f).capClk n = f (d.capClk n) :=
  (Dev.capClk_each f List.nodup_range d n).trans (if_pos (List.mem_range.mpr h))

theorem Dev.capAdjust_eq (d : Dev) (mw : Nat) : d.capAdjust mw =
    (let t := d.wr rPwrPkgMw (BitVec.ofNat 32 mw)
    if (profile d.profileNo).1 * 1000 < mw then (t.capsBy (fun c => max 50 (c - 50))).pwrErr 2
    else if mw * 100 ≤ (profile d.profileNo).1 * 1000 * 97 then t.capsBy (fun c => min (profile d.profileNo).2 (c + 50))
    else t) := by
  have hprofile : (d.wr rPwrPkgMw (BitVec.ofNat 32 mw)).profileNo = d.profileNo := congrArg (fld 4 2) (Dev.rd_wr_ne _ _ (by decide))
  unfold Dev.capAdjust
  dsimp only
  rw [hprofile]
  rfl

/-! ### Ageing (R329) -/

/-- What AGE_CLUSTER shows of a measurement within the limit. -/
def ageWord (e : Fin 96 × BitVec 16 × BitVec 8) : Word := BitVec.ofNat 32 (e.2.1.toNat + 65536 * e.2.2.toNat)

/-- A cluster whose guard band is within AGE_LIMIT shows its measurement, and no core is retired. -/
theorem Dev.ageCluster_fits {d : Dev} {e : Fin 96 × BitVec 16 × BitVec 8} (h : e.2.2.toNat ≤ d.rdFld rAgeCtl 15 8) :
    d.ageCluster e.1 e.2.1.toNat e.2.2.toNat = d.wr (rAgeCluster e.1) (ageWord e) := by
  unfold Dev.ageCluster
  dsimp only
  rw [if_pos h, Nat.min_eq_left h, Nat.mod_eq_of_lt e.2.1.isLt]
  rfl

/-- The measurements of distinct clusters within the limit. -/
structure Fits (lim : Nat) (ages : List (Fin 96 × BitVec 16 × BitVec 8)) : Prop where
  distinct : (ages.map (·.1)).Nodup
  within : ∀ e ∈ ages, e.2.2.toNat ≤ lim

theorem rAgeCluster_inj {j k : Fin 96} (h : rAgeCluster j = rAgeCluster k) : j = k := by
  unfold rAgeCluster at h
  omega

/-- A re-plan's measurements show, and no other register changes. -/
theorem Dev.ageClusters_show {lim : Nat} {ages : List (Fin 96 × BitVec 16 × BitVec 8)} (h : Fits lim ages) {d : Dev}
    (hlim : d.rdFld rAgeCtl 15 8 = lim) :
    let t := d.each ages (fun d e => d.ageCluster e.1.val e.2.1.toNat e.2.2.toNat)
    t.tier = d.tier ∧ (∀ off, (∀ e ∈ ages, off ≠ rAgeCluster e.1) → t.rd off = d.rd off) ∧
      ∀ e ∈ ages, t.rd (rAgeCluster e.1) = ageWord e := by
  induction ages generalizing d with
  | nil => exact ⟨rfl, fun _ _ => rfl, fun _ he => absurd he List.not_mem_nil⟩
  | cons a l ih =>
    obtain ⟨hd, hw⟩ := h
    obtain ⟨ha, hl⟩ := List.nodup_cons.mp hd
    have hstep := Dev.ageCluster_fits (hlim ▸ hw a List.mem_cons_self)
    have hctl : (d.wr (rAgeCluster a.1) (ageWord a)).rdFld rAgeCtl 15 8 = lim :=
      (congrArg (fld 15 8) (Dev.rd_wr_ne _ _ (by unfold rAgeCtl rAgeCluster; omega))).trans hlim
    obtain ⟨htier, hrest, hshow⟩ := ih ⟨hl, fun e he => hw e (List.mem_cons_of_mem _ he)⟩ hctl
    intro t
    have ht : t = (d.wr (rAgeCluster a.1) (ageWord a)).each l (fun d e => d.ageCluster e.1.val e.2.1.toNat e.2.2.toNat) :=
      congrArg (fun u : Dev => u.each l _) hstep
    rw [ht]
    refine ⟨htier, fun off ho => ?_, fun e he => ?_⟩
    · rw [hrest off fun e he => ho e (List.mem_cons_of_mem _ he), Dev.rd_wr_ne _ _ (ho a List.mem_cons_self)]
    · obtain rfl | he := List.mem_cons.mp he
      · rw [hrest _ fun x hx hc => ha (List.mem_map.mpr ⟨x, hx, (rAgeCluster_inj hc).symm⟩), Dev.rd_wr_same]
      · exact hshow e he

/-- What a re-plan within the limit shows. -/
theorem Dev.replan_shows {lim : Nat} {ages : List (Fin 96 × BitVec 16 × BitVec 8)} (h : Fits lim ages) {d : Dev}
    (hlim : d.rdFld rAgeCtl 15 8 = lim) (hours : Word) :
    (d.replan hours ages).tier = d.tier ∧ (d.replan hours ages).rd rAgeLast = hours ∧
      (d.replan hours ages).rdFld rAgeCtl 15 8 = lim ∧ ∀ e ∈ ages, (d.replan hours ages).rd (rAgeCluster e.1) = ageWord e := by
  have hctl : (d.wr rAgeLast hours).rdFld rAgeCtl 15 8 = lim := (congrArg (fld 15 8) (Dev.rd_wr_ne _ _ (by decide))).trans hlim
  obtain ⟨htier, hrest, hshow⟩ := Dev.ageClusters_show h hctl
  unfold Dev.replan
  dsimp only
  refine ⟨(Dev.tier_flw _ _ _ _ _).trans htier, ?_, ?_, fun e he => ?_⟩
  · rw [Dev.rd_flw _ _ _ _ _ (by decide) (by decide) (by decide), hrest _ fun e _ => by unfold rAgeLast rAgeCluster; omega, Dev.rd_wr_same]
  · rw [Dev.rdFld, Dev.rd_flw _ _ _ _ _ (by decide) (by decide) (by decide), hrest _ fun e _ => by unfold rAgeCtl rAgeCluster; omega]
    exact hctl
  · rw [Dev.rd_flw _ _ _ _ _ (by unfold rFlwSeq rAgeCluster; omega) (by unfold rFlwStatus rAgeCluster; omega)
      (by unfold rFlwDrop rAgeCluster; omega), hshow e he]

end Sys2Proof.Machine

namespace Sys2Proof.Proofs
open Sys2Proof.Machine Sys2Proof.Safety

/-- What an adjustment of the cap shows and moves. -/
theorem capAdjust_moves (d : Dev) (mw : Word) : (d.capAdjust mw.toNat).tier = d.tier ∧ (d.capAdjust mw.toNat).mem = d.mem ∧
    (d.capAdjust mw.toNat).rd rPwrPkgMw = mw ∧ ∀ n < 8,
      ((profile d.profileNo).1 * 1000 < mw.toNat → (d.capAdjust mw.toNat).capClk n = max 50 (d.capClk n - 50) ∧
        bitOf 2 ((d.capAdjust mw.toNat).rd rPwrErr) = true) ∧
      (mw.toNat * 100 ≤ (profile d.profileNo).1 * 1000 * 97 →
        (d.capAdjust mw.toNat).capClk n = min (profile d.profileNo).2 (d.capClk n + 50)) ∧
      ((profile d.profileNo).1 * 1000 * 97 < mw.toNat * 100 → mw.toNat ≤ (profile d.profileNo).1 * 1000 →
        (d.capAdjust mw.toNat).capClk n = d.capClk n) := by
  have hpkg : (d.wr rPwrPkgMw (BitVec.ofNat 32 mw.toNat)).rd rPwrPkgMw = mw := (Dev.rd_wr_same _ _ _).trans (by simp)
  rw [Dev.capAdjust_eq]
  have hcaps (f : Nat → Nat) (n : Nat) (hn : n < 8) : ((d.wr rPwrPkgMw (BitVec.ofNat 32 mw.toNat)).capsBy f).capClk n = f (d.capClk n) :=
    Dev.capClk_capsBy _ f hn
  have hstill (f : Nat → Nat) : ((d.wr rPwrPkgMw (BitVec.ofNat 32 mw.toNat)).capsBy f).rd rPwrPkgMw = mw ∧
      ((d.wr rPwrPkgMw (BitVec.ofNat 32 mw.toNat)).capsBy f).mem = d.mem ∧
      ((d.wr rPwrPkgMw (BitVec.ofNat 32 mw.toNat)).capsBy f).tier = d.tier := by
    obtain ⟨hregs, hmem, htier⟩ := (d.wr rPwrPkgMw (BitVec.ofNat 32 mw.toNat)).capsBy_still f
    exact ⟨(congrArg (sget resetOf · _) hregs).trans hpkg, hmem, htier⟩
  dsimp only
  split
  · have hclk := hcaps fun c => max 50 (c - 50)
    obtain ⟨hrd, hmem, htier⟩ := hstill fun c => max 50 (c - 50)
    generalize (d.wr rPwrPkgMw (BitVec.ofNat 32 mw.toNat)).capsBy (fun c => max 50 (c - 50)) = t at hclk hrd hmem htier ⊢
    refine ⟨htier, hmem, (Dev.rd_wr_ne _ _ (by decide)).trans hrd, fun n hn => ⟨fun _ => ⟨hclk n hn, ?_⟩, fun h => by omega,
      fun h h2 => by omega⟩⟩
    rw [Dev.pwrErr, Dev.rd_wr_same, bitOf_setBit_same _ _ _ (by decide)]
  · split
    · obtain ⟨hrd, hmem, htier⟩ := hstill fun c => min (profile d.profileNo).2 (c + 50)
      exact ⟨htier, hmem, hrd, fun n hn => ⟨fun h => by omega, fun _ => hcaps _ n hn, fun h => by omega⟩⟩
    · exact ⟨rfl, rfl, hpkg, fun n hn => ⟨fun h => by omega, fun h => by omega, fun _ _ => rfl⟩⟩

/-- Settles O43: the caps of the dies move each on its own, and a re-plan within the limit writes its own registers alone. -/
theorem capsRailsAndAgeingAct : Obligations.CapsRailsAndAgeingAct := by
  unfold Obligations.CapsRailsAndAgeingAct
  intro s o mw v hours die r mv cur rails ages d pf lim tele flag act shown fits
  have hpoll {l : List (Fin 34 × RailState)} {u : Dev} (h : d.each l (fun d e => d.railPoll e.1 e.2) = u) : Does (.pmbusPoll l) s u :=
    does_of_run (f := fun d => d.each l (fun d e => d.railPoll e.1 e.2)) rfl h
  have hfar (t : Dev) {off : Nat} (h : 0x808000 ≤ off) : t.refresh.rd off = t.rd off := Dev.rd_refresh_far _ h
  have hshown {t : Dev} (hlast : t.rd rAgeLast = hours) (hages : ∀ e ∈ ages, t.rd (rAgeCluster e.1) = ageWord e) : shown t.refresh :=
    ⟨(hfar t (by decide)).trans hlast, fun e he => (hfar t (by unfold rAgeCluster; omega)).trans (hages e he)⟩
  refine ⟨?_, does_of_run (f := fun d => (d.setThr die (max 50 (d.thrClk die - 50))).pwrErr 2) rfl rfl,
    does_of_run (f := fun d => d.setThr die (min 2000 (d.thrClk die + 50))) rfl rfl, hpoll rfl, hpoll rfl, hpoll rfl, hpoll rfl,
    fun hfits => ?_, fun hreach hfits => ?_⟩
  · obtain ⟨htier, hmem, hpkg, hcaps⟩ := capAdjust_moves d mw
    refine runs_of_does (does_of_run (f := fun d => d.capAdjust mw.toNat) rfl rfl) (congrArg _ htier)
      ⟨(hfar _ (by decide)).trans hpkg, hmem, fun n hn => ?_⟩
    obtain ⟨hover, hunder, hbetween⟩ := hcaps n hn
    exact ⟨fun h => ⟨(hover h).1, (congrArg (bitOf 2) (hfar _ (by decide))).trans (hover h).2⟩, hunder, hbetween⟩
  · obtain ⟨hdistinct, hwithin⟩ := hfits
    obtain ⟨htier, hlast, -, hages⟩ := Dev.replan_shows ⟨hdistinct, hwithin⟩ (d := d) rfl hours
    exact runs_of_does (does_of_run (f := fun d => d.replan hours ages) rfl rfl) (congrArg _ htier) (hshown hlast hages)
  · obtain ⟨hdistinct, hwithin⟩ := hfits
    obtain ⟨hmay, hregs, hfail, -⟩ := hreach
    have hv : fld 15 8 (setBit 0 true v) = fld 15 8 v := fld_setBit_ne _ _ _ _ _ (by decide)
    have hlim : (d.wrFld rAgeCtl 15 8 (fld 15 8 v)).rdFld rAgeCtl 15 8 = fld 15 8 v := by
      rw [Dev.rdFld, Dev.rd_wrFld, if_pos rfl, fld_setFld_same _ _ _ _ (by decide)]
      exact Nat.mod_eq_of_lt (Nat.mod_lt _ (by decide))
    obtain ⟨htier, hlast, hctl, hages⟩ := Dev.replan_shows ⟨hdistinct, hwithin⟩ hlim hours
    have hexec : Does (.replan o v hours ages) s ((d.wrFld rAgeCtl 15 8 (fld 15 8 v)).replan hours ages) := by
      refine does_of_run (f := fun d => if !d.may o || d.failHides rAgeCtl then d else if !d.regReach o true rAgeCtl then
        d.regRefuse o rAgeCtl 4 else d.ageCtl (setBit 0 true v) hours ages) rfl ?_
      rw [hmay, hfail, hregs]
      refine (if_pos (bitOf_setBit_same _ _ _ (by decide))).trans ?_
      rw [hv]
    exact runs_of_does hexec (congrArg _ htier) ⟨hshown hlast hages, (congrArg (fld 15 8) (hfar _ (by decide))).trans hctl⟩

end Sys2Proof.Proofs

/-! CONFIG may wait for a frame (R221, R335): a port that begins training updates the partner table, which a managed page may hold. -/

namespace Sys2Proof.Machine

/-! ### What the sections leave -/

/-- A register that CONFIG with empty sections may change before the ports train. -/
def configReg (off : Nat) : Prop := off = rTopStatus ∨ off = rSmpStatus ∨ ∃ n < 8, off = rGalStatus n

/-- From `d` to `t` such registers have changed, and what the management controller knows of the image. -/
structure Configured (d t : Dev) : Prop where
  tier : t.tier = d.tier
  col : t.col = d.col
  wd : t.mgmt.wd = d.mgmt.wd
  rd : ∀ off, ¬configReg off → t.rd off = d.rd off

theorem Configured.refl (d : Dev) : Configured d d := ⟨rfl, rfl, rfl, fun _ _ => rfl⟩

theorem Configured.trans {a b c : Dev} (h : Configured a b) (k : Configured b c) : Configured a c :=
  ⟨k.tier.trans h.tier, k.col.trans h.col, k.wd.trans h.wd, fun off ho => (k.rd off ho).trans (h.rd off ho)⟩

theorem configured_wr {off : Nat} (h : configReg off) (d : Dev) (v : Word) : Configured d (d.wr off v) :=
  ⟨rfl, rfl, rfl, fun _ hk => d.rd_wr_ne v (by rintro rfl; exact hk h)⟩

theorem configured_loadLayout (d : Dev) : Configured d ((d.loadLayout []).getD d) := by
  unfold Dev.loadLayout
  dsimp only
  split
  · exact .refl d
  · exact configured_wr (.inl rfl) d _

theorem configured_loadSection (d : Dev) : Configured d ((d.loadSection []).getD d) := by
  unfold Dev.loadSection
  dsimp only
  split
  · exact .refl d
  · exact configured_wr (.inl rfl) d _

theorem configured_leaveOut (d : Dev) {n : Nat} (h : n < 8) : Configured d (d.leaveOut n) :=
  (configured_wr (.inl rfl) d _).trans (configured_wr (.inr (.inr ⟨n, h, rfl⟩)) _ _)

/-! ### A partner table in a page without a frame -/

/-- Port 23 is the only enabled one and is DOWN, its partner is a device whose entry shows ports that it has not, and the partner table
lies in managed page 0, which is zero and for which no frame is to be had. -/
structure Starved (d : Dev) : Prop where
  only : ∀ p < 23, d.portOn p = false
  on : d.portOn 23 = true
  down : d.portState 23 = 0
  direct : d.portSwitch 23 = false
  coord : d.portPartner 23 = 0
  partner : d.partner 0 = ⟨1, 2 ^ 24, 0, 0⟩
  base : d.rd64 rColPtBaseLo = 0x80000000000
  page : (d.page 0).state = .zero ∧ (d.page 0).part = 0
  quota : d.rd (rSmpQt1 0) = 0
  waits : d.tier.waits = []
  stall : d.tier.stall = none

/-- The pages and the quota that a starved access meets. -/
structure NoFrame (d : Dev) : Prop where
  page : (d.page 0).state = .zero ∧ (d.page 0).part = 0
  quota : d.rd (rSmpQt1 0) = 0
  waits : d.tier.waits = []
  stall : d.tier.stall = none

theorem Dev.takeFrame_none {d : Dev} {p : Nat} (h : d.rd (rSmpQt1 p) = 0) : d.takeFrame p = (none, d) := by
  unfold Dev.takeFrame
  simp [h]

/-- A write to page 0 finds no frame. -/
theorem NoFrame.managedTarget {d : Dev} (h : NoFrame d) : d.managedTarget 0x80000000000 true = ((none, true), d.tierCount 0) := by
  obtain ⟨⟨hstate, hpart⟩, hquota, -, -⟩ := h
  unfold Dev.managedTarget
  dsimp only
  rw [show (0x80000000000 - 0x80000000000) / 0x200000 = 0 from rfl, hstate, hpart]
  dsimp only
  rw [Dev.takeFrame_none hquota]
  rfl

theorem Dev.tierCount_tier (d : Dev) (p : Nat) : (d.tierCount p).tier = d.tier := rfl

/-- So it waits for one. -/
theorem NoFrame.resolve {d : Dev} (h : NoFrame d) (src : Nat) :
    d.resolve ⟨none, src⟩ true 0x80000000000 = (.refused, (d.tierCount 0).stallAt src 0) := by
  have hreach : d.reaches ⟨none, src⟩ true 0x80000000000 = true := rfl
  have hreg : regOff 0x80000000000 = none := by decide
  have hmanaged : isManaged 0x80000000000 = true := by decide
  have hwait : d.stalledOut src 0 = false := by rw [Dev.stalledOut, h.waits]; rfl
  unfold Dev.resolve
  dsimp only
  rw [hreg, hreach, if_neg (by decide), if_pos hmanaged, show (0x80000000000 - 0x80000000000) / 0x200000 = 0 from rfl, hwait,
    if_neg Bool.false_ne_true, h.managedTarget]

theorem NoFrame.writeMem {d : Dev} (h : NoFrame d) (src : Nat) {bs : Marked} (hlen : bs.length = 16) :
    (d.writeMem ⟨none, src⟩ 0x80000000000 bs).2.tier.stall = some (src, 0) := by
  unfold Dev.writeMem Dev.writeReq
  rw [hlen, cutAt_one _ (by decide) (by decide), List.foldl_cons, List.foldl_nil]
  dsimp only
  rw [h.resolve src]
  have hstall : (d.tierCount 0).tier.stall = none := h.stall
  rw [Dev.stallAt, hstall]
  rfl

end Sys2Proof.Machine

namespace Sys2Proof.Machine

/-! ### A port that begins training -/

/-- From `d` to `t` status words of the ports have changed. -/
structure StatusOnly (d t : Dev) : Prop where
  tier : t.tier = d.tier
  col : t.col = d.col
  wd : t.mgmt.wd = d.mgmt.wd
  rd : ∀ off, (∀ p < 24, off ≠ rLnkStatus p) → t.rd off = d.rd off

theorem StatusOnly.trans {a b c : Dev} (h : StatusOnly a b) (k : StatusOnly b c) : StatusOnly a c :=
  ⟨k.tier.trans h.tier, k.col.trans h.col, k.wd.trans h.wd, fun off ho => (k.rd off ho).trans (h.rd off ho)⟩

theorem statusOnly_wr (d : Dev) {p : Nat} (h : p < 24) (v : Word) : StatusOnly d (d.wr (rLnkStatus p) v) :=
  ⟨rfl, rfl, rfl, fun _ ho => d.rd_wr_ne v (ho p h)⟩

theorem statusOnly_failStat (d : Dev) : StatusOnly d d.failStat := by
  unfold Dev.failStat Dev.each
  exact List.foldlRecOn (motive := StatusOnly d) _ _ ⟨rfl, rfl, rfl, fun _ _ => rfl⟩ fun t h q hq =>
    h.trans (statusOnly_wr t (List.mem_range.mp hq) _)

theorem StatusOnly.noFrame {d t : Dev} (h : StatusOnly d t) (k : NoFrame d) : NoFrame t := by
  have hpage : t.page 0 = d.page 0 := by rw [Dev.page, Dev.page, h.tier]
  exact ⟨hpage ▸ k.page, (h.rd _ (by unfold rSmpQt1 rLnkStatus; omega)).trans k.quota, h.tier ▸ k.waits, h.tier ▸ k.stall⟩

/-- No ports of the device make up 2 ^ 24. -/
theorem Dev.sum_directPorts_lt (d : Dev) (c : Nat) : ((d.directPorts c).map (2 ^ ·)).sum < 2 ^ 24 := by
  have hle : ((d.directPorts c).map (2 ^ ·)).sum ≤ ((List.range 24).map (2 ^ ·)).sum :=
    List.Sublist.sum_le_sum (List.filter_sublist.map _) fun _ _ => Nat.zero_le _
  exact hle.trans_lt (by decide)

theorem NoFrame.withCol {d : Dev} (h : NoFrame d) (c : ColSt) : NoFrame { d with col := c } := ⟨h.page, h.quota, h.waits, h.stall⟩

/-- The partner's entry changes, and its write waits. -/
theorem NoFrame.setPartner {d : Dev} (h : NoFrame d) (hpartner : d.partner 0 = ⟨1, 2 ^ 24, 0, 0⟩)
    (hbase : d.rd64 rColPtBaseLo = 0x80000000000) : (d.setPartner 0 (d.partner 0)).tier.stall = some (colSrc 0, 0) := by
  have hsum := d.sum_directPorts_lt 0
  unfold Dev.setPartner
  dsimp only
  rw [hpartner]
  generalize ((d.directPorts 0).map (2 ^ ·)).sum = n at hsum ⊢
  rw [if_neg (by simp; omega)]
  have hat : coRack 0 * 72 + coTray 0 * 8 + coSlot 0 = 0 := by decide
  rw [hat]
  have hbase' : ({ d with col := { d.col with partners := sset (fun _ => ⟨0, 0, 0, 0⟩) d.col.partners 0 ⟨1, n, 0, 0⟩ } } : Dev).rd64
      rColPtBaseLo + 16 * 0 = 0x80000000000 := hbase
  rw [hbase']
  refine (h.withCol _).writeMem _ ?_
  simp [clean, leBytes]

theorem Starved.noFrame {d : Dev} (h : Starved d) : NoFrame d := ⟨h.page, h.quota, h.waits, h.stall⟩

/-- Port 23 begins training, and waits for the partner table's page. -/
theorem Starved.trainPort {d : Dev} (h : Starved d) : (d.trainPort 23).tier.stall = some (colSrc 0, 0) := by
  have hset : StatusOnly d (d.wrFld (rLnkStatus 23) 2 0 1).failStat := (statusOnly_wr d (by decide) _).trans (statusOnly_failStat _)
  have hpartner : (d.wrFld (rLnkStatus 23) 2 0 1).failStat.partner 0 = ⟨1, 2 ^ 24, 0, 0⟩ := by
    rw [Dev.partner, hset.col, ← h.partner, Dev.partner]
  have hbase : (d.wrFld (rLnkStatus 23) 2 0 1).failStat.rd64 rColPtBaseLo = 0x80000000000 :=
    (Dev.rd64_congr (hset.rd _ fun p _ => by unfold rColPtBaseLo rLnkStatus; omega)
      (hset.rd _ fun p _ => by unfold rColPtBaseLo rLnkStatus; omega)).trans h.base
  have hstall := (hset.noFrame h.noFrame).setPartner hpartner hbase
  rw [hpartner] at hstall
  rw [Dev.trainPort, h.on, h.down, if_pos (by decide), Dev.setPortState, h.coord, h.direct, hpartner]
  exact hstall

/-- The other ports do not train. -/
theorem Starved.trainPorts {d : Dev} (h : Starved d) : (d.each (List.range 24) Dev.trainPort).tier.stall = some (colSrc 0, 0) := by
  have hoff : (List.range 23).foldl Dev.trainPort d = d :=
    List.foldlRecOn (motive := fun t => t = d) _ _ rfl fun t ht p hp => by
      rw [ht, Dev.trainPort, h.only p (List.mem_range.mp hp)]
      rfl
  rw [Dev.each, List.range_succ, List.foldl_append, hoff]
  exact h.trainPort

/-- What CONFIG does before the ports train keeps the page and the port as they are. -/
theorem Configured.starved {d t : Dev} (h : Configured d t) (k : Starved d) : Starved t := by
  have hlnk (off : Nat) (ho : 0x9000000 ≤ off) : t.rd off = d.rd off := h.rd off (by
    unfold configReg rTopStatus rSmpStatus rGalStatus
    omega)
  have hpage : t.page 0 = d.page 0 := by rw [Dev.page, Dev.page, h.tier]
  refine ⟨fun p hp => ?_, ?_, ?_, ?_, ?_, ?_, ?_, hpage ▸ k.page, ?_, h.tier ▸ k.waits, h.tier ▸ k.stall⟩
  · exact (congrArg (bitOf 0) (hlnk _ (by unfold rLnkCfg; omega))).trans (k.only p hp)
  · exact (congrArg (bitOf 0) (hlnk _ (by decide))).trans k.on
  · exact (congrArg (fld 2 0) (hlnk _ (by decide))).trans k.down
  · exact (congrArg (bitOf 3) (hlnk _ (by decide))).trans k.direct
  · exact (congrArg (fld 15 0) (hlnk _ (by decide))).trans k.coord
  · rw [Dev.partner, h.col, ← k.partner, Dev.partner]
  · exact (Dev.rd64_congr (hlnk _ (by decide)) (hlnk _ (by decide))).trans k.base
  · refine (h.rd _ ?_).trans k.quota
    unfold configReg rSmpQt1 rTopStatus rSmpStatus rGalStatus
    omega

end Sys2Proof.Machine

namespace Sys2Proof.Machine

/-! ### CONFIG with empty sections -/

theorem configured_mgmt (d : Dev) {m : MgmtSt} (h : m.wd = d.mgmt.wd) : Configured d { d with mgmt := m } := ⟨rfl, rfl, h, fun _ _ => rfl⟩

/-- The sections of the image have been applied. -/
def Dev.sectioned (d : Dev) (img : List Byte) : Dev :=
  d.each (rangeFrom 2 7) fun d t =>
    ((if t = 5 then d.loadLayout (loadList (imgSection img 5)) else d.loadSection (loadList (imgSection img t)))).getD d

/-- What the device keeps of the image: the Sump's size, the credentials, the enable map and the port map. -/
def Dev.imaged (d : Dev) (img : List Byte) : Dev :=
  let d := d.wrFld rSmpStatus 18 17 (Config.sumpSize (imgSection img 6) % 4)
  { d with mgmt := { d.mgmt with lock := imgSection img 9, enable := imgSection img 2, ports := imgSection img 4 } }

/-- The dies that the enable map leaves out are fenced. -/
def Dev.leftOut (d : Dev) : Dev := d.each ((List.range 8).filter (Config.enableInfo d.mgmt.enable).diesOff.contains) Dev.leaveOut

theorem Dev.configDone_eq {d : Dev} (hboot : d.bootState = 3) (hstep : d.pins.step = 4) :
    let img := d.mgmt.flash.image (d.rdFld rBootState 4 4)
    d.configDone = ((((d.sectioned img).imaged img).leftOut.each (List.range 24) Dev.trainPort).bootWithdraw).setBoot 4 :=
  if_neg (by rw [hboot, hstep]; decide)

theorem loadList_imgSection_nil (t : Nat) : loadList (imgSection [] t) = [] := by
  have htable : imgTable [] = [] := rfl
  rw [imgSection, htable]
  show loadList [] = []
  decide

theorem configured_sectioned_nil (d : Dev) : Configured d (d.sectioned []) :=
  List.foldlRecOn (motive := Configured d) _ _ (.refl d) fun t ht k _ => ht.trans (by
    rw [loadList_imgSection_nil, loadList_imgSection_nil]
    split
    · exact configured_loadLayout t
    · exact configured_loadSection t)

theorem configured_imaged (d : Dev) (img : List Byte) : Configured d (d.imaged img) :=
  (configured_wr (.inr (.inl rfl)) d _).trans ⟨rfl, rfl, rfl, fun _ _ => rfl⟩

theorem configured_leftOut (d : Dev) : Configured d d.leftOut :=
  List.foldlRecOn (motive := Configured d) _ _ (.refl d) fun t ht _ hn =>
    ht.trans (configured_leaveOut t (List.mem_range.mp (List.mem_filter.mp hn).1))

/-- A port that begins training changes nothing of the management controller. -/
theorem Dev.wd_trainPort (d : Dev) (p : Nat) (h : p < 24) : (d.trainPort p).mgmt.wd = d.mgmt.wd := by
  have hset : StatusOnly d (d.wrFld (rLnkStatus p) 2 0 1).failStat := (statusOnly_wr d h _).trans (statusOnly_failStat _)
  unfold Dev.trainPort Dev.setPortState
  dsimp only
  split
  · split
    · exact hset.wd
    · exact (congrArg MgmtSt.wd (notes_setPartner _ _ _).mgmt).trans hset.wd
  · rfl

theorem Dev.wd_trainPorts (d : Dev) : (d.each (List.range 24) Dev.trainPort).mgmt.wd = d.mgmt.wd :=
  List.foldlRecOn (motive := fun t : Dev => t.mgmt.wd = d.mgmt.wd) _ _ rfl fun t ht p hp =>
    (t.wd_trainPort p (List.mem_range.mp hp)).trans ht

theorem Dev.bootWithdraw_none {d : Dev} (h : d.mgmt.wd = none) : d.bootWithdraw = d := by
  unfold Dev.bootWithdraw
  rw [h]

theorem Dev.tier_setBoot (d : Dev) (n : Nat) : (d.setBoot n).tier = d.tier := Dev.tier_flw _ _ _ _ _

/-- CONFIG with empty sections on a starved device that has not withdrawn waits for a frame. -/
theorem Starved.configDone {d : Dev} (h : Starved d) (hboot : d.bootState = 3) (hstep : d.pins.step = 4) (hwd : d.mgmt.wd = none)
    (himg : d.mgmt.flash.image (d.rdFld rBootState 4 4) = []) : d.configDone.tier.stall = some (colSrc 0, 0) := by
  have hconf : Configured d ((d.sectioned []).imaged []).leftOut :=
    ((configured_sectioned_nil d).trans (configured_imaged _ _)).trans (configured_leftOut _)
  have heq := Dev.configDone_eq hboot hstep
  rw [himg] at heq
  rw [heq, Dev.tier_setBoot, Dev.bootWithdraw_none (((Dev.wd_trainPorts _).trans hconf.wd).trans hwd)]
  exact (hconf.starved h).trainPorts

/-- A device in CONFIG whose partner table lies in a managed page without a frame: its image is empty, and port 23 is enabled. -/
def starved : Dev :=
  let d := ((Dev.reset.wr rBootState 3).wr (rLnkCfg 23) 1).wr64 rColPtBaseLo 0x80000000000
  { d with
    pins := { d.pins with step := 4 }
    tier := { d.tier with pages := [(0, { PageRec.blank with state := .zero })] }
    col := { d.col with partners := [(0, ⟨1, 2 ^ 24, 0, 0⟩)] }
    mgmt := { d.mgmt with flash := { d.mgmt.flash with copy0 := List.replicate 256 0 } } }

theorem starved_starved : Starved starved where
  only := by decide
  on := by decide
  down := by decide
  direct := by decide
  coord := by decide
  partner := by decide
  base := by decide
  page := by decide
  quota := by decide
  waits := rfl
  stall := rfl

end Sys2Proof.Machine

namespace Sys2Proof.Proofs
open Sys2Proof.Machine Sys2Proof.Safety

/-- A command that waits for a frame leaves the device as it was but for the wait, so that none is one that runs to a change. -/
theorem not_runs_of_waits {i : Instr} {s : State} {u : Dev} {P : Dev → Prop} (h : Does i s u) (hs : s.dev.tier.stall = none)
    {w : Nat × Nat} (hu : u.tier.stall = some w) (hp : ¬P (s.dev.waitFrame w.1 w.2).refresh) : ¬Runs i s P := by
  rintro ⟨v, hv, hstall, hpv⟩
  have hsettle : s.settle v = s.settle u := by
    have heq := hv.symm.trans h
    injection heq
  rw [settle_of_none (hstall.trans hs), settle_of_some hu] at hsettle
  have hdev : v.refresh = (s.dev.waitFrame w.1 w.2).refresh := congrArg State.dev hsettle
  exact hp (hdev ▸ hpv)

/-- Refutes O45: the end of CONFIG may wait for a frame. A port that begins training sets its partner's entry of the partner table,
and where that table lies in a managed page for which no frame is to be had, the command is put off and BOOT_STATE stays CONFIG. -/
theorem not_bootRunsToReadyOrFail : ¬ Obligations.BootRunsToReadyOrFail := by
  unfold Obligations.BootRunsToReadyOrFail
  intro h
  obtain ⟨-, -, -, -, -, -, -, -, -, -, hconfig, -⟩ := h ⟨starved, []⟩ true 0 ⟨[], [], false, [], [], []⟩ 0 0 0 0 []
  have hboot : starved.bootState = 3 := by decide
  have hdoes : Does .bootConfigDone ⟨starved, []⟩ starved.configDone := does_of_run (f := Dev.configDone) rfl rfl
  have hstall : starved.configDone.tier.stall = some (colSrc 0, 0) :=
    starved_starved.configDone hboot rfl rfl (by decide +kernel)
  refine not_runs_of_waits hdoes rfl hstall ?_ (hconfig hboot rfl rfl)
  rintro ⟨hstate, -⟩
  have hwait : (starved.waitFrame (colSrc 0) 0).refresh.bootState = starved.bootState :=
    congrArg (fld 3 0) (Dev.rd_refresh_far (starved.waitFrame (colSrc 0) 0) (by decide))
  rw [hwait, hboot] at hstate
  cases hstate

end Sys2Proof.Proofs

/-! Management requests (R339 to R342, R352). -/

namespace Sys2Proof.Machine

/-! ### Serving the request at the front (R340, R342) -/

section Serve

variable {d : Dev} {code : Nat} {f : MgmtReq → Dev → Performed} {lo hi len cap : Word} {rest : List Word}
  (hboot : d.bootState = 5 ∨ d.bootState = 6) (hdesc : descriptor (d.mbxWords 0 0) = some ((lo, hi, len, cap), rest))
include hboot hdesc

/-- A request of another kind waits. -/
theorem Dev.mgmtServe_other (hok : (d.readReqAt lo hi len cap).1.ok = true)
    (hcode : reqCode (d.readReqAt lo hi len cap).1.code = true) (hne : (d.readReqAt lo hi len cap).1.code ≠ code) :
    d.mgmtServe code f = d := by
  unfold Dev.mgmtServe
  rw [if_neg (by obtain h | h := hboot <;> simp [h]), hdesc]
  exact if_pos (by simp [hok, hcode, hne])

/-- Any other is taken and performed. -/
theorem Dev.mgmtServe_runs (h : (d.readReqAt lo hi len cap).1.ok = false ∨ reqCode (d.readReqAt lo hi len cap).1.code = false ∨
    (d.readReqAt lo hi len cap).1.code = code) : d.mgmtServe code f =
      (((d.readReqAt lo hi len cap).2.setMbx 0 0 rest).mbxClear 0 0x40000000).reqRun (d.readReqAt lo hi len cap).1 f := by
  unfold Dev.mgmtServe
  rw [if_neg (by obtain h | h := hboot <;> simp [h]), hdesc]
  refine if_neg fun hc => ?_
  simp only [Bool.and_eq_true, decide_eq_true_eq] at hc
  obtain ⟨⟨hok, hcode⟩, hne⟩ := hc
  obtain h | h | h := h
  · simp [h] at hok
  · simp [h] at hcode
  · exact hne h

end Serve

section Run

variable {d : Dev} {r : MgmtReq} {f : MgmtReq → Dev → Performed} {e : Nat}

/-- A request that is malformed or of no known kind. -/
theorem Dev.reqRefused_malformed (h : r.ok = false ∨ reqCode r.code = false) : d.reqRefused r = 5 :=
  if_pos (by obtain h | h := h <;> simp [h])

theorem Dev.reqRun_refused (h : d.reqRefused r = e) (he : e ≠ 0) : d.reqRun r f = d.reqEnd r e := by
  unfold Dev.reqRun
  split
  · next h0 => exact absurd (h.symm.trans h0) he
  · rw [h]

theorem Dev.reqRun_error (h : d.reqRefused r = 0) (hf : f r d = .error e) : d.reqRun r f = d.reqEnd r e := by
  unfold Dev.reqRun
  rw [h]
  dsimp only
  rw [hf]
  rfl

/-- A request that is performed is logged, with its RSEQ saved where it is signed, before it takes effect. -/
theorem Dev.reqRun_ok {d2 d4 : Dev} {out : List Byte} (h : d.reqRefused r = 0) (hf : f r d = .ok (d2, out)) (hcap : out.length ≤ r.cap)
    (hlogged : f r ((if reqSigned r.code then d.takeRseq r.rseq else d).reqLog r 0) = .ok (d4, out)) :
    d.reqRun r f = d4.reqReply r 0 out := by
  unfold Dev.reqRun
  rw [h]
  dsimp only
  rw [hf]
  dsimp only
  rw [if_neg (Nat.not_lt.mpr hcap), hlogged]
  rfl

end Run

/-! ### Descriptors (R352) -/

theorem descriptor_skips {lo : Word} (t : List Word) (h : bitOf 0 lo = false) : descriptor (lo :: t) = descriptor t := by
  rw [descriptor.eq_def]
  exact if_pos (by rw [h]; rfl)

theorem descriptor_first {lo hi len cap : Word} (t : List Word) (h0 : bitOf 0 lo = true) (h1 : bitOf 0 hi = false) (h2 : bitOf 0 len = false)
    (h3 : bitOf 0 cap = false) : descriptor (lo :: hi :: len :: cap :: t) = some ((lo, hi, len, cap), t) := by
  rw [descriptor.eq_def]
  dsimp only
  rw [if_neg (by rw [h0]; decide), h1, h2, h3]
  exact if_neg Bool.false_ne_true

/-! ### What each request does (Table 15-6) -/

section Requests

variable {d n : Dev} {r : MgmtReq} {v : Nat}

theorem doLayout_illegal (h : d.loadLayout (loadList r.payload) = none) : doLayout r d = .error 5 := by
  unfold doLayout
  dsimp only
  split
  · rfl
  · rw [h]

theorem doLayout_legal (hlen : r.payload.length % 16 = 0) (hok : (loadList r.payload).all entryOk = true)
    (hload : d.loadLayout (loadList r.payload) = some n) : doLayout r d =
      if d.partsQuiet (d.affected n (loadList r.payload)) then .ok (n, []) else .error 4 := by
  unfold doLayout
  dsimp only
  rw [if_neg (by simp only [hlen, hok]; decide), hload]

section Word

variable (hlen : r.payload.length = 4) (hv : leAt r.payload 0 4 = v)
include hlen hv

theorem reqWord_eq : reqWord r = some v := by rw [reqWord, if_pos hlen, hv]

theorem doFenceDie_word : doFenceDie r d = if v < 8 then .ok (d.fenceDie v, []) else .error 5 := by
  rw [doFenceDie, reqWord_eq hlen hv]

theorem doRecoord_word (h : v < 65536) : doRecoord r d = if d.enabledQueues.all d.queueEmpty then .ok (d.recoord v, []) else .error 4 := by
  rw [doRecoord, reqWord_eq hlen hv]
  exact if_neg (Nat.not_le.mpr h)

theorem doPowerState_unknown (h : 3 ≤ v) : doPowerState r d = .error 5 := by
  rw [doPowerState, reqWord_eq hlen hv]
  exact if_pos h

/-- A state that the device is not in, asked for while no wake runs and the device is not in STANDBY. -/
theorem doPowerState_word (h : v < 3) (hwake : d.mgmt.wake = none) (hne : d.rdFld rPwrStatus 1 0 ≠ v) (h2 : d.rdFld rPwrStatus 1 0 ≠ 2) :
    doPowerState r d = if v = 0 then .ok (d.wrFld rPwrStatus 1 0 0, [])
      else if d.canSleep (v = 2) then .ok (d.sleep v, []) else .error 4 := by
  rw [doPowerState, reqWord_eq hlen hv]
  dsimp only
  rw [if_neg (Nat.not_le.mpr h), hwake, if_neg (by decide), if_neg hne, if_neg h2]

end Word

/-- An image that fails a check is not written. -/
theorem doImageWrite_bad (hlen : 4 ≤ r.payload.length) (hcopy : leAt r.payload 0 4 < 2)
    (hbad : imgCheck d.mgmt.fuse (d.rd rTopId) (r.payload.drop 4) ≠ 0) : doImageWrite r d = .error 1 := by
  unfold doImageWrite
  dsimp only
  rw [if_neg (by simp; omega), if_pos (by simp [hbad])]

/-- A good image is written into its copy, where the device does not run. -/
theorem doImageWrite_good (hlen : 4 ≤ r.payload.length) (hcopy : leAt r.payload 0 4 < 2)
    (himg : (r.payload.drop 4).length = imgLen (r.payload.drop 4)) (hgood : imgCheck d.mgmt.fuse (d.rd rTopId) (r.payload.drop 4) = 0)
    (hboot : d.bootState ≠ 5) : doImageWrite r d = .ok ({ d with mgmt := { d.mgmt with
      flash := d.mgmt.flash.setImage (leAt r.payload 0 4) (r.payload.drop 4) } }, []) := by
  unfold doImageWrite
  dsimp only
  rw [if_neg (by simp; omega), if_neg (by simp [himg, hgood]), if_neg (by simp [hboot])]

theorem setImage_copies (f : FlashSt) (copy : Nat) (l : List Byte) :
    (f.setImage copy l).copy0 = (if copy = 0 then l else f.copy0) ∧ (f.setImage copy l).copy1 = (if copy = 0 then f.copy1 else l) := by
  unfold FlashSt.setImage
  split <;> exact ⟨rfl, rfl⟩

theorem doReglist_refused (h : leAt r.payload 0 4 < 6 ∨ 8 < leAt r.payload 0 4 ∨ (loadList (r.payload.drop 4)).all entryOk = false) :
    doReglist r d = .error 5 := by
  unfold doReglist
  refine if_pos ?_
  simp only [Bool.or_eq_true, decide_eq_true_eq, Bool.not_eq_true']
  tauto

end Requests

/-! ### Sleep (R326) -/

theorem mem_napCores (l : List Nat) (d : Dev) :
    (d.each l fun d c => if d.coreState c = 1 || d.coreState c = 3 then d.setCoreState c 4 else d).mem = d.mem :=
  List.foldlRecOn (motive := fun t : Dev => t.mem = d.mem) _ _ rfl fun t ht c _ => by
    split <;> exact ht

theorem mem_napDies (l : List Nat) (d : Dev) :
    (d.each l fun d n => if d.fenced n then d else d.wr rPwrStatus (setBit (8 + n) true (d.rd rPwrStatus))).mem = d.mem :=
  List.foldlRecOn (motive := fun t : Dev => t.mem = d.mem) _ _ rfl fun t ht n _ => by
    split <;> exact ht

/-- Naps change registers alone. -/
theorem Dev.mem_napAll (d : Dev) : d.napAll.mem = d.mem := by
  unfold Dev.napAll
  exact (mem_napDies _ _).trans (mem_napCores _ _)

theorem Dev.sleep_idle (d : Dev) : d.sleep 1 = d.napAll.wrFld rPwrStatus 1 0 1 := by
  unfold Dev.sleep
  exact if_neg (by decide)

theorem Dev.state_sleep_idle (d : Dev) : (d.sleep 1).rdFld rPwrStatus 1 0 = 1 ∧ (d.sleep 1).mem = d.mem := by
  have hmem (t : Dev) : (t.wrFld rPwrStatus 1 0 1).mem = t.mem := rfl
  rw [Dev.sleep_idle]
  refine ⟨?_, (hmem _).trans d.mem_napAll⟩
  rw [Dev.rdFld, Dev.rd_wrFld, if_pos rfl, fld_setFld_same _ _ _ _ (by decide)]
  rfl

/-! ### The floor of SECVER (R341) -/

theorem doSecver_floor {d : Dev} {r : MgmtReq} (h : r.payload = []) : ∃ t, doSecver r d = .ok (t, []) ∧
    t.mgmt.fuse.floor = max d.mgmt.fuse.floor (d.rdFld rBootSecver 15 0) ∧
    fld 31 16 (t.rd rBootSecver) = t.mgmt.fuse.floor % 65536 ∧ d.mgmt.fuse.floor ≤ t.mgmt.fuse.floor := by
  refine ⟨_, if_pos (by rw [h]; rfl), rfl, ?_, Nat.le_max_left _ _⟩
  rw [Dev.rd_wrFld, if_pos rfl, fld_setFld_same _ _ _ _ (by decide)]
  rfl

end Sys2Proof.Machine

namespace Sys2Proof.Proofs
open Sys2Proof.Machine Sys2Proof.Safety

/-- Every request of the table is served in the same way. -/
theorem exec_request {code : Nat} {i : Instr} {f : MgmtReq → Dev → Performed}
    (h : (code, i, f) ∈ [(1, Instr.layout, doLayout), (2, .fenceDie, doFenceDie), (3, .recoord, doRecoord), (4, .powerState, doPowerState),
      (5, .imageWrite, doImageWrite), (6, .secver, doSecver), (7, .reglist, doReglist), (0x10, .ledgerRead, doLedgerRead),
      (0x11, .logRead, doLogRead), (0x12, .status, doStatus)]) (s : State) :
    exec i s = State.run (fun d => d.mgmtServe code f) s := by
  simp only [List.mem_cons, Prod.mk.injEq, List.not_mem_nil, or_false] at h
  obtain ⟨rfl, rfl, rfl⟩ | ⟨rfl, rfl, rfl⟩ | ⟨rfl, rfl, rfl⟩ | ⟨rfl, rfl, rfl⟩ | ⟨rfl, rfl, rfl⟩ | ⟨rfl, rfl, rfl⟩ | ⟨rfl, rfl, rfl⟩ |
    ⟨rfl, rfl, rfl⟩ | ⟨rfl, rfl, rfl⟩ | ⟨rfl, rfl, rfl⟩ := h <;> rfl

/-- Settles O46: a request is taken, refused or performed by one function for every row of the table, and each row's own function has one
branch for each case. -/
theorem managementRequestsAreServedWithTheirEffects : Obligations.ManagementRequestsAreServedWithTheirEffects := by
  unfold Obligations.ManagementRequestsAreServedWithTheirEffects
  refine ⟨?_, fun lo hi len cap t => ⟨fun h => descriptor_skips t h, fun h0 h1 h2 h3 => descriptor_first t h0 h1 h2 h3⟩, ?_⟩
  · intro s code i f lo hi len cap rest e d2 d4 out hmem hboot hdesc r q d key log saved
    have hdoes {u : Dev} (hu : s.dev.mgmtServe code f = u) : Does i s u := does_of_run (exec_request hmem s) hu
    have hend (e : Nat) : d.reqEnd q e = (log d e).reqReply q e [] := rfl
    refine ⟨fun hok hcode hne => hdoes (Dev.mgmtServe_other hboot hdesc hok hcode hne), fun hbad => ?_, fun hok hcode href he => ?_,
      fun hok hcode href hf => ?_, fun hok hcode href hf hcap hlogged => ?_⟩
    · exact hdoes ((Dev.mgmtServe_runs hboot hdesc (hbad.imp_right .inl)).trans (Dev.reqRun_refused (Dev.reqRefused_malformed hbad) (by decide)))
    · exact hdoes ((Dev.mgmtServe_runs hboot hdesc (.inr (.inr hcode))).trans (Dev.reqRun_refused href he))
    · exact hdoes ((Dev.mgmtServe_runs hboot hdesc (.inr (.inr hcode))).trans (Dev.reqRun_error href hf))
    · refine hdoes ((Dev.mgmtServe_runs hboot hdesc (.inr (.inr hcode))).trans (Dev.reqRun_ok href hf hcap ?_))
      have hlog : (if reqSigned q.code then d.takeRseq q.rseq else d).reqLog q 0 = log saved 0 := by
        dsimp only [log, saved, key, Dev.reqLog, Dev.takeRseq]
        split <;> rfl
      exact hlog ▸ hlogged
  · intro d n r v l word copy img
    refine ⟨fun hlen hok hload => ⟨fun hq => ?_, fun hq => ?_⟩, doLayout_illegal, fun ⟨hlen, hv⟩ h => ?_, fun ⟨hlen, hv⟩ h => ?_,
      fun ⟨hlen, hv⟩ h hq => ?_, fun ⟨hlen, hv⟩ h hq => ?_, fun ⟨hlen, hv⟩ h hw hs => ?_, fun ⟨hlen, hv⟩ h hw hs hc => ?_,
      fun ⟨hlen, hv⟩ h hw hs hc => ?_, fun ⟨hlen, hv⟩ h => doPowerState_unknown hlen hv h, fun hlen hcopy himg hgood hb => ?_,
      fun hlen hcopy hbad => doImageWrite_bad hlen hcopy hbad, doSecver_floor, fun _ h => doReglist_refused h, fun hlen => ⟨?_, ?_⟩, fun h => ?_⟩
    · rw [doLayout_legal hlen hok hload, if_pos hq]
    · rw [doLayout_legal hlen hok hload, hq, if_neg Bool.false_ne_true]
    · rw [doFenceDie_word hlen hv, if_pos h]
    · rw [doFenceDie_word hlen hv, if_neg (Nat.not_lt.mpr h)]
    · rw [doRecoord_word hlen hv h, if_pos hq]
    · rw [doRecoord_word hlen hv h, hq, if_neg Bool.false_ne_true]
    · subst h
      rw [doPowerState_word hlen hv (by decide) hw (by omega) (by omega), if_pos rfl]
    · subst h
      refine ⟨d.sleep 1, ?_, d.state_sleep_idle⟩
      rw [doPowerState_word hlen hv (by decide) hw (by omega) (by omega), if_neg (by decide)]
      exact if_pos hc
    · subst h
      rw [doPowerState_word hlen hv (by decide) hw (by omega) (by omega), if_neg (by decide)]
      exact if_neg (by rw [show decide (2 = 2) = true from rfl, hc]; decide)
    · obtain ⟨h0, h1⟩ := setImage_copies d.mgmt.flash copy img
      exact ⟨_, doImageWrite_good hlen hcopy himg hgood hb, h0, h1, rfl⟩
    · rw [doLedgerRead, reqRecords, if_pos hlen]
    · rw [doLogRead, reqRecords, if_pos hlen]
    · exact if_pos (by rw [h]; rfl)

end Sys2Proof.Proofs

/-! Withdrawals and the end of a holdover (R174, R306, R317, R319). -/

namespace Sys2Proof.Machine

/-! ### The fenced HBM controllers through accesses and completions (R174)

A withdrawal completes what waits in the queues, which reads slots and writes records anywhere in memory. None of it gives a fenced
controller back. -/

/-- From `d` to `t` the same HBM controllers are fenced. -/
def SameCtrls (d t : Dev) : Prop := t.mem.ctrlFenced = d.mem.ctrlFenced

theorem SameCtrls.refl (d : Dev) : SameCtrls d d := rfl

theorem SameCtrls.trans {a b c : Dev} (h : SameCtrls a b) (k : SameCtrls b c) : SameCtrls a c := Eq.trans k h

theorem sameCtrls_of_mem {d t : Dev} (h : t.mem = d.mem) : SameCtrls d t := congrArg MemSt.ctrlFenced h

/-- A change of memory that fences no controller and releases none. -/
theorem sameCtrls_mem (d : Dev) {m : MemSt} (h : m.ctrlFenced = d.mem.ctrlFenced) : SameCtrls d { d with mem := m } := h

theorem MemSt.ctrlFenced_setBytes (m : MemSt) (a : Nat) (bs : List Byte) : (m.setBytes a bs).ctrlFenced = m.ctrlFenced := by
  induction bs generalizing m a with
  | nil => rfl
  | cons v t ih => exact ih (m.setByte a v) (a + 1)

theorem sameCtrls_foldl {α : Type} (f : Dev → α → Dev) (h : ∀ d a, SameCtrls d (f d a)) (l : List α) (d : Dev) :
    SameCtrls d (l.foldl f d) :=
  foldl_rel SameCtrls SameCtrls.refl (fun _ _ _ => SameCtrls.trans) f h l d

/-- The same for a fold that carries a value beside the device. -/
theorem sameCtrls_fold {α γ : Type} (l : List α) (f : γ × Dev → α → γ × Dev) (h : ∀ r a, SameCtrls r.2 (f r a).2) (r : γ × Dev) :
    SameCtrls r.2 (l.foldl f r).2 :=
  foldl_rel (fun a b => SameCtrls a.2 b.2) (fun _ => .refl _) (fun _ _ _ => .trans) f h l r

/-! #### Records, errors and granules -/

section Mem

variable (d : Dev)

theorem Dev.mem_flwWith (l : List Word) (a b c e : Nat) : (d.flwWith l a b c e).mem = d.mem := by
  unfold Dev.flwWith
  split
  · rfl
  · split
    · exact d.mem_addSat _ _
    · rfl

theorem Dev.mem_flw (a b c e : Nat) : (d.flw a b c e).mem = d.mem := d.mem_flwWith [] a b c e

theorem Dev.mem_ledger (a b c e : Nat) (w : Word) : (d.ledger a b c e w).mem = d.mem := by rw [Dev.ledger_eq]

theorem Dev.mem_raise (off b : Nat) {f : Dev → Dev} (h : ∀ d, (f d).mem = d.mem) : (d.raise off b f).mem = d.mem := by
  obtain he | he := d.raise_cases off b f <;> rw [he]
  · exact h _
  · rfl

theorem Dev.mem_accessErr (a b c e : Nat) : (d.accessErr a b c e).mem = d.mem :=
  (Dev.mem_flw _ _ _ _ _).trans ((Dev.mem_addSat _ _ _).trans (d.mem_raise _ _ fun _ => rfl))

theorem Dev.mem_refuse (p a b : Nat) : (d.refuse p a b).mem = d.mem := Dev.mem_flw _ _ _ _ _

theorem Dev.mem_requestWake (u : WakeUnit) (n : Nat) : (d.requestWake u n).mem = d.mem := by
  unfold Dev.requestWake
  split <;> rfl

theorem Dev.mem_wakeBank (a : Nat) : (d.wakeBank a).mem = d.mem := by
  unfold Dev.wakeBank
  split
  · dsimp only
    split
    · exact d.mem_requestWake _ _
    · rfl
  · rfl

theorem Dev.mem_breakResv (a n : Nat) : (d.breakResv a n).mem = d.mem := by
  unfold Dev.breakResv
  dsimp only
  split <;> rfl

theorem Dev.mem_smpErr (a b c e f g : Nat) : (d.smpErr a b c e f g).mem = d.mem :=
  (Dev.mem_flw _ _ _ _ _).trans (d.mem_raise _ _ fun _ => rfl)

theorem Dev.mem_pciErr (p b a : Nat) : (d.pciErr p b a).mem = d.mem := d.mem_raise _ _ fun _ => rfl

theorem Dev.mem_readHost (p a n : Nat) : (d.readHost p a n).2.mem = d.mem := by
  unfold Dev.readHost
  dsimp only
  split
  · rfl
  · split
    · exact Dev.mem_pciErr _ _ _ _
    · rfl

theorem Dev.mem_writeHost (p a : Nat) (bs : Marked) : (d.writeHost p a bs).mem = d.mem := by
  unfold Dev.writeHost
  dsimp only
  split
  · exact (Dev.mem_pciErr _ _ _ _).trans (d.mem_addSat _ _)
  · split
    · exact Dev.mem_pciErr _ _ _ _
    · rfl

theorem Dev.mem_chunkCount (n len : Nat) : (d.chunkCount n len).mem = d.mem :=
  (Dev.mem_add64 _ _ _).trans (d.mem_add64 _ _)

end Mem

section Granule

variable (d : Dev)

theorem sameCtrls_memCe (pg s y a : Nat) : SameCtrls d (d.memCe pg s y a) := by
  unfold Dev.memCe
  extract_lets d1 w n m d2
  have h1 : SameCtrls d d1 := sameCtrls_of_mem ((Dev.mem_addSat _ _ _).trans (d.mem_memErr pg 0 s y 0 a))
  have h2 : SameCtrls d d2 := h1
  split
  · exact h1
  · split
    · exact h2.trans (sameCtrls_of_mem ((Dev.mem_ledger _ _ _ _ _ _).trans ((Dev.mem_flwWith _ _ _ _ _ _).trans (Dev.mem_memErr ..))))
    · exact h2

theorem sameCtrls_corrected (src sym a : Nat) : SameCtrls d (d.corrected src sym a) := by
  unfold Dev.corrected
  split
  · exact sameCtrls_memCe d _ _ _ _
  · exact .refl d

theorem sameCtrls_ueLedger (pg src a : Nat) : SameCtrls d (d.ueLedger pg src a) := by
  refine SameCtrls.trans ?_ (sameCtrls_of_mem (Dev.mem_ledger _ _ _ _ _ _))
  unfold Dev.ueSeen
  split <;> rfl

/-- An event of a page counted and recorded. -/
theorem sameCtrls_pageEvent (pg off b s y k a code : Nat) :
    SameCtrls d ((((d.memErr pg b s y k a).addSat (pgReg pg off) 1).memFlw pg code s).ueLedger pg s a) :=
  (sameCtrls_of_mem ((Dev.mem_flwWith _ _ _ _ _ _).trans ((Dev.mem_addSat _ _ _).trans (d.mem_memErr pg b s y k a)))).trans
    (sameCtrls_ueLedger _ _ _ _)

theorem sameCtrls_uncorrectable (src : Nat) (scrub : Bool) (a : Nat) : SameCtrls d (d.uncorrectable src scrub a) := by
  unfold Dev.uncorrectable
  split
  · next pg _ =>
    cases scrub
    · exact sameCtrls_pageEvent d pg _ 1 src 0x7F 1 a 1
    · refine SameCtrls.trans (sameCtrls_of_mem ?_) (sameCtrls_ueLedger _ _ _ _)
      exact (Dev.mem_flwWith _ _ _ _ _ _).trans ((Dev.mem_memErr ..).trans ((Dev.mem_addSat _ _ _).trans (d.mem_memErr pg 1 src 0x7F 3 a)))
  · split
    · exact sameCtrls_of_mem (d.mem_flw _ _ _ _)
    · exact .refl d

theorem sameCtrls_partPoisoned (src a : Nat) : SameCtrls d (d.partPoisoned src a) := by
  unfold Dev.partPoisoned
  split
  · exact sameCtrls_pageEvent d _ _ _ _ _ _ _ _
  · split
    · exact sameCtrls_of_mem (d.mem_flw _ _ _ _)
    · exact .refl d

theorem sameCtrls_found (a : Nat) : SameCtrls d (d.found a).2 := by
  unfold Dev.found
  dsimp only
  split
  · split <;> rfl
  · split
    · split
      · rfl
      · split <;> rfl
    · dsimp only
      split
      · exact sameCtrls_of_mem (d.mem_addSat _ _)
      · rfl
    · rfl

theorem sameCtrls_readGran (src : Nat) (scrub : Bool) (a : Nat) : SameCtrls d (d.readGran src scrub a).2 := by
  have hput (d : Dev) (bs : List Byte) : SameCtrls d { d with mem := (d.mem.setBytes a bs).setDmg (a / 64) none } :=
    sameCtrls_mem d (MemSt.ctrlFenced_setBytes _ _ _)
  have hf := sameCtrls_found d a
  unfold Dev.readGran
  dsimp only
  split
  · exact sameCtrls_of_mem (d.mem_poisonRead _ _ _)
  · split
    · exact hf
    · exact hf.trans ((hput _ _).trans (sameCtrls_corrected _ _ _ _))
    · refine hf.trans (SameCtrls.trans ?_ (sameCtrls_uncorrectable _ _ _ _))
      split <;> rfl

theorem sameCtrls_rmwGran (src a : Nat) (f : List Byte → List Byte) (mark : Bool) : SameCtrls d (d.rmwGran src a f mark) := by
  have hput (d : Dev) (bs : List Byte) (p : Bool) :
      SameCtrls d { d with mem := ((d.mem.setBytes a (f bs)).setPoison (a / 64) p).setDmg (a / 64) none } :=
    sameCtrls_mem d (MemSt.ctrlFenced_setBytes _ _ _)
  have hf := sameCtrls_found d a
  unfold Dev.rmwGran
  dsimp only
  split
  · exact hput _ _ _
  · split
    · exact hf.trans (hput _ _ _)
    · exact hf.trans ((hput _ _ _).trans (sameCtrls_corrected _ _ _ _))
    · exact hf.trans ((hput _ _ _).trans (sameCtrls_partPoisoned _ _ _))

theorem sameCtrls_writeGran (src a : Nat) (bs : List Byte) (mark : Bool) : SameCtrls d (d.writeGran src a bs mark) := by
  unfold Dev.writeGran
  split
  · exact sameCtrls_mem d (MemSt.ctrlFenced_setBytes _ _ _)
  · exact sameCtrls_rmwGran d _ _ _ _

theorem sameCtrls_readPhys (src a n : Nat) : SameCtrls d (d.readPhys src a n).2 := by
  unfold Dev.readPhys
  refine (sameCtrls_of_mem (d.mem_charge a n false)).trans (sameCtrls_fold _ _ (fun r e => ?_) ([], d.charge a n false))
  exact (sameCtrls_of_mem ((Dev.mem_countBytes _ _ _ _).trans (Dev.mem_wakeBank _ _))).trans (sameCtrls_readGran _ _ _ _)

theorem sameCtrls_writePhys (src a : Nat) (bs : Marked) : SameCtrls d (d.writePhys src a bs) := by
  unfold Dev.writePhys
  refine (sameCtrls_of_mem ((Dev.mem_breakResv _ _ _).trans (d.mem_charge a _ true))).trans (sameCtrls_foldl _ (fun d e => ?_) _ _)
  exact (sameCtrls_of_mem ((Dev.mem_countBytes _ _ _ _).trans (Dev.mem_wakeBank _ _))).trans (sameCtrls_writeGran _ _ _ _ _)

end Granule

/-! #### Managed pages and accesses by device address -/

section Access

variable (d : Dev)

theorem sameCtrls_setPage (n : Nat) (r : PageRec) : SameCtrls d (d.setPage n r) := rfl

theorem sameCtrls_touchPage (n : Nat) : SameCtrls d (d.touchPage n) := rfl

theorem sameCtrls_add64 (off n : Nat) : SameCtrls d (d.add64 off n) := sameCtrls_of_mem (d.mem_add64 off n)

theorem Dev.mem_tierCount (p : Nat) : (d.tierCount p).mem = d.mem := rfl

theorem sameCtrls_moveExtent (n a : Nat) : SameCtrls d (d.moveExtent n a) := by
  unfold Dev.moveExtent
  dsimp only
  split
  · exact (sameCtrls_readPhys d _ _ _).trans (sameCtrls_writePhys _ _ _ _)
  · exact .refl d

theorem sameCtrls_compactPool (p : Nat) : SameCtrls d (d.compactPool p) := by
  unfold Dev.compactPool
  refine foldl_rel (fun (a b : Dev × Nat) => SameCtrls a.1 b.1) (fun _ => .refl _) (fun _ _ _ => .trans) _ (fun r e => ?_) _
    (d, d.rd64 (rSmpT2poolLo p))
  dsimp only
  split
  · exact .refl _
  · exact sameCtrls_moveExtent _ _ _

theorem sameCtrls_takeExtent (p n : Nat) : SameCtrls d (d.takeExtent p n).2 := by
  unfold Dev.takeExtent
  dsimp only
  split
  · exact .refl d
  · split
    · exact .refl d
    · exact sameCtrls_compactPool d p

theorem sameCtrls_extChunk (n c : Nat) : SameCtrls d (d.extChunk n c).2 := by
  unfold Dev.extChunk
  extract_lets r e l k len off b bad
  have he : SameCtrls d e.2 := sameCtrls_readPhys _ _ _ _
  split
  · exact he
  · exact he.trans (sameCtrls_readPhys _ _ _ _)

theorem sameCtrls_pageChunks (n : Nat) : SameCtrls d (d.pageChunks n).2 := by
  unfold Dev.pageChunks
  refine sameCtrls_fold _ _ (fun r c => ?_) (([] : List Chunk), d)
  have hf : SameCtrls r.2 (r.2.frameChunk n c).2 := sameCtrls_readPhys _ _ _ _
  have h (q : Prop) [Decidable q] (k : Nat) :
      SameCtrls r.2 (if q then (r.2.frameChunk n c).2.chunkCount n k else (r.2.frameChunk n c).2) := by
    split
    · exact hf.trans (sameCtrls_of_mem (Dev.mem_chunkCount _ _ _))
    · exact hf
  dsimp only
  split
  · exact sameCtrls_extChunk _ _ _
  · exact h _ _

theorem sameCtrls_dropPage (n : Nat) : SameCtrls d (d.dropPage n) := by
  unfold Dev.dropPage
  dsimp only
  split <;> rfl

end Access

theorem sameCtrls_writeBackPage {d t : Dev} {n : Nat} (h : d.writeBackPage n = some t) : SameCtrls d t := by
  unfold Dev.writeBackPage at h
  dsimp only at h
  split at h
  · cases h
  · split at h
    · cases h
    · next a d1 he =>
      have h2 := congrArg Prod.snd he ▸ sameCtrls_takeExtent (d.pageChunks n).2 (d.page n).part
        ((streamOf (d.pageChunks n).1).length / 4096)
      cases h
      exact (((sameCtrls_pageChunks d n).trans h2).trans (sameCtrls_writePhys _ _ _ _)).trans
        ((sameCtrls_setPage _ _ _).trans (sameCtrls_add64 _ _ _))

theorem sameCtrls_demotePage {d t : Dev} {n : Nat} (h : d.demotePage n = some t) : SameCtrls d t := by
  unfold Dev.demotePage at h
  dsimp only at h
  split at h
  · cases h
  · split at h
    · cases h
      exact sameCtrls_dropPage d n
    · obtain ⟨e, he, rfl⟩ := Option.map_eq_some_iff.mp h
      exact (sameCtrls_writeBackPage he).trans (sameCtrls_dropPage _ _)

theorem sameCtrls_evictBelow (p lim k : Nat) (d : Dev) : SameCtrls d (d.evictBelow p lim k) := by
  induction k generalizing d with
  | zero => exact .refl d
  | succ k ih =>
    unfold Dev.evictBelow
    split
    · exact .refl d
    · split
      · next he =>
        obtain ⟨n, _, hn⟩ := List.exists_of_findSome?_eq_some he
        exact (sameCtrls_demotePage hn).trans (ih _)
      · exact .refl d

section Access

variable (d : Dev)

theorem sameCtrls_takeFrame (p : Nat) : SameCtrls d (d.takeFrame p).2 := by
  have h (lim k : Nat) : SameCtrls d (if lim = 0 then d else d.evictBelow p lim k) := by
    split
    · exact .refl d
    · exact sameCtrls_evictBelow _ _ _ _
  have h2 (c : Prop) [Decidable c] (x : Option Nat) (t : Dev) (k : SameCtrls d t) :
      SameCtrls d (if c then (x, t) else ((none, t) : Option Nat × Dev)).2 := by
    split <;> exact k
  unfold Dev.takeFrame
  exact h2 _ _ _ (h _ _)

theorem sameCtrls_promoteChunk (n f c : Nat) : SameCtrls d (d.promoteChunk n f c) := by
  have h (q : Prop) [Decidable q] (a k : Nat) (t : Dev) (ht : SameCtrls d t) :
      SameCtrls d (if q then t.readPhys (tierSrc n) a k else (([], t) : Marked × Dev)).2 := by
    split
    · exact ht.trans (sameCtrls_readPhys _ _ _ _)
    · exact ht
  have good (q : Prop) [Decidable q] (t : Dev) (k a : Nat) (bs : Marked) (ht : SameCtrls d t) :
      SameCtrls d ((if q then t.chunkCount n k else t).writePhys (tierSrc n) a bs) := by
    split
    · exact (ht.trans (sameCtrls_of_mem (Dev.mem_chunkCount _ _ _))).trans (sameCtrls_writePhys _ _ _ _)
    · exact ht.trans (sameCtrls_writePhys _ _ _ _)
  have bad (t : Dev) (a va : Nat) (bs : Marked) (ht : SameCtrls d t) :
      SameCtrls d ((((t.writePhys (tierSrc n) a bs).smpErr 3 (tierSrc n) c 0 va va).addSat rSmpDamageCount 1).ledger 6 (tierSrc n) va 0 0) :=
    (ht.trans (sameCtrls_writePhys _ _ _ _)).trans (sameCtrls_of_mem ((Dev.mem_ledger _ _ _ _ _ _).trans ((Dev.mem_addSat _ _ _).trans
      (Dev.mem_smpErr _ _ _ _ _ _ _))))
  unfold Dev.promoteChunk
  extract_lets r e l kind pm len off fits b body crcOk out t a
  have ht : SameCtrls d t := h _ _ _ _ (sameCtrls_readPhys _ _ _ _)
  clear_value t out b kind
  split
  · exact good _ _ _ _ _ ht
  · exact bad _ _ _ _ ht

theorem sameCtrls_promotePage (n : Nat) : SameCtrls d (d.promotePage n).2 := by
  unfold Dev.promotePage
  dsimp only
  split
  · exact .refl d
  · have h := sameCtrls_takeFrame d (d.page n).part
    split
    · next he => rw [he] at h; exact h
    · next he =>
      rw [he] at h
      exact (h.trans (sameCtrls_foldl _ (fun d c => sameCtrls_promoteChunk d n _ c) _ _)).trans ((((sameCtrls_setPage _ _ _).trans
        (sameCtrls_touchPage _ _)).trans (sameCtrls_add64 _ _ _)).trans (sameCtrls_of_mem (Dev.mem_tierCount _ _)))

theorem sameCtrls_managedTarget (a : Nat) (wr : Bool) : SameCtrls d (d.managedTarget a wr).2 := by
  have land (t : Dev) (n o : Nat) (ht : SameCtrls d t) : SameCtrls d
      (if wr then (t.touchPage n).setPage n { (t.touchPage n).page n with
        dirty := setBit (o / 65536) true ((t.touchPage n).page n).dirty } else t.touchPage n) := by
    split <;> exact ht
  unfold Dev.managedTarget
  dsimp only
  split
  · exact .refl d
  · exact land d _ _ (.refl d)
  · exact land d _ _ (.refl d)
  · split
    · exact .refl d
    · have h := sameCtrls_takeFrame d (d.page ((a - 0x80000000000) / 0x200000)).part
      split
      · next he => rw [he] at h; exact h
      · next he =>
        rw [he] at h
        exact land _ _ _ (h.trans ((sameCtrls_writePhys _ _ _ _).trans ((sameCtrls_setPage _ _ _).trans
          (sameCtrls_of_mem (Dev.mem_tierCount _ _)))))
  · have h := sameCtrls_promotePage d ((a - 0x80000000000) / 0x200000)
    split
    · next he => rw [he] at h; exact h
    · next he =>
      rw [he] at h
      exact land _ _ _ (h.trans (sameCtrls_add64 _ _ _))

theorem sameCtrls_endWait (src n : Nat) : SameCtrls d (d.endWait src n) := by
  unfold Dev.endWait
  split <;> rfl

theorem sameCtrls_stallAt (src n : Nat) : SameCtrls d (d.stallAt src n) := by
  unfold Dev.stallAt
  split <;> rfl

theorem sameCtrls_resolve (acc : Acc) (wr : Bool) (a : Nat) : SameCtrls d (d.resolve acc wr a).2 := by
  have no (t : Dev) (ht : SameCtrls d t) : SameCtrls d (match acc.part with
      | some p => ((Target.refused, t.refuse p acc.src a) : Target × Dev)
      | none => (.refused, t)).2 := by
    split
    · exact ht.trans (sameCtrls_of_mem (Dev.mem_refuse _ _ _ _))
    · exact ht
  unfold Dev.resolve
  dsimp only
  split
  · split
    · exact sameCtrls_of_mem (Dev.mem_accessErr (d.epFlag _ _) _ _ _ _)
    · exact no d (.refl d)
  · split
    · split
      · exact sameCtrls_endWait _ _ _
      · have hm := sameCtrls_managedTarget d a wr
        split
        · next he => rw [he] at hm; exact hm.trans (sameCtrls_endWait _ _ _)
        · next he => rw [he] at hm; exact hm.trans (sameCtrls_endWait _ _ _)
        · next he => rw [he] at hm; exact no _ (hm.trans (sameCtrls_endWait _ _ _))
        · next he => rw [he] at hm; exact hm.trans (sameCtrls_stallAt _ _ _)
    · split <;> exact .refl d

theorem sameCtrls_readMem (acc : Acc) (a n : Nat) : SameCtrls d (d.readMem acc a n).2 := by
  unfold Dev.readMem Dev.readReq
  refine sameCtrls_fold _ _ (fun r e => ?_) ((⟨[], none, false, false⟩ : Rd), d)
  have hr := sameCtrls_resolve r.2 acc false e.1
  dsimp only
  split
  · next he => rw [he] at hr; exact hr
  · next he => rw [he] at hr; exact hr
  · next he => rw [he] at hr; exact hr.trans (sameCtrls_readPhys _ _ _ _)
  · next he => rw [he] at hr; exact hr.trans (sameCtrls_of_mem (Dev.mem_readHost _ _ _ _))

theorem sameCtrls_writeMem (acc : Acc) (a : Nat) (bs : Marked) : SameCtrls d (d.writeMem acc a bs).2 := by
  unfold Dev.writeMem Dev.writeReq
  refine sameCtrls_fold _ _ (fun r e => ?_) ((none : Option Nat), d)
  have hr := sameCtrls_resolve r.2 acc true e.1
  dsimp only
  split
  · next he => rw [he] at hr; exact hr
  · next he => rw [he] at hr; exact hr
  · next he => rw [he] at hr; exact hr.trans (sameCtrls_writePhys _ _ _ _)
  · next he => rw [he] at hr; exact hr.trans (sameCtrls_of_mem (Dev.mem_writeHost _ _ _ _))

end Access

/-! #### Completions and withdrawal -/

section Flush

variable (d : Dev)

theorem Dev.mem_signal (st : Status) (s : SigE) : (d.signal st s).mem = d.mem := by
  unfold Dev.signal
  dsimp only
  split <;> split <;> rfl

theorem Dev.mem_msixSend (port vec : Nat) : (d.msixSend port vec).mem = d.mem := by
  unfold Dev.msixSend
  dsimp only
  split <;> rfl

theorem Dev.mem_gate (p cls : Nat) (st : Status) : (d.gate p cls st).mem = d.mem := by
  unfold Dev.gate
  dsimp only
  split <;> split <;> rfl

theorem Dev.mem_epochDone (p : Nat) (st : Status) : (d.epochDone p st).mem = d.mem := by
  have hend (t : Dev) (ht : t.mem = d.mem) : (if st = .done then t else (t.addSat (rColEpAborts p) 1).epochClear p).mem = d.mem := by
    split
    · exact ht
    · exact (t.mem_addSat _ _).trans ht
  unfold Dev.epochDone
  refine hend _ ?_
  split
  · split <;> rfl
  · rfl

theorem Dev.mem_haltErr (q : Nat) (r : Result) : (d.haltErr q r).mem = d.mem := by
  unfold Dev.haltErr
  split <;> rfl

theorem Dev.mem_retire (q fuel : Nat) : (d.retire q fuel).mem = d.mem := by
  induction fuel generalizing d with
  | zero => rfl
  | succ fuel ih =>
    unfold Dev.retire
    dsimp only
    split
    · rfl
    · exact ih _

theorem sameCtrls_slotBytes (q : Nat) (c : Word) : SameCtrls d (d.slotBytes q c).2 := by
  unfold Dev.slotBytes
  split
  · exact .refl d
  · exact sameCtrls_readMem d _ _ _

theorem Dev.mem_dropEarly (q : Nat) (i : Word) : (d.dropEarly q i).mem = d.mem :=
  d.mem_each _ fun d e => (books_freeSlot (d.trwDrop (.stage e.1)) e.1).mem

theorem sameCtrls_complete (x : Inflight) (ts0 : Nat) : SameCtrls d (d.complete x ts0) := by
  have hsig (p : SigE → Bool) (t : Dev) : (t.each ((sigsOf x.slot x.ext).filter p) fun d s => d.signal x.res.status s).mem = t.mem :=
    t.mem_each _ fun t s => t.mem_signal _ s
  have hmsg (t : Dev) (w : Word) : (if x.ctrl.testBit 10 then t.msixSend (fld 21 21 w) (fld 20 10 w) else t).mem = t.mem := by
    split
    · exact t.mem_msixSend _ _
    · rfl
  have hrest (t : Dev) (m : QueueSt) : SameCtrls t (({ t with queue := m } : Dev).retire x.q (m.doneSlots.length + 1)) :=
    sameCtrls_of_mem (Dev.mem_retire { t with queue := m } _ _)
  have hend (t : Dev) (ht : SameCtrls d t) : SameCtrls d (if x.cls = 11 then t.epochDone x.part x.res.status else t) := by
    split
    · exact ht.trans (sameCtrls_of_mem (t.mem_epochDone _ _))
    · exact ht
  unfold Dev.complete
  dsimp only
  exact hend _ (((((sameCtrls_writeMem d _ _ _).trans (sameCtrls_of_mem (hsig _ _))).trans (sameCtrls_of_mem (hmsg _ _))).trans
    (sameCtrls_of_mem ((Dev.mem_haltErr _ _ _).trans (Dev.mem_gate _ _ _ _)))).trans (hrest _ _))

theorem sameCtrls_flushOne (q cause : Nat) : SameCtrls d (d.flushOne q cause) := by
  have hext (c : Prop) [Decidable c] (t : Dev) (i : Word) (ht : SameCtrls d t) :
      SameCtrls d (if c then t.slotBytes q i else (([], t) : List Byte × Dev)).2 := by
    split
    · exact ht.trans (sameCtrls_slotBytes _ _ _)
    · exact ht
  unfold Dev.flushOne
  dsimp only
  exact ((hext _ _ _ (sameCtrls_slotBytes _ _ _)).trans (sameCtrls_of_mem (Dev.mem_dropEarly _ _ _))).trans
    (sameCtrls_complete ((Dev.dropEarly _ q _).wr _ _) _ 0)

theorem sameCtrls_flush (q cause : Nat) : SameCtrls d (d.flush q cause) := by
  have hall (fuel : Nat) : ∀ d : Dev, SameCtrls d (d.flushAll q cause fuel) := by
    induction fuel with
    | zero => exact fun d => .refl d
    | succ fuel ih =>
      intro d
      unfold Dev.flushAll
      split
      · exact .refl d
      · exact (sameCtrls_flushOne d q cause).trans (ih _)
  exact (hall _ d).trans rfl

end Flush

/-! ### Withdrawal (R306) -/

section Withdraw

variable (d : Dev) (cause : Nat)

/-- The device in which WD and its cause have been set. -/
def Dev.wdMarked : Dev :=
  { (d.wr rTopStatus (setFld 10 7 cause (setBit 6 true (d.rd rTopStatus)))) with mgmt := { d.mgmt with wd := some (d.mgmt.enable, cause) } }

/-- The commands that wait in enabled queues have completed. -/
def Dev.queuesFlushed : Dev := d.enabledQueues.foldl (fun d q => d.flush q 0) d

/-- The records of a withdrawal. -/
def Dev.wdRecorded : Dev := (d.flw 5 0x31 (srcOf .mgmt) cause).ledger 10 (srcOf .mgmt) 0 4 0

theorem Dev.withdraw_first (h : bitOf 6 (d.rd rTopStatus) = false) :
    d.withdraw cause = ((d.wdMarked cause).queuesFlushed).wdRecorded cause := if_neg (by rw [h]; decide)

theorem Dev.withdraw_again (h : bitOf 6 (d.rd rTopStatus) = true) : d.withdraw cause = d := if_pos h

/-- The records change the recorders and their registers alone. -/
theorem Dev.wdRecorded_still : (d.wdRecorded cause).tier = d.tier ∧ (d.wdRecorded cause).mem = d.mem ∧
    (d.wdRecorded cause).queue = d.queue := by
  unfold Dev.wdRecorded
  rw [Dev.ledger_eq]
  dsimp only
  rw [Dev.flw_eq]
  exact ⟨rfl, rfl, rfl⟩

theorem Dev.top_wdRecorded : (d.wdRecorded cause).rd rTopStatus = d.rd rTopStatus :=
  (Dev.rd_ledger _ _ _ _ _ _).trans (d.rd_flw 5 0x31 _ _ (by decide) (by decide) (by decide))

theorem Dev.top_wdMarked : (d.wdMarked cause).rd rTopStatus = setFld 10 7 cause (setBit 6 true (d.rd rTopStatus)) := d.rd_wr_same _ _

theorem sameCtrls_wdRecorded : SameCtrls d (d.wdRecorded cause) := sameCtrls_of_mem (d.wdRecorded_still cause).2.1

/-- A withdrawal gives no fenced controller back. -/
theorem sameCtrls_withdraw : SameCtrls d (d.withdraw cause) := by
  cases h : bitOf 6 (d.rd rTopStatus) with
  | true => rw [d.withdraw_again cause h]; exact .refl d
  | false =>
    rw [d.withdraw_first cause h]
    have hmarked : SameCtrls d (d.wdMarked cause) := rfl
    exact (hmarked.trans (sameCtrls_foldl _ (fun d q => sameCtrls_flush d q 0) _ _)).trans (sameCtrls_wdRecorded _ _)

end Withdraw

end Sys2Proof.Machine

namespace Sys2Proof.Machine

/-! ### An HBM controller that fails (R174) -/

section CtrlFault

variable (d : Dev) (c : Nat)

/-- The device in which controller `c` is fenced and SCRUB_ACTIVE of its stack's page follows. -/
def Dev.ctrlFault : Dev := (d.fenceCtrl c).scrubStat (8 + (ctrlStack c).1)

/-- What a command finds fenced when it withdraws the device with `cause`. -/
def Dev.faultOf (cause : Fin 9) : Option (Fin 24) → Dev
  | some c => if cause.val = 1 then d.ctrlFault c else d
  | none => d

/-- The device that `fenceCtrl` makes: the controller is in the list, and its stack's page shows the fence. -/
def Dev.ctrlMarked : Dev :=
  ({ d with mem := { d.mem with ctrlFenced := insNat c d.mem.ctrlFenced } } : Dev).wrFld (pgReg (8 + (ctrlStack c).1) 0) 2 2 1

theorem Dev.ctrlFault_eq : ∃ v, d.ctrlFault c =
    ((d.ctrlMarked c).rangeEnd (8 + (ctrlStack c).1)).wrFld (pgReg (8 + (ctrlStack c).1) 0) 0 0 v := ⟨_, rfl⟩

theorem stackPage_lt : 8 + (ctrlStack c).1 < 20 := Nat.add_lt_add_left (ctrlStack_lt c) 8

theorem Dev.tier_rangeEnd (pg : Nat) : (d.rangeEnd pg).tier = d.tier := by
  obtain he | ⟨m, v, he⟩ := d.rangeEnd_cases pg <;> rw [he]
  rfl

theorem sameCtrls_rangeEnd (pg : Nat) : SameCtrls d (d.rangeEnd pg) := by
  unfold Dev.rangeEnd
  split <;> rfl

theorem Dev.ctrlFault_still : (d.ctrlFault c).rd rTopStatus = d.rd rTopStatus ∧ (d.ctrlFault c).tier = d.tier := by
  have hne : rTopStatus ≠ pgReg (8 + (ctrlStack c).1) 0 := by unfold rTopStatus pgReg; split <;> omega
  have htop : ¬apartReg rTopStatus := fun h => h.1 rfl
  obtain ⟨v, he⟩ := d.ctrlFault_eq c
  rw [he]
  constructor
  · rw [Dev.rd_wrFld, if_neg hne, Dev.rd_rangeEnd _ (stackPage_lt c) htop hne]
    exact Dev.rd_wr_ne _ _ hne
  · exact (Dev.tier_rangeEnd _ _)

theorem Dev.bitOf_ctrlFault : bitOf 2 ((d.ctrlFault c).rd (pgReg (8 + (ctrlStack c).1) 0)) = true := by
  obtain ⟨v, he⟩ := d.ctrlFault_eq c
  rw [he, Dev.rd_wrFld, if_pos rfl, bitOf_setFld_ne _ _ _ _ _ (by decide), Dev.bitOf_rangeEnd _ (stackPage_lt c) (by decide),
    Dev.ctrlMarked, Dev.rd_wrFld, if_pos rfl]
  exact bitOf_setBit_same 2 true _ (by decide)

theorem Dev.fenced_ctrlFault : c ∈ (d.ctrlFault c).mem.ctrlFenced := by
  obtain ⟨v, he⟩ := d.ctrlFault_eq c
  have hend : ((d.ctrlMarked c).rangeEnd (8 + (ctrlStack c).1)).mem.ctrlFenced = insNat c d.mem.ctrlFenced := sameCtrls_rangeEnd _ _
  rw [he, Dev.wrFld_mem, hend]
  exact mem_insNat.mpr (.inl rfl)

theorem Dev.faultOf_still (cause : Fin 9) (ctrl : Option (Fin 24)) :
    (d.faultOf cause ctrl).rd rTopStatus = d.rd rTopStatus ∧ (d.faultOf cause ctrl).tier = d.tier := by
  unfold Dev.faultOf
  split
  · split
    · exact d.ctrlFault_still _
    · exact ⟨rfl, rfl⟩
  · exact ⟨rfl, rfl⟩

/-- A fenced controller's scrubber does not run. -/
theorem Dev.scrubOn_fenced {c : Nat} (h : c ∈ d.mem.ctrlFenced) : d.scrubOn (8 + c) = false := by
  unfold Dev.scrubOn
  rw [if_neg (by omega), Nat.add_sub_cancel_left, List.contains_iff_mem.mpr h, Bool.not_true, Bool.and_false]

/-- A withdrawal leaves the fence bit of a page. -/
theorem Dev.bitOf_page_withdraw (cause : Nat) {pg : Nat} (hpg : pg < 20) : (d.withdraw cause).rd (pgReg pg 0) = d.rd (pgReg pg 0) := by
  have hfirst : ¬apartReg (pgReg pg 0) := by unfold apartReg pgReg; split <;> omega
  obtain ⟨-, he⟩ | hk := d.withdraw_cases cause
  · rw [he]
  · exact (hk _ hfirst).trans (Dev.rd_wr_ne _ _ (by unfold rTopStatus pgReg; split <;> omega))

end CtrlFault

end Sys2Proof.Machine

namespace Sys2Proof.Proofs
open Sys2Proof.Machine Sys2Proof.Safety

section Withdraw

variable {s : State} {k : Fin 9} {ctrl : Option (Fin 24)}

/-- The copies in TOP_STATUS leave the cause of a withdrawal alone. -/
theorem cause_refresh (d : Dev) : d.refresh.rdFld rTopStatus 10 7 = d.rdFld rTopStatus 10 7 := by
  rw [Dev.rdFld, Dev.rd_refresh_top, Dev.topWord, fld_setFld_ne _ _ _ _ _ _ (by decide), fld_setBit_ne _ _ _ _ _ (by decide),
    fld_setBit_ne _ _ _ _ _ (by decide), Dev.rdFld]

theorem does_deviceWithdraw : Does (.deviceWithdraw ⟨k, ctrl⟩) s ((s.dev.faultOf k ctrl).withdraw k) := by
  cases ctrl with
  | none => exact does_of_run (f := fun d => d.withdraw k.val) rfl rfl
  | some c =>
    refine does_of_run (f := fun d => if k = 1 then (d.ctrlFault c).withdraw 1 else d.withdraw k.val) rfl ?_
    dsimp only [Dev.faultOf]
    by_cases h : k = 1
    · subst h; rfl
    · rw [if_neg h, if_neg (c := k.val = 1) fun hv => h (Fin.ext hv)]

theorem does_deviceWithdraw_first (h : bitOf 6 (s.dev.rd rTopStatus) = false) : Does (.deviceWithdraw ⟨k, ctrl⟩) s
    ((((s.dev.faultOf k ctrl).wdMarked k).queuesFlushed).wdRecorded k) :=
  Dev.withdraw_first _ k ((congrArg (bitOf 6) (s.dev.faultOf_still k ctrl).1).trans h) ▸ does_deviceWithdraw

theorem does_deviceWithdraw_again (h : bitOf 6 (s.dev.rd rTopStatus) = true) : Does (.deviceWithdraw ⟨k, ctrl⟩) s (s.dev.faultOf k ctrl) :=
  Dev.withdraw_again _ k ((congrArg (bitOf 6) (s.dev.faultOf_still k ctrl).1).trans h) ▸ does_deviceWithdraw

/-- With no queue enabled, a withdrawal changes memory and queues no more than the controller's fence does. -/
theorem runs_deviceWithdraw (h : bitOf 6 (s.dev.rd rTopStatus) = false) (hq : ((s.dev.faultOf k ctrl).wdMarked k).enabledQueues = []) :
    Runs (.deviceWithdraw ⟨k, ctrl⟩) s fun t => t.withdrawn = true ∧ t.rdFld rTopStatus 10 7 = k.val ∧
      t.mem = (s.dev.faultOf k ctrl).mem ∧ t.queue = (s.dev.faultOf k ctrl).queue := by
  have hdoes := does_deviceWithdraw_first (k := k) (ctrl := ctrl) h
  rw [Dev.queuesFlushed, hq] at hdoes
  have htier := (s.dev.faultOf_still k ctrl).2
  generalize s.dev.faultOf k ctrl = d at hdoes htier ⊢
  have htop := ((d.wdMarked k).top_wdRecorded k).trans (d.top_wdMarked k)
  obtain ⟨hstill, hmem, hqueue⟩ := (d.wdMarked k).wdRecorded_still k
  refine runs_of_does hdoes (congrArg TierSt.stall (hstill.trans htier)) ⟨?_, ?_, hmem, hqueue⟩
  · rw [Dev.withdrawn, bitOf_refresh_top _ (.inl rfl)]
    refine (congrArg (bitOf 6) htop).trans ?_
    rw [bitOf_setFld_ne _ _ _ _ _ (by decide), bitOf_setBit_same _ _ _ (by decide)]
  · rw [cause_refresh]
    refine (congrArg (fld 10 7) htop).trans ?_
    rw [fld_setFld_same _ _ _ _ (by decide)]
    omega

/-- Withdrawing for an HBM controller fences it. -/
theorem runsOrWaits_deviceWithdraw_ctrl {c : Fin 24} (hk : k.val = 1) : RunsOrWaits (.deviceWithdraw ⟨k, some c⟩) s fun t =>
    t.scrubOn (8 + c) = false ∧ bitOf 2 (t.rd (pgReg (8 + (ctrlStack c).1) 0)) = true := by
  have hfault : s.dev.faultOf k (some c) = s.dev.ctrlFault c := if_pos hk
  have hpg := stackPage_lt c
  refine ⟨_, hfault ▸ does_deviceWithdraw, fun _ => ⟨Dev.scrubOn_fenced _ ?_, ?_⟩⟩
  · rw [Dev.refresh_mem]
    exact (sameCtrls_withdraw (s.dev.ctrlFault c) k).symm ▸ s.dev.fenced_ctrlFault c
  · rw [Dev.rd_refresh_far _ (by unfold pgReg; split <;> omega), Dev.bitOf_page_withdraw _ _ hpg]
    exact s.dev.bitOf_ctrlFault c

end Withdraw

end Sys2Proof.Proofs

namespace Sys2Proof.Machine

/-! ### What the end of a holdover takes down (R319) -/

/-- From `d` to `t` CLK_STATUS and the states of the ports in `keep` are as they were. -/
structure PortsKept (keep : Nat → Prop) (d t : Dev) : Prop where
  clk : t.rd rClkStatus = d.rd rClkStatus
  state : ∀ q < 24, keep q → t.portState q = d.portState q

section Ports

variable {keep : Nat → Prop}

theorem PortsKept.trans {a b c : Dev} (h : PortsKept keep a b) (k : PortsKept keep b c) : PortsKept keep a c :=
  ⟨k.clk.trans h.clk, fun q hq hk => (k.state q hq hk).trans (h.state q hq hk)⟩

theorem not_recvReg_clkStatus : ¬recvReg rClkStatus := by
  unfold recvReg noteReg sentReg
  decide

theorem Receives.portsKept {d t : Dev} (h : Receives d t) : PortsKept keep d t :=
  ⟨h.rd _ not_recvReg_clkStatus, fun _ hq _ => Dev.portState_congr (h.rd _ (not_recvReg_lnkStatus hq))⟩

theorem Notes.portsKept {d t : Dev} (h : Notes d t) : PortsKept keep d t := h.receives.portsKept

theorem portsKept_of_regs {d t : Dev} (h : t.regs = d.regs) : PortsKept keep d t :=
  ⟨congrArg (sget resetOf · _) h, fun _ _ _ => congrArg (fun l => fld 2 0 (sget resetOf l _)) h⟩

theorem rClkStatus_ne_lnkStatus (q : Nat) (hq : q < 24) : rClkStatus ≠ rLnkStatus q := by unfold rClkStatus rLnkStatus; omega

theorem rLnkStatus_inj {p q : Nat} : rLnkStatus p = rLnkStatus q ↔ p = q := by unfold rLnkStatus; omega

/-- FAILOVER changes no state. -/
theorem portsKept_failStat (d : Dev) : PortsKept keep d d.failStat := by
  unfold Dev.failStat Dev.each
  refine List.foldlRecOn (motive := PortsKept keep d) _ _ ⟨rfl, fun _ _ _ => rfl⟩ fun t h q hq => h.trans ⟨?_, fun r _ _ => ?_⟩
  · exact Dev.rd_wr_ne _ _ (rClkStatus_ne_lnkStatus q (List.mem_range.mp hq))
  · rw [Dev.portState, Dev.portState, Dev.rdFld, Dev.rdFld, Dev.rd_wr]
    split
    · next h =>
      rw [fld_setBit_ne _ _ _ _ _ (by decide), ← h]
      rfl
    · rfl

theorem portsKept_setPartner (d : Dev) (c : Nat) (e : PartnerSt) : PortsKept keep d (d.setPartner c e) :=
  (portsKept_of_regs (d := d) (t := d.withPartner c e) rfl).trans (notes_setPartner d c e).portsKept

theorem portsKept_reroute (d : Dev) (p : Nat) : PortsKept keep d (d.reroute p) := by
  unfold Dev.reroute Dev.each
  exact List.foldlRecOn (motive := PortsKept keep d) _ _ (portsKept_of_regs rfl) fun t h o _ =>
    h.trans (sends_sendTo t o).receives.portsKept

/-- Setting a port's state sets that port's, and no other's. -/
theorem Dev.setPortState_state (d : Dev) {p s : Nat} (hp : p < 24) (hs : s < 8) :
    PortsKept (· ≠ p) d (d.setPortState p s) ∧ (d.setPortState p s).portState p = s := by
  have hw : PortsKept (· ≠ p) d (d.wrFld (rLnkStatus p) 2 0 s) :=
    ⟨Dev.rd_wr_ne _ _ (rClkStatus_ne_lnkStatus p hp), fun q _ hq =>
      Dev.portState_congr (Dev.rd_wr_ne _ _ fun h => hq (rLnkStatus_inj.mp h))⟩
  have hset : (d.wrFld (rLnkStatus p) 2 0 s).portState p = s := by
    rw [Dev.portState, Dev.rdFld, Dev.rd_wrFld, if_pos rfl, fld_setFld_same _ _ _ _ (by decide)]
    omega
  have hrest (k : Nat → Prop) : PortsKept k (d.wrFld (rLnkStatus p) 2 0 s) (d.setPortState p s) := by
    unfold Dev.setPortState
    dsimp only
    split
    · exact portsKept_failStat _
    · exact (portsKept_failStat _).trans (portsKept_setPartner _ _ _)
  exact ⟨hw.trans (hrest _), ((hrest fun _ => True).state p hp trivial).trans hset⟩

theorem portsKept_lnkErr (d : Dev) (p bit : Nat) : PortsKept keep d (d.lnkErr p bit) := by
  have hne (q : Nat) : rLnkStatus q ≠ rLnkErr p := by unfold rLnkStatus rLnkErr; omega
  exact ⟨Dev.rd_wr_ne _ _ (by unfold rClkStatus rLnkErr; omega), fun q _ _ => Dev.portState_congr (Dev.rd_wr_ne _ _ (hne q))⟩

/-- A port that goes down is DOWN, and the others stay as they are. -/
theorem Dev.portDown_state (d : Dev) {p : Nat} (hp : p < 24) : PortsKept (· ≠ p) d (d.portDown p) ∧ (d.portDown p).portState p = 0 := by
  unfold Dev.portDown
  dsimp only
  split
  · next h => exact ⟨portsKept_of_regs rfl, h⟩
  · obtain ⟨hset, hzero⟩ := (d.lnkErr p 3).setPortState_state hp (s := 0) (by decide)
    have hrest (k : Nat → Prop) (t : Dev) (c n : Nat) : PortsKept k t (((t.colEvent 4 c p n).ledger 8 (portSrc p) 0 0 0).reroute p) :=
      ((notes_colEvent _ _ _ _ _).portsKept.trans (memOnly_ledger _ _ _ _ _ _).notes.portsKept).trans (portsKept_reroute _ _)
    exact ⟨((portsKept_lnkErr d p 3).trans hset).trans (hrest _ _ _ _), ((hrest (fun _ => True) _ _ _).state p hp trivial).trans hzero⟩

/-- Ports that go down one after another are all DOWN. -/
theorem Dev.portsDown_state (l : List Nat) (hl : ∀ p ∈ l, p < 24) (d : Dev) :
    (d.each l Dev.portDown).rd rClkStatus = d.rd rClkStatus ∧ ∀ q < 24, q ∈ l ∨ d.portState q = 0 → (d.each l Dev.portDown).portState q = 0 := by
  induction l generalizing d with
  | nil => exact ⟨rfl, fun q _ h => h.resolve_left List.not_mem_nil⟩
  | cons p l ih =>
    obtain ⟨hkept, hzero⟩ := d.portDown_state (hl p List.mem_cons_self)
    obtain ⟨hclk, hall⟩ := ih (fun q hq => hl q (List.mem_cons_of_mem p hq)) (d.portDown p)
    refine ⟨hclk.trans hkept.clk, fun q hq h => hall q hq ?_⟩
    by_cases hqp : q = p
    · exact .inr (hqp ▸ hzero)
    · exact h.imp (fun hm => (List.mem_cons.mp hm).resolve_left hqp) (hkept.state q hq hqp).trans

/-- A PCIe port that goes down is down; CLK_STATUS stays. -/
theorem Dev.pciDown_state (d : Dev) {p : Nat} (hp : p < 2) : (d.pciDown p).rd rClkStatus = d.rd rClkStatus ∧ (d.pciDown p).linkUp p = false := by
  have hne {off : Nat} (h : off < 0x16000000 ∨ off = rPciStatus p) (t : Dev) (a : Nat) : (t.pciErr p 1 a).rd off = t.rd off := by
    have h1 : off ≠ rPciErr p := by unfold rPciStatus at h; unfold rPciErr; omega
    have h2 : off ≠ rPciErrAddrLo p := by unfold rPciStatus at h; unfold rPciErrAddrLo; omega
    have h3 : off ≠ rPciErrAddrLo p + 4 := by unfold rPciStatus at h; unfold rPciErrAddrLo; omega
    unfold Dev.pciErr
    obtain he | he := t.raise_cases (rPciErr p) 1 (fun d => d.wr64 (rPciErrAddrLo p) a) <;> rw [he]
    · exact ((Dev.rd_wr_ne _ _ h3).trans (Dev.rd_wr_ne _ _ h2)).trans (Dev.rd_wr_ne _ _ h1)
    · exact Dev.rd_wr_ne _ _ h1
  unfold Dev.pciDown
  split
  · refine ⟨(hne (.inl (by decide)) _ _).trans (Dev.rd_wr_ne _ _ (by unfold rClkStatus rPciStatus; omega)), ?_⟩
    rw [Dev.linkUp, hne (.inr rfl), Dev.rd_wr_same]
    decide
  · next h => exact ⟨rfl, Bool.eq_false_iff.mpr h⟩

end Ports

/-! ### The end of a holdover (R317, R319) -/

section HoldEnd

variable (d : Dev) (n : Nat)

/-- What the end of a holdover of reference `n` takes down. -/
def Dev.refDown : Dev :=
  if n = 2 || n = 3 then d.pciDown (n - 2)
  else if n = 4 || n = 5 then d.each (rangeFrom (12 * (n - 4)) 12) Dev.portDown
  else d

theorem Dev.holdEnd_none (h : d.refHold n = false) : d.holdEnd n = d := by
  unfold Dev.holdEnd Dev.clkHoldEnd
  rw [h]
  rfl

/-- A reference in holdover is marked lost, and what is recorded follows SYSSEL. -/
theorem Dev.clkHoldEnd_held (h : d.refHold n = true) : d.clkHoldEnd n =
    if 2 ≤ n then (true, (d.marked n true).flw 5 1 (clkSrc n) 0)
    else if (d.marked n true).rdFld rClkStatus 1 0 = 2 then (true, (((d.marked n true).clkErr 2).flw 5 2 (clkSrc n) 0).withdraw 4)
    else if (d.marked n true).rdFld rClkStatus 1 0 ≠ d.rdFld rClkStatus 1 0 then (true, ((d.marked n true).clkErr 0).flw 5 0 (clkSrc n) 0)
    else (true, (d.marked n true).flw 5 1 (clkSrc n) 0) := by
  unfold Dev.clkHoldEnd
  rw [h]
  rfl

theorem Dev.holdEnd_of_clkHoldEnd {t : Dev} (h : d.clkHoldEnd n = (true, t)) : d.holdEnd n = t.refDown n := by
  unfold Dev.holdEnd
  rw [h]
  rfl

/-- The PLLs that fall back to the internal oscillator withdraw the device. -/
theorem Dev.holdEnd_internal (h : d.refHold n = true) (hn : n < 2) (hsel : (d.marked n true).rdFld rClkStatus 1 0 = 2) :
    d.holdEnd n = (((d.marked n true).clkErr 2).flw 5 2 (clkSrc n) 0).withdraw 4 := by
  refine (d.holdEnd_of_clkHoldEnd n ((d.clkHoldEnd_held n h).trans ((if_neg (by omega)).trans (if_pos hsel)))).trans ?_
  rw [Dev.refDown, if_neg (by simp; omega), if_neg (by simp; omega)]

/-- Otherwise the reference is LOST, SYSSEL follows, and what the reference came by goes down. -/
theorem Dev.holdEnd_lost (h : d.refHold n = true) (hsel : 2 ≤ n ∨ (d.marked n true).rdFld rClkStatus 1 0 ≠ 2) :
    ∃ t : Dev, d.holdEnd n = t.refDown n ∧ t.rd rClkStatus = (d.marked n true).rd rClkStatus := by
  have hflw (t : Dev) (a b : Nat) : (t.flw 5 a b 0).rd rClkStatus = t.rd rClkStatus := t.rd_flw 5 a b 0 (by decide) (by decide) (by decide)
  have herr (t : Dev) (b : Nat) : (t.clkErr b).rd rClkStatus = t.rd rClkStatus := Dev.rd_wr_ne _ _ (by decide)
  have hend := d.clkHoldEnd_held n h
  split at hend
  · exact ⟨_, d.holdEnd_of_clkHoldEnd n hend, hflw _ _ _⟩
  · next h2 =>
    rw [if_neg (hsel.resolve_left h2)] at hend
    split at hend
    · exact ⟨_, d.holdEnd_of_clkHoldEnd n hend, (hflw _ _ _).trans (herr _ _)⟩
    · exact ⟨_, d.holdEnd_of_clkHoldEnd n hend, hflw _ _ _⟩

theorem Dev.refDown_state {n : Nat} (h : n < 6) : (d.refDown n).rd rClkStatus = d.rd rClkStatus ∧
    (∀ q < 2, n = 2 + q → (d.refDown n).linkUp q = false) ∧ ∀ q < 24, n = 4 + q / 12 → (d.refDown n).portState q = 0 := by
  unfold Dev.refDown
  split
  · next hn =>
    have hn : n = 2 ∨ n = 3 := by simpa using hn
    obtain ⟨hclk, hdown⟩ := d.pciDown_state (p := n - 2) (by omega)
    refine ⟨hclk, fun q _ hq => ?_, fun q _ hq => by omega⟩
    rwa [hq, Nat.add_sub_cancel_left] at hdown ⊢
  · split
    · next hn =>
      have hn : n = 4 ∨ n = 5 := by simpa using hn
      obtain ⟨hclk, hall⟩ := Dev.portsDown_state (rangeFrom (12 * (n - 4)) 12) (fun p hp => by rw [mem_rangeFrom] at hp; omega) d
      exact ⟨hclk, fun q _ hq => by omega, fun q hq hn => hall q hq (.inl (mem_rangeFrom.mpr (by omega)))⟩
    · next h2 h4 =>
      have h2 : ¬(n = 2 ∨ n = 3) := by simpa using h2
      have h4 : ¬(n = 4 ∨ n = 5) := by simpa using h4
      exact ⟨rfl, fun q _ hq => by omega, fun q _ hq => by omega⟩

end HoldEnd

end Sys2Proof.Machine

namespace Sys2Proof.Proofs
open Sys2Proof.Machine Sys2Proof.Safety

section Holdover

variable {s : State} {n : Fin 6}

theorem does_clkHoldoverEnd : Does (.clkHoldoverEnd n) s (s.dev.holdEnd n) := does_of_run (f := fun d => d.holdEnd n.val) rfl rfl

theorem runsOrWaits_clkHoldoverEnd_lost (h : s.dev.refHold n = true)
    (hsel : 2 ≤ n.val ∨ (s.dev.marked n true).rdFld rClkStatus 1 0 ≠ 2) : RunsOrWaits (.clkHoldoverEnd n) s fun t =>
      t.refLost n = true ∧ t.refHold n = false ∧ (∀ m, m ≠ n.val → m < 6 → t.refLost m = s.dev.refLost m) ∧
      t.rdFld rClkStatus 1 0 = t.selected (s.dev.rdFld rClkStatus 1 0) ∧
      (∀ q < 2, n.val = 2 + q → t.linkUp q = false) ∧ ∀ q < 24, n.val = 4 + q / 12 → t.portState q = 0 := by
  obtain ⟨t, hend, hrd⟩ := s.dev.holdEnd_lost n h hsel
  obtain ⟨hdown, hlink, hport⟩ := t.refDown_state n.isLt
  have hclk : (t.refDown n).refresh.rd rClkStatus = (s.dev.marked n true).rd rClkStatus :=
    (Dev.rd_refresh_far _ (by decide)).trans (hdown.trans hrd)
  refine ⟨_, hend ▸ does_clkHoldoverEnd, fun _ => ⟨?_, ?_, fun m hm _ => ?_, ?_, fun q hq hn => ?_, fun q hq hn => ?_⟩⟩
  · exact (Dev.refLost_congr hclk _).trans (Dev.refLost_marked _ _ _ n.isLt)
  · exact (Dev.refHold_congr hclk _).trans (Dev.refHold_marked _ _ _ n.isLt)
  · exact (Dev.refLost_congr hclk _).trans (Dev.refLost_marked_ne _ _ _ n.isLt hm)
  · exact (Dev.sel_congr hclk).trans ((Dev.rdFld_marked _ _ _).trans (Dev.selected_congr hclk _).symm)
  · exact (congrArg (bitOf 9) (Dev.rd_refresh_far _ (by unfold rPciStatus; omega))).trans (hlink q hq hn)
  · exact (Dev.portState_congr (Dev.rd_refresh_far _ (by unfold rLnkStatus; omega))).trans (hport q hq hn)

end Holdover

/-- Settles O41: a withdrawal leaves the controllers that are fenced, and what a holdover's end takes down leaves CLK_STATUS. -/
theorem devicesWithdrawAndHoldoversEnd : Obligations.DevicesWithdrawAndHoldoversEnd := by
  unfold Obligations.DevicesWithdrawAndHoldoversEnd
  intro s k ctrl c n d w v cur x
  have hw : s.dev.rd rTopStatus = d.rd rTopStatus := (s.dev.faultOf_still k ctrl).1.symm
  have hv : v = d.wdMarked k := by
    unfold Dev.wdMarked
    rw [← hw]
  rw [hv]
  refine ⟨does_deviceWithdraw_first, does_deviceWithdraw_again, runs_deviceWithdraw, ?_, fun h => ?_, fun h ⟨hn, hsel⟩ => ?_,
    runsOrWaits_clkHoldoverEnd_lost⟩
  · rintro hk rfl
    exact runsOrWaits_deviceWithdraw_ctrl hk
  · exact s.dev.holdEnd_none n h ▸ does_clkHoldoverEnd
  · exact s.dev.holdEnd_internal n h hn hsel ▸ does_clkHoldoverEnd

end Sys2Proof.Proofs
